-- ==== Sys2Proof/Word.lean ====
section
/-!
DEFINITION. Words of the Lavor module and their plainest arithmetic.
Registers are 64 bits wide (R12); multi-byte values are little-endian (R8); bit 0 is the least significant (R8).
-/

namespace Sys2Proof

/-- One byte. -/
abbrev Byte := BitVec 8

/-- A control-space register, or a scalar core register (R12, R185). -/
abbrev W64 := BitVec 64

/-- A 32-bit vector lane or an FP32 encoding (R182, R57). -/
abbrev W32 := BitVec 32

/-- Bits [hi:lo] of a word as a number (R8). -/
def fieldOf (w : W64) (hi lo : Nat) : Nat := w.toNat / 2 ^ lo % 2 ^ (hi + 1 - lo)

/-- A word with bits [hi:lo] replaced by `v` taken modulo the field's width. -/
def withField (w : W64) (hi lo v : Nat) : W64 :=
  BitVec.ofNat 64 (w.toNat - fieldOf w hi lo * 2 ^ lo + v % 2 ^ (hi + 1 - lo) * 2 ^ lo)

/-- The number whose little-endian bytes are given (R8). -/
def leNat : List Byte → Nat
  | [] => 0
  | b :: bs => b.toNat + 256 * leNat bs

/-- The `n` little-endian bytes of a number, taken modulo `256 ^ n` (R8). -/
def leBytes : Nat → Nat → List Byte
  | 0, _ => []
  | n + 1, v => BitVec.ofNat 8 v :: leBytes n (v / 256)

/-- The signed value of the low `w` bits of a number, two's complement. -/
def signed (w v : Nat) : Int :=
  if v % 2 ^ w < 2 ^ (w - 1) then (v % 2 ^ w : Nat) else (v % 2 ^ w : Nat) - (2 ^ w : Nat)

/-- The `w`-bit two's-complement encoding of an integer, as a number. -/
def unsigned (w : Nat) (i : Int) : Nat := (i % (2 ^ w : Nat)).toNat

/-- `a ÷ b` rounded up. -/
def ceilDiv (a b : Nat) : Nat := (a + b - 1) / b

/-- `a` rounded up to a multiple of `b`. -/
def alignUp (a b : Nat) : Nat := ceilDiv a b * b

/-- An integer limited to lie from `lo` to `hi`. -/
def clampInt (lo hi x : Int) : Int := max lo (min hi x)

end Sys2Proof
end

