-- ==== Sys2Proof/Config.lean ====
section
/-!
DEFINITION. What the manual leaves open, as constants without a body: nothing can be proved about them, so a statement
that holds of the model holds whatever they are. Free values are applied to `State.free`, a plain counter that every
draw advances (log entry 2). Functions of operands stand for results that the manual bounds but does not state.
-/

namespace Sys2Proof.Config

/-- A fresh natural number: measured times, random values and other values that the manual does not state (log 2). -/
opaque freeNat : Nat → Nat

/-- A byte whose contents the manual calls undefined: the loss's stamp and the module address (R256, R371, Table 14.5; log 6). -/
opaque freeByte : Nat → Nat → BitVec 8

/-- The body of a calibration set's record for its values (kind, macro, unit, value): R141 states its digest and not its bytes (log 94). -/
opaque calBody : List (Nat × Nat × Nat × Rat) → List (BitVec 8)

/-- The body of a repair map record: die, kind, macro, layer, column (R155 states its digest and not its bytes; log 94). -/
opaque repairBody : List Nat → List (BitVec 8)

/-- The analogue error of one converter code, in codes (R84, R120 bound its mean and RMS only; log 7). -/
opaque analogError : Nat → Int

/-- The hardware's own answer of an approximated function of Table 6.9 at an ordinary operand; the model holds it to the bound of R183
(log 8). -/
opaque approx : Nat → BitVec 32 → BitVec 32

/-- Which exception flags an approximated function raises (R183 does not state them; log 8). -/
opaque approxFlags : Nat → BitVec 32 → BitVec 5

/-- The hardware's own answer of a drain derivative of Table 7.5; the model holds it to the bound of R201 (log 8). -/
opaque drainDeriv : Nat → BitVec 32 → BitVec 32

/-- Which partial sum a fast-mode addition takes next, the sums left to add being so many: the order is unspecified (R83; log 9). -/
opaque fastPick : Nat → Nat → Nat

/-- The draw of a stochastic rounding that R68 gives no element number: seed, epoch, lane, and the operation with its operands
(log 15). -/
opaque registerDraw : BitVec 64 → Nat → Nat → List Nat → Nat

/-- Whether an SLH-DSA-SHA2-128s signature checks: public key, signed bytes, signature (R427, FIPS 205; log 10). -/
opaque sigOk : List (BitVec 8) → List (BitVec 8) → List (BitVec 8) → Bool

/-- The SLH-DSA-SHA2-128f signature that the module makes: private key, signed bytes (R427; log 10). -/
opaque sign : List (BitVec 8) → List (BitVec 8) → List (BitVec 8)

/-- What each context was charged in an attribution interval: context, generation, modelled energy in µJ (R391, R392; log 2). -/
opaque attrShares : Nat → List (Nat × Nat × Nat)

/-- The module's random source: a 32-byte nonce (R343; log 2). -/
opaque nonce : Nat → List (BitVec 8)

/-- Whether a 64-bit scratchpad word, by its address, is uncorrectable when a sample copies it (R403; log 107). -/
opaque sampleBad : Nat → Nat → Bool

/-- SHA-256 of Tarytia's root public key, held in mask ROM (R428; log 10). -/
opaque rootKeyHash : List (BitVec 8)

/-- What the factory put into the journal and the parts list (log 3): 0 Tarytia's root public key, 1 the key of session slot 0, 2
DEVICE_PUBLIC, 3 the attestation private key, 4 the date of manufacture, 5 the IDENTITY record's signature, 6 and 7 the digests of
the GRADE and TRIM records, 8 the digest of the factory image, 9 VERSION and SEQ of the IDENTITY record. -/
opaque factory : Nat → List (BitVec 8)

/-- The expected BIST signature of a unit's segment, from the signed trim record (R411; log 11). -/
opaque bistSignature : Nat → Nat → BitVec 64

/-- What an optimiser makes of a weight's reduced gradient and moments in a step, all as FP32 codes: the new first and second moments, the
factor c of u = -c × m, and β1 ÷ (1 − β1) (R214 leaves the optimiser to the compiler; log 100). -/
opaque optim : Nat → Nat → Nat → Nat → Nat × Nat × Nat × Nat

/-- The service counter that the module's own requests on a queue pair signal, if any: R340 speaks of it, and no field names it
(log 105). -/
opaque roceCounter : Nat → Option Nat

/-- A value that the manual leaves open for these arguments: what a probe shows of an address that no die backs, the delta of a
weight whose residual has no quotient (log 2). -/
opaque openResult : Nat → Nat → Nat → Nat

end Sys2Proof.Config
end

