-- ==== Sys2Proof/Syntax.lean ====
section
/-!
DEFINITION. The commands of the Lavor module: one constructor for each row of spec/opcode_table.json, with the operands
that the row's event carries from outside the state. Indexes are plain numbers, checked in WellFormed.lean. A command
that ends a wait, a period or a measurement carries what was measured; that it arrives says that its time has come.
-/

namespace Sys2Proof

/-- Who performs a control-space access: a management session or a service cluster core (R38). -/
inductive Agent where
  | session (n : Nat)
  | core (k : Nat)
deriving DecidableEq, Repr

/-- The register prefixes of R11. -/
inductive Pfx where
  | blend | cap | tile | opq | sync | cask | cal | cwr | xfer | flink | rdc | eth | ses | pwr | hkc | bist | rst | snap
  | boot | att
deriving DecidableEq, Repr

/-- What a scrubber finds in a word or a block (R164, R257). -/
inductive EccOutcome where
  | clean
  | corrected
  | uncorrectable
deriving DecidableEq, Repr

/-- The operands of a custom-0 instruction (Table 6.9). For VEXTR, `vd` names x/f register rd and `vs2` register x[rs2];
for VBCAST, `vs1` names f[rs1]. -/
structure VArgs where
  vd : Nat
  vs1 : Nat
  vs2 : Nat
  masked : Bool
  rc : Nat
deriving DecidableEq, Repr

/-- The operands of a custom-2 instruction (Table 6.11). -/
structure VMem where
  v : Nat
  rs1 : Nat
  rs2 : Nat
  fmt : Nat
  rc : Nat
  masked : Bool
deriving DecidableEq, Repr

/-- What the error correction of a link reports with a flit (R276, R280): whether the codewords of the flit decoded, and the symbols
corrected and the codewords not decoded that have not been reported yet. -/
structure Fec where
  decoded : Bool
  corrected : Nat := 0
  lost : Nat := 0
deriving DecidableEq, Repr

/-- A flit (Table 10.3), its fields taken apart. -/
structure Flit where
  seq : Nat
  dest : Nat
  cls : Nat
  src : Nat
  first : Bool
  last : Bool
  type : Nat
  hops : Nat
  len : Nat
  ctx : Nat
  gen : Nat
  payload : List Byte
deriving DecidableEq, Repr

/-- A frame control word (Table 10.2). -/
structure CtlWord where
  ackSeq : Nat
  nak : Bool
  goingDark : Bool
  retrainReq : Bool
  senderLink : Nat
  senderId : Nat
  credits : List Nat
deriving DecidableEq, Repr

/-- What an Ethernet frame carries, as far as R331 to R335 tell frames apart. -/
inductive EthKind where
  | arp
  | neighbour
  | echo
  | fragment
  | synOther
  | mgmt
  | pfc (prio : Nat) (pause : Bool)
  | roce (qpn : Nat) (ce : Bool)
  | roceAbsent (qpn psn : Nat) (ce : Bool)
  | cnp (qpn : Nat)
  | other
deriving DecidableEq, Repr

/-- Which of the port's addresses a frame is for (Table 12.1). -/
inductive EthAddr where
  | v4
  | v6
  | linkLocal
deriving DecidableEq, Repr

/-- A received Ethernet frame; `bytes` is the length of its IP datagram, and `share` the byte share that its priority holds of the
receive buffer after it (R334). `roceAbsent` is a request for an operation that R336 leaves out. -/
structure EthFrame where
  vid : Nat
  pcp : Nat
  supported : Bool
  addr : EthAddr := .v4
  bytes : Nat := 0
  kind : EthKind
  share : Nat
deriving DecidableEq, Repr

/-- What arrives for a RoCEv2 request that the module originated (R340), with its packet sequence number: an acknowledgement, a NAK
of a request, the NAK of a receiver that is not ready, the NAK of a packet out of sequence, or read data. -/
inductive RoceReply where
  | ack (psn : Nat)
  | nak (psn : Nat)
  | rnr (psn : Nat)
  | seqNak (psn : Nat)
  | data (psn : Nat) (bytes : List Byte)
deriving DecidableEq, Repr

/-- One line reading of the open-line test (R123): codes with the pull-up on and with the pull-down on. -/
structure OltReading where
  layer : Nat
  row : Bool
  line : Nat
  up : Nat
  down : Nat
deriving DecidableEq, Repr

/-- One unit reading of a DAC test (R124, R389): unit or channel, DAC code, reading. -/
structure DacReading where
  unit : Nat
  code : Nat
  reading : Int
deriving DecidableEq, Repr

/-- The quantities that a calibration run measures (R131, R136). -/
inductive CalKind where
  | colGain | colOffset | colInl | rowGain | rowOffset | rowInl | driverGain | driverTrim | layerGain
deriving DecidableEq, Repr

/-- One measured calibration value: quantity, macro, unit index, value (R134). -/
structure CalValue where
  kind : CalKind
  mac : Nat
  unit : Nat
  value : Rat
deriving DecidableEq, Repr

/-- What the error correction met on a command's own reads (R164, R257, log 91): the words or blocks that it found uncorrectable, and one
address for each error that it corrected. -/
structure Ecc where
  ue : List Nat := []
  ce : List Nat := []
deriving DecidableEq, Repr

/-- One cell pair's verify reading, in 1/256 level (R146): column and achieved level. -/
structure CellReading where
  col : Nat
  achieved : Int
deriving DecidableEq, Repr

/-- A waiter on a sync counter (R240): a queue head, a scalar core, or a service cluster core. -/
inductive Waiter where
  | queue (tile q : Nat)
  | core (tile c : Nat)
  | service (k : Nat)
deriving DecidableEq, Repr

/-- One macro layer of a kind 1 layer, for the step driver (R211, R215): `share` is 0 for a layer that is not sharded, 1 on the owner
of a sharded macro layer, 2 on another member; `entry` is the index of the layer's record in the plan, and `word` the number of the
macro layer in the layer (R210); then the macro layer and where its buffers lie: those of its FLUSH, its reduced gradients and moments,
and for a sharded layer e′ of this member and the sum of every member's. `gate` is the counter that the arrival of the owner's delta map
signals on a member (R215 steps 2 and 3). -/
structure FlushTarget where
  share : Nat
  entry : Nat
  word : Nat
  die : Nat
  mac : Nat
  layer : Nat
  residual : Nat
  source : Nat
  levelmap : Nat
  scales : Nat
  errmap : Nat
  record : Nat
  grad : Nat := 0
  mom1 : Nat := 0
  mom2 : Nat := 0
  eprime : Nat := 0
  esum : Nat := 0
  gate : Nat := 0xFFFF
deriving DecidableEq, Repr

/-- BF16 weights in memory that the optimiser updates (R209, R214): the layer's record, the weights, their number, their reduced gradients
and their moments. -/
structure WeightTarget where
  entry : Nat
  addr : Nat
  count : Nat
  grad : Nat
  mom1 : Nat
  mom2 : Nat
deriving DecidableEq, Repr

/-- What an operation of the graph is for (Table 7.4, R206, R208, R215): a forward part of its layer; the up-projection of an adapter; an
input gradient; a weight-gradient product; a part of a deferred layer's product; a bucket contribution or the opening of a bucket;
movement of data; a vector kernel of the layer's own (R202); the owner's delta map on its way to the members; and the reduction of e′.
`n` numbers the part of a deferred product, or the macro layer among the graph's flushes. -/
inductive WorkRole where
  | forward | adapterUp | inputGrad | weightGrad
  | deferred (n : Nat)
  | bucket | move | kernel
  | shardSend (n : Nat)
  | shardSum (n : Nat)
deriving DecidableEq, Repr

/-- What the step driver has the vector unit do (R196, R204, R206, R208): the sum of `count` elements of the partial outputs at `parts`, in
the order of their row blocks or column blocks; the product of an adapter's h by ALPHA; the loss gradient by 2^S; the save of one
micro-batch's tokens of `row` bytes. -/
inductive VecWork where
  | sum (parts : List Nat) (out count : Nat)
  | scale (src out count : Nat)
  | seed (src out count : Nat)
  | save (src out row : Nat)
deriving DecidableEq, Repr

/-- One operation of a plan's graph: its number; the index of its layer's record; its micro-batch and part (R197); what it is for; the tile
and the queue that take it; its descriptor as the compiler wrote it, and for vector work what that does; the macro layer of its layer, or
the slots or the part of the layer's weight gradient, that it belongs to; the blocks of weights that it covers, each by macro layer and
mask bit (R210); the operations that come before it; the sync counter that orders the writers of one slot or sum (R199). -/
structure GraphNode where
  id : Nat
  entry : Nat
  batch : Nat
  backward : Bool
  role : WorkRole
  tile : Nat
  queue : Nat
  desc : BitVec 512
  vec : Option VecWork := none
  place : Nat := 0
  blocks : List (Nat × Nat) := []
  after : List Nat := []
  order : Option Nat := none
deriving DecidableEq, Repr

/-- What the compiler knows of a layer beside its record: its widths (for kind 4, M and N, with K as `inner`), the layers that consume its
output, the macro layers that hold it in row-block-major order, and the slots of its weight gradients with their tiles. -/
structure LayerShape where
  dIn : Nat
  dOut : Nat
  inner : Nat := 0
  consumers : List Nat := []
  places : List (Nat × Nat × Nat) := []
  slots : List (Nat × Nat × Nat) := []
deriving DecidableEq, Repr

/-- The operation graphs that are loaded with a plan (chapter 7; log 76): the tokens of each micro-batch, a shape for each record, the
operations, the macro layers with a residual, and the weights in memory. -/
structure Graph where
  tokens : List Nat := []
  shapes : List LayerShape := []
  nodes : List GraphNode := []
  flushes : List FlushTarget := []
  weights : List WeightTarget := []
deriving DecidableEq, Repr

/-- One context's modelled energy in an attribution interval (R392). -/
structure AttrShare where
  ctx : Nat
  gen : Nat
  modelUj : Nat
deriving DecidableEq, Repr

/-- The commands: the rows of spec/opcode_table.json, in the table's order but for those that sessions send, which stand together. -/
inductive Instr where
  | registerWrite (a : Agent) (addr size : Nat) (v ev : W64)
  | rcRegisterRead (a : Agent) (addr size : Nat) (ev : W64)
  | commitGo (p : Pfx) (inst : Nat)
  | commitCheckDone (p : Pfx) (inst : Nat)
  | blendCheck (apply : Bool)
  | blendCheckDone
  | blendApply (check : Bool)
  | blendQuiescePoint
  | blendNotQuiesced
  | blendCommitPoint
  | caskPass (t q : Nat) (e : Ecc)
  | caskLayerSwitchDone (die mac : Nat)
  | caskPassFire (die mac : Nat)
  | caskPhaseEnd (die mac : Nat) (e : Ecc)
  | caskAbort (die mac : Nat)
  | caskPassDone (t slot : Nat) (e : Ecc)
  | referencePhase (die mac : Nat)
  | caskOlt (die : Nat) (w : W64)
  | caskOltDone (die : Nat) (readings : List OltReading)
  | caskDacTest (die : Nat) (w : W64)
  | caskDacTestDone (die : Nat) (readings : List DacReading)
  | tileCringRptrWrite (t r : Nat) (v : W64)
  | calLoadDone (die : Nat) (badSets : List Nat)
  | calTempTrigger (die : Nat) (temp : Int)
  | calReqRun (die : Nat) (w : W64)
  | calRetry (die : Nat)
  | calVisit (die first : Nat) (values : List CalValue)
  | calRunEnd (die : Nat)
  | calReinterpolate (die : Nat) (temp : Int)
  | calValuesTakeEffect (die mac : Nat)
  | cwrFlush (die : Nat)
  | cwrLoad (die : Nat)
  | cwrResume (die : Nat)
  | cwrRepairColumn (die : Nat)
  | cwrRepairMacro (die : Nat)
  | cwrRepairReference (die : Nat)
  | cwrAdmit (die mac layer : Nat) (e : Ecc)
  | cwrTakeLayer (die mac layer : Nat) (e : Ecc)
  | cwrRow (die mac layer : Nat) (cells : List CellReading) (iters : Nat)
  | cwrRelease (die mac layer : Nat) (e : Ecc)
  | cwrTokenTick (die : Nat)
  | cwrGovernorSave
  | matrixOp (t q : Nat) (e : Ecc)
  | quadrantFault (t array quad : Nat)
  | scratchScrub (t addr : Nat) (o : EccOutcome)
  | vectorKernel (t q : Nat)
  | scalarKernel (t q : Nat)
  | kernelStart (t slot : Nat)
  | scalarInstruction (t c : Nat) (e : Ecc)
  | vadd (t c : Nat) (a : VArgs)
  | vsub (t c : Nat) (a : VArgs)
  | vmul (t c : Nat) (a : VArgs)
  | vdiv (t c : Nat) (a : VArgs)
  | vmin (t c : Nat) (a : VArgs)
  | vmax (t c : Nat) (a : VArgs)
  | vsqrt (t c : Nat) (a : VArgs)
  | vsgnj (t c : Nat) (a : VArgs)
  | vcvtif (t c : Nat) (a : VArgs)
  | vcvtfi (t c : Nat) (a : VArgs)
  | vand (t c : Nat) (a : VArgs)
  | vor (t c : Nat) (a : VArgs)
  | vxor (t c : Nat) (a : VArgs)
  | vsll (t c : Nat) (a : VArgs)
  | vsrl (t c : Nat) (a : VArgs)
  | vsra (t c : Nat) (a : VArgs)
  | viadd (t c : Nat) (a : VArgs)
  | vimul (t c : Nat) (a : VArgs)
  | vcmpeq (t c : Nat) (a : VArgs)
  | vcmplt (t c : Nat) (a : VArgs)
  | vcmple (t c : Nat) (a : VArgs)
  | vsel (t c : Nat) (a : VArgs)
  | vmov (t c : Nat) (a : VArgs)
  | vexp2 (t c : Nat) (a : VArgs)
  | vexp (t c : Nat) (a : VArgs)
  | vlog2 (t c : Nat) (a : VArgs)
  | vln (t c : Nat) (a : VArgs)
  | vrcp (t c : Nat) (a : VArgs)
  | vrsqrt (t c : Nat) (a : VArgs)
  | vtanh (t c : Nat) (a : VArgs)
  | vsigm (t c : Nat) (a : VArgs)
  | vgelu (t c : Nat) (a : VArgs)
  | vsilu (t c : Nat) (a : VArgs)
  | vsin (t c : Nat) (a : VArgs)
  | vcos (t c : Nat) (a : VArgs)
  | vrsum (t c : Nat) (a : VArgs)
  | vrmax (t c : Nat) (a : VArgs)
  | vbcast (t c : Nat) (a : VArgs)
  | vextr (t c : Nat) (a : VArgs)
  | vfma (t c : Nat) (a : VArgs) (vs3 : Nat)
  | vfms (t c : Nat) (a : VArgs) (vs3 : Nat)
  | vfnma (t c : Nat) (a : VArgs) (vs3 : Nat)
  | vld (t c : Nat) (m : VMem) (e : Ecc)
  | vst (t c : Nat) (m : VMem)
  | vldq (t c : Nat) (m : VMem) (e : Ecc)
  | vstq (t c : Nat) (m : VMem)
  | vgath (t c : Nat) (m : VMem) (e : Ecc)
  | vscat (t c : Nat) (m : VMem)
  | tsetvl (t c rd rs1 : Nat)
  | tsetblk (t c rs1 : Nat)
  | tsig (t c rs1 rs2 : Nat)
  | twait (t c rd rs1 rs2 : Nat)
  | tvfence (t c : Nat)
  | texit (t c rs1 : Nat)
  | tcore (t c rd : Nat)
  | opqTailWrite (t q : Nat) (v : W64)
  | descriptorFetch (t : Nat) (e : Ecc)
  | opComplete (t slot : Nat) (e : Ecc)
  | opqResume (t q : Nat)
  | opqSkip (t q : Nat)
  | opqSkipSignal (t q : Nat)
  | opqFlush (t q : Nat)
  | opqPreemptGo (t : Nat)
  | opqPreemptDone (t : Nat)
  | opqPreemptRelease (t : Nat)
  | signalArrive (id n : Nat)
  | syncCtrValueWrite (unit idx : Nat) (v : W64)
  | syncRearm (unit : Nat) (w : W64)
  | waiterWake (w : Waiter) (e : Ecc)
  | syncNop (t q : Nat)
  | syncSet (t q : Nat)
  | remoteAdd (t q : Nat)
  | fence (t q : Nat)
  | ctxOpen (inst : Nat) (w : W64)
  | ctxRetire (inst : Nat) (w : W64)
  | ctxQuery (inst : Nat) (w : W64)
  | ctxEdge (inst : Nat)
  | ctxDrained (c : Nat)
  | ctxDrainTimeout (c : Nat)
  | ctxQuarantineEnd (c : Nat)
  | xferProbe (inst : Nat) (v : W64)
  | dma (t q : Nat) (e : Ecc)
  | memScrub (addr : Nat) (o : EccOutcome)
  | write (link : Nat) (e : Ecc)
  | read (link : Nat) (e : Ecc)
  | answer (link : Nat) (e : Ecc)
  | syncAdd (link : Nat)
  | flitReceive (link : Nat) (bytes : List Byte) (fec : Fec)
  | controlWord (link : Nat) (bytes : List Byte)
  | lossOfLight (link : Nat)
  | lightArrive (link : Nat)
  | trainDone (link : Nat)
  | trainTimeout (link : Nat)
  | peerCheckDone (link id peerLink : Nat) (peerPassed : Bool)
  | frameLockLost (link : Nat)
  | fecUeLimit (link n : Nat)
  | heartbeatSend (link : Nat)
  | heartbeat (link : Nat)
  | flinkPeerSilent (link : Nat)
  | flinkAgedOut (link cls : Nat)
  | laserWaitDone (e : Nat)
  | flinkLaserFault (e : Nat)
  | ringTuneDone (e : Nat)
  | flinkRingTuneFail (e : Nat)
  | laserInsert (e : Nat)
  | laserRemove (e : Nat)
  | linkRetrain (link : Nat)
  | linkRestart (link : Nat)
  | engineRestart (e : Nat)
  | engineService (e : Nat)
  | engineServiceOff (e : Nat)
  | bucketOpen (t q : Nat)
  | bucketContribute (t q : Nat) (e : Ecc)
  | bucketFlush (t q : Nat)
  | reduce (link : Nat)
  | reduceAbort (link : Nat)
  | scale (link : Nat)
  | rdcLate (g b : Nat)
  | bucketComplete (g b : Nat)
  | ethFrame (f : EthFrame)
  | roceRateStep (qp : Nat)
  | rdmaWrite (qpn psn rkey va : Nat) (data : List Byte)
  | rdmaRead (qpn psn rkey va len : Nat)
  | send (qpn psn : Nat) (data : List Byte)
  | roceAck (qpn : Nat) (r : RoceReply)
  | roceRetryTimeout (qp : Nat)
  | ethLinkDown
  | ethLinkUp (ms : Nat)
  | tcpConnect (source : Nat)
  | sessionOpenTimeout (n : Nat)
  | openHello (n seq slot : Nat) (nonce : List Byte)
  | openProof (n seq : Nat) (proof : List Byte)
  | sesLockEnd (slot : Nat)
  | close (n seq : Nat)
  | ctlRead (n seq addr count : Nat)
  | ctlWrite (n seq addr : Nat) (v : W64)
  | memRead (n seq addr len : Nat) (e : Ecc)
  | memWrite (n seq addr : Nat) (data : List Byte) (e : Ecc)
  | planLoad (n seq addr report depth : Nat) (graph : Graph)
  | stepRun (n seq steps : Nat)
  | stepPause (n seq : Nat)
  | stepStop (n seq : Nat)
  | stepStatus (n seq : Nat)
  | lease (n seq : Nat)
  | svcConfig (n seq : Nat) (record : List Byte)
  | qpOpen (n seq : Nat) (body : List Byte)
  | qpClose (n seq qp : Nat)
  | eventSubscribe (n seq mask : Nat)
  | sesOpcode (n seq opcode magic len : Nat)
  | sesTimeout (n : Nat)
  | keepaliveProbe (n : Nat)
  | svcLeaseLapsed
  | healthDatagram
  | microBatchRelease (backward : Bool) (k : Nat)
  | svcInputStall
  | stepEnd
  | checkpointDone (ok : Bool)
  | rack (n seq id : Nat)
  | reset (n seq level unit : Nat)
  | logRead (n seq fromSeq count : Nat)
  | bistRun (n seq unit slices : Nat)
  | attReport (n seq : Nat) (nonce : List Byte)
  | attIdentity (n seq : Nat)
  | keyRotate (n seq slot : Nat) (masked tag : List Byte)
  | keyClear (n seq slot : Nat)
  | fwStage (n seq addr : Nat)
  | fwActivate (n seq bank : Nat)
  | netSet (n seq addr : Nat)
  | bootClear (n seq : Nat)
  | vkeySet (n seq addr : Nat)
  | inputSag (complete : Bool)
  | inputStable
  | pwrOvervoltage
  | pwrHoldupAbsent
  | capLoop (avgW : Nat)
  | capState (link : Nat)
  | envelopePeriod (duty : Nat)
  | pwrEnvelopeLost
  | pwrEnvelopeWrite (v : W64)
  | pwrThermalThrottle (unit : Nat)
  | pwrThermalTrip (unit : Nat) (complete : Bool)
  | pwrExtTherm (ix : Nat)
  | ballastUpdate (w bmax t : Nat)
  | droopTrip (isCask : Bool) (unit : Nat)
  | droopRecover (isCask : Bool) (unit : Nat)
  | hkcScan (codes : List Int) (energyUj : Nat)
  | hkcTest (w : W64)
  | hkcTestDone (readings : List DacReading)
  | hkcRingRptrWrite (v : W64)
  | attrInterval (shares : List AttrShare) (measuredUj : Nat)
  | pwrAttrMark (shares : List AttrShare) (measuredUj : Nat)
  | pwrAttrDrift (measuredUj modelUj : Nat)
  | pwrDomainCmd (w : W64)
  | domainSwitchDone (d : Nat)
  | idleDeep
  | deepIdleEntry
  | idleResume
  | resumeDone
  | hangDeadline (t slot : Nat) (others : List Nat) (e : Ecc)
  | hangWait (t q : Nat)
  | resetEngine (unit : Nat) (e : Ecc)
  | resetTile (unit : Nat)
  | resetOptical (unit : Nat)
  | resetPress (unit : Nat)
  | resetWarm
  | resetCold
  | resetDone (unit : Nat)
  | rstEscalated (unit : Nat)
  | safeStateDrain
  | bistVisit
  | bistQuiesced
  | bistQuiesceTimeout
  | bistSliceDone (signature : W64)
  | bistCmd (w : W64)
  | snapCmd (w : W64)
  | rackLatch
  | rackFlit (link : Nat)
  | snapIncomplete
  | rackImageWritten
  | logJournalCopy
  | logRptrWrite (v : W64)
  | resetInLow
  | resetInRise
  | bootStageRom
  | bootStagePower (refsOk testOk : Bool) (vinMv vholdMv : Nat)
  | bootStageImage
  | bootStageEthernet (bistFail : Option Nat)
  | bootStageUncore (trainFail : Option Nat)
  | bootStageSelftest (fail : Option (Nat × Nat))
  | bootStageCask (noSet : List Nat) (openLayers : List (Nat × OltReading))
  | bootStageOptical (faults : List Nat)
  | bootStageReady
  | bootStageTimeout
  | fwStageDone (n seq : Nat)
  | frameTransmit (link : Nat)
  | insertedDutySlot (slot : Nat)
deriving DecidableEq, Repr

end Sys2Proof
end

