-- ==== Sys2Proof/Decode.lean ====
section
/-!
DEFINITION. Commands spelled as table words. No row of spec/opcode_table.json gives bits: commands are events and register
accesses with operands of their own, so no word spells one.
-/

namespace Sys2Proof

/-- The command that a word spells by the table's bits: none, since no row gives bits. -/
def decodeTableWord (_nbits _w : Nat) : Option Instr := none

end Sys2Proof
end

