-- ==== Sys2Proof/Machine/Hash.lean ====
section
/-!
DEFINITION. SHA-256 and HMAC-SHA-256 over bytes, as the manual's digests, keys and image checks use them
(R33, R141, R156, R343, R427; FIPS 180-4, RFC 2104).
-/

namespace Sys2Proof.Machine

/-! The round constants of SHA-256, eight to a definition. -/

def shaRow0 : List (BitVec 32) :=
  [0x428a2f98, 0x71374491, 0xb5c0fbcf, 0xe9b5dba5, 0x3956c25b, 0x59f111f1, 0x923f82a4, 0xab1c5ed5]
def shaRow1 : List (BitVec 32) :=
  [0xd807aa98, 0x12835b01, 0x243185be, 0x550c7dc3, 0x72be5d74, 0x80deb1fe, 0x9bdc06a7, 0xc19bf174]
def shaRow2 : List (BitVec 32) :=
  [0xe49b69c1, 0xefbe4786, 0x0fc19dc6, 0x240ca1cc, 0x2de92c6f, 0x4a7484aa, 0x5cb0a9dc, 0x76f988da]
def shaRow3 : List (BitVec 32) :=
  [0x983e5152, 0xa831c66d, 0xb00327c8, 0xbf597fc7, 0xc6e00bf3, 0xd5a79147, 0x06ca6351, 0x14292967]
def shaRow4 : List (BitVec 32) :=
  [0x27b70a85, 0x2e1b2138, 0x4d2c6dfc, 0x53380d13, 0x650a7354, 0x766a0abb, 0x81c2c92e, 0x92722c85]
def shaRow5 : List (BitVec 32) :=
  [0xa2bfe8a1, 0xa81a664b, 0xc24b8b70, 0xc76c51a3, 0xd192e819, 0xd6990624, 0xf40e3585, 0x106aa070]
def shaRow6 : List (BitVec 32) :=
  [0x19a4c116, 0x1e376c08, 0x2748774c, 0x34b0bcb5, 0x391c0cb3, 0x4ed8aa4a, 0x5b9cca4f, 0x682e6ff3]
def shaRow7 : List (BitVec 32) :=
  [0x748f82ee, 0x78a5636f, 0x84c87814, 0x8cc70208, 0x90befffa, 0xa4506ceb, 0xbef9a3f7, 0xc67178f2]

/-- The round constants in their order. -/
def shaK : List (BitVec 32) := [shaRow0, shaRow1, shaRow2, shaRow3, shaRow4, shaRow5, shaRow6, shaRow7].flatten

/-- The eight working words of FIPS 180-4, section 6.2. -/
structure ShaWords where
  (a b c d e f g h : BitVec 32)

/-- The initial hash value. -/
def shaInit : ShaWords where
  a := 0x6a09e667
  b := 0xbb67ae85
  c := 0x3c6ef372
  d := 0xa54ff53a
  e := 0x510e527f
  f := 0x9b05688c
  g := 0x1f83d9ab
  h := 0x5be0cd19

/-- The words added one by one. -/
def ShaWords.plus (x y : ShaWords) : ShaWords where
  a := x.a + y.a
  b := x.b + y.b
  c := x.c + y.c
  d := x.d + y.d
  e := x.e + y.e
  f := x.f + y.f
  g := x.g + y.g
  h := x.h + y.h

/-- The digest that the words spell, big-endian. -/
def ShaWords.digest (x : ShaWords) : List Byte :=
  [x.a, x.b, x.c, x.d, x.e, x.f, x.g, x.h].flatMap fun w => (leBytes 4 w.toNat).reverse

/-- A word from four big-endian bytes. -/
def beWord (bs : List Byte) : BitVec 32 := BitVec.ofNat 32 (leNat bs.reverse)

/-- `n` big-endian bytes of a number. -/
def beBytes (n v : Nat) : List Byte := (leBytes n v).reverse

/-- The exclusive or of a word's right rotations by the amounts of a list. -/
def rotXor (rs : List Nat) (w : BitVec 32) : BitVec 32 := (rs.map w.rotateRight).foldl (· ^^^ ·) 0

/-- The message schedule, newest word first, with `n` more words: each is formed of the words 2, 7, 15 and 16 places back. -/
def shaExtend : Nat → List (BitVec 32) → List (BitVec 32)
  | 0, ws => ws
  | n + 1, ws =>
    let back := fun k => ws.getD (k - 1) 0
    let far := rotXor [7, 18] (back 15) ^^^ back 15 >>> 3
    let near := rotXor [17, 19] (back 2) ^^^ back 2 >>> 10
    shaExtend n ((near + back 7 + far + back 16) :: ws)

/-- One round, with the round's constant and its word of the schedule. -/
def shaRound (x : ShaWords) (kw : BitVec 32 × BitVec 32) : ShaWords :=
  let choice := x.g ^^^ (x.e &&& (x.f ^^^ x.g))
  let majority := (x.a &&& (x.b ||| x.c)) ||| (x.b &&& x.c)
  let t := kw.1 + kw.2 + x.h + choice + rotXor [6, 11, 25] x.e
  { a := t + majority + rotXor [2, 13, 22] x.a, b := x.a, c := x.b, d := x.c, e := x.d + t, f := x.e, g := x.f, h := x.g }

/-- The words of a 64-byte block, newest first. -/
def shaWordsOf (blk : List Byte) : List (BitVec 32) := ((List.range 16).map fun i => beWord ((blk.drop (4 * i)).take 4)).reverse

/-- One block absorbed. -/
def shaBlock (x : ShaWords) (blk : List Byte) : ShaWords :=
  x.plus ((shaK.zip (shaExtend 48 (shaWordsOf blk)).reverse).foldl shaRound x)

/-- `n` blocks of a padded message absorbed. -/
def shaBlocks : Nat → ShaWords → List Byte → ShaWords
  | 0, x, _ => x
  | n + 1, x, bs => shaBlocks n (shaBlock x (bs.take 64)) (bs.drop 64)

/-- A message padded to whole blocks: a 1 bit, zeros, and the length in bits. -/
def shaPad (bs : List Byte) : List Byte :=
  bs ++ 0x80 :: List.replicate ((119 - bs.length % 64) % 64) 0 ++ beBytes 8 (8 * bs.length)

/-- SHA-256 of a byte string. -/
def sha256 (bs : List Byte) : List Byte :=
  let m := shaPad bs
  (shaBlocks (m.length / 64) shaInit m).digest

/-- The key block of HMAC (RFC 2104): a key of more than one block is hashed; zeros fill the block. -/
def hmacBlock (key : List Byte) : List Byte :=
  let short := if key.length ≤ 64 then key else sha256 key
  (short ++ List.replicate 64 0).take 64

/-- A hash under the key block with every byte of it changed by `pad`. -/
def hmacHash (pad : Byte) (key msg : List Byte) : List Byte := sha256 ((hmacBlock key).map (pad ^^^ ·) ++ msg)

/-- HMAC-SHA-256: the inner hash under 0x36, hashed again under 0x5C. -/
def hmac256 (key msg : List Byte) : List Byte := hmacHash 0x5C key (hmacHash 0x36 key msg)

end Sys2Proof.Machine
end

