-- ==== Sys2Proof/Machine/Codes.lean ====
section
/-!
DEFINITION. Error codes (R18, R19), as the owning tables of the manual list them.
-/

namespace Sys2Proof.Machine

/-! 02_blend_and_capability.md -/
abbrev Code.ctlAccessSize : Nat := 0xC001
abbrev Code.ctlUnmapped : Nat := 0xC002
abbrev Code.ctlDomainOff : Nat := 0xC003
abbrev Code.commitPairMismatch : Nat := 0xC010
abbrev Code.commitRange : Nat := 0xC011
abbrev Code.commitBusy : Nat := 0xC012
abbrev Code.commitZeroSize : Nat := 0xC013
abbrev Code.commitBlendConflict : Nat := 0xC014
abbrev Code.blendMagic : Nat := 0xC020
abbrev Code.blendLength : Nat := 0xC021
abbrev Code.blendTarget : Nat := 0xC022
abbrev Code.blendSignature : Nat := 0xC023
abbrev Code.blendDigest : Nat := 0xC024
abbrev Code.blendSectionOrder : Nat := 0xC025
abbrev Code.blendSectionMissing : Nat := 0xC026
abbrev Code.blendSectionUnknown : Nat := 0xC027
abbrev Code.blendSectionSize : Nat := 0xC028
abbrev Code.blendIdent : Nat := 0xC030
abbrev Code.blendTileRole : Nat := 0xC031
abbrev Code.blendMacroRange : Nat := 0xC032
abbrev Code.blendMacroRemote : Nat := 0xC033
abbrev Code.blendMacroTwice : Nat := 0xC034
abbrev Code.blendInterleave : Nat := 0xC035
abbrev Code.blendRoute : Nat := 0xC036
abbrev Code.blendRing : Nat := 0xC037
abbrev Code.blendClasses : Nat := 0xC038
abbrev Code.blendPowerPlan : Nat := 0xC039
abbrev Code.blendGroup : Nat := 0xC03A
abbrev Code.blendBist : Nat := 0xC03B
abbrev Code.blendNotQuiesced : Nat := 0xC040
abbrev Code.blendApplyBusy : Nat := 0xC041
abbrev Code.blendNotChecked : Nat := 0xC042
abbrev Code.blendNone : Nat := 0xC043
abbrev Code.blendCtrlInvalid : Nat := 0xC044
/-! 03_number_formats.md -/
abbrev Code.numFormatCode : Nat := 0x3001
abbrev Code.numFormatPair : Nat := 0x3002
abbrev Code.numRoundCode : Nat := 0x3003
abbrev Code.numBlockSize : Nat := 0x3004
abbrev Code.numOrderSplit : Nat := 0x3005
abbrev Code.numNebexUnsupported : Nat := 0x3006
abbrev Code.numCtlNotIdle : Nat := 0x3007
abbrev Code.numRepeatWider : Nat := 0x3010
/-! 04_cask_arrays.md -/
abbrev Code.caskMacroRange : Nat := 0x1001
abbrev Code.caskNotBound : Nat := 0x1002
abbrev Code.caskRowRange : Nat := 0x1003
abbrev Code.caskOutFmt : Nat := 0x1004
abbrev Code.caskInputMode : Nat := 0x1005
abbrev Code.caskRingOff : Nat := 0x1006
abbrev Code.caskRingBusy : Nat := 0x1007
abbrev Code.caskRingPtr : Nat := 0x1008
abbrev Code.caskSatRerun : Nat := 0x1010
abbrev Code.caskSatFallback : Nat := 0x1011
abbrev Code.caskRewriteFallback : Nat := 0x1012
abbrev Code.caskNoLevelmap : Nat := 0x1013
abbrev Code.caskLineOpen : Nat := 0x1014
abbrev Code.caskTestBusy : Nat := 0x1020
abbrev Code.caskDacFail : Nat := 0x1021
abbrev Code.caskOltFound : Nat := 0x1022
/-! 05_cask_calibration_and_writing.md -/
abbrev Code.calLimit : Nat := 0x1801
abbrev Code.calRepeatFail : Nat := 0x1802
abbrev Code.calNoSpare : Nat := 0x1803
abbrev Code.calUnitRetired : Nat := 0x1804
abbrev Code.calNoSet : Nat := 0x1805
abbrev Code.cwrNoToken : Nat := 0x1810
abbrev Code.cwrWorn : Nat := 0x1811
abbrev Code.cwrQueueFull : Nat := 0x1812
abbrev Code.cwrReqRange : Nat := 0x1813
abbrev Code.cwrLayerBusy : Nat := 0x1814
abbrev Code.cwrLevelRange : Nat := 0x1815
abbrev Code.cwrVerifyMiss : Nat := 0x1816
abbrev Code.cwrIncomplete : Nat := 0x1817
abbrev Code.cwrResumeDigest : Nat := 0x1818
abbrev Code.cwrNoSpare : Nat := 0x1819
abbrev Code.cwrMemory : Nat := 0x181A
/-! 06_press_tiles.md -/
abbrev Code.tileShape : Nat := 0x2001
abbrev Code.tileOffset : Nat := 0x2002
abbrev Code.tileLayout : Nat := 0x2003
abbrev Code.tileOverlap : Nat := 0x2004
abbrev Code.tileSlotRange : Nat := 0x2005
abbrev Code.tileDrainFn : Nat := 0x2006
abbrev Code.tileKernelDesc : Nat := 0x2007
abbrev Code.tileArrayParity : Nat := 0x2010
abbrev Code.tileScratchUe : Nat := 0x2011
abbrev Code.tileAccumUe : Nat := 0x2012
abbrev Code.tileScalarFault : Nat := 0x2013
abbrev Code.tileVectorIllegal : Nat := 0x2014
abbrev Code.tileKernelExit : Nat := 0x2015
abbrev Code.tileArrayFenced : Nat := 0x2020
abbrev Code.tileFenceAll : Nat := 0x2021
/-! 08_operations_and_sync.md -/
abbrev Code.opqKind : Nat := 0x4001
abbrev Code.opqDesc : Nat := 0x4002
abbrev Code.opqDisabled : Nat := 0x4003
abbrev Code.opqRingOverrun : Nat := 0x4004
abbrev Code.opqNotHalted : Nat := 0x4005
abbrev Code.opqBusy : Nat := 0x4006
abbrev Code.opqFetchError : Nat := 0x4007
abbrev Code.opqPreempted : Nat := 0x4008
abbrev Code.opqRecordLost : Nat := 0x4009
abbrev Code.syncIdRange : Nat := 0x4010
abbrev Code.syncMisuse : Nat := 0x4011
abbrev Code.syncPoison : Nat := 0x4012
abbrev Code.syncRemoteRefused : Nat := 0x4013
abbrev Code.syncRemoteLost : Nat := 0x4014
abbrev Code.syncSaturated : Nat := 0x4020
/-! 09_memory_and_transfers.md -/
abbrev Code.ctxRange : Nat := 0x5001
abbrev Code.ctxClosed : Nat := 0x5002
abbrev Code.ctxStaleGen : Nat := 0x5003
abbrev Code.ctxClass : Nat := 0x5004
abbrev Code.ctxQuarantine : Nat := 0x5005
abbrev Code.ctxBusy : Nat := 0x5006
abbrev Code.ctxEntry : Nat := 0x5007
abbrev Code.xferDevice : Nat := 0x5010
abbrev Code.xferNoRoute : Nat := 0x5011
abbrev Code.xferUnmapped : Nat := 0x5012
abbrev Code.xferWindow : Nat := 0x5013
abbrev Code.xferAlign : Nat := 0x5014
abbrev Code.xferOverlap : Nat := 0x5015
abbrev Code.xferRemoteDropped : Nat := 0x5016
abbrev Code.xferRemoteLost : Nat := 0x5017
abbrev Code.memUe : Nat := 0x5020
abbrev Code.memScrubUe : Nat := 0x5021
/-! 10_fepra_links.md -/
abbrev Code.flinkPeerMismatch : Nat := 0x6001
abbrev Code.flinkLos : Nat := 0x6002
abbrev Code.flinkRetrain : Nat := 0x6003
abbrev Code.flinkTrainFail : Nat := 0x6004
abbrev Code.flinkLaserFault : Nat := 0x6005
abbrev Code.flinkRingTuneFail : Nat := 0x6006
abbrev Code.flinkUnreachable : Nat := 0x6010
abbrev Code.flinkHopLimit : Nat := 0x6011
abbrev Code.flinkRetryLimit : Nat := 0x6012
abbrev Code.flinkPeerSilent : Nat := 0x6013
abbrev Code.flinkAgedOut : Nat := 0x6014
abbrev Code.flinkCmdState : Nat := 0x6020
/-! 11_gradient_reduction.md -/
abbrev Code.rdcGroup : Nat := 0x7001
abbrev Code.rdcOp : Nat := 0x7002
abbrev Code.rdcRange : Nat := 0x7003
abbrev Code.rdcIdBusy : Nat := 0x7004
abbrev Code.rdcTooMany : Nat := 0x7005
abbrev Code.rdcNotOpen : Nat := 0x7006
abbrev Code.rdcOverlap : Nat := 0x7007
abbrev Code.rdcStarted : Nat := 0x7008
abbrev Code.rdcNonfinite : Nat := 0x7010
abbrev Code.rdcLateFolded : Nat := 0x7011
abbrev Code.rdcClamped : Nat := 0x7012
abbrev Code.rdcMemberLost : Nat := 0x7020
abbrev Code.rdcChecksum : Nat := 0x7021
abbrev Code.rdcMismatch : Nat := 0x7022
abbrev Code.rdcContext : Nat := 0x7024
abbrev Code.rdcBusy : Nat := 0x7030
/-! 12_ethernet_and_services.md -/
abbrev Code.ethLinkDown : Nat := 0x8001
abbrev Code.sesAuthFail : Nat := 0x8010
abbrev Code.sesLocked : Nat := 0x8011
abbrev Code.sesTooMany : Nat := 0x8012
abbrev Code.sesOpcode : Nat := 0x8013
abbrev Code.sesLength : Nat := 0x8014
abbrev Code.sesNotOpen : Nat := 0x8015
abbrev Code.sesTimeout : Nat := 0x8016
abbrev Code.roceQpRange : Nat := 0x8020
abbrev Code.roceCtx : Nat := 0x8021
abbrev Code.roceRetryExceeded : Nat := 0x8022
abbrev Code.roceRemoteAccess : Nat := 0x8023
abbrev Code.roceQpError : Nat := 0x8024
abbrev Code.svcPlanRange : Nat := 0x8030
abbrev Code.svcPlanAgree : Nat := 0x8031
abbrev Code.svcPlanSlots : Nat := 0x8032
abbrev Code.svcPlanMemory : Nat := 0x8033
abbrev Code.svcPlanGroup : Nat := 0x8034
abbrev Code.svcBusy : Nat := 0x8035
abbrev Code.svcConfigRange : Nat := 0x8036
abbrev Code.svcInputStall : Nat := 0x8040
abbrev Code.svcLeaseLapsed : Nat := 0x8041
abbrev Code.svcCkptFail : Nat := 0x8042
/-! 13_power_and_thermal.md -/
abbrev Code.capInfeasible : Nat := 0x9001
abbrev Code.capUnmet : Nat := 0x9002
abbrev Code.pwrEnvelopeLost : Nat := 0x9003
abbrev Code.pwrDomainBusy : Nat := 0x9010
abbrev Code.pwrDomainOrder : Nat := 0x9011
abbrev Code.pwrDomainFixed : Nat := 0x9012
abbrev Code.pwrSag : Nat := 0x9020
abbrev Code.pwrSaveIncomplete : Nat := 0x9021
abbrev Code.pwrHoldupAbsent : Nat := 0x9022
abbrev Code.pwrOvervoltage : Nat := 0x9023
abbrev Code.pwrThermalThrottle : Nat := 0x9030
abbrev Code.pwrThermalTrip : Nat := 0x9031
abbrev Code.pwrExtTherm : Nat := 0x9032
abbrev Code.pwrThermOpen : Nat := 0x9033
abbrev Code.pwrIdleNotQuiesced : Nat := 0x9040
abbrev Code.pwrIdleState : Nat := 0x9041
abbrev Code.hkcTestFail : Nat := 0x9050
abbrev Code.hkcRefFail : Nat := 0x9051
abbrev Code.hkcRingPtr : Nat := 0x9052
abbrev Code.pwrAttrDrift : Nat := 0x9060
abbrev Code.pwrAttrOverrun : Nat := 0x9061
/-! 14_reliability_and_recovery.md -/
abbrev Code.rstAbandoned : Nat := 0xA001
abbrev Code.rstCmdRange : Nat := 0xA002
abbrev Code.rstBusy : Nat := 0xA003
abbrev Code.rstEscalated : Nat := 0xA004
abbrev Code.rstSafeState : Nat := 0xA005
abbrev Code.hangDeadline : Nat := 0xA010
abbrev Code.hangWait : Nat := 0xA011
abbrev Code.bistFail : Nat := 0xA020
abbrev Code.bistDeferred : Nat := 0xA021
abbrev Code.bistBusy : Nat := 0xA022
abbrev Code.snapBusy : Nat := 0xA030
abbrev Code.snapId : Nat := 0xA031
abbrev Code.snapIncomplete : Nat := 0xA032
/-! 15_startup_and_security.md -/
abbrev Code.bootRecordMissing : Nat := 0xB001
abbrev Code.bootRecordSig : Nat := 0xB002
abbrev Code.bootRootKey : Nat := 0xB003
abbrev Code.bootImageSig : Nat := 0xB004
abbrev Code.bootRollback : Nat := 0xB005
abbrev Code.bootNoImage : Nat := 0xB006
abbrev Code.bootTarget : Nat := 0xB007
abbrev Code.bootStageTimeout : Nat := 0xB010
abbrev Code.bootTrainFail : Nat := 0xB011
abbrev Code.bootTin : Nat := 0xB012
abbrev Code.bootStrap : Nat := 0xB013
abbrev Code.bootNotReady : Nat := 0xB014
abbrev Code.bootTrialRevert : Nat := 0xB015
abbrev Code.fwBankInvalid : Nat := 0xB020
abbrev Code.fwTrial : Nat := 0xB021
abbrev Code.keySlotRange : Nat := 0xB030
abbrev Code.keyTag : Nat := 0xB031
abbrev Code.keyLast : Nat := 0xB032
abbrev Code.vkeyRecord : Nat := 0xB033
abbrev Code.netRecord : Nat := 0xB034
abbrev Code.keyReuse : Nat := 0xB035
abbrev Code.attIdentityFail : Nat := 0xB040

end Sys2Proof.Machine
end

