-- ==== Sys2Proof/Machine/Store.lean ====
section
/-!
DEFINITION. Sparse stores: lists of key and value pairs in one canonical form. Keys rise strictly, and no entry equals
what an unlisted key holds, so that equal contents are equal lists. Memory, registers, counters, contexts, links and the
other like units of the module are held this way.
-/

namespace Sys2Proof.Machine

/-- A sparse store over natural keys. -/
abbrev SMap (α : Type) := List (Nat × α)

variable {α : Type}

/-- The value at key `k`; an unlisted key holds `d k`. -/
def smGet (d : Nat → α) : SMap α → Nat → α
  | [], k => d k
  | (k', v) :: m, k => if k = k' then v else smGet d m k

/-- Insertion at the key's place in the rising order. -/
def smIns (k : Nat) (v : α) : SMap α → SMap α
  | [] => [(k, v)]
  | (k', v') :: m => if k < k' then (k, v) :: (k', v') :: m
                     else if k = k' then (k, v) :: m else (k', v') :: smIns k v m

/-- Removal of a key. -/
def smDel (k : Nat) : SMap α → SMap α
  | [] => []
  | (k', v') :: m => if k = k' then smDel k m else (k', v') :: smDel k m

/-- Writing `v` at `k`: an entry equal to what the unlisted key holds is removed. -/
def smPut [DecidableEq α] (d : Nat → α) (k : Nat) (v : α) (m : SMap α) : SMap α :=
  if v = d k then smDel k m else smIns k v m

/-- Changing the value at `k` by a function. -/
def smMod [DecidableEq α] (d : Nat → α) (k : Nat) (f : α → α) (m : SMap α) : SMap α :=
  smPut d k (f (smGet d m k)) m

/-- Changing every listed value by a function of its key and itself. -/
def smMapV [DecidableEq α] (d : Nat → α) (f : Nat → α → α) (m : SMap α) : SMap α :=
  (m.map fun e => (e.1, f e.1 e.2)).filter fun e => e.2 ≠ d e.1

/-- Insertion into a list in rising order of a key, after equals. -/
def insertBy (key : α → Nat) (x : α) : List α → List α
  | [] => [x]
  | y :: ys => if key x < key y then x :: y :: ys else y :: insertBy key x ys

/-- A list in rising order of a key; equals keep their order. -/
def sortBy (key : α → Nat) (xs : List α) : List α := xs.foldl (fun ys x => insertBy key x ys) []

/-- The canonical form. -/
abbrev smWf (d : Nat → α) (m : SMap α) : Prop :=
  m.Pairwise (fun a b => a.1 < b.1) ∧ ∀ e ∈ m, e.2 ≠ d e.1

end Sys2Proof.Machine
end

