-- ==== Sys2Proof/Machine/State.lean ====
section
/-!
DEFINITION. The state of the module as plain data, the reasons a step could stop, and the state right after reset.
Every register of the control space lies in `ctl` (values in force) and `staged` (staged copies of ST fields, R13, R44);
what the registers do not hold lies in the typed records below. Fields that the model adds for its own bookkeeping say so.
-/

namespace Sys2Proof.Machine

/-! ### The blend (R47 to R49) -/

/-- TILE_ROLES entry (Table 2.7). -/
structure TileRole where
  role : Nat := 0
  queueMask : Nat := 0
  syncLimit : Nat := 0
  sampleKib : Nat := 0
deriving DecidableEq, Repr

/-- MACRO_BINDINGS entry (Table 2.7). -/
structure Binding where
  die : Nat
  layerMask : Nat
  first : Nat
  macros : Nat
  tile : Nat
  policy : Nat
deriving DecidableEq, Repr

/-- INTERLEAVE entry (Table 2.7, R255). -/
structure Region where
  base : Nat
  size : Nat
  stackMask : Nat
  granuleLog2 : Nat
deriving DecidableEq, Repr

/-- LINK_PEERS entry (Table 2.7). -/
structure Peer where
  id : Nat := 0xFFFF
  link : Nat := 0
deriving DecidableEq, Repr

/-- Route entry (Table 2.7). -/
structure Route where
  dest : Nat
  link : Nat
  alt : Nat
deriving DecidableEq, Repr

/-- Ring record (Table 2.7). -/
structure Ring where
  id : Nat
  members : List Nat
deriving DecidableEq, Repr

/-- REDUCTION_GROUPS entry (Table 2.7). -/
structure Group where
  id : Nat
  mode : Nat
  members : Nat
  ring : Nat
  outstanding : Nat
  bucketMib : Nat
deriving DecidableEq, Repr

/-- BIST entry (Table 2.7). -/
structure BistEntry where
  block : Nat
  slices : Nat
deriving DecidableEq, Repr

/-- A blend as its image spells it. -/
structure Blend where
  serial : Nat := 0
  digest : List Byte := []
  deviceId : Nat := 0
  systemSize : Nat := 0
  roles : List TileRole := []
  bindings : List Binding := []
  regions : List Region := []
  peers : List Peer := []
  routes : List Route := []
  rings : List Ring := []
  weights : List Nat := []
  class0Rate : Nat := 0
  class0Depth : Nat := 0
  profile : Nat := 0
  capW : Nat := 0
  rampMs : Nat := 0
  floorW : Nat := 0
  domainOn : Nat := 0
  groups : List Group := []
  sliceUs : Nat := 0
  periodMs : Nat := 0
  bist : List BistEntry := []
deriving DecidableEq, Repr

/-- The blend store and the blend in force (R52 to R55). `store` is the 16 MiB store's copy; `capturedLen` its length. -/
structure BlendState where
  inForce : Option Blend := none
  checked : Option Blend := none
  store : List Byte := []
deriving DecidableEq, Repr

/-! ### Operations, queues, cores -/

/-- Where a fetched descriptor stands (R229 to R232). -/
inductive OpPhase where
  | ready
  | refused (code detail : Nat)
  | running
  | done
  | failed (code detail : Nat)
deriving DecidableEq, Repr

/-- An operation that holds a slot, from its fetch to its completion (R222 to R231). `order` is its place in the tile's
total fetch order (R228); `started` says that its unit has begun on it. `usable` and
`heldQuads` are the arrays that a matrix operation may use and the quadrants that others held when it left (R169). -/
structure Op where
  queue : Nat
  seq : Nat
  order : Nat
  desc : BitVec 512
  phase : OpPhase
  flags : Nat := 0
  info : Nat := 0
  fmt : Nat := 0xF
  start : Nat := 0
  detail : Nat := 0
  started : Bool := false
  seed : W64 := 0
  epoch : Nat := 0
  usable : Nat := 0
  heldQuads : Nat := 0
deriving DecidableEq, Repr

/-- Pre-emption of a tile (R234). -/
inductive Preempt where
  | none
  | running
  | preempted
deriving DecidableEq, Repr

/-- Why a queue is halted (Table 8.3). -/
inductive Halt where
  | refusal (slot : Nat)
  | failure (desc : BitVec 512)
deriving DecidableEq, Repr

/-- The vector unit of a tile (R182). -/
structure Vec where
  core : Option Nat := none
  vl : Nat := 512
  vm : BitVec 512 := BitVec.allOnes 512
  vblk : Nat := 1
  regs : SMap W32 := []
deriving DecidableEq, Repr

/-- A tile, beside its registers and its memory. `queueRr`, `unitRr` and `granted` are the round-robin
positions of R228, R230 and R238: the queue that fetched last, that each unit took last, and that each counter granted last. -/
structure Tile where
  slots : SMap (Option Op) := []
  halts : SMap (Option Halt) := []
  preempt : Preempt := .none
  fetches : Nat := 0
  queueRr : Nat := 15
  unitRr : SMap Nat := []
  granted : SMap Nat := []
  vec : Vec := {}
  halfClock : Bool := false
  dutyStopped : Bool := false
  bistQuiesce : Bool := false
deriving DecidableEq, Repr

/-- What a scalar core does (R186, R240). -/
inductive CoreState where
  | idle
  | running
  | waiting (id thresh rd : Nat)
  | exited
deriving DecidableEq, Repr

/-- A store of a core that no other unit sees yet (R185): tile-local address, bytes and value. -/
structure BufStore where
  addr : Nat
  size : Nat
  value : Nat
deriving DecidableEq, Repr

/-- A scalar core of a tile (R185, R186). `x` and `f` hold the integer and floating-point registers, zero when unlisted;
`csr` the machine-mode registers by number, the 16 PMP entries among them (log 14). `machine` is the mode. `stores` is the store buffer,
oldest first; `loadsWait` says that a FENCE makes the next load wait for it (R185, R244, log 90). -/
structure Core where
  state : CoreState := .idle
  slot : Nat := 0
  pc : W64 := 0
  x : SMap W64 := []
  f : SMap W64 := []
  fcsr : Nat := 0
  csr : SMap W64 := []
  reservation : Option Nat := none
  machine : Bool := false
  stores : List BufStore := []
  loadsWait : Bool := false
deriving DecidableEq, Repr

/-! ### Sync counters -/

/-- A sync counter (R236, R237, Table 8.12). -/
structure Ctr where
  value : Nat := 0
  poison : Bool := false
  remoteOk : Bool := false
  misuse : Bool := false
  unf : Bool := false
  ovf : Bool := false
deriving DecidableEq, Repr

/-- A signal on its way to a counter (R243). -/
structure Signal where
  id : Nat
  delta : Int
  source : Nat
deriving DecidableEq, Repr

/-! ### Cask dies -/

/-- Where a pass stands (R92, R100, R112): waiting to fire, fired, or drained and awaiting its record. -/
inductive PassStage where
  | waiting
  | fired
  | drained
deriving DecidableEq, Repr

/-- What a pass drives (R94 to R99, R118). -/
inductive InputKind where
  | f4 | i8 | g16 | bf16 | zero | nonfinite
deriving DecidableEq, Repr

/-- An input of a pass as the row drivers take it: driven lines with signed quanta, the low slice of G16, the outlier lines,
the exponents v_p and v_o, and the source codes of a G16 or a BF16 attempt. -/
structure PassInput where
  kind : InputKind := .zero
  rows : List (Nat × Int) := []
  low : List (Nat × Int) := []
  outs : List (Nat × Int) := []
  vp : Option Int := none
  vo : Int := 0
  aligned : Bool := false
  xs : List Nat := []
deriving DecidableEq, Repr

/-- One pass: one vector of a CASK_PASS descriptor on its macro layer (R125). `p` and `pLow` are the groups of R103, 0 until
the pass first fires; `codes` the phases' codes so far; `vals` the FP32 results of a drained forward pass, and `sums` the
integers of a drained transposed one, in units of 2 ^ (v_p - 10). `how` is the INFO bit of a fallback's reason, and `cells` the wear of the
layer whose cells the pass met (R212). -/
structure Pass where
  tile : Nat
  slot : Nat
  desc : BitVec 512
  vec : Nat
  die : Nat
  mac : Nat
  layer : Nat
  cls : Nat
  seq : Nat
  stage : PassStage := .waiting
  input : PassInput := {}
  p : Nat := 0
  pLow : Nat := 0
  oGroups : Nat := 1
  phase : Nat := 0
  rerun : Bool := false
  aborts : Nat := 0
  promoted : Bool := false
  satColumns : Nat := 0
  codes : List (List Int) := []
  fallback : Bool := false
  waited : Bool := false
  reserved : Bool := false
  discarded : Bool := false
  how : Nat := 0
  cells : Nat := 0
  vals : List Nat := []
  sums : List Int := []
deriving DecidableEq, Repr

/-- A macro's periphery (R91, R106, R107, R134, R135, R137): current layer, a reference phase in progress, the rotation of a visit (0:
the spares serve no channel; k from 1 to 16: they serve the k-th group of channels; 17: all are handed back), the units that the DAC test
retired, the channels (column or row, number) that a spare converter serves for good, and the calibration values that it runs on. -/
structure Mac where
  layer : Nat := 0
  refPhase : Bool := false
  round : Nat := 0
  retired : List Nat := []
  channels : List (Bool × Nat × Nat) := []
  vals : List CalValue := []
deriving DecidableEq, Repr

/-- The kind of a cask test that runs (R123, R124). -/
inductive CaskTest where
  | olt (mac layers : Nat)
  | dac (mac : Nat)
deriving DecidableEq, Repr

/-- A calibration run in progress (R133): its start temperature, the fresh values of the spare converters (step 2), the first macro of the
visit in progress, and the values measured so far, those of the spares with them. -/
structure CalRun where
  startTemp : Int
  next : Nat := 0
  spares : List CalValue := []
  values : List CalValue := []
deriving DecidableEq, Repr

/-- A write request's place on the write path (R144 to R149). -/
inductive ReqStage where
  | queued
  | admitted
  | held
deriving DecidableEq, Repr

/-- A write request (R142, Table 5.6). `gap`: a pass of class 1 to 3 has fired since the last row (R159). -/
structure WReq where
  kind : Nat
  mac : Nat
  layer : Nat
  source : Nat
  levelmap : Nat
  scales : Nat
  errmap : Nat
  record : Nat
  sync : Nat
  enable : Bool
  column : Nat
  stage : ReqStage := .queued
  origKind : Nat := 0
  row : Nat := 0
  sub : Nat := 0
  mark : Nat := 0
  digests : List (List Byte) := []
  rows : Nat := 0
  cells : Nat := 0
  misses : Nat := 0
  iterMax : Nat := 0
  gap : Bool := false
  map : SMap Int := []
  errs : SMap Int := []
deriving DecidableEq, Repr

/-- A write journal entry (R156). -/
structure WJEntry where
  kind : Nat
  sourceDigest : List Byte
  mapDigest : List Byte
  scalesDigest : List Byte
  mark : Nat
deriving DecidableEq, Repr

/-- A macro layer's governor, wear, lines and level map (R113, R123, R151 to R153). `tokens` none: as many as `Die.bucket`.
`levelmap` is where the layer's last completed request keeps its level map. -/
structure Layer where
  tokens : Option Nat := none
  wear : Nat := 0
  openLines : List (Bool × Nat) := []
  spareColumns : Nat := 16
  references : Nat := 8
  levelmap : Option Nat := none
deriving DecidableEq, Repr

/-- A cask die: controller, calibration engine and write path. Temperatures are in 0.1 °C (R132). `limit` is the number of
active macros that power and thermal control allow; `ready` is R33 met, `loaded` its sets loaded, `noSet` R141's failure;
`failed` the last run's fate, `badUnits` the converters that failed in it, `target` the values interpolated last; `bucket` the tokens of a
layer that none was taken from (R151). -/
structure Die where
  passes : List Pass := []
  macs : SMap Mac := []
  ready : Bool := false
  loaded : Bool := false
  noSet : Bool := false
  temp : Int := 250
  test : Option CaskTest := none
  droopHold : Bool := false
  dutyStopped : Bool := false
  bistQuiesce : Bool := false
  limit : Nat := 64
  run : Option CalRun := none
  failed : Bool := false
  lastTemp : Int := 250
  passTemp : Int := 250
  badUnits : List (CalKind × Nat × Nat) := []
  retired : List (CalKind × Nat × Nat) := []
  target : List CalValue := []
  reTemp : Int := 250
  reqs : List WReq := []
  spareMacros : Nat := 64
  bucket : Nat := 64
deriving DecidableEq, Repr

/-! ### Memory, contexts, requests -/

/-- An event after which the contents of some addresses are undefined (R256, R371, Table 14.5), or, for `cleared`, back at what
they hold when fresh (R371: a tile's scratchpad and accumulator slots). -/
inductive LossKind where
  | stacks (regions : List Region) (mask : Nat)
  | sram
  | remap (old new : List Region)
  | range (base len : Nat)
  | cleared (base len : Nat)
deriving DecidableEq, Repr

/-- A loss event and its stamp. -/
structure Loss where
  stamp : Nat
  kind : LossKind
deriving DecidableEq, Repr

/-- The module's memory: bytes by module address, loss events (newest first), poisoned 64-byte blocks, each by its
stack and its local address there (R258). -/
structure Memory where
  cells : List Host.Cell := []
  lost : List Loss := []
  poisoned : List (Nat × Nat) := []
deriving DecidableEq, Repr

/-- STATE of a transfer context (Table 9.2). -/
inductive CtxState where
  | free
  | open
  | draining
  | quarantine
deriving DecidableEq, Repr

/-- A transfer context entry (Table 9.2). `signal` is the counter that its RETIRE command named (R261). -/
structure Ctx where
  state : CtxState := .free
  gen : Nat := 0
  flags : Nat := 0
  job : Nat := 0
  drops : Nat := 0
  windows : List (Nat × Nat) := [(0, 0), (0, 0), (0, 0), (0, 0)]
  signal : Option Nat := none
deriving DecidableEq, Repr

/-- A context command that awaits its edge (R259). -/
structure CtxCmd where
  retire : Bool
  index : Nat
  gen : Nat := 0
  flags : Nat := 0
  job : Nat := 0
  windows : List (Nat × Nat) := []
  signal : Option Nat := none
deriving DecidableEq, Repr

/-- What a request asked of a peer (R246, R268). -/
inductive ReqKind where
  | write
  | read
  | syncAdd
deriving DecidableEq, Repr

/-- A request that this module sent and that awaits its answer (R266, R296). `place` is the local address of read data. A
request whose operation has ended without it has slot `noSlot`. -/
structure Req where
  tag : Nat
  kind : ReqKind
  tile : Nat
  slot : Nat
  ctx : Nat
  gen : Nat
  dest : Nat
  link : Nat
  place : Nat
  len : Nat
deriving DecidableEq, Repr

/-- The slot of a request whose operation has ended. -/
abbrev noSlot : Nat := 0x10000

/-! ### Links -/

/-- Link states (Table 10.5). -/
inductive LinkState where
  | off | notPresent | train | peerCheck | mismatch | up | retrain | failed
deriving DecidableEq, Repr

/-- Optical engine states (R282). -/
inductive EngineState where
  | off | laserWait | ringTune | ready | fault
deriving DecidableEq, Repr

/-- An optical engine and its laser bay (R273, R297). -/
structure Engine where
  state : EngineState := .off
  source : Bool := true
  service : Bool := false
deriving DecidableEq, Repr

/-- A message (R278): the flits of one message, their payloads joined. -/
structure Msg where
  dest : Nat
  src : Nat
  cls : Nat
  type : Nat
  ctx : Nat
  gen : Nat
  hops : Nat := 0
  payload : List Byte
deriving DecidableEq, Repr

/-- A frame that the transmitter sent (R276): its control word and the flits of its slots; the slots beyond them are NULL. -/
structure Frame where
  link : Nat
  word : CtlWord
  flits : List Flit
deriving DecidableEq, Repr

/-- A link interface (R276 to R296). `queues` are the flits to be sent, by class; `cur` the message in progress of each class;
`replay` the flits sent and not acknowledged, `resend` those due again; `tokens` counts the bucket of R288 in 1/1,000 byte;
`waited` says that the class 0 flit at the head was counted as waiting; `checked` says that RETRAIN has reached PEER_CHECK;
`tries` counts the TRAIN attempts of this bring-up;
`partials` are the messages being received, by class; `rackDue` is a RACK flit to be sent before any other new flit, `rackRx` what
FLINK_RX_FLITS stood at when a RACK flit not yet acted on arrived, `rackCount` the flits accepted since the latch, `rackLost` that the
link left UP meanwhile (R418, R419); `txHead` and `rxHead` the header of the chunk message in progress, by class
(R324); `moved` the destinations whose ALT_LINK this link is and that have moved to it (R291); `through` the egress of the message that is
being forwarded from this link, by class (R54, R278); `ackHead` the first flit of the message, by class, that is acknowledged and whose last
flit is not (R325). -/
structure Link where
  state : LinkState := .off
  light : Bool := false
  checked : Bool := false
  tries : Nat := 0
  txSeq : Nat := 0
  rxSeq : Nat := 0
  replay : List Flit := []
  resend : List Flit := []
  nakWanted : Bool := false
  nakSeq : Nat := 0
  nakCount : Nat := 0
  queues : SMap (List Flit) := []
  cur : SMap (Option (Nat × Nat × Nat)) := []
  credits : SMap Nat := []
  freed : SMap Nat := []
  tokens : Nat := 0
  waited : Bool := false
  drr : SMap Nat := []
  turn : Nat := 1
  partials : SMap (List Flit) := []
  txHead : SMap (List Byte) := []
  rxHead : SMap (List Byte) := []
  beat : Nat := 0
  peerBeat : Nat := 0
  peerState : Nat := 0
  rackDue : Option Flit := none
  rackRx : Option Nat := none
  rackCount : Option Nat := none
  rackLost : Bool := false
  moved : List Nat := []
  through : SMap (Option ((Nat × Nat × Nat) × Nat)) := []
  ackHead : SMap (Option Flit) := []
deriving DecidableEq, Repr

/-! ### Reduction -/

/-- A final chunk that reached this member (R315, R316): its header's facts and exponent bytes, and its codes until they are
written to RESULT. -/
structure Final where
  chunk : Nat
  flags : Nat
  late : Nat
  clamps : Nat
  maxexp : List Nat
  shift : Nat := 0
  codes : List Int := []
deriving DecidableEq, Repr

/-- A chunk's sum as it leaves an adder: codes, shift, CHK, RES, counts and exponent bytes (R313). -/
structure Partial where
  codes : List Int
  shift : Nat
  chk : Nat
  res : Nat
  late : Nat
  clamps : Nat
  maxexp : List Nat
deriving DecidableEq, Repr

/-- One use of a BUCKET_ID on this member (R304 to R323). `opened` is false for a use in which the member became late before
its OPEN. `flags` are bits 2 to 4 of FLAGS (Table 11.3); `orphan`: the OPEN was abandoned; `chunks` were contributed; `agreed`
are the exponent bytes of the pre-pass; `coded` are chunks whose codes this member added or emitted; `tierSums` and
`tierScales` are this tier's results that await the second chain, the latter with their LATE_COUNT (R303, R323). -/
structure Bucket where
  g : Nat
  id : Nat
  seq : Nat
  elems : Nat
  fmt : Nat
  flags : Nat
  ctx : Nat
  gen : Nat
  opened : Bool := false
  stage : Nat := 0
  result : Nat := 0
  err : Nat := 0
  scale : Nat := 0
  tile : Nat := 0
  slot : Nat := 0
  seed : W64 := 0
  epoch : Nat := 0
  orphan : Bool := false
  chunks : List Nat := []
  started : Bool := false
  late : Bool := false
  agreed : SMap (Option (List Nat)) := []
  coded : List Nat := []
  tierSums : SMap (Option Partial) := []
  tierScales : SMap (Option (List Nat × Nat)) := []
  finals : List Final := []
  overflowed : Bool := false
deriving DecidableEq, Repr

/-- A parked reduction message (R319). `withheld`: the park was full, and the credits of its buffers are withheld. -/
structure Parked where
  link : Nat
  msg : Msg
  withheld : Bool := false
deriving DecidableEq, Repr

/-- An abort that arrived for a use not yet open, or a failure before the OPEN (R326). -/
structure EarlyAbort where
  g : Nat
  id : Nat
  seq : Nat
  code : Nat
  pos : Nat
  dev : Nat
deriving DecidableEq, Repr

/-- One digest entry of a link (R324): its place in the ring, its use and direction, what was hashed so far in order, and the
far ends of the messages, by which a change of route is noted. `closed`: OPEN_SEQ has restarted since, so that a later use of the same
numbers is another one (R319). -/
structure Digest where
  entry : Nat
  g : Nat
  id : Nat
  seq : Nat
  received : Bool
  rerouted : Bool := false
  count : Nat := 0
  bytes : List Byte := []
  ends : List Nat := []
  closed : Bool := false
deriving DecidableEq, Repr

/-! ### Ethernet, sessions, services -/

/-- A request that the module originated on a queue pair (R340): a READ of the data loader for input `idx`, or a WRITE of the
checkpoint writer. `sync` is the service counter that it signals; `psn` the packet sequence number of its first packet; `rkey` and `va`
the remote range, of `len` bytes. -/
structure RoceReq where
  read : Bool
  sync : Option Nat := none
  place : Nat
  len : Nat
  idx : Nat := 0
  psn : Nat := 0
  rkey : Nat := 0
  va : Nat := 0
deriving DecidableEq, Repr

/-- A queue pair (R337, Table 12.2): its QP_OPEN body, its rate in Mbit/s and when it last sent a notification (R335), the SENDs
received (R339), and the retries that its oldest request has used, after timeouts and for receivers not ready (R340). `sendPsn` and
`recvPsn` are the packet sequence numbers sent and expected next; `seqNaked`: a gap has been answered already. -/
structure Qp where
  opened : Bool := false
  error : Bool := false
  body : List Byte := []
  rateMbps : Nat := 1600000
  cnpAt : Option Nat := none
  recvCount : Nat := 0
  retries : Nat := 0
  rnrRetries : Nat := 0
  sendPsn : Nat := 0
  recvPsn : Nat := 0
  seqNaked : Bool := false
  out : List RoceReq := []
deriving DecidableEq, Repr

/-- Where a RoCEv2 packet goes: the remote address, the remote queue pair, the first packet's sequence number, and the largest payload
of a packet (Table 12.2). -/
structure RoceDst where
  gid : List Byte
  qpn : Nat
  psn : Nat
  pmtu : Nat
deriving DecidableEq, Repr

/-- The NAKs that a responder sends (R336, R338, R339). -/
inductive RoceNak where
  | outOfSequence
  | invalidRequest
  | remoteAccess
  | notReady
deriving DecidableEq, Repr

/-- A management session (R342 to R348): a connection, open once its proof was right. `hello` is the nonce of its OPEN_HELLO; `key`
the key of its slot then. -/
structure Session where
  live : Bool := false
  opened : Bool := false
  hello : Option (List Byte) := none
  slot : Nat := 0xFF
  key : Option (List Byte) := none
  nonceM : List Byte := []
  mask : Nat := 0
  rotated : List Nat := []
  source : Nat := 0
  probes : Nat := 0
deriving DecidableEq, Repr

/-- What leaves the Ethernet port or the module (model's own outputs, log 4). -/
inductive Output where
  | reply (n opcode seq status : Nat) (body : List Byte)
  | event (n kind code arg0 arg1 : Nat)
  | closed (n : Nat)
  | datagram (bytes : List Byte)
  | pfcFrame (prio : Nat) (pause : Bool)
  | cnp (qp : Nat) (dst : RoceDst)
  | echo
  | rst
  | roceAck (qp : Nat) (dst : RoceDst)
  | roceNak (qp : Nat) (dst : RoceDst) (why : RoceNak)
  | roceData (qp : Nat) (dst : RoceDst) (bytes : List Byte)
  | roceWrite (qp : Nat) (dst : RoceDst) (rkey va len : Nat)
  | roceRead (qp : Nat) (dst : RoceDst) (rkey va len : Nat)
  | probe (n : Nat)
  | accessFault (core addr : Nat)
deriving DecidableEq, Repr

/-- What the port put on the line: the 802.1Q tag's VLAN and priority, none on a PFC frame, and whether ECT(0) is set (R331, R333). -/
structure EthSent where
  tag : Option (Nat × Nat)
  ect : Bool
  what : Output
deriving DecidableEq, Repr

/-- A step plan taken from memory (Table 7.1, Table 7.2), with the operation graphs loaded with it. -/
structure Plan where
  bytes : List Byte
  addr : Nat
  report : Nat
  depth : Nat
  graph : Graph := {}
deriving DecidableEq, Repr

/-- An operation of the graph that the step driver has released and that is not over; `seq` is its place in its queue once pushed. -/
structure WorkItem where
  node : GraphNode
  seq : Option Nat := none
deriving DecidableEq, Repr

/-- A macro layer flushed at the end of step `step` and not folded yet; `reducing`: its request has ended, and e′ is being reduced (R215). -/
structure Fold where
  target : FlushTarget
  step : Nat
  reducing : Bool := false
deriving DecidableEq, Repr

/-- A report that awaits the end of its step's flushes (R219, R350): the plan, the step, whether it was skipped, and the counts, by layer
record and field. -/
structure StepReport where
  plan : Plan
  step : Nat
  skip : Bool
  counts : SMap Nat
deriving DecidableEq, Repr

/-- The services of the service cluster (R349 to R357). `state` and `reason` as STEP_STATUS gives them; `waiting` is a plan accepted
and awaiting its boundary, `newConfig` likewise; `step` the number of the step under way or next, `last` that of the last one
completed; `fReleased` and `bReleased` count the micro-batches released forward and backward; `stall` and `lapse` are pauses wanted by
R353 and R357; `inputs` the inputs in the local ring and `asked` those requested, by their number since input 0; `folds` the macro
layers flushed and not yet folded; `holds` those of them whose layer has FLUSH_OVERLAP 0 (R212); `masks` the words of each layer's block
mask as the step found them (R210); `pausing` the reason to pause with when the checkpoint under way completes. `work` are the operations
released and not over, in the graph's order (R197); `counts` the step's counts by layer record and field (Table 7.7), `met` the cells that
each micro-batch met on each macro layer, with whether the pair counts in MIXED (R212); `saves` the saved operands of deferred layers by
record, address and length (R206); `reports` the reports not yet written; `nonfinite` the buckets that delivered NONFINITE in the step, by
group and bucket (R217); `scaled` the buckets whose SCALE bytes their last use left, so that no pre-pass is due (R311, R327, R355). -/
structure Svc where
  plan : Option Plan := none
  waiting : Option Plan := none
  state : Nat := 0
  reason : Nat := 0
  skipped : Nat := 0
  step : Nat := 0
  last : Nat := 0
  stepsLeft : Option Nat := none
  inStep : Bool := false
  fReleased : Nat := 0
  bReleased : Nat := 0
  pauseWanted : Bool := false
  stopWanted : Bool := false
  stall : Bool := false
  lapse : Bool := false
  lossScale : Nat := 0
  cleanSteps : Nat := 0
  config : Option (List Byte) := none
  newConfig : Option (List Byte) := none
  inputs : List Nat := []
  asked : List Nat := []
  leaseRunning : Bool := false
  checkpoint : Bool := false
  pausing : Option Nat := none
  healthSeq : Nat := 0
  folds : List Fold := []
  holds : List Nat := []
  masks : List (List Nat) := []
  work : List WorkItem := []
  counts : SMap Nat := []
  met : SMap (Option (Nat × Bool)) := []
  saves : List (Nat × Nat × Nat) := []
  reports : List StepReport := []
  nonfinite : List (Nat × Nat) := []
  scaled : List (Nat × Nat) := []
deriving DecidableEq, Repr

/-! ### Power, housekeeping -/

/-- Why the module holds in reset (R363, R381, R435, R451). -/
inductive Hold where
  | none
  | input
  | failedStart
  | thermalTrip
  | resetIn
deriving DecidableEq, Repr

/-- Power, thermal control and idle (R362 to R395). `idle` is PWR_IDLE_STATUS.STATE, `index` the throttle index, `thermal` each press
die's index while it is too hot; `under` counts the 100 µs periods below the cap, `loops` those of the present millisecond, `sinceSent`
those since the last CAP_STATE, up to 10; `fellAt` is t0 of R382, `wasAbove` says that W was last at or above F, `rampOn` that T was above
0. `capSeq`, `peerCaps`: SEQ of this module's CAP_STATE messages and of those held from each origin; `capSeen` each origin's latest
cap and CAP_FLAGS (R355). -/
structure Power where
  domains : BitVec 112 := 0
  switching : SMap (Option Bool) := []
  idle : Nat := 0
  index : Nat := 0
  thermal : SMap Nat := []
  unmet : Bool := false
  under : Nat := 0
  loops : Nat := 0
  achievedW : Nat := 0
  envSideband : Nat := 2400
  hold : Hold := .input
  capSeq : Nat := 0
  peerCaps : SMap (Option Nat) := []
  capSeen : SMap (Nat × Nat) := []
  sentFlags : Nat := 0
  sentCap : Nat := 2200
  sinceSent : Nat := 10
  interval : Nat := 0
  fellAt : Option Nat := none
  wasAbove : Bool := false
  rampOn : Bool := false
  gensKept : Bool := false
deriving DecidableEq, Repr

/-- The housekeeping converter (R385 to R389): its SRAM and the stamp of what that holds unwritten, the scans completed, the channels of
pending requests with the channel abandoned for them, and which thermistors and references last read out of range. -/
structure Hkc where
  sram : List Host.Cell := []
  stamp : Nat := 0
  scan : Nat := 0
  urgent : List Nat := []
  abandoned : Option Nat := none
  openMask : Nat := 0
  refBad : Nat := 0
deriving DecidableEq, Repr

/-! ### Reliability -/

/-- Module states (Table 14.2). -/
inductive ModState where
  | starting | ready | deepIdle | safe | tin | resetting
deriving DecidableEq, Repr

/-- A reset in progress (R404, R405). `sampled`: its chain has taken its scratchpad sample (R403); `second`: it was started beside
another engine reset, which names RST_LAST (R401); `sessions` the sessions and SEQ of the RESET commands that await it. -/
structure ResetRun where
  unit : Nat
  level : Nat
  cause : Nat
  first : Nat
  escalations : Nat := 0
  sampled : Bool := false
  second : Bool := false
  sessions : List (Nat × Nat) := []
deriving DecidableEq, Repr

/-- A BIST slice in progress (R411). `stage` 1 quiescing, 2 testing. -/
structure Slice where
  unit : Nat
  stage : Nat
  left : Nat
  scheduled : Bool
  session : Option (Nat × Nat) := none
deriving DecidableEq, Repr

/-- A rack in progress (R418, R419). `link` is the arrival link, 0xFF for a local start; `early` the links whose RACK came before the
latch, `waiting` those whose RACK has not come since; `fabric` each press die's requests in flight at the latch. -/
structure Rack where
  id : Nat
  origin : Nat
  link : Nat
  latched : Bool := false
  entries : List (Nat × W64) := []
  early : List Nat := []
  waiting : List Nat := []
  fabric : List Nat := []
  time : Nat := 0
  incomplete : Bool := false
  session : Option (Nat × Nat) := none
deriving DecidableEq, Repr

/-- Self-test, resets, racks and the log's bookkeeping: `logSeq` is the SEQ of the next entry, `logHeld` how many entries the ring
holds; `cursor` the next visit's place in the BIST schedule, `segments` and `defers` each block's next segment and its deferrals in a
row. -/
structure Rel where
  mode : ModState := .starting
  resets : List ResetRun := []
  slice : Option Slice := none
  cursor : Nat := 0
  segments : SMap Nat := []
  defers : SMap Nat := []
  rack : Option Rack := none
  logSeq : Nat := 0
  alert : Bool := false
  alertSeq : Nat := 0
  safeDrain : Bool := false
  safeCause : Nat := 0
  safeUnit : Nat := 0x9000
  logHeld : Nat := 0
  lastUnit : Nat := 0
  lastSegment : Nat := 0
  waitsLogged : List (Nat × Nat × Nat) := []
deriving DecidableEq, Repr

/-! ### Start-up, journal, security -/

/-- How a journal record reads (R429). -/
inductive RecState where
  | ok | missing | badSig | badRoot
deriving DecidableEq, Repr

/-- The two copies of a protected record (R429): what reading each of them gives. -/
structure RecPair where
  first : RecState := .ok
  second : RecState := .ok
deriving DecidableEq, Repr

/-- A firmware bank (R431, R432): what its checks give. -/
structure Bank where
  formatOk : Bool := true
  sigOk : Bool := true
  targetOk : Bool := true
  svn : Nat := 1
  digest : List Byte := Config.factory 8
deriving DecidableEq, Repr

/-- The record of a calibration set: one set point's values, and the SHA-256 digest over the record's body (R139, R141). -/
structure CalSet where
  values : List CalValue
  digest : List Byte
deriving DecidableEq, Repr

/-- A repair map record: the repair and the SHA-256 digest over the record's body (R155). -/
structure RepairRec where
  die : Nat
  kind : Nat
  mac : Nat
  layer : Nat
  column : Nat
  digest : List Byte
deriving DecidableEq, Repr

/-- The sections of the save image that a later start reads (Table 13.3, R368). -/
structure SaveImage where
  complete : Bool
  reason : Nat
  intervals : Nat
  blendDigest : List Byte
  gens : SMap Nat
  counters : SMap Ctr
  step : Nat
  microBatch : Nat
  lossScale : Nat
  cleanSteps : Nat
  calRegs : SMap W64
  rows : SMap (Option Nat)
  layers : SMap Layer
  logTail : List (List Byte)
deriving DecidableEq, Repr

/-- The start-reason record (Table 15.4). -/
structure StartReason where
  seq : Nat
  outcome : Nat
  stage : Nat
  code : Nat
  unit : Nat
  count : Nat
  flags : Nat
  svn : Nat
  time : Nat
deriving DecidableEq, Repr

/-- The session keys of an empty journal's slots: the factory key in slot 0 (R440). -/
def factoryKeys (slot : Nat) : Option (List Byte) := if slot = 0 then some (Config.factory 1) else none

/-- The verification keys of an empty journal's slots: Tarytia's root key in slot 0 (R428). -/
def factoryVkeys (slot : Nat) : Option (List Byte) := if slot = 0 then some (Config.factory 0) else none

/-- The CAP words of TLV-96F by address (Table 2.3, Table 2.4). -/
def gradeWord (a : Nat) : W64 :=
  match a with
  | 0x1000 => 0x1B6A009601000001
  | 0x1008 => 0x0004400802000810
  | 0x1010 => 0x2008400400400010
  | 0x1018 => 0x0001000008000000
  | 0x1020 => 0x1400406000100000
  | 0x1028 => 0x6008080E00640014
  | 0x1030 => 0x0000A000080000C8
  | 0x1038 => 0x1040300100001000
  | 0x1040 => 0x1040010000010400
  | 0x1048 => 0x02580960089804E2
  | 0x1050 => 0x0100000008000000
  | _ => if 0x1100 ≤ a ∧ a < 0x1300 then 0xFF else if 0x1300 ≤ a ∧ a < 0x1400 then 2048 else 0

/-- The nonvolatile journal and the records in it (R429, Table 15.1). `capWords` are the GRADE record's CAP words where they differ
from TLV-96F's; NETWORK records are held whole, `networkNext` for the next start; `trialFailed`: a cold start under the TRIAL bank
failed (R433); `staging`: the bank being written, its image, and the session and SEQ that await the reply. -/
structure Journal where
  boot : RecPair := {}
  grade : RecPair := {}
  trim : RecPair := {}
  identity : RecPair := {}
  deviceKey : RecPair := {}
  capWords : SMap W64 := []
  gradeDigest : List Byte := Config.factory 6
  trimDigest : List Byte := Config.factory 7
  serial : Nat := 1
  mac : Nat := 0x020000000001
  devicePublic : List Byte := Config.factory 2
  devicePrivate : List Byte := Config.factory 3
  manufactured : List Byte := Config.factory 4
  identitySig : List Byte := Config.factory 5
  vkeys : SMap (Option (List Byte)) := []
  keys : SMap (Option (List Byte)) := []
  network : Option (List Byte) := none
  networkNext : Option (List Byte) := none
  count : Nat := 0
  bank : Nat := 0
  trial : Bool := false
  trialFailed : Bool := false
  minSvn : Nat := 1
  startSeq : Nat := 0
  reasons : List StartReason := []
  banks : SMap Bank := []
  staging : Option (Nat × Bank × Nat × Nat) := none
  calSets : SMap (Option CalSet) := []
  calTemp : SMap Int := []
  writes : SMap (Option WJEntry) := []
  governor : SMap Layer := []
  repairs : List RepairRec := []
  logCopy : List (List Byte) := []
  dumps : SMap (List Byte) := []
  save : Option SaveImage := none
  lastDigest : List Byte := []
deriving DecidableEq, Repr

/-- The start in progress or last made (R434). `stage` 0: not started; 1 to 8, or 0x0E for stage E: the one in progress or last reached,
7 while stages 6 and 7 run together; `ether`, `cask`, `optical` and `last` say that stages E, 6, 7 and 8 have ended. -/
structure Boot where
  stage : Nat := 0
  running : Bool := false
  warm : Bool := false
  ether : Bool := false
  cask : Bool := false
  optical : Bool := false
  last : Bool := false
  tinRun : Bool := false
  strap : Bool := false
  bank : Nat := 0
  trialRun : Bool := false
  outcome : Nat := 0
  code : Nat := 0
  svn : Nat := 0
  totalMs : Nat := 0
  times : SMap Nat := []
  restored : Bool := false
deriving DecidableEq, Repr

/-- The pins (R448 to R453) and the Ethernet link's light. -/
structure Pins where
  resetLow : Bool := false
  strapAsserted : Bool := false
  ethLink : Bool := false
deriving DecidableEq, Repr

/-! ### The state -/

/-- The whole module. `pending` is the queue of commands, first in first out; `free` the counter of free values. `abandoned` are
the tags of abandoned requests, each with whether a reset abandoned it, so that its reply counts in XFER_LATE_DROPS alone (R263).
`turns` are the session commands that wait for the one before them, each with its session (R346); `out` is what was handed to the
Ethernet port, `sent` what it put on the line. -/
structure State where
  pending : List Instr := []
  free : Nat := 0
  ctl : SMap W64 := []
  staged : SMap W64 := []
  captured : SMap W64 := []
  checking : List Nat := []
  blend : BlendState := {}
  mem : Memory := {}
  ctxs : SMap Ctx := []
  ctxCmds : SMap (Option CtxCmd) := []
  requests : List Req := []
  abandoned : List (Nat × Bool) := []
  nextTag : Nat := 0
  tiles : SMap Tile := []
  cores : SMap Core := []
  ctrs : SMap Ctr := []
  transit : List Signal := []
  dies : SMap Die := []
  layers : SMap Layer := []
  cells : SMap Int := []
  scales : SMap (BitVec 16) := []
  passSeq : Nat := 0
  ringSeq : SMap Nat := []
  links : SMap Link := []
  engines : SMap Engine := []
  delivered : List (Nat × Msg) := []
  frames : List Frame := []
  buckets : List Bucket := []
  openSeqs : SMap Nat := []
  parked : List Parked := []
  earlyAborts : List EarlyAbort := []
  abortsSent : List (Nat × Nat × Nat × Bool) := []
  digests : SMap (List Digest) := []
  qps : SMap Qp := []
  prioShare : SMap Nat := []
  pausedPrio : List Nat := []
  pauseSent : List Nat := []
  sessions : SMap Session := []
  slotFails : SMap (List Nat) := []
  slotLocked : List Nat := []
  turns : List (Nat × Instr) := []
  out : List Output := []
  sent : List EthSent := []
  svc : Svc := {}
  power : Power := {}
  hkc : Hkc := {}
  rel : Rel := {}
  journal : Journal := {}
  boot : Boot := {}
  pins : Pins := {}
deriving DecidableEq, Repr

/-- Reasons for a fault: this block has none. Every command completes (NOTES.md, Stops). The constructor exists because
the host's interface asks for a type; no meaning raises it, so it is safe. -/
inductive Fault where
  /-- Raised by no meaning. Safe. -/
  | none_
deriving DecidableEq, Repr

/-- Reasons for a refusal by the model. -/
inductive Refusal where
  /-- The command has no meaning yet: raised by an arm of `exec` only. Safe: the model stops where the module goes on. -/
  | notModelled (mnemonic : String)
deriving DecidableEq, Repr

/-- The module right after reset: power has just been applied, the module holds in reset until the input is stable
(R363), every register reads its Reset column (R16) and CAP reads 0 (R45). Values that the manual does not give are the
defaults above, each named in the assumption log (entry 3). -/
def State.reset : State := {}

end Sys2Proof.Machine
end

