-- ==== Sys2Proof/Machine/Registers.lean ====
section
/-!
DEFINITION. The register fields of the control space (R11 to R13, R37, Table 2.1), as the register tables of the manual
give them: where each field stands, its access type and its Reset value. A field that no table gives reads 0 (R15).
-/

namespace Sys2Proof.Machine

/-- Access types (Table 0.3). `ctr` marks an event counter: WRAP in bit 63 (W1C), COUNT in bits 47 to 0 (RO) (Table 4.13). -/
inductive Acc where
  | ro | rw | w1c | wo | st | rc | ctr
deriving DecidableEq, Repr

/-- A register field: its block's base, its register's offset, the stride and the count of its like registers, its bits,
its access type, its Reset value, and whether it is live (R16). -/
structure Fld where
  base : Nat
  off : Nat
  stride : Nat
  count : Nat
  hi : Nat
  lo : Nat
  acc : Acc
  reset : Nat := 0
  live : Bool := false
deriving DecidableEq, Repr

/-- The byte address of a field in instance `i` of its block, register `j` of its like registers (R37). -/
def Fld.addr (f : Fld) (i j : Nat) : Nat := f.base + i * 0x1000 + f.off + j * f.stride

/-! The BLEND block (R39, R52). -/

def Fld.blendSrcOffset : Fld := ⟨0x0, 0x0, 0x0, 1, 25, 0, .st, 0, false⟩
def Fld.blendLenBytes : Fld := ⟨0x0, 0x8, 0x0, 1, 24, 0, .st, 0, false⟩
def Fld.blendCtrlApply : Fld := ⟨0x0, 0x10, 0x0, 1, 1, 1, .wo, 0, false⟩
def Fld.blendCtrlCheck : Fld := ⟨0x0, 0x10, 0x0, 1, 0, 0, .wo, 0, false⟩
def Fld.blendStatusCode : Fld := ⟨0x0, 0x18, 0x0, 1, 31, 16, .ro, 0, false⟩
def Fld.blendStatusState : Fld := ⟨0x0, 0x18, 0x0, 1, 2, 0, .ro, 0, false⟩
def Fld.blendErrLocSection : Fld := ⟨0x0, 0x20, 0x0, 1, 47, 32, .ro, 0, false⟩
def Fld.blendErrLocOffset : Fld := ⟨0x0, 0x20, 0x0, 1, 31, 0, .ro, 0, false⟩
def Fld.blendQuiesceTimeoutMs : Fld := ⟨0x0, 0x28, 0x0, 1, 13, 0, .rw, 0x64, false⟩
def Fld.blendActiveSerial : Fld := ⟨0x0, 0x30, 0x0, 1, 63, 0, .ro, 0, false⟩
def Fld.blendCtlErrCode : Fld := ⟨0x0, 0x38, 0x0, 1, 63, 48, .rc, 0, false⟩
def Fld.blendCtlErrAddress : Fld := ⟨0x0, 0x38, 0x0, 1, 47, 0, .rc, 0, false⟩
def Fld.blendActiveDigest : Fld := ⟨0x0, 0x40, 0x8, 4, 63, 0, .ro, 0, false⟩
def Fld.blendLastDigest : Fld := ⟨0x0, 0x60, 0x8, 4, 63, 0, .ro, 0, true⟩
def Fld.blendCommitGo : Fld := ⟨0x0, 0xFF0, 0x0, 1, 0, 0, .wo, 0, false⟩
def Fld.blendCommitStatusAccepted : Fld := ⟨0x0, 0xFF8, 0x0, 1, 63, 32, .ro, 0, false⟩
def Fld.blendCommitStatusCode : Fld := ⟨0x0, 0xFF8, 0x0, 1, 31, 16, .ro, 0, false⟩
def Fld.blendCommitStatusState : Fld := ⟨0x0, 0xFF8, 0x0, 1, 15, 14, .ro, 0, false⟩
def Fld.blendCommitStatusOffset : Fld := ⟨0x0, 0xFF8, 0x0, 1, 11, 0, .ro, 0, false⟩

/-- The fields of the BLEND block, in ascending offset and from high bits to low (R41). -/
def fieldsBlend0 : List Fld := [Fld.blendSrcOffset, Fld.blendLenBytes, Fld.blendCtrlApply, Fld.blendCtrlCheck, Fld.blendStatusCode, Fld.blendStatusState, Fld.blendErrLocSection, Fld.blendErrLocOffset, Fld.blendQuiesceTimeoutMs, Fld.blendActiveSerial, Fld.blendCtlErrCode, Fld.blendCtlErrAddress]
def fieldsBlend1 : List Fld := [Fld.blendActiveDigest, Fld.blendLastDigest, Fld.blendCommitGo, Fld.blendCommitStatusAccepted, Fld.blendCommitStatusCode, Fld.blendCommitStatusState, Fld.blendCommitStatusOffset]
def fieldsBlend : List Fld := fieldsBlend0 ++ fieldsBlend1

/-! The CAP block (R45). -/

def Fld.capIdFamily : Fld := ⟨0x1000, 0x0, 0x0, 1, 63, 48, .ro, 0, false⟩
def Fld.capIdMember : Fld := ⟨0x1000, 0x0, 0x0, 1, 47, 32, .ro, 0, false⟩
def Fld.capIdGrade : Fld := ⟨0x1000, 0x0, 0x0, 1, 31, 24, .ro, 0, false⟩
def Fld.capIdRev : Fld := ⟨0x1000, 0x0, 0x0, 1, 15, 0, .ro, 0, false⟩
def Fld.capComputePress : Fld := ⟨0x1000, 0x8, 0x0, 1, 55, 48, .ro, 0, false⟩
def Fld.capComputeTiles : Fld := ⟨0x1000, 0x8, 0x0, 1, 47, 40, .ro, 0, false⟩
def Fld.capComputeArrays : Fld := ⟨0x1000, 0x8, 0x0, 1, 39, 32, .ro, 0, false⟩
def Fld.capComputeLanes : Fld := ⟨0x1000, 0x8, 0x0, 1, 31, 16, .ro, 0, false⟩
def Fld.capComputeScalar : Fld := ⟨0x1000, 0x8, 0x0, 1, 15, 8, .ro, 0, false⟩
def Fld.capComputeService : Fld := ⟨0x1000, 0x8, 0x0, 1, 7, 0, .ro, 0, false⟩
def Fld.capCaskDies : Fld := ⟨0x1000, 0x10, 0x0, 1, 63, 56, .ro, 0, false⟩
def Fld.capCaskLayers : Fld := ⟨0x1000, 0x10, 0x0, 1, 55, 48, .ro, 0, false⟩
def Fld.capCaskRows : Fld := ⟨0x1000, 0x10, 0x0, 1, 47, 36, .ro, 0, false⟩
def Fld.capCaskColumns : Fld := ⟨0x1000, 0x10, 0x0, 1, 35, 24, .ro, 0, false⟩
def Fld.capCaskActive : Fld := ⟨0x1000, 0x10, 0x0, 1, 23, 12, .ro, 0, false⟩
def Fld.capCaskPhases : Fld := ⟨0x1000, 0x10, 0x0, 1, 11, 0, .ro, 0, false⟩
def Fld.capMacrosGood : Fld := ⟨0x1000, 0x18, 0x0, 1, 63, 32, .ro, 0, false⟩
def Fld.capMacrosNominal : Fld := ⟨0x1000, 0x18, 0x0, 1, 31, 16, .ro, 0, false⟩
def Fld.capMemoryStacks : Fld := ⟨0x1000, 0x20, 0x0, 1, 63, 56, .ro, 0, false⟩
def Fld.capMemoryStackGib : Fld := ⟨0x1000, 0x20, 0x0, 1, 55, 40, .ro, 0, false⟩
def Fld.capMemoryScratchKib : Fld := ⟨0x1000, 0x20, 0x0, 1, 39, 24, .ro, 0, false⟩
def Fld.capMemoryAccumKib : Fld := ⟨0x1000, 0x20, 0x0, 1, 23, 8, .ro, 0, false⟩
def Fld.capLinksLinks : Fld := ⟨0x1000, 0x28, 0x0, 1, 63, 56, .ro, 0, false⟩
def Fld.capLinksEngines : Fld := ⟨0x1000, 0x28, 0x0, 1, 55, 48, .ro, 0, false⟩
def Fld.capLinksWaves : Fld := ⟨0x1000, 0x28, 0x0, 1, 47, 40, .ro, 0, false⟩
def Fld.capLinksIdBits : Fld := ⟨0x1000, 0x28, 0x0, 1, 39, 32, .ro, 0, false⟩
def Fld.capLinksWaveGbps : Fld := ⟨0x1000, 0x28, 0x0, 1, 31, 16, .ro, 0, false⟩
def Fld.capLinksClass0Permille : Fld := ⟨0x1000, 0x28, 0x0, 1, 15, 0, .ro, 0, false⟩
def Fld.capContextsCount : Fld := ⟨0x1000, 0x30, 0x0, 1, 63, 32, .ro, 0, false⟩
def Fld.capContextsGenBits : Fld := ⟨0x1000, 0x30, 0x0, 1, 31, 24, .ro, 0, false⟩
def Fld.capContextsQuarantineUs : Fld := ⟨0x1000, 0x30, 0x0, 1, 23, 0, .ro, 0, false⟩
def Fld.capQueuesQueues : Fld := ⟨0x1000, 0x38, 0x0, 1, 63, 56, .ro, 0, false⟩
def Fld.capQueuesSlots : Fld := ⟨0x1000, 0x38, 0x0, 1, 55, 48, .ro, 0, false⟩
def Fld.capQueuesTileSync : Fld := ⟨0x1000, 0x38, 0x0, 1, 47, 40, .ro, 0, false⟩
def Fld.capQueuesServiceSync : Fld := ⟨0x1000, 0x38, 0x0, 1, 39, 24, .ro, 0, false⟩
def Fld.capQueuesOps : Fld := ⟨0x1000, 0x38, 0x0, 1, 23, 0, .ro, 0, false⟩
def Fld.capReductionGroups : Fld := ⟨0x1000, 0x40, 0x0, 1, 63, 56, .ro, 0, false⟩
def Fld.capReductionOutstanding : Fld := ⟨0x1000, 0x40, 0x0, 1, 55, 48, .ro, 0, false⟩
def Fld.capReductionBucketMax : Fld := ⟨0x1000, 0x40, 0x0, 1, 47, 32, .ro, 0, false⟩
def Fld.capReductionBucketMin : Fld := ⟨0x1000, 0x40, 0x0, 1, 31, 16, .ro, 0, false⟩
def Fld.capReductionChecksumMax : Fld := ⟨0x1000, 0x40, 0x0, 1, 15, 0, .ro, 0, false⟩
def Fld.capPowerCapMin : Fld := ⟨0x1000, 0x48, 0x0, 1, 63, 48, .ro, 0, false⟩
def Fld.capPowerCapMax : Fld := ⟨0x1000, 0x48, 0x0, 1, 47, 32, .ro, 0, false⟩
def Fld.capPowerCapDefault : Fld := ⟨0x1000, 0x48, 0x0, 1, 31, 16, .ro, 0, false⟩
def Fld.capPowerTileMhz : Fld := ⟨0x1000, 0x48, 0x0, 1, 15, 0, .ro, 0, false⟩
def Fld.capLimitsBlendMax : Fld := ⟨0x1000, 0x50, 0x0, 1, 63, 32, .ro, 0, false⟩
def Fld.capLimitsKeySlots : Fld := ⟨0x1000, 0x50, 0x0, 1, 31, 24, .ro, 0, false⟩
def Fld.capTileArraysMask : Fld := ⟨0x1000, 0x100, 0x8, 64, 7, 0, .ro, 0, false⟩
def Fld.capDieMacrosGood : Fld := ⟨0x1000, 0x300, 0x8, 32, 11, 0, .ro, 0, false⟩

/-- The fields of the CAP block, in ascending offset and from high bits to low (R41). -/
def fieldsCap0 : List Fld := [Fld.capIdFamily, Fld.capIdMember, Fld.capIdGrade, Fld.capIdRev, Fld.capComputePress, Fld.capComputeTiles, Fld.capComputeArrays, Fld.capComputeLanes, Fld.capComputeScalar, Fld.capComputeService, Fld.capCaskDies, Fld.capCaskLayers]
def fieldsCap1 : List Fld := [Fld.capCaskRows, Fld.capCaskColumns, Fld.capCaskActive, Fld.capCaskPhases, Fld.capMacrosGood, Fld.capMacrosNominal, Fld.capMemoryStacks, Fld.capMemoryStackGib, Fld.capMemoryScratchKib, Fld.capMemoryAccumKib, Fld.capLinksLinks, Fld.capLinksEngines]
def fieldsCap2 : List Fld := [Fld.capLinksWaves, Fld.capLinksIdBits, Fld.capLinksWaveGbps, Fld.capLinksClass0Permille, Fld.capContextsCount, Fld.capContextsGenBits, Fld.capContextsQuarantineUs, Fld.capQueuesQueues, Fld.capQueuesSlots, Fld.capQueuesTileSync, Fld.capQueuesServiceSync, Fld.capQueuesOps]
def fieldsCap3 : List Fld := [Fld.capReductionGroups, Fld.capReductionOutstanding, Fld.capReductionBucketMax, Fld.capReductionBucketMin, Fld.capReductionChecksumMax, Fld.capPowerCapMin, Fld.capPowerCapMax, Fld.capPowerCapDefault, Fld.capPowerTileMhz, Fld.capLimitsBlendMax, Fld.capLimitsKeySlots, Fld.capTileArraysMask]
def fieldsCap4 : List Fld := [Fld.capDieMacrosGood]
def fieldsCap : List Fld := fieldsCap0 ++ fieldsCap1 ++ fieldsCap2 ++ fieldsCap3 ++ fieldsCap4

/-! The BOOT block (R443). -/

def Fld.bootStatusStage : Fld := ⟨0x2000, 0x0, 0x0, 1, 55, 48, .ro, 0, true⟩
def Fld.bootStatusCount : Fld := ⟨0x2000, 0x0, 0x0, 1, 47, 40, .ro, 0, true⟩
def Fld.bootStatusBank : Fld := ⟨0x2000, 0x0, 0x0, 1, 35, 34, .ro, 0, true⟩
def Fld.bootStatusTrial : Fld := ⟨0x2000, 0x0, 0x0, 1, 33, 33, .ro, 0, true⟩
def Fld.bootStatusStrap : Fld := ⟨0x2000, 0x0, 0x0, 1, 32, 32, .ro, 0, true⟩
def Fld.bootStatusCode : Fld := ⟨0x2000, 0x0, 0x0, 1, 31, 16, .ro, 0, true⟩
def Fld.bootStatusOutcome : Fld := ⟨0x2000, 0x0, 0x0, 1, 2, 0, .ro, 0, true⟩
def Fld.bootStartTotalMs : Fld := ⟨0x2000, 0x8, 0x0, 1, 63, 32, .ro, 0, true⟩
def Fld.bootStartSeq : Fld := ⟨0x2000, 0x8, 0x0, 1, 31, 0, .ro, 0, true⟩
def Fld.bootReasonCode : Fld := ⟨0x2000, 0x10, 0x0, 1, 63, 48, .ro, 0, true⟩
def Fld.bootReasonUnit : Fld := ⟨0x2000, 0x10, 0x0, 1, 47, 32, .ro, 0, true⟩
def Fld.bootReasonStage : Fld := ⟨0x2000, 0x10, 0x0, 1, 31, 24, .ro, 0, true⟩
def Fld.bootReasonFlags : Fld := ⟨0x2000, 0x10, 0x0, 1, 23, 16, .ro, 0, true⟩
def Fld.bootSvnSvn : Fld := ⟨0x2000, 0x18, 0x0, 1, 63, 32, .ro, 0, true⟩
def Fld.bootSvnMinSvn : Fld := ⟨0x2000, 0x18, 0x0, 1, 31, 0, .ro, 0, true⟩
def Fld.bootBankSvn : Fld := ⟨0x2000, 0x20, 0x8, 3, 63, 32, .ro, 0, true⟩
def Fld.bootBankValid : Fld := ⟨0x2000, 0x20, 0x8, 3, 0, 0, .ro, 0, true⟩
def Fld.bootFwDigest : Fld := ⟨0x2000, 0x40, 0x8, 4, 63, 0, .ro, 0, true⟩
def Fld.bootStageTimeUs : Fld := ⟨0x2000, 0x100, 0x8, 9, 31, 0, .ro, 0, true⟩

/-- The fields of the BOOT block, in ascending offset and from high bits to low (R41). -/
def fieldsBoot0 : List Fld := [Fld.bootStatusStage, Fld.bootStatusCount, Fld.bootStatusBank, Fld.bootStatusTrial, Fld.bootStatusStrap, Fld.bootStatusCode, Fld.bootStatusOutcome, Fld.bootStartTotalMs, Fld.bootStartSeq, Fld.bootReasonCode, Fld.bootReasonUnit, Fld.bootReasonStage]
def fieldsBoot1 : List Fld := [Fld.bootReasonFlags, Fld.bootSvnSvn, Fld.bootSvnMinSvn, Fld.bootBankSvn, Fld.bootBankValid, Fld.bootFwDigest, Fld.bootStageTimeUs]
def fieldsBoot : List Fld := fieldsBoot0 ++ fieldsBoot1

/-! The ATT block (R443). -/

def Fld.attSerial : Fld := ⟨0x3000, 0x0, 0x0, 1, 63, 0, .ro, 0, true⟩
def Fld.attKeysVkeyed : Fld := ⟨0x3000, 0x8, 0x0, 1, 11, 8, .ro, 0, true⟩
def Fld.attKeysKeyed : Fld := ⟨0x3000, 0x8, 0x0, 1, 7, 0, .ro, 0, true⟩
def Fld.attStatusCode : Fld := ⟨0x3000, 0x10, 0x0, 1, 63, 48, .ro, 0, false⟩
def Fld.attStatusIdentityOk : Fld := ⟨0x3000, 0x10, 0x0, 1, 0, 0, .ro, 0, true⟩
def Fld.attIdentityDigest : Fld := ⟨0x3000, 0x20, 0x8, 4, 63, 0, .ro, 0, true⟩
def Fld.attReports : Fld := ⟨0x3000, 0x40, 0x0, 1, 63, 0, .ctr, 0, false⟩

/-- The fields of the ATT block, in ascending offset and from high bits to low (R41). -/
def fieldsAtt0 : List Fld := [Fld.attSerial, Fld.attKeysVkeyed, Fld.attKeysKeyed, Fld.attStatusCode, Fld.attStatusIdentityOk, Fld.attIdentityDigest, Fld.attReports]
def fieldsAtt : List Fld := fieldsAtt0

/-! The SES block (R360, R39). -/

def Fld.sesCtlPort : Fld := ⟨0x4000, 0x0, 0x0, 1, 47, 32, .st, 0x1842, false⟩
def Fld.sesCtlIdleS : Fld := ⟨0x4000, 0x0, 0x0, 1, 31, 16, .st, 0x258, false⟩
def Fld.sesCtlMax : Fld := ⟨0x4000, 0x0, 0x0, 1, 2, 0, .st, 4, false⟩
def Fld.sesStatusLocked : Fld := ⟨0x4000, 0x8, 0x0, 1, 23, 16, .ro, 0, true⟩
def Fld.sesStatusKeyed : Fld := ⟨0x4000, 0x8, 0x0, 1, 15, 8, .ro, 0, true⟩
def Fld.sesStatusOpen : Fld := ⟨0x4000, 0x8, 0x0, 1, 2, 0, .ro, 0, true⟩
def Fld.sesLastFailCode : Fld := ⟨0x4000, 0x10, 0x0, 1, 63, 48, .rc, 0, false⟩
def Fld.sesLastFailSlot : Fld := ⟨0x4000, 0x10, 0x0, 1, 47, 40, .rc, 0, false⟩
def Fld.sesLastFailSource : Fld := ⟨0x4000, 0x10, 0x0, 1, 31, 0, .rc, 0, false⟩
def Fld.sesOpens : Fld := ⟨0x4000, 0x18, 0x0, 1, 63, 0, .ctr, 0, false⟩
def Fld.sesAuthFails : Fld := ⟨0x4000, 0x20, 0x0, 1, 63, 0, .ctr, 0, false⟩
def Fld.sesCommands : Fld := ⟨0x4000, 0x28, 0x0, 1, 63, 0, .ctr, 0, false⟩
def Fld.sesTimeouts : Fld := ⟨0x4000, 0x30, 0x0, 1, 63, 0, .ctr, 0, false⟩
def Fld.sesCommitGo : Fld := ⟨0x4000, 0xFF0, 0x0, 1, 0, 0, .wo, 0, false⟩
def Fld.sesCommitStatusAccepted : Fld := ⟨0x4000, 0xFF8, 0x0, 1, 63, 32, .ro, 0, false⟩
def Fld.sesCommitStatusCode : Fld := ⟨0x4000, 0xFF8, 0x0, 1, 31, 16, .ro, 0, false⟩
def Fld.sesCommitStatusState : Fld := ⟨0x4000, 0xFF8, 0x0, 1, 15, 14, .ro, 0, false⟩
def Fld.sesCommitStatusOffset : Fld := ⟨0x4000, 0xFF8, 0x0, 1, 11, 0, .ro, 0, false⟩

/-- The fields of the SES block, in ascending offset and from high bits to low (R41). -/
def fieldsSes0 : List Fld := [Fld.sesCtlPort, Fld.sesCtlIdleS, Fld.sesCtlMax, Fld.sesStatusLocked, Fld.sesStatusKeyed, Fld.sesStatusOpen, Fld.sesLastFailCode, Fld.sesLastFailSlot, Fld.sesLastFailSource, Fld.sesOpens, Fld.sesAuthFails, Fld.sesCommands]
def fieldsSes1 : List Fld := [Fld.sesTimeouts, Fld.sesCommitGo, Fld.sesCommitStatusAccepted, Fld.sesCommitStatusCode, Fld.sesCommitStatusState, Fld.sesCommitStatusOffset]
def fieldsSes : List Fld := fieldsSes0 ++ fieldsSes1

/-! The ETH block (R360, R39). -/

def Fld.ethCtlPfcMask : Fld := ⟨0x5000, 0x0, 0x0, 1, 47, 40, .st, 8, false⟩
def Fld.ethCtlPcpRoce : Fld := ⟨0x5000, 0x0, 0x0, 1, 39, 37, .st, 3, false⟩
def Fld.ethCtlPcpMgmt : Fld := ⟨0x5000, 0x0, 0x0, 1, 36, 34, .st, 6, false⟩
def Fld.ethCtlEcn : Fld := ⟨0x5000, 0x0, 0x0, 1, 33, 33, .st, 1, false⟩
def Fld.ethCtlEnable : Fld := ⟨0x5000, 0x0, 0x0, 1, 32, 32, .st, 0, false⟩
def Fld.ethCtlVid : Fld := ⟨0x5000, 0x0, 0x0, 1, 27, 16, .st, 1, false⟩
def Fld.ethCtlMtu : Fld := ⟨0x5000, 0x0, 0x0, 1, 13, 0, .st, 0x2328, false⟩
def Fld.ethMacAddress : Fld := ⟨0x5000, 0x8, 0x0, 1, 47, 0, .st, 0, false⟩
def Fld.ethIpv4Prefix : Fld := ⟨0x5000, 0x10, 0x0, 1, 39, 32, .st, 0, false⟩
def Fld.ethIpv4Address : Fld := ⟨0x5000, 0x10, 0x0, 1, 31, 0, .st, 0, false⟩
def Fld.ethGw4Address : Fld := ⟨0x5000, 0x18, 0x0, 1, 31, 0, .st, 0, false⟩
def Fld.ethIpv60 : Fld := ⟨0x5000, 0x20, 0x0, 1, 63, 0, .st, 0, false⟩
def Fld.ethIpv61 : Fld := ⟨0x5000, 0x28, 0x0, 1, 63, 0, .st, 0, false⟩
def Fld.ethIpv6CfgPrefix : Fld := ⟨0x5000, 0x30, 0x0, 1, 7, 0, .st, 0, false⟩
def Fld.ethGw60 : Fld := ⟨0x5000, 0x38, 0x0, 1, 63, 0, .st, 0, false⟩
def Fld.ethGw61 : Fld := ⟨0x5000, 0x40, 0x0, 1, 63, 0, .st, 0, false⟩
def Fld.ethStatusLanes : Fld := ⟨0x5000, 0x50, 0x0, 1, 15, 8, .ro, 0, true⟩
def Fld.ethStatusFecLock : Fld := ⟨0x5000, 0x50, 0x0, 1, 2, 2, .ro, 0, true⟩
def Fld.ethStatusPaused : Fld := ⟨0x5000, 0x50, 0x0, 1, 1, 1, .ro, 0, true⟩
def Fld.ethStatusLink : Fld := ⟨0x5000, 0x50, 0x0, 1, 0, 0, .ro, 0, true⟩
def Fld.ethErrCode : Fld := ⟨0x5000, 0x58, 0x0, 1, 63, 48, .rc, 0, false⟩
def Fld.ethErrQp : Fld := ⟨0x5000, 0x58, 0x0, 1, 47, 32, .rc, 0, false⟩
def Fld.ethRxFrames : Fld := ⟨0x5000, 0x60, 0x0, 1, 63, 0, .ctr, 0, false⟩
def Fld.ethTxFrames : Fld := ⟨0x5000, 0x68, 0x0, 1, 63, 0, .ctr, 0, false⟩
def Fld.ethRxDrops : Fld := ⟨0x5000, 0x70, 0x0, 1, 63, 0, .ctr, 0, false⟩
def Fld.ethFecSymbols : Fld := ⟨0x5000, 0x78, 0x0, 1, 63, 0, .ctr, 0, false⟩
def Fld.ethFecUncorrectable : Fld := ⟨0x5000, 0x80, 0x0, 1, 63, 0, .ctr, 0, false⟩
def Fld.ethPfcRx : Fld := ⟨0x5000, 0x88, 0x0, 1, 63, 0, .ctr, 0, false⟩
def Fld.ethPfcTx : Fld := ⟨0x5000, 0x90, 0x0, 1, 63, 0, .ctr, 0, false⟩
def Fld.ethCeReceived : Fld := ⟨0x5000, 0x98, 0x0, 1, 63, 0, .ctr, 0, false⟩
def Fld.ethCnpSent : Fld := ⟨0x5000, 0xA0, 0x0, 1, 63, 0, .ctr, 0, false⟩
def Fld.ethRetransmits : Fld := ⟨0x5000, 0xA8, 0x0, 1, 63, 0, .ctr, 0, false⟩
def Fld.ethLinkDowns : Fld := ⟨0x5000, 0xB0, 0x0, 1, 63, 0, .ctr, 0, false⟩
def Fld.ethCommitGo : Fld := ⟨0x5000, 0xFF0, 0x0, 1, 0, 0, .wo, 0, false⟩
def Fld.ethCommitStatusAccepted : Fld := ⟨0x5000, 0xFF8, 0x0, 1, 63, 32, .ro, 0, false⟩
def Fld.ethCommitStatusCode : Fld := ⟨0x5000, 0xFF8, 0x0, 1, 31, 16, .ro, 0, false⟩
def Fld.ethCommitStatusState : Fld := ⟨0x5000, 0xFF8, 0x0, 1, 15, 14, .ro, 0, false⟩
def Fld.ethCommitStatusOffset : Fld := ⟨0x5000, 0xFF8, 0x0, 1, 11, 0, .ro, 0, false⟩

/-- The fields of the ETH block, in ascending offset and from high bits to low (R41). -/
def fieldsEth0 : List Fld := [Fld.ethCtlPfcMask, Fld.ethCtlPcpRoce, Fld.ethCtlPcpMgmt, Fld.ethCtlEcn, Fld.ethCtlEnable, Fld.ethCtlVid, Fld.ethCtlMtu, Fld.ethMacAddress, Fld.ethIpv4Prefix, Fld.ethIpv4Address, Fld.ethGw4Address, Fld.ethIpv60]
def fieldsEth1 : List Fld := [Fld.ethIpv61, Fld.ethIpv6CfgPrefix, Fld.ethGw60, Fld.ethGw61, Fld.ethStatusLanes, Fld.ethStatusFecLock, Fld.ethStatusPaused, Fld.ethStatusLink, Fld.ethErrCode, Fld.ethErrQp, Fld.ethRxFrames, Fld.ethTxFrames]
def fieldsEth2 : List Fld := [Fld.ethRxDrops, Fld.ethFecSymbols, Fld.ethFecUncorrectable, Fld.ethPfcRx, Fld.ethPfcTx, Fld.ethCeReceived, Fld.ethCnpSent, Fld.ethRetransmits, Fld.ethLinkDowns, Fld.ethCommitGo, Fld.ethCommitStatusAccepted, Fld.ethCommitStatusCode]
def fieldsEth3 : List Fld := [Fld.ethCommitStatusState, Fld.ethCommitStatusOffset]
def fieldsEth : List Fld := fieldsEth0 ++ fieldsEth1 ++ fieldsEth2 ++ fieldsEth3

/-! The PWR block (R39, R395). -/

def Fld.pwrCtlDroopMv : Fld := ⟨0x6000, 0x0, 0x0, 1, 23, 16, .st, 0x28, false⟩
def Fld.pwrCtlEnvSrc : Fld := ⟨0x6000, 0x0, 0x0, 1, 4, 4, .st, 0, false⟩
def Fld.pwrCtlProfile : Fld := ⟨0x6000, 0x0, 0x0, 1, 1, 0, .st, 0, false⟩
def Fld.pwrCapCapW : Fld := ⟨0x6000, 0x8, 0x0, 1, 15, 0, .st, 0x898, false⟩
def Fld.pwrBallastRampMs : Fld := ⟨0x6000, 0x10, 0x0, 1, 31, 16, .st, 0x28, false⟩
def Fld.pwrBallastFloorW : Fld := ⟨0x6000, 0x10, 0x0, 1, 15, 0, .st, 0, false⟩
def Fld.pwrEnvelopeW : Fld := ⟨0x6000, 0x18, 0x0, 1, 15, 0, .rw, 0x960, false⟩
def Fld.pwrCapStatusAchievedW : Fld := ⟨0x6000, 0x20, 0x0, 1, 63, 48, .ro, 0, true⟩
def Fld.pwrCapStatusInForceW : Fld := ⟨0x6000, 0x20, 0x0, 1, 47, 32, .ro, 0, true⟩
def Fld.pwrCapStatusTileMhz : Fld := ⟨0x6000, 0x20, 0x0, 1, 31, 16, .ro, 0, true⟩
def Fld.pwrCapStatusCapFlags : Fld := ⟨0x6000, 0x20, 0x0, 1, 15, 0, .ro, 0, true⟩
def Fld.pwrDomainCmdOn : Fld := ⟨0x6000, 0x28, 0x0, 1, 7, 7, .wo, 0, false⟩
def Fld.pwrDomainCmdDomain : Fld := ⟨0x6000, 0x28, 0x0, 1, 6, 0, .wo, 0, false⟩
def Fld.pwrDomainStatusCode : Fld := ⟨0x6000, 0x30, 0x0, 1, 63, 48, .ro, 0, false⟩
def Fld.pwrDomainStatusBusy : Fld := ⟨0x6000, 0x30, 0x0, 1, 0, 0, .ro, 0, true⟩
def Fld.pwrDomainOn0 : Fld := ⟨0x6000, 0x38, 0x0, 1, 63, 0, .ro, 0, true⟩
def Fld.pwrDomainOn1Mask : Fld := ⟨0x6000, 0x40, 0x0, 1, 47, 0, .ro, 0, true⟩
def Fld.pwrIdleCmdCmd : Fld := ⟨0x6000, 0x48, 0x0, 1, 1, 0, .wo, 0, false⟩
def Fld.pwrIdleStatusCode : Fld := ⟨0x6000, 0x50, 0x0, 1, 63, 48, .ro, 0, false⟩
def Fld.pwrIdleStatusState : Fld := ⟨0x6000, 0x50, 0x0, 1, 1, 0, .ro, 0, true⟩
def Fld.pwrInputVinMv : Fld := ⟨0x6000, 0x58, 0x0, 1, 63, 48, .ro, 0, true⟩
def Fld.pwrInputIinCa : Fld := ⟨0x6000, 0x58, 0x0, 1, 47, 32, .ro, 0, true⟩
def Fld.pwrInputVholdMv : Fld := ⟨0x6000, 0x58, 0x0, 1, 31, 16, .ro, 0, true⟩
def Fld.pwrThermLimitExt : Fld := ⟨0x6000, 0x60, 0x0, 1, 31, 0, .st, 0x46464646, false⟩
def Fld.pwrErrCode : Fld := ⟨0x6000, 0x68, 0x0, 1, 63, 48, .rc, 0, false⟩
def Fld.pwrErrUnit : Fld := ⟨0x6000, 0x68, 0x0, 1, 47, 40, .rc, 0, false⟩
def Fld.pwrPeerCfgEnable : Fld := ⟨0x6000, 0x70, 0x0, 1, 63, 63, .st, 0, false⟩
def Fld.pwrPeerCfgOffset : Fld := ⟨0x6000, 0x70, 0x0, 1, 25, 0, .st, 0, false⟩
def Fld.pwrAttrCfgSync : Fld := ⟨0x6000, 0x78, 0x0, 1, 47, 40, .st, 0, false⟩
def Fld.pwrAttrCfgSizeLog2 : Fld := ⟨0x6000, 0x78, 0x0, 1, 36, 32, .st, 0, false⟩
def Fld.pwrAttrCfgOffset : Fld := ⟨0x6000, 0x78, 0x0, 1, 25, 0, .st, 0, false⟩
def Fld.pwrAttrPtrRptr : Fld := ⟨0x6000, 0x80, 0x0, 1, 63, 32, .rw, 0, false⟩
def Fld.pwrAttrPtrWptr : Fld := ⟨0x6000, 0x80, 0x0, 1, 31, 0, .ro, 0, false⟩
def Fld.pwrAttrMarkMark : Fld := ⟨0x6000, 0x88, 0x0, 1, 0, 0, .wo, 0, false⟩
def Fld.pwrEnergyInUj : Fld := ⟨0x6000, 0x90, 0x0, 1, 63, 0, .ro, 0, false⟩
def Fld.pwrEnergyModelUj : Fld := ⟨0x6000, 0x98, 0x0, 1, 63, 0, .ro, 0, false⟩
def Fld.pwrBallastUj : Fld := ⟨0x6000, 0xA0, 0x0, 1, 63, 0, .ro, 0, false⟩
def Fld.pwrDroopEvents : Fld := ⟨0x6000, 0xA8, 0x0, 1, 63, 0, .ctr, 0, false⟩
def Fld.pwrUnmetMs : Fld := ⟨0x6000, 0xB0, 0x0, 1, 63, 0, .ctr, 0, false⟩
def Fld.pwrThermalMs : Fld := ⟨0x6000, 0xB8, 0x0, 1, 63, 0, .ctr, 0, false⟩
def Fld.pwrSags : Fld := ⟨0x6000, 0xC0, 0x0, 1, 63, 0, .ctr, 0, false⟩
def Fld.pwrCommitGo : Fld := ⟨0x6000, 0xFF0, 0x0, 1, 0, 0, .wo, 0, false⟩
def Fld.pwrCommitStatusAccepted : Fld := ⟨0x6000, 0xFF8, 0x0, 1, 63, 32, .ro, 0, false⟩
def Fld.pwrCommitStatusCode : Fld := ⟨0x6000, 0xFF8, 0x0, 1, 31, 16, .ro, 0, false⟩
def Fld.pwrCommitStatusState : Fld := ⟨0x6000, 0xFF8, 0x0, 1, 15, 14, .ro, 0, false⟩
def Fld.pwrCommitStatusOffset : Fld := ⟨0x6000, 0xFF8, 0x0, 1, 11, 0, .ro, 0, false⟩

/-- The fields of the PWR block, in ascending offset and from high bits to low (R41). -/
def fieldsPwr0 : List Fld := [Fld.pwrCtlDroopMv, Fld.pwrCtlEnvSrc, Fld.pwrCtlProfile, Fld.pwrCapCapW, Fld.pwrBallastRampMs, Fld.pwrBallastFloorW, Fld.pwrEnvelopeW, Fld.pwrCapStatusAchievedW, Fld.pwrCapStatusInForceW, Fld.pwrCapStatusTileMhz, Fld.pwrCapStatusCapFlags, Fld.pwrDomainCmdOn]
def fieldsPwr1 : List Fld := [Fld.pwrDomainCmdDomain, Fld.pwrDomainStatusCode, Fld.pwrDomainStatusBusy, Fld.pwrDomainOn0, Fld.pwrDomainOn1Mask, Fld.pwrIdleCmdCmd, Fld.pwrIdleStatusCode, Fld.pwrIdleStatusState, Fld.pwrInputVinMv, Fld.pwrInputIinCa, Fld.pwrInputVholdMv, Fld.pwrThermLimitExt]
def fieldsPwr2 : List Fld := [Fld.pwrErrCode, Fld.pwrErrUnit, Fld.pwrPeerCfgEnable, Fld.pwrPeerCfgOffset, Fld.pwrAttrCfgSync, Fld.pwrAttrCfgSizeLog2, Fld.pwrAttrCfgOffset, Fld.pwrAttrPtrRptr, Fld.pwrAttrPtrWptr, Fld.pwrAttrMarkMark, Fld.pwrEnergyInUj, Fld.pwrEnergyModelUj]
def fieldsPwr3 : List Fld := [Fld.pwrBallastUj, Fld.pwrDroopEvents, Fld.pwrUnmetMs, Fld.pwrThermalMs, Fld.pwrSags, Fld.pwrCommitGo, Fld.pwrCommitStatusAccepted, Fld.pwrCommitStatusCode, Fld.pwrCommitStatusState, Fld.pwrCommitStatusOffset]
def fieldsPwr : List Fld := fieldsPwr0 ++ fieldsPwr1 ++ fieldsPwr2 ++ fieldsPwr3

/-! The HKC block (R39, R396). -/

def Fld.hkcCtlDiv : Fld := ⟨0x7000, 0x0, 0x0, 1, 7, 4, .st, 0, false⟩
def Fld.hkcCtlLeft : Fld := ⟨0x7000, 0x0, 0x0, 1, 0, 0, .st, 0, false⟩
def Fld.hkcRingMask : Fld := ⟨0x7000, 0x8, 0x0, 1, 63, 0, .st, 0, false⟩
def Fld.hkcRingCfgSync : Fld := ⟨0x7000, 0x10, 0x0, 1, 47, 40, .st, 0, false⟩
def Fld.hkcRingCfgSizeLog2 : Fld := ⟨0x7000, 0x10, 0x0, 1, 36, 32, .st, 0, false⟩
def Fld.hkcRingCfgBase : Fld := ⟨0x7000, 0x10, 0x0, 1, 17, 0, .st, 0, false⟩
def Fld.hkcRingWmWatermark : Fld := ⟨0x7000, 0x18, 0x0, 1, 31, 0, .st, 0, false⟩
def Fld.hkcRingPtrRptr : Fld := ⟨0x7000, 0x20, 0x0, 1, 63, 32, .rw, 0, false⟩
def Fld.hkcRingPtrWptr : Fld := ⟨0x7000, 0x20, 0x0, 1, 31, 0, .ro, 0, false⟩
def Fld.hkcTestGo : Fld := ⟨0x7000, 0x28, 0x0, 1, 0, 0, .wo, 0, false⟩
def Fld.hkcTestStatusFailed : Fld := ⟨0x7000, 0x30, 0x0, 1, 10, 8, .ro, 0, false⟩
def Fld.hkcTestStatusState : Fld := ⟨0x7000, 0x30, 0x0, 1, 1, 0, .ro, 0, false⟩
def Fld.hkcThermStatusOver : Fld := ⟨0x7000, 0x38, 0x0, 1, 7, 4, .ro, 0, true⟩
def Fld.hkcThermStatusOpen : Fld := ⟨0x7000, 0x38, 0x0, 1, 3, 0, .ro, 0, true⟩
def Fld.hkcWindowBase : Fld := ⟨0x7000, 0x40, 0x0, 1, 17, 11, .rw, 0, false⟩
def Fld.hkcConversions : Fld := ⟨0x7000, 0x48, 0x0, 1, 63, 0, .ctr, 0, false⟩
def Fld.hkcAborts : Fld := ⟨0x7000, 0x50, 0x0, 1, 63, 0, .ctr, 0, false⟩
def Fld.hkcRingDrops : Fld := ⟨0x7000, 0x58, 0x0, 1, 63, 0, .ctr, 0, false⟩
def Fld.hkcLastScan : Fld := ⟨0x7000, 0x100, 0x8, 64, 63, 32, .ro, 0, true⟩
def Fld.hkcLastCode : Fld := ⟨0x7000, 0x100, 0x8, 64, 15, 0, .ro, 0, true⟩
def Fld.hkcWindowData : Fld := ⟨0x7000, 0x400, 0x8, 256, 63, 0, .ro, 0, true⟩
def Fld.hkcCommitGo : Fld := ⟨0x7000, 0xFF0, 0x0, 1, 0, 0, .wo, 0, false⟩
def Fld.hkcCommitStatusAccepted : Fld := ⟨0x7000, 0xFF8, 0x0, 1, 63, 32, .ro, 0, false⟩
def Fld.hkcCommitStatusCode : Fld := ⟨0x7000, 0xFF8, 0x0, 1, 31, 16, .ro, 0, false⟩
def Fld.hkcCommitStatusState : Fld := ⟨0x7000, 0xFF8, 0x0, 1, 15, 14, .ro, 0, false⟩
def Fld.hkcCommitStatusOffset : Fld := ⟨0x7000, 0xFF8, 0x0, 1, 11, 0, .ro, 0, false⟩

/-- The fields of the HKC block, in ascending offset and from high bits to low (R41). -/
def fieldsHkc0 : List Fld := [Fld.hkcCtlDiv, Fld.hkcCtlLeft, Fld.hkcRingMask, Fld.hkcRingCfgSync, Fld.hkcRingCfgSizeLog2, Fld.hkcRingCfgBase, Fld.hkcRingWmWatermark, Fld.hkcRingPtrRptr, Fld.hkcRingPtrWptr, Fld.hkcTestGo, Fld.hkcTestStatusFailed, Fld.hkcTestStatusState]
def fieldsHkc1 : List Fld := [Fld.hkcThermStatusOver, Fld.hkcThermStatusOpen, Fld.hkcWindowBase, Fld.hkcConversions, Fld.hkcAborts, Fld.hkcRingDrops, Fld.hkcLastScan, Fld.hkcLastCode, Fld.hkcWindowData, Fld.hkcCommitGo, Fld.hkcCommitStatusAccepted, Fld.hkcCommitStatusCode]
def fieldsHkc2 : List Fld := [Fld.hkcCommitStatusState, Fld.hkcCommitStatusOffset]
def fieldsHkc : List Fld := fieldsHkc0 ++ fieldsHkc1 ++ fieldsHkc2

/-! The RST block (R39, R425). -/

def Fld.rstCtlWaitS : Fld := ⟨0x8000, 0x0, 0x0, 1, 39, 24, .st, 0x258, false⟩
def Fld.rstCtlEscMax : Fld := ⟨0x8000, 0x0, 0x0, 1, 2, 0, .st, 5, false⟩
def Fld.rstDumpEnable : Fld := ⟨0x8000, 0x8, 0x0, 1, 63, 63, .st, 1, false⟩
def Fld.rstDumpOffset : Fld := ⟨0x8000, 0x8, 0x0, 1, 25, 0, .st, 0x3c00000, false⟩
def Fld.rstLogCfgOffset : Fld := ⟨0x8000, 0x10, 0x0, 1, 25, 0, .st, 0x3800000, false⟩
def Fld.rstLogPtrRptr : Fld := ⟨0x8000, 0x18, 0x0, 1, 63, 32, .rw, 0, false⟩
def Fld.rstLogPtrWptr : Fld := ⟨0x8000, 0x18, 0x0, 1, 31, 0, .ro, 0, true⟩
def Fld.rstCmdUnit : Fld := ⟨0x8000, 0x20, 0x0, 1, 23, 8, .wo, 0, false⟩
def Fld.rstCmdLevel : Fld := ⟨0x8000, 0x20, 0x0, 1, 2, 0, .wo, 0, false⟩
def Fld.rstStatusCode : Fld := ⟨0x8000, 0x28, 0x0, 1, 63, 48, .ro, 0, false⟩
def Fld.rstStatusUnit : Fld := ⟨0x8000, 0x28, 0x0, 1, 47, 32, .ro, 0, true⟩
def Fld.rstStatusSafe : Fld := ⟨0x8000, 0x28, 0x0, 1, 4, 4, .ro, 0, true⟩
def Fld.rstStatusBusy : Fld := ⟨0x8000, 0x28, 0x0, 1, 3, 3, .ro, 0, true⟩
def Fld.rstStatusLevel : Fld := ⟨0x8000, 0x28, 0x0, 1, 2, 0, .ro, 0, true⟩
def Fld.rstLastCause : Fld := ⟨0x8000, 0x30, 0x0, 1, 63, 48, .ro, 0, false⟩
def Fld.rstLastUnit : Fld := ⟨0x8000, 0x30, 0x0, 1, 47, 32, .ro, 0, false⟩
def Fld.rstLastEscalations : Fld := ⟨0x8000, 0x30, 0x0, 1, 11, 8, .ro, 0, false⟩
def Fld.rstLastFirst : Fld := ⟨0x8000, 0x30, 0x0, 1, 6, 4, .ro, 0, false⟩
def Fld.rstLastFinal : Fld := ⟨0x8000, 0x30, 0x0, 1, 2, 0, .ro, 0, false⟩
def Fld.rstHangCode : Fld := ⟨0x8000, 0x38, 0x0, 1, 63, 48, .rc, 0, false⟩
def Fld.rstHangContext : Fld := ⟨0x8000, 0x38, 0x0, 1, 47, 32, .rc, 0, false⟩
def Fld.rstHangGen : Fld := ⟨0x8000, 0x38, 0x0, 1, 31, 24, .rc, 0, false⟩
def Fld.rstHangSlot : Fld := ⟨0x8000, 0x38, 0x0, 1, 23, 16, .rc, 0, false⟩
def Fld.rstHangQueue : Fld := ⟨0x8000, 0x38, 0x0, 1, 15, 12, .rc, 0, false⟩
def Fld.rstHangKind : Fld := ⟨0x8000, 0x38, 0x0, 1, 7, 0, .rc, 0, false⟩
def Fld.rstHangUnitUnit : Fld := ⟨0x8000, 0x40, 0x0, 1, 63, 48, .rc, 0, false⟩
def Fld.rstHangUnitCores : Fld := ⟨0x8000, 0x40, 0x0, 1, 47, 40, .rc, 0, false⟩
def Fld.rstHangUnitSeq : Fld := ⟨0x8000, 0x40, 0x0, 1, 31, 0, .rc, 0, false⟩
def Fld.rstHangPc : Fld := ⟨0x8000, 0x48, 0x0, 1, 63, 0, .rc, 0, false⟩
def Fld.rstHangDetail : Fld := ⟨0x8000, 0x50, 0x0, 1, 63, 0, .rc, 0, false⟩
def Fld.rstSampleOffset : Fld := ⟨0x8000, 0x100, 0x8, 64, 24, 0, .st, 0, false⟩
def Fld.rstEngineResets : Fld := ⟨0x8000, 0x300, 0x0, 1, 63, 0, .ctr, 0, false⟩
def Fld.rstTileResets : Fld := ⟨0x8000, 0x308, 0x0, 1, 63, 0, .ctr, 0, false⟩
def Fld.rstOpticalRestarts : Fld := ⟨0x8000, 0x310, 0x0, 1, 63, 0, .ctr, 0, false⟩
def Fld.rstPressResets : Fld := ⟨0x8000, 0x318, 0x0, 1, 63, 0, .ctr, 0, false⟩
def Fld.rstWarmResets : Fld := ⟨0x8000, 0x320, 0x0, 1, 63, 0, .ctr, 0, false⟩
def Fld.rstEscalations : Fld := ⟨0x8000, 0x328, 0x0, 1, 63, 0, .ctr, 0, false⟩
def Fld.rstDeadlines : Fld := ⟨0x8000, 0x330, 0x0, 1, 63, 0, .ctr, 0, false⟩
def Fld.rstWaitReports : Fld := ⟨0x8000, 0x338, 0x0, 1, 63, 0, .ctr, 0, false⟩
def Fld.rstSafeEntries : Fld := ⟨0x8000, 0x340, 0x0, 1, 63, 0, .ctr, 0, false⟩
def Fld.rstCommitGo : Fld := ⟨0x8000, 0xFF0, 0x0, 1, 0, 0, .wo, 0, false⟩
def Fld.rstCommitStatusAccepted : Fld := ⟨0x8000, 0xFF8, 0x0, 1, 63, 32, .ro, 0, false⟩
def Fld.rstCommitStatusCode : Fld := ⟨0x8000, 0xFF8, 0x0, 1, 31, 16, .ro, 0, false⟩
def Fld.rstCommitStatusState : Fld := ⟨0x8000, 0xFF8, 0x0, 1, 15, 14, .ro, 0, false⟩
def Fld.rstCommitStatusOffset : Fld := ⟨0x8000, 0xFF8, 0x0, 1, 11, 0, .ro, 0, false⟩

/-- The fields of the RST block, in ascending offset and from high bits to low (R41). -/
def fieldsRst0 : List Fld := [Fld.rstCtlWaitS, Fld.rstCtlEscMax, Fld.rstDumpEnable, Fld.rstDumpOffset, Fld.rstLogCfgOffset, Fld.rstLogPtrRptr, Fld.rstLogPtrWptr, Fld.rstCmdUnit, Fld.rstCmdLevel, Fld.rstStatusCode, Fld.rstStatusUnit, Fld.rstStatusSafe]
def fieldsRst1 : List Fld := [Fld.rstStatusBusy, Fld.rstStatusLevel, Fld.rstLastCause, Fld.rstLastUnit, Fld.rstLastEscalations, Fld.rstLastFirst, Fld.rstLastFinal, Fld.rstHangCode, Fld.rstHangContext, Fld.rstHangGen, Fld.rstHangSlot, Fld.rstHangQueue]
def fieldsRst2 : List Fld := [Fld.rstHangKind, Fld.rstHangUnitUnit, Fld.rstHangUnitCores, Fld.rstHangUnitSeq, Fld.rstHangPc, Fld.rstHangDetail, Fld.rstSampleOffset, Fld.rstEngineResets, Fld.rstTileResets, Fld.rstOpticalRestarts, Fld.rstPressResets, Fld.rstWarmResets]
def fieldsRst3 : List Fld := [Fld.rstEscalations, Fld.rstDeadlines, Fld.rstWaitReports, Fld.rstSafeEntries, Fld.rstCommitGo, Fld.rstCommitStatusAccepted, Fld.rstCommitStatusCode, Fld.rstCommitStatusState, Fld.rstCommitStatusOffset]
def fieldsRst : List Fld := fieldsRst0 ++ fieldsRst1 ++ fieldsRst2 ++ fieldsRst3

/-! The SNAP block (R39, R425). -/

def Fld.snapCfgSync : Fld := ⟨0x9000, 0x0, 0x0, 1, 47, 40, .st, 0, false⟩
def Fld.snapCfgSignal : Fld := ⟨0x9000, 0x0, 0x0, 1, 39, 39, .st, 0, false⟩
def Fld.snapCfgForward : Fld := ⟨0x9000, 0x0, 0x0, 1, 38, 38, .st, 1, false⟩
def Fld.snapCfgOffset : Fld := ⟨0x9000, 0x0, 0x0, 1, 25, 0, .st, 0x3400000, false⟩
def Fld.snapCmdId : Fld := ⟨0x9000, 0x8, 0x0, 1, 15, 0, .wo, 0, false⟩
def Fld.snapStatusCode : Fld := ⟨0x9000, 0x10, 0x0, 1, 63, 48, .ro, 0, false⟩
def Fld.snapStatusLastId : Fld := ⟨0x9000, 0x10, 0x0, 1, 47, 32, .ro, 0, false⟩
def Fld.snapStatusActiveId : Fld := ⟨0x9000, 0x10, 0x0, 1, 31, 16, .ro, 0, true⟩
def Fld.snapStatusState : Fld := ⟨0x9000, 0x10, 0x0, 1, 1, 0, .ro, 0, true⟩
def Fld.snapLastOrigin : Fld := ⟨0x9000, 0x18, 0x0, 1, 63, 48, .ro, 0, false⟩
def Fld.snapLastLink : Fld := ⟨0x9000, 0x18, 0x0, 1, 47, 40, .ro, 0, false⟩
def Fld.snapLastEntries : Fld := ⟨0x9000, 0x18, 0x0, 1, 31, 0, .ro, 0, false⟩
def Fld.snapRacks : Fld := ⟨0x9000, 0x20, 0x0, 1, 63, 0, .ctr, 0, false⟩
def Fld.snapDuplicates : Fld := ⟨0x9000, 0x28, 0x0, 1, 63, 0, .ctr, 0, false⟩
def Fld.snapRefused : Fld := ⟨0x9000, 0x30, 0x0, 1, 63, 0, .ctr, 0, false⟩
def Fld.snapCommitGo : Fld := ⟨0x9000, 0xFF0, 0x0, 1, 0, 0, .wo, 0, false⟩
def Fld.snapCommitStatusAccepted : Fld := ⟨0x9000, 0xFF8, 0x0, 1, 63, 32, .ro, 0, false⟩
def Fld.snapCommitStatusCode : Fld := ⟨0x9000, 0xFF8, 0x0, 1, 31, 16, .ro, 0, false⟩
def Fld.snapCommitStatusState : Fld := ⟨0x9000, 0xFF8, 0x0, 1, 15, 14, .ro, 0, false⟩
def Fld.snapCommitStatusOffset : Fld := ⟨0x9000, 0xFF8, 0x0, 1, 11, 0, .ro, 0, false⟩

/-- The fields of the SNAP block, in ascending offset and from high bits to low (R41). -/
def fieldsSnap0 : List Fld := [Fld.snapCfgSync, Fld.snapCfgSignal, Fld.snapCfgForward, Fld.snapCfgOffset, Fld.snapCmdId, Fld.snapStatusCode, Fld.snapStatusLastId, Fld.snapStatusActiveId, Fld.snapStatusState, Fld.snapLastOrigin, Fld.snapLastLink, Fld.snapLastEntries]
def fieldsSnap1 : List Fld := [Fld.snapRacks, Fld.snapDuplicates, Fld.snapRefused, Fld.snapCommitGo, Fld.snapCommitStatusAccepted, Fld.snapCommitStatusCode, Fld.snapCommitStatusState, Fld.snapCommitStatusOffset]
def fieldsSnap : List Fld := fieldsSnap0 ++ fieldsSnap1

/-! The BIST block (R39, R425). -/

def Fld.bistCtlQuiesceUs : Fld := ⟨0xA000, 0x0, 0x0, 1, 31, 16, .st, 0x1f4, false⟩
def Fld.bistCtlEnable : Fld := ⟨0xA000, 0x0, 0x0, 1, 0, 0, .st, 1, false⟩
def Fld.bistSchedPeriodMs : Fld := ⟨0xA000, 0x8, 0x0, 1, 53, 32, .ro, 0, true⟩
def Fld.bistSchedSliceUs : Fld := ⟨0xA000, 0x8, 0x0, 1, 31, 16, .ro, 0, true⟩
def Fld.bistSchedEntries : Fld := ⟨0xA000, 0x8, 0x0, 1, 15, 0, .ro, 0, true⟩
def Fld.bistCmdUnit : Fld := ⟨0xA000, 0x10, 0x0, 1, 31, 16, .wo, 0, false⟩
def Fld.bistCmdSlices : Fld := ⟨0xA000, 0x10, 0x0, 1, 15, 8, .wo, 0, false⟩
def Fld.bistCmdGo : Fld := ⟨0xA000, 0x10, 0x0, 1, 0, 0, .wo, 0, false⟩
def Fld.bistStatusCode : Fld := ⟨0xA000, 0x18, 0x0, 1, 63, 48, .ro, 0, false⟩
def Fld.bistStatusUnit : Fld := ⟨0xA000, 0x18, 0x0, 1, 47, 32, .ro, 0, true⟩
def Fld.bistStatusSegment : Fld := ⟨0xA000, 0x18, 0x0, 1, 31, 16, .ro, 0, true⟩
def Fld.bistStatusState : Fld := ⟨0xA000, 0x18, 0x0, 1, 1, 0, .ro, 0, true⟩
def Fld.bistCursorEntry : Fld := ⟨0xA000, 0x20, 0x0, 1, 31, 16, .ro, 0, true⟩
def Fld.bistCursorSegment : Fld := ⟨0xA000, 0x20, 0x0, 1, 15, 0, .ro, 0, true⟩
def Fld.bistFailUnit : Fld := ⟨0xA000, 0x28, 0x0, 1, 63, 48, .ro, 0, false⟩
def Fld.bistFailSegment : Fld := ⟨0xA000, 0x28, 0x0, 1, 47, 32, .ro, 0, false⟩
def Fld.bistFailDiff : Fld := ⟨0xA000, 0x28, 0x0, 1, 31, 0, .ro, 0, false⟩
def Fld.bistSlices : Fld := ⟨0xA000, 0x30, 0x0, 1, 63, 0, .ctr, 0, false⟩
def Fld.bistDefers : Fld := ⟨0xA000, 0x38, 0x0, 1, 63, 0, .ctr, 0, false⟩
def Fld.bistSkips : Fld := ⟨0xA000, 0x40, 0x0, 1, 63, 0, .ctr, 0, false⟩
def Fld.bistCovers : Fld := ⟨0xA000, 0x48, 0x0, 1, 63, 0, .ctr, 0, false⟩
def Fld.bistCommitGo : Fld := ⟨0xA000, 0xFF0, 0x0, 1, 0, 0, .wo, 0, false⟩
def Fld.bistCommitStatusAccepted : Fld := ⟨0xA000, 0xFF8, 0x0, 1, 63, 32, .ro, 0, false⟩
def Fld.bistCommitStatusCode : Fld := ⟨0xA000, 0xFF8, 0x0, 1, 31, 16, .ro, 0, false⟩
def Fld.bistCommitStatusState : Fld := ⟨0xA000, 0xFF8, 0x0, 1, 15, 14, .ro, 0, false⟩
def Fld.bistCommitStatusOffset : Fld := ⟨0xA000, 0xFF8, 0x0, 1, 11, 0, .ro, 0, false⟩

/-- The fields of the BIST block, in ascending offset and from high bits to low (R41). -/
def fieldsBist0 : List Fld := [Fld.bistCtlQuiesceUs, Fld.bistCtlEnable, Fld.bistSchedPeriodMs, Fld.bistSchedSliceUs, Fld.bistSchedEntries, Fld.bistCmdUnit, Fld.bistCmdSlices, Fld.bistCmdGo, Fld.bistStatusCode, Fld.bistStatusUnit, Fld.bistStatusSegment, Fld.bistStatusState]
def fieldsBist1 : List Fld := [Fld.bistCursorEntry, Fld.bistCursorSegment, Fld.bistFailUnit, Fld.bistFailSegment, Fld.bistFailDiff, Fld.bistSlices, Fld.bistDefers, Fld.bistSkips, Fld.bistCovers, Fld.bistCommitGo, Fld.bistCommitStatusAccepted, Fld.bistCommitStatusCode]
def fieldsBist2 : List Fld := [Fld.bistCommitStatusState, Fld.bistCommitStatusOffset]
def fieldsBist : List Fld := fieldsBist0 ++ fieldsBist1 ++ fieldsBist2

/-! The RDC block (R329, R39). -/

def Fld.rdcParkBase : Fld := ⟨0x10000, 0x0, 0x0, 1, 63, 6, .st, 0, false⟩
def Fld.rdcParkSizeLog2 : Fld := ⟨0x10000, 0x0, 0x0, 1, 5, 0, .st, 0, false⟩
def Fld.rdcErrCode : Fld := ⟨0x10000, 0x8, 0x0, 1, 63, 48, .rc, 0, false⟩
def Fld.rdcErrGroup : Fld := ⟨0x10000, 0x8, 0x0, 1, 47, 44, .rc, 0, false⟩
def Fld.rdcErrBucketId : Fld := ⟨0x10000, 0x8, 0x0, 1, 43, 28, .rc, 0, false⟩
def Fld.rdcErrDevice : Fld := ⟨0x10000, 0x8, 0x0, 1, 27, 14, .rc, 0, false⟩
def Fld.rdcErrLink : Fld := ⟨0x10000, 0x8, 0x0, 1, 13, 7, .rc, 0, false⟩
def Fld.rdcDigestSelEntry : Fld := ⟨0x10000, 0x10, 0x0, 1, 19, 8, .rw, 0, false⟩
def Fld.rdcDigestSelLink : Fld := ⟨0x10000, 0x10, 0x0, 1, 6, 0, .rw, 0, false⟩
def Fld.rdcDigestKeyGroup : Fld := ⟨0x10000, 0x18, 0x0, 1, 63, 60, .ro, 0, true⟩
def Fld.rdcDigestKeyBucketId : Fld := ⟨0x10000, 0x18, 0x0, 1, 59, 44, .ro, 0, true⟩
def Fld.rdcDigestKeyOpenSeq : Fld := ⟨0x10000, 0x18, 0x0, 1, 43, 28, .ro, 0, true⟩
def Fld.rdcDigestKeyDir : Fld := ⟨0x10000, 0x18, 0x0, 1, 27, 27, .ro, 0, true⟩
def Fld.rdcDigestKeyRerouted : Fld := ⟨0x10000, 0x18, 0x0, 1, 26, 26, .ro, 0, true⟩
def Fld.rdcDigestKeyValid : Fld := ⟨0x10000, 0x18, 0x0, 1, 25, 25, .ro, 0, true⟩
def Fld.rdcDigestKeyChunks : Fld := ⟨0x10000, 0x18, 0x0, 1, 24, 0, .ro, 0, true⟩
def Fld.rdcDigest : Fld := ⟨0x10000, 0x20, 0x8, 4, 63, 0, .ro, 0, true⟩
def Fld.rdcGroupPosition : Fld := ⟨0x10000, 0x100, 0x8, 16, 63, 48, .ro, 0, true⟩
def Fld.rdcGroupMembers : Fld := ⟨0x10000, 0x100, 0x8, 16, 47, 32, .ro, 0, true⟩
def Fld.rdcGroupLateUs : Fld := ⟨0x10000, 0x100, 0x8, 16, 31, 16, .st, 0x1f4, false⟩
def Fld.rdcGroupOpen : Fld := ⟨0x10000, 0x100, 0x8, 16, 15, 8, .ro, 0, true⟩
def Fld.rdcGroupServed : Fld := ⟨0x10000, 0x100, 0x8, 16, 0, 0, .ro, 0, true⟩
def Fld.rdcBuckets : Fld := ⟨0x10000, 0x200, 0x0, 1, 63, 0, .ctr, 0, false⟩
def Fld.rdcChunksAdded : Fld := ⟨0x10000, 0x208, 0x0, 1, 63, 0, .ctr, 0, false⟩
def Fld.rdcChecksumFails : Fld := ⟨0x10000, 0x210, 0x0, 1, 63, 0, .ctr, 0, false⟩
def Fld.rdcNonfiniteBuckets : Fld := ⟨0x10000, 0x218, 0x0, 1, 63, 0, .ctr, 0, false⟩
def Fld.rdcLateSkips : Fld := ⟨0x10000, 0x220, 0x0, 1, 63, 0, .ctr, 0, false⟩
def Fld.rdcClamps : Fld := ⟨0x10000, 0x228, 0x0, 1, 63, 0, .ctr, 0, false⟩
def Fld.rdcStaleDrops : Fld := ⟨0x10000, 0x230, 0x0, 1, 63, 0, .ctr, 0, false⟩
def Fld.rdcParked : Fld := ⟨0x10000, 0x238, 0x0, 1, 63, 0, .ctr, 0, false⟩
def Fld.rdcAborts : Fld := ⟨0x10000, 0x240, 0x0, 1, 63, 0, .ctr, 0, false⟩
def Fld.rdcCommitGo : Fld := ⟨0x10000, 0xFF0, 0x0, 1, 0, 0, .wo, 0, false⟩
def Fld.rdcCommitStatusAccepted : Fld := ⟨0x10000, 0xFF8, 0x0, 1, 63, 32, .ro, 0, false⟩
def Fld.rdcCommitStatusCode : Fld := ⟨0x10000, 0xFF8, 0x0, 1, 31, 16, .ro, 0, false⟩
def Fld.rdcCommitStatusState : Fld := ⟨0x10000, 0xFF8, 0x0, 1, 15, 14, .ro, 0, false⟩
def Fld.rdcCommitStatusOffset : Fld := ⟨0x10000, 0xFF8, 0x0, 1, 11, 0, .ro, 0, false⟩

/-- The fields of the RDC block, in ascending offset and from high bits to low (R41). -/
def fieldsRdc0 : List Fld := [Fld.rdcParkBase, Fld.rdcParkSizeLog2, Fld.rdcErrCode, Fld.rdcErrGroup, Fld.rdcErrBucketId, Fld.rdcErrDevice, Fld.rdcErrLink, Fld.rdcDigestSelEntry, Fld.rdcDigestSelLink, Fld.rdcDigestKeyGroup, Fld.rdcDigestKeyBucketId, Fld.rdcDigestKeyOpenSeq]
def fieldsRdc1 : List Fld := [Fld.rdcDigestKeyDir, Fld.rdcDigestKeyRerouted, Fld.rdcDigestKeyValid, Fld.rdcDigestKeyChunks, Fld.rdcDigest, Fld.rdcGroupPosition, Fld.rdcGroupMembers, Fld.rdcGroupLateUs, Fld.rdcGroupOpen, Fld.rdcGroupServed, Fld.rdcBuckets, Fld.rdcChunksAdded]
def fieldsRdc2 : List Fld := [Fld.rdcChecksumFails, Fld.rdcNonfiniteBuckets, Fld.rdcLateSkips, Fld.rdcClamps, Fld.rdcStaleDrops, Fld.rdcParked, Fld.rdcAborts, Fld.rdcCommitGo, Fld.rdcCommitStatusAccepted, Fld.rdcCommitStatusCode, Fld.rdcCommitStatusState, Fld.rdcCommitStatusOffset]
def fieldsRdc : List Fld := fieldsRdc0 ++ fieldsRdc1 ++ fieldsRdc2

/-! The XFER block (R271, R39). -/

def Fld.xferCtlScrub : Fld := ⟨0x14000, 0x0, 0x0, 1, 16, 16, .st, 1, false⟩
def Fld.xferCtlDrainUs : Fld := ⟨0x14000, 0x0, 0x0, 1, 15, 0, .st, 0x64, false⟩
def Fld.xferCtxSelIndex : Fld := ⟨0x14000, 0x8, 0x0, 1, 15, 0, .rw, 0, false⟩
def Fld.xferCtxCmdSync : Fld := ⟨0x14000, 0x10, 0x0, 1, 23, 16, .wo, 0, false⟩
def Fld.xferCtxCmdSignal : Fld := ⟨0x14000, 0x10, 0x0, 1, 15, 15, .wo, 0, false⟩
def Fld.xferCtxCmdCmd : Fld := ⟨0x14000, 0x10, 0x0, 1, 1, 0, .wo, 0, false⟩
def Fld.xferCtxStatusCode : Fld := ⟨0x14000, 0x18, 0x0, 1, 31, 16, .ro, 0, false⟩
def Fld.xferCtxStatusBusy : Fld := ⟨0x14000, 0x18, 0x0, 1, 2, 2, .ro, 0, true⟩
def Fld.xferCtxStatusState : Fld := ⟨0x14000, 0x18, 0x0, 1, 1, 0, .ro, 0, false⟩
def Fld.xferCtxEntry : Fld := ⟨0x14000, 0x40, 0x8, 8, 63, 0, .rw, 0, false⟩
def Fld.xferProbeAddress : Fld := ⟨0x14000, 0x80, 0x0, 1, 47, 0, .rw, 0, false⟩
def Fld.xferProbeResultValid : Fld := ⟨0x14000, 0x88, 0x0, 1, 63, 63, .ro, 0, true⟩
def Fld.xferProbeResultStack : Fld := ⟨0x14000, 0x88, 0x0, 1, 47, 40, .ro, 0, true⟩
def Fld.xferProbeResultLocal : Fld := ⟨0x14000, 0x88, 0x0, 1, 35, 0, .ro, 0, true⟩
def Fld.xferMemErrCode : Fld := ⟨0x14000, 0x90, 0x0, 1, 63, 48, .rc, 0, false⟩
def Fld.xferMemErrStack : Fld := ⟨0x14000, 0x90, 0x0, 1, 44, 40, .rc, 0, false⟩
def Fld.xferMemErrLocal : Fld := ⟨0x14000, 0x90, 0x0, 1, 35, 0, .rc, 0, false⟩
def Fld.xferLateDrops : Fld := ⟨0x14000, 0xA0, 0x0, 1, 63, 0, .ctr, 0, false⟩
def Fld.xferNacksSent : Fld := ⟨0x14000, 0xA8, 0x0, 1, 63, 0, .ctr, 0, false⟩
def Fld.xferNacksReceived : Fld := ⟨0x14000, 0xB0, 0x0, 1, 63, 0, .ctr, 0, false⟩
def Fld.xferTeardowns : Fld := ⟨0x14000, 0xB8, 0x0, 1, 63, 0, .ctr, 0, false⟩
def Fld.xferMemCe : Fld := ⟨0x14000, 0xC0, 0x8, 5, 63, 0, .ctr, 0, false⟩
def Fld.xferMemUe : Fld := ⟨0x14000, 0xE8, 0x8, 5, 63, 0, .ctr, 0, false⟩
def Fld.xferCommitGo : Fld := ⟨0x14000, 0xFF0, 0x0, 1, 0, 0, .wo, 0, false⟩
def Fld.xferCommitStatusAccepted : Fld := ⟨0x14000, 0xFF8, 0x0, 1, 63, 32, .ro, 0, false⟩
def Fld.xferCommitStatusCode : Fld := ⟨0x14000, 0xFF8, 0x0, 1, 31, 16, .ro, 0, false⟩
def Fld.xferCommitStatusState : Fld := ⟨0x14000, 0xFF8, 0x0, 1, 15, 14, .ro, 0, false⟩
def Fld.xferCommitStatusOffset : Fld := ⟨0x14000, 0xFF8, 0x0, 1, 11, 0, .ro, 0, false⟩

/-- The fields of the XFER block, in ascending offset and from high bits to low (R41). -/
def fieldsXfer0 : List Fld := [Fld.xferCtlScrub, Fld.xferCtlDrainUs, Fld.xferCtxSelIndex, Fld.xferCtxCmdSync, Fld.xferCtxCmdSignal, Fld.xferCtxCmdCmd, Fld.xferCtxStatusCode, Fld.xferCtxStatusBusy, Fld.xferCtxStatusState, Fld.xferCtxEntry, Fld.xferProbeAddress, Fld.xferProbeResultValid]
def fieldsXfer1 : List Fld := [Fld.xferProbeResultStack, Fld.xferProbeResultLocal, Fld.xferMemErrCode, Fld.xferMemErrStack, Fld.xferMemErrLocal, Fld.xferLateDrops, Fld.xferNacksSent, Fld.xferNacksReceived, Fld.xferTeardowns, Fld.xferMemCe, Fld.xferMemUe, Fld.xferCommitGo]
def fieldsXfer2 : List Fld := [Fld.xferCommitStatusAccepted, Fld.xferCommitStatusCode, Fld.xferCommitStatusState, Fld.xferCommitStatusOffset]
def fieldsXfer : List Fld := fieldsXfer0 ++ fieldsXfer1 ++ fieldsXfer2

/-! The FLINK block (R298, R39). -/

def Fld.flinkCtlDownSync : Fld := ⟨0x20000, 0x0, 0x0, 1, 47, 40, .st, 0, false⟩
def Fld.flinkCtlDownSignal : Fld := ⟨0x20000, 0x0, 0x0, 1, 39, 39, .st, 0, false⟩
def Fld.flinkCtlTrainLimit : Fld := ⟨0x20000, 0x0, 0x0, 1, 35, 32, .st, 3, false⟩
def Fld.flinkCtlUeLimit : Fld := ⟨0x20000, 0x0, 0x0, 1, 31, 16, .st, 0x10, false⟩
def Fld.flinkCtlHbUs : Fld := ⟨0x20000, 0x0, 0x0, 1, 15, 6, .st, 0x64, false⟩
def Fld.flinkCtlAuto : Fld := ⟨0x20000, 0x0, 0x0, 1, 1, 1, .st, 1, false⟩
def Fld.flinkCtlEnable : Fld := ⟨0x20000, 0x0, 0x0, 1, 0, 0, .st, 1, false⟩
def Fld.flinkCmdCmd : Fld := ⟨0x20000, 0x8, 0x0, 1, 1, 0, .wo, 0, false⟩
def Fld.flinkStatusPeerId : Fld := ⟨0x20000, 0x10, 0x0, 1, 49, 36, .ro, 0, true⟩
def Fld.flinkStatusPeerLink : Fld := ⟨0x20000, 0x10, 0x0, 1, 35, 28, .ro, 0, true⟩
def Fld.flinkStatusCode : Fld := ⟨0x20000, 0x10, 0x0, 1, 27, 12, .ro, 0, false⟩
def Fld.flinkStatusCause : Fld := ⟨0x20000, 0x10, 0x0, 1, 11, 8, .ro, 0, false⟩
def Fld.flinkStatusAttempts : Fld := ⟨0x20000, 0x10, 0x0, 1, 7, 4, .ro, 0, false⟩
def Fld.flinkStatusState : Fld := ⟨0x20000, 0x10, 0x0, 1, 2, 0, .ro, 0, true⟩
def Fld.flinkClass0Tokens : Fld := ⟨0x20000, 0x18, 0x0, 1, 16, 0, .ro, 0, true⟩
def Fld.flinkCredits : Fld := ⟨0x20000, 0x20, 0x0, 1, 63, 0, .ro, 0, true⟩
def Fld.flinkEngineService : Fld := ⟨0x20000, 0x28, 0x0, 1, 4, 4, .ro, 0, false⟩
def Fld.flinkEngineSource : Fld := ⟨0x20000, 0x28, 0x0, 1, 3, 3, .ro, 0, true⟩
def Fld.flinkEngineState : Fld := ⟨0x20000, 0x28, 0x0, 1, 2, 0, .ro, 0, true⟩
def Fld.flinkEngineCmdCmd : Fld := ⟨0x20000, 0x30, 0x0, 1, 1, 0, .wo, 0, false⟩
def Fld.flinkTxFlits : Fld := ⟨0x20000, 0x40, 0x0, 1, 63, 0, .ctr, 0, false⟩
def Fld.flinkRxFlits : Fld := ⟨0x20000, 0x48, 0x0, 1, 63, 0, .ctr, 0, false⟩
def Fld.flinkFecSymbols : Fld := ⟨0x20000, 0x50, 0x0, 1, 63, 0, .ctr, 0, false⟩
def Fld.flinkFecUncorrectable : Fld := ⟨0x20000, 0x58, 0x0, 1, 63, 0, .ctr, 0, false⟩
def Fld.flinkCrcFails : Fld := ⟨0x20000, 0x60, 0x0, 1, 63, 0, .ctr, 0, false⟩
def Fld.flinkNaksSent : Fld := ⟨0x20000, 0x68, 0x0, 1, 63, 0, .ctr, 0, false⟩
def Fld.flinkReplays : Fld := ⟨0x20000, 0x70, 0x0, 1, 63, 0, .ctr, 0, false⟩
def Fld.flinkRetrains : Fld := ⟨0x20000, 0x78, 0x0, 1, 63, 0, .ctr, 0, false⟩
def Fld.flinkLosEvents : Fld := ⟨0x20000, 0x80, 0x0, 1, 63, 0, .ctr, 0, false⟩
def Fld.flinkForwarded : Fld := ⟨0x20000, 0x88, 0x0, 1, 63, 0, .ctr, 0, false⟩
def Fld.flinkDrops : Fld := ⟨0x20000, 0x90, 0x0, 1, 63, 0, .ctr, 0, false⟩
def Fld.flinkAged : Fld := ⟨0x20000, 0x98, 0x0, 1, 63, 0, .ctr, 0, false⟩
def Fld.flinkClass0Waits : Fld := ⟨0x20000, 0xA0, 0x0, 1, 63, 0, .ctr, 0, false⟩
def Fld.flinkCommitGo : Fld := ⟨0x20000, 0xFF0, 0x0, 1, 0, 0, .wo, 0, false⟩
def Fld.flinkCommitStatusAccepted : Fld := ⟨0x20000, 0xFF8, 0x0, 1, 63, 32, .ro, 0, false⟩
def Fld.flinkCommitStatusCode : Fld := ⟨0x20000, 0xFF8, 0x0, 1, 31, 16, .ro, 0, false⟩
def Fld.flinkCommitStatusState : Fld := ⟨0x20000, 0xFF8, 0x0, 1, 15, 14, .ro, 0, false⟩
def Fld.flinkCommitStatusOffset : Fld := ⟨0x20000, 0xFF8, 0x0, 1, 11, 0, .ro, 0, false⟩

/-- The fields of the FLINK block, in ascending offset and from high bits to low (R41). -/
def fieldsFlink0 : List Fld := [Fld.flinkCtlDownSync, Fld.flinkCtlDownSignal, Fld.flinkCtlTrainLimit, Fld.flinkCtlUeLimit, Fld.flinkCtlHbUs, Fld.flinkCtlAuto, Fld.flinkCtlEnable, Fld.flinkCmdCmd, Fld.flinkStatusPeerId, Fld.flinkStatusPeerLink, Fld.flinkStatusCode, Fld.flinkStatusCause]
def fieldsFlink1 : List Fld := [Fld.flinkStatusAttempts, Fld.flinkStatusState, Fld.flinkClass0Tokens, Fld.flinkCredits, Fld.flinkEngineService, Fld.flinkEngineSource, Fld.flinkEngineState, Fld.flinkEngineCmdCmd, Fld.flinkTxFlits, Fld.flinkRxFlits, Fld.flinkFecSymbols, Fld.flinkFecUncorrectable]
def fieldsFlink2 : List Fld := [Fld.flinkCrcFails, Fld.flinkNaksSent, Fld.flinkReplays, Fld.flinkRetrains, Fld.flinkLosEvents, Fld.flinkForwarded, Fld.flinkDrops, Fld.flinkAged, Fld.flinkClass0Waits, Fld.flinkCommitGo, Fld.flinkCommitStatusAccepted, Fld.flinkCommitStatusCode]
def fieldsFlink3 : List Fld := [Fld.flinkCommitStatusState, Fld.flinkCommitStatusOffset]
def fieldsFlink : List Fld := fieldsFlink0 ++ fieldsFlink1 ++ fieldsFlink2 ++ fieldsFlink3

/-! The TILE block (R129, R191, R39, R88). -/

def Fld.tileIdTile : Fld := ⟨0x100000, 0x0, 0x0, 1, 15, 8, .ro, 0, true⟩
def Fld.tileIdPress : Fld := ⟨0x100000, 0x0, 0x0, 1, 7, 4, .ro, 0, true⟩
def Fld.tileIdPosition : Fld := ⟨0x100000, 0x0, 0x0, 1, 3, 0, .ro, 0, true⟩
def Fld.tileCtlFenceAfter : Fld := ⟨0x100000, 0x8, 0x0, 1, 7, 4, .st, 3, false⟩
def Fld.tileCtlScrub : Fld := ⟨0x100000, 0x8, 0x0, 1, 0, 0, .st, 1, false⟩
def Fld.tileArrayFenceMask : Fld := ⟨0x100000, 0x10, 0x0, 1, 7, 0, .st, 0, false⟩
def Fld.tileArrayStatusFenced : Fld := ⟨0x100000, 0x18, 0x0, 1, 31, 24, .ro, 0, true⟩
def Fld.tileArrayStatusAutoFenced : Fld := ⟨0x100000, 0x18, 0x0, 1, 23, 16, .ro, 0, false⟩
def Fld.tileArrayStatusInUse : Fld := ⟨0x100000, 0x18, 0x0, 1, 15, 8, .ro, 0, true⟩
def Fld.tileArrayStatusEnabled : Fld := ⟨0x100000, 0x18, 0x0, 1, 7, 0, .ro, 0, true⟩
def Fld.tileFaultCode : Fld := ⟨0x100000, 0x20, 0x0, 1, 63, 48, .rc, 0, false⟩
def Fld.tileFaultContext : Fld := ⟨0x100000, 0x20, 0x0, 1, 47, 32, .rc, 0, false⟩
def Fld.tileFaultGen : Fld := ⟨0x100000, 0x20, 0x0, 1, 31, 24, .rc, 0, false⟩
def Fld.tileFaultArray : Fld := ⟨0x100000, 0x20, 0x0, 1, 23, 16, .rc, 0, false⟩
def Fld.tileFaultQuads : Fld := ⟨0x100000, 0x20, 0x0, 1, 15, 12, .rc, 0, false⟩
def Fld.tileFaultLanes : Fld := ⟨0x100000, 0x20, 0x0, 1, 11, 8, .rc, 0, false⟩
def Fld.tileFaultSlot : Fld := ⟨0x100000, 0x20, 0x0, 1, 7, 0, .rc, 0, false⟩
def Fld.tileFaultPc : Fld := ⟨0x100000, 0x28, 0x0, 1, 63, 0, .rc, 0, false⟩
def Fld.tileFaultInfoAddress : Fld := ⟨0x100000, 0x30, 0x0, 1, 63, 32, .rc, 0, false⟩
def Fld.tileFaultInfoCore : Fld := ⟨0x100000, 0x30, 0x0, 1, 15, 8, .rc, 0, false⟩
def Fld.tileFaultInfoCause : Fld := ⟨0x100000, 0x30, 0x0, 1, 7, 0, .rc, 0, false⟩
def Fld.tileArrayFaultsCount : Fld := ⟨0x100000, 0x38, 0x0, 1, 31, 0, .ro, 0, false⟩
def Fld.tileMatrixOps : Fld := ⟨0x100000, 0x40, 0x0, 1, 63, 0, .ctr, 0, false⟩
def Fld.tileArrayBusy : Fld := ⟨0x100000, 0x48, 0x0, 1, 63, 0, .ctr, 0, false⟩
def Fld.tileVectorInsts : Fld := ⟨0x100000, 0x50, 0x0, 1, 63, 0, .ctr, 0, false⟩
def Fld.tileKernels : Fld := ⟨0x100000, 0x58, 0x0, 1, 63, 0, .ctr, 0, false⟩
def Fld.tileScratchCe : Fld := ⟨0x100000, 0x60, 0x0, 1, 63, 0, .ctr, 0, false⟩
def Fld.tileScratchUe : Fld := ⟨0x100000, 0x68, 0x0, 1, 63, 0, .ctr, 0, false⟩
def Fld.tileAccumCe : Fld := ⟨0x100000, 0x70, 0x0, 1, 63, 0, .ctr, 0, false⟩
def Fld.tileAccumUe : Fld := ⟨0x100000, 0x78, 0x0, 1, 63, 0, .ctr, 0, false⟩
def Fld.tileParityFaults : Fld := ⟨0x100000, 0x80, 0x0, 1, 63, 0, .ctr, 0, false⟩
def Fld.tileNumCtlOutlierRatioLog2 : Fld := ⟨0x100000, 0x800, 0x0, 1, 11, 9, .st, 3, false⟩
def Fld.tileNumCtlNebex : Fld := ⟨0x100000, 0x800, 0x0, 1, 8, 8, .st, 0, false⟩
def Fld.tileNumCtlF8Repeat : Fld := ⟨0x100000, 0x800, 0x0, 1, 3, 3, .st, 1, false⟩
def Fld.tileNumCtlOutlier : Fld := ⟨0x100000, 0x800, 0x0, 1, 2, 2, .st, 1, false⟩
def Fld.tileNumCtlOrdered : Fld := ⟨0x100000, 0x800, 0x0, 1, 1, 1, .st, 1, false⟩
def Fld.tileNumCtlFtz : Fld := ⟨0x100000, 0x800, 0x0, 1, 0, 0, .st, 0, false⟩
def Fld.tileNumSeed : Fld := ⟨0x100000, 0x808, 0x0, 1, 63, 0, .rw, 0, false⟩
def Fld.tileNumEpochEpoch : Fld := ⟨0x100000, 0x810, 0x0, 1, 31, 0, .rw, 0, false⟩
def Fld.tileNumFlagsNx : Fld := ⟨0x100000, 0x818, 0x0, 1, 12, 12, .w1c, 0, false⟩
def Fld.tileNumFlagsUf : Fld := ⟨0x100000, 0x818, 0x0, 1, 11, 11, .w1c, 0, false⟩
def Fld.tileNumFlagsOf : Fld := ⟨0x100000, 0x818, 0x0, 1, 10, 10, .w1c, 0, false⟩
def Fld.tileNumFlagsDz : Fld := ⟨0x100000, 0x818, 0x0, 1, 9, 9, .w1c, 0, false⟩
def Fld.tileNumFlagsNv : Fld := ⟨0x100000, 0x818, 0x0, 1, 8, 8, .w1c, 0, false⟩
def Fld.tileNumFlagsOutlierOvf : Fld := ⟨0x100000, 0x818, 0x0, 1, 4, 4, .w1c, 0, false⟩
def Fld.tileNumFlagsNonfinite : Fld := ⟨0x100000, 0x818, 0x0, 1, 3, 3, .w1c, 0, false⟩
def Fld.tileNumFlagsUnderflow : Fld := ⟨0x100000, 0x818, 0x0, 1, 2, 2, .w1c, 0, false⟩
def Fld.tileNumFlagsOverflow : Fld := ⟨0x100000, 0x818, 0x0, 1, 1, 1, .w1c, 0, false⟩
def Fld.tileNumFlagsFlushed : Fld := ⟨0x100000, 0x818, 0x0, 1, 0, 0, .w1c, 0, false⟩
def Fld.tileNumRepeatsWrap : Fld := ⟨0x100000, 0x820, 0x0, 1, 63, 63, .w1c, 0, false⟩
def Fld.tileNumRepeatsCount : Fld := ⟨0x100000, 0x820, 0x0, 1, 47, 0, .ro, 0, false⟩
def Fld.tileCringBaseBase : Fld := ⟨0x100000, 0x900, 0x40, 4, 24, 0, .st, 0, false⟩
def Fld.tileCringSizeSizeLog2 : Fld := ⟨0x100000, 0x908, 0x40, 4, 4, 0, .st, 0, false⟩
def Fld.tileCringWmSyncIndex : Fld := ⟨0x100000, 0x910, 0x40, 4, 55, 48, .st, 0, false⟩
def Fld.tileCringWmWatermark : Fld := ⟨0x100000, 0x910, 0x40, 4, 31, 0, .st, 0, false⟩
def Fld.tileCringWptrWptr : Fld := ⟨0x100000, 0x918, 0x40, 4, 31, 0, .ro, 0, false⟩
def Fld.tileCringRptrRptr : Fld := ⟨0x100000, 0x920, 0x40, 4, 31, 0, .rw, 0, false⟩
def Fld.tileCommitGo : Fld := ⟨0x100000, 0xFF0, 0x0, 1, 0, 0, .wo, 0, false⟩
def Fld.tileCommitStatusAccepted : Fld := ⟨0x100000, 0xFF8, 0x0, 1, 63, 32, .ro, 0, false⟩
def Fld.tileCommitStatusCode : Fld := ⟨0x100000, 0xFF8, 0x0, 1, 31, 16, .ro, 0, false⟩
def Fld.tileCommitStatusState : Fld := ⟨0x100000, 0xFF8, 0x0, 1, 15, 14, .ro, 0, false⟩
def Fld.tileCommitStatusOffset : Fld := ⟨0x100000, 0xFF8, 0x0, 1, 11, 0, .ro, 0, false⟩

/-- The fields of the TILE block, in ascending offset and from high bits to low (R41). -/
def fieldsTile0 : List Fld := [Fld.tileIdTile, Fld.tileIdPress, Fld.tileIdPosition, Fld.tileCtlFenceAfter, Fld.tileCtlScrub, Fld.tileArrayFenceMask, Fld.tileArrayStatusFenced, Fld.tileArrayStatusAutoFenced, Fld.tileArrayStatusInUse, Fld.tileArrayStatusEnabled, Fld.tileFaultCode, Fld.tileFaultContext]
def fieldsTile1 : List Fld := [Fld.tileFaultGen, Fld.tileFaultArray, Fld.tileFaultQuads, Fld.tileFaultLanes, Fld.tileFaultSlot, Fld.tileFaultPc, Fld.tileFaultInfoAddress, Fld.tileFaultInfoCore, Fld.tileFaultInfoCause, Fld.tileArrayFaultsCount, Fld.tileMatrixOps, Fld.tileArrayBusy]
def fieldsTile2 : List Fld := [Fld.tileVectorInsts, Fld.tileKernels, Fld.tileScratchCe, Fld.tileScratchUe, Fld.tileAccumCe, Fld.tileAccumUe, Fld.tileParityFaults, Fld.tileNumCtlOutlierRatioLog2, Fld.tileNumCtlNebex, Fld.tileNumCtlF8Repeat, Fld.tileNumCtlOutlier, Fld.tileNumCtlOrdered]
def fieldsTile3 : List Fld := [Fld.tileNumCtlFtz, Fld.tileNumSeed, Fld.tileNumEpochEpoch, Fld.tileNumFlagsNx, Fld.tileNumFlagsUf, Fld.tileNumFlagsOf, Fld.tileNumFlagsDz, Fld.tileNumFlagsNv, Fld.tileNumFlagsOutlierOvf, Fld.tileNumFlagsNonfinite, Fld.tileNumFlagsUnderflow, Fld.tileNumFlagsOverflow]
def fieldsTile4 : List Fld := [Fld.tileNumFlagsFlushed, Fld.tileNumRepeatsWrap, Fld.tileNumRepeatsCount, Fld.tileCringBaseBase, Fld.tileCringSizeSizeLog2, Fld.tileCringWmSyncIndex, Fld.tileCringWmWatermark, Fld.tileCringWptrWptr, Fld.tileCringRptrRptr, Fld.tileCommitGo, Fld.tileCommitStatusAccepted, Fld.tileCommitStatusCode]
def fieldsTile5 : List Fld := [Fld.tileCommitStatusState, Fld.tileCommitStatusOffset]
def fieldsTile : List Fld := fieldsTile0 ++ fieldsTile1 ++ fieldsTile2 ++ fieldsTile3 ++ fieldsTile4 ++ fieldsTile5

/-! The OPQ block (R251, R39). -/

def Fld.opqRingBase : Fld := ⟨0x140000, 0x0, 0x40, 16, 63, 6, .st, 0, false⟩
def Fld.opqCfgHaltSync : Fld := ⟨0x140000, 0x8, 0x40, 16, 39, 32, .st, 0, false⟩
def Fld.opqCfgHaltSignal : Fld := ⟨0x140000, 0x8, 0x40, 16, 31, 31, .st, 0, false⟩
def Fld.opqCfgSlotMax : Fld := ⟨0x140000, 0x8, 0x40, 16, 23, 16, .st, 0x40, false⟩
def Fld.opqCfgDeadline : Fld := ⟨0x140000, 0x8, 0x40, 16, 12, 8, .st, 0x14, false⟩
def Fld.opqCfgSizeLog2 : Fld := ⟨0x140000, 0x8, 0x40, 16, 4, 0, .st, 0, false⟩
def Fld.opqRecBase : Fld := ⟨0x140000, 0x10, 0x40, 16, 63, 6, .st, 0, false⟩
def Fld.opqRecRecLog2 : Fld := ⟨0x140000, 0x10, 0x40, 16, 4, 0, .st, 0, false⟩
def Fld.opqTailTail : Fld := ⟨0x140000, 0x18, 0x40, 16, 31, 0, .rw, 0, false⟩
def Fld.opqPosFetched : Fld := ⟨0x140000, 0x20, 0x40, 16, 63, 32, .ro, 0, false⟩
def Fld.opqPosIssued : Fld := ⟨0x140000, 0x20, 0x40, 16, 31, 0, .ro, 0, false⟩
def Fld.opqStateHaltCode : Fld := ⟨0x140000, 0x28, 0x40, 16, 63, 48, .ro, 0, false⟩
def Fld.opqStateHaltSeq : Fld := ⟨0x140000, 0x28, 0x40, 16, 47, 16, .ro, 0, false⟩
def Fld.opqStateSlots : Fld := ⟨0x140000, 0x28, 0x40, 16, 15, 8, .ro, 0, true⟩
def Fld.opqStateState : Fld := ⟨0x140000, 0x28, 0x40, 16, 2, 0, .ro, 0, true⟩
def Fld.opqRecPtrRptr : Fld := ⟨0x140000, 0x30, 0x40, 16, 63, 32, .rw, 0, false⟩
def Fld.opqRecPtrWptr : Fld := ⟨0x140000, 0x30, 0x40, 16, 31, 0, .ro, 0, false⟩
def Fld.opqCmdCmd : Fld := ⟨0x140000, 0x38, 0x40, 16, 2, 0, .wo, 0, false⟩
def Fld.opqPushErrCode : Fld := ⟨0x140000, 0x400, 0x0, 1, 63, 48, .rc, 0, false⟩
def Fld.opqPushErrQueue : Fld := ⟨0x140000, 0x400, 0x0, 1, 35, 32, .rc, 0, false⟩
def Fld.opqPushErrValue : Fld := ⟨0x140000, 0x400, 0x0, 1, 31, 0, .rc, 0, false⟩
def Fld.opqSlotsFree : Fld := ⟨0x140000, 0x408, 0x0, 1, 6, 0, .ro, 0, true⟩
def Fld.opqPreemptRelease : Fld := ⟨0x140000, 0x410, 0x0, 1, 2, 2, .wo, 0, false⟩
def Fld.opqPreemptDone : Fld := ⟨0x140000, 0x410, 0x0, 1, 1, 1, .ro, 0, false⟩
def Fld.opqPreemptGo : Fld := ⟨0x140000, 0x410, 0x0, 1, 0, 0, .wo, 0, false⟩
def Fld.opqIssuedOps : Fld := ⟨0x140000, 0x418, 0x0, 1, 63, 0, .ctr, 0, false⟩
def Fld.opqHalts : Fld := ⟨0x140000, 0x420, 0x0, 1, 63, 0, .ctr, 0, false⟩
def Fld.opqPushRefused : Fld := ⟨0x140000, 0x428, 0x0, 1, 63, 0, .ctr, 0, false⟩
def Fld.opqCommitGo : Fld := ⟨0x140000, 0xFF0, 0x0, 1, 0, 0, .wo, 0, false⟩
def Fld.opqCommitStatusAccepted : Fld := ⟨0x140000, 0xFF8, 0x0, 1, 63, 32, .ro, 0, false⟩
def Fld.opqCommitStatusCode : Fld := ⟨0x140000, 0xFF8, 0x0, 1, 31, 16, .ro, 0, false⟩
def Fld.opqCommitStatusState : Fld := ⟨0x140000, 0xFF8, 0x0, 1, 15, 14, .ro, 0, false⟩
def Fld.opqCommitStatusOffset : Fld := ⟨0x140000, 0xFF8, 0x0, 1, 11, 0, .ro, 0, false⟩

/-- The fields of the OPQ block, in ascending offset and from high bits to low (R41). -/
def fieldsOpq0 : List Fld := [Fld.opqRingBase, Fld.opqCfgHaltSync, Fld.opqCfgHaltSignal, Fld.opqCfgSlotMax, Fld.opqCfgDeadline, Fld.opqCfgSizeLog2, Fld.opqRecBase, Fld.opqRecRecLog2, Fld.opqTailTail, Fld.opqPosFetched, Fld.opqPosIssued, Fld.opqStateHaltCode]
def fieldsOpq1 : List Fld := [Fld.opqStateHaltSeq, Fld.opqStateSlots, Fld.opqStateState, Fld.opqRecPtrRptr, Fld.opqRecPtrWptr, Fld.opqCmdCmd, Fld.opqPushErrCode, Fld.opqPushErrQueue, Fld.opqPushErrValue, Fld.opqSlotsFree, Fld.opqPreemptRelease, Fld.opqPreemptDone]
def fieldsOpq2 : List Fld := [Fld.opqPreemptGo, Fld.opqIssuedOps, Fld.opqHalts, Fld.opqPushRefused, Fld.opqCommitGo, Fld.opqCommitStatusAccepted, Fld.opqCommitStatusCode, Fld.opqCommitStatusState, Fld.opqCommitStatusOffset]
def fieldsOpq : List Fld := fieldsOpq0 ++ fieldsOpq1 ++ fieldsOpq2

/-! The SYNC block (R252). -/

def Fld.syncCtrWaiters : Fld := ⟨0x180000, 0x0, 0x8, 256, 39, 32, .ro, 0, true⟩
def Fld.syncCtrPoison : Fld := ⟨0x180000, 0x0, 0x8, 256, 31, 31, .ro, 0, false⟩
def Fld.syncCtrRemoteOk : Fld := ⟨0x180000, 0x0, 0x8, 256, 30, 30, .rw, 0, false⟩
def Fld.syncCtrMisuse : Fld := ⟨0x180000, 0x0, 0x8, 256, 29, 29, .w1c, 0, false⟩
def Fld.syncCtrUnf : Fld := ⟨0x180000, 0x0, 0x8, 256, 28, 28, .w1c, 0, false⟩
def Fld.syncCtrOvf : Fld := ⟨0x180000, 0x0, 0x8, 256, 27, 27, .w1c, 0, false⟩
def Fld.syncCtrValue : Fld := ⟨0x180000, 0x0, 0x8, 256, 15, 0, .rw, 0, false⟩
def Fld.syncCmdValue : Fld := ⟨0x180000, 0xF00, 0x0, 1, 31, 16, .wo, 0, false⟩
def Fld.syncCmdAll : Fld := ⟨0x180000, 0xF00, 0x0, 1, 8, 8, .wo, 0, false⟩
def Fld.syncCmdIndex : Fld := ⟨0x180000, 0xF00, 0x0, 1, 7, 0, .wo, 0, false⟩
def Fld.syncMisuseInfoDevice : Fld := ⟨0x180000, 0xF08, 0x0, 1, 63, 48, .rc, 0, false⟩
def Fld.syncMisuseInfoUnit : Fld := ⟨0x180000, 0xF08, 0x0, 1, 47, 40, .rc, 0, false⟩
def Fld.syncMisuseInfoCode : Fld := ⟨0x180000, 0xF08, 0x0, 1, 31, 16, .rc, 0, false⟩
def Fld.syncMisuseInfoIndex : Fld := ⟨0x180000, 0xF08, 0x0, 1, 7, 0, .rc, 0, false⟩
def Fld.syncDropped : Fld := ⟨0x180000, 0xF10, 0x0, 1, 63, 0, .ctr, 0, false⟩
def Fld.syncSaturations : Fld := ⟨0x180000, 0xF18, 0x0, 1, 63, 0, .ctr, 0, false⟩

/-- The fields of the SYNC block, in ascending offset and from high bits to low (R41). -/
def fieldsSync0 : List Fld := [Fld.syncCtrWaiters, Fld.syncCtrPoison, Fld.syncCtrRemoteOk, Fld.syncCtrMisuse, Fld.syncCtrUnf, Fld.syncCtrOvf, Fld.syncCtrValue, Fld.syncCmdValue, Fld.syncCmdAll, Fld.syncCmdIndex, Fld.syncMisuseInfoDevice, Fld.syncMisuseInfoUnit]
def fieldsSync1 : List Fld := [Fld.syncMisuseInfoCode, Fld.syncMisuseInfoIndex, Fld.syncDropped, Fld.syncSaturations]
def fieldsSync : List Fld := fieldsSync0 ++ fieldsSync1

/-! The CASK block (R128, R39). -/

def Fld.caskCtlAbortEnable : Fld := ⟨0x200000, 0x0, 0x0, 1, 1, 1, .st, 1, false⟩
def Fld.caskCtlSatRerun : Fld := ⟨0x200000, 0x0, 0x0, 1, 0, 0, .st, 1, false⟩
def Fld.caskStatusActive : Fld := ⟨0x200000, 0x8, 0x0, 1, 47, 40, .ro, 0, true⟩
def Fld.caskStatusRewriting : Fld := ⟨0x200000, 0x8, 0x0, 1, 39, 32, .ro, 0, true⟩
def Fld.caskStatusWaiting : Fld := ⟨0x200000, 0x8, 0x0, 1, 31, 24, .ro, 0, true⟩
def Fld.caskStatusReady : Fld := ⟨0x200000, 0x8, 0x0, 1, 0, 0, .ro, 0, true⟩
def Fld.caskPasses : Fld := ⟨0x200000, 0x10, 0x0, 1, 63, 0, .ctr, 0, false⟩
def Fld.caskAborts : Fld := ⟨0x200000, 0x18, 0x0, 1, 63, 0, .ctr, 0, false⟩
def Fld.caskPromoted : Fld := ⟨0x200000, 0x20, 0x0, 1, 63, 0, .ctr, 0, false⟩
def Fld.caskSatReruns : Fld := ⟨0x200000, 0x28, 0x0, 1, 63, 0, .ctr, 0, false⟩
def Fld.caskSatFallbacks : Fld := ⟨0x200000, 0x30, 0x0, 1, 63, 0, .ctr, 0, false⟩
def Fld.caskRewriteFallbacks : Fld := ⟨0x200000, 0x38, 0x0, 1, 63, 0, .ctr, 0, false⟩
def Fld.caskRewriteWaits : Fld := ⟨0x200000, 0x40, 0x0, 1, 63, 0, .ctr, 0, false⟩
def Fld.caskErrCode : Fld := ⟨0x200000, 0x48, 0x0, 1, 63, 48, .rc, 0, false⟩
def Fld.caskErrMacro : Fld := ⟨0x200000, 0x48, 0x0, 1, 47, 32, .rc, 0, false⟩
def Fld.caskErrLayer : Fld := ⟨0x200000, 0x48, 0x0, 1, 31, 29, .rc, 0, false⟩
def Fld.caskErrRow : Fld := ⟨0x200000, 0x48, 0x0, 1, 12, 12, .rc, 0, false⟩
def Fld.caskErrLine : Fld := ⟨0x200000, 0x48, 0x0, 1, 11, 0, .rc, 0, false⟩
def Fld.caskTestLayers : Fld := ⟨0x200000, 0x50, 0x0, 1, 35, 28, .wo, 0, false⟩
def Fld.caskTestMacro : Fld := ⟨0x200000, 0x50, 0x0, 1, 27, 16, .wo, 0, false⟩
def Fld.caskTestDac : Fld := ⟨0x200000, 0x50, 0x0, 1, 1, 1, .wo, 0, false⟩
def Fld.caskTestOlt : Fld := ⟨0x200000, 0x50, 0x0, 1, 0, 0, .wo, 0, false⟩
def Fld.caskTestStatusState : Fld := ⟨0x200000, 0x58, 0x0, 1, 31, 30, .ro, 0, false⟩
def Fld.caskTestStatusCount : Fld := ⟨0x200000, 0x58, 0x0, 1, 23, 12, .ro, 0, false⟩
def Fld.caskTestStatusRow : Fld := ⟨0x200000, 0x58, 0x0, 1, 11, 11, .ro, 0, false⟩
def Fld.caskTestStatusFirst : Fld := ⟨0x200000, 0x58, 0x0, 1, 10, 0, .ro, 0, false⟩
def Fld.caskCommitGo : Fld := ⟨0x200000, 0xFF0, 0x0, 1, 0, 0, .wo, 0, false⟩
def Fld.caskCommitStatusAccepted : Fld := ⟨0x200000, 0xFF8, 0x0, 1, 63, 32, .ro, 0, false⟩
def Fld.caskCommitStatusCode : Fld := ⟨0x200000, 0xFF8, 0x0, 1, 31, 16, .ro, 0, false⟩
def Fld.caskCommitStatusState : Fld := ⟨0x200000, 0xFF8, 0x0, 1, 15, 14, .ro, 0, false⟩
def Fld.caskCommitStatusOffset : Fld := ⟨0x200000, 0xFF8, 0x0, 1, 11, 0, .ro, 0, false⟩

/-- The fields of the CASK block, in ascending offset and from high bits to low (R41). -/
def fieldsCask0 : List Fld := [Fld.caskCtlAbortEnable, Fld.caskCtlSatRerun, Fld.caskStatusActive, Fld.caskStatusRewriting, Fld.caskStatusWaiting, Fld.caskStatusReady, Fld.caskPasses, Fld.caskAborts, Fld.caskPromoted, Fld.caskSatReruns, Fld.caskSatFallbacks, Fld.caskRewriteFallbacks]
def fieldsCask1 : List Fld := [Fld.caskRewriteWaits, Fld.caskErrCode, Fld.caskErrMacro, Fld.caskErrLayer, Fld.caskErrRow, Fld.caskErrLine, Fld.caskTestLayers, Fld.caskTestMacro, Fld.caskTestDac, Fld.caskTestOlt, Fld.caskTestStatusState, Fld.caskTestStatusCount]
def fieldsCask2 : List Fld := [Fld.caskTestStatusRow, Fld.caskTestStatusFirst, Fld.caskCommitGo, Fld.caskCommitStatusAccepted, Fld.caskCommitStatusCode, Fld.caskCommitStatusState, Fld.caskCommitStatusOffset]
def fieldsCask : List Fld := fieldsCask0 ++ fieldsCask1 ++ fieldsCask2

/-! The CAL block (R160, R39). -/

def Fld.calCtlRetryS : Fld := ⟨0x220000, 0x0, 0x0, 1, 23, 16, .st, 0x1e, false⟩
def Fld.calCtlFailLimit : Fld := ⟨0x220000, 0x0, 0x0, 1, 15, 12, .st, 4, false⟩
def Fld.calCtlTrigger : Fld := ⟨0x220000, 0x0, 0x0, 1, 6, 0, .st, 0x1e, false⟩
def Fld.calReqRun : Fld := ⟨0x220000, 0x8, 0x0, 1, 0, 0, .wo, 0, false⟩
def Fld.calStatusConsec : Fld := ⟨0x220000, 0x10, 0x0, 1, 39, 32, .ro, 0, false⟩
def Fld.calStatusCode : Fld := ⟨0x220000, 0x10, 0x0, 1, 31, 16, .ro, 0, false⟩
def Fld.calStatusPending : Fld := ⟨0x220000, 0x10, 0x0, 1, 3, 3, .ro, 0, false⟩
def Fld.calStatusStale : Fld := ⟨0x220000, 0x10, 0x0, 1, 2, 2, .ro, 0, true⟩
def Fld.calStatusState : Fld := ⟨0x220000, 0x10, 0x0, 1, 1, 0, .ro, 0, false⟩
def Fld.calTempNow : Fld := ⟨0x220000, 0x18, 0x0, 1, 31, 16, .ro, 0, true⟩
def Fld.calTempLast : Fld := ⟨0x220000, 0x18, 0x0, 1, 15, 0, .ro, 0, false⟩
def Fld.calRuns : Fld := ⟨0x220000, 0x20, 0x0, 1, 63, 0, .ctr, 0, false⟩
def Fld.calFails : Fld := ⟨0x220000, 0x28, 0x0, 1, 63, 0, .ctr, 0, false⟩
def Fld.calUnitsNospare : Fld := ⟨0x220000, 0x30, 0x0, 1, 47, 32, .ro, 0, true⟩
def Fld.calUnitsColRetired : Fld := ⟨0x220000, 0x30, 0x0, 1, 31, 16, .ro, 0, true⟩
def Fld.calUnitsRowRetired : Fld := ⟨0x220000, 0x30, 0x0, 1, 15, 0, .ro, 0, true⟩
def Fld.calCommitGo : Fld := ⟨0x220000, 0xFF0, 0x0, 1, 0, 0, .wo, 0, false⟩
def Fld.calCommitStatusAccepted : Fld := ⟨0x220000, 0xFF8, 0x0, 1, 63, 32, .ro, 0, false⟩
def Fld.calCommitStatusCode : Fld := ⟨0x220000, 0xFF8, 0x0, 1, 31, 16, .ro, 0, false⟩
def Fld.calCommitStatusState : Fld := ⟨0x220000, 0xFF8, 0x0, 1, 15, 14, .ro, 0, false⟩
def Fld.calCommitStatusOffset : Fld := ⟨0x220000, 0xFF8, 0x0, 1, 11, 0, .ro, 0, false⟩

/-- The fields of the CAL block, in ascending offset and from high bits to low (R41). -/
def fieldsCal0 : List Fld := [Fld.calCtlRetryS, Fld.calCtlFailLimit, Fld.calCtlTrigger, Fld.calReqRun, Fld.calStatusConsec, Fld.calStatusCode, Fld.calStatusPending, Fld.calStatusStale, Fld.calStatusState, Fld.calTempNow, Fld.calTempLast, Fld.calRuns]
def fieldsCal1 : List Fld := [Fld.calFails, Fld.calUnitsNospare, Fld.calUnitsColRetired, Fld.calUnitsRowRetired, Fld.calCommitGo, Fld.calCommitStatusAccepted, Fld.calCommitStatusCode, Fld.calCommitStatusState, Fld.calCommitStatusOffset]
def fieldsCal : List Fld := fieldsCal0 ++ fieldsCal1

/-! The CWR block (R160, R39). -/

def Fld.cwrCtlPeriodS : Fld := ⟨0x240000, 0x0, 0x0, 1, 63, 32, .st, 0xc54, false⟩
def Fld.cwrCtlDepth : Fld := ⟨0x240000, 0x0, 0x0, 1, 31, 16, .st, 0x40, false⟩
def Fld.cwrCtlParallel : Fld := ⟨0x240000, 0x0, 0x0, 1, 15, 8, .st, 8, false⟩
def Fld.cwrLimitWearLimit : Fld := ⟨0x240000, 0x8, 0x0, 1, 15, 0, .st, 0xc350, false⟩
def Fld.cwrReqTargetMacro : Fld := ⟨0x240000, 0x10, 0x0, 1, 23, 8, .rw, 0, false⟩
def Fld.cwrReqTargetLayer : Fld := ⟨0x240000, 0x10, 0x0, 1, 7, 5, .rw, 0, false⟩
def Fld.cwrReqTargetKind : Fld := ⟨0x240000, 0x10, 0x0, 1, 3, 0, .rw, 0, false⟩
def Fld.cwrReqSource : Fld := ⟨0x240000, 0x18, 0x0, 1, 63, 0, .rw, 0, false⟩
def Fld.cwrReqLevelmap : Fld := ⟨0x240000, 0x20, 0x0, 1, 63, 0, .rw, 0, false⟩
def Fld.cwrReqScales : Fld := ⟨0x240000, 0x28, 0x0, 1, 63, 0, .rw, 0, false⟩
def Fld.cwrReqErrmap : Fld := ⟨0x240000, 0x30, 0x0, 1, 63, 0, .rw, 0, false⟩
def Fld.cwrReqRecord : Fld := ⟨0x240000, 0x38, 0x0, 1, 63, 0, .rw, 0, false⟩
def Fld.cwrReqSignalSync : Fld := ⟨0x240000, 0x40, 0x0, 1, 23, 16, .rw, 0, false⟩
def Fld.cwrReqSignalEnable : Fld := ⟨0x240000, 0x40, 0x0, 1, 15, 15, .rw, 0, false⟩
def Fld.cwrReqSignalColumn : Fld := ⟨0x240000, 0x40, 0x0, 1, 9, 0, .rw, 0, false⟩
def Fld.cwrReqPushPush : Fld := ⟨0x240000, 0x48, 0x0, 1, 0, 0, .wo, 0, false⟩
def Fld.cwrReqStatusQueued : Fld := ⟨0x240000, 0x50, 0x0, 1, 47, 40, .ro, 0, true⟩
def Fld.cwrReqStatusHeld : Fld := ⟨0x240000, 0x50, 0x0, 1, 39, 32, .ro, 0, true⟩
def Fld.cwrReqStatusCode : Fld := ⟨0x240000, 0x50, 0x0, 1, 31, 16, .ro, 0, false⟩
def Fld.cwrReqStatusTokens : Fld := ⟨0x240000, 0x50, 0x0, 1, 15, 0, .ro, 0, false⟩
def Fld.cwrQueryMacro : Fld := ⟨0x240000, 0x58, 0x0, 1, 23, 8, .rw, 0, false⟩
def Fld.cwrQueryLayer : Fld := ⟨0x240000, 0x58, 0x0, 1, 7, 5, .rw, 0, false⟩
def Fld.cwrQueryResultWear : Fld := ⟨0x240000, 0x60, 0x0, 1, 63, 32, .ro, 0, true⟩
def Fld.cwrQueryResultTokens : Fld := ⟨0x240000, 0x60, 0x0, 1, 31, 16, .ro, 0, true⟩
def Fld.cwrQueryResultHeld : Fld := ⟨0x240000, 0x60, 0x0, 1, 1, 1, .ro, 0, true⟩
def Fld.cwrQueryResultIncomplete : Fld := ⟨0x240000, 0x60, 0x0, 1, 0, 0, .ro, 0, true⟩
def Fld.cwrSparesMacros : Fld := ⟨0x240000, 0x68, 0x0, 1, 39, 32, .ro, 0, true⟩
def Fld.cwrSparesMinColumns : Fld := ⟨0x240000, 0x68, 0x0, 1, 4, 0, .ro, 0, true⟩
def Fld.cwrRewrites : Fld := ⟨0x240000, 0x70, 0x0, 1, 63, 0, .ctr, 0, false⟩
def Fld.cwrNoTokens : Fld := ⟨0x240000, 0x78, 0x0, 1, 63, 0, .ctr, 0, false⟩
def Fld.cwrVerifyMisses : Fld := ⟨0x240000, 0x80, 0x0, 1, 63, 0, .ctr, 0, false⟩
def Fld.cwrRepairs : Fld := ⟨0x240000, 0x88, 0x0, 1, 63, 0, .ctr, 0, false⟩
def Fld.cwrCommitGo : Fld := ⟨0x240000, 0xFF0, 0x0, 1, 0, 0, .wo, 0, false⟩
def Fld.cwrCommitStatusAccepted : Fld := ⟨0x240000, 0xFF8, 0x0, 1, 63, 32, .ro, 0, false⟩
def Fld.cwrCommitStatusCode : Fld := ⟨0x240000, 0xFF8, 0x0, 1, 31, 16, .ro, 0, false⟩
def Fld.cwrCommitStatusState : Fld := ⟨0x240000, 0xFF8, 0x0, 1, 15, 14, .ro, 0, false⟩
def Fld.cwrCommitStatusOffset : Fld := ⟨0x240000, 0xFF8, 0x0, 1, 11, 0, .ro, 0, false⟩

/-- The fields of the CWR block, in ascending offset and from high bits to low (R41). -/
def fieldsCwr0 : List Fld := [Fld.cwrCtlPeriodS, Fld.cwrCtlDepth, Fld.cwrCtlParallel, Fld.cwrLimitWearLimit, Fld.cwrReqTargetMacro, Fld.cwrReqTargetLayer, Fld.cwrReqTargetKind, Fld.cwrReqSource, Fld.cwrReqLevelmap, Fld.cwrReqScales, Fld.cwrReqErrmap, Fld.cwrReqRecord]
def fieldsCwr1 : List Fld := [Fld.cwrReqSignalSync, Fld.cwrReqSignalEnable, Fld.cwrReqSignalColumn, Fld.cwrReqPushPush, Fld.cwrReqStatusQueued, Fld.cwrReqStatusHeld, Fld.cwrReqStatusCode, Fld.cwrReqStatusTokens, Fld.cwrQueryMacro, Fld.cwrQueryLayer, Fld.cwrQueryResultWear, Fld.cwrQueryResultTokens]
def fieldsCwr2 : List Fld := [Fld.cwrQueryResultHeld, Fld.cwrQueryResultIncomplete, Fld.cwrSparesMacros, Fld.cwrSparesMinColumns, Fld.cwrRewrites, Fld.cwrNoTokens, Fld.cwrVerifyMisses, Fld.cwrRepairs, Fld.cwrCommitGo, Fld.cwrCommitStatusAccepted, Fld.cwrCommitStatusCode, Fld.cwrCommitStatusState]
def fieldsCwr3 : List Fld := [Fld.cwrCommitStatusOffset]
def fieldsCwr : List Fld := fieldsCwr0 ++ fieldsCwr1 ++ fieldsCwr2 ++ fieldsCwr3

/-- The block that an address lies in: its fields, its base and its count of instances (Table 2.1). -/
structure Block where
  pfx : Pfx
  base : Nat
  insts : Nat
  fields : List Fld
deriving DecidableEq, Repr

/-- The block of each prefix (Table 2.1). -/
def blockOf : Pfx → Block
  | .blend => ⟨.blend, 0x0, 1, fieldsBlend⟩
  | .cap => ⟨.cap, 0x1000, 1, fieldsCap⟩
  | .tile => ⟨.tile, 0x100000, 64, fieldsTile⟩
  | .opq => ⟨.opq, 0x140000, 64, fieldsOpq⟩
  | .sync => ⟨.sync, 0x180000, 65, fieldsSync⟩
  | .cask => ⟨.cask, 0x200000, 32, fieldsCask⟩
  | .cal => ⟨.cal, 0x220000, 32, fieldsCal⟩
  | .cwr => ⟨.cwr, 0x240000, 32, fieldsCwr⟩
  | .xfer => ⟨.xfer, 0x14000, 4, fieldsXfer⟩
  | .flink => ⟨.flink, 0x20000, 96, fieldsFlink⟩
  | .rdc => ⟨.rdc, 0x10000, 4, fieldsRdc⟩
  | .eth => ⟨.eth, 0x5000, 1, fieldsEth⟩
  | .ses => ⟨.ses, 0x4000, 1, fieldsSes⟩
  | .pwr => ⟨.pwr, 0x6000, 1, fieldsPwr⟩
  | .hkc => ⟨.hkc, 0x7000, 1, fieldsHkc⟩
  | .bist => ⟨.bist, 0xA000, 1, fieldsBist⟩
  | .rst => ⟨.rst, 0x8000, 1, fieldsRst⟩
  | .snap => ⟨.snap, 0x9000, 1, fieldsSnap⟩
  | .boot => ⟨.boot, 0x2000, 1, fieldsBoot⟩
  | .att => ⟨.att, 0x3000, 1, fieldsAtt⟩

/-- All prefixes. -/
def allPfx : List Pfx :=
  [.blend, .cap, .boot, .att, .ses, .eth, .pwr, .hkc, .rst, .snap, .bist, .rdc, .xfer, .flink, .tile, .opq, .sync, .cask,
   .cal, .cwr]

/-- The block and the instance that an address falls on; none: unmapped (R37). -/
def blockAt (a : Nat) : Option (Block × Nat) :=
  (allPfx.map blockOf).findSome? fun b =>
    if b.base ≤ a ∧ a < b.base + b.insts * 0x1000 then some (b, (a - b.base) / 0x1000) else none

/-- The fields of the register at an address, with the instance and the index of each. -/
def fieldsAt (a : Nat) : List (Fld × Nat × Nat) :=
  match blockAt a with
  | none => []
  | some (b, i) =>
    let o := (a - b.base) % 0x1000
    b.fields.filterMap fun f =>
      if o < f.off then none
      else if f.stride = 0 then (if o = f.off then some (f, i, 0) else none)
      else if (o - f.off) % f.stride = 0 ∧ (o - f.off) / f.stride < f.count then some (f, i, (o - f.off) / f.stride)
      else none

/-- A register word at its Reset values (R16); a live field stands at 0 here and is computed when it is read. -/
def resetWord (a : Nat) : W64 := BitVec.ofNat 64 ((fieldsAt a).foldl (fun w e => w + e.1.reset * 2 ^ e.1.lo) 0)

end Sys2Proof.Machine
end

