-- ==== Sys2Proof/Machine/Regs.lean ====
section
/-!
DEFINITION. Access to registers by field, and to the like units of the module by number.
-/

namespace Sys2Proof.Machine

/-! ### Registers -/

/-- The word of a register in force, live fields apart (R13, R16). -/
def State.word (s : State) (a : Nat) : W64 := smGet resetWord s.ctl a

/-- A register's word in force replaced. -/
def State.setWord (s : State) (a : Nat) (v : W64) : State := { s with ctl := smPut resetWord a v s.ctl }

/-- A field in force of instance `i`, like register `j`. -/
def State.get (s : State) (f : Fld) (i : Nat := 0) (j : Nat := 0) : Nat := fieldOf (s.word (f.addr i j)) f.hi f.lo

/-- A field in force replaced. -/
def State.set (s : State) (f : Fld) (i j v : Nat) : State :=
  s.setWord (f.addr i j) (withField (s.word (f.addr i j)) f.hi f.lo v)

/-- An event counter advanced by `n`: COUNT is 48 bits wide and WRAP is set when it wraps (Table 4.13). -/
def bumpWord (w : W64) (n : Nat) : W64 :=
  let c := fieldOf w 47 0 + n
  BitVec.ofNat 64 (c % 2 ^ 48 + (if c ≥ 2 ^ 48 ∨ fieldOf w 63 63 = 1 then 2 ^ 63 else 0))

/-- An event counter of instance `i` advanced by `n`. -/
def State.bump (s : State) (f : Fld) (i : Nat := 0) (j : Nat := 0) (n : Nat := 1) : State :=
  s.setWord (f.addr i j) (bumpWord (s.word (f.addr i j)) n)

/-- The staged copy of a register: equal to the value in force until it is written (R13, R44). -/
def State.stagedWord (s : State) (a : Nat) : W64 := smGet s.word s.staged a

/-- A staged copy replaced. -/
def State.setStaged (s : State) (a : Nat) (v : W64) : State := { s with staged := smPut s.word a v s.staged }

/-- Whether an address lies in the block at a base. -/
def inBlock (base a : Nat) : Bool := decide (base ≤ a ∧ a < base + 0x1000)

/-- Whether an address is that of an event counter (Table 4.13). -/
def isCounter (a : Nat) : Bool := (fieldsAt a).any fun e => e.1.acc == .ctr

/-- The event counters of a block cleared, as a reset that reaches it begins; what it counts from then on counts from 0 (R16). -/
def State.clearCounters (s : State) (base : Nat) : State :=
  { s with ctl := s.ctl.filter fun e => !(inBlock base e.1 && isCounter e.1) }

/-- The other registers of a block at their Reset values, as the reset ends (R16, R44). -/
def State.resetFields (s : State) (base : Nat) : State :=
  let out := fun (e : Nat × W64) => !inBlock base e.1
  { s with ctl := s.ctl.filter fun e => out e || isCounter e.1, staged := s.staged.filter out, captured := s.captured.filter out,
           checking := s.checking.filter (· != base) }

/-- The registers of one block instance back at their Reset values, the staged copy equal to them (R16, R44). -/
def State.resetBlock (s : State) (base : Nat) : State :=
  let out := fun (e : Nat × W64) => decide (e.1 < base ∨ base + 0x1000 ≤ e.1)
  { s with ctl := s.ctl.filter out, staged := s.staged.filter out, captured := s.captured.filter out,
           checking := s.checking.filter (· != base) }

/-! ### Free values -/

/-- A free value is used up: the next draw differs (log 2). -/
def State.tick (s : State) : State := { s with free := s.free + 1 }

/-! ### Like units, by number -/

def State.tile (s : State) (t : Nat) : Tile := smGet (fun _ => {}) s.tiles t
def State.setTile (s : State) (t : Nat) (x : Tile) : State := { s with tiles := smPut (fun _ => {}) t x s.tiles }
def State.core (s : State) (t c : Nat) : Core := smGet (fun _ => {}) s.cores (8 * t + c)
def State.setCore (s : State) (t c : Nat) (x : Core) : State := { s with cores := smPut (fun _ => {}) (8 * t + c) x s.cores }
def State.ctr (s : State) (id : Nat) : Ctr := smGet (fun _ => {}) s.ctrs id
def State.setCtr (s : State) (id : Nat) (x : Ctr) : State := { s with ctrs := smPut (fun _ => {}) id x s.ctrs }
def State.die (s : State) (d : Nat) : Die := smGet (fun _ => {}) s.dies d
def State.setDie (s : State) (d : Nat) (x : Die) : State := { s with dies := smPut (fun _ => {}) d x s.dies }
def State.link (s : State) (l : Nat) : Link := smGet (fun _ => {}) s.links l
def State.setLink (s : State) (l : Nat) (x : Link) : State := { s with links := smPut (fun _ => {}) l x s.links }
def State.engine (s : State) (e : Nat) : Engine := smGet (fun _ => {}) s.engines e
def State.setEngine (s : State) (e : Nat) (x : Engine) : State := { s with engines := smPut (fun _ => {}) e x s.engines }
def State.ctx (s : State) (c : Nat) : Ctx := smGet (fun _ => {}) s.ctxs c
def State.setCtx (s : State) (c : Nat) (x : Ctx) : State := { s with ctxs := smPut (fun _ => {}) c x s.ctxs }
def State.session (s : State) (n : Nat) : Session := smGet (fun _ => {}) s.sessions n
def State.setSession (s : State) (n : Nat) (x : Session) : State :=
  { s with sessions := smPut (fun _ => {}) n x s.sessions }
def State.qp (s : State) (n : Nat) : Qp := smGet (fun _ => {}) s.qps n
def State.setQp (s : State) (n : Nat) (x : Qp) : State := { s with qps := smPut (fun _ => {}) n x s.qps }

/-- The key of a macro layer. -/
def layerKey (die mac layer : Nat) : Nat := (die * 4096 + mac) * 8 + layer

def State.layer (s : State) (k : Nat) : Layer := smGet (fun _ => {}) s.layers k
def State.setLayer (s : State) (k : Nat) (x : Layer) : State := { s with layers := smPut (fun _ => {}) k x s.layers }

/-- The operation in a slot of a tile; none: the slot is free. -/
def Tile.op (x : Tile) (slot : Nat) : Option Op := smGet (fun _ => none) x.slots slot

/-- A slot of a tile replaced. -/
def Tile.setOp (x : Tile) (slot : Nat) (o : Option Op) : Tile := { x with slots := smPut (fun _ => none) slot o x.slots }

def State.op (s : State) (t slot : Nat) : Option Op := (s.tile t).op slot
def State.setOp (s : State) (t slot : Nat) (o : Option Op) : State := s.setTile t ((s.tile t).setOp slot o)

/-- The operations of a tile with their slots. -/
def Tile.ops (x : Tile) : List (Nat × Op) := x.slots.filterMap fun e => e.2.map fun o => (e.1, o)

/-- The halt of a queue; none: not halted. -/
def Tile.halt (x : Tile) (q : Nat) : Option Halt := smGet (fun _ => none) x.halts q
def Tile.setHalt (x : Tile) (q : Nat) (h : Option Halt) : Tile := { x with halts := smPut (fun _ => none) q h x.halts }

/-! ### Descriptors -/

/-- `n` bytes of a descriptor from offset `off`, little-endian (R222). -/
def dField (d : BitVec 512) (off n : Nat) : Nat := d.toNat / 2 ^ (8 * off) % 2 ^ (8 * n)

/-- Bits [hi:lo] of the number at `off` of a descriptor. -/
def dBits (d : BitVec 512) (off hi lo : Nat) : Nat := d.toNat / 2 ^ (8 * off + lo) % 2 ^ (hi + 1 - lo)

/-- A descriptor from its 64 bytes. -/
def descOf (bs : List Byte) : BitVec 512 := BitVec.ofNat 512 (leNat bs)

/-! ### Domains and units (Table 13.4, Table 14.1) -/

def domTile (t : Nat) : Nat := t
def domCask (d : Nat) : Nat := 64 + d
def domOptical (e : Nat) : Nat := 96 + e
def domPress (p : Nat) : Nat := 104 + p
def domEth : Nat := 108
def domService : Nat := 109
def domHkc : Nat := 110
def domJournal : Nat := 111

/-- Whether a power domain is on. -/
def State.domainOn (s : State) (d : Nat) : Bool := s.power.domains.getLsbD d

/-- Unit identifiers (R398, Table 14.1). -/
def unitId (kind inst part : Nat) : Nat := kind * 4096 + inst * 16 + part
def unitTile (t : Nat) (part : Nat := 0) : Nat := unitId 1 t part
def unitCask (d : Nat) (part : Nat := 0) : Nat := unitId 2 d part
def unitPress (p : Nat) (part : Nat := 0) : Nat := unitId 3 p part
def unitLink (l : Nat) : Nat := unitId 4 l 0
def unitEngine (e : Nat) : Nat := unitId 5 e 0
def unitEth : Nat := unitId 6 0 0
def unitCore (k : Nat) : Nat := unitId 7 k 0
def unitHkc : Nat := unitId 8 0 0
def unitModule : Nat := unitId 9 0 0

/-- The kind and the instance of a unit identifier. -/
def unitKind (u : Nat) : Nat := u / 4096 % 16
def unitInst (u : Nat) : Nat := u / 16 % 256

/-- What reading a record gives: a copy that checks, or else why none does (R429). -/
def RecPair.read (p : RecPair) : RecState :=
  if p.first = .ok ∨ p.second = .ok then .ok else if p.first = .missing then p.second else p.first

end Sys2Proof.Machine
end

