-- ==== Sys2Proof/Machine/Memory.lean ====
section
/-!
DEFINITION. The module address space (R254 to R258, Table 9.1, Table 6.2): which addresses are mapped, what a byte holds,
reads and writes, uncorrectable and poisoned blocks. Contents are keyed by module address; INTERLEAVE decides which
addresses are mapped, and where XFER_PROBE says that they lie.
-/

namespace Sys2Proof.Machine

/-- Where the tile regions and the service cluster SRAM start (Table 9.1). -/
def tileBase (t : Nat) : Nat := 0x20000000000 + 0x4000000 * t
def sramBase : Nat := 0x20100000000
def sramSize : Nat := 0x4000000

/-- Where the accumulator window of a tile starts in its tile-local space, and its size (Table 6.2). -/
def accumBase : Nat := 0x2000000
def accumSize : Nat := 0x400000

/-- What an address names before anything is asked of domains and INTERLEAVE. -/
inductive Place where
  | stack
  | scratch (t off : Nat)
  | accum (t off : Nat)
  | sram (off : Nat)
  | none_
deriving DecidableEq, Repr

/-- The place of a module address (Table 9.1, Table 6.2); `scratchKib` is CAP_MEMORY.SCRATCH_KIB. -/
def placeOf (scratchKib a : Nat) : Place :=
  if a < 0x20000000000 then .stack
  else if a < 0x20100000000 then
    let t := (a - 0x20000000000) / 0x4000000
    let o := (a - 0x20000000000) % 0x4000000
    if o < min (scratchKib * 1024) 0x1800000 then .scratch t o
    else if accumBase ≤ o ∧ o < accumBase + accumSize then .accum t (o - accumBase)
    else .none_
  else if a < 0x20104000000 then .sram (a - 0x20100000000)
  else .none_

/-! ### INTERLEAVE (R255) -/

/-- The stacks of a mask, in ascending order. -/
def stacksOf (mask : Nat) : List Nat := (List.range 32).filter fun i => mask / 2 ^ i % 2 == 1

/-- The bytes that a region puts on each of its stacks. -/
def Region.share (r : Region) : Nat := r.size / (stacksOf r.stackMask).length

/-- The stack-local base of stack `x` after the regions before the one considered. -/
def lbase (before : List Region) (x : Nat) : Nat :=
  ((before.filter fun r => r.stackMask / 2 ^ x % 2 == 1).map Region.share).sum

/-- The stack and the local address of an address under the regions, `before` those already passed (R255). -/
def mapIn (before : List Region) : List Region → Nat → Option (Nat × Nat)
  | [], _ => none
  | r :: rest, a =>
    if r.base ≤ a ∧ a < r.base + r.size then
      let off := a - r.base
      let st := stacksOf r.stackMask
      let g := 2 ^ r.granuleLog2
      let stripe := g * st.length
      let k := off % stripe / g
      let x := st.getD k 0
      some (x, lbase before x + off / stripe * g + off % g)
    else mapIn (before ++ [r]) rest a

/-- The stack and the local address of a stack address; none: unmapped (R254, R255). -/
def mapStack (rs : List Region) (a : Nat) : Option (Nat × Nat) := mapIn [] rs a

/-- The regions of the blend in force. -/
def State.regions (s : State) : List Region := (s.blend.inForce.map Blend.regions).getD []

/-! ### What a byte holds -/

/-- Whether a loss event reaches an address (R256, R371, Table 14.5). -/
def LossKind.covers (k : LossKind) (a : Nat) : Bool :=
  match k with
  | .stacks rs mask => decide (a < 0x20000000000) && (match mapStack rs a with
      | some (x, _) => mask / 2 ^ x % 2 == 1
      | none => true)
  | .sram => decide (sramBase ≤ a ∧ a < sramBase + sramSize)
  | .remap old new => decide (a < 0x20000000000 ∧ mapStack old a ≠ mapStack new a)
  | .range b n => decide (b ≤ a ∧ a < b + n)
  | .cleared b n => decide (b ≤ a ∧ a < b + n)

/-- What a byte that nothing has written holds: 0, or −0 through the accumulator window (R181), both log 3. -/
def freshByte (a : Nat) : Byte :=
  match placeOf 0x6000 a with
  | .accum _ o => if o % 4 = 3 then 0x80 else 0
  | _ => 0

/-- What a byte holds after a loss event that reaches it. -/
def Loss.byte (l : Loss) (a : Nat) : Byte :=
  match l.kind with
  | .cleared _ _ => freshByte a
  | _ => Config.freeByte l.stamp a

/-- What an unlisted byte reads as: a free value after a loss event, the newest deciding; else its fresh value (log 6). -/
def unlisted (lost : List Loss) (a : Nat) : Byte :=
  match lost.find? (fun l => l.kind.covers a) with
  | some l => l.byte a
  | none => freshByte a

/-- One byte of the module's memory. -/
def Memory.read (m : Memory) (a : Nat) : Byte := smGet (unlisted m.lost) m.cells a

/-- One byte of the module's memory written. -/
def Memory.write (m : Memory) (a : Nat) (b : Byte) : Memory := { m with cells := smPut (unlisted m.lost) a b m.cells }

/-- The memory's canonical form: addresses rise strictly, and no entry equals what an unlisted address reads as. -/
abbrev Memory.wf (m : Memory) : Prop := smWf (unlisted m.lost) m.cells

/-- Whether a loss event takes the marks of a stack's poisoned blocks with it: the stack itself loses what it holds (log 6). -/
def LossKind.unmarks (k : LossKind) (stack : Nat) : Bool :=
  match k with
  | .stacks _ mask => mask / 2 ^ stack % 2 == 1
  | _ => false

/-- The contents of the addresses that a loss event reaches become undefined. A block stays poisoned wherever the map puts it. -/
def Memory.lose (m : Memory) (stamp : Nat) (k : LossKind) : Memory :=
  { m with cells := m.cells.filter (fun c => !k.covers c.1), lost := { stamp := stamp, kind := k } :: m.lost,
           poisoned := m.poisoned.filter (fun b => !k.unmarks b.1) }

/-- The bytes of a range. -/
def Memory.readList (m : Memory) (a n : Nat) : List Byte := (List.range n).map fun i => m.read (a + i)

/-- Bytes written from an address upward. -/
def Memory.writeList (m : Memory) (a : Nat) : List Byte → Memory
  | [] => m
  | b :: bs => (m.write a b).writeList (a + 1) bs

def State.readByte (s : State) (a : Nat) : Byte := s.mem.read a
def State.readBytes (s : State) (a n : Nat) : List Byte := s.mem.readList a n
def State.readNat (s : State) (a n : Nat) : Nat := leNat (s.readBytes a n)

/-- The units of `w` bytes that a range touches. -/
def unitsOf (w a n : Nat) : List Nat :=
  if n = 0 then [] else (List.range ((a + n - 1) / w - a / w + 1)).map fun i => (a / w + i) * w

/-- The 64-byte blocks that a range touches (R257). -/
def blocksOf (a n : Nat) : List Nat := unitsOf 64 a n

/-- The bytes that one error-correcting code word protects at an address: 64 bits of a scratchpad, 32 bits of an accumulator buffer, a
64-byte block elsewhere (Table 6.1, R164, R257). -/
def eccBytes (scratchKib a : Nat) : Nat :=
  match placeOf scratchKib a with
  | .scratch _ _ => 8
  | .accum _ _ => 4
  | _ => 64

/-- Whether the block at a module address is poisoned (R255, R258). -/
def State.isPoisoned (s : State) (b : Nat) : Bool := (mapStack s.regions b).elim false fun p => s.mem.poisoned.contains p

/-- Bytes written; a poisoned block written whole is no longer poisoned (R258). -/
def State.writeBytes (s : State) (a : Nat) (bs : List Byte) : State :=
  let m := s.mem.writeList a bs
  let whole := fun (p : Nat × Nat) => (blocksOf a bs.length).any fun b =>
    decide (a ≤ b ∧ b + 64 ≤ a + bs.length) && mapStack s.regions b == some p
  { s with mem := { m with poisoned := m.poisoned.filter fun p => !whole p } }

/-- Contents lost, with a fresh stamp. -/
def State.lose (s : State) (k : LossKind) : State := { s.tick with mem := s.mem.lose s.free k }

/-! ### Mapped addresses (R254) -/

/-- Whether a module address is mapped now. -/
def State.mapped (s : State) (a : Nat) : Bool :=
  match placeOf (s.get .capMemoryScratchKib) a with
  | .stack => (mapStack s.regions a).isSome
  | .scratch t _ => s.domainOn (domTile t)
  | .accum t _ => s.domainOn (domTile t)
  | .sram _ => true
  | .none_ => false

/-- The first unmapped address of a range. -/
def State.firstUnmapped (s : State) (a n : Nat) : Option Nat :=
  ((List.range n).map (a + ·)).find? fun x => !s.mapped x

/-- Whether a whole range is mapped: the map changes at multiples of 256 bytes only (Table 9.1, R50, R255). -/
def State.rangeMapped (s : State) (a n : Nat) : Bool := (unitsOf 256 a n).all fun b => s.mapped (max a b)

/-- Why an access to memory fails. -/
inductive MemErr where
  | unmapped (a : Nat)
  | ue (a : Nat)
  | scratchUe (t off : Nat)
  | accumUe (t off : Nat)
deriving DecidableEq, Repr

/-- The error that an uncorrectable word at an address is, by its place (R164, R258). -/
def ueAt (scratchKib b : Nat) : MemErr :=
  match placeOf scratchKib b with
  | .scratch t o => .scratchUe t o
  | .accum t o => .accumUe t o
  | _ => .ue b

/-- Whether an access to a range meets an error: an unmapped byte, a word or block in `ue` that the hardware finds uncorrectable,
or a poisoned block (for a write: one that it covers only in part) (R164, R254, R258). -/
def State.accessErr (s : State) (ue : List Nat) (a n : Nat) (isWrite : Bool) : Option MemErr :=
  match s.firstUnmapped a n with
  | some x => some (.unmapped x)
  | none =>
    let w := eccBytes (s.get .capMemoryScratchKib) a
    (unitsOf w a n).findSome? fun b =>
      let whole := decide (a ≤ b ∧ b + w ≤ a + n)
      if s.isPoisoned b && !(isWrite && whole) then some (.ue b)
      else if !isWrite && ue.any (fun u => u / w * w == b) then some (ueAt (s.get .capMemoryScratchKib) b)
      else none

/-- An uncorrectable stack block recorded: XFER_MEM_UE_p increments and XFER_MEM_ERR names it (R258). -/
def State.noteMemErr (s : State) (code a : Nat) : State :=
  match mapStack s.regions a with
  | none => s
  | some (x, l) =>
    let p := x / 5
    let s := s.bump .xferMemUe p (x % 5)
    ((s.set .xferMemErrCode p 0 code).set .xferMemErrStack p 0 x).set .xferMemErrLocal p 0 l

/-- What an access error does at once: a stack block is recorded, a scratchpad or accumulator word counted (R164, R258). -/
def State.noteErr (s : State) (e : MemErr) : State :=
  match e with
  | .unmapped _ => s
  | .ue a => s.noteMemErr Code.memUe a
  | .scratchUe t _ => s.bump .tileScratchUe t
  | .accumUe t _ => s.bump .tileAccumUe t

/-- A corrected error that a read met, counted at its place: TILE_SCRATCH_CE, TILE_ACCUM_CE or XFER_MEM_CE_p (R164, R257). -/
def State.noteCe (s : State) (a : Nat) : State :=
  match placeOf (s.get .capMemoryScratchKib) a with
  | .scratch t _ => s.bump .tileScratchCe t
  | .accum t _ => s.bump .tileAccumCe t
  | .stack =>
    match mapStack s.regions a with
    | some (x, _) => s.bump .xferMemCe (x / 5) (x % 5)
    | none => s
  | _ => s

/-- The corrected errors that a command's reads met, counted before the command has its effect (log 91). -/
def State.corrected (s : State) (ce : List Nat) : State := ce.foldl State.noteCe s

/-! ### Tile-local stores -/

/-- The module address of a tile-local address. -/
def tileAddr (t off : Nat) : Nat := tileBase t + off

/-- A store of `n` bytes at a tile-local address; reservations of other cores on its 64-byte block are lost. -/
def State.store (s : State) (t c a n v : Nat) : State :=
  let s1 := s.writeBytes (tileAddr t a) (leBytes n v)
  { s1 with cores := smMapV (fun _ => {}) (fun key k =>
      if key / 8 = t && key != 8 * t + c && k.reservation == some (a / 64) then { k with reservation := none } else k) s1.cores }

end Sys2Proof.Machine
end

