-- ==== Sys2Proof/Machine/Ops.lean ====
section
/-!
DEFINITION. The shared operations: the blend's answers, the error log and alert-out, events to sessions, signals and sync
counters, slots, completion records, halts and the leaving of a queue.
-/

namespace Sys2Proof.Machine

/-! ### What the blend in force says (Table 2.7) -/

/-- The role of a tile; OFF while no blend is in force. -/
def State.role (s : State) (t : Nat) : TileRole :=
  match s.blend.inForce with
  | some b => b.roles.getD t {}
  | none => {}

/-- This module's DEVICE_ID; 0x3FFF, which no blend of fewer modules uses, while no blend is in force. -/
def State.deviceId (s : State) : Nat := (s.blend.inForce.map Blend.deviceId).getD 0x3FFF

/-- The macros that a die has (R9, CAP_DIE_MACROS_d.GOOD). -/
def State.good (s : State) (d : Nat) : Nat := s.get .capDieMacrosGood 0 d

/-- The binding that covers a macro layer (R20). -/
def State.binding (s : State) (d m l : Nat) : Option Binding :=
  match s.blend.inForce with
  | none => none
  | some b => b.bindings.find? fun e =>
      e.die == d && decide (e.first ≤ m ∧ m < e.first + e.macros) && e.layerMask / 2 ^ l % 2 == 1

/-- Whether a counter identifier may be named (R223). -/
def State.idValid (s : State) (id : Nat) : Bool :=
  if id / 256 = 64 then decide (id % 256 < s.get .capQueuesServiceSync)
  else decide (id / 256 < 64) && decide (id % 256 < (s.role (id / 256)).syncLimit) && (s.role (id / 256)).role != 0

/-- Whether an identifier names a counter of a tile whose domain is off (R464). -/
def State.idOff (s : State) (id : Nat) : Bool := decide (id / 256 < 64) && !s.domainOn (domTile (id / 256))

/-! ### The throttle ladder (R372, R373, Table 13.6) -/

/-- The lowest and the last index of a profile; FIXED counts its duty alone. -/
def profileRange (profile : Nat) : Nat × Nat := if profile = 1 then (3, 22) else if profile = 2 then (0, 15) else (0, 22)

/-- The throttle index in force, within its profile's range. -/
def State.index (s : State) : Nat :=
  let r := profileRange (s.get .pwrCtlProfile)
  max r.1 (min r.2 s.power.index)

/-- The operating point of an index. -/
def State.pointOf (s : State) (i : Nat) : Nat := if s.get .pwrCtlProfile = 2 then 2 else min i 7

/-- The stopped sixteenths of an index. -/
def State.dutyOf (s : State) (i : Nat) : Nat := if s.get .pwrCtlProfile = 2 then i else i - 7

/-- The cap's limit of active macros for each cask die. -/
def State.caskLimit (s : State) : Nat := if s.get .pwrCtlProfile = 2 then 64 else 64 - 6 * min s.index 7

/-! ### Sessions' events and the error log (R348, R423, R452) -/

/-- An EVENT sent to every open session that has its bit in MASK (R348). -/
def State.event (s : State) (kind code arg0 arg1 : Nat) : State :=
  { s with out := s.out ++ ((s.sessions.filter fun e => e.2.opened && e.2.mask / 2 ^ kind % 2 == 1).map
      fun e => Output.event e.1 kind code arg0 arg1) }

/-- The arguments of an error log entry (Table 14.8). -/
structure LogArgs where
  ctx : Nat := 0xFFFF
  gen : Nat := 0
  arg0 : Nat := 0
  arg1 : Nat := 0
  peer : Nat := 0xFFFF
  link : Nat := 0xFF
  level : Nat := 0xFF
  flags : Nat := 0
deriving DecidableEq, Repr

/-- The address of ring entry `i` of the error log (R423). -/
def State.logAddr (s : State) (i : Nat) : Nat := sramBase + s.get .rstLogCfgOffset + 64 * (i % 65536)

/-- The number of the step under way; all ones when no plan runs (Table 14.8). -/
def State.stepNumber (s : State) : Nat :=
  if s.svc.plan.isSome && (s.svc.state == 1 || s.svc.state == 2) then s.svc.step else 2 ^ 64 - 1

/-- The 64 bytes of an entry (Table 14.8); TIME is a free value (log 2). -/
def State.logEntry (s : State) (code unit : Nat) (a : LogArgs) : List Byte :=
  leBytes 4 s.rel.logSeq ++ leBytes 2 code ++ leBytes 2 unit ++ leBytes 8 (Config.freeNat s.free) ++ leBytes 8 s.stepNumber ++
  leBytes 2 a.ctx ++ leBytes 1 a.gen ++ leBytes 1 a.flags ++ leBytes 4 (if a.ctx = 0xFFFF then 0 else (s.ctx a.ctx).job) ++
  leBytes 8 a.arg0 ++ leBytes 8 a.arg1 ++ leBytes 2 a.peer ++ leBytes 1 a.link ++ leBytes 1 a.level ++ leBytes 12 0

/-- Alert-out is asserted without a log entry: the pin is driven low until firmware's RPTR reaches the entries written so far
(R452). -/
def State.alertOut (s : State) : State :=
  { s with rel := { s.rel with alert := true, alertSeq := (s.rel.logSeq + 2 ^ 32 - 1) % 2 ^ 32 } }

/-- A code logged: one entry in the ring, and for an entry with FLAGS bit 0 set alert-out and the alert event (R423, R452,
R348). -/
def State.logCode (s : State) (code unit : Nat) (a : LogArgs := {}) : State :=
  let seq := s.rel.logSeq
  let s1 := s.writeBytes (s.logAddr seq) (s.logEntry code unit a)
  let s2 := { s1.tick with rel := { s1.rel with logSeq := (seq + 1) % 2 ^ 32, logHeld := min 65536 (s.rel.logHeld + 1) } }
  if a.flags % 2 = 1 then
    let s3 := { s2 with rel := { s2.rel with alert := true, alertSeq := seq } }
    s3.event 0 code seq (unit + a.ctx * 65536)
  else s2

/-- A code logged with alert-out asserted. -/
def State.alarm (s : State) (code unit : Nat) (a : LogArgs := {}) : State :=
  s.logCode code unit { a with flags := a.flags / 2 * 2 + 1 }

/-! ### Sync counters (R236 to R238, R464) -/

/-- A counter changed by a signal in NORMAL: saturating, with OVF or UNF (Table 8.6). -/
def Ctr.signal (c : Ctr) (delta : Int) : Ctr :=
  if delta ≥ 0 then
    { c with value := min (c.value + delta.toNat) 0xFFFF, ovf := c.ovf || decide (c.value + delta.toNat > 0xFFFF) }
  else
    { c with value := c.value - delta.natAbs, unf := c.unf || decide (c.value < delta.natAbs) }

/-- Whether a signal sets OVF or UNF. -/
def Ctr.saturates (c : Ctr) (delta : Int) : Bool :=
  if delta ≥ 0 then decide (c.value + delta.toNat > 0xFFFF) else decide (c.value < delta.natAbs)

/-- One signal at its counter: applied, or dropped and counted; the flag says whether it set OVF or UNF (R237, R464). -/
def State.signalTo (s : State) (id : Nat) (delta : Int) : State × Bool :=
  if delta = 0 then (s, false)
  else if s.idOff id then (s.bump .syncDropped 64, false)
  else
    let c := s.ctr id
    if c.poison then (s.bump .syncDropped (id / 256), false)
    else if c.saturates delta then ((s.setCtr id (c.signal delta)).bump .syncSaturations (id / 256), true)
    else (s.setCtr id (c.signal delta), false)

/-- A service counter signalled by +1. -/
def State.signalService (s : State) (n : Nat) : State := (s.signalTo (64 * 256 + n) 1).1

/-- The signals of an operation, increments before decrements at one counter (R231); SIG 0xFFFF names none. -/
def State.sendSignals (s : State) (d : BitVec 512) : State × Bool :=
  let g0 := (dField d 16 2, signed 8 (dField d 20 1))
  let g1 := (dField d 18 2, signed 8 (dField d 21 1))
  let gs := if g0.2 < 0 ∧ g1.2 > 0 then [g1, g0] else [g0, g1]
  gs.foldl (fun a g => if g.1 = 0xFFFF then a else
    let r := a.1.signalTo g.1 g.2
    (r.1, a.2 || r.2)) (s, false)

/-- MISUSE of a counter recorded (Table 8.12). A tile whose domain is off has no counters (R464). -/
def State.misuse (s : State) (id device unit code : Nat) : State :=
  if s.idOff id then s
  else
  let s := s.setCtr id { s.ctr id with misuse := true }
  let i := id / 256
  (((s.set .syncMisuseInfoDevice i 0 device).set .syncMisuseInfoUnit i 0 unit).set .syncMisuseInfoCode i 0 code).set
    .syncMisuseInfoIndex i 0 (id % 256)

/-! ### Waits (R237, R239, R240) -/

/-- How a wait stands. -/
inductive WaitState where
  | met
  | unmet
  | poisoned
deriving DecidableEq, Repr

/-- A wait on a counter with a threshold; 0xFFFF names none, and threshold 0 is met without reading (R237, Table 8.9a). -/
def State.wait (s : State) (id thresh : Nat) : WaitState :=
  if id = 0xFFFF ∨ thresh = 0 then .met
  else if (s.ctr id).poison then .poisoned
  else if thresh ≤ (s.ctr id).value then .met
  else .unmet

/-- What each wait of a descriptor asks of its counter. Two waits on one counter of which one or both consume are met together
when its value covers both: the second finds what the first has left (R238, R239). -/
def waitNeeds (d : BitVec 512) : Nat × Nat :=
  let a := dField d 10 2
  let b := dField d 14 2
  if dField d 8 2 = dField d 12 2 ∧ dBits d 6 1 0 ≠ 0 ∧ a ≠ 0 ∧ b ≠ 0 then (a + b, a + b) else (a, b)

/-- A descriptor's waits, with the number of the first that is poisoned. -/
def State.waits (s : State) (d : BitVec 512) : WaitState × Nat :=
  match s.wait (dField d 8 2) (waitNeeds d).1, s.wait (dField d 12 2) (waitNeeds d).2 with
  | .poisoned, _ => (.poisoned, 0)
  | _, .poisoned => (.poisoned, 1)
  | .met, .met => (.met, 0)
  | _, _ => (.unmet, 0)

/-- A consume: the threshold is subtracted when CONSUME is set (R237, Table 8.9a). -/
def State.consume (s : State) (id thresh : Nat) (c : Bool) : State :=
  if c && id != 0xFFFF && thresh != 0 then
    s.setCtr id { s.ctr id with value := (s.ctr id).value - thresh }
  else s

/-- The waits of a descriptor consumed as it leaves (R237, R239). -/
def State.consumeWaits (s : State) (d : BitVec 512) : State :=
  (s.consume (dField d 8 2) (dField d 10 2) (dBits d 6 0 0 == 1)).consume (dField d 12 2) (dField d 14 2)
    (dBits d 6 1 1 == 1)

/-! ### Completion records (R235, R465) -/

/-- The information codes of the INFO bits, in bit order (Table 8.5). -/
def infoCodes : List Nat := [0x3010, 0x1010, 0x1011, 0x1012, 0x4020, 0x7010, 0x7011, 0x7012]

/-- The CODE of an operation that did not fail: the lowest information code that it carries (R235). -/
def infoCode (info : Nat) : Nat :=
  ((infoCodes.zipIdx.filter fun p => info / 2 ^ p.2 % 2 == 1).map Prod.fst).foldl
    (fun a c => if a = 0 ∨ c < a then c else a) 0

/-- The address of a queue's next record (R235). -/
def State.recAddr (s : State) (t q : Nat) : Nat :=
  s.get .opqRecBase t q * 64 + 32 * (s.get .opqRecPtrWptr t q % 2 ^ s.get .opqRecRecLog2 t q)

/-- Why the next record of a queue cannot be written (R465); `ue` are blocks that the hardware finds uncorrectable. -/
def State.recErr (s : State) (ue : List Nat) (t q : Nat) : Option MemErr := s.accessErr ue (s.recAddr t q) 32 false

/-- Whether the next record of a queue can be written (R465). -/
def State.recOk (s : State) (ue : List Nat) (t q : Nat) : Bool := (s.recErr ue t q).isNone

/-- The 32 bytes of a record (Table 8.5); START and CLOCKS are measured times (log 2). -/
def recordBytes (code q slot clocks detail : Nat) (o : Op) : List Byte :=
  leBytes 2 code ++ leBytes 1 (dField o.desc 0 1) ++ leBytes 1 q ++ leBytes 1 slot ++ leBytes 1 o.fmt ++
  leBytes 2 (o.flags % 8192) ++ leBytes 2 (dField o.desc 2 2) ++ leBytes 1 (dField o.desc 4 1) ++ leBytes 1 o.info ++
  leBytes 4 o.seq ++ leBytes 4 o.start ++ leBytes 4 clocks ++ leBytes 8 detail

/-- A record written, and WPTR advanced. -/
def State.writeRecord (s : State) (t q : Nat) (bs : List Byte) : State :=
  let w := s.get .opqRecPtrWptr t q
  (s.writeBytes (s.recAddr t q) bs).set .opqRecPtrWptr t q ((w + 1) % 2 ^ 32)

/-! ### Halts (R232) -/

/-- A queue halts; the first failure of a halt is kept (R232). -/
def State.haltQueue (s : State) (t q code seq : Nat) (h : Halt) : State :=
  match (s.tile t).halt q with
  | some _ => s
  | none =>
    (((s.setTile t ((s.tile t).setHalt q (some h))).set .opqStateHaltCode t q code).set .opqStateHaltSeq t q seq).bump
      .opqHalts t

/-- The halt signal, sent after the record (R232). -/
def State.haltSignal (s : State) (t q : Nat) : State :=
  if s.get .opqCfgHaltSignal t q = 1 then s.signalService (s.get .opqCfgHaltSync t q) else s

/-- Whether a pre-emption holds a tile's queues (R234). -/
def State.preempted (s : State) (t : Nat) : Bool := (s.tile t).preempt != .none

/-- Whether a queue is halted, by a failure or by pre-emption. -/
def State.halted (s : State) (t q : Nat) : Bool := ((s.tile t).halt q).isSome || s.preempted t

/-- The TILE_NUM_FLAGS that an operation or an instruction raises. -/
def State.raiseFlags (s : State) (t fl : Nat) : State :=
  let a := Fld.tileNumFlagsFlushed.addr t 0
  s.setWord a (s.word a ||| BitVec.ofNat 64 (fl % 8192))

/-- An operation that fails after leaving, or is refused: its record with its code, the halt and the halt signal; no
signals (R232). `keep`: a refused operation keeps its slot. -/
def State.failOp (s : State) (ue : List Nat) (t slot code detail : Nat) (keep : Bool) : State :=
  match s.op t slot with
  | none => s
  | some o =>
    let q := o.queue
    let s1 := match s.recErr ue t q with
      | none => s.tick.writeRecord t q (recordBytes code q slot (if keep then 0 else Config.freeNat s.free % 2 ^ 32) detail o)
      | some e => s.noteErr e
    let s2 := s1.haltQueue t q code o.seq (if keep then .refusal slot else .failure o.desc)
    (s2.setOp t slot (if keep then some { o with phase := .refused code detail } else none)).haltSignal t q

/-- The counter that DETAIL names when a descriptor's signals saturate: SIG0's where that one set OVF or UNF (Table 8.9). -/
def State.saturatedId (s : State) (d : BitVec 512) : Nat :=
  let i := dField d 16 2
  if i ≠ 0xFFFF ∧ ((s.signalTo i (signed 8 (dField d 20 1))).2 = true ∨ i = dField d 18 2) then i else dField d 18 2

/-- An operation of whose signals one set OVF or UNF: its record carries SYNC_SATURATED, with the counter in DETAIL when that is
its CODE (R231, R235). -/
def Op.saturated (o : Op) (id : Nat) : Op :=
  { o with info := o.info ||| 16, detail := if infoCode (o.info ||| 16) = Code.syncSaturated then id else o.detail }

/-- An operation that completes (R231, R465): its record attempted, its signals sent, its record written, its slot freed. -/
def State.completeOp (s : State) (ue : List Nat) (t slot : Nat) : State :=
  match s.op t slot with
  | none => s
  | some o =>
    let q := o.queue
    let due := dBits o.desc 1 2 2 == 1
    match if due then s.recErr ue t q else none with
    | some e => (((s.noteErr e).haltQueue t q Code.opqRecordLost o.seq (.failure o.desc)).setOp t slot none).haltSignal t q
    | none =>
      let r := s.sendSignals o.desc
      let o := if r.2 then o.saturated (s.saturatedId o.desc) else o
      let s1 := if due then
          r.1.tick.writeRecord t q (recordBytes (infoCode o.info) q slot (Config.freeNat r.1.free % 2 ^ 32) o.detail o)
        else r.1
      s1.setOp t slot none

/-! ### Leaving a queue (R230) -/

/-- The units that take operations (Table 8.2). -/
inductive OpUnit where
  | fold | cask | launcher | dma | reduction | sync
deriving DecidableEq, Repr

/-- The unit of a kind of descriptor (Table 8.2). -/
def unitOfKind (k : Nat) : Option OpUnit :=
  match k with
  | 0 => some .fold
  | 1 => some .cask
  | 2 => some .launcher
  | 3 => some .launcher
  | 4 => some .dma
  | 5 => some .reduction
  | 6 => some .sync
  | 7 => some .sync
  | _ => none

/-- The place of a unit in a tile's round-robin positions. -/
def OpUnit.num : OpUnit → Nat
  | .fold => 0
  | .cask => 1
  | .launcher => 2
  | .dma => 3
  | .reduction => 4
  | .sync => 5

/-- Whether an operation has left its queue. -/
def Op.hasLeft (o : Op) : Bool :=
  match o.phase with
  | .ready => false
  | .refused _ _ => false
  | _ => true

/-- The oldest fetched descriptor of a queue that has not left, with its slot (R230). -/
def Tile.head (x : Tile) (q : Nat) : Option (Nat × Op) :=
  (x.ops.filter fun p => p.2.queue == q && !p.2.hasLeft).foldl
    (fun a p => match a with
      | none => some p
      | some b => if p.2.order < b.2.order then some p else some b) none

/-- The slots that a queue holds. -/
def Tile.held (x : Tile) (q : Nat) : Nat := (x.ops.filter fun p => p.2.queue == q).length

/-- Whether the record ring has room for one record for the head and for every operation of the queue in flight, each of which holds a
slot from its fetch to its completion (R225, R230). A ring that REC_LOG2 sizes holds 2 ^ REC_LOG2 records, less those that the consumer
has not passed. -/
def State.recRoom (s : State) (t q : Nat) : Bool :=
  let used := (s.get .opqRecPtrWptr t q + 2 ^ 32 - s.get .opqRecPtrRptr t q) % 2 ^ 32
  decide (used + (s.tile t).held q ≤ 2 ^ s.get .opqRecRecLog2 t q)

/-- Whether every operation of a masked queue fetched before a fence has completed or been discarded (R247). -/
def Tile.fenceClear (x : Tile) (mask order : Nat) : Bool :=
  !x.ops.any fun p => mask / 2 ^ p.2.queue % 2 == 1 && decide (p.2.order < order)

/-- What a kind's own unit asks beside R230: a FENCE waits for earlier operations (R247). -/
def Tile.unitFree (x : Tile) (o : Op) : Bool :=
  if dField o.desc 0 1 = 7 then x.fenceClear (dField o.desc 24 2) o.order else true

/-- Whether the head of a queue may leave now (R230, R234). -/
def State.mayLeave (s : State) (t q : Nat) : Option (Nat × Op) :=
  match (s.tile t).head q with
  | none => none
  | some (slot, o) =>
    if s.halted t q || o.phase != .ready || (s.waits o.desc).1 != .met || !s.recRoom t q || (s.tile t).dutyStopped
      || (s.tile t).bistQuiesce || !(s.tile t).unitFree o then none
    else some (slot, o)

/-- The queues whose heads are ready for a unit, each with the class of its head. -/
def State.readyFor (s : State) (t : Nat) (u : OpUnit) : List (Nat × Nat) :=
  (List.range 16).filterMap fun q =>
    match s.mayLeave t q with
    | some (_, o) => if unitOfKind (dField o.desc 0 1) = some u then some (q, dBits o.desc 1 1 0) else none
    | none => none

/-- The queue that a unit takes next: the lowest class, then round-robin after the queue taken last (R230). -/
def State.winner (s : State) (t : Nat) (u : OpUnit) : Option Nat :=
  let rs := s.readyFor t u
  let low := rs.foldl (fun m p => min m p.2) 4
  let qs := (rs.filter fun p => p.2 == low).map Prod.fst
  let last := smGet (fun _ => 15) (s.tile t).unitRr u.num
  match qs.find? (fun q => decide (last < q)) with
  | some q => some q
  | none => qs.head?

/-- The counters that a descriptor's waits consume from (R237, R239). -/
def consumed (d : BitVec 512) : List Nat :=
  (if dBits d 6 0 0 = 1 ∧ dField d 8 2 ≠ 0xFFFF ∧ dField d 10 2 ≠ 0 then [dField d 8 2] else []) ++
  (if dBits d 6 1 1 = 1 ∧ dField d 12 2 ≠ 0xFFFF ∧ dField d 14 2 ≠ 0 then [dField d 12 2] else [])

/-- How far a queue stands behind the queue that a counter granted last, in ascending order of queue (R238). -/
def Tile.turn (x : Tile) (c q : Nat) : Nat := (q + 15 - smGet (fun _ => 15) x.granted c) % 16

/-- The queues whose heads may leave now, one for each unit, with what they consume (R230, R238). -/
def State.leavers (s : State) (t : Nat) : List (Nat × List Nat) :=
  [OpUnit.fold, .cask, .launcher, .dma, .reduction, .sync].filterMap fun u =>
    (s.winner t u).bind fun q => (s.mayLeave t q).map fun o => (q, consumed o.2.desc)

/-- Whether every counter that a queue's head consumes from grants it first: no other head that leaves now and consumes from the counter
comes before it in the counter's round (R238). -/
def State.grantedFirst (s : State) (t q : Nat) (cs : List Nat) : Bool :=
  cs.all fun c => !(s.leavers t).any fun e => e.2.contains c && decide ((s.tile t).turn c e.1 < (s.tile t).turn c q)

/-- Whether the consumes of a queue's head come next. Where two heads each stand first at one of two counters, the lower queue's come
first (log 99). -/
def State.consumeTurn (s : State) (t q : Nat) (d : BitVec 512) : Bool :=
  let cs := consumed d
  let rest := (s.leavers t).filter fun e => !e.2.isEmpty
  cs.isEmpty || s.grantedFirst t q cs || (!(rest.any fun e => s.grantedFirst t e.1 e.2) && rest.all fun e => decide (q ≤ e.1))

/-- The head of a queue leaves: the waits are consumed, ISSUED counts it, and the operation runs; seed and epoch are
captured (R69, R230, R237). -/
def State.leave (s : State) (t q slot : Nat) (o : Op) (u : OpUnit) : State × Op :=
  let o' := { o with phase := .running, start := Config.freeNat s.free % 2 ^ 32, seed := s.word (Fld.tileNumSeed.addr t 0),
                     epoch := s.get .tileNumEpochEpoch t }
  let s1 := s.tick.consumeWaits o.desc
  let s2 := (s1.set .opqPosIssued t q ((s1.get .opqPosIssued t q + 1) % 2 ^ 32)).bump .opqIssuedOps t
  let x := s2.tile t
  let s3 := s2.setTile t { x.setOp slot (some o') with
    unitRr := smPut (fun _ => 15) u.num q x.unitRr,
    granted := (consumed o.desc).foldl (fun m c => smPut (fun _ => 15) c q m) x.granted }
  (s3, o')

/-- The leaving operation of a queue for a unit, when that queue's turn has come; `kinds` are the kinds asked for. -/
def State.taking (s : State) (t q : Nat) (u : OpUnit) (kinds : List Nat) : Option (Nat × Op) :=
  if s.winner t u = some q then
    match s.mayLeave t q with
    | some (slot, o) => if kinds.contains (dField o.desc 0 1) && s.consumeTurn t q o.desc then some (slot, o) else none
    | none => none
  else none

/-- An operation in flight marked done, failed or otherwise changed. -/
def State.modOp (s : State) (t slot : Nat) (f : Op → Op) : State :=
  match s.op t slot with
  | some o => s.setOp t slot (some (f o))
  | none => s

/-- An operation marked as failed: OP_COMPLETE reports it. The first failure is kept. -/
def Op.fail (o : Op) (code detail : Nat) : Op :=
  match o.phase with
  | .failed _ _ => o
  | _ => { o with phase := .failed code detail }

/-- A fault record in TILE_FAULT (Table 6.12): the code, the operation that failed, and the array with its quadrants and
lanes; TILE_FAULT_PC is 0 but for a scalar fault. -/
def State.tileFault (s : State) (t code slot : Nat) (d : BitVec 512) (array : Nat := 0xFF) (quads : Nat := 0) (lanes : Nat := 0) (pc : W64 := 0) :
    State :=
  (s.setWord (Fld.tileFaultCode.addr t 0) (BitVec.ofNat 64 (code * 2 ^ 48 + dField d 2 2 * 2 ^ 32 + dField d 4 1 * 2 ^ 24
    + array * 2 ^ 16 + quads * 2 ^ 12 + lanes * 2 ^ 8 + slot))).setWord (Fld.tileFaultPc.addr t 0) pc

/-- The descriptor of the operation in a slot; 0 when there is none. -/
def State.descAt (s : State) (t slot : Nat) : BitVec 512 := ((s.op t slot).map Op.desc).getD 0

end Sys2Proof.Machine
end

