-- ==== Sys2Proof/Machine/BlendImage.lean ====
section
/-!
DEFINITION. The blend image (R47 to R49) and its checks (R50, Table 2.9). A row of Table 2.9 answers every failure it finds, as
byte offset and code; the failure at the lowest offset is the one reported, and the first row with a failure ends the check.
-/

namespace Sys2Proof.Machine

/-- A section of an image: type, FLAGS, the offset of its header and the length of its body (R48). -/
structure Sec where
  ty : Nat
  flags : Nat
  pos : Nat
  len : Nat
deriving DecidableEq, Repr

/-- Where the section's body ends, and where the next section starts. -/
def Sec.stop (x : Sec) : Nat := x.pos + 8 + x.len
def Sec.next (x : Sec) : Nat := alignUp x.stop 8

/-- An image with its sections, and where its trailer starts. -/
structure Img where
  bytes : List Byte
  secs : List Sec
  trailer : Nat
deriving DecidableEq, Repr

/-- A failure: the section index (0xFFFF for the header and the trailer), the byte offset, the code (Table 2.10). -/
structure ImgFail where
  sec : Nat
  off : Nat
  code : Nat
deriving DecidableEq, Repr

/-- Failures of one row: byte offset and code. -/
abbrev Bads := List (Nat × Nat)

/-- `n` little-endian bytes of an image. -/
def imgNat (bs : List Byte) (off n : Nat) : Nat := leNat ((bs.drop off).take n)

/-- The `n` sections from `pos` and where the last one ends; none: one passes the end of the image (R48). -/
def parseSecs (bs : List Byte) (size : Nat) : Nat → Nat → Option (List Sec × Nat)
  | 0, pos => some ([], pos)
  | n + 1, pos =>
    let x : Sec := ⟨imgNat bs pos 2, imgNat bs (pos + 2) 2, pos, imgNat bs (pos + 4) 4⟩
    if pos + 8 > size ∨ x.next > size then none
    else (parseSecs bs size n x.next).map fun r => (x :: r.1, r.2)

/-- The section index of an offset. -/
def Img.secAt (im : Img) (off : Nat) : Nat :=
  match im.secs.zipIdx.find? (fun p => decide (p.1.pos ≤ off ∧ off < p.1.next)) with
  | some p => p.2
  | none => 0xFFFF

/-- Where the body of a type starts, and its length. -/
def Img.body (im : Img) (ty : Nat) : Nat := ((im.secs.find? fun x => x.ty == ty).map fun x => x.pos + 8).getD 0
def Img.bodyLen (im : Img) (ty : Nat) : Nat := ((im.secs.find? fun x => x.ty == ty).map Sec.len).getD 0

/-- A field of a section's body. -/
def Img.u (im : Img) (ty off n : Nat) : Nat := imgNat im.bytes (im.body ty + off) n

/-- A condition that must hold, placed at an offset. -/
def need (ok : Bool) (off code : Nat) : Bads := if ok then [] else [(off, code)]

/-- Bytes that must be 0. -/
def Img.zeros (im : Img) (lo n code : Nat) : Bads :=
  (List.range n).filterMap fun i => if imgNat im.bytes (lo + i) 1 = 0 then none else some (lo + i, code)

/-- A number of a body that must lie in a range. -/
def Img.inRange (im : Img) (ty off n lo hi code : Nat) : Bads :=
  need (decide (lo ≤ im.u ty off n ∧ im.u ty off n ≤ hi)) (im.body ty + off) code

/-! ### Types and sizes (Table 2.6) -/

abbrev tyIdent : Nat := 0x0001
abbrev tyRoles : Nat := 0x0010
abbrev tyBindings : Nat := 0x0020
abbrev tyInterleave : Nat := 0x0030
abbrev tyTopology : Nat := 0x0040
abbrev tyClasses : Nat := 0x0050
abbrev tyPower : Nat := 0x0060
abbrev tyGroups : Nat := 0x0070
abbrev tyBist : Nat := 0x0080

/-- The types of Table 2.6. -/
def knownTypes : List Nat :=
  [tyIdent, tyRoles, tyBindings, tyInterleave, tyTopology, tyClasses, tyPower, tyGroups, tyBist]

/-- The bytes of a ring record (Table 2.7). -/
def ringLen (members : Nat) : Nat := 8 * ceilDiv (4 + 2 * members) 8

/-- The ring records from `pos`: the offset, RING_ID and MEMBERS of each, and where the last ends; a record that starts past `stop`
ends the walk. -/
def walkRings (bs : List Byte) (stop : Nat) : Nat → Nat → List (Nat × Nat × Nat) × Nat
  | 0, pos => ([], pos)
  | n + 1, pos =>
    if pos + 4 > stop then ([], stop + 1)
    else
      let m := imgNat bs (pos + 2) 2
      let r := walkRings bs stop n (pos + ringLen m)
      ((pos, imgNat bs pos 1, m) :: r.1, r.2)

/-- The ring records of an image. -/
def Img.ringRecs (im : Img) : List (Nat × Nat × Nat) × Nat :=
  let p := im.body tyTopology
  let stop := p + im.bodyLen tyTopology
  let start := p + 392 + 4 * im.u tyTopology 384 4
  if start > stop then ([], stop + 1)
  else walkRings im.bytes stop (min (im.u tyTopology 388 4) (im.bodyLen tyTopology)) start

/-- Whether BODY_LENGTH agrees with the section's counts (Table 2.6). -/
def Img.sizeOk (im : Img) (x : Sec) : Bool :=
  let n := fun off => imgNat im.bytes (x.pos + 8 + off) 4
  if x.ty = tyIdent then x.len == 48
  else if x.ty = tyRoles then x.len == 512
  else if x.ty = tyBindings then decide (8 ≤ x.len) && x.len == 8 + 8 * n 0
  else if x.ty = tyInterleave then decide (8 ≤ x.len) && x.len == 8 + 24 * n 0
  else if x.ty = tyTopology then
    decide (392 ≤ x.len) && decide (n 388 ≤ x.len) && im.ringRecs.2 == x.stop
  else if x.ty = tyClasses then x.len == 16
  else if x.ty = tyPower then x.len == 32
  else if x.ty = tyGroups then decide (8 ≤ x.len) && x.len == 8 + 32 * n 0
  else if x.ty = tyBist then decide (16 ≤ x.len) && x.len == 16 + 4 * n 8
  else true

/-! ### The blend that an image spells (Table 2.7) -/

def Img.roles (im : Img) : List TileRole := (List.range 64).map fun t =>
  { role := im.u tyRoles (8 * t) 1, queueMask := im.u tyRoles (8 * t + 1) 2, syncLimit := im.u tyRoles (8 * t + 3) 1,
    sampleKib := im.u tyRoles (8 * t + 4) 1 }

def Img.bindings (im : Img) : List Binding := (List.range (im.u tyBindings 0 4)).map fun i =>
  let e := 8 + 8 * i
  { die := im.u tyBindings e 1, layerMask := im.u tyBindings (e + 1) 1, first := im.u tyBindings (e + 2) 2,
    macros := im.u tyBindings (e + 4) 2, tile := im.u tyBindings (e + 6) 1, policy := im.u tyBindings (e + 7) 1 }

def Img.regions (im : Img) : List Region := (List.range (im.u tyInterleave 0 4)).map fun i =>
  let e := 8 + 24 * i
  { base := im.u tyInterleave e 8, size := im.u tyInterleave (e + 8) 8, stackMask := im.u tyInterleave (e + 16) 4,
    granuleLog2 := im.u tyInterleave (e + 20) 1 }

def Img.peers (im : Img) : List Peer := (List.range 96).map fun l =>
  { id := im.u tyTopology (4 * l) 2, link := im.u tyTopology (4 * l + 2) 1 }

def Img.routes (im : Img) : List Route := (List.range (im.u tyTopology 384 4)).map fun i =>
  let e := 392 + 4 * i
  { dest := im.u tyTopology e 2, link := im.u tyTopology (e + 2) 1, alt := im.u tyTopology (e + 3) 1 }

/-- The members of a ring record at an offset. -/
def Img.members (im : Img) (pos m : Nat) : List Nat := (List.range m).map fun j => imgNat im.bytes (pos + 4 + 2 * j) 2

def Img.rings (im : Img) : List Ring := im.ringRecs.1.map fun r => { id := r.2.1, members := im.members r.1 r.2.2 }

def Img.groups (im : Img) : List Group := (List.range (im.u tyGroups 0 4)).map fun i =>
  let e := 8 + 32 * i
  { id := im.u tyGroups e 1, mode := im.u tyGroups (e + 1) 1, members := im.u tyGroups (e + 2) 2,
    ring := im.u tyGroups (e + 4) 1, outstanding := im.u tyGroups (e + 5) 1, bucketMib := im.u tyGroups (e + 6) 2 }

def Img.bistEntries (im : Img) : List BistEntry := (List.range (im.u tyBist 8 4)).map fun i =>
  { block := im.u tyBist (16 + 4 * i) 2, slices := im.u tyBist (18 + 4 * i) 2 }

/-- The blend of an image; the digest is of the signed bytes, bytes 0 to the end of the last section (Table 2.8). -/
def Img.blend (im : Img) : Blend :=
  { serial := imgNat im.bytes 24 8, digest := sha256 (im.bytes.take im.trailer),
    deviceId := im.u tyIdent 32 2, systemSize := im.u tyIdent 34 2,
    roles := im.roles, bindings := im.bindings, regions := im.regions, peers := im.peers, routes := im.routes,
    rings := im.rings, weights := (List.range 3).map fun i => im.u tyClasses i 1,
    class0Rate := im.u tyClasses 4 2, class0Depth := im.u tyClasses 8 4,
    profile := im.u tyPower 0 1, capW := im.u tyPower 2 2, rampMs := im.u tyPower 4 2, floorW := im.u tyPower 6 2,
    domainOn := im.u tyPower 8 16, groups := im.groups,
    sliceUs := im.u tyBist 0 2, periodMs := im.u tyBist 4 4, bist := im.bistEntries }

/-! ### The rows before the section bodies (Table 2.9) -/

/-- BLEND_MAGIC. -/
def rowMagic (bs : List Byte) : Bads :=
  need (bs.take 4 == [0x4C, 0x56, 0x42, 0x4C]) 0 Code.blendMagic ++ need (imgNat bs 4 2 == 1) 4 Code.blendMagic ++
  need (imgNat bs 6 2 == 64) 6 Code.blendMagic ++ need (imgNat bs 24 8 != 0) 24 Code.blendMagic

/-- BLEND_LENGTH: TOTAL_LENGTH against BLEND_LEN and BLEND_MAX, and the sections and the trailer that must fill it. Each of these
rules relates TOTAL_LENGTH to what lies above it, so a failure is placed at TOTAL_LENGTH (R50). -/
def rowLength (s : State) (bs : List Byte) : Except ImgFail Img :=
  let size := bs.length
  let bad : ImgFail := ⟨0xFFFF, 8, Code.blendLength⟩
  if imgNat bs 8 4 ≠ size ∨ size > s.get .capLimitsBlendMax then .error bad
  else match parseSecs bs size (imgNat bs 12 2) 64 with
    | none => .error bad
    | some r => if r.2 + 7864 ≠ size then .error bad else .ok ⟨bs, r.1, r.2⟩

/-- BLEND_TARGET. -/
def rowTarget (s : State) (im : Img) : Bads :=
  let g := s.get .capIdGrade
  need (imgNat im.bytes 16 2 == s.get .capIdFamily) 16 Code.blendTarget ++
  need (imgNat im.bytes 18 2 == s.get .capIdMember) 18 Code.blendTarget ++
  need (decide (1 ≤ g ∧ g ≤ 8) && imgNat im.bytes 20 1 / 2 ^ (g - 1) % 2 == 1) 20 Code.blendTarget

/-- A verification key slot's key (R428). -/
def State.vkey (s : State) (slot : Nat) : Option (List Byte) :=
  if slot < 4 then smGet factoryVkeys s.journal.vkeys slot else none

/-- BLEND_SIGNATURE (Table 2.8, R428). -/
def rowSignature (s : State) (im : Img) : Bads :=
  let t := im.trailer
  let c := Code.blendSignature
  match s.vkey (imgNat im.bytes (t + 2) 2) with
  | none => need (imgNat im.bytes t 2 == 1) t c ++ [(t + 2, c)]
  | some k =>
    need (imgNat im.bytes t 2 == 1) t c ++ need (imgNat im.bytes (t + 4) 4 == 7856) (t + 4) c ++
    need (Config.sigOk k (im.bytes.take t) (im.bytes.drop (t + 8))) (t + 8) c

/-- BLEND_DIGEST. -/
def rowDigest (im : Img) : Bads :=
  need (sha256 ((im.bytes.drop 64).take (im.trailer - 64)) == (im.bytes.drop 32).take 32) 32 Code.blendDigest

/-- BLEND_SECTION_ORDER: reserved header bytes, ascending types, FLAGS bits and padding between sections. Two types that do not
ascend are placed at the TYPE of the first, the lower offset (R50). -/
def rowOrder (im : Img) : Bads :=
  let c := Code.blendSectionOrder
  im.zeros 14 2 c ++ im.zeros 21 3 c ++
  ((im.secs.zip im.secs.tail).flatMap fun p => need (decide (p.1.ty < p.2.ty)) p.1.pos c) ++
  im.secs.flatMap fun x => need (decide (x.flags < 2)) (x.pos + 2) c ++ im.zeros x.stop (x.next - x.stop) c

/-- BLEND_SECTION_MISSING: the lowest type that is absent, with the place where it would stand. -/
def rowMissing (im : Img) : Option ImgFail :=
  (knownTypes.find? fun ty => !im.secs.any fun x => x.ty == ty).map fun ty =>
    let k := (im.secs.filter fun x => decide (x.ty < ty)).length
    ⟨k, ((im.secs[k]?).map Sec.pos).getD im.trailer, Code.blendSectionMissing⟩

/-- BLEND_SECTION_UNKNOWN. -/
def rowUnknown (im : Img) : Bads :=
  im.secs.flatMap fun x => need (knownTypes.contains x.ty || x.flags % 2 == 0) x.pos Code.blendSectionUnknown

/-- BLEND_SECTION_SIZE. -/
def rowSize (im : Img) : Bads := im.secs.flatMap fun x => need (im.sizeOk x) (x.pos + 4) Code.blendSectionSize

/-! ### The rows of the section bodies (Table 2.7, Table 2.9) -/

/-- BLEND_IDENT. -/
def rowIdent (s : State) (im : Img) : Bads :=
  let n := 2 ^ s.get .capLinksIdBits
  let c := Code.blendIdent
  im.inRange tyIdent 32 2 0 (n - 1) c ++ im.inRange tyIdent 34 2 1 n c ++ im.zeros (im.body tyIdent + 36) 12 c

/-- BLEND_TILE_ROLE of one tile, its domain in DOMAIN_ON included. -/
def rowRole (s : State) (im : Img) (t : Nat) : Bads :=
  let c := Code.blendTileRole
  let e := im.body tyRoles + 8 * t
  let role := im.u tyRoles (8 * t) 1
  let qm := im.u tyRoles (8 * t + 1) 2
  im.inRange tyRoles (8 * t) 1 0 2 c ++ need (decide (qm < 2 ^ s.get .capQueuesQueues)) (e + 1) c ++
  need ((qm != 0) == (role == 1)) e c ++ im.inRange tyRoles (8 * t + 3) 1 1 (s.get .capQueuesTileSync) c ++
  im.inRange tyRoles (8 * t + 4) 1 0 64 c ++ im.zeros (e + 5) 3 c ++
  need ((im.u tyPower 8 16 / 2 ^ t % 2 == 1) == (role != 0)) e c

/-- Where the entries of MACRO_BINDINGS stand, with what they say. -/
def Img.bound (im : Img) : List (Nat × Binding) :=
  im.bindings.zipIdx.map fun p => (im.body tyBindings + 8 + 8 * p.2, p.1)

/-- BLEND_MACRO_RANGE. The rule of FIRST and MACROS names GOOD of die DIE, so it is placed at DIE, its lowest field (R50). -/
def rowMacroRange (s : State) (im : Img) : Bads :=
  let c := Code.blendMacroRange
  im.zeros (im.body tyBindings + 4) 4 c ++ im.bound.flatMap fun p =>
    need (decide (p.2.die < s.get .capCaskDies)) p.1 c ++
    need (decide (p.2.layerMask ≠ 0 ∧ p.2.layerMask < 2 ^ s.get .capCaskLayers)) (p.1 + 1) c ++
    need (decide (p.2.first + p.2.macros ≤ s.good p.2.die)) p.1 c ++
    need (decide (1 ≤ p.2.macros)) (p.1 + 4) c ++ need (decide (p.2.policy < 2)) (p.1 + 7) c

/-- BLEND_MACRO_REMOTE (R20): the tile's press die, placed at DIE; the tile's role, placed at its ROLE. -/
def rowMacroRemote (im : Img) : Bads :=
  let c := Code.blendMacroRemote
  im.bound.flatMap fun p =>
    need (p.2.tile / 16 == p.2.die / 8) p.1 c ++
    need (decide (p.2.tile ≥ 64) || im.u tyRoles (8 * p.2.tile) 1 == 1) (im.body tyRoles + 8 * p.2.tile) c

/-- Whether two bindings share a macro layer. -/
def Binding.meets (a b : Binding) : Bool :=
  a.die == b.die && a.layerMask &&& b.layerMask != 0 &&
  decide (a.first < b.first + b.macros ∧ b.first < a.first + a.macros)

/-- BLEND_MACRO_TWICE, placed at the earlier entry. -/
def twice : List (Nat × Binding) → Bads
  | [] => []
  | p :: ps => need (!ps.any fun q => p.2.meets q.2) p.1 Code.blendMacroTwice ++ twice ps

/-- Whether two regions overlap. -/
def Region.meets (a b : Region) : Bool := decide (a.base < b.base + b.size ∧ b.base < a.base + a.size)

/-- Overlapping regions, placed at the earlier one's BASE. -/
def regionTwice : List (Nat × Region) → Bads
  | [] => []
  | p :: ps => need (!ps.any fun q => p.2.meets q.2) p.1 Code.blendInterleave ++ regionTwice ps

/-- BLEND_INTERLEAVE (R50, R255): masks, granules, alignment, regionTwice and installed memory. A stack's total that exceeds its
capacity is placed at the first SIZE that counts in it. -/
def rowInterleave (s : State) (im : Img) : Bads :=
  let c := Code.blendInterleave
  let p := im.body tyInterleave
  let rs := im.regions.zipIdx.map fun r => (p + 8 + 24 * r.2, r.1)
  let n := s.get .capMemoryStacks
  let one := fun (e : Nat × Region) =>
    let stripe := max 1 (2 ^ e.2.granuleLog2 * (stacksOf e.2.stackMask).length)
    need (decide (e.2.base + e.2.size ≤ 0x20000000000) && (e.2.base % stripe == 0)) e.1 c ++
    need (e.2.size != 0 && (e.2.size % stripe == 0)) (e.1 + 8) c ++
    need (decide (e.2.stackMask ≠ 0 ∧ e.2.stackMask < 2 ^ n)) (e.1 + 16) c ++
    need (decide (8 ≤ e.2.granuleLog2 ∧ e.2.granuleLog2 ≤ 21)) (e.1 + 20) c ++ im.zeros (e.1 + 21) 3 c
  let full := (List.range n).flatMap fun x =>
    let mine := rs.filter fun e => e.2.stackMask / 2 ^ x % 2 == 1
    match mine.head? with
    | none => []
    | some e => need (decide ((mine.map fun e => e.2.share).sum ≤ s.get .capMemoryStackGib * 2 ^ 30)) (e.1 + 8) c
  im.inRange tyInterleave 0 4 1 64 c ++ im.zeros (p + 4) 4 c ++ rs.flatMap one ++ regionTwice rs ++ full

/-- Route entries with their offsets, a DEST repeated placed at its first entry. -/
def destTwice : List (Nat × Route) → Bads
  | [] => []
  | p :: ps => need (!ps.any fun q => p.2.dest == q.2.dest) p.1 Code.blendRoute ++ destTwice ps

/-- BLEND_ROUTE. A rule between a peer and DEVICE_ID is placed at DEVICE_ID, one between a route and its link at the link's entry:
the lowest offsets (R50). -/
def rowRoute (s : State) (im : Img) : Bads :=
  let c := Code.blendRoute
  let p := im.body tyTopology
  let ident := im.body tyIdent + 32
  let ids := 2 ^ s.get .capLinksIdBits
  let peers := im.peers
  let dev := im.u tyIdent 32 2
  let rs := im.routes.zipIdx.map fun r => (p + 392 + 4 * r.2, r.1)
  let via := fun (at_ l : Nat) =>
    if l > 95 then [(at_, c)] else need ((peers.getD l {}).id != 0xFFFF) (p + 4 * l) c
  (peers.zipIdx.flatMap fun x =>
    im.zeros (p + 4 * x.2 + 3) 1 c ++
    (if x.1.id = 0xFFFF then [] else
      need (decide (x.1.id < ids)) (p + 4 * x.2) c ++ need (x.1.id != dev) ident c ++
      need (decide (x.1.link ≤ 95)) (p + 4 * x.2 + 2) c)) ++
  destTwice rs ++ rs.flatMap fun r =>
    via (r.1 + 2) r.2.link ++ (if r.2.alt = 0xFF then [] else via (r.1 + 3) r.2.alt)

/-- Ring records with a RING_ID repeated, placed at the first. -/
def ringTwice : List (Nat × Nat × Nat) → Bads
  | [] => []
  | p :: ps => need (!ps.any fun q => p.2.1 == q.2.1) p.1 Code.blendRing ++ ringTwice ps

/-- Members repeated in a record, placed at the first; `at_` is the first member's offset. -/
def memberTwice (at_ : Nat) : List Nat → Bads
  | [] => []
  | m :: ms => need (!ms.contains m) at_ Code.blendRing ++ memberTwice (at_ + 2) ms

/-- BLEND_RING; a ring without DEVICE_ID is placed at DEVICE_ID, the lower offset (R50). -/
def rowRing (im : Img) : Bads :=
  let recs := im.ringRecs.1
  let c := Code.blendRing
  ringTwice recs ++ recs.flatMap fun r =>
    let ms := im.members r.1 r.2.2
    im.zeros (r.1 + 1) 1 c ++ memberTwice (r.1 + 4) ms ++
    need (ms.contains (im.u tyIdent 32 2)) (im.body tyIdent + 32) c ++
    im.zeros (r.1 + 4 + 2 * r.2.2) (ringLen r.2.2 - 4 - 2 * r.2.2) c

/-- BLEND_CLASSES. -/
def rowClasses (s : State) (im : Img) : Bads :=
  let c := Code.blendClasses
  let p := im.body tyClasses
  ((List.range 3).flatMap fun i => im.inRange tyClasses i 1 1 255 c) ++ im.zeros (p + 3) 1 c ++
  im.inRange tyClasses 4 2 1 (s.get .capLinksClass0Permille) c ++ im.zeros (p + 6) 2 c ++
  im.inRange tyClasses 8 4 256 65536 c ++ im.zeros (p + 12) 4 c

/-- BLEND_POWER_PLAN, the domains that must be on included: a die that is bound, placed at its binding; an engine with a used
link, placed at the link's entry; the press uncores and domains 108 to 111, placed in DOMAIN_ON. -/
def rowPower (s : State) (im : Img) : Bads :=
  let c := Code.blendPowerPlan
  let p := im.body tyPower
  let on := fun d => im.u tyPower 8 16 / 2 ^ d % 2 == 1
  im.inRange tyPower 0 1 0 3 c ++ im.zeros (p + 1) 1 c ++
  im.inRange tyPower 2 2 (s.get .capPowerCapMin) (s.get .capPowerCapMax) c ++
  need (decide (im.u tyPower 6 2 ≤ im.u tyPower 2 2)) (p + 2) c ++
  im.inRange tyPower 4 2 1 1000 c ++
  ((List.range 8).flatMap fun i => need (on (104 + i)) (p + 8 + 13) c) ++
  im.zeros (p + 22) 2 c ++ im.zeros (p + 24) 8 c ++
  (im.bound.flatMap fun b => need (on (64 + b.2.die)) b.1 c) ++
  (im.peers.zipIdx.flatMap fun x =>
    need (x.1.id == 0xFFFF || on (96 + x.2 / 12)) (im.body tyTopology + 4 * x.2) c)

/-- GROUP_ID repeated, placed at the first. -/
def groupTwice : List (Nat × Group) → Bads
  | [] => []
  | p :: ps => need (!ps.any fun q => p.2.id == q.2.id) p.1 Code.blendGroup ++ groupTwice ps

/-- BLEND_GROUP of one entry (Table 2.7, R303, R50); a zero BUCKET_MIB is COMMIT_ZERO_SIZE. -/
def rowGroup (s : State) (im : Img) (e : Nat) (g : Group) : Bads :=
  let c := Code.blendGroup
  let most := s.get .capReductionChecksumMax
  let tiers := ceilDiv g.members (max 1 most)
  let ring := im.ringRecs.1.find? fun r => r.2.1 == g.ring
  need (decide (g.id < s.get .capReductionGroups)) e c ++ need (decide (g.mode < 16)) (e + 1) c ++
  need (decide (2 ≤ g.members)) (e + 2) c ++
  need (decide (g.members ≤ im.u tyIdent 34 2)) (im.body tyIdent + 34) c ++
  need (g.mode % 2 == 0 || decide (g.members ≤ most)) (e + 1) c ++
  need (g.members % max 1 tiers == 0) (e + 2) c ++
  (match ring with
    | none => [(e + 4, c)]
    | some r => need (r.2.2 == g.members) r.1 c) ++
  need (decide (1 ≤ g.outstanding ∧ g.outstanding ≤ s.get .capReductionOutstanding)) (e + 5) c ++
  (if g.bucketMib = 0 then [(e + 6, Code.commitZeroSize)] else
    need (decide (s.get .capReductionBucketMin ≤ g.bucketMib ∧ g.bucketMib ≤ s.get .capReductionBucketMax)) (e + 6) c) ++
  im.zeros (e + 8) 24 c

/-- BLEND_GROUP. -/
def rowGroups (s : State) (im : Img) : Bads :=
  let p := im.body tyGroups
  let gs := im.groups.zipIdx.map fun g => (p + 8 + 32 * g.2, g.1)
  im.inRange tyGroups 0 4 0 (s.get .capReductionGroups) Code.blendGroup ++ im.zeros (p + 4) 4 Code.blendGroup ++
  groupTwice gs ++ gs.flatMap fun g => rowGroup s im g.1 g.2

/-- The instances of a kind of unit that self-test covers (Table 14.1). -/
def bistInstances (kind : Nat) : Nat := [0, 64, 32, 4, 96, 8, 1, 16, 1].getD kind 0

/-- Whether a BIST entry names units that self-test covers: PART 0, and an instance or 0xFF for all (R398, Table 14.1). -/
def bistBlockOk (u : Nat) : Bool :=
  u % 16 == 0 && bistInstances (unitKind u) != 0 && (unitInst u == 0xFF || decide (unitInst u < bistInstances (unitKind u)))

/-- BLEND_BIST. -/
def rowBist (im : Img) : Bads :=
  let c := Code.blendBist
  let p := im.body tyBist
  im.inRange tyBist 0 2 500 2000 c ++ im.zeros (p + 2) 2 c ++ im.inRange tyBist 4 4 10 3600000 c ++
  need (im.u tyBist 8 4 != 0) (p + 8) c ++ im.zeros (p + 12) 4 c ++
  im.bistEntries.zipIdx.flatMap fun e =>
    need (bistBlockOk e.1.block) (p + 16 + 4 * e.2) c ++ need (e.1.slices != 0) (p + 18 + 4 * e.2) c

/-! ### The whole check (R50) -/

/-- The failure of a row that is reported: that at the lowest offset. -/
def lowest (bs : Bads) : Option (Nat × Nat) :=
  bs.foldl (fun a b => match a with
    | none => some b
    | some x => if b.1 < x.1 then some b else some x) none

/-- A row's report. -/
def Img.report (im : Img) (bs : Bads) : Option ImgFail := (lowest bs).map fun b => ⟨im.secAt b.1, b.1, b.2⟩

/-- The rows before and after BLEND_SECTION_MISSING, in the order of Table 2.9. -/
def rowsFirst : List (State → Img → Bads) :=
  [rowTarget, rowSignature, fun _ im => rowDigest im, fun _ im => rowOrder im]
def rowsRest : List (State → Img → Bads) :=
  [fun _ im => rowUnknown im, fun _ im => rowSize im, rowIdent, fun s im => (List.range 64).flatMap (rowRole s im),
   rowMacroRange, fun _ im => rowMacroRemote im, fun _ im => twice im.bound, rowInterleave, rowRoute, fun _ im => rowRing im,
   rowClasses, rowPower, rowGroups, fun _ im => rowBist im]

/-- The first failure of an image with its sections known. -/
def rowsOf (s : State) (im : Img) : Option ImgFail :=
  match rowsFirst.findSome? fun r => im.report (r s im) with
  | some e => some e
  | none =>
    match rowMissing im with
    | some e => some e
    | none => rowsRest.findSome? fun r => im.report (r s im)

/-- The check of a stored image: the blend, or the failure to report (R50). -/
def blendVerdict (s : State) (bs : List Byte) : Except ImgFail Blend :=
  match lowest (rowMagic bs) with
  | some b => .error ⟨0xFFFF, b.1, b.2⟩
  | none =>
    match rowLength s bs with
    | .error e => .error e
    | .ok im =>
      match rowsOf s im with
      | some e => .error e
      | none => .ok im.blend

end Sys2Proof.Machine
end

