-- ==== Sys2Proof/Machine/Flags.lean ====
section
/-!
DEFINITION. Number formats, rounding, block scales, ordered accumulation, and every flag that they raise (chapter 3).
Values are held exactly, as dyadic numbers; a format's encoding is reached by one rounding.
-/

namespace Sys2Proof.Machine

/-! ### Values and formats (R56 to R58) -/

/-- A value of a format: NaN, a signed infinity, or `± m * 2 ^ e` with a signed zero. -/
inductive FVal where
  | nan
  | inf (neg : Bool)
  | fin (neg : Bool) (m : Nat) (e : Int)
deriving DecidableEq, Repr

/-- A binary format (Table 3.1, Table 3.2): width, mantissa width, bias, largest finite magnitude code, whether infinities
exist, and the NaN written. -/
structure FFmt where
  width : Nat
  man : Nat
  bias : Nat
  maxCode : Nat
  hasInf : Bool
  nanCode : Nat
deriving DecidableEq, Repr

def FFmt.f64 : FFmt := ⟨64, 52, 1023, 0x7FEFFFFFFFFFFFFF, true, 0x7FF8000000000000⟩
def FFmt.f32 : FFmt := ⟨32, 23, 127, 0x7F7FFFFF, true, 0x7FC00000⟩
def FFmt.bf16 : FFmt := ⟨16, 7, 127, 0x7F7F, true, 0x7FC0⟩
def FFmt.fp16 : FFmt := ⟨16, 10, 15, 0x7BFF, true, 0x7E00⟩
def FFmt.f8a : FFmt := ⟨8, 3, 7, 0x7E, false, 0x7F⟩
def FFmt.f8b : FFmt := ⟨8, 2, 15, 0x7B, true, 0x7F⟩
def FFmt.f4 : FFmt := ⟨4, 1, 1, 7, false, 7⟩

/-- The format of a 4-bit code; none: reserved (R56). -/
def fmtOfCode : Nat → Option FFmt
  | 0 => some .f32
  | 1 => some .bf16
  | 2 => some .fp16
  | 3 => some .f8a
  | 4 => some .f8b
  | 5 => some .f4
  | _ => none

/-- Formats that exist only in block-scaled tensors (R59). -/
def isBlockFmt (code : Nat) : Bool := code == 3 || code == 4 || code == 5

/-- The width in bits of a format code; a reserved code counts as 0. -/
def fmtWidth (code : Nat) : Nat := (fmtOfCode code).elim 0 FFmt.width

/-- The block size of a 2-bit code (R59). -/
def blockSize (code : Nat) : Nat := 16 * 2 ^ (code % 4)

/-- The value of an encoding (R57, Table 3.2). -/
def FFmt.decode (f : FFmt) (b : Nat) : FVal :=
  let neg := b / 2 ^ (f.width - 1) % 2 == 1
  let mag := b % 2 ^ (f.width - 1)
  if mag ≤ f.maxCode then
    let ex := mag / 2 ^ f.man
    let mn := mag % 2 ^ f.man
    if ex = 0 then .fin neg mn (1 - f.bias - f.man) else .fin neg (mn + 2 ^ f.man) (ex - f.bias - f.man)
  else if f.hasInf ∧ mag = f.maxCode + 1 then .inf neg
  else .nan

/-- Whether an encoding is a subnormal value (R57). -/
def FFmt.isSubnormal (f : FFmt) (b : Nat) : Bool :=
  let mag := b % 2 ^ (f.width - 1)
  decide (0 < mag ∧ mag < 2 ^ f.man)

/-! ### Flags (Table 3.7) -/

/-- Flag masks, at their places in TILE_NUM_FLAGS. -/
abbrev Flag.flushed : Nat := 0x1
abbrev Flag.overflow : Nat := 0x2
abbrev Flag.underflow : Nat := 0x4
abbrev Flag.nonfinite : Nat := 0x8
abbrev Flag.outlierOvf : Nat := 0x10
abbrev Flag.nv : Nat := 0x100
abbrev Flag.dz : Nat := 0x200
abbrev Flag.ofl : Nat := 0x400
abbrev Flag.ufl : Nat := 0x800
abbrev Flag.nx : Nat := 0x1000

/-- A mask when a condition holds, else none. -/
def flagIf (c : Bool) (m : Nat) : Nat := if c then m else 0

/-- The five exception flags in the order of the RISC-V fcsr (NX, UF, OF, DZ, NV from bit 0). -/
def fcsrOf (fl : Nat) : Nat :=
  fl / 0x1000 % 2 + fl / 0x800 % 2 * 2 + fl / 0x400 % 2 * 4 + fl / 0x200 % 2 * 8 + fl / 0x100 % 2 * 16

/-! ### Rounding (R66, R67) -/

/-- Rounding modes: those of IEEE 754 (the scalar cores have all five, R61), and SR with its 16-bit draw. -/
inductive Rm where
  | rne | rtz | rdn | rup | rmm
  | sr (r : Nat)
deriving DecidableEq, Repr

/-- The rounding of a 2-bit code with the draw that SR takes (R66). -/
def rmOfCode (rc draw : Nat) : Rm := if rc = 0 then .rne else if rc = 1 then .rtz else .sr draw

/-- The count of bits of a number: one more than the place of its highest bit, 0 for 0. -/
def bitLen (n : Nat) : Nat := if n = 0 then 0 else Nat.log2 n + 1

/-- Whether a magnitude rounds away from zero, `rem` parts of `2 ^ sh` lying above the lower neighbour `lo` (R66, R67). -/
def roundsUp (rm : Rm) (neg : Bool) (lo rem sh : Nat) : Bool :=
  match rm with
  | .rne => decide (2 * rem > 2 ^ sh ∨ (2 * rem = 2 ^ sh ∧ lo % 2 = 1))
  | .rtz => false
  | .rdn => neg && rem != 0
  | .rup => !neg && rem != 0
  | .rmm => decide (rem ≠ 0 ∧ 2 * rem ≥ 2 ^ sh)
  | .sr r => decide (r < 2 ^ 16 * rem / 2 ^ sh)

/-- What an overflowing finite value becomes: infinity, or the largest finite value (R66, R67, IEEE 754). -/
def overflowsToInf (rm : Rm) (neg : Bool) : Bool :=
  match rm with
  | .rne => true
  | .rtz => false
  | .rdn => neg
  | .rup => !neg
  | .rmm => true
  | .sr _ => true

/-- A rounded value: its encoding, and what the rounding met. -/
structure Rounded where
  bits : Nat
  inexact : Bool := false
  overflow : Bool := false
  tiny : Bool := false
deriving DecidableEq, Repr

/-- The sign bit of a format. -/
def FFmt.sign (f : FFmt) (neg : Bool) : Nat := if neg then 2 ^ (f.width - 1) else 0

/-- Whether `m * 2 ^ e`, rounded as though the exponent range were unbounded, lies below the smallest normal (R62). -/
def FFmt.isTiny (f : FFmt) (rm : Rm) (neg : Bool) (m : Nat) (e : Int) : Bool :=
  let top : Int := bitLen m - 1 + e
  let emin : Int := 1 - f.bias
  if top ≥ emin then false
  else if top < emin - 1 then true
  else
    let sh := bitLen m - (f.man + 1)
    let lo := m / 2 ^ sh
    let up := roundsUp rm neg lo (m % 2 ^ sh) sh
    !(up && bitLen m > f.man + 1 && lo + 1 == 2 ^ (f.man + 1))

/-- The encoding of a value in a format, by one rounding (R57, R66, R67). -/
def FFmt.round (f : FFmt) (rm : Rm) (x : FVal) : Rounded :=
  match x with
  | .nan => { bits := f.nanCode }
  | .inf neg => { bits := f.sign neg + (if f.hasInf then f.maxCode + 1 else f.maxCode) }
  | .fin neg 0 _ => { bits := f.sign neg }
  | .fin neg m e =>
    let top : Int := bitLen m - 1 + e
    let qmin : Int := 1 - f.bias - f.man
    let q : Int := max (top - f.man) qmin
    let sh : Nat := (q - e).toNat
    let lo : Nat := if q ≥ e then m / 2 ^ sh else m * 2 ^ (e - q).toNat
    let rem : Nat := if q ≥ e then m % 2 ^ sh else 0
    let up := roundsUp rm neg lo rem sh
    let mag := lo + (if up then 1 else 0) + (q - qmin).toNat * 2 ^ f.man
    if mag > f.maxCode then
      { bits := f.sign neg + (if f.hasInf && overflowsToInf rm neg then f.maxCode + 1 else f.maxCode),
        inexact := true, overflow := true }
    else { bits := f.sign neg + mag, inexact := rem != 0, tiny := f.isTiny rm neg m e }

/-! ### Exact arithmetic on values -/

/-- The sign of a value. -/
def FVal.neg? : FVal → Bool
  | .nan => false
  | .inf n => n
  | .fin n _ _ => n

/-- The value with its sign changed. -/
def FVal.negate : FVal → FVal
  | .nan => .nan
  | .inf n => .inf !n
  | .fin n m e => .fin (!n) m e

/-- The magnitude of a value. -/
def FVal.abs : FVal → FVal
  | .nan => .nan
  | .inf _ => .inf false
  | .fin _ m e => .fin false m e

/-- Zero of either sign. -/
def FVal.isZero : FVal → Bool
  | .fin _ 0 _ => true
  | _ => false

/-- Neither NaN nor an infinity. -/
def FVal.isFinite : FVal → Bool
  | .fin _ _ _ => true
  | _ => false

/-- NaN. -/
def FVal.isNan : FVal → Bool
  | .nan => true
  | _ => false

/-- The integer `x / 2 ^ e0` of a finite value whose exponent is at least `e0`; other values count as 0. -/
def FVal.scaled (x : FVal) (e0 : Int) : Int :=
  match x with
  | .fin n m e => let v : Int := m * 2 ^ (e - e0).toNat; if n then -v else v
  | _ => 0

/-- The exponent of a finite value. -/
def FVal.expo : FVal → Int
  | .fin _ _ e => e
  | _ => 0

/-- The value `i * 2 ^ e`; zero takes the sign given. -/
def FVal.ofInt (i : Int) (e : Int) (zeroNeg : Bool := false) : FVal :=
  if i = 0 then .fin zeroNeg 0 e else .fin (i < 0) i.natAbs e

/-- The exact value of a finite number as a rational; other values count as 0. -/
def FVal.toRat (x : FVal) : Rat :=
  match x with
  | .fin n m e =>
    let v : Rat := if e ≥ 0 then (m * 2 ^ e.toNat : Nat) else mkRat m (2 ^ (-e).toNat)
    if n then -v else v
  | _ => 0

/-- Ordered comparison of values: a < b; false when either is NaN. -/
def FVal.lt (a b : FVal) : Bool :=
  match a, b with
  | .nan, _ => false
  | _, .nan => false
  | .inf n, .inf k => n && !k
  | .inf n, _ => n
  | _, .inf k => !k
  | a, b => let e := min a.expo b.expo; decide (a.scaled e < b.scaled e)

/-- Equality of values: zeros compare equal; false when either is NaN. -/
def FVal.eq (a b : FVal) : Bool :=
  match a, b with
  | .nan, _ => false
  | _, .nan => false
  | .inf n, .inf k => n == k
  | .inf _, _ => false
  | _, .inf _ => false
  | a, b => let e := min a.expo b.expo; decide (a.scaled e = b.scaled e)

/-- The exact sum; an exact zero sum takes the sign that IEEE 754 gives (−0 only when rounding down or from two −0). -/
def FVal.add (a b : FVal) (down : Bool := false) : FVal :=
  match a, b with
  | .nan, _ => .nan
  | _, .nan => .nan
  | .inf n, .inf k => if n == k then .inf n else .nan
  | .inf n, _ => .inf n
  | _, .inf k => .inf k
  | a, b =>
    let e := min a.expo b.expo
    let zn := if a.isZero && b.isZero && a.neg? == b.neg? then a.neg? else down
    FVal.ofInt (a.scaled e + b.scaled e) e zn

/-- The exact product. -/
def FVal.mul (a b : FVal) : FVal :=
  let n := a.neg? != b.neg?
  match a, b with
  | .nan, _ => .nan
  | _, .nan => .nan
  | .inf _, y => if y.isZero then .nan else .inf n
  | x, .inf _ => if x.isZero then .nan else .inf n
  | .fin _ m e, .fin _ k g => .fin n (m * k) (e + g)

/-- The quotient, exact or cut after at least 80 bits with a sticky bit below, so that one rounding of it is right. -/
def FVal.div (a b : FVal) : FVal :=
  let n := a.neg? != b.neg?
  match a, b with
  | .nan, _ => .nan
  | _, .nan => .nan
  | .inf _, .inf _ => .nan
  | .inf _, _ => .inf n
  | .fin _ _ e, .inf _ => .fin n 0 e
  | .fin _ 0 e, .fin _ k _ => if k = 0 then .nan else .fin n 0 e
  | .fin _ m e, .fin _ k g =>
    if k = 0 then .inf n
    else
      let sh := 80 + bitLen k
      let q := m * 2 ^ sh / k
      let st := if m * 2 ^ sh % k = 0 then 0 else 1
      .fin n (2 * q + st) (e - g - sh - 1)

/-- The square root, cut after at least 80 bits with a sticky bit below. -/
def FVal.sqrt (a : FVal) : FVal :=
  match a with
  | .nan => .nan
  | .inf n => if n then .nan else .inf false
  | .fin n 0 e => .fin n 0 e
  | .fin true _ _ => .nan
  | .fin false m e =>
    let odd := (e % 2).toNat
    let v := m * 2 ^ (160 + odd)
    let r := Nat.sqrt v
    let st := if r * r = v then 0 else 1
    .fin false (2 * r + st) ((e - odd) / 2 - 80 - 1)

/-! ### FP32 steps of the arrays and the vector unit (R62, R63, R70) -/

/-- Rounding to a format with FTZ (R70): the encoding, and FLUSHED. -/
def roundFtz (f : FFmt) (ftz : Bool) (rm : Rm) (x : FVal) : Nat × Nat :=
  let r := f.round rm x
  if ftz && r.tiny && r.bits % 2 ^ (f.width - 1) != 0 then (f.sign x.neg?, Flag.flushed) else (r.bits, 0)

/-- A value rounded to FP32 with RNE, and FLUSHED. -/
def r32 (ftz : Bool) (x : FVal) : FVal × Nat :=
  let r := roundFtz .f32 ftz .rne x
  (FFmt.f32.decode r.1, r.2)

/-- The exception flags of one vector-unit rounding: OF, UF and NX (R62). With FTZ, a flushed result sets FLUSHED. -/
def roundFlags (f : FFmt) (ftz : Bool) (rm : Rm) (x : FVal) : Nat × Nat :=
  let r := f.round rm x
  let fl := roundFtz f ftz rm x
  (fl.1, fl.2 ||| flagIf r.inexact Flag.nx ||| flagIf r.overflow Flag.ofl ||| flagIf (r.tiny && r.inexact) Flag.ufl)

/-- An operand as it is read: under FTZ a subnormal BF16, FP16 or FP32 value reads as a zero of its sign (R70, R71). -/
def readOperand (code : Nat) (ftz : Bool) (b : Nat) : FVal × Nat :=
  match fmtOfCode code with
  | none => (.nan, 0)
  | some f =>
    if ftz && !isBlockFmt code && f.isSubnormal b then
      (.fin (b / 2 ^ (f.width - 1) % 2 == 1) 0 0, Flag.flushed)
    else (f.decode b, 0)

/-- The value of a block-scaled element under its scale byte (Table 3.3). -/
def scaleElem (f : FFmt) (scale b : Nat) : FVal :=
  if scale = 0 then .fin false 0 0
  else if scale = 0xFF then .nan
  else match f.decode b with
    | .fin n m e => .fin n m (e + (scale - 127 : Int))
    | x => x

/-! ### The draw of stochastic rounding (R68) -/

/-- The 16-bit draw of an element. -/
def draw (seed : W64) (epoch elem j : Nat) : Nat :=
  let z := seed ^^^ (BitVec.ofNat 64 epoch * 0x8f1bc3a5d2e47069#64) ^^^ (BitVec.ofNat 64 elem * 0xc4a91e3765d20b8f#64)
    ^^^ (BitVec.ofNat 64 j * 0x5d27e8b39f41c6a1#64)
  let z := z ^^^ (z >>> 30)
  let z := z * 0xd6e8feb86659fd93#64
  let z := z ^^^ (z >>> 27)
  let z := z * 0x9b3a51c74e2d08a5#64
  let z := z ^^^ (z >>> 31)
  z.toNat % 65536

/-! ### Block scales (R72 to R74) -/

/-- The largest exponent and the largest finite value of a block format (R72). -/
def emaxOf (code : Nat) : Int := if code = 3 then 8 else if code = 4 then 15 else 2

/-- The largest finite element value of a block format (R72). -/
def maxfinOf (code : Nat) : Nat := if code = 3 then 448 else if code = 4 then 57344 else 6

/-- floor(log2 m) of a non-zero finite value. -/
def FVal.log2 (x : FVal) : Int :=
  match x with
  | .fin _ m e => (bitLen m : Int) - 1 + e
  | _ => 0

/-- The largest magnitude among the finite elements; +0 when there is none. -/
def maxMag (xs : List FVal) : FVal :=
  xs.foldl (fun m x => if x.isFinite && m.lt x.abs then x.abs else m) (.fin false 0 0)

/-- The exponent that R72 chooses for a largest magnitude `m` of at least `2 ^ -126`, before the limit at 127. -/
def scaleExp (code : Nat) (m : FVal) : Int :=
  let e := m.log2 - emaxOf code
  let e := if (FVal.fin false (maxfinOf code) e).lt m then e + 1 else e
  max e (-126)

/-- The scale byte that R72 chooses for a block, and the flags that it sets. -/
def chooseScale (code : Nat) (xs : List FVal) : Nat × Nat :=
  if code == 5 && xs.any FVal.isNan then (0xFF, Flag.nonfinite)
  else
    let m := maxMag xs
    let small := m.lt (.fin false 1 (-126))
    let non := xs.any (fun x => !x.isFinite)
    if small && non then (0x01, flagIf (!m.isZero) Flag.underflow)
    else if m.isZero then (0, 0)
    else if small then (0, Flag.underflow)
    else
      let e := scaleExp code m
      if e > 127 then (254, Flag.overflow) else ((e + 127).toNat, 0)

/-- A value divided by `2 ^ e`. -/
def FVal.shift (x : FVal) (e : Int) : FVal :=
  match x with
  | .fin n m g => .fin n m (g - e)
  | y => y

/-- One element of a block written at a scale byte, with the flags that it sets (R72, R74). DEDUCED: an infinity in an F4 block that a
NaN makes non-finite is written as code 0 at scale 0xFF, so nothing saturates and OVERFLOW is not set (log 84). -/
def encodeElem (code : Nat) (f : FFmt) (scale : Nat) (rm : Rm) (x : FVal) : Nat × Nat :=
  if scale = 0 ∨ scale = 0xFF then (0, flagIf (!x.isFinite) Flag.nonfinite)
  else
    match x with
    | .nan => (f.nanCode, Flag.nonfinite)
    | .inf n =>
      if f.hasInf then (f.sign n + f.maxCode + 1, Flag.nonfinite)
      else (f.sign n + f.maxCode, Flag.nonfinite ||| Flag.overflow)
    | x =>
      let y := x.shift ((scale : Int) - 127)
      let lim := FVal.fin x.neg? (maxfinOf code) 0
      let y := if lim.abs.lt y.abs then lim else y
      ((f.round rm y).bits, 0)

/-- A block written in a block-scaled format: its scale byte, its element codes, and the flags (R72 to R74).
`draws` gives the SR draw of each element, in order. -/
def encodeBlock (code rc : Nat) (draws : List Nat) (xs : List FVal) : Nat × List Nat × Nat :=
  match fmtOfCode code with
  | none => (0, [], 0)
  | some f =>
    let sc := chooseScale code xs
    let es := (xs.zip (draws ++ List.replicate xs.length 0)).map fun p => encodeElem code f sc.1 (rmOfCode rc p.2) p.1
    (sc.1, es.map Prod.fst, es.foldl (fun a p => a ||| p.2) sc.2)

/-- An element of an FP32, BF16 or FP16 tensor written with FTZ and a rounding code; array and drain stores set FLUSHED
only (R62, R66, R70). -/
def encodePlain (code : Nat) (ftz : Bool) (rc draw : Nat) (x : FVal) : Nat × Nat :=
  match fmtOfCode code with
  | none => (0, 0)
  | some f => roundFtz f ftz (rmOfCode rc draw) x

/-! ### The F4 outlier path (R75 to R77) -/

/-- A block of F4 inputs after the outlier split: scale byte, codes, sidecar shift k, the outliers' indices and values,
and flags. -/
structure OutlierBlock where
  scale : Nat
  codes : List Nat
  k : Nat := 0
  outs : List (Nat × Int) := []
  flags : Nat := 0
deriving DecidableEq, Repr

/-- An exact value rounded to an integer, ties to even. -/
def rneRat (x : Rat) : Int :=
  let fl := x.floor
  let fr := x - fl
  if fr < 1/2 then fl else if fr > 1/2 then fl + 1 else if fl % 2 = 0 then fl else fl + 1

/-- A power of two with an integer exponent, as a rational. -/
def pow2 (e : Int) : Rat := if e ≥ 0 then (2 ^ e.toNat : Nat) else mkRat 1 (2 ^ (-e).toNat)

/-- The smallest shift from 0 to 7 at which every candidate fits in a signed 8-bit integer after RNE (R77). -/
def outlierShift (e : Int) (cands : List FVal) : Option Nat :=
  (List.range 8).find? fun k => cands.all fun c => (rneRat (c.toRat / pow2 (e - 1 + k))).natAbs ≤ 127

/-- The outlier split of one block of inputs quantised to F4 (R76, R77); `r` is OUTLIER_RATIO_LOG2. The sum and the mean are the cask
interface's, which FTZ does not reach (R70). -/
def outlierSplit (r : Nat) (xs : List FVal) : OutlierBlock :=
  let plain : OutlierBlock :=
    let b := encodeBlock 5 0 [] xs
    { scale := b.1, codes := b.2.1, flags := b.2.2 }
  let sum := xs.foldl (fun a x => (r32 false (a.add x.abs)).1) (.fin false 0 0)
  let mean := (r32 false (sum.shift 6)).1
  let idx := (xs.zipIdx).filter (fun p => (mean.shift (-(r : Int))).lt p.1.abs)
  let rest := (xs.zipIdx).filter (fun p => !(mean.shift (-(r : Int))).lt p.1.abs)
  let mb := maxMag (rest.map Prod.fst)
  if idx.isEmpty || mb.isZero then plain
  else if idx.length > 4 then { plain with flags := plain.flags ||| Flag.outlierOvf }
  else
    let b := encodeBlock 5 0 [] (xs.zipIdx.map fun p => if (mean.shift (-(r : Int))).lt p.1.abs then .fin false 0 0 else p.1)
    let e : Int := (b.1 : Int) - 127
    match outlierShift e (idx.map Prod.fst) with
    | none => { scale := b.1, codes := b.2.1, flags := b.2.2 ||| Flag.overflow }
    | some k =>
      { scale := b.1, codes := b.2.1, k := k, flags := b.2.2,
        outs := idx.map fun p => (p.2, rneRat (p.1.toRat / pow2 (e - 1 + k))) }

/-- The sidecar of a block (Table 3.5). -/
def sidecarOf (b : OutlierBlock) : Nat :=
  let z := b.outs.zipIdx
  b.outs.length + b.k * 8 + (z.map fun p => p.1.1 * 2 ^ (8 + 6 * p.2)).sum
    + (z.map fun p => unsigned 8 p.1.2 * 2 ^ (32 + 8 * p.2)).sum

/-! ### Accumulation (R63, R80, R83, R85) -/

/-- −0, the addend of an operation that has none (R80). -/
def FVal.negZero : FVal := .fin true 0 0

/-- One level of the pairwise tree of R80. -/
def pairLevel (ftz : Bool) : List FVal → List FVal × Nat
  | a :: b :: rest =>
    let s := r32 ftz (a.add b)
    let t := pairLevel ftz rest
    (s.1 :: t.1, s.2 ||| t.2)
  | xs => (xs, 0)

/-- `n` levels of the pairwise tree. -/
def pairTree (ftz : Bool) : Nat → List FVal → List FVal × Nat
  | 0, xs => (xs, 0)
  | n + 1, xs =>
    let l := pairLevel ftz xs
    let r := pairTree ftz n l.1
    (r.1, l.2 ||| r.2)

/-- The rounded products of two rows (R63 step 2). -/
def products (ftz : Bool) (a b : List FVal) : List FVal × Nat :=
  let ps := (a.zip b).map fun p => r32 ftz (p.1.mul p.2)
  (ps.map Prod.fst, ps.foldl (fun f p => f ||| p.2) 0)

/-- The group sums of ordered accumulation, 32 products at a time; `fuel` bounds the groups (R80). -/
def orderedGroups (ftz : Bool) : Nat → List FVal → FVal → FVal × Nat
  | 0, _, acc => (acc, 0)
  | fuel + 1, ps, acc =>
    if ps.isEmpty then (acc, 0)
    else
      let g := ps.take 32
      let t := pairTree ftz 5 (g ++ List.replicate (32 - g.length) FVal.negZero)
      let s := r32 ftz (acc.add (t.1.headD FVal.negZero))
      let r := orderedGroups ftz fuel (ps.drop 32) s.1
      (r.1, t.2 ||| s.2 ||| r.2)

/-- The ordered dot product of R80 with addend `c0`. -/
def orderedDot (ftz : Bool) (a b : List FVal) (c0 : FVal) : FVal × Nat :=
  let ps := products ftz a b
  let r := orderedGroups ftz (ps.1.length / 32 + 1) ps.1 c0
  (r.1, ps.2 ||| r.2)

/-- The sum of a list in an order that the hardware picks: two of the values left are added and rounded to FP32 until one is left. `n`
numbers the picks, `fuel` bounds the additions. -/
def fastSum (ftz : Bool) (n : Nat) : Nat → List FVal → FVal × Nat
  | 0, xs => (xs.headD FVal.negZero, 0)
  | fuel + 1, xs =>
    let i := Config.fastPick n (2 * xs.length) % xs.length
    let ys := xs.eraseIdx i
    let j := Config.fastPick n (2 * xs.length + 1) % ys.length
    let s := r32 ftz ((xs.getD i .negZero).add (ys.getD j .negZero))
    let r := fastSum ftz n fuel (s.1 :: ys.eraseIdx j)
    (r.1, s.2 ||| r.2)

/-- The fast-mode dot product of R83: the products of R63 and the addend, added in an unspecified order and association. -/
def fastDot (ftz : Bool) (n : Nat) (a b : List FVal) (c0 : FVal) : FVal × Nat :=
  let ps := products ftz a b
  let r := fastSum ftz n ps.1.length (c0 :: ps.1)
  (r.1, ps.2 ||| r.2)

/-- The Nebex-exact dot product of R85 from step `k` on: each step rounded to BF16 with SR and flushed. -/
def nebexDot (seed : W64) (epoch elem : Nat) : Nat → List (FVal × FVal) → FVal → FVal × Nat
  | _, [], acc => (acc, 0)
  | k, (a, b) :: rest, acc =>
    let r := roundFtz .bf16 true (.sr (draw seed epoch elem (k + 1))) (acc.add (a.mul b))
    let t := nebexDot seed epoch elem (k + 1) rest (FFmt.bf16.decode r.1)
    (t.1, r.2 ||| t.2)

end Sys2Proof.Machine
end

