-- ==== Sys2Proof/Machine/Approx.lean ====
section
/-!
DEFINITION. The approximated functions of the vector unit (Table 6.9) and of the drain chain (Table 7.5): reference values, and the
bounds that R183 and R201 put on what the hardware answers. A reference is a fixed-point number with 320 fraction bits, far finer
than any bound, so that rounding it once gives the correctly rounded result.
-/

namespace Sys2Proof.Machine

/-! ### Fixed-point numbers -/

/-- Fraction bits of a reference. -/
abbrev fixBits : Nat := 320

/-- 1. -/
abbrev fixOne : Int := 2 ^ fixBits

def fixMul (a b : Int) : Int := a * b / fixOne
def fixDiv (a b : Int) : Int := a * fixOne / b
def fixSqrt (a : Int) : Int := Nat.sqrt (a.toNat * 2 ^ fixBits)

/-- A finite value as a fixed-point number. -/
def FVal.toFix (x : FVal) : Int := (x.toRat * fixOne).floor

/-- A fixed-point number as a value. -/
def FVal.ofFix (i : Int) : FVal := FVal.ofInt i (-fixBits)

/-- The sum of `n` terms, the first `t` and numbered `k`, each the `next` of the one before. -/
def fixSeries (next : Nat → Int → Int) : Nat → Nat → Int → Int
  | 0, _, _ => 0
  | n + 1, k, t => t + fixSeries next n (k + 1) (next k t)

/-- The sum of `p z^(2i) / (2i + 1)` over `n` terms from the k-th, with alternating signs for an arc tangent. -/
def fixOdd (alternate : Bool) (z2 : Int) : Nat → Nat → Int → Int
  | 0, _, _ => 0
  | n + 1, k, p => p / (2 * k + 1) + fixOdd alternate z2 n (k + 1) (if alternate then -fixMul p z2 else fixMul p z2)

/-- The inverse hyperbolic tangent of a magnitude of at most one third. -/
def fixAtanh (z : Int) : Int := fixOdd false (fixMul z z) 110 0 z

def fixLn2 : Int := 2 * fixAtanh (fixOne / 3)

/-- π, by Machin's formula. -/
def fixPi : Int :=
  let arc := fun n : Int => fixOdd true (fixOne / (n * n)) 80 0 (fixOne / n)
  16 * arc 5 - 4 * arc 239

/-- e^x, for |x| of at most some hundreds. -/
def fixExp (x : Int) : Int :=
  let n := x / fixLn2
  let r := x - n * fixLn2
  let t := fixSeries (fun k t => fixMul t r / (k + 1)) 80 0 fixOne
  if n ≥ 0 then t * 2 ^ n.toNat else t / 2 ^ (-n).toNat

/-- The natural logarithm of a positive finite value `m * 2 ^ e`, its fraction taken between 3/4 and 3/2. -/
def fixLn (m : Nat) (e : Int) : Int :=
  let l : Int := bitLen m
  let f : Int := m * 2 ^ (fixBits - bitLen m)
  let up := decide (4 * f < 3 * fixOne)
  let f' := if up then 2 * f else f
  let n := l + e - (if up then 1 else 0)
  n * fixLn2 + 2 * fixAtanh (fixDiv (f' - fixOne) (f' + fixOne))

def fixSin (x : Int) : Int :=
  let r := x % (2 * fixPi)
  let r2 := fixMul r r
  fixSeries (fun k t => -fixMul t r2 / ((2 * k + 2) * (2 * k + 3))) 80 0 r

def fixCos (x : Int) : Int :=
  let r := x % (2 * fixPi)
  let r2 := fixMul r r
  fixSeries (fun k t => -fixMul t r2 / ((2 * k + 1) * (2 * k + 2))) 80 0 fixOne

/-- σ(x) = 1 ÷ (1 + e^−x). -/
def fixSigmoid (x : Int) : Int :=
  let t := fixExp (-x.natAbs)
  if x ≥ 0 then fixDiv fixOne (fixOne + t) else fixDiv t (fixOne + t)

/-- The normal density φ. -/
def fixPhi (x : Int) : Int := fixDiv (fixExp (-(fixMul x x / 2))) (fixSqrt (2 * fixPi))

/-- The normal distribution Φ(x) = (1 + erf(x ÷ √2)) ÷ 2. -/
def fixNormal (x : Int) : Int :=
  let x2 := fixMul x x
  fixOne / 2 + fixMul (fixPhi x) (fixSeries (fun k t => fixMul t x2 / (2 * k + 3)) 600 0 x)

/-! ### References -/

/-- A value held between −`n` and `n`: beyond the limit the functions below have reached their limits in FP32. -/
def fixClamp (n : Int) (x : FVal) : Int := max (-n * fixOne) (min (n * fixOne) x.toFix)

/-- The exact function of Table 6.9 at an ordinary operand. -/
def approxRef (f7 : Nat) (x : FVal) : FVal :=
  let m := match x with
    | .fin _ m _ => m
    | _ => 0
  match f7 with
  | 0x20 => .ofFix (fixExp (fixMul (fixClamp 200 x) fixLn2))
  | 0x21 => .ofFix (fixExp (fixClamp 200 x))
  | 0x22 => .ofFix (fixDiv (fixLn m x.expo) fixLn2)
  | 0x23 => .ofFix (fixLn m x.expo)
  | 0x24 => (FVal.fin false 1 0).div x
  | 0x25 => (FVal.fin false 1 0).div x.sqrt
  | 0x26 => let t := fixExp (-2 * (fixClamp 200 x).natAbs); (FVal.ofFix (fixDiv (fixOne - t) (fixOne + t))).mul (.fin x.neg? 1 0)
  | 0x27 => .ofFix (fixSigmoid (fixClamp 200 x))
  | 0x28 => (FVal.ofFix (fixNormal (fixClamp 14 x))).mul x
  | 0x29 => (FVal.ofFix (fixSigmoid (fixClamp 200 x))).mul x
  | 0x2A => .ofFix (fixSin x.toFix)
  | _ => .ofFix (fixCos x.toFix)

/-- The exact derivative of Table 7.5 at a finite pre-activation. -/
def derivRef (fn : Nat) (z : FVal) : FVal :=
  let y := fixClamp 200 z
  let s := fixSigmoid y
  match fn with
  | 4 => let w := fixClamp 14 z; .ofFix (fixNormal w + fixMul w (fixPhi w))
  | 5 => .ofFix (fixMul s (fixOne + fixMul y (fixSigmoid (-y))))
  | 6 => .ofFix (fixMul s (fixSigmoid (-y)))
  | 7 => .ofFix (4 * fixMul (fixSigmoid (2 * y)) (fixSigmoid (-2 * y)))
  | _ => .ofFix s

/-! ### Bounds -/

/-- A bound of Table 6.9 or Table 7.5: units in the last place of the correctly rounded result, and the power of two of an absolute
bound that holds instead where one is stated. -/
structure Bound where
  ulps : Nat
  abs : Option Int := none
deriving DecidableEq, Repr

/-- The bound of an approximated function at an operand (Table 6.9). -/
def approxBound (f7 : Nat) (x : FVal) : Bound :=
  let mid := !x.lt (.fin false 1 (-1)) && !(FVal.fin false 2 0).lt x
  match f7 with
  | 0x20 => { ulps := 2 }
  | 0x21 => { ulps := 3 }
  | 0x22 => { ulps := 2, abs := if mid then some (-22) else none }
  | 0x23 => { ulps := 3, abs := if mid then some (-22) else none }
  | 0x24 => { ulps := 1 }
  | 0x25 => { ulps := 2 }
  | 0x26 => { ulps := 4, abs := some (-24) }
  | 0x27 => { ulps := 4 }
  | 0x28 => { ulps := 8, abs := some (-24) }
  | 0x29 => { ulps := 4, abs := some (-24) }
  | _ => { ulps := 0, abs := some (-22) }

/-- The bound of a drain derivative (Table 7.5). -/
def derivBound (fn : Nat) : Bound := { ulps := 4, abs := if fn = 8 then none else some (-24) }

/-- Whether an FP32 encoding meets a bound against the correctly rounded result `rn`. -/
def Bound.meets (b : Bound) (rn c : Nat) : Bool :=
  let x := FFmt.f32.decode rn
  let y := FFmt.f32.decode c
  let d := (x.add y.negate).abs
  y.isFinite && (!(FVal.fin false b.ulps x.expo).lt d || b.abs.any fun a => !(FVal.fin false 1 a).lt d)

/-- The hardware's answer `c` where it meets the bound; the correctly rounded result stands in for any other. -/
def Bound.hold (b : Bound) (ref : FVal) (c : Nat) : Nat :=
  let rn := (FFmt.f32.round .rne ref).bits
  if b.meets rn c then c else rn

/-- A finite, normal FP32 encoding: where the bounds of R183 hold. -/
def isNormal32 (b : Nat) : Bool := (FFmt.f32.decode b).isFinite && !FFmt.f32.isSubnormal b && b % 2 ^ 31 != 0

/-- An approximated function at an ordinary operand: a value of its own within the bound where the result is finite and normal, and
flags of its own (R183, log 8). -/
def approxValue (f7 b : Nat) : Nat × Nat :=
  let x := FFmt.f32.decode b
  let ref := approxRef f7 x
  let c := (Config.approx f7 (BitVec.ofNat 32 b)).toNat
  (if isNormal32 (FFmt.f32.round .rne ref).bits then (approxBound f7 x).hold ref c else c,
    (Config.approxFlags f7 (BitVec.ofNat 32 b)).toNat * 256)

/-- A drain derivative at a finite pre-activation: a value of its own within the bound (R201, log 8). -/
def derivValue (fn : Nat) (z : FVal) : FVal :=
  FFmt.f32.decode ((derivBound fn).hold (derivRef fn z) (Config.drainDeriv fn (BitVec.ofNat 32 (FFmt.f32.round .rne z).bits)).toNat)

end Sys2Proof.Machine
end

