-- ==== Sys2Proof/Machine/Operands.lean ====
section
/-!
DEFINITION. Operands of descriptors: the fields of every kind's body, the regions that they name, and the checks of R229 in
their order. A check answers the refusing code with its DETAIL, or none.
-/

namespace Sys2Proof.Machine

/-- A refusal: code and DETAIL. -/
abbrev Refuse := Option (Nat × Nat)

/-- A refusal when a condition holds. -/
def refuseIf (c : Bool) (code : Nat) (detail : Nat := 0) : Refuse := if c then some (code, detail) else none

/-- The first refusal of a list of checks. -/
def firstRefusal : List Refuse → Refuse
  | [] => none
  | some r :: _ => some r
  | none :: rest => firstRefusal rest

/-! ### The common fields (R222 to R224, R229 steps 1 to 4) -/

def dKind (d : BitVec 512) : Nat := dField d 0 1
def dClass (d : BitVec 512) : Nat := dBits d 1 1 0
def dCtx (d : BitVec 512) : Nat := dField d 2 2
def dGen (d : BitVec 512) : Nat := dField d 4 1

/-- Steps 1 and 2: KIND, reserved bits and DEADLINE. -/
def checkCommon (d : BitVec 512) : List Refuse :=
  [refuseIf (decide (dKind d > 7)) Code.opqKind,
   refuseIf (dBits d 1 7 3 != 0) Code.opqDesc 1,
   refuseIf (decide (dField d 5 1 > 24)) Code.opqDesc 5,
   refuseIf (dBits d 6 7 2 != 0) Code.opqDesc 6,
   refuseIf (dField d 7 1 != 0) Code.opqDesc 7,
   refuseIf (dField d 22 2 != 0) Code.opqDesc 22]

/-- The counter identifiers of a descriptor: WAIT0, WAIT1, SIG0, SIG1. -/
def dIds (d : BitVec 512) : List Nat := [dField d 8 2, dField d 12 2, dField d 16 2, dField d 18 2]

/-- Step 3: counter identifiers, then consumes by a non-owner, then counters of a domain that is off. -/
def State.checkIds (s : State) (t : Nat) (d : BitVec 512) : List Refuse :=
  ((dIds d).map fun i => refuseIf (i != 0xFFFF && !s.idValid i) Code.syncIdRange i) ++
  [refuseIf (dBits d 6 0 0 == 1 && dField d 8 2 != 0xFFFF && dField d 8 2 / 256 != t) Code.syncMisuse (dField d 8 2),
   refuseIf (dBits d 6 1 1 == 1 && dField d 12 2 != 0xFFFF && dField d 12 2 / 256 != t) Code.syncMisuse (dField d 12 2)] ++
  ((dIds d).map fun i => refuseIf (i != 0xFFFF && s.idOff i) Code.ctlDomainOff i)

/-- STATE of a context as a number (Table 9.2). -/
def CtxState.num : CtxState → Nat
  | .free => 0
  | .open => 1
  | .draining => 2
  | .quarantine => 3

/-- Step 4: CONTEXT, GEN, STATE and CLASS (R265). -/
def State.checkCtx (s : State) (d : BitVec 512) : List Refuse :=
  let c := dCtx d
  let e := s.ctx c
  [refuseIf (decide (s.get .capContextsCount ≤ c)) Code.ctxRange c,
   refuseIf (dGen d != e.gen) Code.ctxStaleGen (c + dGen d * 2 ^ 16 + e.gen * 2 ^ 24),
   refuseIf (e.state != .open) Code.ctxClosed (c + e.state.num * 2 ^ 16),
   refuseIf (decide (dClass d < e.flags / 4 % 4)) Code.ctxClass c]

/-! ### Context windows (R259, R265 step 6) -/

/-- Whether an address lies in a window. -/
def inWindow (w : Nat × Nat) (a : Nat) : Bool := decide (65536 * w.1 ≤ a ∧ a < 65536 * w.1 + 65536 * w.2)

/-- Whether an address lies in some window of a context. -/
def Ctx.covers (c : Ctx) (a : Nat) : Bool := c.windows.any fun w => inWindow w a

/-- Whether an address lies in the tile region of tile `t`. -/
def inTile (t a : Nat) : Bool := decide (tileBase t ≤ a ∧ a < tileBase t + 0x4000000)

/-- The first address of a range outside a context's windows and outside the issuing tile's own region. -/
def Ctx.firstOutside (c : Ctx) (own : Option Nat) (a n : Nat) : Option Nat :=
  ((List.range n).map (a + ·)).find? fun x => !(c.covers x || own.elim false fun t => inTile t x)

/-! ### Routes (Table 2.7, R290) -/

/-- The route entry to a device. -/
def State.route (s : State) (dev : Nat) : Option Route :=
  match s.blend.inForce with
  | some b => b.routes.find? fun r => r.dest == dev
  | none => none

/-! ### MATRIX (Table 6.6, R176 to R178) -/

structure MatrixBody where
  m : Nat
  n : Nat
  k : Nat
  fmtA : Nat
  blkA : Nat
  resA : Nat
  fmtB : Nat
  blkB : Nat
  resB : Nat
  out : Nat
  rc : Nat
  blkC : Nat
  accMode : Nat
  addend : Bool
  transB : Bool
  resAcc : Nat
  aOff : Nat
  bOff : Nat
  cOff : Nat
  addOff : Nat
  slot : Nat
  fn : Nat
  preOff : Nat
  reserved : Nat

/-- The body of a MATRIX descriptor. -/
def matrixBody (d : BitVec 512) : MatrixBody :=
  { m := dField d 24 2, n := dField d 26 2, k := dField d 28 4,
    fmtA := dBits d 32 3 0, blkA := dBits d 32 5 4, resA := dBits d 32 7 6,
    fmtB := dBits d 33 3 0, blkB := dBits d 33 5 4, resB := dBits d 33 7 6,
    out := dBits d 34 3 0, rc := dBits d 34 5 4, blkC := dBits d 34 7 6,
    accMode := dBits d 35 1 0, addend := dBits d 35 2 2 == 1, transB := dBits d 35 3 3 == 1, resAcc := dBits d 35 7 4,
    aOff := dField d 36 4, bOff := dField d 40 4, cOff := dField d 44 4, addOff := dField d 48 4, slot := dField d 52 2,
    fn := dField d 54 1, preOff := dField d 56 4, reserved := dField d 55 1 + dField d 60 4 }

/-- The bytes of one row of `len` elements of a format, padded to 64 (R176). -/
def rowBytes (code len : Nat) : Nat := alignUp (ceilDiv (len * fmtWidth code) 8) 64

/-- The bytes of one row of scale bytes, padded to 64; none for a format without blocks (R176). -/
def scaleRowBytes (code blk len : Nat) : Nat :=
  if isBlockFmt code then alignUp (ceilDiv len (blockSize blk)) 64 else 0

/-- The size of a tensor of `rows` rows of `len` elements: elements, then scale bytes (R176). -/
def tensorBytes (code blk rows len : Nat) : Nat := rows * rowBytes code len + rows * scaleRowBytes code blk len

def MatrixBody.usesC (b : MatrixBody) : Bool := b.accMode == 0 || b.accMode == 3
def MatrixBody.usesAdd (b : MatrixBody) : Bool := b.addend && (b.accMode == 0 || b.accMode == 1)
def MatrixBody.usesSlots (b : MatrixBody) : Bool := b.accMode != 0
def MatrixBody.slots (b : MatrixBody) : Nat := ceilDiv b.m 32 * ceilDiv b.n 32
def MatrixBody.isNoop (b : MatrixBody) : Bool := b.m == 0 || b.n == 0 || b.k == 0
def MatrixBody.aRegion (b : MatrixBody) : Nat × Nat := (b.aOff, tensorBytes b.fmtA b.blkA b.m b.k)
def MatrixBody.bRegion (b : MatrixBody) : Nat × Nat :=
  (b.bOff, if b.transB then tensorBytes b.fmtB b.blkB b.k b.n else tensorBytes b.fmtB b.blkB b.n b.k)
def MatrixBody.cRegion (b : MatrixBody) : Nat × Nat := (b.cOff, tensorBytes b.out b.blkC b.m b.n)
def MatrixBody.addRegion (b : MatrixBody) : Nat × Nat := (b.addOff, tensorBytes 0 0 b.m b.n)
def MatrixBody.preRegion (b : MatrixBody) : Nat × Nat := (b.preOff, tensorBytes 1 0 b.m b.n)

/-- The regions that a matrix operation reads. -/
def MatrixBody.inputs (b : MatrixBody) : List (Nat × Nat) :=
  [b.aRegion, b.bRegion] ++ (if b.usesAdd then [b.addRegion] else []) ++ (if b.fn != 0 then [b.preRegion] else [])

/-- Whether two regions share a byte. -/
def overlaps (x y : Nat × Nat) : Bool := decide (x.1 < y.1 + y.2 ∧ y.1 < x.1 + x.2 ∧ 0 < x.2 ∧ 0 < y.2)

/-- The operand pairs of Table 3.4; in Nebex-exact mode BF16 by BF16 alone. -/
def pairOk (a b : Nat) : Bool :=
  (a == 1 && b == 1) || (a == 2 && b == 2) || ((a == 3 || a == 4) && (b == 3 || b == 4)) || (a == 5 && b == 5)

/-- The body checks of a MATRIX descriptor, in the order of R178. -/
def checkMatrix (scratchKib : Nat) (d : BitVec 512) : List Refuse :=
  let b := matrixBody d
  let bad := fun (r : Nat × Nat) => r.1 % 64 != 0 || decide (r.1 + r.2 > scratchKib * 1024)
  [refuseIf (!pairOk b.fmtA b.fmtB) Code.numFormatPair] ++
  (if b.isNoop then [] else
   [refuseIf (decide (b.k > 1048576)) Code.tileShape,
    refuseIf (b.inputs.any bad || (b.usesC && bad b.cRegion)) Code.tileOffset,
    refuseIf (b.transB && (isBlockFmt b.fmtA || isBlockFmt b.fmtB)) Code.tileLayout,
    refuseIf (b.usesC && b.inputs.any (overlaps b.cRegion)) Code.tileOverlap,
    refuseIf (b.usesSlots && decide (b.slot + b.slots > 1024)) Code.tileSlotRange,
    refuseIf (decide (b.fn > 9) || (b.fn != 0 && !b.usesC)) Code.tileDrainFn,
    refuseIf (b.resA != 0 || b.resB != 0 || b.resAcc != 0 || b.reserved != 0) Code.tileLayout])

/-! ### CASK_PASS (Table 4.11, R125 to R127) -/

structure CaskBody where
  die : Nat
  layer : Nat
  resLayer : Nat
  mac : Nat
  inMode : Nat
  transposed : Bool
  gain : Nat
  resMode : Nat
  out : Nat
  left : Bool
  rc : Nat
  ring : Nat
  fmt : Nat
  blk : Nat
  resFmt : Nat
  firstRow : Nat
  rows : Nat
  vectors : Nat
  src : Nat
  scale : Nat
  tag : Nat
  reserved : Nat

/-- The body of a CASK_PASS descriptor. -/
def caskBody (d : BitVec 512) : CaskBody :=
  { die := dField d 24 1, layer := dBits d 25 2 0, resLayer := dBits d 25 7 3, mac := dField d 26 2,
    inMode := dBits d 28 1 0, transposed := dBits d 28 2 2 == 1, gain := dBits d 28 4 3, resMode := dBits d 28 7 5,
    out := dBits d 29 2 0, left := dBits d 29 3 3 == 1, rc := dBits d 29 5 4, ring := dBits d 29 7 6,
    fmt := dBits d 30 3 0, blk := dBits d 30 5 4, resFmt := dBits d 30 7 6,
    firstRow := dField d 32 2, rows := dField d 34 2, vectors := dField d 36 2,
    src := dField d 40 8, scale := dField d 48 8, tag := dField d 56 4,
    reserved := dField d 31 1 + dField d 38 2 + dField d 60 4 }

/-- The rows of Table 4.1: input mode, source format, and whether the pass is transposed; a transposed pass takes G16 (R118). -/
def inputModeOk (mode fmt : Nat) (transposed : Bool) : Bool :=
  match mode with
  | 0 => !transposed && (fmt == 0 || fmt == 1 || fmt == 2 || fmt == 5)
  | 1 => !transposed && (fmt == 0 || fmt == 1 || fmt == 2 || fmt == 3 || fmt == 4)
  | 2 => transposed && (fmt == 1 || fmt == 2)
  | _ => false

/-- Whether a cask pass uses the outlier path with a stored tensor (R75). -/
def State.storedOutliers (s : State) (t : Nat) (b : CaskBody) : Bool := b.fmt == 5 && s.get .tileNumCtlOutlier t == 1

/-- The body checks of a CASK_PASS descriptor, in the order of R127; DIE names one of the 8 cask dies under the tile's press die (Table
4.11). -/
def State.checkCask (s : State) (t : Nat) (d : BitVec 512) : List Refuse :=
  let b := caskBody d
  [refuseIf (b.die / 8 != t / 16 || decide (32 ≤ b.die) || decide (s.good b.die ≤ b.mac)) Code.caskMacroRange,
   refuseIf (!s.domainOn (domCask b.die) && smGet (fun _ => none) s.power.switching (domCask b.die) != some true)
     Code.ctlDomainOff,
   refuseIf (((s.binding b.die b.mac b.layer).map Binding.tile) != some t) Code.caskNotBound,
   refuseIf (b.firstRow % 64 != 0 || decide (b.firstRow + b.rows > 1024)) Code.caskRowRange,
   refuseIf (decide (b.out ≥ 5) || (b.out == 2 && b.transposed) || ((b.out == 3 || b.out == 4) && dClass d == 0)
     || (b.out == 4 && b.transposed)) Code.caskOutFmt,
   refuseIf (!inputModeOk b.inMode b.fmt b.transposed) Code.caskInputMode,
   refuseIf (s.get .tileCringSizeSizeLog2 t b.ring == 0) Code.caskRingOff,
   refuseIf (b.resLayer != 0 || b.resMode != 0 || b.resFmt != 0 || b.reserved != 0
     || (!isBlockFmt b.fmt && (b.scale != 0 || b.blk != 0))) Code.caskInputMode]

/-! ### Kernels (Table 6.8, R187) -/

structure KernelBody where
  entry : Nat
  cores : Nat
  stackKib : Nat
  stackTop : Nat
  arg0 : Nat
  arg1 : Nat
  arg2 : Nat
  reserved : Nat

/-- The body of a kernel launch. -/
def kernelBody (d : BitVec 512) : KernelBody :=
  { entry := dField d 24 4, cores := dField d 28 1, stackKib := dField d 30 2, stackTop := dField d 32 4,
    arg0 := dField d 40 8, arg1 := dField d 48 8, arg2 := dField d 56 8, reserved := dField d 29 1 + dField d 36 4 }

/-- The cores of a mask. -/
def coresOf (mask : Nat) : List Nat := (List.range 8).filter fun c => mask / 2 ^ c % 2 == 1

/-- The body checks of a kernel launch. -/
def checkKernel (scratchKib : Nat) (d : BitVec 512) : List Refuse :=
  let b := kernelBody d
  let top := scratchKib * 1024
  [refuseIf (b.entry % 4 != 0 || decide (top ≤ b.entry) || b.stackTop % 16 != 0 || decide (b.stackKib > 1024)
      || decide (top < b.stackTop) || (coresOf b.cores).any (fun c => decide (b.stackTop < (c + 1) * b.stackKib * 1024)))
    Code.tileKernelDesc,
   refuseIf (dKind d == 2 && decide ((coresOf b.cores).length > 1)) Code.tileKernelDesc,
   refuseIf (b.reserved != 0) Code.tileKernelDesc]

/-! ### DMA (Table 9.4, R264, R265) -/

structure DmaBody where
  src : Nat
  dst : Nat
  len : Nat
  rows : Nat
  srcStride : Nat
  dstStride : Nat
  srcDev : Nat
  dstDev : Nat

/-- The body of a DMA descriptor. -/
def dmaBody (d : BitVec 512) : DmaBody :=
  { src := dField d 24 8, dst := dField d 32 8, len := dField d 40 4, rows := dField d 44 2,
    srcStride := dField d 48 4, dstStride := dField d 52 4, srcDev := dField d 56 2, dstDev := dField d 58 2 }

/-- The rows of one side, as ranges. -/
def dmaRows (base stride len rows : Nat) : List (Nat × Nat) := (List.range rows).map fun r => (base + r * stride, len)

def DmaBody.srcRows (b : DmaBody) : List (Nat × Nat) := dmaRows b.src b.srcStride b.len b.rows
def DmaBody.dstRows (b : DmaBody) : List (Nat × Nat) := dmaRows b.dst b.dstStride b.len b.rows
def DmaBody.isNoop (b : DmaBody) : Bool := b.len == 0 || b.rows == 0

/-- The rows of the sides that lie on this module. -/
def DmaBody.localRows (b : DmaBody) : List (Nat × Nat) :=
  (if b.srcDev = 0xFFFF then b.srcRows else []) ++ (if b.dstDev = 0xFFFF then b.dstRows else [])

/-- Whether an address lies in an accumulator window. -/
def inAccum (scratchKib a : Nat) : Bool :=
  match placeOf scratchKib a with
  | .accum _ _ => true
  | _ => false

/-- The first local row in an accumulator window whose address, or whose transfer's LENGTH or a stride, is not a multiple of 4 (R265
step 5). -/
def DmaBody.misaligned (b : DmaBody) (scratchKib : Nat) : Option Nat :=
  let odd := b.len % 4 != 0 || b.srcStride % 4 != 0 || b.dstStride % 4 != 0
  (b.localRows.find? fun r => inAccum scratchKib r.1 && (r.1 % 4 != 0 || odd)).map Prod.fst

/-- The body checks of a DMA descriptor, in the order of R265. -/
def State.checkDma (s : State) (t : Nat) (d : BitVec 512) : List Refuse :=
  let b := dmaBody d
  let c := s.ctx (dCtx d)
  let lim := 2 ^ s.get .capLinksIdBits
  let peer := if b.srcDev ≠ 0xFFFF then b.srcDev else b.dstDev
  let remote := b.srcDev != 0xFFFF || b.dstDev != 0xFFFF
  let kib := s.get .capMemoryScratchKib
  [refuseIf ((b.srcDev != 0xFFFF && b.dstDev != 0xFFFF) || (b.srcDev != 0xFFFF && decide (lim ≤ b.srcDev))) Code.xferDevice 56,
   refuseIf (b.dstDev != 0xFFFF && decide (lim ≤ b.dstDev)) Code.xferDevice 58,
   refuseIf (remote && (s.route peer).isNone) Code.xferNoRoute (peer * 2 ^ 32),
   refuseIf (remote && c.flags / 2 % 2 == 0) Code.ctxClass (dCtx d),
   if b.isNoop then none else (b.localRows.findSome? fun r => s.firstUnmapped r.1 r.2).map fun a => (Code.xferUnmapped, a),
   if b.isNoop then none else (b.misaligned kib).map fun a => (Code.xferAlign, a),
   if b.isNoop then none else (b.localRows.findSome? fun r => c.firstOutside (some t) r.1 r.2).map fun a => (Code.xferWindow, a),
   if b.isNoop then none else
     refuseIf ((decide (b.rows > 1) && (decide (b.srcStride < b.len) || decide (b.dstStride < b.len)))
       || (!remote && b.srcRows.any fun r => b.dstRows.any (overlaps r))) Code.xferOverlap]

/-! ### BUCKET (Table 11.1, R304 to R306) -/

structure BucketBody where
  op : Nat
  group : Nat
  id : Nat
  first : Nat
  count : Nat
  flags : Nat
  fmt : Nat
  slot : Nat
  stage : Nat
  result : Nat
  err : Nat
  scale : Nat
  source : Nat

/-- The body of a BUCKET descriptor; `source` is bytes 40 to 47 as a CONTRIBUTE reads them. -/
def bucketBody (d : BitVec 512) : BucketBody :=
  { op := dField d 24 1, group := dField d 25 1, id := dField d 26 2, first := dField d 28 4, count := dField d 32 4,
    flags := dField d 36 1, fmt := dField d 37 1, slot := dField d 38 2, stage := dField d 40 6, result := dField d 46 6,
    err := dField d 52 6, scale := dField d 58 6, source := dField d 40 8 }

/-- The group of a number in the blend in force. -/
def State.group (s : State) (g : Nat) : Option Group :=
  match s.blend.inForce with
  | some b => b.groups.find? fun x => x.id == g
  | none => none

/-- An open bucket. -/
def State.bucket (s : State) (g id : Nat) : Option Bucket := s.buckets.find? fun b => b.opened && b.g == g && b.id == id

/-- The regions of an OPEN of E elements: STAGE, RESULT, ERR and SCALE (Table 11.2). -/
def bucketRegions (b : BucketBody) : List (Nat × Nat) :=
  let blocks := ceilDiv b.count 32
  [(b.stage, alignUp (2 * b.count) 64 + blocks), (b.result, 2 * b.count)] ++
  (if b.err = 0 then [] else [(b.err, 2 * b.count)]) ++ [(b.scale, blocks)]

/-- The source range of a CONTRIBUTE from memory. -/
def BucketBody.sourceRange (b : BucketBody) : Nat × Nat := (b.source, b.count * (fmtWidth (b.flags % 16) / 8))

/-- Whether any two regions of a list share a byte. -/
def anyOverlap : List (Nat × Nat) → Bool
  | [] => false
  | r :: rs => rs.any (overlaps r) || anyOverlap rs

/-- Mapping and window checks over ranges (R265 steps 4 and 6). -/
def State.checkRanges (s : State) (c : Ctx) (own : Option Nat) (rs : List (Nat × Nat)) : List Refuse :=
  [(rs.findSome? fun r => s.firstUnmapped r.1 r.2).map fun a => (Code.xferUnmapped, a),
   (rs.findSome? fun r => c.firstOutside own r.1 r.2).map fun a => (Code.xferWindow, a)]

/-- The chunks of 4,096 elements that a CONTRIBUTE covers. -/
def BucketBody.chunks (b : BucketBody) : List Nat := (List.range (ceilDiv b.count 4096)).map fun i => b.first / 4096 + i

/-- The body checks of a BUCKET descriptor, in the order of R306. -/
def State.checkBucket (s : State) (t : Nat) (d : BitVec 512) : List Refuse :=
  let b := bucketBody d
  let c := s.ctx (dCtx d)
  let gr := s.group b.group
  let bk := s.bucket b.group b.id
  [refuseIf (decide (b.op > 2)) Code.rdcOp 24] ++
  (match b.op with
   | 0 => [refuseIf (decide (b.flags > 3)) Code.rdcOp 36,
           refuseIf (b.fmt != 1 && b.fmt != 2) Code.rdcOp 37,
           refuseIf (b.slot != 0) Code.rdcOp 38]
   | 1 => [refuseIf (decide (b.flags ≥ 128)) Code.rdcOp 36,
           refuseIf (b.fmt != 0) Code.rdcOp 37,
           refuseIf (b.flags / 64 % 2 == 1 && b.source != 0) Code.rdcOp 40,
           refuseIf (dField d 48 16 != 0) Code.rdcOp 48]
   | _ => [refuseIf (b.flags != 0) Code.rdcOp 36,
           refuseIf (b.fmt != 0) Code.rdcOp 37,
           refuseIf (b.slot != 0) Code.rdcOp 38,
           refuseIf (b.stage != 0) Code.rdcOp 40,
           refuseIf (b.result != 0) Code.rdcOp 46,
           refuseIf (b.err != 0) Code.rdcOp 52,
           refuseIf (b.scale != 0) Code.rdcOp 58]) ++
  [refuseIf gr.isNone Code.rdcGroup b.group] ++
  (match b.op with
   | 0 => [refuseIf (b.first != 0) Code.rdcRange 28,
           refuseIf (decide (b.count > (gr.map Group.bucketMib).getD 0 * 524288)) Code.rdcRange 32,
           refuseIf (b.stage % 64 != 0) Code.rdcRange 40,
           refuseIf (b.result % 64 != 0) Code.rdcRange 46,
           refuseIf (b.err % 64 != 0 || (b.err == 0 && (gr.map Group.mode).getD 0 / 4 % 2 == 1)) Code.rdcRange 52,
           refuseIf (b.scale % 64 != 0) Code.rdcRange 58] ++
          (if b.count = 0 then [] else s.checkRanges c (some t) (bucketRegions b)) ++
          [refuseIf (b.count != 0 && anyOverlap (bucketRegions b)) Code.xferOverlap,
           refuseIf bk.isSome Code.rdcIdBusy b.id,
           refuseIf (decide ((gr.map Group.outstanding).getD 0 ≤ (s.buckets.filter fun x => x.opened && x.g == b.group).length))
             Code.rdcTooMany b.group]
   | 1 => [refuseIf (b.first % 4096 != 0 || (bk.map Bucket.elems).elim false (fun e => decide (b.first + b.count > e)))
             Code.rdcRange 28,
           refuseIf (b.count % 4096 != 0 && (bk.map Bucket.elems).elim false (fun e => b.first + b.count != e))
             Code.rdcRange 32,
           refuseIf (decide (b.flags % 16 > 2)) Code.rdcRange 36,
           refuseIf (b.flags / 64 % 2 == 1 && decide (b.slot + ceilDiv b.count 1024 > 1024)) Code.rdcRange 38] ++
          (if b.count = 0 ∨ b.flags / 64 % 2 = 1 then [] else s.checkRanges c (some t) [b.sourceRange]) ++
          [refuseIf bk.isNone Code.rdcNotOpen b.id,
           (b.chunks.find? fun i => bk.elim false fun k => k.chunks.contains i).map fun i => (Code.rdcOverlap, i),
           refuseIf (b.count != 0 && bk.elim false Bucket.started) Code.rdcStarted b.id]
   | _ => [refuseIf (b.first != 0) Code.rdcRange 28,
           refuseIf (b.count != 0) Code.rdcRange 32,
           refuseIf bk.isNone Code.rdcNotOpen b.id])

/-! ### SYNC (Table 8.8, R245) -/

structure SyncBody where
  op : Nat
  target : Nat
  value : Nat
  device : Nat

/-- The body of a SYNC descriptor. -/
def syncBody (d : BitVec 512) : SyncBody :=
  { op := dField d 24 1, target := dField d 26 2, value := dField d 28 2, device := dField d 30 2 }

/-- The first non-zero byte of a span of a descriptor. -/
def firstNonZero (d : BitVec 512) (off n : Nat) : Option Nat :=
  ((List.range n).map (off + ·)).find? fun i => dField d i 1 != 0

/-- The body checks of a SYNC descriptor, in the order of R245. -/
def State.checkSync (s : State) (t : Nat) (d : BitVec 512) : List Refuse :=
  let b := syncBody d
  [refuseIf (decide (b.op > 2)) Code.opqDesc 24,
   refuseIf (dField d 25 1 != 0) Code.opqDesc 25,
   (firstNonZero d 32 32).map fun i => (Code.opqDesc, i),
   refuseIf (b.op == 0 && b.target != 0xFFFF) Code.opqDesc 26,
   refuseIf (b.op == 0 && b.value != 0) Code.opqDesc 28,
   refuseIf ((b.op == 0 || b.op == 1) && b.device != 0) Code.opqDesc 30] ++
  (if b.op = 1 then
    [refuseIf (!s.idValid b.target) Code.syncIdRange b.target,
     refuseIf (b.target / 256 != t) Code.syncMisuse b.target,
     refuseIf (s.idOff b.target) Code.ctlDomainOff b.target] else []) ++
  [refuseIf (b.op == 2 && (b.device == s.deviceId || decide (2 ^ s.get .capLinksIdBits ≤ b.device))) Code.opqDesc 30]

/-! ### Step 5: Nebex scope, format codes, rounding codes, block size (R86, R56, R66, R75) -/

/-- The format codes that a descriptor carries. -/
def dFormats (d : BitVec 512) : List Nat :=
  match dKind d with
  | 0 => [dBits d 32 3 0, dBits d 33 3 0, dBits d 34 3 0]
  | 1 => [dBits d 30 3 0]
  | 5 => if dField d 24 1 = 0 then [dBits d 37 3 0] else if dField d 24 1 = 1 then [dBits d 36 3 0] else []
  | _ => []

/-- The rounding codes that a descriptor carries. -/
def dRounds (d : BitVec 512) : List Nat :=
  match dKind d with
  | 0 => [dBits d 34 5 4]
  | 1 => [dBits d 29 5 4]
  | 5 => if dField d 24 1 = 1 then [dBits d 36 5 4] else []
  | _ => []

/-- Whether a descriptor lies outside the scope of Nebex-exact mode (R86). DEDUCED: a BUCKET that names FP16 is a reduction, not refused
(log 86). -/
def nebexRefuses (d : BitVec 512) : Bool :=
  match dKind d with
  | 0 => let narrow := fun c => c == 2 || c == 3 || c == 4 || c == 5
         narrow (dBits d 32 3 0) || narrow (dBits d 33 3 0) || narrow (dBits d 34 3 0)
  | 1 => true
  | _ => false

/-- Step 5 of R229. -/
def State.checkFormats (s : State) (t : Nat) (d : BitVec 512) : List Refuse :=
  [refuseIf (s.get .tileNumCtlNebex t == 1 && nebexRefuses d) Code.numNebexUnsupported,
   refuseIf ((dFormats d).any fun c => (fmtOfCode c).isNone) Code.numFormatCode,
   refuseIf ((dRounds d).any fun c => c == 3) Code.numRoundCode,
   refuseIf (dKind d == 1 && s.storedOutliers t (caskBody d) && (caskBody d).blk != 2) Code.numBlockSize]

/-- Step 6 of R229: the checks of the kind's own body. -/
def State.checkBody (s : State) (t : Nat) (d : BitVec 512) : List Refuse :=
  let kib := s.get .capMemoryScratchKib
  match dKind d with
  | 0 => checkMatrix kib d
  | 1 => s.checkCask t d
  | 2 => checkKernel kib d
  | 3 => checkKernel kib d
  | 4 => s.checkDma t d
  | 5 => s.checkBucket t d
  | 6 => s.checkSync t d
  | _ => []

/-- The whole of R229: the first failure in order. -/
def State.checkDesc (s : State) (t : Nat) (d : BitVec 512) : Refuse :=
  firstRefusal (checkCommon d ++ s.checkIds t d ++ s.checkCtx d ++ s.checkFormats t d ++ s.checkBody t d)

end Sys2Proof.Machine
end

