-- ==== Sys2Proof/Machine/Queues.lean ====
section
/-!
DEFINITION. Queues and slots (R225 to R235): pushes, fetches, completion, queue commands and pre-emption. A command whose
trigger does not hold (there is nothing to fetch, no such operation, no halt to clear by hardware) changes nothing (log 5).
-/

namespace Sys2Proof.Machine

/-- A refused control-space access recorded in BLEND_CTL_ERR (R38). -/
def State.ctlRefuse (s : State) (code addr : Nat) : State :=
  (s.set .blendCtlErrCode 0 0 code).set .blendCtlErrAddress 0 0 addr

/-- A blend apply lies between its request and its commit point (R42, R53). -/
def State.applying (s : State) : Bool := s.get .blendStatusState == 4 || s.get .blendStatusState == 5

/-- A refused push or queue command recorded in OPQ_PUSH_ERR (R227, R233). -/
def State.pushErr (s : State) (t q code v : Nat) : State :=
  ((s.set .opqPushErrCode t 0 code).set .opqPushErrQueue t 0 q).set .opqPushErrValue t 0 (v % 2 ^ 32)

/-! ### Pushes (R227) -/

/-- Why a TAIL write is refused, in the order of R227; the domain check comes before and is R38's. -/
def State.tailRefusal (s : State) (t q v : Nat) : Option Nat :=
  if s.blend.inForce.isNone then some Code.blendNone
  else if s.applying then some Code.blendApplyBusy
  else if s.get .opqCfgSizeLog2 t q = 0 then some Code.opqDisabled
  else if (v + 2 ^ 32 - s.get .opqPosIssued t q) % 2 ^ 32 > 2 ^ s.get .opqCfgSizeLog2 t q then some Code.opqRingOverrun
  else none

/-- A write of OPQ_TAIL_q. -/
def State.tailWrite (s : State) (t q v : Nat) : State :=
  if !s.domainOn (domTile t) then s.ctlRefuse Code.ctlDomainOff (Fld.opqTailTail.addr t q)
  else match s.tailRefusal t q (v % 2 ^ 32) with
    | some c => (s.pushErr t q c v).bump .opqPushRefused t
    | none => s.set .opqTailTail t q (v % 2 ^ 32)

def execOpqTailWrite (t q : Nat) (v : W64) (s : State) : Host.Outcome State Fault Refusal := .next (s.tailWrite t q v.toNat)

/-! ### Fetches (R228, R229) -/

/-- The lowest free slot of a tile. -/
def State.freeSlot (s : State) (t : Nat) : Option Nat :=
  (List.range (s.get .capQueuesSlots)).find? fun k => (s.op t k).isNone

/-- Whether a queue may fetch (R228). -/
def State.mayFetch (s : State) (t q : Nat) : Bool :=
  s.get .opqTailTail t q != s.get .opqPosFetched t q && !s.halted t q && s.get .opqCfgSizeLog2 t q != 0 &&
  decide ((s.tile t).held q < s.get .opqCfgSlotMax t q)

/-- The queue that fetches next: round-robin, starting after the queue served last (R228). -/
def State.fetcher (s : State) (t : Nat) : Option Nat :=
  let qs := (List.range 16).filter fun q => s.mayFetch t q
  match qs.find? (fun q => decide ((s.tile t).queueRr < q)) with
  | some q => some q
  | none => qs.head?

/-- The address of ring entry `i` of a queue (R225). -/
def State.ringAddr (s : State) (t q i : Nat) : Nat :=
  s.get .opqRingBase t q * 64 + 64 * (i % 2 ^ s.get .opqCfgSizeLog2 t q)

/-- A SET or consume by a non-owner sets MISUSE of the counter (Table 8.6). -/
def State.noteMisuse (s : State) (t code detail : Nat) : State :=
  if code = Code.syncMisuse then s.misuse detail 0xFFFF t code else s

/-- A descriptor fetched into a slot, its checks' answer given: refused, or ready. -/
def State.fetchInto (s : State) (ue : List Nat) (t q slot : Nat) (d : BitVec 512) (r : Refuse) : State :=
  let x := s.tile t
  let seq := s.get .opqPosFetched t q
  let o : Op := { queue := q, seq := seq, order := x.fetches, desc := d, phase := .ready }
  let s1 := s.setTile t { x.setOp slot (some o) with fetches := x.fetches + 1, queueRr := q }
  let s2 := s1.set .opqPosFetched t q ((seq + 1) % 2 ^ 32)
  match r with
  | none => s2
  | some (code, detail) => (s2.noteMisuse t code detail).failOp ue t slot code detail true

/-- One descriptor fetched and checked (R228, R229, R232). `ue` are the blocks found uncorrectable. -/
def State.fetch (s : State) (t : Nat) (ue : List Nat) : State :=
  match s.fetcher t, s.freeSlot t with
  | some q, some slot =>
    let a := s.ringAddr t q (s.get .opqPosFetched t q)
    match s.accessErr ue a 64 false with
    | some e => (s.noteErr e).fetchInto ue t q slot 0 (some (Code.opqFetchError, a))
    | none =>
      let d := descOf (s.readBytes a 64)
      s.fetchInto ue t q slot d (s.checkDesc t d)
  | _, _ => s

def execDescriptorFetch (t : Nat) (e : Ecc) (s : State) : Host.Outcome State Fault Refusal := .next ((s.corrected e.ce).fetch t e.ue)

/-! ### Completion (R231, R232, R465) -/

/-- The event counter that a completing operation advances (Table 6.12). -/
def State.countDone (s : State) (t : Nat) (o : Op) : State :=
  match dKind o.desc with
  | 0 => s.bump .tileMatrixOps t
  | 2 => s.bump .tileKernels t
  | 3 => s.bump .tileKernels t
  | _ => s

/-- Whether an operation has requests that await answers (R241, R266). -/
def State.awaits (s : State) (t slot : Nat) : Bool := s.requests.any fun r => r.tile == t && r.slot == slot

/-- The requests of a slot go on without their operation, which has ended. -/
def State.detach (s : State) (t slot : Nat) : State :=
  { s with requests := s.requests.map fun r => if r.tile = t ∧ r.slot = slot then { r with slot := noSlot } else r }

/-- An operation whose unit has finished with it, or found it failed, is completed or reported as failed. It completes once
every request of it is answered, and so does a failure with CTX_STALE_GEN (R241, R261, R266). -/
def State.opComplete (s : State) (t slot : Nat) (ue : List Nat) : State :=
  match s.op t slot with
  | none => s
  | some o =>
    if s.preempted t then s
    else match o.phase with
    | .done => if s.awaits t slot then s else (s.completeOp ue t slot).countDone t o
    | .failed code detail =>
      if code == Code.ctxStaleGen && s.awaits t slot then s else (s.failOp ue t slot code detail false).detach t slot
    | _ => s

def execOpComplete (t slot : Nat) (e : Ecc) (s : State) : Host.Outcome State Fault Refusal :=
  .next ((s.corrected e.ce).opComplete t slot e.ue)

/-! ### Queue commands (R233, R234) -/

/-- The refusal of a queue command other than FLUSH (R233, R234). -/
def State.cmdRefusal (s : State) (t q : Nat) : Option Nat :=
  if s.preempted t then some Code.opqPreempted
  else if ((s.tile t).halt q).isNone then some Code.opqNotHalted
  else none

/-- A queue is no longer halted. -/
def State.unhalt (s : State) (t q : Nat) : State := s.setTile t ((s.tile t).setHalt q none)

/-- RESUME: a refused descriptor is fetched again from its ring entry (Table 8.3). -/
def State.resumeQueue (s : State) (t q : Nat) : State :=
  match (s.tile t).halt q with
  | some (.refusal slot) =>
    let seq := ((s.op t slot).map Op.seq).getD (s.get .opqPosFetched t q)
    ((s.setOp t slot none).set .opqPosFetched t q seq).unhalt t q
  | some (.failure _) => s.unhalt t q
  | none => s

/-- SKIP and SKIP_SIGNAL: the halting descriptor is passed over; `signal` sends its signals (Table 8.3). -/
def State.skipQueue (s : State) (t q : Nat) (signal : Bool) : State :=
  match (s.tile t).halt q with
  | some (.refusal slot) =>
    let d := ((s.op t slot).map Op.desc).getD 0
    let s1 := (s.setOp t slot none).set .opqPosIssued t q ((s.get .opqPosIssued t q + 1) % 2 ^ 32)
    (if signal then (s1.sendSignals d).1 else s1).unhalt t q
  | some (.failure d) => (if signal then (s.sendSignals d).1 else s).unhalt t q
  | none => s

/-- Every fetched descriptor of a queue that has not left, and every unfetched one, is discarded (Table 8.3). -/
def State.discardQueue (s : State) (t q : Nat) : State :=
  let x := s.tile t
  let x' := { x with slots := x.slots.filter fun e => !(e.2.elim false fun o => o.queue == q && !o.hasLeft) }
  let tail := s.get .opqTailTail t q
  ((s.setTile t x').set .opqPosFetched t q tail).set .opqPosIssued t q tail

/-- FLUSH (Table 8.3, R234): in any state but OFF. -/
def State.flushQueue (s : State) (t q : Nat) : State :=
  if s.get .opqCfgSizeLog2 t q = 0 then s else (s.discardQueue t q).unhalt t q

/-- A write of OPQ_CMD_q (R233). -/
def State.queueCmd (s : State) (t q cmd : Nat) : State :=
  if cmd = 0 then s
  else if cmd = 4 then s.flushQueue t q
  else if cmd > 4 then s.pushErr t q Code.opqDesc cmd
  else match s.cmdRefusal t q with
    | some c => s.pushErr t q c cmd
    | none => if cmd = 1 then s.resumeQueue t q else s.skipQueue t q (cmd == 3)

/-- A write to a register of a tile's OPQ block, at offset `o`, which its domain must not refuse (R38). -/
def State.opqCmdOn (s : State) (t o : Nat) (f : State → State) : State :=
  if s.domainOn (domTile t) then f s else s.ctlRefuse Code.ctlDomainOff (0x140000 + t * 0x1000 + o)

/-- A queue command on its tile. -/
def State.queueCmdOn (s : State) (t q cmd : Nat) : State := s.opqCmdOn t (0x38 + 0x40 * q) fun s => s.queueCmd t q cmd

def execOpqResume (t q : Nat) (s : State) : Host.Outcome State Fault Refusal := .next (s.queueCmdOn t q 1)

def execOpqSkip (t q : Nat) (s : State) : Host.Outcome State Fault Refusal := .next (s.queueCmdOn t q 2)

def execOpqSkipSignal (t q : Nat) (s : State) : Host.Outcome State Fault Refusal := .next (s.queueCmdOn t q 3)

def execOpqFlush (t q : Nat) (s : State) : Host.Outcome State Fault Refusal := .next (s.queueCmdOn t q 4)

/-! ### Pre-emption and abandonment (R234, R249) -/

/-- Every counter of a tile takes POISON with VALUE 0 (R249); `clear`: its flags clear with the block's registers. -/
def State.poisonCounters (s : State) (t : Nat) (clear : Bool) : State :=
  (List.range (s.get .capQueuesTileSync)).foldl (fun s i =>
    let id := t * 256 + i
    let c := s.ctr id
    s.setCtr id (if clear then { value := 0, poison := true } else { c with value := 0, poison := true })) s

/-- Every core of a tile stops, its store buffer emptied, and the vector unit is bound to none; `only` limits this to one slot's
kernel. -/
def State.stopCores (s : State) (t : Nat) (only : Option Nat) : State :=
  let hit := fun c => only.elim true fun k => (s.core t c).state != .idle && (s.core t c).slot == k
  let s1 := (List.range 8).foldl (fun s c => if hit c then s.setCore t c { s.core t c with state := .idle, stores := [], loadsWait := false } else s) s
  let v := (s.tile t).vec
  if v.core.elim false hit then s1.setTile t { s1.tile t with vec := { v with core := none } } else s1

/-- The passes of a die without those of a tile that have not fired; the record of a fired one is discarded (R234). -/
def Die.dropPasses (x : Die) (t : Nat) : Die :=
  let ps := x.passes.filter fun p => p.tile != t || p.stage == .fired || p.stage == .drained
  { x with passes := ps.map fun p => if p.tile = t then { p with discarded := true } else p }

/-- A tile's cask passes abandoned (R234). -/
def State.dropPasses (s : State) (t : Nat) : State := 
  { s with dies := smMapV (fun _ => {}) (fun _ x => x.dropPasses t) s.dies }

/-- The buckets that a tile opened run on without their OPEN (Table 11.4). -/
def State.orphanBuckets (s : State) (t : Nat) : State :=
  { s with buckets := s.buckets.map fun b => if b.opened && b.tile == t then { b with orphan := true } else b }

/-- OPQ_PREEMPT.GO (R234). -/
def State.preemptGo (s : State) (t : Nat) : State :=
  if s.preempted t then s
  else
    let s1 := s.setTile t { s.tile t with preempt := .running }
    let s2 := (List.range 16).foldl (fun s q =>
      ((s.discardQueue t q).unhalt t q).set .opqStateHaltCode t q Code.opqPreempted) s1
    (((s2.stopCores t none).dropPasses t).orphanBuckets t).poisonCounters t false

def execOpqPreemptGo (t : Nat) (s : State) : Host.Outcome State Fault Refusal := .next (s.opqCmdOn t 0x410 fun s => s.preemptGo t)

/-- Whether every unit of a tile has reached its boundary: the DMA engine's writes are answered, and no pass of the tile
is under way (R234). -/
def State.unitsStopped (s : State) (t : Nat) : Bool :=
  !(s.requests.any fun r => r.tile == t) && !(s.dies.any fun e => e.2.passes.any fun p => p.tile == t)

/-- Pre-emption completes: the abandoned operations free their slots, and DONE is set (R234). -/
def State.preemptDone (s : State) (t : Nat) : State :=
  if (s.tile t).preempt = .running && s.unitsStopped t then
    (s.setTile t { s.tile t with preempt := .preempted, slots := [] }).set .opqPreemptDone t 0 1
  else s

def execOpqPreemptDone (t : Nat) (s : State) : Host.Outcome State Fault Refusal := .next (s.preemptDone t)

/-- OPQ_PREEMPT.RELEASE (R234). -/
def State.preemptRelease (s : State) (t : Nat) : State :=
  if (s.tile t).preempt = .preempted then
    (s.setTile t { s.tile t with preempt := .none }).set .opqPreemptDone t 0 0
  else s

def execOpqPreemptRelease (t : Nat) (s : State) : Host.Outcome State Fault Refusal :=
  .next (s.opqCmdOn t 0x410 fun s => s.preemptRelease t)

/-! ### What the queue registers show (Table 8.4, Table 8.11) -/

/-- OPQ_STATE_q.STATE (Table 8.4). -/
def State.queueState (s : State) (t q : Nat) : Nat :=
  if s.get .opqCfgSizeLog2 t q = 0 then 0
  else if s.halted t q then 4
  else
    match (s.tile t).head q with
    | some (_, o) => if (s.waits o.desc).1 = .unmet then 3 else 2
    | none => if (s.tile t).held q = 0 then 1 else 2

/-- The waiters on a counter: queue heads and cores that sleep on it (R240, Table 8.12). -/
def State.waitersOn (s : State) (id : Nat) : Nat :=
  let heads := (s.tiles.map fun e => ((List.range 16).filter fun q =>
    match e.2.head q with
    | some (_, o) => o.phase == .ready && (s.waits o.desc).1 == .unmet &&
        ((dField o.desc 8 2 == id && s.wait id (waitNeeds o.desc).1 == .unmet) ||
         (dField o.desc 12 2 == id && s.wait id (waitNeeds o.desc).2 == .unmet))
    | none => false).length).sum
  heads + (s.cores.filter fun e => match e.2.state with
    | .waiting i _ _ => i == id
    | _ => false).length

end Sys2Proof.Machine
end

