-- ==== Sys2Proof/Machine/Matrix.lean ====
section
/-!
DEFINITION. Digital matrix operations, folding, array faults, and the scratchpad's scrubber (R164 to R181, R199 to R201).
-/

namespace Sys2Proof.Machine

/-! ### Tile-local access and its errors (R162 to R164) -/

/-- TILE_FAULT_INFO recorded; core 0xFF when no core is involved (Table 6.12). -/
def State.faultInfo (s : State) (t addr core cause : Nat) : State :=
  ((s.set .tileFaultInfoAddress t 0 (addr % 2 ^ 32)).set .tileFaultInfoCore t 0 core).set .tileFaultInfoCause t 0 cause

/-- The code and the DETAIL with which a read error fails its operation (R164, R258, Table 9.6). -/
def MemErr.code : MemErr → Nat × Nat
  | .unmapped a => (Code.xferUnmapped, a)
  | .ue a => (Code.memUe, a)
  | .scratchUe _ _ => (Code.tileScratchUe, 0)
  | .accumUe _ _ => (Code.tileAccumUe, 0)

/-- The tile and the tile-local address that a tile's own error names. -/
def MemErr.tileAt : MemErr → Option (Nat × Nat)
  | .scratchUe t o => some (t, o)
  | .accumUe t o => some (t, accumBase + o)
  | _ => none

/-- A read error met by an operation: counted and recorded, and the operation fails (R164, R258). -/
def State.opErr (s : State) (t slot : Nat) (e : MemErr) : State :=
  let s1 := s.noteErr e
  let s2 := match e.tileAt with
    | some (u, o) => (s1.faultInfo u o 0xFF 0).tileFault u e.code.1 slot (s1.descAt t slot)
    | none => s1
  s2.modOp t slot fun o => o.fail e.code.1 e.code.2

/-! ### Folding (R168, R169, R173) -/

/-- The arrays that a tile may use: enabled and not fenced (R168). -/
def State.usableArrays (s : State) (t : Nat) : Nat :=
  (BitVec.ofNat 8 (s.get .capTileArraysMask 0 t) &&&
    ~~~(BitVec.ofNat 8 (s.get .tileArrayFenceMask t ||| s.get .tileArrayStatusAutoFenced t))).toNat

/-- The block depth FK of an operand format (Table 6.3). -/
def foldDepth (code : Nat) : Nat := if code = 5 then 128 else if code = 3 ∨ code = 4 then 64 else 32

/-- A block of B: its N-band, its K-block, and the halves that it takes along K and along N (R169). -/
structure FoldBlock where
  band : Nat
  kBlk : Nat
  kHalves : Nat
  nHalves : Nat

/-- The blocks of a K × N extent, band by band, in ascending K (R169 step 1). -/
def foldBlocks (fk n k : Nat) : List FoldBlock :=
  (List.range (ceilDiv n 32)).flatMap fun c => (List.range (ceilDiv k fk)).map fun g =>
    { band := c, kBlk := g, kHalves := ceilDiv (min fk (k - fk * g)) (fk / 2), nHalves := ceilDiv (min 32 (n - 32 * c)) 16 }

/-- The quadrants 4 × array + quadrant that are free for a round. -/
def freeQuads (usable held : Nat) : List Nat :=
  (List.range 32).filter fun x => usable / 2 ^ (x / 4) % 2 == 1 && held / 2 ^ x % 2 == 0

/-- The quadrants that a block takes of the free ones: a whole array, or any quadrants in ascending order (R169 steps 2, 3). -/
def takeQuads (need : Nat) (free : List Nat) : Option (List Nat) :=
  if need = 4 then
    ((List.range 8).find? fun a => (List.range 4).all fun i => free.contains (4 * a + i)).map fun a =>
      (List.range 4).map fun i => 4 * a + i
  else if need ≤ free.length then some (free.take need) else none

/-- One round: the blocks placed, and those that wait for the next. -/
def foldRound : List FoldBlock → List Nat → List (FoldBlock × List Nat) × List FoldBlock
  | [], _ => ([], [])
  | b :: bs, free =>
    match takeQuads (b.kHalves * b.nHalves) free with
    | none => ([], b :: bs)
    | some qs =>
      let r := foldRound bs (free.filter fun x => !qs.contains x)
      ((b, qs) :: r.1, r.2)

/-- The rounds of a fold on the quadrants `free`. Where the next block fits into none of them it waits until other operations have
released theirs, and then `all` usable quadrants are free (log 13). `fuel` bounds the rounds by the count of blocks. -/
def foldRounds (all : List Nat) : Nat → List FoldBlock → List Nat → List (List (FoldBlock × List Nat))
  | 0, _, _ => []
  | fuel + 1, bs, free =>
    if bs.isEmpty then []
    else
      let r := foldRound bs free
      if r.1.isEmpty then
        let r := foldRound bs all
        r.1 :: foldRounds all fuel r.2 all
      else r.1 :: foldRounds all fuel r.2 free

/-- The rounds of a matrix operation on the arrays and quadrants that it found. -/
def Op.rounds (o : Op) : List (List (FoldBlock × List Nat)) :=
  let b := matrixBody o.desc
  let bs := foldBlocks (foldDepth b.fmtA) b.n b.k
  foldRounds (freeQuads o.usable 0) bs.length bs (freeQuads o.usable o.heldQuads)

/-- The quadrants that an operation holds in any of its rounds, as a 32-bit mask (R173). -/
def Op.quadMask (o : Op) : Nat :=
  if dKind o.desc != 0 || (matrixBody o.desc).isNoop then 0
  else ((List.range 32).filter fun x => o.rounds.any fun r => r.any fun p => p.2.contains x).foldl (fun m x => m + 2 ^ x) 0

/-- The quadrants that a tile's matrix operations hold, in any of their rounds. -/
def Tile.inUse (x : Tile) : Nat := x.ops.foldl (fun m p => if p.2.hasLeft then m ||| p.2.quadMask else m) 0

/-- The quadrants of every array of which a mask holds some. -/
def wholeArrays (mask : Nat) : Nat :=
  ((List.range 8).filter fun a => mask / 2 ^ (4 * a) % 16 != 0).foldl (fun m a => m + 15 * 2 ^ (4 * a)) 0

/-- The quadrants that a tile's matrix operations keep from an operation of rate class `fk`: those that they hold, and the rest of an
array that they hold at another rate class (R173). Each holds its quadrants until it completes (log 13). -/
def Tile.heldQuads (x : Tile) (fk : Nat) : Nat :=
  x.ops.foldl (fun m p =>
    if p.2.hasLeft then m ||| (if foldDepth (matrixBody p.2.desc).fmtA = fk then p.2.quadMask else wholeArrays p.2.quadMask) else m) 0

/-- The lane mask of an operation in an array (R173). -/
def Op.lanes (o : Op) (array : Nat) : Nat := o.quadMask / 2 ^ (4 * array) % 16

/-- The columns of the result to which a quadrant contributes in some round. The pieces of a block take its quadrants with
the K half running fastest (log 13). -/
def Op.columnsOf (o : Op) (array quad : Nat) : List Nat :=
  let b := matrixBody o.desc
  (o.rounds.flatten.flatMap fun p =>
    match p.2.findIdx? (fun x => x == 4 * array + quad) with
    | none => []
    | some i =>
      let h := i / p.1.kHalves
      (List.range 16).map fun j => 32 * p.1.band + 16 * h + j).filter fun j => decide (j < b.n)

/-- The array-clocks that an operation occupies: rounds of max(M, 32) clocks on the arrays used, 8 times as long in
Nebex-exact mode (R169, R87, Table 6.3). -/
def Op.busy (o : Op) (nebex : Bool) : Nat :=
  let b := matrixBody o.desc
  let arrays := (o.rounds.map fun r => ((List.range 8).filter fun a => r.any fun p => p.2.any fun x => x / 4 == a).length).sum
  arrays * max b.m 32 * (if nebex then 8 else 1)

/-! ### Operands (R60, R63, R176) -/

/-- One element's code from the bytes of its row; F4 elements lie two to a byte, the lower-indexed in bits 3 to 0 (R60). -/
def elemCode (code : Nat) (row : List Byte) (i : Nat) : Nat :=
  if code = 5 then (row.getD (i / 2) 0).toNat / 16 ^ (i % 2) % 16
  else
    let w := fmtWidth code / 8
    leNat ((row.drop (i * w)).take w)

/-- A row of `len` operand values of a tensor of `rows` rows at a tile-local offset, with FLUSHED (R63 step 1, R70, R176). -/
def State.tensorRow (s : State) (t off code blk rows len i : Nat) (ftz : Bool) : List FVal × Nat :=
  let rb := rowBytes code len
  let bytes := s.readBytes (tileAddr t (off + i * rb)) rb
  let sr := scaleRowBytes code blk len
  let scales := s.readBytes (tileAddr t (off + rows * rb + i * sr)) sr
  let es := (List.range len).map fun k =>
    let c := elemCode code bytes k
    if isBlockFmt code then
      (((fmtOfCode code).map fun f => scaleElem f (scales.getD (k / blockSize blk) 0).toNat c).getD .nan, 0)
    else readOperand code ftz c
  (es.map Prod.fst, es.foldl (fun f e => f ||| e.2) 0)

/-- The tile-local address of an element of accumulator slot `slot` (Table 6.2). -/
def slotAddr (slot i j : Nat) : Nat := accumBase + 0x1000 * slot + 4 * (32 * i + j)

/-- The tile-local address of the slot element of result element (i, j) (R179). -/
def MatrixBody.slotElem (b : MatrixBody) (i j : Nat) : Nat :=
  slotAddr (b.slot + i / 32 * ceilDiv b.n 32 + j / 32) (i % 32) (j % 32)

/-! ### Drain functions (R199 to R201, Table 7.5) -/

/-- D = f′(z) for a drain function. -/
def drainD (fn : Nat) (z : FVal) : FVal :=
  let one : FVal := .fin false 1 0
  let zero : FVal := .fin false 0 0
  let pos := zero.lt z
  match fn with
  | 0 => one
  | 1 => if z.isNan then .nan else if pos then one else zero
  | 2 => if z.isNan then .nan else if pos then one else .fin false 1 (-6)
  | 3 => if z.isNan then .nan else if pos then (r32 false (z.mul (.fin false 2 0))).1 else zero
  | 9 => z
  | _ =>
    match z with
    | .nan => .nan
    | .inf n => if (fn = 4 ∨ fn = 5 ∨ fn = 8) ∧ !n then one else zero
    | x => derivValue fn x

/-- The drain applied to one FP32 result: x × D with RNE (R201). -/
def drainApply (fn : Nat) (ftz : Bool) (x z : FVal) : FVal × Nat :=
  if fn = 0 then (x, 0)
  else
    let d := readOperand 0 ftz (FFmt.f32.round .rne (drainD fn z)).bits
    let y := r32 ftz (x.mul d.1)
    (y.1, d.2 ||| y.2)

/-! ### The product -/

/-- The modes of TILE_NUM_CTL that an operation runs under. -/
structure NumMode where
  ftz : Bool
  ordered : Bool
  nebex : Bool

def State.numMode (s : State) (t : Nat) : NumMode :=
  let nb := s.get .tileNumCtlNebex t == 1
  { ftz := s.get .tileNumCtlFtz t == 1 || nb, ordered := s.get .tileNumCtlOrdered t == 1, nebex := nb }

/-- One dot product in the tile's mode (R80, R83, R85); `n` numbers the free value of fast mode. -/
def dotIn (md : NumMode) (o : Op) (n elem : Nat) (a b : List FVal) (c0 : FVal) : FVal × Nat :=
  if md.nebex then nebexDot o.seed o.epoch elem 0 (a.zip b) c0
  else if md.ordered then orderedDot md.ftz a b c0
  else fastDot md.ftz n a b c0

/-- What c0 is for a result element (Table 6.7). -/
def State.addendOf (s : State) (t : Nat) (b : MatrixBody) (ftz : Bool) (i j : Nat) : FVal × Nat :=
  if b.accMode ≥ 2 then readOperand 0 ftz (s.readNat (tileAddr t (b.slotElem i j)) 4)
  else if b.usesAdd then readOperand 0 ftz (s.readNat (tileAddr t (b.addOff + i * rowBytes 0 b.n + 4 * j)) 4)
  else (FVal.negZero, 0)

/-- c0 as the accumulator of the tile's mode takes it: in Nebex-exact mode in BF16 (R85), an FP32 addend that is no BF16 value rounded
with a free draw (log 15). -/
def startOf (md : NumMode) (o : Op) (elem : Nat) (c0 : FVal × Nat) : FVal × Nat :=
  if md.nebex then
    let r := roundFtz .bf16 true (.sr (Config.registerDraw o.seed o.epoch elem [(FFmt.f32.round .rne c0.1).bits] % 65536)) c0.1
    (FFmt.bf16.decode r.1, c0.2 ||| r.2)
  else c0

/-- The FP32 results of a matrix operation, row by row, before the drain, with the flags raised. -/
def State.matrixRows (s : State) (t : Nat) (o : Op) : List (List FVal) × Nat :=
  let b := matrixBody o.desc
  let md := s.numMode t
  let as := (List.range b.m).map fun i => s.tensorRow t b.aOff b.fmtA b.blkA b.m b.k i md.ftz
  let bs := if b.transB then
      let ks := (List.range b.k).map fun r => s.tensorRow t b.bOff b.fmtB b.blkB b.k b.n r md.ftz
      (List.range b.n).map fun j => (ks.map fun r => r.1.getD j .nan, ks.foldl (fun f r => f ||| r.2) 0)
    else (List.range b.n).map fun j => s.tensorRow t b.bOff b.fmtB b.blkB b.n b.k j md.ftz
  let rs := as.zipIdx.map fun (a, i) => bs.zipIdx.map fun (c, j) =>
    let c0 := startOf md o (i * b.n + j) (s.addendOf t b md.ftz i j)
    let v := dotIn md o (s.free + i * b.n + j) (i * b.n + j) a.1 c.1 c0.1
    (v.1, v.2 ||| c0.2 ||| a.2 ||| c.2)
  (rs.map fun r => r.map Prod.fst, rs.flatten.foldl (fun f e => f ||| e.2) 0)

/-- The rounding code of a result's store: SR in Nebex-exact mode (R85). -/
def storeRc (nebex : Bool) (rc : Nat) : Nat := if nebex then 2 else rc

/-- The bytes of a list of element codes: F4 codes two to a byte (R60). -/
def packCodes (code : Nat) (cs : List Nat) : List Byte :=
  if code = 5 then
    (List.range (ceilDiv cs.length 2)).map fun i => BitVec.ofNat 8 (cs.getD (2 * i) 0 % 16 + cs.getD (2 * i + 1) 0 % 16 * 16)
  else cs.flatMap fun c => leBytes (fmtWidth code / 8) c

/-- A row cut into blocks of `n` elements; `fuel` bounds them. -/
def cutBlocks (n : Nat) : Nat → List FVal → List (List FVal)
  | 0, _ => []
  | fuel + 1, xs => if xs.isEmpty then [] else xs.take n :: cutBlocks n fuel (xs.drop n)

/-- A row of values encoded: element bytes, scale bytes and flags. The last block of a block-scaled row is padded with +0
as far as the row's own padding reaches (R60, R176). `elem0` is the `elem` of the row's first element (R68). -/
def encodeRow (code blk rc : Nat) (ftz : Bool) (seed : W64) (epoch elem0 : Nat) (xs : List FVal) :
    List Byte × List Byte × Nat :=
  let dr := fun i => draw seed epoch (elem0 + i) 0
  if isBlockFmt code then
    let n := blockSize blk
    let bs := (cutBlocks n xs.length xs).zipIdx.map fun p =>
      encodeBlock code rc ((List.range p.1.length).map fun i => dr (n * p.2 + i)) p.1
    let cs := bs.flatMap fun b => b.2.1
    let pad := alignUp xs.length n - xs.length
    ((packCodes code (cs ++ List.replicate pad 0)).take (rowBytes code xs.length),
      bs.map fun b => BitVec.ofNat 8 b.1, bs.foldl (fun f b => f ||| b.2.2) 0)
  else
    let es := xs.zipIdx.map fun p => encodePlain code ftz rc (dr p.2) p.1
    (packCodes code (es.map Prod.fst), [], es.foldl (fun f e => f ||| e.2) 0)

/-- A row of C stored, with the flags raised (R63 step 4, R176, R177). -/
def State.storeRow (s : State) (t : Nat) (o : Op) (md : NumMode) (i : Nat) (xs : List FVal) : State × Nat :=
  let b := matrixBody o.desc
  let off := b.cOff + i * rowBytes b.out b.n
  let elem0 := if md.nebex then i * b.n else tileAddr t off * 8 / fmtWidth b.out
  let e := encodeRow b.out b.blkC (storeRc md.nebex b.rc) md.ftz o.seed o.epoch elem0 xs
  let soff := b.cOff + b.m * rowBytes b.out b.n + i * scaleRowBytes b.out b.blkC b.n
  ((s.writeBytes (tileAddr t off) e.1).writeBytes (tileAddr t soff) e.2.1, e.2.2)

/-- A row of slot elements stored (R179). -/
def State.storeSlots (s : State) (t : Nat) (b : MatrixBody) (i : Nat) (xs : List FVal) : State :=
  xs.zipIdx.foldl (fun s p =>
    s.writeBytes (tileAddr t (b.slotElem i p.2)) (leBytes 4 (FFmt.f32.round .rne p.1).bits)) s

/-- The pre-activations of a row. -/
def State.preRow (s : State) (t : Nat) (b : MatrixBody) (ftz : Bool) (i : Nat) : List FVal × Nat :=
  if b.fn = 0 then ([], 0) else s.tensorRow t b.preOff 1 0 b.m b.n i ftz

/-- One row's results delivered (Table 6.7, R177, R201), reading pre-activations from the state before the operation. -/
def State.deliverRow (s0 : State) (t : Nat) (o : Op) (md : NumMode) (acc : State × Nat) (i : Nat) (xs : List FVal) :
    State × Nat :=
  let b := matrixBody o.desc
  let s1 := if b.accMode = 1 ∨ b.accMode = 2 then acc.1.storeSlots t b i xs
    else if b.accMode = 3 then acc.1.storeSlots t b i (xs.map fun _ => FVal.negZero) else acc.1
  if b.usesC then
    let z := s0.preRow t b md.ftz i
    let ys := xs.zipIdx.map fun p => drainApply b.fn md.ftz p.1 (z.1.getD p.2 .nan)
    let r := s1.storeRow t o md i (ys.map Prod.fst)
    (r.1, acc.2 ||| z.2 ||| r.2 ||| ys.foldl (fun f y => f ||| y.2) 0)
  else (s1, acc.2)

/-- The whole product computed and delivered. -/
def State.matrixRun (s : State) (t slot : Nat) (o : Op) : State :=
  let md := s.numMode t
  let b := matrixBody o.desc
  let rs := s.matrixRows t o
  let r := rs.1.zipIdx.foldl (fun a p => s.deliverRow t o md a p.2 p.1) (s, rs.2)
  let fl := r.2 % 32
  let s1 := ({ r.1 with free := s.free + b.m * b.n }.raiseFlags t fl).bump .tileArrayBusy t 0 (o.busy md.nebex)
  s1.modOp t slot fun o => { o with phase := .done, flags := o.flags ||| fl, fmt := b.fmtA }

/-- The first error that reading a matrix operation's operands meets, in the order A, B, addend, pre-activations, slots. -/
def State.matrixErr (s : State) (t : Nat) (ue : List Nat) (b : MatrixBody) : Option MemErr :=
  let rs := b.inputs ++ (if b.accMode ≥ 2 then [(slotAddr b.slot 0 0, 0x1000 * b.slots)] else [])
  rs.findSome? fun r => s.accessErr ue (tileAddr t r.1) r.2 false

/-- A MATRIX descriptor leaves its queue and is folded (R176 to R179). -/
def State.matrixOp (s : State) (t q : Nat) (ue : List Nat) : State :=
  match s.taking t q .fold [0] with
  | none => s
  | some (slot, o) =>
    let r := s.leave t q slot o .fold
    let o' := { r.2 with usable := s.usableArrays t, heldQuads := (s.tile t).heldQuads (foldDepth (matrixBody o.desc).fmtA) }
    let s1 := r.1.setOp t slot (some o')
    let b := matrixBody o.desc
    if b.isNoop then s1.modOp t slot fun o => { o with phase := .done }
    else match s1.matrixErr t ue b with
      | some e => s1.opErr t slot e
      | none => s1.matrixRun t slot o'

def execMatrixOp (t q : Nat) (e : Ecc) (s : State) : Host.Outcome State Fault Refusal := .next ((s.corrected e.ce).matrixOp t q e.ue)

/-! ### Quadrant faults and fences (R174, R175) -/

/-- The operation whose lane mask covers a quadrant (R174 step 1). -/
def Tile.coveredBy (x : Tile) (array quad : Nat) : Option (Nat × Op) :=
  x.ops.find? fun p => p.2.hasLeft && p.2.lanes array / 2 ^ quad % 2 == 1

/-- NaN written to one element of C: in F4, which has none, the element's block becomes non-finite (R174, R74). -/
def State.poisonElem (s : State) (t : Nat) (b : MatrixBody) (i j : Nat) : State :=
  match fmtOfCode b.out with
  | none => s
  | some f =>
    let off := b.cOff + i * rowBytes b.out b.n
    let soff := b.cOff + b.m * rowBytes b.out b.n + i * scaleRowBytes b.out b.blkC b.n + j / blockSize b.blkC
    if b.out = 5 then s.writeBytes (tileAddr t soff) [0xFF]
    else s.writeBytes (tileAddr t (off + j * (f.width / 8))) (leBytes (f.width / 8) f.nanCode)

/-- NaN written to every output element of an operation in the columns given, and to the slot elements where it
accumulates (R174 step 2). -/
def State.poisonOutputs (s : State) (t : Nat) (b : MatrixBody) (cols : List Nat) : State :=
  (List.range b.m).foldl (fun s i => cols.foldl (fun s j =>
    let s1 := if b.usesC then s.poisonElem t b i j else s
    if b.usesSlots then s1.writeBytes (tileAddr t (b.slotElem i j)) (leBytes 4 FFmt.f32.nanCode) else s1) s) s

/-- The fault count of an array advanced, and the array fenced when it reaches FENCE_AFTER, but never the last (R175). -/
def State.countArrayFault (s : State) (t array : Nat) : State :=
  let all := s.get .tileArrayFaultsCount t
  let c := all / 16 ^ array % 16
  let s1 := if c < 15 then s.set .tileArrayFaultsCount t 0 (all + 16 ^ array) else s
  let left := s1.usableArrays t
  if min (c + 1) 15 ≥ s.get .tileCtlFenceAfter t && left / 2 ^ array % 2 == 1 && left != 2 ^ array then
    (s1.set .tileArrayStatusAutoFenced t 0 (s1.get .tileArrayStatusAutoFenced t ||| 2 ^ array)).logCode Code.tileArrayFenced
      (unitTile t) { arg0 := array }
  else s1

/-- The operation that a quadrant's fault meets, if any: its outputs poisoned, failed, and recorded (R174). -/
def State.faultOutputs (s : State) (t array quad : Nat) : State :=
  match (s.tile t).coveredBy array quad with
  | none => s
  | some (slot, o) =>
    let s1 := s.poisonOutputs t (matrixBody o.desc) (o.columnsOf array quad)
    let s2 := s1.modOp t slot fun o => o.fail Code.tileArrayParity 0
    s2.tileFault t Code.tileArrayParity slot o.desc array (2 ^ quad) (o.lanes array)

/-- A quadrant of an enabled array detects a fault (R174, R175): each fault counts, whether or not an operation meets it. -/
def State.quadrantFault (s : State) (t array quad : Nat) : State :=
  if s.domainOn (domTile t) && s.get .capTileArraysMask 0 t / 2 ^ array % 2 == 1 then
    ((s.faultOutputs t array quad).bump .tileParityFaults t).countArrayFault t array
  else s

def execQuadrantFault (t array quad : Nat) (s : State) : Host.Outcome State Fault Refusal := .next (s.quadrantFault t array quad)

/-! ### The scrubber (R164) -/

/-- The scrubber reads a word of the scratchpad or of the accumulator buffer. -/
def State.scratchScrub (s : State) (t addr : Nat) (o : EccOutcome) : State :=
  if s.get .tileCtlScrub t = 0 || !s.domainOn (domTile t) then s
  else
    let acc := decide (accumBase ≤ addr)
    match o with
    | .clean => s
    | .corrected => s.bump (if acc then .tileAccumCe else .tileScratchCe) t
    | .uncorrectable => (s.bump (if acc then .tileAccumUe else .tileScratchUe) t).faultInfo t addr 0xFF 0

def execScratchScrub (t addr : Nat) (o : EccOutcome) (s : State) : Host.Outcome State Fault Refusal :=
  .next (s.scratchScrub t addr o)

end Sys2Proof.Machine
end

