-- ==== Sys2Proof/Machine/Cask.lean ====
section
/-!
DEFINITION. Cask passes (chapter 4): inputs as pulses, phases, saturation, the digital fallback, result rings, priority and
aborts, and the open-line and DAC tests.
-/

namespace Sys2Proof.Machine

/-! ### Dies, macros and cells -/

def Die.mac (x : Die) (m : Nat) : Mac := smGet (fun _ => {}) x.macs m
def Die.setMac (x : Die) (m : Nat) (y : Mac) : Die := { x with macs := smPut (fun _ => {}) m y x.macs }

/-- A cell pair's level in units of 1/256 level (R90, R146). -/
def State.cellLevel (s : State) (key row col : Nat) : Int := smGet (fun _ => 0) s.cells ((key * 1024 + row) * 1024 + col)

/-- The BF16 scale of a data column of a layer (R90). -/
def State.colScale (s : State) (key col : Nat) : BitVec 16 := smGet (fun _ => 0) s.scales (key * 1024 + col)

/-- The value of a column scale. -/
def State.scaleVal (s : State) (key col : Nat) : FVal := FFmt.bf16.decode (s.colScale key col).toNat

/-- The macro layers that a request's hold covers: one, or all eight for a REPAIR_MACRO (R154). -/
def WReq.holds (r : WReq) (m l : Nat) : Bool := r.stage == .held && r.mac == m && (r.kind == 4 || r.layer == l)

/-- Whether the write path holds a layer. -/
def State.layerHeld (s : State) (d m l : Nat) : Bool := (s.die d).reqs.any fun r => r.holds m l

/-- A write journal entry of a layer (R156). -/
def State.wjEntry (s : State) (k : Nat) : Option WJEntry := smGet (fun _ => none) s.journal.writes k

/-- Whether a layer is incomplete: it has a write journal entry and no request holds it (R157). -/
def State.incomplete (s : State) (d m l : Nat) : Bool := (s.wjEntry (layerKey d m l)).isSome && !s.layerHeld d m l

/-- Whether a layer is unavailable to passes (R114, R157). -/
def State.unavailable (s : State) (d m l : Nat) : Bool := s.layerHeld d m l || (s.wjEntry (layerKey d m l)).isSome

/-- Whether the step driver holds the passes of a macro layer back: FLUSH_OVERLAP is 0, and a request that it pushed for the macro layer
has not ended (R212; log 76). -/
def State.flushHolds (s : State) (d m l : Nat) : Bool :=
  s.svc.holds.contains (layerKey d m l) && (s.die d).reqs.any fun q => q.mac == m && q.layer == l

/-- CASK_ERR of a die recorded (Table 4.12). -/
def State.caskErr (s : State) (d code mac layer : Nat) (row : Bool) (line : Nat) : State :=
  ((((s.set .caskErrCode d 0 code).set .caskErrMacro d 0 mac).set .caskErrLayer d 0 layer).set .caskErrRow d 0
    (if row then 1 else 0)).set .caskErrLine d 0 line

/-! ### Inputs as pulses (R94 to R99, R118) -/

/-- The quanta of an F4 code: twice its E2M1 magnitude (Table 4.1). -/
def f4Quanta (c : Nat) : Nat := [0, 1, 2, 3, 4, 6, 8, 12].getD (c % 8) 0

/-- A magnitude with a sign. -/
def signedOf (neg : Bool) (n : Nat) : Int := if neg then -(n : Int) else n

/-- A magnitude shifted right with RNE (R96). -/
def shiftRne (n : Nat) (k : Int) : Nat := (rneRat ((n : Rat) / pow2 k)).toNat

/-- A block of an F4 input: scale byte, element codes, outlier shift, outliers as index and q. -/
structure F4Block where
  scale : Nat
  codes : List Nat
  k : Nat
  outs : List (Nat × Int)

/-- The outlier quantum exponent of a block (R109): v + k - 1, where v = e - 1. -/
def F4Block.vOut (b : F4Block) : Int := (b.scale : Int) - 128 + b.k - 1

/-- The largest of a list of exponents; none for an empty list. -/
def maxInt? : List Int → Option Int
  | [] => none
  | x :: xs => some (xs.foldl max x)

/-- A lone all-zero vector takes the kind `zero` (R99). -/
def PassInput.settle (i : PassInput) (k : InputKind) : PassInput :=
  { i with kind := if i.rows.isEmpty && i.low.isEmpty && i.outs.isEmpty then .zero else k }

/-- An F4 input aligned to its vector (R95, R96, R98, R104, R109): `n` elements a block, `rows` driven lines from `first`. -/
def f4Input (first rows n : Nat) (blocks : List F4Block) : PassInput :=
  if blocks.any fun b => b.scale == 0xFF then { kind := .nonfinite }
  else
    let live := blocks.zipIdx.filter fun b => b.1.scale != 0
    let vp := maxInt? (live.map fun b => (b.1.scale : Int) - 128)
    let es := live.flatMap fun b => (b.1.codes.zipIdx.map fun c => (b.2 * n + c.2, c.1, vp.getD 0 - ((b.1.scale : Int) - 128))).filter
      fun e => decide (e.1 < rows) && f4Quanta e.2.1 != 0
    let os := live.flatMap fun b => b.1.outs.map fun o => (b.2 * n + o.1, o.2, b.1.vOut)
    let os := os.filter fun o => decide (o.1 < rows) && o.2.1 != 0
    let vo := (maxInt? (os.map fun o => o.2.2)).getD 0
    let rs := es.map fun e => (first + e.1, signedOf (e.2.1 / 8 % 2 == 1) (shiftRne (f4Quanta e.2.1) e.2.2))
    let ls := os.map fun o => (first + o.1, signedOf (decide (o.2.1 < 0)) (shiftRne (2 * o.2.1.natAbs) (vo - o.2.2)))
    let inp : PassInput :=
      { rows := rs.filter fun r => r.2 != 0, outs := ls.filter fun r => r.2 != 0, vp := vp, vo := vo,
        aligned := es.any (fun e => decide (0 < e.2.2)) || os.any fun o => decide (o.2.2 < vo) }
    inp.settle .f4

/-- Magnitudes of a vector in units of 2 ^ u, as lines and signed integers (R95, R118). -/
def unitMags (first : Nat) (u : Int) (xs : List FVal) : List (Nat × Int) :=
  xs.zipIdx.map fun p => (first + p.2, rneRat (p.1.toRat / pow2 u))

/-- The unit exponent of a vector whose largest finite magnitude is `m` (R95, R118): `lo` is 6 or 13. -/
def unitOf (m : FVal) (lo lim : Nat) : Int :=
  let u := m.log2 - lo
  if rneRat (m.abs.toRat / pow2 u) > lim then u + 1 else u

/-- An I8 input and its flags: non-finite elements are handled by the caller (R95, R97, R99). -/
def i8Input (first : Nat) (xs : List FVal) : PassInput × Nat :=
  let m := maxMag xs
  if m.isZero then ({ kind := .zero }, 0)
  else if m.lt (.fin false 1 (-126)) then ({ kind := .zero }, Flag.underflow)
  else
    let u := unitOf m 6 127
    let rs := (unitMags first u xs).map fun r => (r.1, 2 * r.2)
    (({ rows := rs.filter fun r => r.2 != 0, vp := some (u - 1) } : PassInput).settle .i8, 0)

/-- A transposed input: the column scales folded in, and the two slices (R118). -/
def g16Input (first code : Nat) (xs : List Nat) (scales : List FVal) : PassInput :=
  let gs := (xs.zip scales).map fun p => (((fmtOfCode code).map fun f => f.decode p.1).getD .nan, p.2)
  if gs.any fun g => !g.1.isFinite || !g.2.isFinite then { kind := .nonfinite, xs := xs }
  else
    let ys := gs.map fun g => g.1.mul g.2
    let m := maxMag ys
    if m.isZero then { kind := .zero, xs := xs }
    else
      let u := unitOf m 13 16383
      let ms := unitMags first u ys
      let hi := ms.map fun r => (r.1, signedOf (decide (r.2 < 0)) (2 * (r.2.natAbs / 128)))
      let lo := ms.map fun r => (r.1, signedOf (decide (r.2 < 0)) (2 * (r.2.natAbs % 128)))
      ({ rows := hi.filter fun r => r.2 != 0, low := lo.filter fun r => r.2 != 0, vp := some (u - 1), xs := xs } : PassInput).settle .g16

/-- A prepared input: what it raised, how often it was repeated at a wider format, and the format that it completes in. -/
structure Prep where
  input : PassInput
  flags : Nat := 0
  repeats : Nat := 0
  fmt : Nat

/-- I8 quantisation on read, with the BF16 attempt that a non-finite element leads to (R97, R98). -/
def prepI8 (first : Nat) (f8rep : Bool) (xs : List FVal) (flags repeats : Nat) : Prep :=
  if xs.any fun x => !x.isFinite then
    let fl := flags ||| Flag.nonfinite ||| Flag.overflow
    if f8rep then
      { input := { kind := .bf16, xs := xs.map fun x => (encodePlain 1 false 0 0 x).1 }, flags := fl, repeats := repeats + 1, fmt := 1 }
    else { input := { kind := .nonfinite }, flags := fl, repeats := repeats, fmt := 3 }
  else
    let r := i8Input first xs
    { input := r.1, flags := flags ||| r.2, repeats := repeats, fmt := 3 }

/-- F4 quantisation on read: blocks of 64, the outlier path, and the F8a attempt in I8 mode on a trigger (R75, R97, Table 3.6). -/
def prepF4 (first ratio : Nat) (outlier f8rep : Bool) (xs : List FVal) : Prep :=
  let cut := cutBlocks 64 xs.length xs
  let padded := cut.map fun b => b ++ List.replicate (64 - b.length) (.fin false 0 0)
  let bs := padded.map fun b => if outlier then outlierSplit ratio b else
    let e := encodeBlock 5 0 [] b
    { scale := e.1, codes := e.2.1, flags := e.2.2 }
  let fl := bs.foldl (fun f b => f ||| b.flags) 0
  if fl &&& (Flag.overflow ||| Flag.underflow ||| Flag.nonfinite ||| Flag.outlierOvf) ≠ 0 then prepI8 first f8rep xs fl 1
  else { input := f4Input first xs.length 64 (bs.map fun b => ⟨b.scale, b.codes, b.k, b.outs⟩), flags := fl, fmt := 5 }

/-- The sidecar of a stored block (Table 3.5): K, and the outliers with their indices. -/
def sidecarParts (w : Nat) : Nat × List (Nat × Int) :=
  (w / 8 % 8, (List.range (min (w % 8) 4)).map fun j => (w / 2 ^ (8 + 6 * j) % 64, signed 8 (w / 2 ^ (32 + 8 * j))))

/-- Where vector `v` of a descriptor and its scales lie (R125): element bytes, blocks, scale bytes, sidecar bytes. -/
structure VecPlace where
  src : Nat
  bytes : Nat
  scale : Nat
  blocks : Nat
  side : Nat

/-- The places of vector `v`. -/
def CaskBody.place (b : CaskBody) (v : Nat) : VecPlace :=
  let bytes := ceilDiv (b.rows * fmtWidth b.fmt) 8
  let nb := ceilDiv b.rows (blockSize b.blk)
  { src := b.src + v * alignUp bytes 64, bytes := bytes, scale := b.scale + v * nb, blocks := nb,
    side := alignUp (b.scale + b.vectors * nb) 64 + 8 * nb * v }

/-- The ranges that a pass reads, in the order elements, scales, sidecar. -/
def CaskBody.reads (b : CaskBody) (v : Nat) (outlier : Bool) : List (Nat × Nat) :=
  let p := b.place v
  [(p.src, p.bytes)] ++ (if isBlockFmt b.fmt then [(p.scale, p.blocks)] else []) ++
    (if b.fmt = 5 ∧ outlier then [(p.side, 8 * p.blocks)] else [])

/-- The source values of vector `v` (R57, R59, R125). -/
def State.caskValues (s : State) (b : CaskBody) (v : Nat) : List FVal :=
  let p := b.place v
  let raw := s.readBytes p.src p.bytes
  let sc := s.readBytes p.scale p.blocks
  (List.range b.rows).map fun k =>
    let c := elemCode b.fmt raw k
    match fmtOfCode b.fmt with
    | none => .nan
    | some f => if isBlockFmt b.fmt then scaleElem f (sc.getD (k / blockSize b.blk) 0).toNat c else f.decode c

/-- The input of vector `v` prepared under the tile's number controls (R94 to R99, R118). DEDUCED: a CODE or DIAG pass, which never takes
the fallback (R105), takes no BF16 attempt either and is an unfired pass of R98 (log 92). -/
def State.caskPrep (s : State) (t : Nat) (b : CaskBody) (v : Nat) : Prep :=
  let outlier := s.get .tileNumCtlOutlier t == 1
  let f8rep := s.get .tileNumCtlF8Repeat t == 1 && decide (b.out < 3)
  let p := b.place v
  let key := layerKey b.die b.mac b.layer
  match b.inMode with
  | 0 =>
    if b.fmt = 5 then
      let raw := s.readBytes p.src p.bytes
      let sc := s.readBytes p.scale p.blocks
      let n := blockSize b.blk
      let blocks := (List.range p.blocks).map fun i =>
        let o := if outlier then sidecarParts (s.readNat (p.side + 8 * i) 8) else (0, [])
        ({ scale := (sc.getD i 0).toNat, codes := (List.range (min n (b.rows - i * n))).map fun k => elemCode 5 raw (i * n + k),
           k := o.1, outs := o.2 } : F4Block)
      { input := f4Input b.firstRow b.rows n blocks, fmt := 5 }
    else prepF4 b.firstRow (s.get .tileNumCtlOutlierRatioLog2 t) outlier f8rep (s.caskValues b v)
  | 1 => prepI8 b.firstRow f8rep (s.caskValues b v) 0 0
  | _ =>
    let raw := s.readBytes p.src p.bytes
    { input := g16Input b.firstRow b.fmt ((List.range b.rows).map fun k => elemCode b.fmt raw k)
        ((List.range b.rows).map fun k => s.scaleVal key (b.firstRow + k)), fmt := b.fmt }

/-! ### Phases (R102 to R104) -/

/-- The groups of `p` equal ranges of lines that drive anything. -/
def groupsOf (p : Nat) (xs : List (Nat × Int)) : List (List (Nat × Int)) :=
  ((List.range p).map fun g => xs.filter fun x => x.1 / (1024 / p) == g).filter fun g => !g.isEmpty

/-- The quanta of a group. -/
def quanta (xs : List (Nat × Int)) : Nat := (xs.map fun x => x.2.natAbs).sum

/-- The smallest P whose groups lie within the budget (R103). -/
def chooseP (budget : Nat) (xs : List (Nat × Int)) : Nat :=
  ([1, 2, 4, 8, 16].find? fun p => (groupsOf p xs).all fun g => decide (quanta g ≤ budget)).getD 16

/-- The outlier lines in one phase or two (R104, R105). -/
def outlierGroups (n : Nat) (xs : List (Nat × Int)) : List (List (Nat × Int)) :=
  let k := ceilDiv xs.length n
  (if n = 1 then [xs] else [xs.take k, xs.drop k]).filter fun g => !g.isEmpty

/-- The parts of a pass: row phases or the high slice, the low slice, the outliers. -/
inductive PassPart where
  | row | low | out
deriving DecidableEq, Repr

/-- The phases of a pass in firing order (R103, R104, R111, R118). -/
def Pass.phases (p : Pass) : List (PassPart × List (Nat × Int)) :=
  ((groupsOf p.p p.input.rows).map fun g => (PassPart.row, g)) ++ ((groupsOf p.pLow p.input.low).map fun g => (PassPart.low, g)) ++
    (outlierGroups p.oGroups p.input.outs).map fun g => (PassPart.out, g)

/-- Log2 of the window of a part (R94, R104). -/
def Pass.width (p : Pass) (part : PassPart) : Nat := if p.input.kind = .f4 ∧ part ≠ .out then 4 else 8

/-- G of a part (R102, R104). -/
def Pass.gain (p : Pass) (part : PassPart) : Nat := if part = .out then 64 else 64 * 2 ^ (caskBody p.desc).gain

/-- The quantum-levels of one code (Table 4.4). -/
def Pass.codeSize (p : Pass) (part : PassPart) : Nat := p.gain part * 2 ^ p.width part / 1024

/-- The groups chosen when a pass first fires (R103). -/
def Pass.choose (p : Pass) : Pass :=
  if p.p = 0 then
    let budget := p.gain .row * 2 ^ p.width .row
    { p with p := chooseP budget p.input.rows, pLow := chooseP budget p.input.low }
  else p

/-- Σ n × L of one output over a phase, in 1/256 quantum-levels (R90, R118). -/
def State.chargeOf (s : State) (key : Nat) (transposed : Bool) (g : List (Nat × Int)) (out : Nat) : Int :=
  g.foldl (fun a x => a + x.2 * (if transposed then s.cellLevel key out x.1 else s.cellLevel key x.1 out)) 0

/-- The code of one output: the ideal code, its analogue error, and the converter's range (R102, R106, R120, log 7). -/
def State.codeOf (s : State) (key : Nat) (transposed : Bool) (size : Nat) (g : List (Nat × Int)) (out : Nat) : Int :=
  clampInt (-4095) 4095 (rneRat ((s.chargeOf key transposed g out : Rat) / (256 * size : Nat)) + Config.analogError (s.free + out))

/-- The two single-ended samples whose difference is a code (R106); where the positive one lies is a free value. -/
def samplesOf (n : Nat) (c : Int) : Int × Int :=
  let neg : Int := (if c < 0 then c.natAbs else 0) + (Config.freeNat n % (4096 - c.natAbs) : Nat)
  (neg + c, neg)

/-- The codes of a phase: 1,024 codes, or in DIAG the positive samples and then the negative ones (R106, R108). -/
def State.phaseCodes (s : State) (p : Pass) (ph : PassPart × List (Nat × Int)) : List Int :=
  let b := caskBody p.desc
  let cs := (List.range 1024).map fun j => s.codeOf (layerKey p.die p.mac p.layer) b.transposed (p.codeSize ph.1) ph.2 j
  if b.out = 4 then
    let ss := cs.zipIdx.map fun c => samplesOf (s.free + 1024 + c.2) c.1
    ss.map Prod.fst ++ ss.map Prod.snd
  else cs

/-- The differential code of output `j` of a phase. -/
def diffCode (cs : List Int) (j : Nat) : Int := if cs.length = 2048 then cs.getD j 0 - cs.getD (j + 1024) 0 else cs.getD j 0

/-- The outputs at full code in some phase (R105). -/
def satOutputs (codes : List (List Int)) : List Nat :=
  (List.range 1024).filter fun j => codes.any fun c => decide (4095 ≤ (diffCode c j).natAbs)

/-- Whether a saturated part has as many groups as there can be (R105). -/
def Pass.satAtLimit (p : Pass) : Bool :=
  (p.phases.zip p.codes).any fun x => !(satOutputs [x.2]).isEmpty && decide ((if x.1.1 = .low then p.pLow else p.p) ≥ 16)

/-! ### Finding and replacing passes -/

def State.findPass (s : State) (d : Nat) (f : Pass → Bool) : Option Pass := (s.die d).passes.find? f

/-- A pass replaced by its sequence number. -/
def State.putPass (s : State) (p : Pass) : State :=
  let x := s.die p.die
  s.setDie p.die { x with passes := x.passes.map fun q => if q.seq = p.seq then p else q }

/-- A pass taken away. -/
def State.dropPass (s : State) (p : Pass) : State :=
  let x := s.die p.die
  s.setDie p.die { x with passes := x.passes.filter fun q => q.seq != p.seq }

/-- The pass that runs on a macro. -/
def Die.running (x : Die) (m : Nat) : Option Pass := x.passes.find? fun p => p.mac == m && p.stage == .fired

/-- A pass whose operation fails (R127, R113, R123, R141). -/
def State.failPass (s : State) (p : Pass) (code detail : Nat) : State :=
  (s.dropPass p).modOp p.tile p.slot fun o => o.fail code detail

/-- An information code and flags noted in a pass's operation. -/
def State.passInfo (s : State) (p : Pass) (info : Nat) : State := s.modOp p.tile p.slot fun o => { o with info := o.info ||| info }

/-! ### The drain (R109, R119) -/

/-- The code sum of one output over the phases of a part. -/
def Pass.codeSum (p : Pass) (part : PassPart) (j : Nat) : Int :=
  ((p.phases.zip p.codes).filter fun x => x.1.1 == part).foldl (fun a x => a + diffCode x.2 j) 0

/-- One term of a forward result: an integer in units of 2 ^ e, times the column scale, rounded once to FP32 (R109). -/
def termOf (ftz : Bool) (i : Int) (e : Int) (scale : FVal) : FVal × Nat := r32 ftz ((FVal.ofInt i e).mul scale)

/-- A forward result from its integers: row term, and outlier term when an outlier phase ran (R109). -/
def forwardOf (ftz hasOut : Bool) (row out : Int) (vp vo : Int) (scale : FVal) : FVal × Nat :=
  let r := termOf ftz row vp scale
  if hasOut then
    let o := termOf ftz out vo scale
    let y := r32 ftz (r.1.add o.1)
    (y.1, r.2 ||| o.2 ||| y.2)
  else r

/-- Flags that a pass's drain raises: on the tile, and in the operation's completion record (R88). -/
def State.passFlags (s : State) (p : Pass) (fl : Nat) : State :=
  (s.raiseFlags p.tile (fl % 2)).modOp p.tile p.slot fun o => { o with flags := o.flags ||| fl % 2 }

/-- The code of an FP32 value. -/
def f32Code (x : FVal) : Nat := (FFmt.f32.round .rne x).bits

/-- A pass whose phases are done goes to the drain with its results. -/
def State.drainPass (s : State) (p : Pass) : State :=
  let b := caskBody p.desc
  let key := layerKey p.die p.mac p.layer
  let ftz := s.get .tileNumCtlFtz p.tile == 1
  let vp := p.input.vp.getD 0
  let row := fun j => p.codeSum .row j * (p.gain .row * 2 ^ p.width .row : Nat)
  if b.transposed then
    s.putPass { p with stage := .drained, sums := (List.range 1024).map fun j =>
      (128 * p.codeSum .row j + p.codeSum .low j) * (p.gain .row * 256 : Nat) }
  else
    let hasOut := !p.input.outs.isEmpty
    let rs := (List.range 1024).map fun j =>
      forwardOf ftz hasOut (row j) (p.codeSum .out j * 16) (vp - 10) p.input.vo (s.scaleVal key j)
    let fl := rs.foldl (fun f r => f ||| r.2) 0
    (s.passFlags p fl).putPass { p with stage := .drained, vals := rs.map fun r => f32Code r.1 }

/-! ### The digital fallback (R113) -/

/-- The level of weight (i, j) in a layer's level map. -/
def State.mapLevel (s : State) (a i j : Nat) : Int := (s.readByte (a + 1024 * i + j)).toInt

/-- An exact sum over driven lines from the level map. -/
def State.mapSum (s : State) (a : Nat) (transposed : Bool) (g : List (Nat × Int)) (out : Nat) : Int :=
  g.foldl (fun x l => x + l.2 * (if transposed then s.mapLevel a out l.1 else s.mapLevel a l.1 out)) 0

/-- One output of the BF16 attempt: ordered accumulation of x_i × (L_ij × s_j) (R97, R113). -/
def State.bf16Out (s : State) (p : Pass) (a j : Nat) (ftz : Bool) : FVal × Nat :=
  let b := caskBody p.desc
  let xs := p.input.xs.map fun c => readOperand 1 ftz c
  let sc := s.scaleVal (layerKey p.die p.mac p.layer) j
  let ws := (List.range p.input.xs.length).map fun k => (FVal.ofInt (s.mapLevel a (b.firstRow + k) j) 0).mul sc
  let y := orderedDot ftz (xs.map Prod.fst) ws FVal.negZero
  (y.1, y.2 ||| xs.foldl (fun f x => f ||| x.2) 0)

/-- The fallback's results. -/
def State.fallbackDrain (s : State) (p : Pass) (a : Nat) : State :=
  let b := caskBody p.desc
  let ftz := s.get .tileNumCtlFtz p.tile == 1
  let key := layerKey p.die p.mac p.layer
  let q := { p with stage := .drained, fallback := true, cells := (s.layer key).wear }
  if b.transposed then
    s.putPass { q with sums := (List.range 1024).map fun j =>
      (128 * s.mapSum a true p.input.rows j + s.mapSum a true p.input.low j) * 1024 }
  else
    let rs := (List.range 1024).map fun j =>
      if p.input.kind = .bf16 then s.bf16Out p a j ftz
      else forwardOf ftz (!p.input.outs.isEmpty) (s.mapSum a false p.input.rows j) (s.mapSum a false p.input.outs j)
        (p.input.vp.getD 0) p.input.vo (s.scaleVal key j)
    let fl := rs.foldl (fun f r => f ||| r.2) 0
    (s.passFlags p fl).putPass { q with vals := rs.map fun r => f32Code r.1 }

/-- A pass computed by the digital fallback, or failed for want of a level map (R113). -/
def State.fallbackPass (s : State) (p : Pass) (ue : List Nat) : State :=
  match (s.layer (layerKey p.die p.mac p.layer)).levelmap with
  | none => s.failPass p Code.caskNoLevelmap 0
  | some a =>
    match s.accessErr ue a 0x100000 false with
    | some e => ((s.noteErr e).dropPass p).modOp p.tile p.slot fun o => o.fail e.code.1 e.code.2
    | none => s.fallbackDrain p a

/-! ### Requests (R93, R98, R99, R114, R125, R126) -/

/-- Why every pass to a layer fails (R123, R141). Before the die is ready only the failed run of R141 can be the reason. -/
def State.passBar (s : State) (p : Pass) : Option Nat :=
  if (s.die p.die).noSet then some Code.calNoSet
  else if (s.die p.die).ready && !(s.layer (layerKey p.die p.mac p.layer)).openLines.isEmpty then some Code.caskLineOpen
  else none

/-- The binding's POLICY bit 0 of a pass's layer. -/
def State.mayFallBack (s : State) (p : Pass) : Bool :=
  decide ((caskBody p.desc).out < 3) &&
    (p.cls == 0 || ((s.binding p.die p.mac p.layer).map fun b => b.policy % 2).getD 0 == 1)

/-- Whether the inputs of a pass are driven, so that it fires. -/
def Pass.fires (p : Pass) : Bool := p.input.kind == .f4 || p.input.kind == .i8 || p.input.kind == .g16

/-- Whether a BIST slice has isolated a die: its class 0 passes then take the fallback (R411 step 3). -/
def State.dieTested (s : State) (d : Nat) : Bool :=
  match s.rel.slice with
  | some x => x.stage == 2 && unitKind x.unit == 2 && unitInst x.unit == d
  | none => false

/-- A waiting pass settled as far as it can be without firing: failed, drained unfired, computed by the fallback, or left
waiting for its layer (R93, R98, R99, R114, R212). -/
def State.settlePass (s : State) (p : Pass) (ue : List Nat) : State :=
  match s.passBar p with
  | some c => s.failPass p c 0
  | none =>
    if !(s.die p.die).ready || s.flushHolds p.die p.mac p.layer then s
    else if p.input.kind = .bf16 then s.fallbackPass p ue
    else if !p.fires then
      s.putPass { p with stage := .drained, vals := List.replicate 1024 (if p.input.kind = .zero then 0 else 0x7FC00000) }
    else if s.dieTested p.die && p.cls == 0 then s.fallbackPass p ue
    else if s.unavailable p.die p.mac p.layer then
      if s.mayFallBack p then (((s.bump .caskRewriteFallbacks p.die).passInfo p 8).fallbackPass { p with how := 8 } ue)
      else if p.waited then s
      else (s.bump .caskRewriteWaits p.die).putPass { p with waited := true }
    else s

/-- Vector `v` of a pass descriptor is requested: its input is read and prepared (R94 to R99, R125, R127). -/
def State.requestPass (s : State) (t slot v : Nat) (ue : List Nat) : State :=
  match s.op t slot with
  | none => s
  | some o =>
    let b := caskBody o.desc
    match (b.reads v (s.get .tileNumCtlOutlier t == 1)).findSome? fun r => s.accessErr ue r.1 r.2 false with
    | some e => (s.noteErr e).modOp t slot fun o => o.fail e.code.1 e.code.2
    | none =>
      let pr := s.caskPrep t b v
      let p : Pass := { tile := t, slot := slot, desc := o.desc, vec := v, die := b.die, mac := b.mac, layer := b.layer,
                        cls := dClass o.desc, seq := s.passSeq, input := pr.input }
      let s1 := (s.raiseFlags t pr.flags).bump .tileNumRepeatsCount t 0 pr.repeats
      let s2 := s1.modOp t slot fun o => { o with fmt := pr.fmt, flags := o.flags ||| pr.flags,
                                                  info := o.info ||| (if pr.repeats = 0 then 0 else 1) }
      let x := s2.die b.die
      let s3 := { s2.setDie b.die ({ x with passes := x.passes ++ [p] }.setMac b.mac { x.mac b.mac with refPhase := false })
                  with passSeq := s.passSeq + 1 }
      s3.settlePass p ue

/-- A CASK_PASS descriptor leaves its queue (R125, R126). -/
def State.caskPass (s : State) (t q : Nat) (ue : List Nat) : State :=
  match s.taking t q .cask [1] with
  | none => s
  | some (slot, o) =>
    let s1 := (s.leave t q slot o .cask).1
    let b := caskBody o.desc
    if b.rows = 0 ∨ b.vectors = 0 then s1.modOp t slot fun o => { o with phase := .done }
    else s1.requestPass t slot 0 ue

def execCaskPass (t q : Nat) (e : Ecc) (s : State) : Host.Outcome State Fault Refusal := .next ((s.corrected e.ce).caskPass t q e.ue)

/-! ### Result rings (R110 to R112, R129) -/

/-- The largest record that a pass can produce (R110). -/
def Pass.largest (p : Pass) : Nat :=
  let b := caskBody p.desc
  let phases := if p.input.kind = .f4 then 18 else if b.transposed then 32 else 16
  match b.out with
  | 2 => alignUp (32 + 4096) 64
  | 3 => alignUp (32 + 2048 * phases) 64
  | 4 => alignUp (32 + 4096 * phases) 64
  | _ => alignUp (32 + 2048) 64

/-- The free space of a result ring, less what passes that fired will need (R110). -/
def State.ringFree (s : State) (t r : Nat) : Nat :=
  let used := (s.get .tileCringWptrWptr t r + 2 ^ 32 - s.get .tileCringRptrRptr t r) % 2 ^ 32
  let kept := (s.dies.map fun e => (e.2.passes.map fun p =>
    if p.reserved && p.tile == t && (caskBody p.desc).ring == r && !p.discarded then p.largest else 0).sum).sum
  2 ^ s.get .tileCringSizeSizeLog2 t r - used - kept

/-- Whether a pass finds room in its ring. -/
def State.ringRoom (s : State) (p : Pass) : Bool :=
  p.reserved || decide (p.largest ≤ s.ringFree p.tile (caskBody p.desc).ring)

/-! ### Firing (R91 to R93, R110, R115) -/

/-- The rank of a pass (R115). -/
def Pass.rank (p : Pass) : Nat := if p.cls = 0 then 0 else if p.promoted then 1 else if p.cls = 1 then 2 else 3

/-- The earlier of two waiting passes in the order of R115. -/
def Pass.before (p q : Pass) : Bool := p.rank < q.rank || (p.rank == q.rank && p.seq < q.seq)

/-- The first waiting pass of a macro whose layer can be used (R114, R115, R212). -/
def State.headPass (s : State) (d m : Nat) : Option Pass :=
  ((s.die d).passes.filter fun p => p.mac == m && p.stage == .waiting && !s.unavailable d m p.layer && !s.flushHolds d m p.layer).foldl
    (fun a p => match a with
      | none => some p
      | some b => if p.before b then some p else some b) none

/-- The active macros of a die (R92). -/
def Die.active (x : Die) : Nat := (x.passes.filter fun p => p.stage == .fired).length

/-- The active macros of the module. -/
def State.activeMacros (s : State) : Nat := (s.dies.map fun e => e.2.active).sum

/-- The macros of a die on which a pass waits. -/
def Die.waitingMacs (x : Die) : List Nat := ((x.passes.filter fun p => p.stage == .waiting).map Pass.mac).eraseDups

/-- Whether a macro's open-line test makes its passes wait (R123). -/
def Die.oltHolds (x : Die) (m : Nat) : Bool :=
  match x.test with
  | some (.olt mac _) => mac == m
  | _ => false

/-- Whether a die takes passes at all: powered, its sets loaded, and nothing stops its firing (R33, R93). -/
def State.dieFires (s : State) (d : Nat) : Bool :=
  let x := s.die d
  s.domainOn (domCask d) && x.ready && !x.droopHold && !x.dutyStopped && !x.bistQuiesce

/-- Whether a macro is free for a pass. -/
def Die.macFree (x : Die) (m : Nat) : Bool := (x.running m).isNone && !x.oltHolds m

/-- Whether the gap between two rows of a held layer of its macro is open to a pass: one pass of class 1 to 3 fires in each (R159). -/
def Die.gapOpen (x : Die) (p : Pass) : Bool :=
  p.cls == 0 || !(x.reqs.any fun r => r.mac == p.mac && r.stage == .held && r.gap)

/-- A pass of class 1 to 3 has fired: it takes the gap of its macro's held layers (R159). -/
def Die.takeGap (x : Die) (p : Pass) : Die :=
  if p.cls = 0 then x
  else { x with reqs := x.reqs.map fun r => if r.mac = p.mac ∧ r.stage = .held then { r with gap := true } else r }

/-- The layer switch of the first waiting pass ends (R91). -/
def State.layerSwitch (s : State) (d m : Nat) : State :=
  let x := s.die d
  match s.headPass d m with
  | none => s
  | some p => if x.macFree m && s.dieFires d then s.setDie d (x.setMac m { x.mac m with layer := p.layer }) else s

def execCaskLayerSwitchDone (die mac : Nat) (s : State) : Host.Outcome State Fault Refusal := .next (s.layerSwitch die mac)

/-- A G16 pass folds the scales in force as it fires (R118). -/
def State.refold (s : State) (p : Pass) : Pass :=
  if p.input.kind = .g16 ∧ p.p = 0 then
    let b := caskBody p.desc
    let key := layerKey p.die p.mac p.layer
    { p with input := g16Input b.firstRow b.fmt p.input.xs ((List.range p.input.xs.length).map fun k => s.scaleVal key (b.firstRow + k)) }
  else p

/-- The pass of a macro that is about to fire, but for the limits of R92: its macro is free, its layer current, its input driven, its
ring has room, and nothing makes it fail or wait. -/
def State.aboutToFire (s : State) (d m : Nat) : Option Pass :=
  let x := s.die d
  (s.headPass d m).bind fun p0 =>
    let p := s.refold p0
    if s.dieFires d && x.macFree m && (s.passBar p).isNone && p.fires && (x.mac m).layer == p.layer && x.gapOpen p && s.ringRoom p then some p
    else none

/-- The macros that may be active on a die at once (R92, R385). -/
def State.dieLimit (s : State) (d : Nat) : Nat := min s.caskLimit (s.die d).limit

/-- Whether the limits of R92 leave a slot for a pass: fewer passes that are about to fire come before it than slots are free, on its die
and on the module. -/
def State.slotFree (s : State) (p : Pass) : Bool :=
  let ahead := fun d => (((s.die d).waitingMacs.filterMap (s.aboutToFire d)).filter fun q => q.before p && q.seq != p.seq).length
  let free := fun d => s.dieLimit d - (s.die d).active
  let others := (s.dies.filter fun e => e.1 != p.die).map fun e => min (ahead e.1) (free e.1)
  decide (ahead p.die < free p.die) && decide (others.sum + ahead p.die < s.get .capCaskActive - s.activeMacros)

/-- A pass fires (R92, R93, R110, R115). -/
def State.passFire (s : State) (d m : Nat) : State :=
  let x := s.die d
  match s.headPass d m with
  | none => s
  | some p0 =>
    let p := s.refold p0
    if !s.dieFires d || !x.macFree m then s
    else match s.passBar p with
      | some c => s.failPass p c 0
      | none =>
        if !p.fires then s.settlePass p []
        else if (x.mac m).layer = p.layer && x.gapOpen p && s.ringRoom p && s.slotFree p then
          (s.setDie d (x.takeGap p)).putPass { p.choose with stage := .fired, reserved := true, phase := 0, codes := [],
                                                                 cells := (s.layer (layerKey d m p.layer)).wear }
        else s

def execCaskPassFire (die mac : Nat) (s : State) : Host.Outcome State Fault Refusal := .next (s.passFire die mac)

/-- Every waiting pass of a die settled anew. -/
def State.settleDie (s : State) (d : Nat) (ue : List Nat) : State :=
  ((s.die d).passes.filter fun p => p.stage == .waiting).foldl (fun s p => s.settlePass p ue) s

/-! ### Spare converters and their rotation (R107, R134, R137) -/

/-- The macros that a calibration run visits now (R133). -/
def Die.visited (x : Die) (m : Nat) : Bool :=
  match x.run with
  | some r => decide (r.next ≤ m ∧ m < r.next + 8)
  | none => false

/-- The spare converters of a macro that are in hand: neither retired by either test nor serving a channel for good (R107, R137). -/
def Die.freeSpares (x : Die) (m : Nat) (col : Bool) : List Nat :=
  let y := x.mac m
  let kind : CalKind := if col then .colGain else .rowGain
  (List.range (if col then 8 else 4)).filterMap fun i =>
    let u := if col then 128 + i else 64 + i
    if y.retired.contains (if col then 64 + i else 72 + i) || x.retired.contains (kind, m, u)
        || y.channels.any (fun c => c.1 == col && c.2.2 == u) then none
    else some u

/-- Whether a macro has no spare converter of some kind (R137). -/
def Die.noSpare (x : Die) (m : Nat) : Bool := (x.freeSpares m true).isEmpty || (x.freeSpares m false).isEmpty

/-- The channel that a converter serves for good: a spare's, where it took one over, and else its own. -/
def Mac.channelOf (y : Mac) (col : Bool) (u : Nat) : Option Nat :=
  match y.channels.find? fun c => c.1 == col && c.2.2 == u with
  | some c => some c.2.1
  | none => if u < (if col then 128 else 64) then some u else none

/-- The channel of a retired converter taken over for good by the lowest spare in hand (R137; log 95). -/
def Die.replaceUnit (x : Die) (m : Nat) (col : Bool) (u : Nat) : Die :=
  let y := x.mac m
  match y.channelOf col u, x.freeSpares m col with
  | some c, n :: _ => x.setMac m { y with channels := (y.channels.filter fun e => !(e.1 == col && e.2.1 == c)) ++ [(col, c, n)] }
  | _, _ => x

/-- The converter that serves a channel now: the spare that rotates through it, the spare that took it over for good, or its own (R134,
R137). In round k the spares in hand serve the channels from n × (k - 1), n being how many spares a macro has. -/
def Die.unitOf (x : Die) (m : Nat) (col : Bool) (c : Nat) : Nat :=
  let y := x.mac m
  let n := if col then 8 else 4
  let own := ((y.channels.find? fun e => e.1 == col && e.2.1 == c).map fun e => e.2.2).getD c
  if 1 ≤ y.round ∧ y.round ≤ 16 ∧ c / n = y.round - 1 ∧ !x.noSpare m then (x.freeSpares m col).getD (c % n) own else own

/-- The calibration value of a quantity of the converter that serves a channel: a rotating spare's fresh value, and else the value in
force (R134). -/
def Die.servedBy (x : Die) (k : CalKind) (m : Nat) (col : Bool) (c : Nat) : Option Rat :=
  let u := x.unitOf m col c
  let own := ((x.mac m).channels.find? fun e => e.1 == col && e.2.1 == c).map fun e => e.2.2
  let vs := if u = own.getD c then (x.mac m).vals else (x.run.map CalRun.spares).getD []
  (vs.find? fun v => v.kind == k && v.mac == m && v.unit == u).map CalValue.value

/-- The rotation of a macro at the end of a phase, a point at which spares take over channels and hand them back (R134; log 95). -/
def Die.rotate (x : Die) (m : Nat) : Die :=
  let y := x.mac m
  if x.visited m then x.setMac m { y with round := min 17 (y.round + 1) }
  else if y.round = 0 then x
  else x.setMac m { y with round := 0 }

/-! ### The end of a phase (R100, R105) -/

/-- The end of an attempt: the pass is re-run, computed by the fallback, or drained (R105). DESIGN CHOICE: when one slice of a G16 pass
saturates, both slices are re-run with twice their groups (log 93). A discarded pass that fired counts as completed (R128). -/
def State.attemptEnd (s : State) (p : Pass) (ue : List Nat) : State :=
  if p.discarded then (s.bump .caskPasses p.die).dropPass p
  else
    let sat := satOutputs p.codes
    let p1 := if p.rerun then p else { p with satColumns := sat.length }
    if sat.isEmpty || s.get .caskCtlSatRerun p.die = 0 then s.drainPass p1
    else if !p.rerun && !p.satAtLimit then
      ((s.bump .caskSatReruns p.die).passInfo p 2).putPass
        { p1 with rerun := true, p := min 16 (2 * p.p), pLow := min 16 (2 * p.pLow), oGroups := 2, phase := 0, codes := [] }
    else if (caskBody p.desc).out < 3 then ((s.bump .caskSatFallbacks p.die).passInfo p 4).fallbackPass { p1 with how := 4 } ue
    else s.drainPass p1

/-- A fired phase ends its drain step; a calibration visit rotates its spares between two phases (R134). -/
def State.phaseEnd (s0 : State) (d m : Nat) (ue : List Nat) : State :=
  match (s0.die d).running m with
  | none => s0
  | some p =>
    let s := s0.setDie d ((s0.die d).rotate m)
    match p.phases[p.phase]? with
    | none => s.attemptEnd p ue
    | some ph =>
      let p1 := { p with codes := p.codes ++ [s.phaseCodes p ph], phase := p.phase + 1 }
      let s1 := { s.putPass p1 with free := s.free + 2048 }
      if p1.phase < p.phases.length then s1 else s1.attemptEnd p1 ue

def execCaskPhaseEnd (die mac : Nat) (e : Ecc) (s : State) : Host.Outcome State Fault Refusal := .next ((s.corrected e.ce).phaseEnd die mac e.ue)

/-! ### Aborts and promotion (R116, R117) -/

/-- A running class 2 or class 3 pass aborted for a class 0 request. -/
def State.abortPass (s : State) (d m : Nat) : State :=
  match (s.die d).running m with
  | none => s
  | some p =>
    let wanted := (s.die d).passes.any fun q =>
      q.mac == m && q.stage == .waiting && q.cls == 0 && !s.unavailable d m q.layer && !s.flushHolds d m q.layer
    if s.get .caskCtlAbortEnable d = 1 && decide (2 ≤ p.cls) && !p.promoted && wanted then
      let s1 := s.bump .caskAborts d
      if p.discarded then s1.dropPass p
      else
        let n := p.aborts + 1
        let s2 := if n = 4 then s1.bump .caskPromoted d else s1
        s2.putPass { p with stage := .waiting, reserved := false, aborts := n, promoted := decide (4 ≤ n), phase := 0, codes := [] }
    else s

def execCaskAbort (die mac : Nat) (s : State) : Host.Outcome State Fault Refusal := .next (s.abortPass die mac)

/-! ### Records (R111, R112) -/

/-- The destination format of an OUT_FMT. -/
def outFmt (o : Nat) : Nat := if o = 0 then 1 else if o = 1 then 2 else 0

/-- The result of output `j` before its final rounding (R109, R119). -/
def Pass.result (p : Pass) (j : Nat) : FVal :=
  if p.sums.isEmpty then FFmt.f32.decode (p.vals.getD j 0) else FVal.ofInt (p.sums.getD j 0) (p.input.vp.getD 0 - 10)

/-- A container of a raw code (Table 4.5). -/
def container (left diag : Bool) (c : Int) : List Byte :=
  leBytes 2 (unsigned 16 (if left then c * (if diag then 16 else 8) else c))

/-- The data of a pass's record at ring offset `o`, with the flags raised (R66, R68, R108, R109, R111). DESIGN CHOICE: the CODE or DIAG
record of an unfired pass has no phases and so no data (log 92). -/
def State.passData (s : State) (p : Pass) (ring size o : Nat) : List Byte × Nat :=
  let b := caskBody p.desc
  if b.out ≥ 3 then (p.codes.flatMap fun cs => cs.flatMap fun c => container b.left (b.out == 4) c, 0)
  else
    let w := if b.out = 2 then 4 else 2
    let op := s.op p.tile p.slot
    let ftz := s.get .tileNumCtlFtz p.tile == 1
    let es := (List.range 1024).map fun j =>
      let elem := (ring + (o + 32 + w * j) % size) / w
      encodePlain (outFmt b.out) ftz b.rc (draw ((op.map Op.seed).getD 0) ((op.map Op.epoch).getD 0) elem 0) (p.result j)
    (es.flatMap fun e => leBytes w e.1, es.foldl (fun f e => f ||| e.2) 0)

/-- The phases of a part. -/
def Pass.phaseCount (p : Pass) (part : PassPart) : Nat :=
  if p.codes.isEmpty then 0 else (p.phases.filter fun x => x.1 == part).length

/-- The header of a record (Table 4.6). EXP of a pass that has no v_p is a free value (log 17). -/
def State.passHeader (s : State) (p : Pass) (len seq : Nat) : List Byte :=
  let b := caskBody p.desc
  let bit := fun (c : Bool) (n : Nat) => if c then n else 0
  let ex : Int := p.input.vp.getD (Config.freeNat s.free : Int)
  leBytes 4 b.tag ++ leBytes 2 p.vec ++ leBytes 2 p.mac ++ leBytes 1 p.die ++
  leBytes 1 (p.layer + bit b.transposed 8 + b.out * 16 + bit b.left 128) ++ leBytes 1 (p.phaseCount .row) ++
  leBytes 1 (if b.transposed then p.phaseCount .low else p.phaseCount .out) ++ leBytes 1 (min p.aborts 255) ++
  leBytes 1 (bit p.rerun 1 + bit p.fallback 2 + bit p.promoted 4 + bit p.input.aligned 8 + bit (p.input.kind == .zero) 16 +
    bit (p.input.kind == .nonfinite) 32) ++
  leBytes 2 p.satColumns ++ leBytes 2 (unsigned 16 ex) ++ leBytes 2 0 ++ leBytes 4 len ++ leBytes 4 seq ++ leBytes 4 0

/-- Bytes written into a ring: a record that reaches the end continues at the base (R111). -/
def State.writeRing (s : State) (ring size o : Nat) (bs : List Byte) : State :=
  (s.writeBytes (ring + o) (bs.take (size - o))).writeBytes ring (bs.drop (size - o))

/-- The watermark signals of an advance of WPTR (R112). -/
def State.watermark (s : State) (t r old len : Nat) : State :=
  let wm := s.get .tileCringWmWatermark t r
  if wm = 0 then s
  else (List.range ((old + len) / wm - old / wm)).foldl
    (fun s _ => (s.signalTo (t * 256 + s.get .tileCringWmSyncIndex t r) 1).1) s

/-- A drained pass's record written and acknowledged: WPTR advances (R111, R112). -/
def State.passRecord (s : State) (p : Pass) : State :=
  let t := p.tile
  let r := (caskBody p.desc).ring
  let size := 2 ^ s.get .tileCringSizeSizeLog2 t r
  let ring := tileBase t + s.get .tileCringBaseBase t r
  let w := s.get .tileCringWptrWptr t r
  let d := s.passData p ring size (w % size)
  let len := alignUp (32 + d.1.length) 64
  let seq := smGet (fun _ => 0) s.ringSeq (4 * t + r)
  let rec_ := s.passHeader p len seq ++ d.1 ++ leBytes (len - 32 - d.1.length) 0
  let s1 := ((s.tick.writeRing ring size (w % size) rec_).passFlags p d.2).set .tileCringWptrWptr t r ((w + len) % 2 ^ 32)
  let s2 := { s1 with ringSeq := smPut (fun _ => 0) (4 * t + r) ((seq + 1) % 2 ^ 32) s1.ringSeq }
  (s2.watermark t r w len).bump .caskPasses p.die

/-- The step driver's operation in a slot, when it is one of the released work (R219). -/
def State.itemAt (s : State) (t slot : Nat) : Option WorkItem :=
  (s.op t slot).bind fun o => s.svc.work.find? fun x => x.node.tile == t && x.node.queue == o.queue && x.seq == some o.seq

/-- A count of the step report advanced: a field of Table 7.7, by its place, of a layer record. -/
def State.count (s : State) (entry field n : Nat) : State :=
  { s with svc := { s.svc with counts := smMod (fun _ => 0) (16 * entry + field) (· + n) s.svc.counts } }

/-- The fields of a step report entry from byte 8, by their place (Table 7.7). -/
abbrev Cnt.repeatsF8 : Nat := 0
abbrev Cnt.repeatsBf16 : Nat := 1
abbrev Cnt.satReruns : Nat := 2
abbrev Cnt.satFallbacks : Nat := 3
abbrev Cnt.rewriteFallbacks : Nat := 4
abbrev Cnt.rewriteWaits : Nat := 5
abbrev Cnt.blocks : Nat := 6
abbrev Cnt.pushed : Nat := 7
abbrev Cnt.refused : Nat := 8
abbrev Cnt.cells : Nat := 9
abbrev Cnt.misses : Nat := 10
abbrev Cnt.mixed : Nat := 11
abbrev Cnt.nonfinite : Nat := 12

/-- The cells that a micro-batch met on a macro layer: a pair that has met two states of the cells counts once in MIXED (R212). -/
def State.meet (s : State) (entry batch key cells : Nat) : State :=
  let k := batch * 2 ^ 20 + key
  match smGet (fun _ => none) s.svc.met k with
  | none => { s with svc := { s.svc with met := smPut (fun _ => none) k (some (cells, false)) s.svc.met } }
  | some (old, counted) =>
    if counted || old == cells then s
    else
      let s1 := s.count entry Cnt.mixed 1
      { s1 with svc := { s1.svc with met := smPut (fun _ => none) k (some (old, true)) s1.svc.met } }

/-- A pass of the step driver's work counted for the step report (R219): its re-run, its fallback, its wait, the cells that it met. -/
def State.notePass (s : State) (p : Pass) : State :=
  match s.itemAt p.tile p.slot with
  | none => s
  | some x =>
    let e := x.node.entry
    let one := fun (c : Bool) (f : Nat) (s : State) => if c then s.count e f 1 else s
    let s1 := one p.rerun Cnt.satReruns (one (p.how == 4) Cnt.satFallbacks (one (p.how == 8) Cnt.rewriteFallbacks
      (one p.waited Cnt.rewriteWaits s)))
    s1.meet e x.node.batch (layerKey p.die p.mac p.layer) p.cells

/-- A drained pass completes: its record, then the next vector, or the operation's end (R111, R112, R125). -/
def State.passDone (s : State) (t slot : Nat) (ue : List Nat) : State :=
  match s.dies.findSome? (fun e => e.2.passes.find? fun p => p.tile == t && p.slot == slot && p.stage == .drained) with
  | none => s
  | some p =>
    if p.discarded then (s.bump .caskPasses p.die).dropPass p
    else if !p.reserved && !((s.die p.die).ready && s.domainOn (domCask p.die) && s.ringRoom p) then s
    else
      let s1 := ((s.passRecord p).notePass p).dropPass p
      if p.vec + 1 < (caskBody p.desc).vectors then s1.requestPass t slot (p.vec + 1) ue
      else s1.modOp t slot fun o => { o with phase := .done }

def execCaskPassDone (t slot : Nat) (e : Ecc) (s : State) : Host.Outcome State Fault Refusal := .next ((s.corrected e.ce).passDone t slot e.ue)

/-- A write of TILE_CRING_RPTR_r: applied, or ignored and recorded at the die at position 0 (R129). -/
def State.ringRptrWrite (s : State) (t r v : Nat) : State :=
  if !s.domainOn (domTile t) then s.ctlRefuse Code.ctlDomainOff (Fld.tileCringRptrRptr.addr t r)
  else if (s.get .tileCringWptrWptr t r + 2 ^ 32 - v % 2 ^ 32) % 2 ^ 32 > 2 ^ s.get .tileCringSizeSizeLog2 t r then
    s.caskErr (8 * (t / 16)) Code.caskRingPtr t r false 0
  else s.set .tileCringRptrRptr t r (v % 2 ^ 32)

def execTileCringRptrWrite (t r : Nat) (v : W64) (s : State) : Host.Outcome State Fault Refusal := .next (s.ringRptrWrite t r v.toNat)

/-! ### Reference phases (R135) -/

/-- A reference phase inserted on an idle macro under visit. -/
def State.referencePhase (s : State) (d m : Nat) : State :=
  let x := s.die d
  if x.visited m && s.domainOn (domCask d) && !(x.passes.any fun p => p.mac == m && p.stage != .drained) then
    s.setDie d (x.setMac m { x.mac m with refPhase := true })
  else s

def execReferencePhase (die mac : Nat) (s : State) : Host.Outcome State Fault Refusal := .next (s.referencePhase die mac)

/-! ### Tests (R123, R124) -/

/-- A test start refused or begun: `test` is the test that would run. -/
def State.startCaskTest (s : State) (d mac : Nat) (test : CaskTest) : State :=
  let x := s.die d
  if !s.domainOn (domCask d) then s.ctlRefuse Code.ctlDomainOff (Fld.caskTestOlt.addr d 0)
  else if x.test.isSome then s.caskErr d Code.caskTestBusy mac 0 false 0
  else if s.good d ≤ mac then s.caskErr d Code.caskMacroRange mac 0 false 0
  else (s.setDie d { x with test := some test }).setWord (Fld.caskTestStatusState.addr d 0) (BitVec.ofNat 64 (2 ^ 30))

/-- CASK_TEST.OLT written as 1. -/
def State.caskOlt (s : State) (d : Nat) (w : W64) : State :=
  if fieldOf w 0 0 = 0 then s else s.startCaskTest d (fieldOf w 27 16) (.olt (fieldOf w 27 16) (fieldOf w 35 28))

def execCaskOlt (die : Nat) (w : W64) (s : State) : Host.Outcome State Fault Refusal := .next (s.caskOlt die w)

/-- Whether a line's pair of readings makes it open (Table 4.10). -/
def oltOpen (r : OltReading) : Bool := !decide (1024 ≤ r.up ∧ r.up ≤ 3072 ∧ 1024 ≤ r.down ∧ r.down ≤ 3072)

/-- The end of a test in CASK_TEST_STATUS: passed, or failed with a count and the lowest finding. -/
def State.testStatus (s : State) (d count : Nat) (row : Bool) (first : Nat) : State :=
  s.setWord (Fld.caskTestStatusState.addr d 0) (BitVec.ofNat 64
    ((if count = 0 then 2 else 3) * 2 ^ 30 + min count 4095 * 2 ^ 12 + (if row then 2 ^ 11 else 0) + first % 2 ^ 11))

/-- Open lines of a layer recorded (R123). -/
def Layer.addOpen (x : Layer) (row : Bool) (line : Nat) : Layer :=
  if x.openLines.contains (row, line) then x else { x with openLines := x.openLines ++ [(row, line)] }

/-- The findings of an open-line test: its layers marked, and the lowest line reported; a column comes before a row of the
same number (log 18). -/
def State.oltFindings (s : State) (d mac layers : Nat) (rs : List OltReading) : State :=
  let found := rs.filter fun r => layers / 2 ^ r.layer % 2 == 1 && oltOpen r
  let s1 := found.foldl (fun s r => let k := layerKey d mac r.layer; s.setLayer k ((s.layer k).addOpen r.row r.line)) s
  let key := fun (r : OltReading) => 2 * r.line + (if r.row then 1 else 0)
  match found with
  | [] => s1.testStatus d 0 false 0
  | r :: rest =>
    let low := rest.foldl (fun a b => if key b < key a then b else a) r
    (s1.testStatus d found.length low.row low.line).caskErr d Code.caskOltFound mac low.layer low.row low.line

/-- The open-line test ends. -/
def State.oltDone (s : State) (d : Nat) (rs : List OltReading) : State :=
  match (s.die d).test with
  | some (.olt mac layers) => (s.setDie d { s.die d with test := none }).oltFindings d mac layers rs
  | _ => s

def execCaskOltDone (die : Nat) (readings : List OltReading) (s : State) : Host.Outcome State Fault Refusal :=
  .next (s.oltDone die readings)

/-- CASK_TEST.DAC written as 1. -/
def State.caskDac (s : State) (d : Nat) (w : W64) : State :=
  if fieldOf w 1 1 = 0 then s else s.startCaskTest d (fieldOf w 27 16) (.dac (fieldOf w 27 16))

def execCaskDacTest (die : Nat) (w : W64) (s : State) : Host.Outcome State Fault Refusal := .next (s.caskDac die w)

/-- Whether a reading lies more than 12 codes from 4 × the DAC code (R124). -/
def dacBad (r : DacReading) : Bool := decide (12 < (r.reading - 4 * (r.code : Int)).natAbs)

/-- A unit of the DAC test retired: units 0 to 63 are reference column unit % 8 of layer unit / 8, 64 to 71 the spare column
converters, 72 to 75 the spare row converters (log 18). A spare column serves as a reference when fewer than 6 remain
(R153), but for one that a repair in the queue is to have (R155; log 97). A retired spare's channel goes to another spare, and a macro left
with none is reported (R137). -/
def State.retireUnit (s : State) (d mac u : Nat) : State :=
  let x := s.die d
  let m := x.mac mac
  let x1 := x.setMac mac { m with retired := m.retired ++ [u] }
  if u < 64 then
    let s1 := s.setDie d x1
    let k := layerKey d mac (u / 8)
    let due := (x.reqs.filter fun r => r.mac == mac && r.layer == u / 8 && (r.kind == 3 || r.kind == 5)).length
    let l := s1.layer k
    let l : Layer := { l with references := l.references - 1 }
    s1.setLayer k (if l.references < 6 ∧ due < l.spareColumns then { l with references := l.references + 1, spareColumns := l.spareColumns - 1 } else l)
  else
    let col := decide (u < 72)
    let unit := if col then 64 + u else u - 8
    let x2 := if (m.channels.any fun c => c.1 == col && c.2.2 == unit) then x1.replaceUnit mac col unit else x1
    let s1 := s.setDie d x2
    if x2.noSpare mac then s1.set .calStatusCode d 0 Code.calNoSpare else s1

/-- The DAC test ends: the units that failed and were in service are retired. -/
def State.dacDone (s : State) (d : Nat) (rs : List DacReading) : State :=
  match (s.die d).test with
  | some (.dac mac) =>
    let s0 := s.setDie d { s.die d with test := none }
    let us := (List.range 76).filter fun u => rs.any (fun r => r.unit == u && dacBad r) && !((s.die d).mac mac).retired.contains u
    let s1 := us.foldl (fun s u => s.retireUnit d mac u) s0
    match us with
    | [] => s1.testStatus d 0 false 0
    | u :: _ => (s1.testStatus d us.length false u).caskErr d Code.caskDacFail mac (if u < 64 then u / 8 else 0) false u
  | _ => s

def execCaskDacTestDone (die : Nat) (readings : List DacReading) (s : State) : Host.Outcome State Fault Refusal :=
  .next (s.dacDone die readings)

/-! ### Live fields of a CASK block (Table 4.12) -/

/-- CASK_STATUS.WAITING, saturating at 255. -/
def Die.waitingPasses (x : Die) : Nat := min 255 (x.passes.filter fun p => p.stage == .waiting).length

/-- The layers that the write path of a die holds; a REPAIR_MACRO counts 8 (R154). -/
def Die.heldLayers (x : Die) : Nat :=
  (x.reqs.map fun r => if r.stage == .held then (if r.kind = 4 then 8 else 1) else 0).sum

end Sys2Proof.Machine
end

