-- ==== Sys2Proof/Machine/Calibration.lean ====
section
/-!
DEFINITION. Cask calibration (R131 to R141, R33): set loads, runs, visits, the fate of a run, and interpolation.
-/

namespace Sys2Proof.Machine

/-! ### Calibration values and sets (R136, R139, R140) -/

/-- The value that a quantity holds where no set lists it: gain 1, and else 0 (log 3). -/
def nominalOf : CalKind → Rat
  | .colGain => 1
  | .rowGain => 1
  | .driverGain => 1
  | .layerGain => 1
  | _ => 0

/-- The value of a quantity in a list. -/
def calLookup (xs : List CalValue) (k : CalKind) (mac unit : Nat) : Rat :=
  match xs.find? fun v => v.kind == k && v.mac == mac && v.unit == unit with
  | some v => v.value
  | none => nominalOf k

/-- Whether a measured value lies within the limits of R136. -/
def calOk (v : CalValue) : Bool :=
  match v.kind with
  | .colGain | .rowGain | .driverGain | .layerGain => decide (mkRat 85 100 ≤ v.value ∧ v.value ≤ mkRat 115 100)
  | .colOffset | .rowOffset => decide (-24 ≤ v.value ∧ v.value ≤ 24)
  | .colInl | .rowInl => decide (v.value ≤ 3)
  | .driverTrim => true

/-- The set points in °C (R139). -/
def setPoints : List Nat := [25, 40, 55, 70, 85]

/-- The record of a calibration set of a die; none: the factory's record, whose values are nominal (R139; log 3). -/
def State.calSet (s : State) (d k : Nat) : Option CalSet := smGet (fun _ => none) s.journal.calSets (8 * d + k)

/-- The values of a set. -/
def State.calValues (s : State) (d k : Nat) : List CalValue := ((s.calSet d k).map CalSet.values).getD []

/-- A quantity's number in a record's body. -/
def calNum : CalKind → Nat
  | .colGain => 0
  | .colOffset => 1
  | .colInl => 2
  | .rowGain => 3
  | .rowOffset => 4
  | .rowInl => 5
  | .driverGain => 6
  | .driverTrim => 7
  | .layerGain => 8

/-- The digest of a set's record (R141). -/
def calDigest (vs : List CalValue) : List Byte := sha256 (Config.calBody (vs.map fun v => (calNum v.kind, v.mac, v.unit, v.value)))

/-- The record of a set with its digest. -/
def calRecord (vs : List CalValue) : CalSet := { values := vs, digest := calDigest vs }

/-- Whether a set's digest holds at a load, `bad` naming the records that the store gives back damaged (R141). -/
def State.setOk (s : State) (bad : List Nat) (d k : Nat) : Bool :=
  !bad.contains k && match s.calSet d k with
    | some r => r.digest == calDigest r.values
    | none => true

/-- The quantities of two lists, each once. -/
def calJoin (xs ys : List CalValue) : List CalValue :=
  xs ++ ys.filter fun o => !xs.any fun v => v.kind == o.kind && v.mac == o.mac && v.unit == o.unit

/-- The bracketing set points of a temperature in 0.1 °C: the nearest, the lower when midway, and the other. -/
def bracket (t : Int) : Nat × Nat :=
  let i := if t < 400 then 0 else if t < 550 then 1 else if t < 700 then 2 else 3
  if t - 10 * (setPoints.getD i 0 : Int) ≤ 75 then (i, i + 1) else (i + 1, i)

/-- The set that a passing run writes, and its number (R139). -/
def State.runSet (s : State) (d : Nat) (t : Int) (run : List CalValue) : Nat × List CalValue :=
  let keep := fun (k : Nat) (vs : List CalValue) =>
    ((s.calValues d k).filter fun o => !vs.any fun v => v.kind == o.kind && v.mac == o.mac && v.unit == o.unit) ++ vs
  if t ≤ 250 then (0, keep 0 run)
  else if 850 ≤ t then (4, keep 4 run)
  else
    let b := bracket t
    let w : Rat := mkRat (t - 10 * (setPoints.getD b.1 0 : Int)).natAbs 10
    let vs := run.map fun v => { v with value := (15 * v.value - w * calLookup (s.calValues d b.2) v.kind v.mac v.unit) / (15 - w) }
    (b.1, keep b.1 vs)

/-- The values in force at a temperature: each quantity that one of the two sets lists, the other's value being nominal where that one
does not list it (R140; log 3). -/
def State.calAt (s : State) (d : Nat) (t : Int) : List CalValue :=
  if t ≤ 250 then s.calValues d 0
  else if 850 ≤ t then s.calValues d 4
  else
    let b := bracket t
    let near := s.calValues d b.1
    let far := s.calValues d b.2
    let w : Rat := mkRat (t - 10 * (setPoints.getD b.1 0 : Int)).natAbs 150
    (calJoin near far).map fun v =>
      let n := calLookup near v.kind v.mac v.unit
      { v with value := n + w * (calLookup far v.kind v.mac v.unit - n) }

/-- The values of a list come into force on every macro, each being between two passes (R33, R136). -/
def Die.takeAll (x : Die) (vs : List CalValue) : Die :=
  let macs := (vs.map CalValue.mac ++ x.macs.map Prod.fst).eraseDups
  macs.foldl (fun x m => x.setMac m { x.mac m with vals := vs.filter fun v => v.mac == m }) x

/-! ### Starts (R131, R133) -/

/-- CAL_CTL.TRIGGER exceeded (R131). -/
def State.beyond (s : State) (d : Nat) (t ref : Int) : Bool := decide ((s.get .calCtlTrigger d : Int) < ((t - ref).natAbs : Int))

/-- A run starts, recording its start temperature, or PENDING is set while one is in progress (R131, R133 step 1). -/
def State.calStart (s : State) (d : Nat) : State :=
  let x := s.die d
  if x.run.isSome then s.set .calStatusPending d 0 1
  else
    ((s.setDie d { x with run := some { startTemp := x.temp }, lastTemp := x.temp }).set .calTempLast d 0
      (unsigned 16 x.temp)).set .calStatusState d 0 1

/-- A cask die's sets loaded after switch-on (R33, R141); `bad` are the sets that the store gives back damaged. The loaded values are in
force on every macro from then on: no pass has fired. -/
def State.calLoad (s : State) (d : Nat) (bad : List Nat) : State :=
  let x := s.die d
  if !s.domainOn (domCask d) || x.loaded then s
  else
    let ok := (List.range 5).all (s.setOk bad d)
    let vs := s.calAt d x.temp
    let x1 := { x with loaded := true, ready := ok, target := vs, reTemp := x.temp }
    let s1 := s.setDie d (if ok then x1.takeAll vs else x1)
    if !ok || s.beyond d x.temp x.passTemp then s1.calStart d else s1

def execCalLoadDone (die : Nat) (badSets : List Nat) (s : State) : Host.Outcome State Fault Refusal := .next (s.calLoad die badSets)

/-- A die's temperature measured: a run starts when it lies beyond the trigger from the last run's start (R131). -/
def State.calTemp (s : State) (d : Nat) (t : Int) : State :=
  let s1 := s.setDie d { s.die d with temp := t }
  if s.domainOn (domCask d) && (s.die d).loaded && s.beyond d t (s.die d).lastTemp then s1.calStart d else s1

def execCalTempTrigger (die : Nat) (temp : Int) (s : State) : Host.Outcome State Fault Refusal := .next (s.calTemp die temp)

/-- A write of CAL_REQ (R131). -/
def State.calReq (s : State) (d : Nat) (w : W64) : State :=
  if !s.domainOn (domCask d) then s.ctlRefuse Code.ctlDomainOff (Fld.calReqRun.addr d 0)
  else if fieldOf w 0 0 = 1 then s.calStart d
  else s

def execCalReqRun (die : Nat) (w : W64) (s : State) : Host.Outcome State Fault Refusal := .next (s.calReq die w)

/-- RETRY_S seconds of powered time after a failed run (R131). -/
def State.calRetry (s : State) (d : Nat) : State :=
  if s.domainOn (domCask d) && (s.die d).failed then s.calStart d else s

def execCalRetry (die : Nat) (s : State) : Host.Outcome State Fault Refusal := .next (s.calRetry die)

/-! ### Visits (R133 to R135, Table 5.4) -/

/-- Whether a value is a spare converter's: units 128 to 135 are a macro's spare column converters, 64 to 67 its spare row converters
(log 95). -/
def ofSpare (v : CalValue) : Bool :=
  match v.kind with
  | .colGain | .colOffset | .colInl => decide (128 ≤ v.unit)
  | .rowGain | .rowOffset | .rowInl => decide (64 ≤ v.unit)
  | _ => false

/-- The rotation of a macro whose visit has ended: a phase in progress keeps its units to its end (R134). -/
def Die.visitEnds (x : Die) (m : Nat) : Die :=
  x.setMac m { x.mac m with refPhase := false, round := if (x.running m).isSome then (x.mac m).round else 0 }

/-- A visit of 8 macros ends; a visit waits while one of them holds a layer or the die is quiesced (Table 5.4, R411). The first one
brings the fresh values of every macro's spares, which were measured before it (R133 step 2; log 95). -/
def State.calVisit (s : State) (d first : Nat) (vs : List CalValue) : State :=
  let x := s.die d
  match x.run with
  | none => s
  | some r =>
    let held := x.reqs.any fun q => q.stage == .held && decide (first ≤ q.mac ∧ q.mac < first + 8)
    if r.next = first && decide (first < s.good d) && !held && !x.bistQuiesce && s.domainOn (domCask d) then
      let spares := if first = 0 then vs.filter ofSpare else r.spares
      let mine := vs.filter fun v => !ofSpare v && decide (first ≤ v.mac ∧ v.mac < first + 8)
      let x1 := (List.range 8).foldl (fun (x : Die) i => x.visitEnds (first + i)) x
      s.setDie d { x1 with run := some { r with next := first + 8, spares := spares, values := r.values ++ mine } }
    else s

def execCalVisit (die first : Nat) (values : List CalValue) (s : State) : Host.Outcome State Fault Refusal :=
  .next (s.calVisit die first values)

/-! ### The fate of a run (R136 to R138) -/

/-- The converter that a quantity belongs to, column converters under colGain and row converters under rowGain. -/
def converterOf (v : CalValue) : Option (CalKind × Nat × Nat) :=
  match v.kind with
  | .colGain | .colOffset | .colInl => some (.colGain, v.mac, v.unit)
  | .rowGain | .rowOffset | .rowInl => some (.rowGain, v.mac, v.unit)
  | _ => none

/-- The values of a run that are checked and kept: not those of retired converters, nor converters of a macro without
spares (R137). -/
def Die.counted (x : Die) (vs : List CalValue) : List CalValue :=
  vs.filter fun v => match converterOf v with
    | some u => !x.retired.contains u && !x.noSpare v.mac
    | none => true

/-- A converter that failed twice retired, a spare taking its channel for good; with no spare of its kind left it keeps its channel and
its old values (R137). -/
def State.retireConverter (s : State) (d : Nat) (u : CalKind × Nat × Nat) : State :=
  let x := s.die d
  let col := u.1 == .colGain
  if (x.freeSpares u.2.1 col).isEmpty then s
  else
    let x1 := { x with retired := x.retired ++ [u] }.replaceUnit u.2.1 col u.2.2
    (s.setDie d x1).set .calStatusCode d 0 (if x1.noSpare u.2.1 then Code.calNoSpare else Code.calUnitRetired)

/-- A run that failed: nothing of it is kept (R136 to R138). A die left without a usable set fails the passes that wait for it (R141). -/
def State.calFail (s : State) (d : Nat) (bad : List (CalKind × Nat × Nat)) : State :=
  let x := s.die d
  let n := min 255 (s.get .calStatusConsec d + 1)
  let twice := bad.filter fun u => x.badUnits.contains u
  let s1 := s.setDie d { x with run := none, failed := true, badUnits := bad, noSet := x.noSet || !x.ready }
  let s2 := (((s1.set .calStatusState d 0 3).set .calStatusConsec d 0 n).set .calStatusCode d 0 Code.calLimit).bump .calFails d
  let s3 := if n = s.get .calCtlFailLimit d then s2.alarm Code.calRepeatFail (unitCask d 2) { arg0 := n } else s2
  (twice.foldl (fun s u => s.retireConverter d u) s3).settleDie d []

/-- A run that passed: its set is written to the journal, and its values come into force on each macro between two passes, on a die that
had no usable set at once (R136, R139, R141). -/
def State.calPass (s : State) (d : Nat) (t : Int) (set : Nat × List CalValue) : State :=
  let x := s.die d
  let s1 := { s with journal := { s.journal with
    calSets := smPut (fun _ => none) (8 * d + set.1) (some (calRecord set.2)) s.journal.calSets,
    calTemp := smPut (fun _ => 250) d t s.journal.calTemp } }
  let vs := s1.calAt d x.temp
  let x1 := { x with run := none, failed := false, badUnits := [], passTemp := t, ready := true, noSet := false, target := vs,
                     reTemp := x.temp }
  let s2 := s1.setDie d (if x.ready then x1 else x1.takeAll vs)
  ((s2.set .calStatusState d 0 2).set .calStatusConsec d 0 0).set .calStatusCode d 0 0

/-- A run whose visits are done is checked (R133 step 4). -/
def State.calRunEnd (s : State) (d : Nat) : State :=
  let x := s.die d
  match x.run with
  | none => s
  | some r =>
    if r.next < s.good d then s
    else
      let vs := x.counted (r.spares ++ r.values)
      let set := s.runSet d r.startTemp vs
      let s1 := s.bump .calRuns d
      let s2 := if vs.all calOk && set.2.all calOk then s1.calPass d r.startTemp set
        else s1.calFail d ((vs.filter fun v => !calOk v).filterMap converterOf).eraseDups
      if s2.get .calStatusPending d = 1 && s.domainOn (domCask d) then (s2.set .calStatusPending d 0 0).calStart d else s2

def execCalRunEnd (die : Nat) (s : State) : Host.Outcome State Fault Refusal := .next (s.calRunEnd die)

/-! ### Interpolation (R140) -/

/-- A 0.25 °C move of the die's temperature since the last interpolation. -/
def State.calReinterpolate (s : State) (d : Nat) (t : Int) : State :=
  let x := s.die d
  let x1 := { x with temp := t }
  if s.domainOn (domCask d) && x.loaded && decide (25 ≤ 10 * (t - x.reTemp).natAbs) then
    s.setDie d { x1 with target := s.calAt d t, reTemp := t }
  else s.setDie d x1

def execCalReinterpolate (die : Nat) (temp : Int) (s : State) : Host.Outcome State Fault Refusal := .next (s.calReinterpolate die temp)

/-- New values take effect on a macro between two passes. -/
def State.calTake (s : State) (d m : Nat) : State :=
  let x := s.die d
  if (x.running m).isNone && s.domainOn (domCask d) then
    s.setDie d (x.setMac m { x.mac m with vals := x.target.filter fun v => v.mac == m })
  else s

def execCalValuesTakeEffect (die mac : Nat) (s : State) : Host.Outcome State Fault Refusal := .next (s.calTake die mac)

/-! ### Live fields of a CAL block (Table 5.5) -/

/-- CAL_STATUS.STALE (R138). -/
def State.calStale (s : State) (d : Nat) : Bool := (s.die d).failed || s.beyond d (s.die d).temp (s.die d).passTemp

/-- CAL_UNITS: NOSPARE, COL_RETIRED, ROW_RETIRED. -/
def Die.calUnits (x : Die) : Nat × Nat × Nat :=
  let dac := fun (lo hi : Nat) => (x.macs.map fun e => (e.2.retired.filter fun u => decide (lo ≤ u ∧ u < hi)).length).sum
  ((x.macs.filter fun e => x.noSpare e.1).length, (x.retired.filter fun u => u.1 == .colGain).length + dac 64 72,
    (x.retired.filter fun u => u.1 == .rowGain).length + dac 72 76)

end Sys2Proof.Machine
end

