-- ==== Sys2Proof/Machine/CaskWrite.lean ====
section
/-!
DEFINITION. Weight writing (R142 to R158): pushes, admission, the take, write-verify row by row, release, repairs, the write
governor and the write journal.
-/

namespace Sys2Proof.Machine

/-! ### Governor (R151) -/

/-- The tokens of a layer of a die, never more than DEPTH; a layer that none was taken from holds the die's `bucket`. -/
def State.tokens (s : State) (d k : Nat) : Nat := min ((s.layer k).tokens.getD (s.die d).bucket) (s.get .cwrCtlDepth d)

/-- The tokens of a layer, `bucket` being those of a layer that none was taken from. -/
def Layer.withTokens (x : Layer) (bucket n : Nat) : Layer := { x with tokens := if n = bucket then none else some n }

/-- The tokens of a layer replaced. -/
def State.setTokens (s : State) (d k n : Nat) : State := s.setLayer k ((s.layer k).withTokens (s.die d).bucket n)

/-- Every bucket of a die changed by one function of its tokens. -/
def State.mapTokens (s : State) (d : Nat) (f : Nat → Nat) : State :=
  let b := (s.die d).bucket
  { s.setDie d { s.die d with bucket := f b } with
    layers := smMapV (fun _ => {}) (fun k x => if k / 32768 = d then x.withTokens (f b) (f (x.tokens.getD b)) else x) s.layers }

/-- A commit of CWR_CTL: no bucket holds more than the DEPTH that was in force, or than the new one; a larger DEPTH adds no token. -/
def State.depthCommitted (s old : State) (d : Nat) : State :=
  s.mapTokens d fun n => min n (min (old.get .cwrCtlDepth d) (s.get .cwrCtlDepth d))

/-! ### Pushes (R142 to R144, R153 to R155, R158) -/

/-- The request that the CWR_REQ registers describe (R160). -/
def State.cwrReq (s : State) (d : Nat) : WReq :=
  { kind := s.get .cwrReqTargetKind d, mac := s.get .cwrReqTargetMacro d, layer := s.get .cwrReqTargetLayer d,
    source := s.get .cwrReqSource d, levelmap := s.get .cwrReqLevelmap d, scales := s.get .cwrReqScales d,
    errmap := s.get .cwrReqErrmap d, record := s.get .cwrReqRecord d, sync := s.get .cwrReqSignalSync d,
    enable := s.get .cwrReqSignalEnable d == 1, column := s.get .cwrReqSignalColumn d }

/-- What a request does to cells: its own kind, or for a RESUME the kind of the interrupted request (R158). -/
def WReq.doing (r : WReq) : Nat := if r.kind = 2 then r.origKind else r.kind

/-- The layers that a request holds. -/
def WReq.layers (r : WReq) : List Nat := if r.kind = 4 then List.range 8 else [r.layer]

/-- The place of a layer's LEVELMAP and of its SCALES (Table 5.1, R154). -/
def WReq.mapAt (r : WReq) (y : Nat) : Nat := r.levelmap + (if r.kind = 4 then 0x100000 * y else 0)
def WReq.scalesAt (r : WReq) (y : Nat) : Nat := r.scales + (if r.kind = 4 then 0x800 * y else 0)

/-- The LEVELMAP buffers of a request. -/
def WReq.maps (r : WReq) : List (Nat × Nat) := r.layers.map fun y => (r.mapAt y, 0x100000)

/-- The buffers that are read and checked before the take: those that the kind uses but ERRMAP and RECORD. -/
def WReq.inputs (r : WReq) : List (Nat × Nat) :=
  r.maps ++ (if r.kind ≤ 2 then [(r.source, 0x100000)] else []) ++
  (if r.doing = 1 ∨ r.kind = 4 then r.layers.map fun y => (r.scalesAt y, 0x800) else [])

/-- The ERRMAP buffer, for a kind that uses it. -/
def WReq.errs? (r : WReq) : List (Nat × Nat) := if r.kind ≤ 3 then [(r.errmap, 0x200000)] else []

/-- The buffers that a request's kind uses (Table 5.1, R154); the registers of the others are ignored (R143). -/
def WReq.buffers (r : WReq) : List (Nat × Nat) := r.inputs ++ r.errs? ++ [(r.record, 32)]

/-- Whether two requests name a layer in common (R144 step 3, R154). -/
def WReq.sameLayer (r q : WReq) : Bool := r.mac == q.mac && (r.layer == q.layer || r.kind == 4 || q.kind == 4)

/-- The spare macros of a die that no repair in its queue is to have (R155; log 97). -/
def Die.spareMacrosFree (x : Die) : Nat := x.spareMacros - (x.reqs.filter fun q => q.kind == 4).length

/-- The check of a push: the first failure in the order of R144, and then R155. A buffer that does not lie in mapped memory is out of
range. -/
def State.pushCode (s : State) (d : Nat) (r : WReq) : Option Nat :=
  let k := layerKey d r.mac r.layer
  let x := s.die d
  if decide (5 < r.kind) || decide (s.good d ≤ r.mac) || (r.kind == 5 && decide (8 ≤ r.column))
      || (r.enable && decide (s.get .capQueuesServiceSync ≤ r.sync))
      || (r.kind == 2 && ((s.wjEntry k).map fun e => decide (e.kind < 2)).getD false == false)
      || (r.buffers.any fun b => b.1 % 64 != 0 || !s.rangeMapped b.1 b.2) || anyOverlap r.buffers then some Code.cwrReqRange
  else if 64 ≤ x.reqs.length then some Code.cwrQueueFull
  else if x.reqs.any fun q => r.sameLayer q then some Code.cwrLayerBusy
  else if s.get .cwrLimitWearLimit d ≤ (s.layer k).wear then some Code.cwrWorn
  else if (r.kind = 0 ∨ r.kind = 3) ∧ (s.wjEntry k).isSome then some Code.cwrIncomplete
  else if r.kind = 0 ∧ s.tokens d k = 0 then some Code.cwrNoToken
  else if r.kind ≤ 1 ∧ (s.layer k).openLines ≠ [] then some Code.caskLineOpen
  else if (r.kind = 3 ∨ r.kind = 5) ∧ (s.layer k).spareColumns = 0 then some Code.cwrNoSpare
  else if r.kind = 4 ∧ x.spareMacrosFree = 0 then some Code.cwrNoSpare
  else none

/-- CWR_REQ_STATUS after a push. -/
def State.pushStatus (s : State) (d : Nat) (r : WReq) (code : Nat) : State :=
  (s.set .cwrReqStatusCode d 0 code).set .cwrReqStatusTokens d 0
    (if r.mac < s.good d then s.tokens d (layerKey d r.mac r.layer) else 0)

/-- A write of CWR_REQ_PUSH.PUSH = 1. -/
def State.cwrPush (s : State) (d : Nat) : State :=
  let r0 := s.cwrReq d
  let k := layerKey d r0.mac r0.layer
  let r := { r0 with origKind := ((s.wjEntry k).map WJEntry.kind).getD 0, row := 0 }
  if !s.domainOn (domCask d) then s.ctlRefuse Code.ctlDomainOff (Fld.cwrReqPushPush.addr d 0)
  else match s.pushCode d r with
    | some c => (if c = Code.cwrNoToken then s.bump .cwrNoTokens d else s).pushStatus d r c
    | none =>
      let s1 := if r.kind = 0 then s.setTokens d k (s.tokens d k - 1) else s
      (s1.setDie d { s1.die d with reqs := (s1.die d).reqs ++ [r] }).pushStatus d r 0

/-- A push of a request of one kind: CWR_REQ_TARGET names that kind. -/
def State.cwrPushKind (s : State) (d kind : Nat) : State := if s.get .cwrReqTargetKind d = kind then s.cwrPush d else s

def execCwrFlush (die : Nat) (s : State) : Host.Outcome State Fault Refusal := .next (s.cwrPushKind die 0)

def execCwrLoad (die : Nat) (s : State) : Host.Outcome State Fault Refusal := .next (s.cwrPushKind die 1)

def execCwrResume (die : Nat) (s : State) : Host.Outcome State Fault Refusal := .next (s.cwrPushKind die 2)

def execCwrRepairColumn (die : Nat) (s : State) : Host.Outcome State Fault Refusal := .next (s.cwrPushKind die 3)

def execCwrRepairMacro (die : Nat) (s : State) : Host.Outcome State Fault Refusal := .next (s.cwrPushKind die 4)

def execCwrRepairReference (die : Nat) (s : State) : Host.Outcome State Fault Refusal := .next (s.cwrPushKind die 5)

/-! ### Completion records (Table 5.2) -/

/-- A request's RECORD written and its counter signalled; TIME_US is a measured time, 0 for a request that never took its
layer. An unwritable RECORD is lost and the signal follows (log 19). -/
def State.cwrFinish (s : State) (d : Nat) (r : WReq) (code : Nat) (taken : Bool) (ue : List Nat) : State :=
  let k := layerKey d r.mac r.layer
  let bs := leBytes 2 code ++ leBytes 2 r.mac ++ leBytes 1 r.layer ++ leBytes 1 r.kind ++ leBytes 2 r.rows ++ leBytes 4 r.cells ++
    leBytes 4 r.misses ++ leBytes 1 r.iterMax ++ leBytes 1 0 ++ leBytes 2 (s.tokens d k) ++ leBytes 4 (s.layer k).wear ++
    leBytes 4 (if taken then Config.freeNat s.free else 0) ++ leBytes 4 0
  let s1 := match s.accessErr ue r.record 32 true with
    | none => s.tick.writeBytes r.record bs
    | some e => s.noteErr e
  if r.enable then s1.signalService r.sync else s1

/-- A request changed in place, found by its macro and layer. -/
def State.putReq (s : State) (d : Nat) (r : WReq) : State :=
  s.setDie d { s.die d with reqs := (s.die d).reqs.map fun q => if q.mac = r.mac ∧ q.layer = r.layer then r else q }

/-- A request taken away. -/
def State.dropReq (s : State) (d : Nat) (r : WReq) : State :=
  s.setDie d { s.die d with reqs := (s.die d).reqs.filter fun q => !(q.mac == r.mac && q.layer == r.layer) }

/-- A request that ends before any cell is programmed: its token is returned, wear unchanged (R145). -/
def State.cwrEnd (s : State) (d : Nat) (r : WReq) (code : Nat) (ue : List Nat) : State :=
  let k := layerKey d r.mac r.layer
  let s1 := if r.kind = 0 then s.setTokens d k (min (s.get .cwrCtlDepth d) (s.tokens d k + 1)) else s
  (s1.dropReq d r).cwrFinish d r code false ue

/-! ### Admission (R145, R154, R158) -/

/-- A request of a die by macro and layer. -/
def State.findReq (s : State) (d m l : Nat) (st : ReqStage) : Option WReq :=
  (s.die d).reqs.find? fun r => r.mac == m && r.layer == l && r.stage == st

/-- Whether PARALLEL admits a request now (R145, R154). -/
def State.parallelOk (s : State) (d : Nat) (r : WReq) : Bool :=
  let x := s.die d
  let p := s.get .cwrCtlParallel d
  if r.kind = 4 then (if 8 ≤ p then decide (x.heldLayers + 8 ≤ p) else x.heldLayers == 0)
  else decide (x.heldLayers < p) && !(decide (p < 8) && x.reqs.any fun q => q.stage == .held && q.kind == 4)

/-- Whether power and thermal control admit further cask activity on a die: the macros active on it are fewer than their limit allows, and
the duty does not stop it (R145, R159; log 96). -/
def State.capAdmits (s : State) (d : Nat) : Bool := decide ((s.die d).active < s.dieLimit d) && !(s.die d).dutyStopped

/-- A signed byte of a buffer. -/
def State.sbyte (s : State) (a : Nat) : Int := (s.readByte a).toInt

/-- The target of a weight: the source for a LOAD, map plus delta for a FLUSH, and the map for a repair (R146, R153). -/
def State.cwrTarget (s : State) (r : WReq) (row col : Nat) : Int :=
  let o := 1024 * row + col
  match r.doing with
  | 0 => s.sbyte (r.levelmap + o) + s.sbyte (r.source + o)
  | 1 => s.sbyte (r.source + o)
  | _ => s.sbyte (r.mapAt r.sub + o)

/-- Whether a request programs a weight (R146, R153, R154). -/
def State.cwrPrograms (s : State) (r : WReq) (row col : Nat) : Bool :=
  match r.doing with
  | 0 => s.sbyte (r.source + 1024 * row + col) != 0
  | 3 => col == r.column
  | 5 => false
  | _ => true

/-- Whether every target lies from −15 to +15 (R145): every weight's of a FLUSH or a LOAD, d = 0 included, and for a repair those of the
weights that it programs. -/
def State.targetsOk (s : State) (r : WReq) : Bool :=
  (List.range r.layers.length).all fun u =>
    (List.range 1024).all fun i => (List.range 1024).all fun j =>
      let t := s.cwrTarget { r with sub := u } i j
      (decide (1 < r.doing) && !s.cwrPrograms r i j) || decide (-15 ≤ t ∧ t ≤ 15)

/-- Whether every scale is finite (R145). -/
def State.scalesOk (s : State) (r : WReq) : Bool :=
  if r.doing = 1 ∨ r.kind = 4 then
    (List.range (if r.kind = 4 then 8192 else 1024)).all fun j => (FFmt.bf16.decode (s.readNat (r.scales + 2 * j) 2)).isFinite
  else true

/-- The digests of SOURCE, LEVELMAP and SCALES as read, three for each layer that the request holds; a buffer that the entry does not name
hashes as no bytes (R156). -/
def State.cwrDigests (s : State) (r : WReq) : List (List Byte) :=
  r.layers.flatMap fun y =>
    [sha256 (if r.doing ≤ 1 then s.readBytes r.source 0x100000 else []), sha256 (s.readBytes (r.mapAt y) 0x100000),
     sha256 (if r.doing = 1 then s.readBytes r.scales 0x800 else [])]

/-- The digests of a write journal entry. -/
def WJEntry.digests (e : WJEntry) : List (List Byte) := [e.sourceDigest, e.mapDigest, e.scalesDigest]

/-- The first queued request of a die is admitted: its buffers are read and checked. -/
def State.cwrAdmit (s : State) (d m l : Nat) (ue : List Nat) : State :=
  let x := s.die d
  match x.reqs.find? fun r => r.stage == .queued with
  | none => s
  | some r =>
    if r.mac != m || r.layer != l || !s.parallelOk d r || !s.capAdmits d || !x.ready || x.bistQuiesce || !s.domainOn (domCask d) then s
    else match r.inputs.findSome? fun b => s.accessErr ue b.1 b.2 false with
      | some e => (s.noteErr e).cwrEnd d r Code.cwrMemory ue
      | none =>
        let dig := s.cwrDigests r
        let same := ((s.wjEntry (layerKey d m l)).map fun e => decide (e.digests = dig)).getD false
        if r.kind == 2 && !same then s.cwrEnd d r Code.cwrResumeDigest ue
        else if !s.targetsOk r || !s.scalesOk r then s.cwrEnd d r Code.cwrLevelRange ue
        else s.putReq d { r with stage := .admitted, digests := dig }

def execCwrAdmit (die mac layer : Nat) (e : Ecc) (s : State) : Host.Outcome State Fault Refusal :=
  .next ((s.corrected e.ce).cwrAdmit die mac layer e.ue)

/-! ### The take (R114, R145, R156) -/

/-- A write journal entry replaced. -/
def State.setWj (s : State) (k : Nat) (e : Option WJEntry) : State :=
  { s with journal := { s.journal with writes := smPut (fun _ => none) k e s.journal.writes } }

/-- A macro's current layer changed (R91). -/
def Die.toLayer (x : Die) (m l : Nat) : Die := x.setMac m { x.mac m with layer := l }

/-- The write path takes a layer between passes, the cap admitting it, switches to it (R91) and writes its journal entry; a RESUME keeps the
mark that it found. Waiting passes to the layer fall back or wait on (R114, R156, R159). -/
def State.cwrTake (s : State) (d m l : Nat) (ue : List Nat) : State :=
  let x := s.die d
  match s.findReq d m l .admitted with
  | none => s
  | some r =>
    if (x.passes.any fun p => p.mac == m && p.stage == .fired) || x.visited m || !s.parallelOk d r || !s.capAdmits d || x.bistQuiesce
        || s.rel.safeDrain || !s.domainOn (domCask d) then s
    else
      let mark := if r.kind = 2 then ((s.wjEntry (layerKey d m l)).map WJEntry.mark).getD 0 else 0
      let e := fun (i : Nat) => ({ kind := r.doing, sourceDigest := r.digests.getD (3 * i) [], mapDigest := r.digests.getD (3 * i + 1) [],
                                   scalesDigest := r.digests.getD (3 * i + 2) [], mark := mark } : WJEntry)
      let s1 := r.layers.zipIdx.foldl (fun s y => s.setWj (layerKey d m y.1) (some (e y.2))) s
      let s2 := s1.putReq d { r with stage := .held, mark := mark }
      (s2.setDie d (s2.die d |>.toLayer m (r.layers.headD 0))).settleDie d ue

def execCwrTakeLayer (die mac layer : Nat) (e : Ecc) (s : State) : Host.Outcome State Fault Refusal :=
  .next ((s.corrected e.ce).cwrTake die mac layer e.ue)

/-! ### Write-verify (R146, R148, R156, R158) -/

/-- The achieved level of a cell in 1/256 level: as read; a cell that the readings do not list reads its target. -/
def achievedOf (cells : List CellReading) (col : Nat) (target : Int) : Int :=
  match cells.find? fun c => c.col == col with
  | some c => c.achieved
  | none => 256 * target

/-- The layer that a request works on now: a REPAIR_MACRO goes through its eight layers in turn. -/
def WReq.layerNow (r : WReq) : Nat := if r.kind = 4 then r.sub else r.layer

/-- One programmed or verified weight: its cell, its error and its map entry (R148). -/
def State.cwrCell (s : State) (d : Nat) (r : WReq) (cells : List CellReading) (verify : Bool) (col : Nat) : State × WReq :=
  let t := s.cwrTarget r r.row col
  let a := achievedOf cells col t
  let e := a - 256 * t
  let key := ((r.sub * 1024 + r.row) * 1024 + col)
  let s1 := if verify then s else
    { s with cells := smPut (fun _ => 0) ((layerKey d r.mac r.layerNow * 1024 + r.row) * 1024 + col) a s.cells }
  (s1, { r with map := smIns key (clampInt (-15) 15 ((a + 128) / 256)) r.map, errs := smPut (fun _ => 0) key e r.errs,
                misses := r.misses + (if e.natAbs > 128 then 1 else 0), cells := r.cells + (if verify then 0 else 1) })

/-- The row mark of the layer in work rewritten after every 64 rows (R156). -/
def State.cwrMark (s : State) (d : Nat) (r : WReq) (done : Nat) : State :=
  if done % 64 = 0 && decide (r.mark < done) then
    match s.wjEntry (layerKey d r.mac r.layerNow) with
    | some e => s.setWj (layerKey d r.mac r.layerNow) (some { e with mark := done })
    | none => s
  else s

/-- The iterations that a programmed row took: all eight where a cell ends outside its target, and else as measured, from 1 to 8 (R146). -/
def rowIters (missed : Bool) (iters : Nat) : Nat := if missed then 8 else max 1 (min iters 8)

/-- One row of a held layer, between two passes of its macro; the row switches back to its layer (R91, R159). A REPAIR_REFERENCE programs
one cell pair of the spare column in each row. -/
def State.cwrRow (s : State) (d m l : Nat) (cells : List CellReading) (iters : Nat) : State :=
  match s.findReq d m l .held with
  | none => s
  | some r =>
    if 1024 ≤ r.row || s.rel.safeDrain || ((s.die d).running m).isSome then s
    else
      let verify := r.kind == 2 && decide (r.row < r.mark)
      let cols := (List.range 1024).filter fun j => s.cwrPrograms r r.row j
      let x := cols.foldl (fun (x : State × WReq) j => x.1.cwrCell d x.2 cells verify j) (s, r)
      let did := r.kind == 5 || (!cols.isEmpty && !verify)
      let r1 := { x.2 with rows := x.2.rows + (if did then 1 else 0), cells := x.2.cells + (if r.kind = 5 then 1 else 0),
                           iterMax := if did then max x.2.iterMax (rowIters (decide (r.misses < x.2.misses)) iters) else x.2.iterMax,
                           gap := false }
      let last := r.row + 1 == 1024 && r.kind == 4 && decide (r.sub < 7)
      let r2 := if last then { r1 with row := 0, sub := r.sub + 1 } else { r1 with row := r.row + 1 }
      let s1 := (x.1.cwrMark d r (r.row + 1)).putReq d r2
      s1.setDie d ((s1.die d).toLayer m r.layerNow)

def execCwrRow (die mac layer : Nat) (cells : List CellReading) (iters : Nat) (s : State) :
    Host.Outcome State Fault Refusal := .next (s.cwrRow die mac layer cells iters)

/-! ### Release (R148, R149, R152 to R155) -/

/-- The ERRMAP of a request: e of each programmed cell, 0 elsewhere; a REPAIR_COLUMN writes its own column alone. -/
def State.writeErrs (s : State) (r : WReq) : State :=
  let at_ := fun (o : Nat) => leBytes 2 (unsigned 16 (smGet (fun _ => 0) r.errs o))
  if r.kind ≤ 2 then s.writeBytes r.errmap ((List.range 0x100000).flatMap at_)
  else if r.kind = 3 then
    (List.range 1024).foldl (fun s i => s.writeBytes (r.errmap + 2 * (1024 * i + r.column)) (at_ (1024 * i + r.column))) s
  else s

/-- The new entries written into LEVELMAP. -/
def State.writeMap (s : State) (r : WReq) : State :=
  r.map.foldl (fun s e => s.writeBytes (r.levelmap + e.1) (leBytes 1 (unsigned 8 e.2))) s

/-- Column scales loaded into the controller from a buffer (R149 step 2). -/
def State.loadScales (s : State) (k a : Nat) : State :=
  let put := fun (m : SMap (BitVec 16)) (j : Nat) => smPut (fun _ => 0) (k * 1024 + j) (BitVec.ofNat 16 (s.readNat (a + 2 * j) 2)) m
  { s with scales := (List.range 1024).foldl put s.scales }

/-- The scales that a request loads. -/
def State.writeScales (s : State) (d : Nat) (r : WReq) : State :=
  if r.doing = 1 ∨ r.kind = 4 then r.layers.foldl (fun s y => s.loadScales (layerKey d r.mac y) (r.scalesAt y)) s else s

/-- The repair map record of a request, with its digest (R155). -/
def WReq.repairRec (r : WReq) (d : Nat) : RepairRec :=
  { die := d, kind := r.kind, mac := r.mac, layer := r.layer, column := r.column,
    digest := sha256 (Config.repairBody [d, r.kind, r.mac, r.layer, r.column]) }

/-- What a repair changes at its release (R153, R154). A spare column that replaces a reference already out of service adds one. A spare
macro brings its own layers, with full buckets and no wear, and its own converters (log 97). -/
def State.applyRepair (s : State) (d : Nat) (r : WReq) : State :=
  let k := layerKey d r.mac r.layer
  let x := s.layer k
  let note := fun (s : State) => { s.bump .cwrRepairs d with journal := { s.journal with repairs := s.journal.repairs ++ [r.repairRec d] } }
  match r.kind with
  | 3 => note (s.setLayer k { x with spareColumns := x.spareColumns - 1, openLines := x.openLines.filter fun o => o != (false, r.column) })
  | 4 =>
    let s1 := (List.range 8).foldl (fun s y => s.setLayer (layerKey d r.mac y)
      ({ s.layer (layerKey d r.mac y) with openLines := [], spareColumns := 16, references := 8, wear := 0 }.withTokens
        (s.die d).bucket (s.get .cwrCtlDepth d))) s
    let y := s1.die d
    note (s1.setDie d ({ y with spareMacros := y.spareMacros - 1, retired := y.retired.filter (fun u => u.2.1 != r.mac),
                                badUnits := y.badUnits.filter fun u => u.2.1 != r.mac }.setMac r.mac
      { layer := (y.mac r.mac).layer, vals := (y.mac r.mac).vals }))
  | 5 =>
    let y := s.die d
    let m := y.mac r.mac
    let u := 8 * r.layer + r.column
    let out := m.retired.contains u
    note ((s.setDie d (y.setMac r.mac { m with retired := m.retired.filter fun v => v != u })).setLayer k
      { x with spareColumns := x.spareColumns - 1, references := if out then min 8 (x.references + 1) else x.references })
  | _ => s

/-- Wear and the level map's place of a layer after a completed request (R149, R152). -/
def State.wearLayer (s : State) (d : Nat) (r : WReq) (y : Nat) : State :=
  let k := layerKey d r.mac y
  let x := s.layer k
  s.setLayer k { x with wear := x.wear + (if r.cells = 0 then 0 else 1), levelmap := some (r.mapAt y) }

/-- The layer released after its last row, in the order of R149. -/
def State.cwrRelease (s : State) (d m l : Nat) (ue : List Nat) : State :=
  match s.findReq d m l .held with
  | none => s
  | some r =>
    if r.row < 1024 then s
    else
      let err := (r.maps ++ r.errs?).findSome? fun b => s.accessErr ue b.1 b.2 true
      let bad := err.isSome
      let s1 := match err with
        | some e => s.noteErr e
        | none => (s.writeErrs r).writeMap r
      let s2 := (s1.writeScales d r).applyRepair d r
      let s3 := r.layers.foldl (fun s y => (s.wearLayer d r y).setWj (layerKey d m y) none) s2
      let s4 := ((s3.dropReq d r).bump .cwrRewrites d).bump .cwrVerifyMisses d 0 r.misses
      s4.cwrFinish d r (if bad then Code.cwrMemory else if r.misses = 0 then 0 else Code.cwrVerifyMiss) true ue

def execCwrRelease (die mac layer : Nat) (e : Ecc) (s : State) : Host.Outcome State Fault Refusal :=
  .next ((s.corrected e.ce).cwrRelease die mac layer e.ue)

/-! ### Tokens and the hourly record (R151) -/

/-- One powered period: each layer of the die below DEPTH gains a token. -/
def State.tokenTick (s : State) (d : Nat) : State :=
  if !s.domainOn (domCask d) then s else s.mapTokens d fun n => min (n + 1) (s.get .cwrCtlDepth d)

def execCwrTokenTick (die : Nat) (s : State) : Host.Outcome State Fault Refusal := .next (s.tokenTick die)

/-- Buckets and wear written to the journal. -/
def State.governorSave (s : State) : State := { s with journal := { s.journal with governor := s.layers } }

def execCwrGovernorSave (s : State) : Host.Outcome State Fault Refusal := .next s.governorSave

/-! ### Live fields of a CWR block (Table 5.6) -/

/-- CWR_SPARES.MIN_COLUMNS: the fewest spare columns left on any layer of a die. -/
def State.minColumns (s : State) (d : Nat) : Nat :=
  (s.layers.filter fun e => e.1 / 32768 == d).foldl (fun m e => min m e.2.spareColumns) 16

end Sys2Proof.Machine
end

