-- ==== Sys2Proof/Machine/Wire.lean ====
section
/-!
DEFINITION. What crosses a link, bit by bit (R276, R277): CRC-32, the bytes of flits and of control words, the data area of a frame, and its
Reed–Solomon codewords.
-/

namespace Sys2Proof.Machine

/-! ### CRC-32 (R276, R277) -/

/-- One bit of the CRC register, with the polynomial of IEEE 802.3 reflected. -/
def crcBit (c : Nat) : Nat := if c % 2 = 1 then (c / 2) ^^^ 0xEDB88320 else c / 2

/-- One byte taken into the register. -/
def crcByte (c : Nat) (b : Byte) : Nat := (List.range 8).foldl (fun c _ => crcBit c) (c ^^^ b.toNat)

/-- CRC-32 of bytes: the register starts at all ones and is inverted at the end, as in IEEE 802.3 (log 101). -/
def crc32 (bs : List Byte) : Nat := (bs.foldl crcByte 0xFFFFFFFF) ^^^ 0xFFFFFFFF

/-- Bytes with their CRC behind them. -/
def withCrc (bs : List Byte) : List Byte := bs ++ leBytes 4 (crc32 bs)

/-- Whether the last four of `n` bytes are the CRC of those before. -/
def crcHolds (n : Nat) (bs : List Byte) : Bool := leNat ((bs.drop (n - 4)).take 4) == crc32 (bs.take (n - 4))

/-! ### Flits (Table 10.3) -/

/-- The NULL flit. -/
def nullFlit : Flit :=
  { seq := 0, dest := 0, cls := 0, src := 0, first := false, last := false, type := 0, hops := 0, len := 0, ctx := 0, gen := 0, payload := [] }

/-- The 256 bytes of a flit. -/
def flitBytes (f : Flit) : List Byte :=
  withCrc (leBytes 2 f.seq ++ leBytes 2 (f.dest % 2 ^ 14 + f.cls % 4 * 2 ^ 14) ++
    leBytes 2 (f.src % 2 ^ 14 + (if f.last then 2 ^ 14 else 0) + (if f.first then 2 ^ 15 else 0)) ++
    leBytes 1 (f.type % 16 + f.hops % 16 * 16) ++ leBytes 1 f.len ++ leBytes 2 f.ctx ++ leBytes 1 f.gen ++ leBytes 1 0 ++
    (f.payload ++ List.replicate 240 0).take 240)

/-- The flit that 256 bytes spell. -/
def flitOf (bs : List Byte) : Flit :=
  let at_ := fun (o n : Nat) => leNat ((bs.drop o).take n)
  let len := at_ 7 1
  { seq := at_ 0 2, dest := at_ 2 2 % 2 ^ 14, cls := at_ 2 2 / 2 ^ 14, src := at_ 4 2 % 2 ^ 14, first := (at_ 4 2).testBit 15,
    last := (at_ 4 2).testBit 14, type := at_ 6 1 % 16, hops := at_ 6 1 / 16, len := len, ctx := at_ 8 2, gen := at_ 10 1,
    payload := (bs.drop 12).take (min len 240) }

/-! ### Control words (Table 10.2) -/

/-- The 64 bytes of a control word. -/
def wordBytes (w : CtlWord) : List Byte :=
  withCrc (leBytes 2 w.ackSeq ++ leBytes 1 ((if w.nak then 1 else 0) + (if w.goingDark then 2 else 0) + (if w.retrainReq then 4 else 0)) ++
    leBytes 1 w.senderLink ++ leBytes 2 w.senderId ++ leBytes 2 0 ++ ((List.range 4).flatMap fun c => leBytes 2 (w.credits.getD c 0)) ++
    leBytes 44 0)

/-- The control word that 64 bytes spell. -/
def wordOf (bs : List Byte) : CtlWord :=
  let at_ := fun (o n : Nat) => leNat ((bs.drop o).take n)
  { ackSeq := at_ 0 2, nak := (at_ 2 1).testBit 0, goingDark := (at_ 2 1).testBit 1, retrainReq := (at_ 2 1).testBit 2, senderLink := at_ 3 1,
    senderId := at_ 4 2 % 2 ^ 14, credits := (List.range 4).map fun c => at_ (8 + 2 * c) 2 }

/-! ### Frames and their codewords (R276) -/

/-- The data area of a frame: the control word, then 76 flit slots; a slot with nothing to send carries a NULL flit. -/
def Frame.data (f : Frame) : List Byte :=
  wordBytes f.word ++ ((f.flits ++ List.replicate 76 nullFlit).take 76).flatMap flitBytes

/-- One step of a product in GF(2^10): the running double of the first factor, reduced by x^10 + x^3 + 1. -/
def gfDouble (a : Nat) : Nat := if 1024 ≤ 2 * a then (2 * a) ^^^ 0x409 else 2 * a

/-- A product in GF(2^10). -/
def gfMul (a b : Nat) : Nat :=
  ((List.range 10).foldl (fun (s : Nat × Nat) i => (gfDouble s.1, if b.testBit i then s.2 ^^^ s.1 else s.2)) (a, 0)).2

/-- Two polynomials added, coefficient by coefficient. -/
def gfAdd (p q : List Nat) : List Nat := List.zipWith (· ^^^ ·) p q

/-- The generator polynomial with the roots α^0 to α^15, its leading coefficient first. -/
def rsGenerator : List Nat :=
  ((List.range 16).foldl (fun (s : List Nat × Nat) _ => (gfAdd (s.1 ++ [0]) (0 :: s.1.map (gfMul s.2)), gfMul s.2 2)) ([1], 1)).1

/-- The 16 parity symbols of a codeword's data: the remainder of its division by the generator. -/
def rsParity (data : List Nat) : List Nat :=
  let g := rsGenerator.tail
  data.foldl (fun reg d =>
    let x := d ^^^ reg.headD 0
    gfAdd (reg.tail ++ [0]) (g.map (gfMul x))) (List.replicate 16 0)

/-- Symbol `i` of a data area: ten bits in the order in which they are sent, the first one lowest (log 101). -/
def symbolAt (n i : Nat) : Nat := n / 2 ^ (10 * i) % 1024

/-- Codeword `c` of a frame, which carrier `c` mod 8 carries: the data symbols whose number is `c` modulo 64, then parity. -/
def Frame.codeword (f : Frame) (c : Nat) : List Nat :=
  let n := leNat f.data
  let data := (List.range 244).map fun k => symbolAt n (c + 64 * k)
  data ++ rsParity data

end Sys2Proof.Machine
end

