-- ==== Sys2Proof/Machine/Links.lean ====
section
/-!
DEFINITION. Messages and flits (R276 to R281, R286 to R292): sending, routes, the transmitter's slots, arrival, delivery and
forwarding. What a link's leaving UP does stands in LinkStates.lean.
-/

namespace Sys2Proof.Machine

/-! ### Messages and their types (Table 10.4) -/

abbrev msgWrite : Nat := 1
abbrev msgRead : Nat := 2
abbrev msgAnswer : Nat := 3
abbrev msgSyncAdd : Nat := 4
abbrev msgReduce : Nat := 5
abbrev msgScale : Nat := 6
abbrev msgHeartbeat : Nat := 7
abbrev msgRack : Nat := 8
abbrev msgCapState : Nat := 9

/-- A payload cut into flits of at most 240 bytes; `fuel` bounds them (R277). -/
def cutPayload : Nat → List Byte → List (List Byte)
  | 0, _ => []
  | fuel + 1, bs => if bs.length ≤ 240 then [bs] else bs.take 240 :: cutPayload fuel (bs.drop 240)

/-- The flits of a message, their sequence not yet given (R277, R278). -/
def Msg.flits (m : Msg) : List Flit :=
  let ps := cutPayload (m.payload.length / 240 + 1) m.payload
  ps.zipIdx.map fun p =>
    { seq := 0, dest := m.dest, cls := m.cls, src := m.src, first := p.2 == 0, last := p.2 + 1 == ps.length, type := m.type,
      hops := m.hops, len := p.1.length, ctx := m.ctx, gen := m.gen, payload := p.1 }

/-- A message from the flits from FIRST to LAST. -/
def msgOf (fs : List Flit) : Option Msg :=
  fs.head?.map fun f => { dest := f.dest, src := f.src, cls := f.cls, type := f.type, ctx := f.ctx, gen := f.gen, hops := f.hops,
                          payload := fs.flatMap fun g => g.payload.take g.len }

/-- A number from the payload of a message. -/
def Msg.num (m : Msg) (off n : Nat) : Nat := leNat ((m.payload.drop off).take n)

/-! ### Queues and routes (R290, R291) -/

/-- The flits queued on a link in a class. -/
def Link.queue (k : Link) (c : Nat) : List Flit := smGet (fun _ => []) k.queues c
def Link.setQueue (k : Link) (c : Nat) (fs : List Flit) : Link := { k with queues := smPut (fun _ => []) c fs k.queues }

/-- The receive buffers of a class (Table 10.7). -/
def classBuffers (c : Nat) : Nat := if c = 0 then 64 else if c = 3 then 128 else 384

/-- The credits held for sending in a class (R286). -/
def Link.credit (k : Link) (c : Nat) : Nat := smGet classBuffers k.credits c
def Link.setCredit (k : Link) (c n : Nat) : Link := { k with credits := smPut classBuffers c n k.credits }

/-- The receive buffers of a class freed since the last control word. -/
def Link.freedOf (k : Link) (c : Nat) : Nat := smGet (fun _ => 0) k.freed c
def Link.free (k : Link) (c : Nat) : Link := { k with freed := smPut (fun _ => 0) c (k.freedOf c + 1) k.freed }

/-- Whether a flit for a destination is queued or awaits its acknowledgement on a link (R291). -/
def Link.holds (k : Link) (dest : Nat) : Bool :=
  (k.queues.any fun e => e.2.any fun f => f.dest == dest) || k.replay.any fun f => f.dest == dest

/-- Whether a link is UP. -/
def State.isUp (s : State) (l : Nat) : Bool := decide (l < 96) && (s.link l).state == .up

/-- The egress of a route: LINK while it is UP, otherwise ALT_LINK while it is UP; a destination that has moved to ALT_LINK goes back to
LINK only when ALT_LINK holds nothing for it (R290, R291). -/
def State.egressOf (s : State) (r : Route) : Option Nat :=
  if s.isUp r.link && !(s.isUp r.alt && (s.link r.alt).moved.contains r.dest && (s.link r.alt).holds r.dest) then some r.link
  else if s.isUp r.alt then some r.alt
  else none

/-- The egress to a device; none: no route, or no egress UP. -/
def State.egress (s : State) (dest : Nat) : Option Nat := (s.route dest).bind s.egressOf

/-- Flits queued on a link. -/
def State.enqueue (s : State) (l : Nat) (fs : List Flit) : State :=
  fs.foldl (fun s f => s.setLink l ((s.link l).setQueue f.cls ((s.link l).queue f.cls ++ [f]))) s

/-- A destination takes an egress of its route: it has moved to ALT_LINK, or is back on LINK (R291). -/
def State.moveTo (s : State) (dest l : Nat) : State :=
  match s.route dest with
  | none => s
  | some r =>
    let k := s.link r.alt
    if l ≠ r.link && !k.moved.contains dest then s.setLink r.alt { k with moved := dest :: k.moved }
    else if l = r.link && k.moved.contains dest then s.setLink r.alt { k with moved := k.moved.filter (· != dest) }
    else s

/-- A message queued on a link. -/
def State.sendOn (s : State) (l : Nat) (m : Msg) : State := s.enqueue l m.flits

/-- A message queued on the egress of its route. -/
def State.sendBy (s : State) (l : Nat) (m : Msg) : State := (s.moveTo m.dest l).sendOn l m

/-- A message that this module originates, sent by its route; without an egress nothing is sent. -/
def State.sendMsg (s : State) (m : Msg) : State :=
  match s.egress m.dest with
  | some l => s.sendBy l m
  | none => s

/-! ### Answers (Table 10.4, R269, R279, R290) -/

/-- An ANSWER's payload: its preamble, then read data. -/
def answerPayload (tag code : Nat) (data : List Byte) : List Byte :=
  leBytes 4 tag ++ leBytes 2 code ++ leBytes 2 0 ++ leBytes 4 data.length ++ leBytes 4 0 ++ data

/-- An ANSWER to a message's source, in the message's class and under its context. An answer to this module itself is
delivered at once. -/
def State.answerTo (s : State) (l : Nat) (dest cls ctx gen tag code : Nat) (data : List Byte) : State :=
  let a : Msg := { dest := dest, src := s.deviceId, cls := cls, type := msgAnswer, ctx := ctx, gen := gen,
                   payload := answerPayload tag code data }
  if dest = s.deviceId then { s with delivered := s.delivered ++ [(l, a)] } else s.sendMsg a

/-- Whether a discarded flit is answered: the first flit of a WRITE, a READ or a SYNC_ADD (R290). -/
def flitAnswered (f : Flit) : Bool := f.first && (f.type == msgWrite || f.type == msgRead || f.type == msgSyncAdd)

/-- The TAG that a request's first flit carries: after ADDRESS, or first in a SYNC_ADD (Table 10.4). -/
def flitTag (f : Flit) : Nat := if f.type = msgSyncAdd then leNat (f.payload.take 4) else leNat ((f.payload.drop 8).take 4)

/-- A flit discarded with a code: a request is answered to its source (R290, R292). -/
def State.discardFlit (s : State) (l : Nat) (f : Flit) (code : Nat) : State :=
  if flitAnswered f then s.answerTo l f.src f.cls f.ctx f.gen (flitTag f) code [] else s

/-! ### Digests of chunk messages (R324) -/

/-- Whether an entry is that of a use and a direction; one from before OPEN_SEQ last restarted is not (R319, R324). -/
def Digest.isUse (d : Digest) (g id seq : Nat) (rx : Bool) : Bool :=
  !d.closed && d.g == g && d.id == id && d.seq == seq && d.received == rx

/-- The digest entry of a use and a direction on a link, made when there is none: the ring's next entry, the oldest replaced. -/
def State.digestEntry (s : State) (l g id seq : Nat) (rx : Bool) : Digest :=
  let ds := smGet (fun _ => []) s.digests l
  match ds.find? fun d => d.isUse g id seq rx with
  | some d => d
  | none => { entry := ((ds.head?.map fun d => d.entry + 1).getD 0) % 4096, g := g, id := id, seq := seq, received := rx }

/-- An entry stored: in its place, or as the newest of its ring. -/
def State.putDigest (s : State) (l : Nat) (d : Digest) : State :=
  let ds := smGet (fun _ => []) s.digests l
  let same := fun (x : Digest) => x.isUse d.g d.id d.seq d.received
  let ds' := if ds.any same then ds.map fun x => if same x then d else x else d :: ds.filter fun x => x.entry != d.entry
  { s with digests := smPut (fun _ => []) l ds' s.digests }

/-- The route of a use changed (R291, R324): entries of one use and direction with one far end on two links are marked. -/
def State.markRerouted (s : State) (l : Nat) (d : Digest) (far : Nat) : State :=
  let hit := fun (x : Digest) => x.isUse d.g d.id d.seq d.received && x.ends.contains far
  if s.digests.any fun e => e.1 != l && e.2.any hit then
    { s with digests := smMapV (fun _ => []) (fun _ ds => ds.map fun x => if hit x then { x with rerouted := true } else x) s.digests }
  else s

/-- A chunk message, its header and trailer known, hashed into its entry. -/
def State.digestChunk (s : State) (l : Nat) (rx : Bool) (far : Nat) (head trailer : List Byte) : State :=
  let d := s.digestEntry l (leNat (head.take 1)) (leNat ((head.drop 2).take 2)) (leNat ((head.drop 4).take 2)) rx
  let d' := { d with count := d.count + 1, bytes := d.bytes ++ head ++ trailer, ends := if d.ends.contains far then d.ends else far :: d.ends }
  (s.putDigest l d').markRerouted l d' far

/-- A flit of a chunk message that crosses a link: the first gives the header, the last the trailer (R324). Aborts, which are
one flit of a header alone, are no chunk messages. -/
def State.digestFlit (s : State) (l : Nat) (rx : Bool) (f : Flit) : State :=
  let k := s.link l
  let body := f.payload.take f.len
  let held := smGet (fun _ => []) (if rx then k.rxHead else k.txHead) f.cls
  let head := if f.first then body.take 32 else held
  if f.type ≠ msgReduce ∨ head.isEmpty ∨ leNat ((head.drop 1).take 1) = 3 then s
  else
    let keep := if f.last then [] else head
    let s1 := s.setLink l (if rx then { k with rxHead := smPut (fun _ => []) f.cls keep k.rxHead }
      else { k with txHead := smPut (fun _ => []) f.cls keep k.txHead })
    if f.last then s1.digestChunk l rx (if rx then f.src else f.dest) head (body.drop (body.length - 16)) else s1

/-! ### Arrival, delivery, forwarding (R278, R280, R290) -/

/-- A flit delivered: its message goes to its unit once LAST has arrived. A flit that continues no message is dropped. The
buffers of a REDUCE message are freed when the RDC takes or parks it (R319); other buffers are free at once. -/
def State.deliverFlit (s : State) (l : Nat) (f : Flit) : State :=
  let k := if f.type = msgReduce then s.link l else (s.link l).free f.cls
  let have_ := if f.first then [] else smGet (fun _ => []) k.partials f.cls
  if !f.first && have_.isEmpty then s.setLink l ((s.link l).free f.cls)
  else
    let fs := have_ ++ [f]
    if f.last then
      let s1 := s.setLink l { k with partials := smPut (fun _ => []) f.cls [] k.partials }
      { s1 with delivered := s1.delivered ++ ((msgOf fs).map fun m => (l, m)).toList }
    else s.setLink l { k with partials := smPut (fun _ => []) f.cls fs k.partials }

/-- The message that a flit belongs to. -/
def flitKey (f : Flit) : Nat × Nat × Nat := (f.src, f.dest, f.type)

/-- The egress of a flit that is forwarded: its route's, and for a later flit of a message the egress that its first flit took while
that is UP, so that one message keeps to one table and one route (R54, R278; log 102). -/
def State.egressFor (s : State) (l : Nat) (f : Flit) : Option Nat :=
  match smGet (fun _ => none) (s.link l).through f.cls with
  | some (key, e) => if !f.first && decide (key = flitKey f) && s.isUp e then some e else s.egress f.dest
  | none => s.egress f.dest

/-- The egress of a message in progress noted; nothing after its last flit. -/
def Link.notes (k : Link) (f : Flit) (e : Nat) : Link :=
  { k with through := smPut (fun _ => none) f.cls (if f.last then none else some (flitKey f, e)) k.through }

/-- A flit for another module forwarded, or discarded and answered (R290). -/
def State.forwardFlit (s : State) (l : Nat) (f : Flit) : State :=
  let s1 := s.setLink l ((s.link l).free f.cls)
  let drop := fun (code : Nat) => (s1.bump .flinkDrops l).discardFlit l f code
  if f.type = msgHeartbeat then s1.bump .flinkDrops l
  else if 9 ≤ f.hops + 1 then drop Code.flinkHopLimit
  else match s1.egressFor l f with
    | none => drop Code.flinkUnreachable
    | some e =>
      let s2 := s1.setLink l ((s1.link l).notes f e)
      ((s2.moveTo f.dest e).enqueue e [{ f with hops := f.hops + 1 }]).bump .flinkForwarded e

/-- What an accepted flit means for a rack: the count of the flits accepted since the latch, or FLINK_RX_FLITS as a RACK arrives
(R418, R419). -/
def Link.rackSeen (k : Link) (type rx : Nat) : Link :=
  if k.rackRx.isSome then k
  else if type = msgRack then { k with rackRx := some rx }
  else { k with rackCount := k.rackCount.map (· + 1) }

/-- A RACK flit is delivered where it arrives, whatever message of its class is under way (R418). -/
def State.rackArrives (s : State) (l : Nat) (f : Flit) : State :=
  let s1 := s.setLink l ((s.link l).free f.cls)
  { s1 with delivered := s1.delivered ++ ((msgOf [f]).map fun m => (l, m)).toList }

/-- A flit received (R280): counted, discarded with a NAK to be sent, or accepted. -/
def State.flitReceive (s : State) (l : Nat) (bs : List Byte) (fec : Fec) : State :=
  let k := s.link l
  let f := flitOf bs
  if k.state != .up then s
  else
    let s1 := (s.bump .flinkFecSymbols l 0 fec.corrected).bump .flinkFecUncorrectable l 0 fec.lost
    if !fec.decoded then s1.setLink l { k with nakWanted := true }
    else if !crcHolds 256 bs then (s1.bump .flinkCrcFails l).setLink l { k with nakWanted := true }
    else if f.type = 0 then s1
    else if f.seq ≠ k.rxSeq then s1.setLink l { k with nakWanted := true }
    else
      let here := f.dest == s.deviceId
      let s0 := s1.setLink l (({ k with rxSeq := (k.rxSeq + 1) % 65536, nakWanted := false }).rackSeen (if here then f.type else 0)
        (s1.get .flinkRxFlits l))
      let s2 := s0.bump .flinkRxFlits l
      if f.type = msgRack && here then s2.rackArrives l f
      else if 10 ≤ f.type then (s2.setLink l ((s2.link l).free f.cls)).bump .flinkDrops l
      else if here then (s2.digestFlit l true f).deliverFlit l f
      else (s2.digestFlit l true f).forwardFlit l f

def execFlitReceive (link : Nat) (bytes : List Byte) (fec : Fec) (s : State) : Host.Outcome State Fault Refusal :=
  .next (s.flitReceive link bytes fec)

/-- The oldest delivered message of a type from a link, and the state without it. -/
def State.takeDelivered (s : State) (l : Nat) (type : Nat) : Option (Msg × State) :=
  match s.delivered.find? fun d => d.1 == l && d.2.type == type with
  | none => none
  | some d => some (d.2, { s with delivered := s.delivered.erase d })

/-! ### The transmitter's slots (R281, R286 to R288) -/

/-- The next flit of a class among those that may leave: of the message in progress, or the first flit queued (R278, R287). -/
def Link.nextOf (k : Link) (c : Nat) (may : Flit → Bool) : Option Flit :=
  match smGet (fun _ => none) k.cur c with
  | some m => ((k.queue c).find? fun f => decide (flitKey f = m) && !f.first).filter may
  | none => (k.queue c).find? may

/-- The next flit of a class. -/
def Link.next (k : Link) (c : Nat) : Option Flit := k.nextOf c fun _ => true

/-- A flit taken out of its queue, its message noted as in progress until LAST. -/
def Link.takeFlit (k : Link) (c : Nat) (f : Flit) : Link :=
  let k1 := k.setQueue c ((k.queue c).erase f)
  { k1 with cur := smPut (fun _ => none) c (if f.last then none else some (flitKey f)) k1.cur }

/-- Whether a class has a flit and a credit. -/
def Link.avail (k : Link) (c : Nat) : Option Flit := if k.credit c = 0 then none else k.next c

/-- The class that deficit round robin serves next, with the link's positions; `fuel` bounds the turn (R287). -/
def Link.drrPick (w : List Nat) : Nat → Link → Option Nat × Link
  | 0, k => (none, k)
  | fuel + 1, k =>
    let d := smGet (fun _ => 0) k.drr k.turn
    if (k.avail k.turn).isSome && decide (0 < d) then (some k.turn, { k with drr := smPut (fun _ => 0) k.turn (d - 1) k.drr })
    else
      let t := k.turn % 3 + 1
      let left := if (k.avail k.turn).isSome then d else 0
      let drr := smPut (fun _ => 0) k.turn left k.drr
      let drr := smPut (fun _ => 0) t (smGet (fun _ => 0) drr t + w.getD (t - 1) 1) drr
      Link.drrPick w fuel { k with turn := t, drr := drr }

/-- The bucket of R288 after `n` link clocks, in 1/1,000 byte. -/
def Link.refill (k : Link) (b : Blend) (n : Nat) : Link :=
  { k with tokens := min (b.class0Depth * 1000) (k.tokens + b.class0Rate * 64 * n) }

/-- A new sequenced flit sent: its sequence, the replay buffer, its credit (R280, R281, R286). -/
def State.sendFlit (s : State) (l c : Nat) (k : Link) (f : Flit) : State × Option Flit :=
  let f' := { f with seq := k.txSeq }
  let k1 := (if f.type = msgRack then k else k.takeFlit c f).setCredit c (k.credit c - 1)
  let s1 := s.setLink l { k1 with txSeq := (k.txSeq + 1) % 65536, replay := k1.replay ++ [f'] }
  ((s1.digestFlit l false f').bump .flinkTxFlits l, some f')

/-- A slot in which no class 0 flit leaves. -/
def State.slotLow (s : State) (l : Nat) (b : Blend) (k : Link) : State × Option Flit :=
  let r := k.drrPick b.weights 4
  match r.1 with
  | none => (s.setLink l r.2, none)
  | some c => match r.2.next c with
    | some f => s.sendFlit l c r.2 f
    | none => (s.setLink l r.2, none)

/-- Whether a class 0 flit is this module's own, and so needs a token (R288). -/
def State.ownFlit (s : State) (f : Flit) : Bool := f.src == s.deviceId && f.hops == 0

/-- Whether a link's bucket holds a flit's tokens. -/
def Link.hasTokens (k : Link) : Bool := decide (256000 ≤ k.tokens)

/-- The class 0 flit that may leave now: with a credit, and for an own flit with tokens; own flits without tokens hold up no forwarded
ones (R287, R288). -/
def State.nextClass0 (s : State) (k : Link) : Option Flit :=
  if k.credit 0 = 0 then none else k.nextOf 0 fun f => !s.ownFlit f || k.hasTokens

/-- One flit slot (R287): the flit sent, or none for a NULL flit. A RACK flit that is due goes before every other new flit (R418). -/
def State.txSlot (s : State) (l : Nat) (b : Blend) : State × Option Flit :=
  let k := s.link l
  match k.resend with
  | f :: rest => ((s.setLink l { k with resend := rest }).bump .flinkReplays l, some f)
  | [] =>
    if 1024 ≤ k.replay.length then (s, none)
    else match k.rackDue with
      | some f => if k.credit 0 = 0 then (s, none) else s.sendFlit l 0 { k with rackDue := none } f
      | none =>
        let short := !k.waited && !k.hasTokens && decide (0 < k.credit 0) && (k.queue 0).any s.ownFlit
        let s1 := if short then s.bump .flinkClass0Waits l else s
        let k1 := if short then { k with waited := true } else k
        match s.nextClass0 k with
        | none => s1.slotLow l b k1
        | some f =>
          if s.ownFlit f then s1.sendFlit l 0 { k1 with tokens := k1.tokens - 256000, waited := false } f
          else s1.sendFlit l 0 k1 f

/-- `n` flit slots, the bucket gaining four clocks after each: the flits sent, in order, a NULL flit in a slot with nothing to send. -/
def State.txSlots (l : Nat) (b : Blend) : Nat → State → List Flit → State × List Flit
  | 0, s, fs => (s, fs)
  | n + 1, s, fs =>
    let r := s.txSlot l b
    State.txSlots l b n (r.1.setLink l ((r.1.link l).refill b 4)) (fs ++ [r.2.getD nullFlit])

/-- A flit that is not sent leaves its queue; a message in progress ends with its last flit. -/
def Link.loseFlit (k : Link) (c : Nat) (f : Flit) : Link :=
  let k1 := k.setQueue c ((k.queue c).erase f)
  if f.last && decide (smGet (fun _ => none) k.cur c = some (flitKey f)) then { k1 with cur := smPut (fun _ => none) c none k1.cur } else k1

/-- The oldest flit of a class that has waited 8 µs unsent is discarded, counted and answered; an own class 0 flit that waits for tokens
does not age (R292). -/
def State.ageOut (s : State) (l c : Nat) : State :=
  let k := s.link l
  match (k.queue c).find? fun f => !(c == 0 && s.ownFlit f && !k.hasTokens) with
  | none => s
  | some f => ((s.setLink l (k.loseFlit c f)).bump .flinkAged l).discardFlit l f Code.flinkAgedOut

def execFlinkAgedOut (link cls : Nat) (s : State) : Host.Outcome State Fault Refusal := .next (s.ageOut link cls)

end Sys2Proof.Machine
end

