-- ==== Sys2Proof/Machine/Reduction.lean ====
section
/-!
DEFINITION. Gradient reduction (chapter 11): rings, chains and tiers, buckets, the scale's agreement, codes and error feedback,
the adders and their checks, delivery, matching and parking, late-fold, failure and aborts; and the arrival check of R262,
which every message with a context meets.
-/

namespace Sys2Proof.Machine

/-! ### The arrival check (R262) -/

/-- Why an arrival fails its context check: its code (R262, R269). -/
def State.arrivalFault (s : State) (c gen : Nat) : Option Nat :=
  if s.get .capContextsCount ≤ c then some Code.ctxRange
  else if (s.ctx c).gen ≠ gen then some Code.ctxStaleGen
  else if (s.ctx c).state ≠ .open then some Code.ctxClosed
  else none

/-- DROPS of an entry, saturating. -/
def Ctx.drop (e : Ctx) : Ctx := { e with drops := min (e.drops + 1) 0xFFFFFFFF }

/-- An arrival dropped on press die `p`: XFER_LATE_DROPS, and DROPS of the entry that it names (R262). -/
def State.arrivalDrop (s : State) (p c : Nat) : State :=
  let s1 := s.bump .xferLateDrops p
  if c < s.get .capContextsCount then s1.setCtx c (s1.ctx c).drop else s1

/-! ### Rings, chains and tiers (R300 to R303) -/

/-- The members of a group in ring order. -/
def State.ringOf (s : State) (g : Nat) : List Nat :=
  match s.blend.inForce, s.group g with
  | some b, some x => ((b.rings.find? fun r => r.id == x.ring).map Ring.members).getD []
  | _, _ => []

/-- MODE of a group. -/
def State.groupMode (s : State) (g : Nat) : Nat := ((s.group g).map Group.mode).getD 0

/-- This module's place in a group, and the members of its ring (R300, R303): `n` members in each of `tiers` tiers. -/
structure Place3 where
  ring : List Nat
  pos : Nat
  tiers : Nat
  n : Nat

/-- The place of this module in group `g`. -/
def State.place (s : State) (g : Nat) : Place3 :=
  let ring := s.ringOf g
  let t := max 1 (ceilDiv ring.length (s.get .capReductionChecksumMax))
  { ring := ring, pos := ring.findIdx (· == s.deviceId), tiers := t, n := ring.length / t }

/-- The ring member at a distance. -/
def Place3.at_ (p : Place3) (d : Nat) : Nat := p.ring.getD ((p.pos + d) % p.ring.length) 0
def Place3.succ (p : Place3) : Nat := p.at_ 1
def Place3.pred (p : Place3) : Nat := p.at_ (p.ring.length - 1)

/-- Tier, and position in it. -/
def Place3.tier (p : Place3) : Nat := p.pos / p.n
def Place3.inTier (p : Place3) : Nat := p.pos % p.n

/-- The member of tier `t` at tier position `j`. -/
def Place3.member (p : Place3) (t j : Nat) : Nat := p.ring.getD (t * p.n + j % p.n) 0

/-- The successor within this tier, which wraps within it (R303). -/
def Place3.tierSucc (p : Place3) : Nat := p.member p.tier (p.inTier + 1)

/-- The chunks of a bucket of E elements (R301). -/
def chunkCount (elems : Nat) : Nat := ceilDiv elems 4096

/-- The segment of chunk `i` of `c`, of `s` segments: the least j with i below floor((j + 1) × c ÷ s) (R301). -/
def segmentOf (c s i : Nat) : Nat := ceilDiv ((i + 1) * s) c - 1

/-- The chain position of this member for chunk `i` (R302). -/
def Place3.chain (p : Place3) (elems i : Nat) : Nat :=
  (p.inTier + 2 * p.n - segmentOf (chunkCount elems) p.n i - 1) % p.n

/-- ceil(log2 n), n ≥ 1. -/
def ceilLog2 (n : Nat) : Nat := bitLen (n - 1)

/-- The RDC instance that serves a group: the press die of the LINK toward the successor (R300). -/
def State.serving (s : State) (g : Nat) : Nat := ((s.route (s.place g).succ).map Route.link).getD 0 / 24 % 4

/-! ### Messages (R317, R318, Table 11.3) -/

abbrev rfNonfinite : Nat := 1
abbrev rfLate : Nat := 2
abbrev rfCarry : Nat := 4
abbrev rfChecksum : Nat := 8
abbrev rfDeliverAll : Nat := 16
abbrev rfClamped : Nat := 32

/-- A reduction message, its fields taken apart (Table 11.3). -/
structure RMsg where
  g : Nat
  phase : Nat
  id : Nat
  seq : Nat
  flags : Nat := 0
  shift : Nat := 0
  chunk : Nat := 0
  elems : Nat := 0
  hop : Nat := 0
  late : Nat := 0
  clamps : Nat := 0
  fmt : Nat := 0
  code : Nat := 0
  fpos : Nat := 0
  fdev : Nat := 0
  codes : List Int := []
  maxexp : List Nat := []
  chk : Nat := 0
  res : Nat := 0
deriving DecidableEq, Repr

/-- The 32-byte header. -/
def RMsg.header (m : RMsg) : List Byte :=
  leBytes 1 m.g ++ leBytes 1 m.phase ++ leBytes 2 m.id ++ leBytes 2 m.seq ++ leBytes 1 m.flags ++ leBytes 1 m.shift ++
  leBytes 4 m.chunk ++ leBytes 4 m.elems ++ leBytes 2 m.hop ++ leBytes 2 m.late ++ leBytes 2 m.clamps ++ leBytes 1 m.fmt ++
  leBytes 1 0 ++ leBytes 2 m.code ++ leBytes 2 m.fpos ++ leBytes 2 m.fdev ++ leBytes 2 0

/-- The payload of a REDUCE message, or of a SCALE message (R317, R318). -/
def RMsg.payload (m : RMsg) (isScale : Bool) : List Byte :=
  let ex := m.maxexp.flatMap (leBytes 1)
  if isScale then m.header ++ ex
  else if m.phase = 3 then m.header
  else m.header ++ (if m.phase = 2 then [] else m.codes.flatMap fun c => leBytes 1 (unsigned 8 c)) ++ ex ++ leBytes 4 m.chk ++
    leBytes 4 m.res ++ leBytes 8 0

/-- A message's fields read back from its payload. -/
def rmsgOf (m : Msg) : RMsg :=
  let n := m.num
  let body := m.payload.drop 32
  let scale := m.type == msgScale
  let full := !scale && n 1 1 != 2
  let rest := if full then body.drop 4096 else body
  { g := n 0 1, phase := n 1 1, id := n 2 2, seq := n 4 2, flags := n 6 1, shift := n 7 1, chunk := n 8 4, elems := n 12 4,
    hop := n 16 2, late := n 18 2, clamps := n 20 2, fmt := n 22 1, code := n 24 2, fpos := n 26 2, fdev := n 28 2,
    codes := if full then (body.take 4096).map fun b => signed 8 b.toNat else [],
    maxexp := (rest.take 128).map BitVec.toNat, chk := leNat ((rest.drop 128).take 4), res := leNat ((rest.drop 132).take 4) }

/-- The bits of FLAGS that an OPEN fixes. -/
def keptFlags (f : Nat) : Nat := f / 4 % 8 * 4

/-- A message of a use, before its particulars. -/
def Bucket.msg (b : Bucket) (phase i : Nat) : RMsg :=
  { g := b.g, phase := phase, id := b.id, seq := b.seq, flags := b.flags, chunk := i, elems := b.elems, fmt := b.fmt }

/-- The class of a message: SCALE and aborts 0, chunks 1, header-only finals 2 (R317, R318). -/
def RMsg.cls (m : RMsg) (isScale : Bool) : Nat := if isScale || m.phase == 3 then 0 else if m.phase = 2 then 2 else 1

/-! ### Uses of a bucket -/

/-- Whether a use is the one of a message. -/
def Bucket.is (b : Bucket) (m : RMsg) : Bool := b.g == m.g && b.id == m.id && b.seq == m.seq

/-- The use that a message names (R319). -/
def State.useOf (s : State) (m : RMsg) : Option Bucket := s.buckets.find? fun b => b.is m

/-- A use as it now stands. -/
def State.current (s : State) (b : Bucket) : Option Bucket :=
  s.buckets.find? fun x => x.g == b.g && x.id == b.id && x.seq == b.seq

/-- A use replaced, if it still exists. -/
def State.putBucket (s : State) (b : Bucket) : State :=
  { s with buckets := s.buckets.map fun x => if x.g = b.g ∧ x.id = b.id ∧ x.seq = b.seq then b else x }

/-- OPEN_SEQ of the next use of a BUCKET_ID (R319). -/
def State.nextSeq (s : State) (g id : Nat) : Nat := smGet (fun _ => 0) s.openSeqs (g * 65536 + id)

def Bucket.carry (b : Bucket) : Bool := b.flags / rfCarry % 2 == 1
def Bucket.checked (b : Bucket) : Bool := b.flags / rfChecksum % 2 == 1
def Bucket.deliverAll (b : Bucket) : Bool := b.flags / rfDeliverAll % 2 == 1
def Bucket.chunkCount (b : Bucket) : Nat := Machine.chunkCount b.elems
def Bucket.agreedAt (b : Bucket) (i : Nat) : Option (List Nat) := smGet (fun _ => none) b.agreed i
def Bucket.tierSum (b : Bucket) (i : Nat) : Option Partial := smGet (fun _ => none) b.tierSums i
def Bucket.tierScale (b : Bucket) (i : Nat) : Option (List Nat × Nat) := smGet (fun _ => none) b.tierScales i

/-! ### Failure and aborts (R325 to R327) -/

/-- DETAIL of a failure (R330). -/
def failDetail (pos check dev link : Nat) : Nat := pos + check * 2 ^ 16 + dev * 2 ^ 32 + link * 2 ^ 48

/-- The ring position of a device; 0xFFFF for one that is no member. -/
def Place3.posOf (p : Place3) (dev : Nat) : Nat := if p.ring.contains dev then p.ring.findIdx (· == dev) else 0xFFFF

/-- The buffers of a REDUCE message returned to its link (R286, R319). -/
def State.freeBuffers (s : State) (l : Nat) (m : Msg) : State :=
  if m.type = msgReduce then
    (List.range (max 1 (ceilDiv m.payload.length 240))).foldl (fun s _ => s.setLink l ((s.link l).free m.cls)) s
  else s

/-- Whether a parked message is one that was looked at before: the same message of the same link. -/
def Parked.same (x y : Parked) : Bool := x.link == y.link && x.msg == y.msg

/-- The bytes that parked messages hold in the park of a press die. -/
def State.parkUsed (s : State) (p : Nat) : Nat :=
  ((s.parked.filter fun x => x.link / 24 == p && !x.withheld).map fun x => x.msg.payload.length).sum

/-- Whether a message fits into RDC_PARK of a press die (R319, Table 11.6). -/
def State.parkFits (s : State) (p : Nat) (m : Msg) : Bool :=
  s.get .rdcParkSizeLog2 p != 0 && decide (s.parkUsed p + m.payload.length ≤ 2 ^ s.get .rdcParkSizeLog2 p)

/-- A message is in the park: its buffers are free, and RDC_PARKED counts it. What the RDC writes into the region is its own affair: the
region's contents become undefined (log 6). -/
def State.intoPark (s : State) (l : Nat) (m : Msg) : State :=
  ((s.freeBuffers l m).lose (.range (s.get .rdcParkBase (l / 24) * 64) (2 ^ s.get .rdcParkSizeLog2 (l / 24)))).bump .rdcParked (l / 24)

/-- The messages whose credits are withheld enter the park of a press die as far as they now fit, in the order of their arrival (R319). -/
def State.fillPark (s : State) (p : Nat) : State :=
  (s.parked.filter fun x => x.withheld && x.link / 24 == p).foldl (fun s x =>
    if s.parkFits p x.msg then
      { s with parked := s.parked.map fun (y : Parked) => if y.same x then { y with withheld := false } else y }.intoPark x.link x.msg
    else s) s

/-- A parked message taken away: the credits withheld for it return, or its room goes to others (R319). -/
def State.unparkOne (s : State) (p : Parked) : State :=
  match s.parked.find? p.same with
  | none => s
  | some x =>
    let s1 := { s with parked := s.parked.erase x }
    if x.withheld then s1.freeBuffers x.link x.msg else s1.fillPark (x.link / 24)

/-- Every parked message that a test picks, dropped; `count` counts each drop. -/
def State.dropParked (s : State) (pick : Parked → Bool) (count : State → Parked → State) : State :=
  (s.parked.filter pick).foldl (fun s p => count (s.unparkOne p) p) s

/-- An abort sent to a neighbour, if it can be reached (R326). -/
def State.sendAbort (s : State) (m : RMsg) (ctx gen dest : Nat) (fwd : Bool) : State :=
  let s1 := { s with abortsSent := (m.g, m.id, m.seq, fwd) ::
                s.abortsSent.filter fun e => !(e.1 == m.g && e.2.1 == m.id && decide ((m.seq + 65536 - e.2.2.1) % 65536 ≥ 32768)) }
  match s1.egress dest with
  | some l => (s1.sendBy l { dest := dest, src := s.deviceId, cls := 0, type := msgReduce, ctx := ctx, gen := gen,
                             payload := m.payload false }).bump .rdcAborts (s.serving m.g)
  | none => s1

/-- The failure of a use recorded in RDC_ERR of the serving instance. -/
def State.noteRdcErr (s : State) (b : Bucket) (code dev link : Nat) : State :=
  let p := s.serving b.g
  let s1 := (((s.set .rdcErrCode p 0 code).set .rdcErrGroup p 0 b.g).set .rdcErrBucketId p 0 b.id).set .rdcErrDevice p 0 dev
  let s2 := s1.set .rdcErrLink p 0 (if link < 96 then link else 0x7F)
  if code = Code.rdcChecksum then s2.bump .rdcChecksumFails p else s2

/-- The regions that a failed use leaves undefined (R327). -/
def State.loseRegions (s : State) (b : Bucket) : State :=
  if b.opened then
    let s1 := s.lose (.range b.result (2 * b.elems))
    let s2 := if b.err = 0 then s1 else s1.lose (.range b.err (2 * b.elems))
    s2.lose (.range b.scale (ceilDiv b.elems 32))
  else s

/-- The abort of a failed use. -/
def Bucket.abort (b : Bucket) (code pos dev : Nat) : RMsg :=
  { g := b.g, phase := 3, id := b.id, seq := b.seq, elems := b.elems, fmt := b.fmt, flags := b.flags, code := code, fpos := pos,
    fdev := dev }

/-- The aborts of a failed use: to its successor and to its predecessor; in a ring of two these are one member (R326). -/
def State.sendAborts (s : State) (b : Bucket) (code pos dev : Nat) : State :=
  let p := s.place b.g
  let m := b.abort code pos dev
  let s1 := s.sendAbort m b.ctx b.gen p.succ true
  if p.pred = p.succ then { s1 with abortsSent := (b.g, b.id, b.seq, false) :: s1.abortsSent }
  else s1.sendAbort m b.ctx b.gen p.pred false

/-- What a failure does to the use itself: it is gone, and its SCALE is undefined; one not yet opened fails when it opens (R326). -/
def State.dropUse (s : State) (b : Bucket) (code pos dev : Nat) : State :=
  let s1 := { s with buckets := s.buckets.filter fun x => !(x.g == b.g && x.id == b.id && x.seq == b.seq),
                     svc := { s.svc with scaled := s.svc.scaled.filter (· != (b.g, b.id)) } }
  if b.opened then s1 else { s1 with earlyAborts := ⟨b.g, b.id, b.seq, code, pos, dev⟩ :: s1.earlyAborts }

/-- A use fails on this member (R325): `detail` is what its OPEN reports, and `abort` says whether it sends aborts. A use not
yet opened fails when it opens (R326). -/
def State.failUseWith (s : State) (b : Bucket) (code pos dev link detail : Nat) (abort : Bool) : State :=
  let s3 := ((s.dropUse b code pos dev).noteRdcErr b code dev link).loseRegions b
  let s4 := s3.dropParked (fun p => b.is (rmsgOf p.msg)) fun s p => s.bump .rdcStaleDrops (p.link / 24)
  let s5 := if b.opened && !b.orphan then s4.modOp b.tile b.slot fun o => o.fail code detail else s4
  if abort then s5.sendAborts b code pos dev else s5

/-- A use fails, its DETAIL as R330 lays it out. -/
def State.failUse (s : State) (b : Bucket) (code pos dev link check : Nat) (abort : Bool := true) : State :=
  s.failUseWith b code pos dev link (failDetail pos check dev link) abort

/-- A use fails because of a message from a link: its sender is named. -/
def State.failFrom (s : State) (b : Bucket) (code : Nat) (m : Msg) (l : Nat) : State :=
  s.failUse b code ((s.place b.g).posOf m.src) m.src l 0

/-- A message of a use sent; without an egress the use fails with RDC_MEMBER_LOST (R325). -/
def State.sendUse (s : State) (b : Bucket) (dest : Nat) (m : RMsg) (isScale : Bool) : State :=
  match s.egress dest with
  | some l => s.sendBy l { dest := dest, src := s.deviceId, cls := m.cls isScale, type := if isScale then msgScale else msgReduce,
                           ctx := b.ctx, gen := b.gen, payload := m.payload isScale }
  | none => s.failUse b Code.rdcMemberLost ((s.place b.g).posOf dest) dest (((s.route dest).map Route.link).getD 0xFF) 0

/-! ### Codes and decoded values (R309 to R312, R315) -/

/-- The gradient format of a use. -/
def Bucket.format (b : Bucket) : FFmt := (fmtOfCode b.fmt).getD .bf16

/-- Element `e` of STAGE; +0 at or beyond E and in a chunk that nothing contributed (R301, R308). -/
def State.stageElem (s : State) (b : Bucket) (e : Nat) : FVal :=
  if e < b.elems && b.chunks.contains (e / 4096) then b.format.decode (s.readNat (b.stage + 2 * e) 2) else .fin false 0 0

/-- The exponent byte of a block (R309). -/
def blockByte (xs : List FVal) : Nat :=
  let m := maxMag xs
  if m.isZero then 0 else (clampInt 1 254 (m.log2 + 127)).toNat

/-- Where the own exponent bytes of a use lie (Table 11.2). -/
def Bucket.ownBytesAt (b : Bucket) : Nat := b.stage + alignUp (2 * b.elems) 64

/-- The 128 bytes of chunk `i` in a region of one byte a block; 0 beyond the last block. -/
def State.chunkBytes (s : State) (b : Bucket) (base i : Nat) : List Nat :=
  (List.range 128).map fun k => if 128 * i + k < ceilDiv b.elems 32 then s.readNat (base + 128 * i + k) 1 else 0

/-- The own exponent bytes of chunk `i`. -/
def State.ownBytes (s : State) (b : Bucket) (i : Nat) : List Nat := s.chunkBytes b b.ownBytesAt i

/-- The scale exponents e_b of chunk `i` (R310, R311); none: not yet known. -/
def State.scaleExps (s : State) (b : Bucket) (i : Nat) : Option (List Int) :=
  if b.carry then
    if b.opened then some ((s.chunkBytes b b.scale i).map fun a => if a = 0 then -126 else min ((a : Int) - 132) 127) else none
  else (b.agreedAt i).map fun bs => bs.map fun a => if a = 0 then -126 else (a : Int) - 133

/-- An integer over a power of two, ties to even. -/
def roundShift (a : Int) (sh : Nat) : Int :=
  let d : Int := (2 ^ sh : Nat)
  let q := a / d
  let r := a % d
  if 2 * r > d ∨ (2 * r = d ∧ q % 2 = 1) then q + 1 else q

/-- The code of an element under a scale exponent, and whether it was clamped (R312). -/
def gradCode (g : FVal) (e : Int) : Int × Bool :=
  match g with
  | .fin n m x =>
    let v : Int := if n then -(m : Int) else m
    let q := if x ≥ e then v * (2 ^ (x - e).toNat : Nat) else roundShift v (e - x).toNat
    (clampInt (-127) 127 q, decide (q < -127 ∨ 127 < q))
  | _ => (-128, false)

/-- ERR of an element after its code: g′ − x × 2 ^ e_b in FP32, stored in FMT with SR; +0 for a marked element (R312). -/
def errOf (b : Bucket) (addr : Nat) (g : FVal) (x : Int) (e : Int) : Nat :=
  if x = -128 then 0
  else
    let d := (r32 false (g.add (FVal.ofInt (-x) e true))).1
    (b.format.round (.sr (draw b.seed b.epoch (addr / 2) 0)) d).bits

/-- The elements of chunk `i`. -/
def State.chunkElems (s : State) (b : Bucket) (i : Nat) : List FVal :=
  (List.range 4096).map fun k => s.stageElem b (4096 * i + k)

/-- The codes of chunk `i` and its clamps; ERR takes the feedback (R312). -/
def State.formCodes (s : State) (b : Bucket) (i : Nat) (eb : List Int) : State × List Int × Nat :=
  let gs := (s.chunkElems b i).zipIdx
  let cs := gs.map fun p => gradCode p.1 (eb.getD (p.2 / 32) 0)
  let codes := cs.map Prod.fst
  let clamps := (cs.filter Prod.snd).length
  let n := min 4096 (b.elems - 4096 * i)
  let errs := ((gs.zip codes).take n).flatMap fun p =>
    leBytes 2 (errOf b (b.err + 2 * (4096 * i + p.1.2)) p.1.1 p.2 (eb.getD (p.1.2 / 32) 0))
  let s1 := if b.err = 0 then s else s.writeBytes (b.err + 2 * (4096 * i)) errs
  ((if clamps = 0 then s1 else s1.bump .rdcClamps (s.serving b.g) 0 clamps), codes, clamps)

/-- The RESULT bytes of a final chunk, and whether a value overflowed FMT (R315). -/
def decodeChunk (b : Bucket) (i shift : Nat) (eb : List Int) (codes : List Int) : List Byte × Bool :=
  let rs := (codes.take (min 4096 (b.elems - 4096 * i))).zipIdx.map fun p =>
    if p.1 = -128 then (b.format.nanCode, false)
    else
      let r := b.format.round .rne (FVal.ofInt p.1 (eb.getD (p.2 / 32) 0 + shift))
      (r.bits, r.overflow)
  (rs.flatMap fun r => leBytes 2 r.1, rs.any Prod.snd)

/-! ### The adders (R313, R314) -/

/-- A checksum word. -/
def word32 (x : Int) : Nat := unsigned 32 x

/-- What one element does in the adder: its code out, and what it adds to drop, l, rsum, chk and the clamps (R313). -/
def addElem (cin cout : Nat) (a x : Int) : Int × Int × Int × Int × Int × Nat :=
  let up : Int := a * (2 ^ cin : Nat)
  if a = -128 ∨ x = -128 then (-128, if a = -128 then 0 else up, 0, 0, 0, 0)
  else
    let t := up + x
    let q := roundShift t cout
    let q' := clampInt (-127) 127 q
    let back : Int := q' * (2 ^ cout : Nat)
    (q', 0, x, t - back, back, if q = q' then 0 else 1)

/-- What add_chunk answers (R313). -/
inductive Added where
  | incoming
  | local_
  | ok (p : Partial) (clamps : Nat)
deriving DecidableEq, Repr

/-- The sum of codes that are not marked, each shifted (R313, R314). -/
def codeSum (codes : List Int) (shift : Nat) : Int := ((codes.filter (· != -128)).map fun (c : Int) => c * ((2 ^ shift : Nat) : Int)).sum

/-- add_chunk at chain position `k` (R313): `x` are this member's codes, `own` its exponent bytes, `check` the CHECKSUM bit. -/
def addChunk (m : RMsg) (x : List Int) (own : List Nat) (k ownClamps lateHere : Nat) (check : Bool) : Added :=
  let cin := ceilLog2 k
  let cout := ceilLog2 (k + 1)
  if check && word32 (codeSum m.codes cin) != m.chk then .incoming
  else
    let rs := (m.codes.zip x).map fun p => addElem cin cout p.1 p.2
    let drop := (rs.map fun r => r.2.1).sum
    let l := (rs.map fun r => r.2.2.1).sum
    let rsum := (rs.map fun r => r.2.2.2.1).sum
    let chk := (rs.map fun r => r.2.2.2.2.1).sum
    let clamps := (rs.map fun r => r.2.2.2.2.2).sum
    let res := word32 ((m.res : Int) + rsum)
    if check && word32 ((m.chk : Int) - drop + l + m.res) != word32 (word32 chk + (res : Int)) then .local_
    else
      .ok { codes := rs.map Prod.fst, shift := cout, chk := word32 chk, res := res,
            late := min (m.late + lateHere) 0xFFFF, clamps := min (m.clamps + ownClamps + clamps) 0xFFFF,
            maxexp := (m.maxexp.zip own).map fun p => max p.1 p.2 } clamps

/-- The second chain's addition at tier `t` (R303, R324): two tier sums, rescaled to the shift of the combined member count.
That rounding is not carried in RES. -/
def addTiers (n t : Nat) (m : RMsg) (own : Partial) : Partial :=
  let cin := ceilLog2 (t * n)
  let cout := ceilLog2 ((t + 1) * n)
  let rs := (m.codes.zip own.codes).map fun p =>
    if p.1 = -128 ∨ p.2 = -128 then ((-128 : Int), (0 : Nat))
    else
      let q := roundShift (p.1 * (2 ^ cin : Nat) + p.2 * (2 ^ own.shift : Nat)) cout
      (clampInt (-127) 127 q, if q < -127 ∨ 127 < q then 1 else 0)
  let codes := rs.map Prod.fst
  { codes := codes, shift := cout, chk := word32 (codeSum codes cout), res := (m.res + own.res) % 2 ^ 32,
    late := min (m.late + own.late) 0xFFFF, clamps := min (m.clamps + own.clamps + (rs.map Prod.snd).sum) 0xFFFF,
    maxexp := (m.maxexp.zip own.maxexp).map fun p => max p.1 p.2 }

/-- The message of a partial. -/
def Partial.msg (p : Partial) (b : Bucket) (phase i hop : Nat) : RMsg :=
  { b.msg phase i with
    flags := b.flags + (if p.codes.contains (-128) then rfNonfinite else 0) + (if p.late = 0 then 0 else rfLate)
      + (if p.clamps = 0 then 0 else rfClamped),
    shift := p.shift, hop := hop, late := p.late, clamps := p.clamps, codes := p.codes, maxexp := p.maxexp, chk := p.chk,
    res := p.res }

/-! ### Delivery (R315, R316) -/

/-- The final facts of a message. -/
def RMsg.final (m : RMsg) : Final :=
  { chunk := m.chunk, flags := m.flags, late := m.late, clamps := m.clamps, maxexp := m.maxexp, shift := m.shift, codes := m.codes }

/-- A final chunk written to RESULT once the use is open and its scale known (R315). -/
def State.writeFinal (s : State) (b : Bucket) (f : Final) : State :=
  match s.current b with
  | none => s
  | some b =>
    match s.scaleExps b f.chunk with
    | some eb =>
      if !b.opened || f.codes.isEmpty then s
      else
        let r := decodeChunk b f.chunk f.shift eb f.codes
        let b' := { b with finals := b.finals.map fun x => if x.chunk = f.chunk then { x with codes := [] } else x,
                           overflowed := b.overflowed || r.2 }
        (s.putBucket b').writeBytes (b.result + 2 * (4096 * f.chunk)) r.1
    | none => s

/-- A final chunk of this member noted, and written where it can be. -/
def State.gotFinal (s : State) (b : Bucket) (f : Final) : State :=
  match s.current b with
  | none => s
  | some b =>
    if b.finals.any fun x => x.chunk == f.chunk then s
    else (s.putBucket { b with finals := b.finals ++ [f] }).writeFinal b f

/-- Where a final message goes from here (R316): along this tier until its owner, and from owner to owner until the final one.
`fromOwner`: it came from another tier's owner, or starts here. -/
def Place3.finalDests (p : Place3) (seg : Nat) (fromOwner : Bool) : List Nat :=
  let tiers := if fromOwner && p.inTier == seg && decide (1 < p.tiers) && (p.tier + 1) % p.tiers != p.tiers - 1 then
      [p.member ((p.tier + 1) % p.tiers) seg] else []
  let inside := if (p.inTier + 1) % p.n = seg then [] else [p.tierSucc]
  tiers ++ inside

/-- A message sent to each of some members. -/
def State.sendAll (s : State) (b : Bucket) (dests : List Nat) (m : RMsg) (isScale : Bool) : State :=
  dests.foldl (fun s d => match s.current b with
    | some b => s.sendUse b d m isScale
    | none => s) s

/-- The segment of a chunk of a use. -/
def Bucket.segment (b : Bucket) (p : Place3) (i : Nat) : Nat := segmentOf b.chunkCount p.n i

/-- The final owner ends a chunk's chain: it sends the final chunk, and writes its own copy (R315, R316). -/
def State.finalOwner (s : State) (b : Bucket) (i : Nat) (x : Partial) (hop : Nat) : State :=
  let p := s.place b.g
  let ovf := ((s.scaleExps b i).map fun eb => (decodeChunk b i x.shift eb x.codes).2).getD false
  let m := x.msg b (if b.deliverAll then 1 else 2) i hop
  let m := if ovf then { m with flags := m.flags / 2 * 2 + 1 } else m
  (s.sendAll b (p.finalDests (b.segment p i) true) m false).gotFinal b m.final

/-- A partial leaves this member's adder at chain position `k`: on along the chain, or over the tier's end (R302, R303). -/
def State.passPartial (s : State) (b : Bucket) (i k : Nat) (x : Partial) : State :=
  let p := s.place b.g
  let j := b.segment p i
  if k + 1 < p.n then s.sendUse b p.tierSucc (x.msg b 0 i k) false
  else if p.tiers = 1 then s.finalOwner b i x k
  else if p.tier = 0 then s.sendUse b (p.member 1 j) (x.msg b 0 i j) false
  else s.putBucket { b with tierSums := smPut (fun _ => none) i (some x) b.tierSums }

/-- A SCALE message of a use: its bytes, and the members that passed it through late (R310, R323). -/
def Bucket.scaleMsg (b : Bucket) (phase i hop : Nat) (mx : List Nat) (late : Nat) : RMsg :=
  { b.msg phase i with flags := b.flags + (if late = 0 then 0 else rfLate), hop := hop, late := late, maxexp := mx }

/-- The agreed bytes of a chunk known on this member: noted, and sent on (R310). -/
def State.agree (s : State) (b : Bucket) (i : Nat) (mx : List Nat) (late : Nat) (fromOwner : Bool) (hop : Nat) : State :=
  let p := s.place b.g
  let s1 := s.putBucket { b with agreed := smPut (fun _ => none) i (some mx) b.agreed }
  s1.sendAll b (p.finalDests (b.segment p i) fromOwner) (b.scaleMsg 1 i hop mx late) true

/-- SCALE bytes leave chain position `k` with their LATE_COUNT so far, to which a late member adds itself (R310, R323). -/
def State.passScale (s : State) (b : Bucket) (i k : Nat) (mx : List Nat) (before : Nat) : State :=
  let p := s.place b.g
  let j := b.segment p i
  let late := min (before + if b.late then 1 else 0) 0xFFFF
  if k + 1 < p.n then s.sendUse b p.tierSucc (b.scaleMsg 0 i k mx late) true
  else if p.tiers = 1 then s.agree b i mx late true k
  else if p.tier = 0 then s.sendUse b (p.member 1 j) (b.scaleMsg 0 i j mx late) true
  else s.putBucket { b with tierScales := smPut (fun _ => none) i (some (mx, late)) b.tierScales }

/-! ### Starting (R308, R309, R323) -/

/-- 4,096 zero codes. -/
def zeroCodes : List Int := List.replicate 4096 0

/-- The chain-position-0 chunk of this member emitted (R308, R313, R323): a late member's is all zeros. -/
def State.emitFirst (s : State) (b : Bucket) (i : Nat) : State :=
  match s.current b with
  | none => s
  | some b =>
    if b.coded.contains i then s
    else if b.late then
      (s.putBucket { b with coded := i :: b.coded }).passPartial { b with coded := i :: b.coded } i 0
        { codes := zeroCodes, shift := 0, chk := 0, res := 0, late := 1, clamps := 0, maxexp := List.replicate 128 0 }
    else match s.scaleExps b i with
      | none => s
      | some eb =>
        let r := s.formCodes b i eb
        let b' := { b with coded := i :: b.coded }
        (r.1.putBucket b').passPartial b' i 0
          { codes := r.2.1, shift := 0, chk := word32 (codeSum r.2.1 0), res := 0, late := 0, clamps := min r.2.2 0xFFFF,
            maxexp := s.ownBytes b i }

/-- The chunks for which a member holds chain position 0 set out: SCALE messages in the pre-pass, data in carry mode; a late
member sends both (R308, R310, R323). -/
def State.setOut (s : State) (b : Bucket) : State :=
  let p := s.place b.g
  ((List.range b.chunkCount).filter fun i => p.chain b.elems i == 0).foldl (fun s i =>
    match s.current b with
    | none => s
    | some b =>
      let s1 := if b.carry then s else s.passScale b i 0 (if b.late then List.replicate 128 0 else s.ownBytes b i) 0
      if b.carry || b.late || (s1.current b).elim false (fun x => (x.agreedAt i).isSome) then s1.emitFirst b i else s1) s

/-! ### Taking messages (R310, R313, R316, R319) -/

/-- Whether a message comes from another tier: the second chain (R303). -/
def Place3.otherTier (p : Place3) (src : Nat) : Bool := p.posOf src / p.n != p.tier

/-- Whether a use can take a message now (R319). -/
def State.canTake (s : State) (b : Bucket) (src : Nat) (m : RMsg) (isScale : Bool) : Bool :=
  let p := s.place b.g
  let known := b.carry || (b.agreedAt m.chunk).isSome
  let last := p.tier + 1 == p.tiers && p.chain b.elems m.chunk + 1 == p.n
  if isScale then
    m.phase == 1 || (if p.otherTier src then (b.tierScale m.chunk).isSome else b.started || b.late)
  else if m.phase = 0 then
    if p.otherTier src then (b.tierSum m.chunk).isSome && (known || p.tier + 1 != p.tiers)
    else (b.started && known) || (b.late && (known || !last))
  else m.phase == 2 || known

/-- A SCALE message taken (R310, R323). -/
def State.takeScale (s : State) (b : Bucket) (src : Nat) (m : RMsg) : State :=
  let p := s.place b.g
  let i := m.chunk
  let k := p.chain b.elems i
  if m.phase = 1 then
    if (b.agreedAt i).isSome then s
    else
      let s1 := s.agree b i m.maxexp m.late (p.otherTier src) m.hop
      if k = 0 then s1.emitFirst b i else s1
  else if p.otherTier src then
    let own := (b.tierScale i).getD ([], 0)
    let mx := (m.maxexp.zip own.1).map fun q => max q.1 q.2
    let late := min (m.late + own.2) 0xFFFF
    let hop := 1024 * p.tier + b.segment p i
    let b' := { b with tierScales := smPut (fun _ => none) i none b.tierScales }
    if p.tier + 1 = p.tiers then (s.putBucket b').agree b' i mx late true hop
    else (s.putBucket b').sendUse b' (p.member (p.tier + 1) (b.segment p i)) (b'.scaleMsg 0 i hop mx late) true
  else
    let own := if b.late then List.replicate 128 0 else s.ownBytes b i
    s.passScale b i k ((m.maxexp.zip own).map fun q => max q.1 q.2) m.late

/-- A partial taken by this member's adder (R313, R314). -/
def State.takePartial (s : State) (b : Bucket) (l : Nat) (m : RMsg) : State :=
  let p := s.place b.g
  let i := m.chunk
  let k := p.chain b.elems i
  if b.coded.contains i || k == 0 then s
  else
    let r := match b.late, s.scaleExps b i with
      | false, some eb => s.formCodes b i eb
      | _, _ => (s, zeroCodes, 0)
    let own := if b.late then List.replicate 128 0 else s.ownBytes b i
    let b' := { b with coded := i :: b.coded }
    match addChunk m r.2.1 own k r.2.2 (if b.late then 1 else 0) b.checked with
    | .incoming => r.1.failUse b Code.rdcChecksum p.pos s.deviceId l 1
    | .local_ => r.1.failUse b Code.rdcChecksum p.pos s.deviceId 0xFF 2
    | .ok x c =>
      let s1 := (r.1.putBucket b').bump .rdcChunksAdded (s.serving b.g)
      (if c = 0 then s1 else s1.bump .rdcClamps (s.serving b.g) 0 c).passPartial b' i k x

/-- A partial of the second chain taken (R303). -/
def State.takeTier (s : State) (b : Bucket) (m : RMsg) : State :=
  let p := s.place b.g
  let i := m.chunk
  match b.tierSum i with
  | none => s
  | some own =>
    let x := addTiers p.n p.tier m own
    let b' := { b with tierSums := smPut (fun _ => none) i none b.tierSums }
    let hop := 1024 * p.tier + b.segment p i
    if p.tier + 1 = p.tiers then (s.putBucket b').finalOwner b' i x hop
    else (s.putBucket b').sendUse b' (p.member (p.tier + 1) (b.segment p i)) (x.msg b' 0 i hop) false

/-- A final message taken: checked, sent on, and written (R314 to R316). -/
def State.takeFinal (s : State) (b : Bucket) (src l : Nat) (m : RMsg) : State :=
  let p := s.place b.g
  if b.finals.any fun x => x.chunk == m.chunk then s
  else if b.checked && m.phase == 1 && word32 (codeSum m.codes m.shift) != m.chk then
    s.failUse b Code.rdcChecksum p.pos s.deviceId l 1
  else (s.sendAll b (p.finalDests (b.segment p m.chunk) (p.otherTier src)) m false).gotFinal b m.final

/-- A message that a use can take, taken. -/
def State.takeMsg (s : State) (b : Bucket) (l : Nat) (msg : Msg) (m : RMsg) : State :=
  if msg.type = msgScale then s.takeScale b msg.src m
  else if m.phase = 0 then
    if (s.place b.g).otherTier msg.src then s.takeTier b m else s.takePartial b l m
  else s.takeFinal b msg.src l m

/-! ### Matching, parking and unparking (R319) -/

/-- What is to be done with a message now (R319, R325). -/
inductive Match where
  | stale
  | park
  | mismatch (b : Bucket)
  | take (b : Bucket)
deriving DecidableEq, Repr

/-- The matching of a message by GROUP, BUCKET_ID and OPEN_SEQ (R319). -/
def State.matchMsg (s : State) (msg : Msg) (m : RMsg) : Match :=
  match s.useOf m with
  | none =>
    if (s.group m.g).isNone || decide ((m.seq + 65536 - s.nextSeq m.g m.id) % 65536 ≥ 32768) then .stale else .park
  | some b =>
    if m.elems ≠ b.elems ∨ m.fmt ≠ b.fmt ∨ keptFlags m.flags ≠ b.flags ∨ b.chunkCount ≤ m.chunk then .mismatch b
    else if s.canTake b msg.src m (msg.type == msgScale) then .take b
    else .park

/-- One message acted on; `keep` says what parking it means here. -/
def State.actOn (s : State) (l : Nat) (msg : Msg) (keep : State → State) : State :=
  let m := rmsgOf msg
  match s.matchMsg msg m with
  | .stale => s.bump .rdcStaleDrops (l / 24)
  | .park => keep s
  | .mismatch b => s.failFrom b Code.rdcMismatch msg l
  | .take b => s.takeMsg b l msg m

/-- A parked message taken from the park: checked again under R262, and acted on (R319). -/
def State.unparkMsg (s : State) (p : Parked) : State :=
  let s1 := s.unparkOne p
  match s1.arrivalFault p.msg.ctx p.msg.gen with
  | some _ =>
    let s2 := (s1.arrivalDrop (p.link / 24) p.msg.ctx).bump .rdcStaleDrops (p.link / 24)
    match s2.useOf (rmsgOf p.msg) with
    | some b => s2.failFrom b Code.rdcContext p.msg p.link
    | none => s2
  | none => s1.actOn p.link p.msg fun s => s

/-- Whether a parked message need not wait any longer. -/
def State.due (s : State) (p : Parked) : Bool :=
  match s.matchMsg p.msg (rmsgOf p.msg) with
  | .park => false
  | _ => true

/-- Parked messages that need wait no longer are taken, one after another; `fuel` bounds them (R319). -/
def State.settle : Nat → State → State
  | 0, s => s
  | fuel + 1, s =>
    match s.parked.find? fun p => s.due p with
    | some p => State.settle fuel (s.unparkMsg p)
    | none => s

/-- Every parked message that can be used now, used. -/
def State.settleAll (s : State) : State := State.settle s.parked.length s

/-- A message parked in RDC_PARK of its arrival press die; when it is full, the message waits with its credits withheld (R319). -/
def State.park (s : State) (l : Nat) (msg : Msg) : State :=
  let fits := s.parkFits (l / 24) msg
  let s1 := { s with parked := s.parked ++ [{ link := l, msg := msg, withheld := !fits }] }
  if fits then s1.intoPark l msg else s1

/-- A chunk or SCALE message arrives (R262, R319, R325). -/
def State.reduceArrive (s : State) (l : Nat) (msg : Msg) : State :=
  match s.arrivalFault msg.ctx msg.gen with
  | some _ =>
    let s1 := (s.freeBuffers l msg).arrivalDrop (l / 24) msg.ctx
    match s1.useOf (rmsgOf msg) with
    | some b => s1.failFrom b Code.rdcContext msg l
    | none => s1
  | none =>
    match s.matchMsg msg (rmsgOf msg) with
    | .park => s.park l msg
    | _ => ((s.freeBuffers l msg).actOn l msg fun s => s).settleAll

/-- The oldest delivered reduction message of a link that a test picks. -/
def State.takeRdc (s : State) (l : Nat) (pick : Msg → Bool) : Option (Msg × State) :=
  match s.delivered.find? fun d => d.1 == l && pick d.2 with
  | none => none
  | some d => some (d.2, { s with delivered := s.delivered.erase d })

def State.reduce (s : State) (l : Nat) : State :=
  match s.takeRdc l fun m => m.type == msgReduce && m.num 1 1 != 3 with
  | some (m, s1) => s1.reduceArrive l m
  | none => s

def execReduce (link : Nat) (s : State) : Host.Outcome State Fault Refusal := .next (s.reduce link)

def State.scaleMsg (s : State) (l : Nat) : State :=
  match s.takeRdc l fun m => m.type == msgScale with
  | some (m, s1) => s1.reduceArrive l m
  | none => s

def execScale (link : Nat) (s : State) : Host.Outcome State Fault Refusal := .next (s.scaleMsg link)

/-- An abort forwarded once, in its direction of travel (R326). -/
def State.forwardAbort (s : State) (msg : Msg) (m : RMsg) : State :=
  let p := s.place m.g
  let fwd := msg.src == p.pred
  if (s.group m.g).isNone || s.abortsSent.contains (m.g, m.id, m.seq, fwd) then s
  else s.sendAbort m msg.ctx msg.gen (if fwd then p.succ else p.pred) fwd

/-- An abort arrives: the matching use fails with its code and member, or will fail when it opens (R326). -/
def State.abortArrive (s : State) (l : Nat) (msg : Msg) : State :=
  let m := rmsgOf msg
  let s0 := s.freeBuffers l msg
  match s0.arrivalFault msg.ctx msg.gen with
  | some _ =>
    let s1 := s0.arrivalDrop (l / 24) msg.ctx
    match s1.useOf m with
    | some b => s1.failFrom b Code.rdcContext msg l
    | none => s1
  | none =>
    let s1 := match s0.useOf m with
      | some b => s0.failUse b m.code m.fpos m.fdev 0xFF 0 false
      | none =>
        if (m.seq + 65536 - s0.nextSeq m.g m.id) % 65536 < 32768 then
          { s0 with earlyAborts := ⟨m.g, m.id, m.seq, m.code, m.fpos, m.fdev⟩ :: s0.earlyAborts }
        else s0
    (s1.forwardAbort msg m).settleAll

def State.reduceAbort (s : State) (l : Nat) : State :=
  match s.takeRdc l fun m => m.type == msgReduce && m.num 1 1 == 3 with
  | some (m, s1) => s1.abortArrive l m
  | none => s

def execReduceAbort (link : Nat) (s : State) : Host.Outcome State Fault Refusal := .next (s.reduceAbort link)

/-! ### The operations (R304 to R308) -/

/-- The use that an OPEN makes. -/
def State.newUse (s : State) (t slot : Nat) (o : Op) : Bucket :=
  let b := bucketBody o.desc
  let mode := s.groupMode b.group
  let carry := mode / 2 % 2 == 1 && b.flags / 2 % 2 == 0
  { g := b.group, id := b.id, seq := s.nextSeq b.group b.id, elems := b.count, fmt := b.fmt % 16,
    flags := (if carry then rfCarry else 0) + (if mode % 2 = 1 then rfChecksum else 0) + (if b.flags % 2 = 1 then rfDeliverAll else 0),
    ctx := dCtx o.desc, gen := dGen o.desc, opened := true, stage := b.stage, result := b.result, err := b.err, scale := b.scale,
    tile := t, slot := slot, seed := o.seed, epoch := o.epoch }

/-- The finals that a late use received before its OPEN, written (R323). -/
def State.writeFinals (s : State) (b : Bucket) : State :=
  match s.current b with
  | some x => x.finals.foldl (fun s f => s.writeFinal b f) s
  | none => s

/-- An OPEN creates its bucket: OPEN_SEQ counts it; a use that became late before is joined; a use that failed before its OPEN
fails now (R304, R319, R323, R326). -/
def State.openUse (s : State) (t slot : Nat) (o : Op) : State :=
  let u := s.newUse t slot o
  let s1 := { s with openSeqs := smPut (fun _ => 0) (u.g * 65536 + u.id) ((u.seq + 1) % 65536) s.openSeqs }
  let mine := fun (e : EarlyAbort) => e.g == u.g && e.id == u.id && e.seq == u.seq
  let aborted := s1.earlyAborts.find? mine
  let s1 := { s1 with earlyAborts := s1.earlyAborts.filter fun x => !mine x }
  let fail := fun (s : State) (u : Bucket) (e : EarlyAbort) => s.failUse u e.code e.pos e.dev 0xFF 0 false
  match s1.current u with
  | some b =>
    let u' := { u with late := b.late, agreed := b.agreed, coded := b.coded, tierSums := b.tierSums, tierScales := b.tierScales,
                       finals := b.finals }
    let s2 := s1.putBucket u'
    match aborted with
    | some e => fail s2 u' e
    | none =>
      if b.elems ≠ u.elems ∨ b.fmt ≠ u.fmt ∨ b.flags ≠ u.flags then
        s2.failUse u' Code.rdcMismatch (s.place u.g).pos s.deviceId 0xFF 0
      else s2.writeFinals u'
  | none =>
    let s2 := { s1 with buckets := s1.buckets ++ [u] }
    match aborted with
    | some e => fail s2 u e
    | none => s2

/-- A BUCKET descriptor of one operation leaves its queue, when its turn has come. -/
def State.takingBucket (s : State) (t q op : Nat) : Option (Nat × Op) :=
  match s.taking t q .reduction [5] with
  | some (slot, o) => if (bucketBody o.desc).op = op then some (slot, o) else none
  | none => none

/-- A finished operation. -/
def State.opDone (s : State) (t slot : Nat) : State := s.modOp t slot fun o => { o with phase := .done }

/-- An OPEN leaves its queue: checked again against the buckets that were opened since its fetch (R306). -/
def State.bucketOpen (s : State) (t q : Nat) : State :=
  match s.takingBucket t q 0 with
  | none => s
  | some (slot, o) =>
    let r := s.leave t q slot o .reduction
    let b := bucketBody o.desc
    if b.count = 0 then r.1.opDone t slot
    else if (r.1.bucket b.group b.id).isSome then r.1.modOp t slot fun o => o.fail Code.rdcIdBusy b.id
    else if ((r.1.group b.group).map Group.outstanding).getD 0 ≤ (r.1.buckets.filter fun x => x.opened && x.g == b.group).length then
      r.1.modOp t slot fun o => o.fail Code.rdcTooMany b.group
    else (r.1.openUse t slot r.2).settleAll

def execBucketOpen (t q : Nat) (s : State) : Host.Outcome State Fault Refusal := .next (s.bucketOpen t q)

/-- The own exponent bytes of a use computed and stored after its elements (R309). -/
def State.storeOwnBytes (s : State) (b : Bucket) : State :=
  let bytes := (List.range (ceilDiv b.elems 32)).map fun k =>
    BitVec.ofNat 8 (blockByte ((List.range 32).map fun j => s.stageElem b (32 * k + j)))
  s.writeBytes b.ownBytesAt bytes

/-- A late member's contribution folded into ERR: g′, which FMT represents exactly (R323). -/
def State.foldLate (s : State) (b : Bucket) : State :=
  let bytes := (List.range b.elems).flatMap fun e =>
    if b.chunks.contains (e / 4096) then s.readBytes (b.stage + 2 * e) 2 else [0, 0]
  s.writeBytes b.err bytes

/-- The first error that the RDC meets in the regions that it reads: STAGE, ERR, and SCALE in carry mode (R258). -/
def State.regionErr (s : State) (b : Bucket) : Option MemErr :=
  let rs := [(b.stage, 2 * b.elems)] ++ (if b.err = 0 then [] else [(b.err, 2 * b.elems)]) ++
    (if b.carry then [(b.scale, ceilDiv b.elems 32)] else [])
  rs.findSome? fun r => s.accessErr [] r.1 r.2 false

/-- A bucket starts on this member (R308, R309, R323). -/
def State.startUse (s : State) (b : Bucket) : State :=
  match s.regionErr b with
  | some e => (s.noteErr e).failUseWith b e.code.1 (s.place b.g).pos s.deviceId 0xFF e.code.2 true
  | none =>
    let s1 := s.storeOwnBytes b
    let s2 := if b.late then s1.foldLate b else s1
    let b' := { b with started := true }
    let s3 := s2.putBucket b'
    (if b.late then s3 else s3.setOut b').settleAll

/-- The values of a CONTRIBUTE's source: memory, or accumulator slots (R307). -/
def State.contribution (s : State) (t : Nat) (b : BucketBody) : List FVal :=
  (List.range b.count).map fun i =>
    if b.flags / 64 % 2 = 1 then FFmt.f32.decode (s.readNat (tileBase t + accumBase + 0x1000 * (b.slot + i / 1024) + 4 * (i % 1024)) 4)
    else
      let f := (fmtOfCode (b.flags % 16)).getD .f32
      f.decode (s.readNat (b.source + i * (f.width / 8)) (f.width / 8))

/-- The range that a CONTRIBUTE reads. -/
def BucketBody.readRange (b : BucketBody) (t : Nat) : Nat × Nat :=
  if b.flags / 64 % 2 = 1 then (tileBase t + accumBase + 0x1000 * b.slot, 4 * b.count) else b.sourceRange

/-- The STAGE bytes of a CONTRIBUTE: g′ = g + ERR in FP32, stored in FMT with the descriptor's rounding (R307). -/
def State.stageBytes (s : State) (t : Nat) (o : Op) (u : Bucket) (b : BucketBody) : List Byte :=
  (s.contribution t b).zipIdx.flatMap fun p =>
    let e := b.first + p.2
    let g := if u.err = 0 then p.1 else (r32 false (p.1.add (u.format.decode (s.readNat (u.err + 2 * e) 2)))).1
    let a := u.stage + 2 * e
    leBytes 2 (u.format.round (rmOfCode (b.flags / 16 % 4) (draw o.seed o.epoch (a / 2) 0)) g).bits

/-- Whether every chunk of a use has been contributed. -/
def Bucket.full (b : Bucket) : Bool := (List.range b.chunkCount).all fun i => b.chunks.contains i

/-- A CONTRIBUTE that has left its queue: it stages its span, and the last one starts the bucket (R307, R308). -/
def State.contribute (s : State) (t slot : Nat) (o : Op) (ue : List Nat) (u : Bucket) (b : BucketBody) : State :=
  let r := b.readRange t
  let err := (s.accessErr ue r.1 r.2 false).orElse fun _ =>
    if u.err = 0 then none else s.accessErr ue (u.err + 2 * b.first) (2 * b.count) false
  match err with
  | some e => s.opErr t slot e
  | none =>
    let s1 := s.writeBytes (u.stage + 2 * b.first) (s.stageBytes t o u b)
    let u' := { u with chunks := u.chunks ++ b.chunks }
    let s2 := (s1.putBucket u').opDone t slot
    if u'.full then s2.startUse u' else s2

/-- A CONTRIBUTE leaves its queue (R306, R307). -/
def State.bucketContribute (s : State) (t q : Nat) (ue : List Nat) : State :=
  match s.takingBucket t q 1 with
  | none => s
  | some (slot, o) =>
    let r := s.leave t q slot o .reduction
    let b := bucketBody o.desc
    match r.1.bucket b.group b.id with
    | none => if b.count = 0 then r.1.opDone t slot else r.1.modOp t slot fun o => o.fail Code.rdcNotOpen b.id
    | some u =>
      if b.count = 0 then r.1.opDone t slot
      else match b.chunks.find? fun i => u.chunks.contains i with
        | some i => r.1.modOp t slot fun o => o.fail Code.rdcOverlap i
        | none =>
          if u.started then r.1.modOp t slot fun o => o.fail Code.rdcStarted b.id
          else r.1.contribute t slot r.2 ue u b

def execBucketContribute (t q : Nat) (e : Ecc) (s : State) : Host.Outcome State Fault Refusal :=
  .next ((s.corrected e.ce).bucketContribute t q e.ue)

/-- A FLUSH leaves its queue and starts a bucket that has not started (R306, R308). -/
def State.bucketFlush (s : State) (t q : Nat) : State :=
  match s.takingBucket t q 2 with
  | none => s
  | some (slot, o) =>
    let r := s.leave t q slot o .reduction
    let b := bucketBody o.desc
    match r.1.bucket b.group b.id with
    | none => r.1.modOp t slot fun o => o.fail Code.rdcNotOpen b.id
    | some u => let s1 := r.1.opDone t slot
                if u.started then s1 else s1.startUse u

def execBucketFlush (t q : Nat) (s : State) : Host.Outcome State Fault Refusal := .next (s.bucketFlush t q)

/-! ### Late-fold (R323) -/

/-- A parked partial or SCALE message that has waited for LATE_US because its use was not open or not started. -/
def State.waitedLate (s : State) (g id : Nat) : Option Parked :=
  s.parked.find? fun p =>
    let m := rmsgOf p.msg
    m.g == g && m.id == id && m.phase == 0 && (s.useOf m).elim true fun b => !b.started && !b.late

/-- The use that a late member makes of a message before its OPEN. -/
def lateUse (msg : Msg) (m : RMsg) : Bucket :=
  { g := m.g, id := m.id, seq := m.seq, elems := m.elems, fmt := m.fmt, flags := keptFlags m.flags, ctx := msg.ctx, gen := msg.gen }

/-- This member becomes late for a use (R323). -/
def State.becomeLate (s : State) (g id : Nat) : State :=
  match s.waitedLate g id with
  | none => s
  | some p =>
    if s.groupMode g / 4 % 2 = 0 then s
    else
      let m := rmsgOf p.msg
      let b := (s.useOf m).getD (lateUse p.msg m)
      let b' := { b with late := true }
      let s1 := if (s.useOf m).isSome then s.putBucket b' else { s with buckets := s.buckets ++ [b'] }
      ((s1.bump .rdcLateSkips (s.serving g)).setOut b').settleAll

def execRdcLate (g b : Nat) (s : State) : Host.Outcome State Fault Refusal := .next (s.becomeLate g b)

/-! ### Completion (R321, R322) -/

/-- Whether a use has all that completion asks: started, so that a late contribution is folded, and every final chunk. -/
def Bucket.complete (b : Bucket) : Bool :=
  b.opened && b.started && (List.range b.chunkCount).all fun i => b.finals.any fun f => f.chunk == i

/-- The reduced exponent bytes of a use, in block order. -/
def Bucket.reducedBytes (b : Bucket) : List Byte :=
  ((List.range b.chunkCount).flatMap fun i =>
    (((b.finals.find? fun f => f.chunk == i).map Final.maxexp).getD []).map (BitVec.ofNat 8)).take (ceilDiv b.elems 32)

/-- A bucket completes on this member: SCALE is written, and the OPEN is done with its information codes (R311, R321). -/
def State.bucketComplete (s : State) (g id : Nat) : State :=
  match s.bucket g id with
  | none => s
  | some b =>
    if !b.complete then s
    else
      let nf := b.overflowed || b.finals.any fun f => f.flags % 2 == 1
      let late := (b.finals.map Final.late).foldl max 0
      let cl := (b.finals.map Final.clamps).foldl max 0
      let detail := (if nf then 1 else 0) + (if late = 0 then 0 else 2) + (if cl = 0 then 0 else 4) + (if b.late then 8 else 0)
        + late * 2 ^ 16 + cl * 2 ^ 32
      let info := (if nf then 32 else 0) + (if late = 0 then 0 else 64) + (if cl = 0 then 0 else 128)
      let s1 := s.writeBytes b.scale b.reducedBytes
      let s2 := { s1 with buckets := s1.buckets.filter fun x => !(x.g == g && x.id == id && x.seq == b.seq),
                          svc := { s1.svc with scaled := (g, id) :: s1.svc.scaled.filter (· != (g, id)) } }
      let s3 := s2.bump .rdcBuckets (s.serving g)
      let s4 := if nf then { s3.bump .rdcNonfiniteBuckets (s.serving g) with svc := { s3.svc with nonfinite := (g, id) :: s3.svc.nonfinite } } else s3
      if b.orphan then s4
      else s4.modOp b.tile b.slot fun o => { o with phase := .done, detail := detail, info := o.info ||| info }

def execBucketComplete (g b : Nat) (s : State) : Host.Outcome State Fault Refusal := .next (s.bucketComplete g b)

/-! ### What other events do to buckets (R319, R325, Table 11.4) -/

/-- A context leaves OPEN: every parked message that carries it is discarded at that edge (R319). -/
def State.ctxLeavesOpen (s : State) (c : Nat) : State :=
  let ps := s.parked.filter fun p => p.msg.ctx == c
  ps.foldl (fun s p =>
    if !s.parked.any p.same then s
    else
      let s1 := ((s.unparkOne p).bump .rdcStaleDrops (p.link / 24)).bump .xferLateDrops (p.link / 24)
      match s1.useOf (rmsgOf p.msg) with
      | some b => s1.failFrom b Code.rdcContext p.msg p.link
      | none => s1) s

/-- The header of a chunk or SCALE message that a flit or a header of bytes gives. -/
def headerOf (bs : List Byte) (dest src : Nat) : RMsg :=
  rmsgOf { dest := dest, src := src, cls := 0, type := msgScale, ctx := 0, gen := 0, payload := bs }

/-- The uses of which a link's leaving UP discards a message, each with the member named: what is queued, sent and not
wholly acknowledged, or received in part (R296, R325). -/
def State.lostUses (s : State) (l : Nat) : List (RMsg × Nat) :=
  let k := s.link l
  let isR := fun (f : Flit) => f.first && (f.type == msgReduce || f.type == msgScale)
  let out := (k.queues.flatMap (·.2) ++ k.replay ++ k.ackHead.filterMap (·.2)).filter isR
  let inn := (k.partials.flatMap (·.2)).filter isR
  (out.map fun f => (headerOf (f.payload.take f.len) f.dest f.src, f.dest)) ++
  (inn.map fun f => (headerOf (f.payload.take f.len) f.dest f.src, f.src))

/-- The uses that a link's leaving UP has cost a message fail with RDC_MEMBER_LOST (R325). -/
def State.rdcLinkDown (s : State) (l : Nat) (lost : List (RMsg × Nat)) : State :=
  lost.foldl (fun s e => match s.useOf e.1 with
    | some b => s.failUse b Code.rdcMemberLost ((s.place b.g).posOf e.2) e.2 l 0
    | none => s) s

/-- Reduction starts afresh: after a blend apply, and after a reset that reaches the serving instance (R319). -/
def State.rdcRestart (s : State) (reached : Nat → Bool) : State :=
  { s with openSeqs := s.openSeqs.filter fun e => !reached (e.1 / 65536),
           earlyAborts := s.earlyAborts.filter fun e => !reached e.g,
           abortsSent := s.abortsSent.filter fun e => !reached e.1,
           digests := smMapV (fun _ => []) (fun _ ds => ds.map fun d => if reached d.g then { d with closed := true } else d) s.digests,
           buckets := s.buckets.filter fun b => !reached b.g,
           svc := { s.svc with scaled := s.svc.scaled.filter fun e => !reached e.1 } }

end Sys2Proof.Machine
end

