-- ==== Sys2Proof/Machine/LinkStates.lean ====
section
/-!
DEFINITION. Link and engine states (R280 to R285, R293 to R298): control words, frames, bring-up, retraining, the link-down
report, heartbeats, engines and their service.
-/

namespace Sys2Proof.Machine

/-! ### Peers and states -/

/-- The LINK_PEERS entry of a link. -/
def State.peerOf (s : State) (l : Nat) : Peer := (s.blend.inForce.map fun b => b.peers.getD l {}).getD {}

/-- STATE of a link (Table 10.5). -/
def LinkState.num : LinkState → Nat
  | .off => 0
  | .notPresent => 1
  | .train => 2
  | .peerCheck => 3
  | .mismatch => 4
  | .up => 5
  | .retrain => 6
  | .failed => 7

/-- MODULE_STATE (Table 14.2). -/
def ModState.num : ModState → Nat
  | .starting => 0
  | .ready => 1
  | .deepIdle => 2
  | .safe => 3
  | .tin => 4
  | .resetting => 5

/-- The engine of a link (R273). -/
def engineOf (l : Nat) : Nat := l / 12

/-- The links of an engine. -/
def linksOf (e : Nat) : List Nat := (List.range 12).map fun i => 12 * e + i

/-- A link in a new state. -/
def State.linkTo (s : State) (l : Nat) (st : LinkState) : State := s.setLink l { s.link l with state := st, checked := false }

/-- One TRAIN attempt starts; ATTEMPTS counts those since the last UP (Table 10.10). -/
def State.attempt (s : State) (l : Nat) : State :=
  (s.set .flinkStatusAttempts l 0 (min (s.get .flinkStatusAttempts l + 1) 15)).setLink l
    { s.link l with checked := false, tries := (s.link l).tries + 1 }

/-- A link with light starts TRAIN at once while AUTO is 1 (R283). -/
def State.maybeTrain (s : State) (l : Nat) : State :=
  let k := s.link l
  if k.state = .notPresent ∧ k.light = true ∧ s.get .flinkCtlAuto l = 1 then
    (s.setLink l { k with state := .train, tries := 0 }).attempt l
  else s

/-- A link leaves OFF while its engine is READY and not under SERVICE, ENABLE is 1 and the blend names a peer (R282, R297). -/
def State.bring (s : State) (l : Nat) : State :=
  if (s.link l).state = .off ∧ (s.engine (engineOf l)).state = .ready ∧ (s.engine (engineOf l)).service = false ∧ s.get .flinkCtlEnable l = 1 ∧ (s.peerOf l).id ≠ 0xFFFF then
    (s.linkTo l .notPresent).maybeTrain l
  else s

/-! ### The link-down report (R296) -/

/-- How the operation of a lost request fails (R246, R270). -/
def Req.lost (r : Req) : Nat × Nat :=
  (if r.kind = .syncAdd then Code.syncRemoteLost else Code.xferRemoteLost, r.dest * 2 ^ 32 + r.link * 2 ^ 48)

/-- The requests that a test picks are abandoned: their operations fail, and a later reply to them is dropped (R262, R296). -/
def State.abandonRequests (s : State) (pick : Req → Bool) (why : Req → Nat × Nat) : State :=
  let rs := s.requests.filter pick
  let s1 := { s with requests := s.requests.filter fun r => !pick r, abandoned := s.abandoned ++ rs.map fun r => (r.tag, false) }
  rs.foldl (fun s r => s.modOp r.tile r.slot fun o => o.fail (why r).1 (why r).2) s1

/-- What a link loses as it leaves UP: queued flits, the replay buffer, messages in part. -/
def Link.emptied (k : Link) : Link :=
  { k with replay := [], resend := [], queues := [], cur := [], partials := [], txHead := [], rxHead := [], nakWanted := false,
           nakCount := 0, rackDue := none, rackRx := none, moved := [], through := [], ackHead := [], rackLost := k.rackLost || k.rackCount.isSome }

/-- The code that a cause of leaving UP records: light lost, laser fault, retrain; the others record none. -/
def causeCode (cause : Nat) : Option Nat :=
  match cause with
  | 0 => some Code.flinkLos
  | 3 => some Code.flinkLaserFault
  | 4 => some Code.flinkRetrain
  | _ => none

/-- A link that is UP leaves it, with its link-down report (R295, R296). -/
def State.leaveUp (s : State) (l : Nat) (st : LinkState) (cause : Nat) : State :=
  if (s.link l).state ≠ .up then s
  else
    let lost := s.lostUses l
    let peer := s.get .flinkStatusPeerId l
    let s1 := s.setLink l { (s.link l).emptied with state := st, checked := false, tries := 0 }
    let s2 := s1.abandonRequests (fun r => r.link == l) Req.lost
    let s3 := s2.rdcLinkDown l lost
    let s4 := s3.set .flinkStatusCause l 0 cause
    let s5 := match causeCode cause with
      | some c => s4.set .flinkStatusCode l 0 c
      | none => s4
    let s6 := if st = .retrain then s5.bump .flinkRetrains l else if st = .notPresent then s5.bump .flinkLosEvents l else s5
    let s7 := s6.alarm ((causeCode cause).getD Code.flinkLos) (unitLink l) { peer := peer, link := l }
    let s8 := if s.get .flinkCtlDownSignal l = 1 then s7.signalService (s.get .flinkCtlDownSync l) else s7
    s8.event 4 (s8.get .flinkStatusCode l) (l + cause * 2 ^ 8 + st.num * 2 ^ 12) peer

/-- A control word that this module sends on a link (Table 10.2). -/
def State.ctlWord (s : State) (l : Nat) (dark retrain : Bool) : CtlWord :=
  let k := s.link l
  { ackSeq := k.rxSeq, nak := k.nakWanted, goingDark := dark, retrainReq := retrain, senderLink := l, senderId := s.deviceId,
    credits := (List.range 4).map k.freedOf }

/-- A control word leaves: the buffers freed so far are reported, and a NAK is counted (R276, R280, R286). -/
def State.wordSent (s : State) (l : Nat) : State :=
  let s1 := s.setLink l { s.link l with freed := [] }
  if (s.link l).nakWanted then s1.bump .flinkNaksSent l else s1

/-- A frame without sequenced flits. -/
def State.bareFrame (s : State) (l : Nat) (dark retrain : Bool) : State :=
  { s.wordSent l with frames := s.frames ++ [{ link := l, word := s.ctlWord l dark retrain, flits := [] }] }

/-- Links turn dark: GOING_DARK in two frames, then the transmitter is dark and the link OFF (R294). -/
def State.darken (s : State) (ls : List Nat) (cause : Nat) : State :=
  ls.foldl (fun s l =>
    if (s.link l).state = .off then s
    else (((s.bareFrame l true false).bareFrame l true false).leaveUp l .off cause).linkTo l .off) s

/-- A link that is UP enters RETRAIN: the peer is asked to follow, and TRAIN runs again (R284). -/
def State.retrain (s : State) (l : Nat) (ask : Bool) : State :=
  if (s.link l).state ≠ .up then s
  else
    let s1 := s.leaveUp l .retrain 4
    (if ask then s1.bareFrame l false true else s1).attempt l

/-! ### Control words (R276, R281, R284, R286, R295) -/

/-- Whether ACK_SEQ acknowledges a sequence number. -/
def acks (ack seq : Nat) : Bool := decide (1 ≤ (ack + 65536 - seq) % 65536 ∧ (ack + 65536 - seq) % 65536 ≤ 32768)

/-- A flit acknowledged: the first flit of a message is kept until its last one is (R325). -/
def Link.noteAck (k : Link) (f : Flit) : Link :=
  if f.last then { k with ackHead := smPut (fun _ => none) f.cls none k.ackHead }
  else if f.first then { k with ackHead := smPut (fun _ => none) f.cls (some f) k.ackHead }
  else k

/-- Acknowledged flits leave the replay buffer, and credits return. -/
def Link.acked (k0 : Link) (w : CtlWord) : Link :=
  let k := (k0.replay.filter fun f => acks w.ackSeq f.seq).foldl Link.noteAck k0
  let k1 := { k with replay := k.replay.filter fun f => !acks w.ackSeq f.seq, resend := k.resend.filter fun f => !acks w.ackSeq f.seq }
  (List.range 4).foldl (fun k c => k.setCredit c (min (k.credit c + w.credits.getD c 0) (classBuffers c))) k1

/-- A NAK: every held flit from ACK_SEQ is due again; the third in a row for one SEQ retrains the link (R281). -/
def State.nakked (s : State) (l : Nat) (w : CtlWord) : State :=
  let k := s.link l
  let n := if k.nakCount ≠ 0 ∧ k.nakSeq = w.ackSeq then k.nakCount + 1 else 1
  let s1 := s.setLink l { k with nakSeq := w.ackSeq, nakCount := n, resend := k.replay }
  if n = 3 then (s1.logCode Code.flinkRetryLimit (unitLink l) { peer := w.senderId, link := l }).retrain l true else s1

/-- A control word arrives; one whose CRC is wrong is not valid and means nothing (R276, R295). -/
def State.controlWord (s : State) (l : Nat) (bs : List Byte) : State :=
  let k := s.link l
  let w := wordOf bs
  if !crcHolds 64 bs then s
  else if k.state = .peerCheck ∨ k.state = .retrain ∨ k.state = .up then
    let s1 := (s.set .flinkStatusPeerId l 0 w.senderId).set .flinkStatusPeerLink l 0 w.senderLink
    if k.state ≠ .up then s1
    else if w.goingDark then s1.leaveUp l .notPresent 1
    else if w.retrainReq then s1.retrain l false
    else
      let s2 := s1.setLink l (k.acked w)
      if w.nak then s2.nakked l w else s2.setLink l { s2.link l with nakCount := 0 }
  else s

def execControlWord (link : Nat) (bytes : List Byte) (s : State) : Host.Outcome State Fault Refusal := .next (s.controlWord link bytes)

/-- One frame sent (R276, R287, R288): its control word, then 76 flit slots while the link is UP; the class 0 bucket gains for
each of the frame's 325 clocks. -/
def State.frameTransmit (s : State) (l : Nat) : State :=
  let k := s.link l
  if k.state = .off then s
  else
    let word := s.ctlWord l false (k.state = .retrain)
    let s2 := s.wordSent l
    match k.state, s.blend.inForce with
    | .up, some b =>
      let r := State.txSlots l b 76 (s2.setLink l ((s2.link l).refill b 1)) []
      let s3 := r.1.setLink l ((r.1.link l).refill b 20)
      { s3 with frames := s3.frames ++ [{ link := l, word := word, flits := r.2 }] }
    | _, _ => { s2 with frames := s2.frames ++ [{ link := l, word := word, flits := [] }] }

def execFrameTransmit (link : Nat) (s : State) : Host.Outcome State Fault Refusal := .next (s.frameTransmit link)

/-! ### Light and bring-up (R282 to R285, R295) -/

/-- Light below the receive threshold for 1,600 link clocks (R283, R295). -/
def State.loseLight (s : State) (l : Nat) : State :=
  let s1 := s.setLink l { s.link l with light := false }
  match (s.link l).state with
  | .up => s1.leaveUp l .notPresent 0
  | .train => s1.linkTo l .notPresent
  | .peerCheck => s1.linkTo l .notPresent
  | .retrain => s1.linkTo l .notPresent
  | _ => s1

def execLossOfLight (link : Nat) (s : State) : Host.Outcome State Fault Refusal := .next (s.loseLight link)

/-- Light arrives (R283). -/
def State.lightArrive (s : State) (l : Nat) : State := (s.setLink l { s.link l with light := true }).maybeTrain l

def execLightArrive (link : Nat) (s : State) : Host.Outcome State Fault Refusal := .next (s.lightArrive link)

/-- A TRAIN attempt achieves lock: the link enters PEER_CHECK; a retraining link stays RETRAIN as it does (R283, R284). -/
def State.trainDone (s : State) (l : Nat) : State :=
  let k := s.link l
  match k.state with
  | .train => s.setLink l { k with state := .peerCheck, checked := false }
  | .retrain => s.setLink l { k with checked := true }
  | _ => s

def execTrainDone (link : Nat) (s : State) : Host.Outcome State Fault Refusal := .next (s.trainDone link)

/-- A TRAIN attempt exceeds its bound: TRAIN starts again, or the link goes to FAILED (R283). -/
def State.trainTimeout (s : State) (l : Nat) : State :=
  let k := s.link l
  if k.state = .train ∨ (k.state = .retrain ∧ k.checked = false) then
    if k.tries < s.get .flinkCtlTrainLimit l then s.attempt l
    else ((s.linkTo l .failed).set .flinkStatusCode l 0 Code.flinkTrainFail).logCode Code.flinkTrainFail (unitLink l)
      { peer := (s.peerOf l).id, link := l }
  else s

def execTrainTimeout (link : Nat) (s : State) : Host.Outcome State Fault Refusal := .next (s.trainTimeout link)

/-- A link as it enters UP: sequences at 0, credits whole, the class 0 bucket at CLASS0_DEPTH (R284, R286, R288). -/
def Link.goUp (k : Link) (depth : Nat) : Link :=
  { k.emptied with state := .up, checked := false, tries := 0, txSeq := 0, rxSeq := 0, credits := [], freed := [], waited := false,
                   drr := [], turn := 1, tokens := depth * 1000 }

/-- The peer check ends: UP when the received pair is the entry's and the peer's own check passed, else MISMATCH (R285). -/
def State.peerCheckDone (s : State) (l id pl : Nat) (passed : Bool) : State :=
  let k := s.link l
  if k.state = .peerCheck ∨ (k.state = .retrain ∧ k.checked = true) then
    let s1 := (s.set .flinkStatusPeerId l 0 id).set .flinkStatusPeerLink l 0 pl
    let p := s.peerOf l
    if p.id = id ∧ p.link = pl ∧ passed = true then
      (s1.setLink l (k.goUp ((s.blend.inForce.map Blend.class0Depth).getD 0))).set .flinkStatusAttempts l 0 0
    else
      ((s1.linkTo l .mismatch).set .flinkStatusCode l 0 Code.flinkPeerMismatch).logCode Code.flinkPeerMismatch (unitLink l)
        { peer := id, link := l }
  else s

def execPeerCheckDone (link id peerLink : Nat) (peerPassed : Bool) (s : State) : Host.Outcome State Fault Refusal :=
  .next (s.peerCheckDone link id peerLink peerPassed)

/-- Frame lock lost for 4 consecutive frames (R284). -/
def execFrameLockLost (link : Nat) (s : State) : Host.Outcome State Fault Refusal := .next (s.retrain link true)

/-- More than UE_LIMIT codewords of `n` within 1 ms failed to decode (R284). -/
def State.fecUeLimit (s : State) (l n : Nat) : State := if s.get .flinkCtlUeLimit l < n then s.retrain l true else s

def execFecUeLimit (link n : Nat) (s : State) : Host.Outcome State Fault Refusal := .next (s.fecUeLimit link n)

/-! ### Heartbeats (R293, R400) -/

/-- A heartbeat sent on an UP link. -/
def State.heartbeatSend (s : State) (l : Nat) : State :=
  let k := s.link l
  if k.state ≠ .up then s
  else
    let beat := (k.beat + 1) % 65536
    (s.setLink l { k with beat := beat }).sendOn l
      { dest := (s.peerOf l).id, src := s.deviceId, cls := 0, type := msgHeartbeat, ctx := 0, gen := 0,
        payload := leBytes 2 beat ++ leBytes 1 s.rel.mode.num ++ leBytes 1 0 }

def execHeartbeatSend (link : Nat) (s : State) : Host.Outcome State Fault Refusal := .next (s.heartbeatSend link)

/-- A heartbeat sent on every UP link. -/
def State.heartbeatAll (s : State) : State := (List.range 96).foldl (fun s l => s.heartbeatSend l) s

/-- MODULE_STATE changes: a heartbeat is sent at once on every UP link (R400). -/
def State.setMode (s : State) (m : ModState) : State :=
  if s.rel.mode = m then s else { s with rel := { s.rel with mode := m } }.heartbeatAll

/-- A heartbeat arrives: the peer's beat and module state (R400). -/
def State.heartbeatArrive (s : State) (l : Nat) : State :=
  match s.takeDelivered l msgHeartbeat with
  | some (m, s1) => s1.setLink l { s1.link l with peerBeat := m.num 0 2, peerState := m.num 2 1 }
  | none => s

def execHeartbeat (link : Nat) (s : State) : Host.Outcome State Fault Refusal := .next (s.heartbeatArrive link)

/-- No heartbeat for 4 × HB_US (R293). -/
def State.peerSilent (s : State) (l : Nat) : State :=
  if (s.link l).state ≠ .up then s
  else (s.logCode Code.flinkPeerSilent (unitLink l) { peer := s.get .flinkStatusPeerId l, link := l }).retrain l true

def execFlinkPeerSilent (link : Nat) (s : State) : Host.Outcome State Fault Refusal := .next (s.peerSilent link)

/-! ### Optical engines (R282, R283, R297) -/

/-- FLINK_ENGINE.SERVICE in the blocks of an engine's links (Table 10.10). -/
def State.showService (s : State) (e v : Nat) : State := (linksOf e).foldl (fun s l => s.set .flinkEngineService l 0 v) s

/-- An engine starts: LASER_WAIT, SERVICE no longer in force. -/
def State.engineStart (s : State) (e : Nat) : State :=
  (s.setEngine e { s.engine e with state := .laserWait, service := false }).showService e 0

/-- An engine goes to FAULT with a code; its links issue their link-down reports with CAUSE 3 and are OFF (R283, R297). -/
def State.engineFault (s : State) (e code : Nat) : State :=
  let s1 := s.setEngine e { s.engine e with state := .fault }
  ((linksOf e).foldl (fun s l => ((s.leaveUp l .off 3).linkTo l .off).set .flinkStatusCode l 0 code) s1).logCode code (unitEngine e)

/-- The source's carriers lock (R282). -/
def State.laserWaitDone (s : State) (e : Nat) : State :=
  let x := s.engine e
  if x.state = .laserWait ∧ x.source = true ∧ x.service = false then s.setEngine e { x with state := .ringTune } else s

def execLaserWaitDone (e : Nat) (s : State) : Host.Outcome State Fault Refusal := .next (s.laserWaitDone e)

/-- LASER_WAIT exceeds its bound, or the output of the source fails (R283, R297). -/
def State.laserFault (s : State) (e : Nat) : State :=
  let x := s.engine e
  if x.service = false ∧ (x.state = .laserWait ∨ x.state = .ringTune ∨ x.state = .ready) then s.engineFault e Code.flinkLaserFault else s

def execFlinkLaserFault (e : Nat) (s : State) : Host.Outcome State Fault Refusal := .next (s.laserFault e)

/-- The ring heaters lock: the engine is READY, and its links may leave OFF (R282). -/
def State.ringTuneDone (s : State) (e : Nat) : State :=
  let x := s.engine e
  if x.state = .ringTune ∧ x.service = false then
    (linksOf e).foldl (fun s l => s.bring l) (s.setEngine e { x with state := .ready })
  else s

def execRingTuneDone (e : Nat) (s : State) : Host.Outcome State Fault Refusal := .next (s.ringTuneDone e)

/-- RING_TUNE exceeds its bound (R283). -/
def State.ringTuneFail (s : State) (e : Nat) : State :=
  if (s.engine e).state = .ringTune ∧ (s.engine e).service = false then s.engineFault e Code.flinkRingTuneFail else s

def execFlinkRingTuneFail (e : Nat) (s : State) : Host.Outcome State Fault Refusal := .next (s.ringTuneFail e)

/-- A laser source inserted: while SERVICE is set, LASER_WAIT starts (R297). -/
def State.laserInsert (s : State) (e : Nat) : State :=
  let x := { s.engine e with source := true }
  let s1 := s.setEngine e x
  if x.service = true ∧ s.domainOn (domOptical e) = true then s1.engineStart e else s1

def execLaserInsert (e : Nat) (s : State) : Host.Outcome State Fault Refusal := .next (s.laserInsert e)

/-- A laser source removed: without SERVICE an engine that uses it goes to FAULT (R297). -/
def State.laserRemove (s : State) (e : Nat) : State :=
  let x := { s.engine e with source := false }
  let s1 := s.setEngine e x
  if x.service = false ∧ (x.state = .laserWait ∨ x.state = .ringTune ∨ x.state = .ready) then s1.engineFault e Code.flinkLaserFault else s1

def execLaserRemove (e : Nat) (s : State) : Host.Outcome State Fault Refusal := .next (s.laserRemove e)

/-! ### Commands (R284, R285, R297, R298) -/

/-- A command in a state where it has no meaning (R298). -/
def State.linkCmdState (s : State) (l : Nat) : State := s.set .flinkStatusCode l 0 Code.flinkCmdState

/-- FLINK_CMD.RETRAIN. -/
def State.linkRetrain (s : State) (l : Nat) : State := if (s.link l).state = .up then s.retrain l true else s.linkCmdState l

/-- A write to a register of a link's FLINK block, at offset `o`, which its domain must not refuse (R38). -/
def State.flinkCmdOn (s : State) (l o : Nat) (f : State → State) : State :=
  if s.domainOn (domPress (l / 24)) then f s else s.ctlRefuse Code.ctlDomainOff (0x20000 + l * 0x1000 + o)

def execLinkRetrain (link : Nat) (s : State) : Host.Outcome State Fault Refusal :=
  .next (s.flinkCmdOn link 8 fun s => s.linkRetrain link)

/-- FLINK_CMD.RESTART, from MISMATCH or FAILED. -/
def State.linkRestart (s : State) (l : Nat) : State :=
  if (s.link l).state = .mismatch ∨ (s.link l).state = .failed then (s.linkTo l .notPresent).maybeTrain l else s.linkCmdState l

def execLinkRestart (link : Nat) (s : State) : Host.Outcome State Fault Refusal :=
  .next (s.flinkCmdOn link 8 fun s => s.linkRestart link)

/-- FLINK_ENGINE_CMD.RESTART through the block of link `l`: from OFF or FAULT. -/
def State.engineRestart (s : State) (l : Nat) : State :=
  let e := engineOf l
  let x := s.engine e
  if (x.state = .off ∨ x.state = .fault) ∧ s.domainOn (domOptical e) = true then s.engineStart e else s.linkCmdState l

/-- The table's row names the engine; the command is taken through the block of its first link. -/
def execEngineRestart (e : Nat) (s : State) : Host.Outcome State Fault Refusal :=
  .next (s.flinkCmdOn (12 * e) 0x30 fun s => s.engineRestart (12 * e))

/-- FLINK_ENGINE_CMD.SERVICE through the block of link `l`: the engine's links turn dark with CAUSE 2 (R297). -/
def State.engineService (s : State) (l : Nat) : State :=
  let e := engineOf l
  if (s.engine e).service then s.linkCmdState l
  else ((s.darken (linksOf e) 2).setEngine e { s.engine e with service := true }).showService e 1

def execEngineService (e : Nat) (s : State) : Host.Outcome State Fault Refusal :=
  .next (s.flinkCmdOn (12 * e) 0x30 fun s => s.engineService (12 * e))

/-- The engine under service has switched its laser source off and is OFF (R297). -/
def State.engineServiceOff (s : State) (e : Nat) : State :=
  if (s.engine e).service then s.setEngine e { s.engine e with state := .off } else s

def execEngineServiceOff (e : Nat) (s : State) : Host.Outcome State Fault Refusal := .next (s.engineServiceOff e)

/-- A write of FLINK_CMD. -/
def State.linkCmd (s : State) (l cmd : Nat) : State :=
  if cmd = 1 then s.linkRetrain l else if cmd = 2 then s.linkRestart l else s

/-- A write of FLINK_ENGINE_CMD. -/
def State.engineCmd (s : State) (l cmd : Nat) : State :=
  if cmd = 1 then s.engineRestart l else if cmd = 2 then s.engineService l else s

/-- An FLINK commit's effects: ENABLE 0 takes the link to OFF with its report (CAUSE 5), ENABLE 1 brings it up, AUTO 1 starts
TRAIN (R298). -/
def State.flinkCommitted (s : State) (l : Nat) : State :=
  if s.get .flinkCtlEnable l = 0 then s.darken [l] 5 else (s.bring l).maybeTrain l

/-- What a blend's commit point does to links: one without a peer turns dark, MISMATCH ends, and others leave OFF (R282, R285). -/
def State.linksOnBlend (s : State) : State :=
  (List.range 96).foldl (fun s l =>
    let s := s.setLink l { s.link l with moved := [] }
    if (s.peerOf l).id = 0xFFFF then s.darken [l] 5
    else if (s.link l).state = .mismatch then (s.linkTo l .notPresent).maybeTrain l
    else s.bring l) s

/-- The engines whose domains are on and that are OFF, without SERVICE, start (R394, R434). -/
def State.startEngines (s : State) (es : List Nat) : State :=
  es.foldl (fun s e =>
    if s.domainOn (domOptical e) && (s.engine e).state == .off && !(s.engine e).service then s.engineStart e else s) s

end Sys2Proof.Machine
end

