-- ==== Sys2Proof/Machine/Contexts.lean ====
section
/-!
DEFINITION. Transfer contexts (R259 to R263): commands, the edge, teardown, quarantine; and the probe of R255.
-/

namespace Sys2Proof.Machine

/-! ### The entry image (Table 9.2) -/

/-- The eight words of XFER_CTX_ENTRY of an instance. -/
def State.entryImage (s : State) (inst : Nat) : List W64 := (List.range 8).map fun w => s.word (Fld.xferCtxEntry.addr inst w)

/-- Whether a reserved bit of an entry image is set: FLAGS [7:4], and bytes 3, 12 to 15 and 48 to 63. -/
def imageReserved (ws : List W64) : Bool :=
  let w := fun i => ws.getD i 0
  fieldOf (w 0) 23 20 != 0 || fieldOf (w 0) 31 24 != 0 || fieldOf (w 1) 63 32 != 0 || w 6 != 0 || w 7 != 0

/-- The windows of an image: each base and size in units of 64 KiB. -/
def imageWindows (ws : List W64) : List (Nat × Nat) :=
  (List.range 4).map fun i => (fieldOf (ws.getD (2 + i) 0) 63 32, fieldOf (ws.getD (2 + i) 0) 31 0)

/-- The words of an entry, as QUERY shows them. -/
def entryWords (e : Ctx) : List W64 :=
  [BitVec.ofNat 64 (e.state.num + e.gen * 2 ^ 8 + e.flags * 2 ^ 16 + e.job * 2 ^ 32), BitVec.ofNat 64 e.drops] ++
  (e.windows.take 4).map (fun w => BitVec.ofNat 64 (w.1 * 2 ^ 32 + w.2)) ++ [0, 0]

/-! ### Commands (R260) -/

/-- The command that awaits its edge at an instance. -/
def State.ctxCmd (s : State) (inst : Nat) : Option CtxCmd := smGet (fun _ => none) s.ctxCmds inst

/-- Why a context command is refused (R260); `cmd` 1 OPEN, 2 RETIRE, 3 QUERY. -/
def State.ctxRefusal (s : State) (inst cmd : Nat) : Option Nat :=
  let c := s.get .xferCtxSelIndex inst
  let e := s.ctx c
  if s.get .capContextsCount ≤ c ∨ c % 4 ≠ inst then some Code.ctxRange
  else if cmd = 1 ∧ e.state = .quarantine then some Code.ctxQuarantine
  else if (s.ctxCmd inst).isSome then some Code.ctxBusy
  else if cmd = 1 ∧ e.state ≠ .free then some Code.ctxBusy
  else if cmd = 2 ∧ e.state ≠ .open then some Code.ctxBusy
  else if cmd = 1 ∧ imageReserved (s.entryImage inst) = true then some Code.ctxEntry
  else none

/-- The result of a command in XFER_CTX_STATUS. -/
def State.ctxStatus (s : State) (inst code c : Nat) : State :=
  (s.set .xferCtxStatusCode inst 0 code).set .xferCtxStatusState inst 0 (s.ctx c).state.num

/-- What a command carries to its edge. -/
def State.ctxCapture (s : State) (inst cmd : Nat) (w : W64) : CtxCmd :=
  let ws := s.entryImage inst
  { retire := cmd == 2, index := s.get .xferCtxSelIndex inst, gen := fieldOf (ws.getD 0 0) 15 8, flags := fieldOf (ws.getD 0 0) 19 16,
    job := fieldOf (ws.getD 0 0) 63 32, windows := imageWindows ws,
    signal := if cmd = 2 ∧ fieldOf w 15 15 = 1 then some (fieldOf w 23 16) else none }

/-- A write of XFER_CTX_CMD (R260): refused, answered at once (QUERY), or captured until its edge. -/
def State.ctxCommand (s : State) (inst cmd : Nat) (w : W64) : State :=
  let c := s.get .xferCtxSelIndex inst
  if cmd = 0 then s
  else match s.ctxRefusal inst cmd with
    | some code => s.ctxStatus inst code c
    | none =>
      if cmd = 3 then
        ((entryWords (s.ctx c)).zipIdx.foldl (fun s p => s.setWord (Fld.xferCtxEntry.addr inst p.2) p.1) s).ctxStatus inst 0 c
      else
        let s1 := s.ctxStatus inst 0 c
        { s1 with ctxCmds := smPut (fun _ => none) inst (some (s.ctxCapture inst cmd w)) s1.ctxCmds }

/-- A context command on its press die, which must be on (R38). -/
def State.ctxCommandOn (s : State) (inst cmd : Nat) (w : W64) : State :=
  if s.domainOn (domPress inst) then s.ctxCommand inst cmd w else s.ctlRefuse Code.ctlDomainOff (Fld.xferCtxCmdCmd.addr inst 0)

def execCtxOpen (inst : Nat) (w : W64) (s : State) : Host.Outcome State Fault Refusal := .next (s.ctxCommandOn inst 1 w)

def execCtxRetire (inst : Nat) (w : W64) (s : State) : Host.Outcome State Fault Refusal := .next (s.ctxCommandOn inst 2 w)

def execCtxQuery (inst : Nat) (w : W64) (s : State) : Host.Outcome State Fault Refusal := .next (s.ctxCommandOn inst 3 w)

/-! ### The edge (R259, R261) -/

/-- The slots of the module, each with its tile, slot and operation. -/
def State.allOps (s : State) : List (Nat × Nat × Op) := s.tiles.flatMap fun e => e.2.ops.map fun p => (e.1, p.1, p.2)

/-- At the edge of a RETIRE, a DMA in flight fails with CTX_STALE_GEN once every request that it has issued is accounted for (R261). One
that has not left its queue yet has issued none (`State.staleAt`). -/
def State.staleDmas (s : State) (c oldGen newGen : Nat) : State :=
  s.allOps.foldl (fun s p =>
    if dKind p.2.2.desc == 4 && dCtx p.2.2.desc == c && p.2.2.hasLeft then
      s.modOp p.1 p.2.1 fun o => o.fail Code.ctxStaleGen (c + oldGen * 2 ^ 16 + newGen * 2 ^ 24)
    else s) s

/-- A queue pair's transfer context and its generation (Table 12.2). -/
def Qp.ctx (x : Qp) : Nat := leNat ((x.body.drop 2).take 2)
def Qp.gen (x : Qp) : Nat := leNat ((x.body.drop 4).take 1)

/-- A port or RoCEv2 code recorded in ETH_ERR (Table 12.9). -/
def State.ethErr (s : State) (code qp : Nat) : State := (s.set .ethErrCode 0 0 code).set .ethErrQp 0 0 qp

/-- The requests of a queue pair fail with a code; inputs that they asked for are no longer on their way. -/
def State.failRoce (s : State) (n code : Nat) : State :=
  let x := s.qp n
  let idx := (x.out.filter RoceReq.read).map RoceReq.idx
  let s1 := if x.out.isEmpty then s else s.ethErr code n
  let s2 := s1.setQp n { x with out := [], retries := 0, rnrRetries := 0 }
  { s2 with svc := { s2.svc with asked := s2.svc.asked.filter fun i => !idx.contains i } }

/-- A queue pair enters the error state, and its requests fail. -/
def State.qpError (s : State) (n code : Nat) : State :=
  let s1 := s.failRoce n code
  s1.setQp n { s1.qp n with error := true }

/-- A context's queue pairs enter the error state when it is retired (R341). -/
def State.qpsOf (s : State) (c : Nat) : List Nat := (s.qps.filter fun e => e.2.opened && e.2.ctx == c).map Prod.fst

/-- An OPEN at its edge (R260). -/
def State.ctxOpenAt (s : State) (c : CtxCmd) : State :=
  s.setCtx c.index { state := .open, gen := c.gen, flags := c.flags, job := c.job, drops := 0, windows := c.windows }

/-- A RETIRE at its edge (R261): GEN increments, STATE is DRAINING, and parked messages of the context are discarded (R319). -/
def State.ctxRetireAt (s : State) (c : CtxCmd) : State :=
  let e := s.ctx c.index
  let gen := (e.gen + 1) % 256
  let s1 := ((s.setCtx c.index { e with gen := gen, state := .draining, signal := c.signal }).staleDmas c.index e.gen gen)
  (s.qpsOf c.index).foldl (fun s n => s.qpError n Code.roceQpError) (s1.ctxLeavesOpen c.index)

/-- The edge at which a captured command changes all four replicas (R259). -/
def State.ctxEdge (s : State) (inst : Nat) : State :=
  match s.ctxCmd inst with
  | none => s
  | some c =>
    let s1 := { s with ctxCmds := smPut (fun _ => none) inst none s.ctxCmds }
    let s2 := if c.retire then s1.ctxRetireAt c else s1.ctxOpenAt c
    s2.ctxStatus inst 0 c.index

def execCtxEdge (inst : Nat) (s : State) : Host.Outcome State Fault Refusal := .next (s.ctxEdge inst)

/-! ### Teardown (R261) -/

/-- Whether a DRAINING context has nothing left: no slot holds an operation that names it, and every request is accounted for. -/
def State.ctxIdle (s : State) (c : Nat) : Bool :=
  !(s.allOps.any fun p => dCtx p.2.2.desc == c) && !(s.requests.any fun r => r.ctx == c)

/-- DRAINING ends. -/
def State.ctxDrained (s : State) (c : Nat) : State :=
  if (s.ctx c).state = .draining ∧ s.ctxIdle c = true then s.setCtx c { s.ctx c with state := .quarantine } else s

def execCtxDrained (c : Nat) (s : State) : Host.Outcome State Fault Refusal := .next (s.ctxDrained c)

/-- DRAIN_US passes first: the outstanding requests are abandoned (R261). -/
def State.ctxDrainTimeout (s : State) (c : Nat) : State :=
  if (s.ctx c).state = .draining then
    let s1 := s.abandonRequests (fun r => r.ctx == c) Req.lost
    s1.setCtx c { s1.ctx c with state := .quarantine }
  else s

def execCtxDrainTimeout (c : Nat) (s : State) : Host.Outcome State Fault Refusal := .next (s.ctxDrainTimeout c)

/-- QUARANTINE_US passes: FREE, counted at its home, and the RETIRE's signal sent (R261). -/
def State.ctxQuarantineEnd (s : State) (c : Nat) : State :=
  let e := s.ctx c
  if e.state = .quarantine then
    let s1 := (s.setCtx c { e with state := .free, signal := none }).bump .xferTeardowns (c % 4)
    match e.signal with
    | some n => s1.signalService n
    | none => s1
  else s

def execCtxQuarantineEnd (c : Nat) (s : State) : Host.Outcome State Fault Refusal := .next (s.ctxQuarantineEnd c)

/-! ### The probe (R255) -/

/-- XFER_PROBE_RESULT for an address: VALID, STACK, LOCAL. STACK is 0xFF outside the stack range; STACK and LOCAL of an unmapped
stack address and LOCAL outside the stack range are open (log 2). -/
def State.probe (s : State) (a : Nat) : W64 :=
  match placeOf (s.get .capMemoryScratchKib) a with
  | .stack => match mapStack s.regions a with
    | some (x, l) => BitVec.ofNat 64 (2 ^ 63 + x * 2 ^ 40 + l % 2 ^ 36)
    | none => BitVec.ofNat 64 (Config.openResult a 0 1 % 2 ^ 8 * 2 ^ 40 + Config.openResult a 1 1 % 2 ^ 36)
  | _ => BitVec.ofNat 64 ((if s.mapped a then 2 ^ 63 else 0) + 0xFF * 2 ^ 40 + Config.openResult a 1 1 % 2 ^ 36)

/-- A write of XFER_PROBE. -/
def State.xferProbe (s : State) (inst : Nat) (v : W64) : State :=
  if s.domainOn (domPress inst) then s.set .xferProbeAddress inst 0 (fieldOf v 47 0)
  else s.ctlRefuse Code.ctlDomainOff (Fld.xferProbeAddress.addr inst 0)

def execXferProbe (inst : Nat) (v : W64) (s : State) : Host.Outcome State Fault Refusal := .next (s.xferProbe inst v)

end Sys2Proof.Machine
end

