-- ==== Sys2Proof/Machine/Sync.lean ====
section
/-!
DEFINITION. Sync counters and the operations of the sync unit (R236 to R250), but for REMOTE_ADD, which sends a message.
-/

namespace Sys2Proof.Machine

/-! ### Signals in transit (R238, R243) -/

/-- The first `n` signals in transit to a counter, and what stays in transit. -/
def takeSignals (id : Nat) : Nat → List Signal → List Signal × List Signal
  | 0, xs => ([], xs)
  | _ + 1, [] => ([], [])
  | n + 1, x :: xs =>
    if x.id = id then
      let r := takeSignals id n xs
      (x :: r.1, r.2)
    else
      let r := takeSignals id (n + 1) xs
      (r.1, x :: r.2)

/-- The order in which one clock's signals apply: increments, then decrements in ascending order of source (R238). -/
def clockOrder (xs : List Signal) : List Signal :=
  (xs.filter fun x => decide (x.delta ≥ 0)) ++ sortBy Signal.source (xs.filter fun x => decide (x.delta < 0))

/-- Signals that reach a counter in one clock of its unit. -/
def State.signalArrive (s : State) (id n : Nat) : State :=
  let r := takeSignals id n s.transit
  (clockOrder r.1).foldl (fun s x => (s.signalTo x.id x.delta).1) { s with transit := r.2 }

def execSignalArrive (id n : Nat) (s : State) : Host.Outcome State Fault Refusal := .next (s.signalArrive id n)

/-! ### The control space (R238, R250, R252) -/

/-- The counters that a SYNC instance has. -/
def State.ctrCount (s : State) (unit : Nat) : Nat :=
  if unit = 64 then s.get .capQueuesServiceSync else s.get .capQueuesTileSync

/-- A write of SYNC_CTR_c: VALUE and REMOTE_OK take the values written; MISUSE, UNF and OVF clear where 1 is written. -/
def State.ctrWrite (s : State) (unit idx : Nat) (v : W64) : State :=
  if unit < 64 && !s.domainOn (domTile unit) then s.ctlRefuse Code.ctlDomainOff (0x180000 + unit * 0x1000 + 8 * idx)
  else if s.ctrCount unit ≤ idx then s
  else
    let c := s.ctr (unit * 256 + idx)
    s.setCtr (unit * 256 + idx) { c with
      value := fieldOf v 15 0, remoteOk := fieldOf v 30 30 == 1,
      misuse := c.misuse && fieldOf v 29 29 == 0, unf := c.unf && fieldOf v 28 28 == 0, ovf := c.ovf && fieldOf v 27 27 == 0 }

def execSyncCtrValueWrite (unit idx : Nat) (v : W64) (s : State) : Host.Outcome State Fault Refusal :=
  .next (s.ctrWrite unit idx v)

/-- One counter rearmed (R250). -/
def State.rearmOne (s : State) (id v : Nat) : State := s.setCtr id { s.ctr id with value := v, poison := false }

/-- A write of SYNC_CMD (R250). -/
def State.rearm (s : State) (unit : Nat) (w : W64) : State :=
  let v := fieldOf w 31 16
  if unit < 64 && !s.domainOn (domTile unit) then s.ctlRefuse Code.ctlDomainOff (0x180F00 + unit * 0x1000)
  else if fieldOf w 8 8 = 1 then (List.range (s.ctrCount unit)).foldl (fun s i => s.rearmOne (unit * 256 + i) v) s
  else if fieldOf w 7 0 < s.ctrCount unit then s.rearmOne (unit * 256 + fieldOf w 7 0) v
  else s

def execSyncRearm (unit : Nat) (w : W64) (s : State) : Host.Outcome State Fault Refusal := .next (s.rearm unit w)

/-! ### Waking (R240, R249) -/

/-- The head of a queue failed because a wait of it found POISON: its slot is freed and ISSUED counts it (R249, log 12). -/
def State.failHead (s : State) (t q slot : Nat) (o : Op) (which : Nat) (ue : List Nat) : State :=
  let id := if which = 0 then dField o.desc 8 2 else dField o.desc 12 2
  let s1 := s.failOp ue t slot Code.syncPoison (id + which * 2 ^ 16 + 0xFFFF * 2 ^ 32) false
  s1.set .opqPosIssued t q ((s1.get .opqPosIssued t q + 1) % 2 ^ 32)

/-- A queue head woken: it fails on POISON, and else sleeps on or becomes ready to leave. -/
def State.wakeHead (s : State) (t q : Nat) (ue : List Nat) : State :=
  match (s.tile t).head q with
  | none => s
  | some (slot, o) =>
    if s.halted t q || o.phase != .ready then s
    else match s.waits o.desc with
      | (.poisoned, which) => s.failHead t q slot o which ue
      | _ => s

/-- An integer register of a core written; x0 stays 0. -/
def Core.setX (c : Core) (r : Nat) (v : W64) : Core := if r = 0 then c else { c with x := smPut (fun _ => 0) r v c.x }

/-- An integer register of a core. -/
def Core.getX (c : Core) (r : Nat) : W64 := if r = 0 then 0 else smGet (fun _ => 0) c.x r

/-- A core asleep in TWAIT woken: it runs on with its status in `x[rd]` (R240, R249). `t` 64 names a service core. -/
def State.wakeCore (s : State) (t c : Nat) : State :=
  let k := s.core t c
  match k.state with
  | .waiting id th rd =>
    match s.wait id th with
    | .met => s.setCore t c { k.setX rd 0 with state := .running }
    | .poisoned => s.setCore t c { k.setX rd (BitVec.ofNat 64 Code.syncPoison) with state := .running }
    | .unmet => s
  | _ => s

/-- A waiter woken. -/
def State.wake (s : State) (w : Waiter) (ue : List Nat) : State :=
  match w with
  | .queue t q => s.wakeHead t q ue
  | .core t c => s.wakeCore t c
  | .service k => s.wakeCore 64 k

def execWaiterWake (w : Waiter) (e : Ecc) (s : State) : Host.Outcome State Fault Refusal := .next ((s.corrected e.ce).wake w e.ue)

/-- A core that waits on a counter of tile `t` woken with SYNC_POISON (R464). -/
def Core.failWait (k : Core) (t : Nat) : Core :=
  match k.state with
  | .waiting id _ rd =>
    if id / 256 = t then { k.setX rd (BitVec.ofNat 64 Code.syncPoison) with state := .running } else k
  | _ => k

/-- Every waiter on the counters of a tile whose domain switches off fails with SYNC_POISON (R464). -/
def State.failWaitersOn (s : State) (t : Nat) : State :=
  let s1 := (List.range 64).foldl (fun s u => if u = t then s else (List.range 16).foldl (fun s q =>
    match (s.tile u).head q with
    | none => s
    | some (slot, o) =>
      if s.halted u q || o.phase != .ready then s
      else if dField o.desc 8 2 / 256 = t ∧ dField o.desc 10 2 ≠ 0 ∧ dField o.desc 8 2 ≠ 0xFFFF then s.failHead u q slot o 0 []
      else if dField o.desc 12 2 / 256 = t ∧ dField o.desc 14 2 ≠ 0 ∧ dField o.desc 12 2 ≠ 0xFFFF then s.failHead u q slot o 1 []
      else s) s) s
  { s1 with cores := smMapV (fun _ => {}) (fun _ k => k.failWait t) s1.cores }

/-! ### Operations of the sync unit (R245, R247) -/

/-- A SYNC NOP leaves and has nothing more to do. -/
def State.syncNop (s : State) (t q : Nat) : State :=
  match s.taking t q .sync [6] with
  | some (slot, o) =>
    if (syncBody o.desc).op = 0 then
      (s.leave t q slot o .sync).1.modOp t slot fun o => { o with phase := .done }
    else s
  | none => s

def execSyncNop (t q : Nat) (s : State) : Host.Outcome State Fault Refusal := .next (s.syncNop t q)

/-- A SYNC SET leaves and sets its counter, or fails on POISON (Table 8.6). -/
def State.syncSet (s : State) (t q : Nat) : State :=
  match s.taking t q .sync [6] with
  | some (slot, o) =>
    let b := syncBody o.desc
    if b.op = 1 then
      let s1 := (s.leave t q slot o .sync).1
      let c := s1.ctr b.target
      if c.poison then
        s1.modOp t slot fun o => o.fail Code.syncPoison (b.target + 2 * 2 ^ 16 + 0xFFFF * 2 ^ 32)
      else (s1.setCtr b.target { c with value := b.value }).modOp t slot fun o => { o with phase := .done }
    else s
  | none => s

def execSyncSet (t q : Nat) (s : State) : Host.Outcome State Fault Refusal := .next (s.syncSet t q)

/-- A FENCE leaves once its masked queues' earlier operations have completed (R247). -/
def State.fenceOp (s : State) (t q : Nat) : State :=
  match s.taking t q .sync [7] with
  | some (slot, o) => (s.leave t q slot o .sync).1.modOp t slot fun o => { o with phase := .done }
  | none => s

def execFence (t q : Nat) (s : State) : Host.Outcome State Fault Refusal := .next (s.fenceOp t q)

end Sys2Proof.Machine
end

