-- ==== Sys2Proof/Machine/Domains.lean ====
section
/-!
DEFINITION. What a block loses when its domain is switched off or a reset reaches it (R16, R44, R249, R263, R371, R406, R407,
Table 14.5), and domains switched on and off (R30, R32, R371).
-/

namespace Sys2Proof.Machine

/-- The base address of a block's instance (Table 2.1). -/
def pfxBase (p : Pfx) (i : Nat) : Nat := (blockOf p).base + i * 0x1000

/-- A block's registers at their reset values (R16, R44). -/
def State.resetPfx (s : State) (p : Pfx) (i : Nat) : State := s.resetBlock (pfxBase p i)

/-- A reset that reaches a block while events still count in it: its counters are cleared first, its other registers last (R16). -/
def State.resetDuring (s : State) (p : Pfx) (i : Nat) (during : State → State) : State :=
  (during (s.clearCounters (pfxBase p i))).resetFields (pfxBase p i)

/-- Requests that a reset abandons: nothing answers them, and a later reply counts in XFER_LATE_DROPS alone (R263). -/
def State.resetRequests (s : State) (pick : Req → Bool) : State :=
  let gone := (s.requests.filter pick).map fun r => (r.tag, true)
  { s with requests := s.requests.filter fun r => !pick r, abandoned := s.abandoned ++ gone }

/-! ### Tiles -/

/-- The operations in flight of a tile: those that have left their queues. -/
def Tile.inFlight (x : Tile) : Nat := (x.ops.filter fun p => p.2.hasLeft).length

/-- A tile's cores as they are after a reset. -/
def State.dropCores (s : State) (t : Nat) : State := { s with cores := s.cores.filter fun e => e.1 / 8 != t }

/-- A tile's sync counters NORMAL with VALUE 0 (Table 8.6). -/
def State.freshCounters (s : State) (t : Nat) : State := { s with ctrs := s.ctrs.filter fun e => e.1 / 256 != t }

/-- What a tile holds, gone: operations, passes that have not fired, requests, cores, scratchpad and accumulator slots; its
blocks at their reset values. Its counters are the caller's affair. -/
def State.wipeTile (s : State) (t : Nat) : State :=
  let s1 := ((s.dropPasses t).orphanBuckets t).resetRequests (fun r => r.tile == t)
  let s2 := ((s1.resetPfx .tile t).resetPfx .opq t).resetPfx .sync t
  ((s2.setTile t {}).dropCores t).lose (.cleared (tileBase t) 0x4000000)

/-- A tile domain switched off: waiters on its counters fail, and everything in it is lost (R30, R371, R464). -/
def State.tileOff (s : State) (t : Nat) : State := ((s.failWaitersOn t).wipeTile t).freshCounters t

/-- A tile reset: as above, but its counters take POISON (R249). -/
def State.tileReset (s : State) (t : Nat) : State := ((s.wipeTile t).freshCounters t).poisonCounters t true

/-! ### Cask dies -/

/-- The temperature at which a die's stored run started (R33). -/
def State.storedTemp (s : State) (d : Nat) : Int := smGet (fun _ => 250) s.journal.calTemp d

/-- A die as it comes back: what lies in the journal or in hardware for good is kept, layer 0 is current (R91), and the sets await
their load. Fired passes complete, their records discarded (R406); `off` drops them too. -/
def State.freshDie (s : State) (d : Nat) (off : Bool) : Die :=
  let x := s.die d
  let fired := (x.passes.filter fun p => p.stage == .fired || p.stage == .drained).map fun p => { p with discarded := true }
  { passes := if off then [] else fired,
    macs := smMapV (fun _ => {}) (fun _ m => { m with layer := 0, refPhase := false, round := 0, vals := [] }) x.macs,
    temp := x.temp, limit := x.limit, retired := x.retired, spareMacros := x.spareMacros, bucket := x.bucket, passTemp := s.storedTemp d,
    lastTemp := s.storedTemp d, failed := off && x.failed, badUnits := if off then x.badUnits else [] }

/-- The controllers of a cask die reset, or its domain switched off: CASK, CAL and CWR at their reset values. -/
def State.dieReset (s : State) (d : Nat) (off : Bool) : State :=
  (((s.resetPfx .cask d).resetPfx .cal d).resetPfx .cwr d).setDie d (s.freshDie d off)

/-! ### Optical engines and links -/

/-- An optical engine domain switched off: its links dark, the engine OFF (R282, R294). -/
def State.engineOff (s : State) (e : Nat) : State :=
  ((s.darken (linksOf e) 1).setEngine e { s.engine e with state := .off, service := false }).showService e 0

/-- The links of a press die. -/
def pressLinks (p : Nat) : List Nat := (List.range 24).map fun i => 24 * p + i

/-! ### Press uncores -/

/-- The stacks of a press die, as a mask. -/
def pressStacks (p : Nat) : Nat := 0x1F * 2 ^ (5 * p)

/-- Reduction on an instance restarts: uses, parked messages and OPEN_SEQ are gone; the OPENs of its uses fail with
RST_ABANDONED, and their RESULT, ERR and SCALE regions are undefined (R319, R327, Table 11.4). -/
def State.rdcReset (s : State) (p : Nat) : State :=
  let mine := fun g => s.serving g == p
  let uses := s.buckets.filter fun b => mine b.g && b.opened
  let s1 := uses.foldl (fun s b =>
    let s' := s.loseRegions b
    if b.orphan then s' else s'.modOp b.tile b.slot fun o => o.fail Code.rstAbandoned 0) s
  let s2 := s1.rdcRestart mine
  { s2 with parked := s2.parked.filter fun x => x.link / 24 != p }

/-- The event counters of a press die's uncore cleared: those of its RDC, XFER and FLINK blocks. -/
def State.clearUncore (s : State) (p : Nat) : State :=
  (pressLinks p).foldl (fun s l => s.clearCounters (pfxBase .flink l))
    ((s.clearCounters (pfxBase .rdc p)).clearCounters (pfxBase .xfer p))

/-- The uncore of a press die reset: RDC, XFER and FLINK blocks at their reset values but for their counters, its links' state and digests
gone. -/
def State.uncoreReset (s : State) (p : Nat) : State :=
  let s1 := ((s.rdcReset p).resetFields (pfxBase .rdc p)).resetFields (pfxBase .xfer p)
  let s2 := (pressLinks p).foldl (fun s l => (s.resetFields (pfxBase .flink l)).setLink l { light := (s.link l).light }) s1
  { s2 with digests := s2.digests.filter fun e => e.1 / 24 != p, ctxCmds := smPut (fun _ => none) p none s2.ctxCmds }

/-- Every transfer context FREE with a GEN; those not FREE are closed (R263, R371). -/
def State.setGens (s : State) (gen : Nat → Nat) : State :=
  { s with ctxs := ((List.range (s.get .capContextsCount)).map fun c =>
      ((c, { gen := gen c % 256 }) : Nat × Ctx)).filter fun e => e.2 ≠ {} }

/-- A press uncore's domain off: its stacks' contents are undefined from then on; when it is the last, the service die keeps the
GENs (R371). -/
def State.uncoreOff (s : State) (p : Nat) : State :=
  let s1 := ((s.darken (pressLinks p) 1).uncoreReset p).clearUncore p
  let s2 := s1.lose (.stacks s1.regions (pressStacks p))
  let last := !(List.range 4).any fun q => q != p && s.domainOn (domPress q)
  if last then { s2 with power := { s2.power with gensKept := true } } else s2

/-- A press uncore's domain on: the first one back loads every entry as FREE with its GEN plus 1 (R371). -/
def State.uncoreOn (s : State) : State :=
  if s.power.gensKept then
    let s1 := s.setGens fun c => (s.ctx c).gen + 1
    { s1 with power := { s1.power with gensKept := false } }
  else s

/-! ### Domains switched (R371) -/

/-- The bit of a domain. -/
def State.setDomain (s : State) (d : Nat) (on : Bool) : State :=
  { s with power := { s.power with
      domains := if on then s.power.domains ||| BitVec.ofNat 112 (2 ^ d) else s.power.domains &&& ~~~BitVec.ofNat 112 (2 ^ d),
      switching := smPut (fun _ => none) d none s.power.switching } }

/-- A domain switched off. -/
def State.switchOff (s : State) (d : Nat) : State :=
  if !s.domainOn d then s.setDomain d false
  else
    let s1 :=
      if d < 64 then s.tileOff d
      else if d < 96 then s.dieReset (d - 64) true
      else if d < 104 then s.engineOff (d - 96)
      else if d < 108 then s.uncoreOff (d - 104)
      else s
    s1.setDomain d false

/-- A domain's switch-on has ended. A cask die then loads its sets (R33); an engine starts while the module is READY or resumes from
deep idle (R282, R394). -/
def State.switchOn (s : State) (d : Nat) : State :=
  if s.domainOn d then s.setDomain d true
  else
    let s1 := s.setDomain d true
    if 104 ≤ d ∧ d < 108 then s1.uncoreOn
    else if 96 ≤ d ∧ d < 104 ∧ (s.rel.mode = .ready ∨ s.power.idle = 3) then s1.startEngines [d - 96]
    else s1

/-- A domain's switch-on begins: it is on once DOMAIN_SWITCH_DONE says so. -/
def State.switchBegin (s : State) (d : Nat) : State :=
  if s.domainOn d then s
  else { s with power := { s.power with switching := smPut (fun _ => none) d (some true) s.power.switching } }

/-- Whether a domain's switch-on is under way. -/
def State.switchingOn (s : State) (d : Nat) : Bool := smGet (fun _ => none) s.power.switching d == some true

/-- The press die of a tile, cask die or engine domain. -/
def pressOf (d : Nat) : Nat := if d < 64 then d / 16 else if d < 96 then (d - 64) / 8 else (d - 96) / 2

/-- Whether a queue of a tile holds an operation pushed and not fetched. -/
def State.unfetched (s : State) (t q : Nat) : Bool :=
  s.get .opqCfgSizeLog2 t q != 0 && s.get .opqTailTail t q != s.get .opqPosFetched t q

/-- Whether a tile or cask die holds no work: the first, second and fourth conditions of R32. Of a tile's requests only writes
count, those of an operation that has ended without their answer included. -/
def State.workless (s : State) (d : Nat) : Bool :=
  if d < 64 then
    (s.tile d).ops.isEmpty && !(List.range 16).any (s.unfetched d) && !s.requests.any fun r => r.tile == d && r.kind == .write
  else
    !(s.die (d - 64)).reqs.any (fun r => r.stage == .held) &&
    !s.allOps.any fun o => dField o.2.2.desc 0 1 == 1 && dField o.2.2.desc 24 1 == d - 64

/-- Whether a tile is the target of an open context: a window of an OPEN or DRAINING one overlaps its region (R32, R260). -/
def State.targeted (s : State) (t : Nat) : Bool :=
  s.ctxs.any fun e => (e.2.state == .open || e.2.state == .draining) && e.2.windows.any fun w =>
    w.2 != 0 && decide (w.1 * 65536 < tileBase t + 0x4000000 ∧ tileBase t < (w.1 + w.2) * 65536)

/-- Whether a tile or cask die domain is quiesced (R32). -/
def State.quiesced (s : State) (d : Nat) : Bool := s.workless d && (decide (64 ≤ d) || !s.targeted d)

end Sys2Proof.Machine
end

