-- ==== Sys2Proof/Machine/Blends.lean ====
section
/-!
DEFINITION. Checking and applying a blend (R52 to R55).
-/

namespace Sys2Proof.Machine

/-- States of BLEND_STATUS (Table 2.10). -/
abbrev bsEmpty : Nat := 0
abbrev bsChecking : Nat := 1
abbrev bsChecked : Nat := 2
abbrev bsRefused : Nat := 3
abbrev bsWaiting : Nat := 4
abbrev bsApplying : Nat := 5

/-- BLEND_STATUS.STATE. -/
def State.blendState (s : State) : Nat := s.get .blendStatusState

/-- BLEND_STATUS changed. -/
def State.blendStatus (s : State) (st code : Nat) : State := (s.set .blendStatusState 0 0 st).set .blendStatusCode 0 0 code

/-- A CHECK: the image at BLEND_SRC is copied into the blend store (R52). -/
def State.blendCopy (s : State) : State :=
  let img := s.readBytes (sramBase + s.get .blendSrcOffset) (s.get .blendLenBytes)
  { s.set .blendStatusState 0 0 bsChecking with blend := { s.blend with store := img, checked := none } }

/-- A write of BLEND_CTRL, judged in the order of R52. -/
def State.blendCtrl (s : State) (check apply : Bool) : State :=
  let st := s.blendState
  if check && apply then s.set .blendStatusCode 0 0 Code.blendCtrlInvalid
  else if !check && !apply then s
  else if st = bsChecking ∨ st = bsWaiting ∨ st = bsApplying then s.set .blendStatusCode 0 0 Code.blendApplyBusy
  else if check then s.blendCopy
  else if st ≠ bsChecked then s.set .blendStatusCode 0 0 Code.blendNotChecked
  else s.set .blendStatusState 0 0 bsWaiting

def execBlendCheck (apply : Bool) (s : State) : Host.Outcome State Fault Refusal := .next (s.blendCtrl true apply)

def execBlendApply (check : Bool) (s : State) : Host.Outcome State Fault Refusal := .next (s.blendCtrl check true)

/-- The check of the stored image ends (R50, R52). -/
def State.blendCheckDone (s : State) : State :=
  if s.blendState ≠ bsChecking then s
  else match blendVerdict s s.blend.store with
    | .ok b => { s.blendStatus bsChecked 0 with blend := { s.blend with checked := some b } }
    | .error e => ((s.blendStatus bsRefused e.code).set .blendErrLocSection 0 0 e.sec).set .blendErrLocOffset 0 0 e.off

def execBlendCheckDone (s : State) : Host.Outcome State Fault Refusal := .next s.blendCheckDone

/-- The quiesce point (R53): every tile and cask die without work, and no bucket outstanding; an apply waits for a press die reset
(Table 14.6). -/
def State.quiesceMet (s : State) : Bool :=
  (List.range 96).all s.workless && !s.buckets.any (fun b => b.opened) && !s.rel.resets.any fun r => r.level == 3

/-- The quiesce point is reached. -/
def State.blendQuiesce (s : State) : State :=
  if s.blendState = bsWaiting ∧ s.quiesceMet = true then s.set .blendStatusState 0 0 bsApplying else s

def execBlendQuiescePoint (s : State) : Host.Outcome State Fault Refusal := .next s.blendQuiesce

/-- BLEND_QUIESCE_TIMEOUT passes before the quiesce point. -/
def State.blendTimeout (s : State) : State :=
  if s.blendState = bsWaiting then s.blendStatus bsChecked Code.blendNotQuiesced else s

def execBlendNotQuiesced (s : State) : Host.Outcome State Fault Refusal := .next s.blendTimeout

/-! ### The commit point (R54) -/

/-- The staged values of a block instance that are not in force are discarded, a capture that is still being checked with them;
COMMIT_STATUS then no longer shows a check (R54). -/
def State.discardStaged (s : State) (p : Pfx) (i : Nat) : State :=
  let base := pfxBase p i
  let out := fun (e : Nat × W64) => decide (e.1 < base ∨ base + 0x1000 ≤ e.1)
  let a := base + 0xFF8
  let s1 := if s.checking.contains base then s.setWord a (withField (s.word a) 15 14 0) else s
  { s1 with staged := s1.staged.filter out, captured := s1.captured.filter out, checking := s1.checking.filter (· != base) }

/-- The PWR block takes POWER_PLAN, its uncommitted staged values discarded (R54, R395). Whether this commit counts in
PWR_COMMIT_STATUS is left open; the model leaves ACCEPTED, CODE and OFFSET as they are (DESIGN CHOICE, log 81). -/
def State.powerPlan (s : State) (b : Blend) : State :=
  let s1 := (s.set .pwrCtlProfile 0 0 b.profile).set .pwrCapCapW 0 0 b.capW
  ((s1.set .pwrBallastRampMs 0 0 b.rampMs).set .pwrBallastFloorW 0 0 b.floorW).discardStaged .pwr 0

/-- Whether the domain switch controller leaves a domain of the blend's plan on: a tile that an open context targets is not
quiesced, and a blend apply is none of the transitions that R32 exempts (log 81). -/
def State.staysOn (s : State) (d : Nat) : Bool := decide (d < 64) && s.targeted d

/-- The domains of DOMAIN_ON: those not in it go off, but for tiles that R32 keeps on; the others start their switch-on, press
uncores first (R54, R371). -/
def State.planDomains (s : State) (mask : Nat) : State :=
  let want := fun d => mask / 2 ^ d % 2 == 1
  let s1 := (List.range 104).foldl (fun s d => if want d || s.staysOn d then s else s.switchOff d) s
  (List.range 108).foldl (fun s d => if want d then s.switchBegin d else s) s1

/-- Reduction restarts everywhere, and parked messages are dropped (R319). -/
def State.rdcFresh (s : State) : State :=
  (s.dropParked (fun _ => true) fun s p => s.bump .rdcStaleDrops (p.link / 24)).rdcRestart fun _ => true

/-- A blend comes into force. Addresses whose mapping it changes have undefined contents (R256). -/
def State.enforce (s : State) (b : Blend) : State :=
  let old := s.regions
  let s1 := { s with blend := { s.blend with inForce := some b, checked := none }, rel := { s.rel with cursor := 0 } }
  let s2 := if old = b.regions then s1 else s1.lose (.remap old b.regions)
  let s3 := (s2.blendStatus bsEmpty 0).set .blendActiveSerial 0 0 b.serial
  let s4 := (List.range 4).foldl (fun s i => s.set .blendActiveDigest 0 i (leNat ((b.digest.drop (8 * i)).take 8))) s3
  ((((s4.powerPlan b).planDomains b.domainOn).rdcFresh)).linksOnBlend

/-- The commit point. -/
def State.blendCommit (s : State) : State :=
  match s.blendState, s.blend.checked with
  | 5, some b => s.enforce b
  | _, _ => s

def execBlendCommitPoint (s : State) : Host.Outcome State Fault Refusal := .next s.blendCommit

/-- The blend in force is lost: at a warm reset, a cold start and a sag (R55). -/
def State.blendLost (s : State) : State := { s.resetPfx .blend 0 with blend := {} }

end Sys2Proof.Machine
end

