-- ==== Sys2Proof/Machine/Outage.lean ====
section
/-!
DEFINITION. The save image (R367), what a sag, a warm reset and a cold start lose (R55, R263, R407, Table 14.5), the journal's copy
of the error log (R423), and the beginning and the end of a start (R434, R435, Table 15.4).
-/

namespace Sys2Proof.Machine

/-! ### The error log's journal copy (R423) -/

/-- An entry with FLAGS bit 3, copied to the journal. -/
def copiedEntry (bs : List Byte) : List Byte := bs.set 27 ((bs.getD 27 0) ||| 8)

/-- The newest 1,024 entries of the ring, oldest first. -/
def State.logTail (s : State) : List (List Byte) :=
  let n := min 1024 s.rel.logSeq
  (List.range n).map fun i => copiedEntry (s.readBytes (s.logAddr (s.rel.logSeq - n + i)) 64)

/-- The entries copied into the journal, with the flag of their copies set in the ring too. -/
def State.copyLog (s : State) : State :=
  let tail := s.logTail
  let first := s.rel.logSeq - tail.length
  let s1 := tail.zipIdx.foldl (fun s e => s.writeBytes (s.logAddr (first + e.2)) e.1) s
  { s1 with journal := { s1.journal with logCopy := tail } }

def execLogJournalCopy (s : State) : Host.Outcome State Fault Refusal :=
  .next (if s.rel.mode = .starting ∧ s.boot.running = false then s else s.copyLog)

/-- A copy placed in the ring, SEQ continuing from it, and the dump area with it. -/
def State.placeLog (s : State) (tail : List (List Byte)) : State :=
  let seqOf := fun (e : List Byte) => leNat (e.take 4)
  let next := (tail.getLast?.map fun e => (seqOf e + 1) % 2 ^ 32).getD 0
  let s1 := tail.foldl (fun s e => s.writeBytes (s.logAddr (seqOf e)) e) s
  let s2 := s.journal.dumps.foldl (fun s e => s.writeBytes (sramBase + s.get .rstDumpOffset + 0x10000 * e.1) e.2) s1
  { s2 with rel := { s2.rel with logSeq := next, logHeld := tail.length } }

/-! ### The save image (R367) -/

/-- The rows that are complete in each held layer (R156): those programmed, or those that a RESUME found complete. -/
def State.heldRows (s : State) : SMap (Option Nat) :=
  let all := s.dies.flatMap fun e => (e.2.reqs.filter fun r => r.stage == .held).flatMap fun r =>
    if r.kind = 4 then
      (List.range 8).map fun y => (layerKey e.1 r.mac y, if y < r.sub then 1024 else if y = r.sub then r.row else 0)
    else [(layerKey e.1 r.mac r.layer, max r.row r.mark)]
  all.foldl (fun m e => smPut (fun _ => none) e.1 (some e.2) m) []

/-- The registers of the CAL blocks. -/
def State.calWords (s : State) : SMap W64 :=
  s.ctl.filter fun e => decide (pfxBase .cal 0 ≤ e.1 ∧ e.1 < pfxBase .cal 32)

/-- The sections of the save image (Table 13.3). -/
def State.saveImage (s : State) (reason : Nat) (complete : Bool) : SaveImage :=
  { complete := complete, reason := reason, intervals := s.power.interval,
    blendDigest := (s.blend.inForce.map Blend.digest).getD [],
    gens := (s.ctxs.map fun e => (e.1, e.2.gen)).filter fun e => e.2 != 0,
    counters := s.ctrs, step := s.svc.step, microBatch := s.svc.fReleased, lossScale := s.svc.lossScale,
    cleanSteps := s.svc.cleanSteps, calRegs := s.calWords, rows := s.heldRows, layers := s.layers, logTail := s.logTail }

/-- The save image written to the journal. -/
def State.save (s : State) (reason : Nat) (complete : Bool) : State :=
  { s with journal := { s.journal with save := some (s.saveImage reason complete) } }

/-! ### What is lost -/

/-- Tokens and wear as a save image holds them (R151). -/
def State.governorBack (s : State) (g : SMap Layer) : SMap Layer :=
  let keys := (s.layers.map Prod.fst ++ g.map Prod.fst).eraseDups
  keys.foldl (fun m k =>
    let old := smGet (fun _ => {}) g k
    smPut (fun _ => {}) k { s.layer k with tokens := old.tokens, wear := old.wear } m) []

/-- Tokens and wear of a layer after an unsaved reset: the use since the journal's hourly record may be counted again in part or whole, never
less; how much is open (R151; log 98). The level map lay in memory. -/
def State.recounted (s : State) (k : Nat) (x : Layer) : Layer :=
  let used := x.wear - (smGet (fun _ => {}) s.journal.governor k : Layer).wear
  let again := if used = 0 then 0 else Config.openResult s.free k 3 % (used + 1)
  let y : Layer := { x with wear := x.wear + again, levelmap := none }
  if again = 0 then y else y.withTokens (s.die (k / 32768)).bucket (x.tokens.getD (s.die (k / 32768)).bucket - again)

/-- The registers that outlive a module-wide reset: the RST block, but for a cold start (R407), and the energy counted since the last
cold start (Table 13.15). -/
def outlives (cold : Bool) (a : Nat) : Bool :=
  !cold && (decide (pfxBase .rst 0 ≤ a ∧ a < pfxBase .rst 1) || a == Fld.pwrEnergyInUj.addr 0 0 || a == Fld.pwrEnergyModelUj.addr 0 0)

/-- Tiles, cask dies, links, requests and reduction, as a module-wide loss leaves them. -/
def State.loseUnits (s : State) : State :=
  let s1 := (s.darken (List.range 96) 1).resetRequests fun _ => true
  let dies := smMapV (fun _ => {}) (fun d _ => { s1.freshDie d true with limit := 64, failed := false }) s1.dies
  { s1 with
    tiles := [], cores := [], ctrs := [], transit := [], dies := dies, layers := smMapV (fun _ => {}) s1.recounted s1.layers, free := s1.free + 1,
    links := (s1.links.map fun e => ((e.1, { light := e.2.light }) : Nat × Link)).filter fun e => e.2.light,
    engines := smMapV (fun _ => {}) (fun _ x => { x with state := .off, service := false }) s1.engines,
    ctxs := [], ctxCmds := [], buckets := [], openSeqs := [], parked := [], earlyAborts := [], abortsSent := [], digests := [],
    delivered := [] }

/-- The service die: sessions, queue pairs and services are gone. -/
def State.loseService (s : State) : State :=
  { s with qps := [], prioShare := [], pausedPrio := [], pauseSent := [], sessions := [], slotFails := [], slotLocked := [],
           turns := [],
           svc := {}, hkc := { stamp := s.free }, pins := { s.pins with ethLink := false },
           journal := { s.journal with staging := none } }

/-- Memory: the stacks and the service SRAM undefined, the tiles' regions cleared (Table 14.5). -/
def State.loseMemory (s : State) : State :=
  ((s.lose (.stacks s.regions 0xFFFFF)).lose .sram).lose (.cleared 0x20000000000 0x100000000)

/-- Registers, power and self-test. -/
def State.loseRegs (s : State) (cold : Bool) : State :=
  let keep := fun (e : Nat × W64) => outlives cold e.1
  { s with
    ctl := s.ctl.filter fun e => keep e || isCounter e.1, staged := s.staged.filter keep, captured := s.captured.filter keep,
    checking := s.checking.filter (outlives cold),
    power := { interval := if cold then 0 else s.power.interval, hold := s.power.hold },
    rel := { mode := s.rel.mode, logSeq := s.rel.logSeq, alert := s.rel.alert, alertSeq := s.rel.alertSeq } }

/-- A module-wide loss: a sag, a warm reset or a cold start. Every switched domain is off; event counters are cleared first (R16). -/
def State.loseAll (s0 : State) (cold : Bool) : State :=
  let s := { s0 with ctl := s0.ctl.filter fun e => outlives cold e.1 || !isCounter e.1 }
  { (((s.loseUnits.loseMemory).loseService).loseRegs cold).tick with blend := {} }

/-! ### Starts (R434, R435) -/

/-- The record of a start (Table 15.4); TIME is a measured time (log 2). -/
def State.reason (s : State) (outcome code unit : Nat) : StartReason :=
  let b := s.boot
  { seq := s.journal.startSeq, outcome := outcome, stage := b.stage, code := code, unit := unit, count := min s.journal.count 255,
    flags := (if b.warm then 1 else 0) + (if b.trialRun then 2 else 0) + (if b.strap then 4 else 0) + (if b.restored then 8 else 0),
    svn := b.svn, time := Config.freeNat s.free % 2 ^ 64 }

/-- A start ends with an outcome: its record joins the ring of 16; TOTAL_MS is a measured time (log 2). -/
def State.startEnds (s : State) (outcome code unit : Nat) : State :=
  let s1 := s.tick
  { s1.tick with
    journal := { s1.journal with reasons := (s1.journal.reasons ++ [s.reason outcome code unit]).drop (s1.journal.reasons.length - 15) },
    boot := { s1.boot with running := false, outcome := outcome, code := code, totalMs := Config.freeNat s1.free % 2 ^ 32 } }

/-- A start under way ends without verdict (R435). -/
def State.startCut (s : State) : State := if s.boot.running then s.startEnds 4 0 0x9000 else s

/-- The module holds in reset, every domain but the always-on island off. -/
def State.holdIn (s : State) (h : Hold) : State :=
  let s1 := s.loseAll false
  { s1 with power := { s1.power with hold := h }, boot := { s1.boot with running := false },
            rel := { s1.rel with mode := .starting } }

/-- A start begins: the service cluster and the journal come on, the error log is put back, and stage 1 runs (R423, R434). -/
def State.startBegins (s : State) (warm : Bool) : State :=
  let s1 := (s.startCut).loseAll (!warm)
  let s2 := ((s1.setDomain domService true).setDomain domJournal true).setMode .starting
  let tail := match s.journal.save with
    | some i => if i.complete && !warm && !i.logTail.isEmpty then i.logTail else s.journal.logCopy
    | none => s.journal.logCopy
  let s3 := s2.placeLog tail
  let used := if warm then s.journal.save else s.journal.save.map fun i => { i with logTail := [] }
  { s3 with power := { s3.power with hold := .none },
            journal := { s3.journal with startSeq := (s3.journal.startSeq + 1) % 2 ^ 32, save := used, logCopy := tail },
            boot := { stage := 1, running := true, warm := warm } }

end Sys2Proof.Machine
end

