-- ==== Sys2Proof/Machine/Resets.lean ====
section
/-!
DEFINITION. Deadlines and waits that last too long (R401, R402), the scratchpad sample (R403), the reset levels, their escalation
(R404 to R408) and safe state (R416). A reset's losses happen as it begins; RESET_DONE says that it has completed.
-/

namespace Sys2Proof.Machine

/-- A reply to a session that is still live (Table 12.3). -/
def State.reply (s : State) (n seq opcode status : Nat) (body : List Byte) : State :=
  if (s.session n).live then { s with out := s.out ++ [.reply n opcode seq status body] } else s

/-! ### Units and scopes (Table 14.1, Table 14.4) -/

/-- PART of a unit identifier. -/
def unitPart (u : Nat) : Nat := u % 16

/-- Instances and parts of a kind of unit (Table 14.1). -/
def kindSize (k : Nat) : Nat × Nat :=
  match k with
  | 1 => (64, 8)
  | 2 => (32, 4)
  | 3 => (4, 5)
  | 4 => (96, 1)
  | 5 => (8, 1)
  | 6 => (1, 1)
  | 7 => (16, 1)
  | 8 => (1, 1)
  | 9 => (1, 1)
  | _ => (0, 0)

/-- Whether an identifier matches a row of Table 14.1. -/
def unitValid (u : Nat) : Bool :=
  decide (unitInst u < (kindSize (unitKind u)).1 ∧ unitPart u < (kindSize (unitKind u)).2 ∧ u < 0x10000)

/-- Whether LEVEL and UNIT pair (R404). -/
def levelOk (level u : Nat) : Bool :=
  unitValid u &&
  match level with
  | 0 => unitKind u == 1 || unitKind u == 2 || unitKind u == 4
  | 1 => unitKind u == 1 && unitPart u == 0
  | 2 => unitKind u == 5
  | 3 => unitKind u == 3 && unitPart u == 0
  | 4 => unitKind u == 9
  | 5 => unitKind u == 9
  | _ => false

/-- The press die that contains a unit. -/
def pressOfUnit (u : Nat) : Nat :=
  match unitKind u with
  | 1 => unitInst u / 16
  | 2 => unitInst u / 8
  | 3 => unitInst u
  | 4 => unitInst u / 24
  | 5 => unitInst u / 2
  | _ => 0xFF

/-- Whether the scope of a reset of a level on a unit contains another unit (Table 14.4). -/
def inScope (level u v : Nat) : Bool :=
  match level with
  | 0 => u == v
  | 1 => unitKind v == 1 && unitInst v == unitInst u
  | 2 => u == v || (unitKind v == 4 && engineOf (unitInst v) == unitInst u)
  | 3 => (unitKind v == 1 || unitKind v == 2 || unitKind v == 3 || unitKind v == 4) && pressOfUnit v == unitInst u
  | _ => true

/-- The level and the unit of an escalation (Table 14.4). -/
def nextLevel (level u : Nat) : Nat × Nat :=
  if level = 0 ∧ unitKind u = 1 then (1, unitTile (unitInst u))
  else if level < 3 then (3, unitPress (pressOfUnit u))
  else (level + 1, unitModule)

/-- Whether a reset of this level or a higher one already runs over a unit (R408). -/
def State.absorbed (s : State) (level u : Nat) : Bool :=
  (s.rel.resets.any fun r => decide (level ≤ r.level) && inScope r.level r.unit u) ||
  (s.boot.running && (!s.boot.warm || decide (level ≤ 4)))

/-- Whether a reset reaches a unit now. -/
def State.inReset (s : State) (u : Nat) : Bool := s.rel.resets.any fun r => inScope r.level r.unit u

/-! ### The scratchpad sample (R403) -/

/-- The tiles that a reset reaches and that hold anything. -/
def State.tilesOf (s : State) (level u : Nat) : List Nat :=
  (List.range 64).filter fun t => s.domainOn (domTile t) &&
    match level with
    | 0 => unitKind u == 1 && unitInst u == t
    | 1 => unitInst u == t
    | 3 => t / 16 == unitInst u
    | 4 => true
    | _ => false

/-- The address and the length of a tile's sample: SAMPLE_KIB from its offset, truncated at the end of the scratchpad. -/
def State.sampleRange (s : State) (t : Nat) : Nat × Nat :=
  let off := s.get .rstSampleOffset 0 t
  (tileBase t + off, min ((s.role t).sampleKib * 1024) (s.get .capMemoryScratchKib * 1024 - off))

/-- The bytes of a sample; an uncorrectable 64-bit word is copied as 0 (which words are, is open: log 107). -/
def State.sampleBytes (s : State) (t : Nat) : List Byte :=
  let r := s.sampleRange t
  (List.range r.2).map fun i => if Config.sampleBad s.free ((r.1 + i) / 8 * 8) then 0 else s.readByte (r.1 + i)

/-- Whether a sample of a tile meets an uncorrectable word. -/
def State.sampleZeroed (s : State) (t : Nat) : Bool :=
  let r := s.sampleRange t
  (unitsOf 8 r.1 r.2).any (Config.sampleBad s.free)

/-- A tile's sample copied into the dump area, and with it into the journal's copy of that area. -/
def State.sampleTile (s : State) (t : Nat) : State :=
  let bs := s.sampleBytes t
  let s1 := s.writeBytes (sramBase + s.get .rstDumpOffset + 0x10000 * t) bs
  { s1 with journal := { s1.journal with dumps := smPut (fun _ => []) t bs s1.journal.dumps } }

/-- FLAGS of a log entry about a reset: a sample taken, a word of it zeroed (Table 14.8). -/
def State.sampleFlags (s : State) (ts : List Nat) : Nat :=
  if ts.isEmpty then 0 else 2 + (if ts.any s.sampleZeroed then 4 else 0)

/-- The tiles that a reset of a chain samples. -/
def State.toSample (s : State) (r : ResetRun) : List Nat :=
  if s.get .rstDumpEnable = 1 ∧ r.sampled = false then s.tilesOf r.level r.unit else []

/-! ### What each level does (R406, R407, Table 14.5) -/

/-- The kinds of operation that a part of a tile holds (Table 14.3, Table 14.1). -/
def partKinds (p : Nat) : List Nat :=
  match p with
  | 0 => [0]
  | 1 => [0]
  | 2 => [2]
  | 3 => [2, 3]
  | 4 => [4]
  | 5 => [1]
  | 6 => [6, 7]
  | _ => []

/-- An operation in flight abandoned by an engine reset: its record with RST_ABANDONED, no signal, its queue halted (R406). -/
def State.abandonOp (s : State) (t slot : Nat) (ue : List Nat) : State :=
  (s.failOp ue t slot Code.rstAbandoned 0 false).resetRequests fun r => r.tile == t && r.slot == slot

/-- The operations in flight of a tile that a test picks, abandoned; while a pre-emption runs it has abandoned them (R234). -/
def State.abandonOps (s : State) (t : Nat) (ue : List Nat) (pick : Op → Bool) : State :=
  if s.preempted t then s
  else ((s.tile t).ops.filter fun p => p.2.hasLeft && pick p.2).foldl (fun s p => s.abandonOp t p.1 ue) s

/-- An engine reset of a part of a tile. -/
def State.resetPart (s : State) (t p : Nat) (ue : List Nat) : State :=
  if !s.domainOn (domTile t) then s
  else
    let s1 := s.abandonOps t ue fun o => (partKinds p).contains (dKind o.desc)
    match p with
    | 2 =>
      let s2 := match (s1.tile t).vec.core with
        | some c => s1.stopCores t (some (s1.core t c).slot)
        | none => s1
      s2.setTile t { s2.tile t with vec := {} }
    | 3 => (s1.dropCores t).setTile t { s1.tile t with vec := { (s1.tile t).vec with core := none } }
    | 5 => s1.dropPasses t
    | _ => s1

/-- The CASK_PASS operations in flight to a die abandoned, their passes with them: fired ones complete with their records
discarded. -/
def State.abandonPasses (s : State) (d : Nat) (ue : List Nat) : State :=
  let ops := s.allOps.filter fun o => o.2.2.hasLeft && !s.preempted o.1 && dKind o.2.2.desc == 1 && dField o.2.2.desc 24 1 == d
  let s1 := ops.foldl (fun s o => s.abandonOp o.1 o.2.1 ue) s
  let x := s1.die d
  let fired := (x.passes.filter fun p => p.stage == .fired || p.stage == .drained).map fun p => { p with discarded := true }
  s1.setDie d { x with passes := fired }

/-- An engine reset of a cask controller: its block at its reset values, layer 0 current in every macro (R91). -/
def State.resetCask (s : State) (d : Nat) (ue : List Nat) : State :=
  let s1 := s.resetDuring .cask d fun s => s.abandonPasses d ue
  let x := s1.die d
  s1.setDie d { x with macs := smMapV (fun _ => {}) (fun _ m => { m with layer := 0, refPhase := false, round := 0 }) x.macs, test := none }

/-- CWR_INCOMPLETE logged for a layer (R157). -/
def State.logIncomplete (s : State) (d m l : Nat) : State :=
  s.logCode Code.cwrIncomplete (unitCask d 1) { arg0 := m + l * 2 ^ 16 }

/-- An engine reset of a write path: held layers are incomplete, and each request's record says RST_ABANDONED (R406). -/
def State.resetWrites (s : State) (d : Nat) : State :=
  let reqs := (s.die d).reqs
  let held := (reqs.filter fun r => r.stage == .held).flatMap fun r => r.layers.map fun y => (r.mac, y)
  s.resetDuring .cwr d fun s =>
    let s1 := { s with dies := smPut (fun _ => {}) d { s.die d with reqs := [] } s.dies }
    let s2 := (held.filter fun e => (s.wjEntry (layerKey d e.1 e.2)).isSome).foldl (fun s e => s.logIncomplete d e.1 e.2) s1
    reqs.foldl (fun s r => s.cwrFinish d r Code.rstAbandoned (r.stage == .held) []) s2

/-- An engine reset of a calibration engine: a run in progress is gone. -/
def State.resetCal (s : State) (d : Nat) : State :=
  let s1 := s.resetPfx .cal d
  s1.setDie d { s1.die d with run := none, failed := false, badUnits := [] }

/-- An engine reset of a part of a cask die. -/
def State.resetDiePart (s : State) (d p : Nat) (ue : List Nat) : State :=
  if !s.domainOn (domCask d) then s
  else match p with
    | 0 => s.resetCask d ue
    | 1 => s.resetWrites d
    | 2 => s.resetCal d
    | _ => s

/-- A link interface reset: a link that is UP leaves it with its report, made by the registers as they stood; the block's registers take
their reset values, and the link retrains, or leaves OFF by ENABLE's reset value (R16, R284, R296). -/
def State.resetLink (s : State) (l : Nat) : State :=
  if !s.domainOn (domPress (l / 24)) then s
  else
    let s1 := s.resetDuring .flink l fun s => s.leaveUp l .retrain 4
    if (s.link l).state = .up then (s1.bareFrame l false true).attempt l else (s1.bring l).maybeTrain l

/-- An optical engine restarted: its links dark, then LASER_WAIT (R297). -/
def State.resetEngine (s : State) (e : Nat) : State :=
  if !s.domainOn (domOptical e) then s
  else
    let s1 := s.darken (linksOf e) 1
    (s1.setEngine e { s1.engine e with state := .off }).engineStart e

/-- A press die reset (Table 14.4): its tiles, the controllers of its cask dies, its uncore and its links. -/
def State.resetPress (s : State) (p : Nat) : State :=
  let s1 := (if s.domainOn (domPress p) then s.clearUncore p else s).darken (pressLinks p) 1
  let s2 := (List.range 16).foldl (fun s i => if s.domainOn (domTile (16 * p + i)) then s.tileReset (16 * p + i) else s) s1
  let s3 := (List.range 8).foldl (fun s i => if s.domainOn (domCask (8 * p + i)) then s.dieReset (8 * p + i) false else s) s2
  if s3.domainOn (domPress p) then s3.uncoreReset p else s3

/-- The operations that a reset of level 1, 3 or 4 abandons: every one that a tile holds. -/
def State.heldOps (s : State) (level u : Nat) : Nat :=
  if level = 0 then 0 else ((s.tilesOf level u).map fun t => (s.tile t).ops.length).sum

/-- The counter of a level. -/
def State.countReset (s : State) (level : Nat) : State :=
  match level with
  | 0 => s.bump .rstEngineResets
  | 1 => s.bump .rstTileResets
  | 2 => s.bump .rstOpticalRestarts
  | 3 => s.bump .rstPressResets
  | 4 => s.bump .rstWarmResets
  | _ => s

/-- The losses of a reset of level 0 to 3. -/
def State.resetEffect (s : State) (level u : Nat) (ue : List Nat) : State :=
  let i := unitInst u
  match level with
  | 0 =>
    if unitKind u = 1 then s.resetPart i (unitPart u) ue
    else if unitKind u = 2 then s.resetDiePart i (unitPart u) ue
    else s.resetLink i
  | 1 => if s.domainOn (domTile i) then s.tileReset i else s
  | 2 => s.resetEngine i
  | 3 => s.resetPress i
  | _ => s

/-! ### Beginning, ending, escalating (R404, R405, R408) -/

/-- RST_LAST: the chain's cause, its unit and levels; an engine reset started beside another leaves it (R401). -/
def State.noteLast (s : State) (r : ResetRun) : State :=
  if r.second ∧ r.level ≤ s.get .rstLastFinal then s
  else
    let s1 := ((s.set .rstLastCause 0 0 r.cause).set .rstLastUnit 0 0 r.unit).set .rstLastEscalations 0 0 (min 15 r.escalations)
    (s1.set .rstLastFirst 0 0 r.first).set .rstLastFinal 0 0 r.level

/-- The quiesce of a unit under test is lifted (R411). -/
def State.liftQuiesce (s : State) (u : Nat) : State :=
  if unitKind u = 1 then s.setTile (unitInst u) { s.tile (unitInst u) with bistQuiesce := false }
  else if unitKind u = 2 then s.setDie (unitInst u) { s.die (unitInst u) with bistQuiesce := false }
  else s

/-- A BIST_RUN's answer: STATE, CODE and SEGMENT (Table 14.9). -/
def State.bistAnswer (s : State) (req : Option (Nat × Nat)) (st code seg : Nat) : State :=
  match req with
  | some (n, seq) => s.reply n seq 0x0063 0 (leBytes 1 st ++ leBytes 1 0 ++ leBytes 2 code ++ leBytes 2 seg ++ leBytes 2 0)
  | none => s

/-- A slice whose unit a reset reaches is abandoned without a verdict, and counted in BIST_DEFERS (Table 14.6). -/
def State.sliceCut (s : State) (level u : Nat) : State :=
  match s.rel.slice with
  | none => s
  | some x =>
    if inScope level u x.unit then
      let s1 := { s with rel := { s.rel with slice := none } }
      ((s1.liftQuiesce x.unit).bump .bistDefers).bistAnswer x.session 0 0 s.rel.lastSegment
    else s

/-- The lower resets inside the scope of a higher one are abandoned; the higher one answers for them (R408). -/
def State.dropLower (s : State) (r : ResetRun) : State × ResetRun :=
  let low := fun (x : ResetRun) => decide (x.level < r.level) && inScope r.level r.unit x.unit
  ({ s with rel := { s.rel with resets := s.rel.resets.filter fun x => !low x } },
   { r with sessions := r.sessions ++ (s.rel.resets.filter low).flatMap ResetRun.sessions })

/-- RESETTING while a press die reset or an engine restart runs (Table 14.2). -/
def State.resetMode (s : State) : State :=
  let on := s.rel.resets.any fun r => r.level == 2 || r.level == 3
  if on ∧ s.rel.mode = .ready then s.setMode .resetting
  else if on = false ∧ s.rel.mode = .resetting then s.setMode .ready
  else s

/-- A reset begins: the sample, the count, the losses, and an entry that counts the operations abandoned. `ue` are the blocks that its
records find uncorrectable. -/
def State.beginReset (s : State) (r0 : ResetRun) (ue : List Nat := []) : State :=
  let d := s.dropLower r0
  let ts := d.1.toSample r0
  let fl := d.1.sampleFlags ts
  let n := d.1.heldOps r0.level r0.unit
  let r := { d.2 with sampled := r0.sampled || !(d.1.tilesOf r0.level r0.unit).isEmpty }
  let s1 := ((ts.foldl (fun s t => s.sampleTile t) d.1).noteLast r).countReset r.level
  let s2 := s1.sliceCut r.level r.unit
  let s3 := if n = 0 then s2 else s2.logCode Code.rstAbandoned r.unit { arg1 := n, level := r.level, flags := fl }
  if r.level = 4 then s3.copyLog.startBegins true
  else if r.level = 5 then s3.startBegins false
  else
    let s4 := s3.resetEffect r.level r.unit ue
    { s4 with rel := { s4.rel with resets := s4.rel.resets ++ [r] } }.resetMode

/-- The code of a reset request: 0 when it is taken (R404, R408). -/
def State.resetCode (s : State) (level u : Nat) : Nat :=
  if !levelOk level u then Code.rstCmdRange else if s.absorbed level u then Code.rstBusy else 0

/-- A write of RST_CMD. Nothing can write it before a start has brought the service cluster up. -/
def State.rstCmd (s : State) (level u : Nat) (ue : List Nat := []) : State :=
  if !s.domainOn domService then s
  else
    let c := s.resetCode level u
    let s1 := s.set .rstStatusCode 0 0 c
    if c = 0 then s1.beginReset { unit := u, level := level, cause := 0, first := level } ue else s1

def execResetEngine (unit : Nat) (e : Ecc) (s : State) : Host.Outcome State Fault Refusal := .next ((s.corrected e.ce).rstCmd 0 unit e.ue)

def execResetTile (unit : Nat) (s : State) : Host.Outcome State Fault Refusal := .next (s.rstCmd 1 unit)

def execResetOptical (unit : Nat) (s : State) : Host.Outcome State Fault Refusal := .next (s.rstCmd 2 unit)

def execResetPress (unit : Nat) (s : State) : Host.Outcome State Fault Refusal := .next (s.rstCmd 3 unit)

def execResetWarm (s : State) : Host.Outcome State Fault Refusal := .next (s.rstCmd 4 unitModule)

def execResetCold (s : State) : Host.Outcome State Fault Refusal := .next (s.rstCmd 5 unitModule)

/-- A reset of level 0 to 3 completes: the RESET commands that await it are answered, and a press die's links leave OFF. -/
def State.resetDone (s : State) (u : Nat) : State :=
  match s.rel.resets.find? fun r => r.unit == u with
  | none => s
  | some r =>
    let s1 := { s with rel := { s.rel with resets := s.rel.resets.erase r } }
    let s2 := if r.level = 3 then (pressLinks (unitInst u)).foldl (fun s l => s.bring l) s1 else s1
    (r.sessions.foldl (fun s e => s.reply e.1 e.2 0x0061 0 []) s2).resetMode

def execResetDone (unit : Nat) (s : State) : Host.Outcome State Fault Refusal := .next (s.resetDone unit)

/-! ### Safe state (R416, R417) -/

/-- Entry into safe state: nothing leaves a queue, no pass fires, no layer is taken, and every link turns dark. -/
def State.safeEntry (s : State) (cause u : Nat) : State :=
  if s.rel.safeDrain || s.rel.mode == .safe then s
  else
    let s1 := (List.range 64).foldl (fun s t => s.setTile t { s.tile t with bistQuiesce := true }) s.startCut
    let s2 := (List.range 32).foldl (fun s d => s.setDie d { s.die d with bistQuiesce := true }) s1
    let s3 := s2.darken (List.range 96) 1
    { s3 with rel := { s3.rel with safeDrain := true, safeCause := cause, safeUnit := u, resets := [], slice := none } }

/-- The 10 ms of R416 end: what is still in flight is abandoned, the image is written, domains go off, and the state is SAFE. -/
def State.safeDrained (s : State) : State :=
  if !s.rel.safeDrain then s
  else
    let n := (s.tiles.map fun e => e.2.inFlight).sum
    let s1 := s.save 2 true
    let s2 := (List.range 104).foldl (fun s d => s.switchOff d) s1
    let s3 := ({ s2 with rel := { s2.rel with safeDrain := false } }.setMode .safe).bump .rstSafeEntries
    (s3.alarm Code.rstSafeState s.rel.safeUnit { arg0 := s.rel.safeCause, arg1 := n }).copyLog

def execSafeStateDrain (s : State) : Host.Outcome State Fault Refusal := .next s.safeDrained

/-! ### Escalation (R405) -/

/-- RST_ESCALATED logged and counted, naming both levels and both units. -/
def State.noteEscalation (s : State) (level u : Nat) : State :=
  let n := nextLevel level u
  (s.logCode Code.rstEscalated n.2 { arg0 := u + level * 2 ^ 16, arg1 := n.2 + n.1 * 2 ^ 16, level := n.1 }).bump .rstEscalations

/-- A module warm reset that fails or overruns: a cold start follows, or safe state where ESC_MAX ends the chain (R435). -/
def State.warmEscalate (s : State) : State :=
  let s1 := s.noteEscalation 4 unitModule
  if s.get .rstCtlEscMax < 5 then s1.safeEntry Code.rstEscalated unitModule
  else s1.beginReset { unit := unitModule, level := 5, cause := s.get .rstLastCause, first := s.get .rstLastFirst, escalations := 1 }

/-- The watchdog of a reset expires. -/
def State.escalate (s : State) (u : Nat) : State :=
  match s.rel.resets.find? fun r => r.unit == u with
  | some r =>
    let s1 := { s with rel := { s.rel with resets := s.rel.resets.erase r } }.noteEscalation r.level u
    let n := nextLevel r.level u
    if s.get .rstCtlEscMax < n.1 then s1.safeEntry (if r.cause = 0 then Code.rstEscalated else r.cause) u
    else if s1.absorbed n.1 n.2 then s1.resetMode
    else (s1.beginReset { r with level := n.1, unit := n.2, escalations := r.escalations + 1 }).resetMode
  | none =>
    if u = unitModule ∧ s.boot.running ∧ s.boot.warm then s.warmEscalate else s

def execRstEscalated (unit : Nat) (s : State) : Host.Outcome State Fault Refusal := .next (s.escalate unit)

/-! ### Deadlines (R401, Table 14.3) -/

/-- What an expiry names: the unit that is reset, a second one, DETAIL, the program counter, a peer and a link. -/
structure Hang where
  unit : Option Nat := none
  also : Option Nat := none
  detail : Nat := 0
  pc : W64 := 0
  cores : Nat := 0
  peer : Nat := 0xFFFF
  link : Nat := 0xFF
deriving DecidableEq, Repr

/-- The cores of a launch that have not executed TEXIT. -/
def State.coresLeft (s : State) (t slot : Nat) (o : Op) : List Nat :=
  (coresOf (kernelBody o.desc).cores).filter fun c => !(o.started && (s.core t c).state == .exited && (s.core t c).slot == slot)

/-- The expiry of a kernel. -/
def State.hangKernel (s : State) (t slot : Nat) (o : Op) : Hang :=
  let cs := s.coresLeft t slot o
  let mask := (cs.map fun c => 2 ^ c).sum
  let pc := match cs.head? with
    | some c => if o.started then (s.core t c).pc else BitVec.ofNat 64 (kernelBody o.desc).entry
    | none => 0
  { unit := some (unitTile t 3), also := if dKind o.desc = 2 then some (unitTile t 2) else none, detail := mask, pc := pc, cores := mask }

/-- The oldest request of a slot that awaits its answer. -/
def State.oldestReq (s : State) (t slot : Nat) : Option Req := s.requests.find? fun r => r.tile == t && r.slot == slot

/-- The expiry of a DMA: its oldest unanswered remote request, or else an address that the manual does not determine (log 2). -/
def State.hangDma (s : State) (t slot : Nat) : Hang :=
  match s.oldestReq t slot with
  | some r => { unit := some (unitTile t 4), detail := 2 ^ 63 + r.link * 2 ^ 48 + r.dest * 2 ^ 32, peer := r.dest, link := r.link }
  | none => { unit := some (unitTile t 4), detail := Config.freeNat (s.free + slot) % 2 ^ 48 }

/-- The expiry of a CASK_PASS: once it has fired, the cask controller too. -/
def State.hangPass (s : State) (t slot : Nat) (o : Op) : Hang :=
  let b := caskBody o.desc
  let fired := (s.die b.die).passes.any fun p => p.tile == t && p.slot == slot && p.stage != .waiting
  { unit := some (unitTile t 5), also := if fired then some (unitCask b.die) else none,
    detail := b.mac + b.die * 2 ^ 16 + b.layer * 2 ^ 24 }

/-- The member from which an open bucket awaits its next chunk: its predecessor in the tier (R302, R303). -/
def Place3.awaited (p : Place3) : Nat := p.member p.tier (p.inTier + p.n - 1)

/-- The expiry of a BUCKET or of a REMOTE_ADD, which resets no unit. -/
def State.hangOther (s : State) (t slot : Nat) (o : Op) : Hang :=
  let b := bucketBody o.desc
  if dKind o.desc = 5 ∧ b.op = 0 then
    let p := s.place b.group
    let link := ((s.route p.awaited).map Route.link).getD 0xFF
    { detail := failDetail (p.posOf p.awaited) 0 p.awaited link, peer := p.awaited, link := link }
  else if dKind o.desc = 5 then
    { detail := b.id + b.group * 2 ^ 16 + Config.freeNat (s.free + slot) % 2 ^ 32 * 2 ^ 32 }
  else match s.oldestReq t slot with
    | some r => { detail := r.dest * 2 ^ 32 + r.link * 2 ^ 48, peer := r.dest, link := r.link }
    | none =>
      let dev := (syncBody o.desc).device
      let link := ((s.route dev).map Route.link).getD 0xFF
      { detail := dev * 2 ^ 32 + link * 2 ^ 48, peer := dev, link := link }

/-- What the expiry of an operation names (Table 14.3). -/
def State.hangOf (s : State) (t slot : Nat) (o : Op) : Hang :=
  match dKind o.desc with
  | 0 => { unit := some (unitTile t 0), detail := Config.freeNat (s.free + slot) % 2 ^ 32 }
  | 1 => s.hangPass t slot o
  | 2 => s.hangKernel t slot o
  | 3 => s.hangKernel t slot o
  | 4 => s.hangDma t slot
  | _ => s.hangOther t slot o

/-- Whether an operation in flight can exceed its deadline: a FLUSH, a SYNC but for a REMOTE_ADD, and a FENCE complete as they
leave (Table 14.3). -/
def Op.canHang (o : Op) : Bool :=
  (o.phase == .running || o.phase == .done) &&
  match dKind o.desc with
  | 5 => (bucketBody o.desc).op != 2
  | 6 => (syncBody o.desc).op == 2
  | 7 => false
  | _ => true

/-- What a bucket's expiry does to its use: it fails on this member, and aborts are sent (R326). -/
def State.hangUse (s : State) (o : Op) (h : Hang) : State :=
  if dKind o.desc ≠ 5 then s
  else
    let b := bucketBody o.desc
    match s.bucket b.group b.id with
    | none => s
    | some u =>
      if b.op = 0 then
        let p := s.place b.group
        s.failUseWith u Code.hangDeadline (p.posOf p.awaited) p.awaited h.link h.detail true
      else s.failUse u Code.hangDeadline (s.place b.group).pos s.deviceId 0xFF 0

/-- The hang record latched, unless an earlier one has not been read (R401 step 2). -/
def State.latchHang (s : State) (slot : Nat) (o : Op) (h : Hang) : State :=
  if s.get .rstHangCode ≠ 0 then s
  else
    let s1 := ((s.set .rstHangCode 0 0 Code.hangDeadline).set .rstHangContext 0 0 (dCtx o.desc)).set .rstHangGen 0 0 (dGen o.desc)
    let s2 := ((s1.set .rstHangSlot 0 0 slot).set .rstHangQueue 0 0 o.queue).set .rstHangKind 0 0 (dKind o.desc)
    let s3 := ((s2.set .rstHangUnitUnit 0 0 (h.unit.getD unitModule)).set .rstHangUnitCores 0 0 h.cores).set .rstHangUnitSeq 0 0 o.seq
    (s3.setWord (Fld.rstHangPc.addr 0 0) h.pc).set .rstHangDetail 0 0 h.detail

/-- An engine reset that a deadline starts; one absorbed by a reset that runs starts nothing (R401, R408). -/
def State.hangReset (s : State) (u : Option Nat) (second : Bool) (ue : List Nat) : State :=
  match u with
  | some u =>
    if s.absorbed 0 u then s
    else s.beginReset { unit := u, level := 0, cause := Code.hangDeadline, first := 0, second := second } ue
  | none => s

/-- The log entry of an expiry. -/
def State.logHang (s : State) (o : Op) (h : Hang) : State :=
  let u := h.unit.getD unitModule
  let fl := match h.unit with
    | some u => s.sampleFlags (s.toSample { unit := u, level := 0, cause := Code.hangDeadline, first := 0 })
    | none => 0
  let arg1 := if dKind o.desc = 1 then h.also.getD 0 else h.pc.toNat
  let a : LogArgs := { ctx := dCtx o.desc, gen := dGen o.desc, arg0 := h.detail, arg1 := arg1 }
  s.logCode Code.hangDeadline u { a with peer := h.peer, link := h.link, level := if h.unit.isSome then 0 else 0xFF, flags := fl }

/-- The first three steps of an expiry (R401): the record, the hang record, the log entry. -/
def State.expire (s : State) (t slot : Nat) (o : Op) (h : Hang) (ue : List Nat) : State :=
  let s1 := (s.hangUse o h).failOp ue t slot Code.hangDeadline h.detail false
  let s2 := s1.resetRequests fun r => r.tile == t && r.slot == slot
  ((s2.latchHang slot o h).bump .rstDeadlines).logHang o h

/-- The operations of a tile among some slots whose deadlines can expire, the lower slot first (Table 14.6), and what each names. -/
def State.hangs (s : State) (t : Nat) (slots : List Nat) : List (Nat × Op × Hang) :=
  if s.preempted t then []
  else ((List.range 64).filter slots.contains).filterMap fun k =>
    (s.op t k).bind fun o => if o.canHang then some (k, o, s.hangOf t k o) else none

/-- The deadlines of operations of one tile expire in one clock (R401): each is recorded and logged, and then each unit named is reset once
(R408, Table 14.6). The sample of R403 belongs to the reset. -/
def State.deadline (s : State) (t : Nat) (slots ue : List Nat) : State :=
  let hs := s.hangs t slots
  if hs.isEmpty then s
  else
    let s1 := hs.foldl (fun s x => s.expire t x.1 x.2.1 x.2.2 ue) { s with free := s.free + 64 }
    hs.foldl (fun s x => (s.hangReset x.2.2.unit false ue).hangReset x.2.2.also true ue) s1

def execHangDeadline (t slot : Nat) (others : List Nat) (e : Ecc) (s : State) : Host.Outcome State Fault Refusal :=
  .next ((s.corrected e.ce).deadline t (slot :: others) e.ue)

/-! ### Waits (R402) -/

/-- A queue head has stayed in WAITING for longer than WAIT_S: logged once per wait. -/
def State.longWait (s : State) (t q : Nat) : State :=
  match (s.tile t).head q with
  | none => s
  | some (_, o) =>
    if s.queueState t q ≠ 3 || s.rel.waitsLogged.contains (t, q, o.seq) then s
    else
      let second := s.wait (dField o.desc 8 2) (waitNeeds o.desc).1 != .unmet
      let id := if second then dField o.desc 12 2 else dField o.desc 8 2
      let thresh := if second then dField o.desc 14 2 else dField o.desc 10 2
      let s1 := { s with rel := { s.rel with
        waitsLogged := (s.rel.waitsLogged.filter fun (e : Nat × Nat × Nat) => !(e.1 == t && e.2.1 == q)) ++ [(t, q, o.seq)] } }
      let arg0 := id + (s.ctr id).value * 2 ^ 16 + thresh * 2 ^ 32 + q * 2 ^ 48 + (if second then 2 ^ 52 else 0)
      (s1.logCode Code.hangWait (unitTile t 6) { ctx := dCtx o.desc, gen := dGen o.desc, arg0 := arg0, arg1 := o.seq }).bump
        .rstWaitReports

def execHangWait (t q : Nat) (s : State) : Host.Outcome State Fault Refusal := .next (s.longWait t q)

end Sys2Proof.Machine
end

