-- ==== Sys2Proof/Machine/SelfTest.lean ====
section
/-!
DEFINITION. Self-test in slices (R409 to R414).
-/

namespace Sys2Proof.Machine

/-- The segments of one cover of a kind (Table 14.1). -/
def coverOf (kind : Nat) : Nat := [0, 64, 32, 96, 4, 4, 16, 4, 2].getD kind 0

/-- The schedule of the blend in force, one place for each visit: the entry, the unit, the slices. An entry with INSTANCE 0xFF has
a place for every instance of its kind (R398). -/
def State.bistPlan (s : State) : List (Nat × Nat × Nat) :=
  ((s.blend.inForce.map Blend.bist).getD []).zipIdx.flatMap fun e =>
    if unitInst e.1.block = 0xFF then
      (List.range (bistInstances (unitKind e.1.block))).map fun i => (e.2, unitId (unitKind e.1.block) i 0, e.1.slices)
    else [(e.2, e.1.block, e.1.slices)]

/-- Whether a block may be tested now (R410, Table 14.1). -/
def State.bistEligible (s : State) (u : Nat) : Bool :=
  let i := unitInst u
  unitValid u && unitPart u == 0 && !s.inReset u &&
  match unitKind u with
  | 1 => s.domainOn (domTile i)
  | 2 => s.domainOn (domCask i)
  | 3 => s.domainOn (domPress i) && s.rel.mode == .deepIdle
  | 4 => s.domainOn (domPress (i / 24)) && !s.isUp i
  | 5 => s.domainOn (domOptical i) && !(linksOf i).any s.isUp
  | 6 => s.domainOn domEth && !s.pins.ethLink
  | 7 => s.domainOn domService
  | 8 => s.domainOn domHkc
  | _ => false

/-- The next segment of a block. -/
def State.segment (s : State) (u : Nat) : Nat := smGet (fun _ => 0) s.rel.segments u

/-- The quiesce of a block requested: a tile's operations stay in their queues, a cask die fires no pass and takes no layer. -/
def State.askQuiesce (s : State) (u : Nat) : State :=
  if unitKind u = 1 then s.setTile (unitInst u) { s.tile (unitInst u) with bistQuiesce := true }
  else if unitKind u = 2 then s.setDie (unitInst u) { s.die (unitInst u) with bistQuiesce := true }
  else s

/-- Slices start on a block. -/
def State.sliceStart (s : State) (x : Slice) : State :=
  let s1 := { s with rel := { s.rel with slice := some x, lastUnit := x.unit, lastSegment := s.segment x.unit } }
  s1.askQuiesce x.unit

/-- A visit of the schedule (R409, R410): ineligible blocks are skipped, at most one full round of them. -/
def State.bistVisit (s : State) : State :=
  let plan := s.bistPlan
  if s.get .bistCtlEnable = 0 ∨ plan = [] ∨ s.rel.slice.isSome ∨ s.rel.mode = .safe ∨ s.rel.safeDrain = true then s
  else
    let n := plan.length
    let turn := (List.range n).map fun i => (s.rel.cursor + i) % n
    let ok := fun i => (plan[i]?).elim false fun e => s.bistEligible e.2.1
    let skips := (turn.takeWhile fun i => !ok i).length
    let s1 := if skips = 0 then s else s.bump .bistSkips 0 0 skips
    let at_ := (s.rel.cursor + skips) % n
    match (if skips < n then plan[at_]? else none) with
    | some e =>
      { s1 with rel := { s1.rel with cursor := (at_ + 1) % n } }.sliceStart { unit := e.2.1, stage := 1, left := e.2.2, scheduled := true }
    | none => s1

def execBistVisit (s : State) : Host.Outcome State Fault Refusal := .next s.bistVisit

/-- Whether a block under quiesce has reached it (R411 step 1). -/
def State.bistQuiet (s : State) (u : Nat) : Bool :=
  if unitKind u = 1 then (s.tile (unitInst u)).inFlight == 0
  else if unitKind u = 2 then (s.die (unitInst u)).active == 0 && (s.die (unitInst u)).heldLayers == 0
  else true

/-- A block reaches quiesce: it is isolated, and its test runs. Class 0 passes for a die under test take the fallback. -/
def State.bistQuiesced (s : State) : State :=
  match s.rel.slice with
  | none => s
  | some x =>
    if x.stage = 1 ∧ s.bistQuiet x.unit = true then
      let s1 := { s with rel := { s.rel with slice := some { x with stage := 2 } } }
      if unitKind x.unit = 2 then s1.settleDie (unitInst x.unit) [] else s1
    else s

def execBistQuiesced (s : State) : Host.Outcome State Fault Refusal := .next s.bistQuiesced

/-- QUIESCE_US passes before quiesce: the slice is given up; the 8th deferral of a block in a row is reported (R411 step 2). -/
def State.bistTimeout (s : State) : State :=
  match s.rel.slice with
  | none => s
  | some x =>
    if x.stage ≠ 1 then s
    else
      let n := smGet (fun _ => 0) s.rel.defers x.unit + 1
      let s1 := { s with rel := { s.rel with slice := none, defers := smPut (fun _ => 0) x.unit (n % 8) s.rel.defers } }
      let s2 := (s1.liftQuiesce x.unit).bump .bistDefers
      let s3 := if n = 8 then (s2.set .bistStatusCode 0 0 Code.bistDeferred).alarm Code.bistDeferred x.unit { arg0 := s.segment x.unit } else s2
      s3.bistAnswer x.session 0 (if n = 8 then Code.bistDeferred else 0) s.rel.lastSegment

def execBistQuiesceTimeout (s : State) : Host.Outcome State Fault Refusal := .next s.bistTimeout

/-- A slice passes: the next segment, a cover when the last one is done, and the next slice of the visit or the block's release. -/
def State.slicePass (s : State) (x : Slice) : State :=
  let seg := s.segment x.unit
  let done := seg + 1 == coverOf (unitKind x.unit)
  let r := { s.rel with segments := smPut (fun _ => 0) x.unit (if done then 0 else seg + 1) s.rel.segments,
                        defers := smPut (fun _ => 0) x.unit 0 s.rel.defers, slice := none }
  let s1 := { s with rel := r }.bump .bistSlices
  let s2 := if done then s1.bump .bistCovers else s1
  if 1 < x.left then s2.sliceStart { x with stage := 1, left := x.left - 1 }
  else (s2.liftQuiesce x.unit).bistAnswer x.session 0 0 seg

/-- A slice fails: BIST_FAIL, and the module enters safe state (R413). -/
def State.sliceFail (s : State) (x : Slice) (diff : Nat) : State :=
  let seg := s.segment x.unit
  let s1 := ((s.set .bistFailUnit 0 0 x.unit).set .bistFailSegment 0 0 seg).set .bistFailDiff 0 0 (diff % 2 ^ 32)
  let s2 := (s1.set .bistStatusCode 0 0 Code.bistFail).logCode Code.bistFail x.unit { arg0 := seg, arg1 := diff }
  (s2.bistAnswer x.session 3 Code.bistFail seg).safeEntry Code.bistFail x.unit

/-- A slice's signature is compared with the expected one (R411, R413). -/
def State.sliceDone (s : State) (sig : W64) : State :=
  match s.rel.slice with
  | none => s
  | some x =>
    if x.stage ≠ 2 then s
    else
      let diff := sig ^^^ Config.bistSignature x.unit (s.segment x.unit)
      if diff = 0 then s.slicePass x else s.sliceFail x diff.toNat

def execBistSliceDone (signature : W64) (s : State) : Host.Outcome State Fault Refusal := .next (s.sliceDone signature)

/-- Slices asked for outside the schedule, by BIST_CMD or BIST_RUN: a slice or a start cover that runs makes them wait (R414, R415). -/
def State.bistAsk (s : State) (u slices : Nat) (session : Option (Nat × Nat)) : State :=
  if s.rel.slice.isSome || (s.boot.running && s.boot.stage == 5) then
    (s.set .bistStatusCode 0 0 Code.bistBusy).bistAnswer session 2 Code.bistBusy s.rel.lastSegment
  else if s.bistEligible u && slices != 0 && !s.rel.safeDrain then
    s.sliceStart { unit := u, stage := 1, left := slices, scheduled := false, session := session }
  else (s.bump .bistSkips).bistAnswer session 0 0 s.rel.lastSegment

/-- A write of BIST_CMD. -/
def State.bistCmd (s : State) (w : W64) : State :=
  if fieldOf w 0 0 = 0 then s else s.bistAsk (fieldOf w 31 16) (fieldOf w 15 8) none

def execBistCmd (w : W64) (s : State) : Host.Outcome State Fault Refusal := .next (s.bistCmd w)

end Sys2Proof.Machine
end

