-- ==== Sys2Proof/Machine/Racking.lean ====
section
/-!
DEFINITION. Racks (R418 to R420) and what firmware has consumed of the error log (R423, R452).
-/

namespace Sys2Proof.Machine

/-! ### Starting a rack (R418) -/

/-- The ID of the rack in progress, 0 when none is. -/
def State.rackId (s : State) : Nat := (s.rel.rack.map Rack.id).getD 0

/-- A rack starts on this module. -/
def State.rackBegin (s : State) (x : Rack) : State := { s with rel := { s.rel with rack := some x } }

/-- The refusal of a local start. -/
def State.rackRefusal (s : State) (id : Nat) : Option Nat :=
  if id = 0 then some Code.snapId else if s.rel.rack.isSome then some Code.snapBusy else none

/-- A local start, by SNAP_CMD or by a RACK command. -/
def State.rackAsk (s : State) (id : Nat) (session : Option (Nat × Nat)) : State :=
  match s.rackRefusal id with
  | some c => s.set .snapStatusCode 0 0 c
  | none => (s.set .snapStatusCode 0 0 0).rackBegin { id := id, origin := s.deviceId, link := 0xFF, session := session }

def execSnapCmd (w : W64) (s : State) : Host.Outcome State Fault Refusal := .next (s.rackAsk (fieldOf w 15 0) none)

/-! ### The latch (R419) -/

/-- The registers whose shadows a rack takes, apart from the sync counters: every counter, and the energy counters, in ascending
address within each block. -/
def rackFields : List (Pfx × Fld) :=
  [Pfx.pwr, .rst, .snap, .bist, .ses, .eth, .hkc, .rdc, .xfer, .flink, .tile, .opq, .cask, .cal, .cwr, .sync].flatMap fun p =>
    ((blockOf p).fields.filter fun f => f.acc == .ctr || f == .pwrEnergyInUj || f == .pwrEnergyModelUj || f == .pwrBallastUj).map fun f => (p, f)

/-- The unit that owns an instance of a block. -/
def unitOfBlock (p : Pfx) (i : Nat) : Nat :=
  match p with
  | .tile => unitTile i
  | .opq => unitTile i
  | .sync => if i < 64 then unitTile i else unitCore 0
  | .cask => unitCask i
  | .cal => unitCask i 2
  | .cwr => unitCask i 1
  | .xfer => unitPress i
  | .rdc => unitPress i
  | .flink => unitLink i
  | .eth => unitEth
  | .hkc => unitHkc
  | _ => unitModule

/-- A SYNC_CTR as it reads (Table 8.12). -/
def State.ctrWord (s : State) (id : Nat) : W64 :=
  let c := s.ctr id
  BitVec.ofNat 64 (c.value + (if c.ovf then 2 ^ 27 else 0) + (if c.unf then 2 ^ 28 else 0) + (if c.misuse then 2 ^ 29 else 0)
    + (if c.remoteOk then 2 ^ 30 else 0) + (if c.poison then 2 ^ 31 else 0) + min 255 (s.waitersOn id) * 2 ^ 32)

/-- The value of FLINK_RX_FLITS in a link's shadow: as it stood when a RACK came before the latch (R418). -/
def State.rackWord (s : State) (a : Nat) : W64 :=
  match (List.range 96).find? fun l => decide (Fld.flinkRxFlits.addr l 0 = a) with
  | some l => match (s.link l).rackRx with
    | some n => BitVec.ofNat 64 n
    | none => s.word a
  | none => s.word a

/-- One shadow: a unit in reset latches 0, and its entry is flagged. -/
def State.shadow (s : State) (u a : Nat) (v : W64) : Nat × W64 := if s.inReset u then (2 ^ 48 + a, 0) else (a, v)

/-- The shadows of the registers. -/
def State.regShadows (s : State) : List (Nat × W64) :=
  rackFields.flatMap fun e => (List.range (blockOf e.1).insts).flatMap fun i =>
    (List.range e.2.count).map fun j => s.shadow (unitOfBlock e.1 i) (e.2.addr i j) (s.rackWord (e.2.addr i j))

/-- The shadows of the sync counters. -/
def State.ctrShadows (s : State) : List (Nat × W64) :=
  (List.range 65).flatMap fun i =>
    (List.range (if i < 64 then s.get .capQueuesTileSync else s.get .capQueuesServiceSync)).map fun c =>
      s.shadow (unitOfBlock .sync i) (Fld.syncCtrValue.addr i c) (s.ctrWord (i * 256 + c))

/-- The shadows in ascending address. -/
def State.shadows (s : State) : List (Nat × W64) :=
  sortBy (fun x => x.1 % 2 ^ 48) (s.regShadows ++ s.ctrShadows)

/-- The RACK flit of a rack to a peer (R418). -/
def State.rackFlitTo (s : State) (x : Rack) (dest : Nat) : Option Flit :=
  ({ dest := dest, src := s.deviceId, cls := 0, type := msgRack, ctx := 0, gen := 0,
     payload := leBytes 2 x.id ++ leBytes 2 x.origin : Msg }).flits.head?

/-- What the latch does to a link that is UP: its RACK flit is due, and but on the arrival link accepted flits are counted. -/
def State.rackLink (s : State) (x : Rack) (l : Nat) : State :=
  let k := s.link l
  let due := if s.get .snapCfgForward = 1 then s.rackFlitTo x (s.peerOf l).id else k.rackDue
  s.setLink l { k with rackDue := due, rackCount := if l = x.link then none else some 0, rackLost := false }

/-- The latch (R419). -/
def State.rackLatch (s : State) : State :=
  match s.rel.rack with
  | none => s
  | some x =>
    if x.latched then s
    else
      let ups := (List.range 96).filter s.isUp
      let x1 : Rack := { x with latched := true, entries := s.shadows, waiting := ups.filter fun l => l != x.link && !x.early.contains l }
      let fabric := (List.range 4).map fun p => (s.requests.filter fun r => r.link / 24 == p).length
      let s1 := ups.foldl (fun s l => s.rackLink x l) s
      s1.tick.rackBegin { x1 with fabric := fabric, time := Config.freeNat s.free % 2 ^ 64 }

def execRackLatch (s : State) : Host.Outcome State Fault Refusal := .next s.rackLatch

/-! ### RACK flits that arrive (R418, R419) -/

/-- A RACK that ends nothing: the flits accepted since it came count again. -/
def State.rackIgnored (s : State) (l : Nat) : State :=
  let k := s.link l
  let since := s.get .flinkRxFlits l - (k.rackRx.getD 0)
  s.setLink l { k with rackRx := none, rackCount := k.rackCount.map (· + since) }

/-- A RACK of the rack in progress: the link's count is closed. -/
def State.rackMatch (s : State) (x : Rack) (l : Nat) : State :=
  let s1 := s.bump .snapDuplicates
  if x.latched then s1.rackBegin { x with waiting := x.waiting.filter (· != l) } else s1.rackBegin { x with early := x.early ++ [l] }

/-- A RACK flit arrives. -/
def State.rackFlit (s : State) (l : Nat) : State :=
  match s.takeDelivered l msgRack with
  | none => s
  | some (m, s1) =>
    let id := m.num 0 2
    match s1.rel.rack with
    | some x => if x.id = id then s1.rackMatch x l else (s1.bump .snapRefused).rackIgnored l
    | none =>
      if id = s1.get .snapStatusLastId then (s1.bump .snapDuplicates).rackIgnored l
      else s1.rackBegin { id := id, origin := m.num 2 2, link := l }

def execRackFlit (link : Nat) (s : State) : Host.Outcome State Fault Refusal := .next (s.rackFlit link)

/-- 1 ms passes, and a RACK has not arrived (R419). -/
def State.rackTimeout (s : State) : State :=
  match s.rel.rack with
  | none => s
  | some x =>
    if !x.latched || x.waiting.isEmpty || x.incomplete then s
    else
      let s1 := (s.set .snapStatusCode 0 0 Code.snapIncomplete).logCode Code.snapIncomplete unitModule { arg0 := x.id, arg1 := x.waiting.length }
      s1.rackBegin { x with incomplete := true }

def execSnapIncomplete (s : State) : Host.Outcome State Fault Refusal := .next s.rackTimeout

/-! ### The rack image (R420) -/

/-- The IN_FLIGHT entries. -/
def State.flights (s : State) : List (Nat × W64) :=
  (List.range 96).filterMap fun l => (s.link l).rackCount.map fun n =>
    (2 ^ 56 + (if (s.link l).rackLost then 2 ^ 49 else 0) + Fld.flinkCtlEnable.addr l 0, BitVec.ofNat 64 n)

/-- The rack image (R420). -/
def Rack.image (x : Rack) (incomplete : Bool) (es : List (Nat × W64)) : List Byte :=
  leBytes 2 x.id ++ leBytes 2 x.origin ++ leBytes 1 x.link ++ leBytes 1 (if incomplete then 1 else 0) ++ leBytes 2 0 ++
  leBytes 4 es.length ++ leBytes 8 x.time ++ leBytes 44 0 ++ es.flatMap fun e => leBytes 8 e.1 ++ leBytes 8 e.2.toNat

/-- The links forget the rack. -/
def State.rackForget (s : State) : State :=
  (List.range 96).foldl (fun s l => s.setLink l { s.link l with rackRx := none, rackCount := none, rackLost := false }) s

/-- The rack image is written once every entry is final. -/
def State.rackWritten (s : State) : State :=
  match s.rel.rack with
  | none => s
  | some x =>
    let lost := (List.range 96).any fun l => (s.link l).rackLost
    let final := x.incomplete || x.waiting.all fun l => (s.link l).rackLost
    if !x.latched || !final then s
    else
      let es := x.entries ++ s.flights
      let s1 := if lost && !x.incomplete then s.rackTimeout else s
      let s2 := s1.rackForget.writeBytes (sramBase + s.get .snapCfgOffset) (x.image (x.incomplete || lost) es)
      let s3 := (((s2.set .snapLastOrigin 0 0 x.origin).set .snapLastLink 0 0 x.link).set .snapLastEntries 0 0 es.length).bump .snapRacks
      let s4 := { s3.set .snapStatusLastId 0 0 x.id with rel := { s3.rel with rack := none } }
      let s5 := if s4.get .snapCfgSignal = 1 then s4.signalService (s4.get .snapCfgSync) else s4
      match x.session with
      | some (n, seq) => s5.reply n seq 0x0060 0 (leBytes 4 es.length ++ leBytes 4 (s.get .snapCfgOffset))
      | none => s5

def execRackImageWritten (s : State) : Host.Outcome State Fault Refusal := .next s.rackWritten

/-! ### The error log's consumer (R423, R452) -/

/-- A write of RST_LOG_PTR.RPTR: beyond every entry that asserts alert-out, the pin is released. -/
def State.logRptr (s : State) (rptr : Nat) : State :=
  let s1 := s.set .rstLogPtrRptr 0 0 rptr
  let past := (rptr + 2 ^ 32 - s.rel.alertSeq) % 2 ^ 32
  if 1 ≤ past ∧ past < 2 ^ 31 then { s1 with rel := { s1.rel with alert := false } } else s1

def execLogRptrWrite (v : W64) (s : State) : Host.Outcome State Fault Refusal := .next (s.logRptr (fieldOf v 63 32))

end Sys2Proof.Machine
end

