-- ==== Sys2Proof/Machine/Housekeeping.lean ====
section
/-!
DEFINITION. The housekeeping converter (R385 to R389, R396).
-/

namespace Sys2Proof.Machine

/-- The last event of family 0x9, in PWR_ERR: its code, and the domain, channel or engine concerned (0xFF none). -/
def State.pwrErr (s : State) (code part : Nat) : State := (s.set .pwrErrCode 0 0 code).set .pwrErrUnit 0 0 part

/-- An event of family 0x9 that is logged. -/
def State.pwrEvent (s : State) (code part unit : Nat) (alert : Bool) (a : LogArgs := {}) : State :=
  let s1 := s.pwrErr code part
  if alert then s1.alarm code unit a else s1.logCode code unit a

/-- Whether the module is powered and out of its hold. -/
def State.powered (s : State) : Bool := s.power.hold == .none && s.domainOn domHkc

/-! ### Requests (R384, R387) -/

/-- A sag or droop request: the sample in acquisition is abandoned, which one the manual does not determine (log 2); a request that
comes while priority samples are pending appends its channels. -/
def State.hkcRequest (s : State) (chs : List Nat) : State :=
  if !s.powered then s
  else
    let h := s.hkc
    let new := chs.filter fun c => !h.urgent.contains c
    if h.urgent.isEmpty then
      { s.tick with hkc := { h with urgent := new, abandoned := some (Config.freeNat s.free % 64) } }.bump .hkcAborts
    else { s with hkc := { h with urgent := h.urgent ++ new } }

/-! ### The ring (R388, Table 13.10) -/

/-- A byte of the housekeeping SRAM; one that nothing has written holds a free value (log 6). -/
def State.hkcByte (s : State) (a : Nat) : Byte := smGet (fun x => Config.freeByte s.hkc.stamp (2 ^ 50 + x)) s.hkc.sram a

/-- Bytes written into the housekeeping SRAM. -/
def State.hkcWrite (s : State) (a : Nat) (bs : List Byte) : State :=
  let put := fun (m : List Host.Cell) (e : Byte × Nat) => smPut (fun x => Config.freeByte s.hkc.stamp (2 ^ 50 + x)) (a + e.2) e.1 m
  { s with hkc := { s.hkc with sram := bs.zipIdx.foldl put s.hkc.sram } }

/-- Whether a channel is differential, and so signed (R385). -/
def hkcSigned (c : Nat) : Bool := decide (52 ≤ c ∧ c ≤ 55) || c == 57

/-- CODE of a ring entry. -/
def ringCode (left : Bool) (code : Int) : Nat := if left then unsigned 16 (16 * code) else unsigned 16 code

/-- A sample of the converter: its channel, PRIORITY, RESTARTED, and its code. -/
structure HkcSample where
  ch : Nat
  prio : Bool := false
  again : Bool := false
  code : Int
deriving DecidableEq, Repr

/-- A ring entry. -/
def HkcSample.entry (x : HkcSample) (left : Bool) (scan : Nat) : Nat :=
  ringCode left x.code + scan % 256 * 2 ^ 16 + (if x.again then 2 ^ 24 else 0) + (if x.prio then 2 ^ 25 else 0) + x.ch * 2 ^ 26

/-- A result put into the ring, or dropped and counted; a watermark crossed is signalled. -/
def State.hkcRing (s : State) (x : HkcSample) : State :=
  let size := 2 ^ s.get .hkcRingCfgSizeLog2
  let w := s.get .hkcRingPtrWptr
  let wm := s.get .hkcRingWmWatermark
  if s.get .hkcRingCfgSizeLog2 = 0 ∨ s.hkc.scan % 2 ^ s.get .hkcCtlDiv ≠ 0 ∨ (s.get .hkcRingMask).testBit x.ch = false then s
  else if size < (w + 2 ^ 32 - s.get .hkcRingPtrRptr) % 2 ^ 32 + 4 then s.bump .hkcRingDrops
  else
    let s1 := s.hkcWrite (s.get .hkcRingCfgBase + w % size) (leBytes 4 (x.entry (s.get .hkcCtlLeft == 1) s.hkc.scan))
    let s2 := s1.set .hkcRingPtrWptr 0 0 ((w + 4) % 2 ^ 32)
    if wm ≠ 0 ∧ (w + 4) % wm = 0 then s2.signalService (s.get .hkcRingCfgSync) else s2

/-- A result delivered: HKC_LAST, right-aligned, and the ring. -/
def State.hkcResult (s : State) (x : HkcSample) : State :=
  ((s.setWord (Fld.hkcLastCode.addr 0 x.ch) (BitVec.ofNat 64 (unsigned 16 x.code + s.hkc.scan % 2 ^ 32 * 2 ^ 32))).hkcRing x).bump
    .hkcConversions

/-! ### Scans (R386, R387) -/

/-- The samples of a scan in their order: with a request pending, the priority samples stand where the abandoned channel stood, and
that channel follows. `codes` are the 64 channels' codes, then those of the priority samples. -/
def Hkc.samples (h : Hkc) (codes : List Int) : List HkcSample :=
  let plain := fun (c : Nat) (again : Bool) => ({ ch := c, again := again, code := codes.getD c 0 } : HkcSample)
  (List.range 64).flatMap fun c =>
    if h.abandoned = some c then
      (h.urgent.zipIdx.map fun e => ({ ch := e.1, prio := true, code := codes.getD (64 + e.2) 0 } : HkcSample)) ++ [plain c true]
    else [plain c false]

/-- The last code of a channel. -/
def State.lastCode (s : State) (c : Nat) : Int :=
  let v := s.get .hkcLastCode 0 c
  if hkcSigned c then signed 16 v else v

/-- Whether a thermistor's code reads open or short. -/
def thermOpen (code : Int) : Bool := decide (4032 ≤ code ∨ code ≤ 63)

/-- The codes below which a thermistor of R385 is above 20, 21, ... 100 °C: 4,096 × Rt ÷ (Rt + 10 kΩ) with
Rt = 10 kΩ × exp(3,435 × (1 ÷ T − 1 ÷ 298.15)). -/
def thermCodes : List Nat :=
  [2249, 2209, 2168, 2128, 2088, 2048, 2009, 1970, 1931, 1893, 1855, 1817, 1779, 1743, 1706, 1670, 1635, 1599, 1565, 1531,
   1497, 1464, 1432, 1400, 1369, 1338, 1307, 1278, 1248, 1220, 1192, 1164, 1137, 1111, 1085, 1060, 1035, 1011, 987, 964,
   941, 919, 897, 876, 855, 835, 815, 796, 777, 759, 741, 724, 707, 690, 674, 658, 642, 627, 613, 598,
   584, 571, 557, 545, 532, 520, 508, 496, 485, 473, 463, 452, 442, 432, 422, 413, 403, 394, 385, 377, 368]

/-- The limit of a thermistor in °C; 0 disables it. -/
def State.thermLimit (s : State) (i : Nat) : Nat := s.get .pwrThermLimitExt / 2 ^ (8 * i) % 256

/-- Whether a thermistor's last code lies above its limit; one that reads open or short is ignored (R386). -/
def State.thermOver (s : State) (i : Nat) : Bool :=
  let c := s.lastCode (59 + i)
  s.hkc.scan != 0 && s.thermLimit i != 0 && !thermOpen c && decide (c < (thermCodes.getD (s.thermLimit i - 20) 0 : Nat))

/-- The thermistor checks of a scan: a code that comes to read open or short is logged. -/
def State.checkTherm (s : State) (i : Nat) : State :=
  let bad := thermOpen (s.lastCode (59 + i))
  let was := s.hkc.openMask.testBit i
  if bad = was then s
  else
    let s1 := { s with hkc := { s.hkc with openMask := s.hkc.openMask ^^^ 2 ^ i } }
    if bad then s1.pwrEvent Code.pwrThermOpen (59 + i) unitHkc false { arg0 := 59 + i } else s1

/-- The reference check of a scan: REF_A on even scans, REF_B on odd ones; one that comes to lie outside its window is logged. -/
def State.checkRef (s : State) : State :=
  let i := s.hkc.scan % 2
  let c := s.lastCode 63
  let bad := decide (4 < (c - (if i = 0 then 1024 else 3072)).natAbs)
  let was := s.hkc.refBad.testBit i
  if bad = was then s
  else
    let s1 := { s with hkc := { s.hkc with refBad := s.hkc.refBad ^^^ 2 ^ i } }
    if bad then s1.pwrEvent Code.hkcRefFail 63 unitHkc true { arg0 := unsigned 16 c } else s1

/-- The temperatures of a scan (R132, R381): a press die below 99 °C ends its throttle, a cask die below 79 °C has its whole limit
back. -/
def State.scanTemps (s : State) : State :=
  let cool := fun (p : Nat) => decide (s.lastCode p < 2608)
  let s1 := { s with power := { s.power with thermal := s.power.thermal.filter fun e => !cool e.1 } }
  (List.range 32).foldl (fun s d =>
    let c := s.lastCode (4 + d)
    let x := s.die d
    s.setDie d { x with temp := -640 + 5 * c / 8, limit := if c < 2288 then 64 else x.limit }) s1

/-- A scan completes. While a slice tests the converter it takes no sample (R412), and the DAC test stands in for the samples of
channels 56 to 58 (R389). -/
def State.hkcScan (s : State) (codes : List Int) (uj : Nat) : State :=
  let tested := match s.rel.slice with
    | some x => x.stage == 2 && unitKind x.unit == 8
    | none => false
  if !s.powered || tested then s
  else
    let testing := s.get .hkcTestStatusState == 1
    let xs := (s.hkc.samples codes).filter fun x => !(testing && decide (56 ≤ x.ch ∧ x.ch ≤ 58))
    let s1 := xs.foldl (fun s x => s.hkcResult x) s
    let a := Fld.pwrEnergyInUj.addr 0 0
    let s2 := s1.setWord a (s1.word a + BitVec.ofNat 64 uj)
    let s3 := ((List.range 4).foldl (fun s i => s.checkTherm i) s2).checkRef.scanTemps
    { s3 with hkc := { s3.hkc with scan := s3.hkc.scan + 1, urgent := [], abandoned := none } }

def execHkcScan (codes : List Int) (energyUj : Nat) (s : State) : Host.Outcome State Fault Refusal := .next (s.hkcScan codes energyUj)

/-! ### The DAC test (R389) -/

/-- A write of HKC_TEST.GO = 1. -/
def State.hkcTest (s : State) (w : W64) : State :=
  if !s.domainOn domHkc then s.ctlRefuse Code.ctlDomainOff (Fld.hkcTestGo.addr 0 0)
  else if fieldOf w 0 0 = 0 || !s.powered || s.get .hkcTestStatusState == 1 then s
  else (s.set .hkcTestStatusState 0 0 1).set .hkcTestStatusFailed 0 0 0

def execHkcTest (w : W64) (s : State) : Host.Outcome State Fault Refusal := .next (s.hkcTest w)

/-- Whether a reading of the test lies more than 8 codes from its expected value. -/
def hkcTestBad (r : DacReading) : Bool :=
  let want : Int := 4 * r.code - (if r.unit = 57 then 2048 else 0)
  decide (8 < (r.reading - want).natAbs)

/-- The test ends. -/
def State.hkcTestDone (s : State) (rs : List DacReading) : State :=
  if s.get .hkcTestStatusState ≠ 1 then s
  else
    let bad := fun (ch : Nat) => rs.any fun r => r.unit == ch && hkcTestBad r
    let mask := (if bad 56 then 1 else 0) + (if bad 57 then 2 else 0) + (if bad 58 then 4 else 0)
    let s1 := (s.set .hkcTestStatusState 0 0 (if mask = 0 then 2 else 3)).set .hkcTestStatusFailed 0 0 mask
    if mask = 0 then s1
    else s1.pwrEvent Code.hkcTestFail (if bad 56 then 56 else if bad 57 then 57 else 58) unitHkc true { arg0 := mask }

def execHkcTestDone (readings : List DacReading) (s : State) : Host.Outcome State Fault Refusal := .next (s.hkcTestDone readings)

/-- A write of HKC_RING_PTR.RPTR, ignored when it would pass WPTR (R396). -/
def State.hkcRptr (s : State) (rptr : Nat) : State :=
  if !s.domainOn domHkc then s.ctlRefuse Code.ctlDomainOff (Fld.hkcRingPtrRptr.addr 0 0)
  else if 2 ^ s.get .hkcRingCfgSizeLog2 < (s.get .hkcRingPtrWptr + 2 ^ 32 - rptr) % 2 ^ 32 then s.pwrErr Code.hkcRingPtr 0xFF
  else s.set .hkcRingPtrRptr 0 0 rptr

def execHkcRingRptrWrite (v : W64) (s : State) : Host.Outcome State Fault Refusal := .next (s.hkcRptr (fieldOf v 63 32))

end Sys2Proof.Machine
end

