-- ==== Sys2Proof/Machine/Power.lean ====
section
/-!
DEFINITION. The input and the sag save (R362 to R369), the cap and its messages (R373 to R380), thermal control (R381), ballast
(R382, R383), droop (R384), energy accounting (R391, R392), domains (R371) and deep idle (R393, R394).
-/

namespace Sys2Proof.Machine

/-! ### The input (R362, R363, R365, R366) -/

/-- The save of R366: in SAFE none is taken (R417), nor before the module is ready (R369). -/
def State.saveIfReady (s : State) (reason : Nat) (complete : Bool) : State :=
  if s.rel.mode = .ready ∨ s.rel.mode = .deepIdle ∨ s.rel.mode = .resetting then s.save reason complete else s

/-- The input stays below 46 V for 20 µs (R366, Table 13.2). A module that holds already goes on holding, now for the input. -/
def State.sag (s : State) (complete : Bool) : State :=
  if s.power.hold = .none then
    ((((s.alertOut.hkcRequest [56, 58, 57]).darken (List.range 96) 1).startCut).saveIfReady 0 complete).holdIn .input
  else if s.power.hold = .resetIn then s
  else { s with power := { s.power with hold := .input } }

def execInputSag (complete : Bool) (s : State) : Host.Outcome State Fault Refusal := .next (s.sag complete)

/-- The input has stayed at or above 48 V for 100 ms (R363): a cold start, once reset-in is high too (R451). -/
def State.inputStable (s : State) : State :=
  if s.power.hold ≠ .input then s
  else if s.pins.resetLow then { s with power := { s.power with hold := .resetIn } }
  else s.startBegins false

def execInputStable (s : State) : Host.Outcome State Fault Refusal := .next s.inputStable

/-- The input above 60 V for 1 ms (Table 13.1). -/
def State.overvoltage (s : State) : State :=
  if s.powered then s.pwrEvent Code.pwrOvervoltage 0xFF unitModule true else s

def execPwrOvervoltage (s : State) : Host.Outcome State Fault Refusal := .next s.overvoltage

/-- The hold-up sense out of range for 10 ms in operation (R365). -/
def State.holdupAbsent (s : State) : State :=
  if s.powered then s.pwrEvent Code.pwrHoldupAbsent 0xFF unitModule true else s

def execPwrHoldupAbsent (s : State) : Host.Outcome State Fault Refusal := .next s.holdupAbsent

/-! ### The cap (R374, R375) -/

/-- The envelope in force, from the source that ENV_SRC selects. -/
def State.envelope (s : State) : Nat := if s.get .pwrCtlEnvSrc = 1 then s.get .pwrEnvelopeW else s.power.envSideband

/-- The cap in force. -/
def State.capInForce (s : State) : Nat :=
  if s.get .pwrCtlProfile = 3 then min (s.get .pwrCapCapW) s.envelope else s.get .pwrCapCapW

/-- CAP_FLAGS (Table 13.7). -/
def State.capFlags (s : State) : Nat :=
  (if (profileRange (s.get .pwrCtlProfile)).1 < s.index then 1 else 0) + (if s.power.unmet then 2 else 0)
  + (if s.power.thermal.isEmpty then 0 else 4) + (if s.get .pwrCtlProfile = 3 then 8 else 0) + s.pointOf s.index * 16
  + s.dutyOf s.index * 256

/-- The clock of a point in MHz (Table 13.5). -/
def pointMhz (p : Nat) : Nat := [1250, 1150, 1000, 900, 800, 700, 600, 500].getD p 500

/-- The sideband envelope of a 1 ms period, its duty in 1/1,024; one below CAP_MIN is refused. A level without edges is no period. -/
def State.envelopePeriod (s : State) (duty : Nat) : State :=
  let w := (4800 * duty + 1024) / 2048
  if !s.powered || duty = 0 || decide (1024 ≤ duty) then s
  else if w < s.get .capPowerCapMin then s.pwrErr Code.capInfeasible 0xFF
  else { s with power := { s.power with envSideband := w } }

def execEnvelopePeriod (duty : Nat) (s : State) : Host.Outcome State Fault Refusal := .next (s.envelopePeriod duty)

/-- No edge of the sideband for 3 ms: the last valid envelope stays. -/
def State.envelopeLost (s : State) : State :=
  if s.powered then s.pwrEvent Code.pwrEnvelopeLost 0xFF unitModule true else s

def execPwrEnvelopeLost (s : State) : Host.Outcome State Fault Refusal := .next s.envelopeLost

/-- A write of PWR_ENVELOPE.W. -/
def State.envelopeWrite (s : State) (w : Nat) : State :=
  if w < s.get .capPowerCapMin then s.pwrErr Code.capInfeasible 0xFF else s.set .pwrEnvelopeW 0 0 w

def execPwrEnvelopeWrite (v : W64) (s : State) : Host.Outcome State Fault Refusal := .next (s.envelopeWrite (fieldOf v 15 0))

/-! ### CAP_STATE (R379, R380) -/

/-- Both ring neighbours of this module in every group of the blend. -/
def State.ringNeighbours (s : State) : List Nat :=
  let gs := (s.blend.inForce.map Blend.groups).getD []
  let mine := gs.filter fun g => (s.ringOf g.id).contains s.deviceId
  ((mine.flatMap fun g => [(s.place g.id).succ, (s.place g.id).pred]).filter fun d => d != s.deviceId).eraseDups

/-- The latest state sent, when it has changed and a millisecond has passed since the last. -/
def State.capSend (s : State) : State :=
  let fl := s.capFlags
  let cap := s.capInForce
  if (fl % 128 = s.power.sentFlags % 128 ∧ cap = s.power.sentCap) ∨ s.power.sinceSent < 10 then s
  else
    let seq := (s.power.capSeq + 1) % 65536
    let pay := leBytes 2 cap ++ leBytes 2 s.power.achievedW ++ leBytes 2 fl ++ leBytes 2 seq
    let s1 := { s with power := { s.power with capSeq := seq, sentFlags := fl, sentCap := cap, sinceSent := 0 } }
    s.ringNeighbours.foldl (fun s d => s.sendMsg
      { dest := d, src := s.deviceId, cls := 0, type := msgCapState, ctx := 0, gen := 0, payload := pay }) s1

/-- Where a CAP_STATE from a link goes on to: in each group of its origin, the member after this one in its direction of travel,
unless that is the origin. -/
def State.capOnward (s : State) (l origin : Nat) : List Nat :=
  let gs := (s.blend.inForce.map Blend.groups).getD []
  let both := gs.filter fun g => (s.ringOf g.id).contains s.deviceId && (s.ringOf g.id).contains origin
  ((both.map fun g =>
    let p := s.place g.id
    if s.egress p.pred = some l then p.succ else p.pred).filter fun d => d != origin).eraseDups

/-- A CAP_STATE arrives: the table, and one forwarding for each SEQ of an origin. -/
def State.capState (s : State) (l : Nat) : State :=
  match s.takeDelivered l msgCapState with
  | none => s
  | some (m, s1) =>
    let a := sramBase + s1.get .pwrPeerCfgOffset + 8 * (m.src % 16384)
    let s2 := if s1.get .pwrPeerCfgEnable = 1 then s1.writeBytes a (m.payload.take 8) else s1
    let seq := m.num 6 2
    let s2 := { s2 with power := { s2.power with capSeen := smPut (fun _ => (0, 0)) m.src (m.num 0 2, m.num 4 2) s2.power.capSeen } }
    if smGet (fun _ => none) s2.power.peerCaps m.src = some seq then s2
    else
      let s3 := { s2 with power := { s2.power with peerCaps := smPut (fun _ => none) m.src (some seq) s2.power.peerCaps } }
      (s3.capOnward l m.src).foldl (fun s d => s.sendMsg { m with dest := d }) s3

def execCapState (link : Nat) (s : State) : Host.Outcome State Fault Refusal := .next (s.capState link)

/-! ### The cap loop (R376, R377) -/

/-- The loop's move: the index up or down, or UNMET at the profile's last index. -/
def State.capMove (s : State) (w : Nat) : State :=
  let r := profileRange (s.get .pwrCtlProfile)
  let i := s.index
  let cap := s.capInForce
  let put := fun (j : Nat) => { s with power := { s.power with index := j } }
  if cap < w then
    if i < r.2 then put (i + 1)
    else if s.power.unmet then put i
    else { put i with power := { (put i).power with unmet := true } }.pwrEvent Code.capUnmet 0xFF unitModule false { arg0 := w }
  else if 100 * w < 98 * cap ∧ r.1 < i ∧ s.power.thermal = [] then put (i - 1)
  else put i

/-- UNMET ends after 10 ms below the cap: 100 periods in a row. -/
def State.capUnder (s : State) (w : Nat) : State :=
  let n := if w < s.capInForce then min 100 (s.power.under + 1) else 0
  { s with power := { s.power with under := n, unmet := s.power.unmet && n != 100 } }

/-- Every tenth period a millisecond with UNMET or THERMAL set is counted. -/
def State.capCount (s : State) : State :=
  let n := (s.power.loops + 1) % 10
  let s1 := { s with power := { s.power with loops := n, sinceSent := min 10 (s.power.sinceSent + 1) } }
  if n ≠ 0 then s1
  else
    let s2 := if s1.power.unmet then s1.bump .pwrUnmetMs else s1
    if s2.power.thermal.isEmpty then s2 else s2.bump .pwrThermalMs

/-- One period of the cap loop: `w` is the 1 ms average of the input power. -/
def State.capLoop (s : State) (w : Nat) : State :=
  if !s.powered then s
  else
    let s1 := { s with power := { s.power with achievedW := w } }
    (((s1.capMove w).capUnder w).capCount).capSend

def execCapLoop (avgW : Nat) (s : State) : Host.Outcome State Fault Refusal := .next (s.capLoop avgW)

/-! ### Inserted duty (R378) -/

/-- The index of a tile: its press die's, while that one is too hot (R381). -/
def State.tileIndex (s : State) (t : Nat) : Nat :=
  min (profileRange (s.get .pwrCtlProfile)).2 (max s.index (smGet (fun _ => 0) s.power.thermal (t / 16)))

/-- Whether a tile stops in a slot of the frame. -/
def State.stopsIn (s : State) (t slot : Nat) : Bool := decide ((slot + 16 - t % 16) % 16 < s.dutyOf (s.tileIndex t))

/-- A slot of the frame begins: tiles and cask dies stop or go on. -/
def State.dutySlot (s : State) (slot : Nat) : State :=
  let s1 := (List.range 64).foldl (fun s t => s.setTile t { s.tile t with dutyStopped := s.stopsIn t (slot % 16) }) s
  (List.range 32).foldl (fun s d => s.setDie d { s.die d with dutyStopped := s.stopsIn d (slot % 16) }) s1

def execInsertedDutySlot (slot : Nat) (s : State) : Host.Outcome State Fault Refusal := .next (s.dutySlot slot)

/-! ### Thermal control (R381) -/

/-- A press die at or above 100 °C, or a cask die at or above 80 °C, in one 100 µs period. -/
def State.thermalThrottle (s : State) (u : Nat) : State :=
  let i := unitInst u
  if !s.powered || !unitValid u then s
  else if unitKind u = 3 then
    let last := (profileRange (s.get .pwrCtlProfile)).2
    let was := smGet (fun _ => 0) s.power.thermal i
    let now := min last (max (was + 1) (s.index + 1))
    let s1 := { s with power := { s.power with thermal := smPut (fun _ => 0) i now s.power.thermal } }
    if was = 0 then s1.pwrEvent Code.pwrThermalThrottle i (unitPress i) false { arg0 := now } else s1
  else if unitKind u = 2 then s.setDie i { s.die i with limit := max 1 (min s.caskLimit (s.die i).limit / 2) }
  else s

def execPwrThermalThrottle (unit : Nat) (s : State) : Host.Outcome State Fault Refusal := .next (s.thermalThrottle unit)

/-- The converter channel of a unit's temperature (Table 13.8). -/
def thermChannel (u : Nat) : Nat :=
  if unitKind u = 3 then unitInst u else if unitKind u = 2 then 4 + unitInst u else 36 + unitInst u

/-- A press die at 105 °C, a cask die at 85 °C or an optical engine at 95 °C trips the module. -/
def State.thermalTrip (s : State) (u : Nat) (complete : Bool) : State :=
  if !s.powered || !unitValid u || !(unitKind u == 2 || unitKind u == 3 || unitKind u == 5) then s
  else
    let s1 := (s.pwrEvent Code.pwrThermalTrip (thermChannel u) u true).hkcRequest [56, 58, 57]
    (((s1.darken (List.range 96) 1).startCut).saveIfReady 1 complete).holdIn .thermalTrip

def execPwrThermalTrip (unit : Nat) (complete : Bool) (s : State) : Host.Outcome State Fault Refusal :=
  .next (s.thermalTrip unit complete)

/-- An external thermistor above its limit: it does not throttle. -/
def State.extTherm (s : State) (i : Nat) : State :=
  if s.powered && decide (i < 4) && s.thermLimit i != 0 then s.pwrEvent Code.pwrExtTherm (59 + i) unitHkc true { arg0 := 59 + i } else s

def execPwrExtTherm (i : Nat) (s : State) : Host.Outcome State Fault Refusal := .next (s.extTherm i)

/-! ### Ballast (R382, R383) -/

/-- T of R382, `dt` µs after the fall, in units of 1 ÷ (1,000 × RAMP_MS) W. -/
def ballastT (f ramp dt : Nat) : Nat := f * (1000 * ramp - dt)

/-- A ballast update: `w` is W, `bmax` B_max, `t` the time in µs. -/
def State.ballast (s : State) (w bmax t : Nat) : State :=
  if !s.powered then s
  else
    let f := s.get .pwrBallastFloorW
    let fell := decide (w < f) && s.power.wasAbove
    let t0 := if fell then some t else s.power.fellAt
    let unit := 1000 * s.get .pwrBallastRampMs
    let tt := match t0 with
      | some x => ballastT f (s.get .pwrBallastRampMs) (t - x)
      | none => 0
    let b := min (tt - w * unit) (min ((s.capInForce - w) * unit) (bmax * unit))
    let a := Fld.pwrBallastUj.addr 0 0
    let p := { s.power with fellAt := t0, wasAbove := decide (f ≤ w), rampOn := decide (0 < tt) }
    { s.setWord a (s.word a + BitVec.ofNat 64 (b * 100 / unit)) with power := p }

def execBallastUpdate (w bmax t : Nat) (s : State) : Host.Outcome State Fault Refusal := .next (s.ballast w bmax t)

/-! ### Droop (R384) -/

/-- A droop detector trips: the tile runs at half clock, or the cask die holds firing; the converter gets a request. -/
def State.droopTrip (s : State) (isCask : Bool) (u : Nat) : State :=
  if isCask then
    if s.domainOn (domCask u) then
      ((s.setDie u { s.die u with droopHold := true }).bump .pwrDroopEvents).hkcRequest [48]
    else s
  else if s.domainOn (domTile u) then
    ((s.setTile u { s.tile u with halfClock := true }).bump .pwrDroopEvents).hkcRequest [44 + u / 16, 52 + u / 16]
  else s

def execDroopTrip (isCask : Bool) (unit : Nat) (s : State) : Host.Outcome State Fault Refusal := .next (s.droopTrip isCask unit)

/-- The supply has recovered: 64 clocks later the tile runs at its clock again; a cask die fires again. -/
def State.droopRecover (s : State) (isCask : Bool) (u : Nat) : State :=
  if isCask then s.setDie u { s.die u with droopHold := false } else s.setTile u { s.tile u with halfClock := false }

def execDroopRecover (isCask : Bool) (unit : Nat) (s : State) : Host.Outcome State Fault Refusal :=
  .next (s.droopRecover isCask unit)

/-! ### Attribution (R391, R392, Table 13.12) -/

/-- The 16 bytes of a record. -/
def attrRecord (ctx gen kind interval a b : Nat) : List Byte :=
  leBytes 2 ctx ++ leBytes 1 gen ++ leBytes 1 kind ++ leBytes 4 interval ++ leBytes 4 a ++ leBytes 4 b

/-- A record written into the ring; false: it found the ring full and was dropped. -/
def State.attrPut (s : State) (bs : List Byte) : State × Bool :=
  let size := 2 ^ s.get .pwrAttrCfgSizeLog2
  let w := s.get .pwrAttrPtrWptr
  if size < (w + 2 ^ 32 - s.get .pwrAttrPtrRptr) % 2 ^ 32 + 16 then (s, false)
  else ((s.writeBytes (sramBase + s.get .pwrAttrCfgOffset + w % size) bs).set .pwrAttrPtrWptr 0 0 ((w + 16) % 2 ^ 32), true)

/-- The shares that get a record: at most 256 contexts, the further ones summed under 0xFFFD, then the reserved identifiers, 0xFFFF
last for the rounding remainder. -/
def attrShares (xs : List AttrShare) : List AttrShare :=
  let real := xs.filter fun x => decide (x.ctx < 0xFFFC)
  let sum := fun (l : List AttrShare) => (l.map AttrShare.modelUj).sum
  let of := fun (c : Nat) => sum (xs.filter fun x => x.ctx == c)
  real.take 256 ++ (if 256 < real.length then [⟨0xFFFD, 0, sum (real.drop 256)⟩] else []) ++
    (if of 0xFFFE = 0 then [] else [⟨0xFFFE, 0, of 0xFFFE⟩]) ++ [⟨0xFFFF, 0, of 0xFFFF⟩]

/-- The records of an interval: each scaled by measured ÷ modelled, truncated, the remainder to 0xFFFF. -/
def attrRecords (shares : List AttrShare) (measured interval : Nat) : List (List Byte) :=
  let total := (shares.map AttrShare.modelUj).sum
  let scaled := fun (x : AttrShare) => if total = 0 then 0 else x.modelUj * measured / total
  let rest := measured - (shares.map scaled).sum
  shares.map fun x => attrRecord x.ctx x.gen 0 interval (scaled x + if x.ctx = 0xFFFF then rest else 0) x.modelUj

/-- The attribution engine closes an interval. -/
def State.attrClose (s : State) (shares : List AttrShare) (measured : Nat) (mark : Bool) : State :=
  if !s.powered then s
  else
    let xs := attrShares shares
    let total := (xs.map AttrShare.modelUj).sum
    let n := s.power.interval
    let a := Fld.pwrEnergyModelUj.addr 0 0
    let s1 := s.setWord a (s.word a + BitVec.ofNat 64 total)
    let s2 := { s1 with power := { s1.power with interval := (n + 1) % 2 ^ 32 } }
    if s.get .pwrAttrCfgSizeLog2 = 0 then s2
    else
      let recs := attrRecords xs measured n ++ [attrRecord 0xFFFC (if mark then 1 else 0) 1 n measured total]
      let r := recs.foldl (fun (x : State × Bool) bs => let y := x.1.attrPut bs; (y.1, x.2 && y.2)) (s2, true)
      let s3 := if r.2 then r.1 else r.1.pwrEvent Code.pwrAttrOverrun 0xFF unitModule false { arg0 := n }
      s3.signalService (s.get .pwrAttrCfgSync)

/-- A write of PWR_ATTR_MARK that no row carries, the step driver's at a step boundary among them: what the interval measured is a free value
(R392; logs 2, 45). -/
def State.attrMark (s : State) : State :=
  let shares := (Config.attrShares s.free).map fun x => (⟨x.1 % 65536, x.2.1 % 256, x.2.2 % 2 ^ 32⟩ : AttrShare)
  s.tick.attrClose shares (Config.freeNat s.free % 2 ^ 32) true

def execAttrInterval (shares : List AttrShare) (measuredUj : Nat) (s : State) : Host.Outcome State Fault Refusal :=
  .next (s.attrClose shares measuredUj false)

def execPwrAttrMark (shares : List AttrShare) (measuredUj : Nat) (s : State) : Host.Outcome State Fault Refusal :=
  .next (s.attrClose shares measuredUj true)

/-- Over 1 s, the model and the measurement are compared. -/
def State.attrDrift (s : State) (measured model : Nat) : State :=
  if s.powered && decide (measured < 20 * ((measured : Int) - model).natAbs) then
    s.pwrEvent Code.pwrAttrDrift 0xFF unitModule false { arg0 := measured, arg1 := model }
  else s

def execPwrAttrDrift (measuredUj modelUj : Nat) (s : State) : Host.Outcome State Fault Refusal :=
  .next (s.attrDrift measuredUj modelUj)

/-! ### Domains (R371) -/

/-- The domains that depend on a press uncore. -/
def childrenOf (p : Nat) : List Nat :=
  ((List.range 16).map (16 * p + ·)) ++ ((List.range 8).map (64 + 8 * p + ·)) ++ [96 + 2 * p, 97 + 2 * p]

/-- Why a domain command is refused. -/
def State.domainRefusal (s : State) (d : Nat) (on : Bool) : Nat :=
  if 108 ≤ d then Code.pwrDomainFixed
  else if on = true ∧ d < 104 ∧ s.domainOn (domPress (pressOf d)) = false then Code.pwrDomainOrder
  else if on = false ∧ 104 ≤ d ∧ (childrenOf (d - 104)).any (fun x => s.domainOn x || s.switchingOn x) = true then Code.pwrDomainOrder
  else if on = false ∧ d < 96 ∧ s.domainOn d = true ∧ s.quiesced d = false then Code.pwrDomainBusy
  else 0

/-- A write of PWR_DOMAIN_CMD. -/
def State.domainCmd (s : State) (w : W64) : State :=
  let d := fieldOf w 6 0
  let on := fieldOf w 7 7 == 1
  let c := s.domainRefusal d on
  let s1 := s.set .pwrDomainStatusCode 0 0 c
  if c ≠ 0 then s1.pwrErr c d else if on then s1.switchBegin d else s1.switchOff d

def execPwrDomainCmd (w : W64) (s : State) : Host.Outcome State Fault Refusal := .next (s.domainCmd w)

/-- A switch-on ends; a domain under a press uncore waits for that one. -/
def State.domainDone (s : State) (d : Nat) : State :=
  if s.switchingOn d && (decide (104 ≤ d) || s.domainOn (domPress (pressOf d))) then s.switchOn d else s

def execDomainSwitchDone (d : Nat) (s : State) : Host.Outcome State Fault Refusal := .next (s.domainDone d)

/-! ### Deep idle (R393, R394) -/

/-- The result of an idle command. -/
def State.idleStatus (s : State) (code : Nat) : State :=
  let s1 := s.set .pwrIdleStatusCode 0 0 code
  if code = 0 then s1 else s1.pwrErr code 0xFF

/-- PWR_IDLE_CMD.CMD = DEEP. -/
def State.idleDeep (s : State) : State :=
  if s.power.idle ≠ 0 ∨ s.rel.mode ≠ .ready then s.idleStatus Code.pwrIdleState
  else if !(List.range 96).all s.workless || s.buckets.any (fun b => b.opened) then s.idleStatus Code.pwrIdleNotQuiesced
  else { s.idleStatus 0 with power := { (s.idleStatus 0).power with idle := 1 } }.setMode .deepIdle

def execIdleDeep (s : State) : Host.Outcome State Fault Refusal := .next s.idleDeep

/-- Entry into deep idle, once the ballast ramp has ended: links dark, sources off, domains off. -/
def State.deepIdle (s : State) : State :=
  if s.power.idle ≠ 1 ∨ (s.power.rampOn = true ∧ s.get .pwrBallastFloorW ≠ 0) then s
  else
    let s1 := s.darken (List.range 96) 1
    let s2 := (List.range 104).foldl (fun s d => s.switchOff d) s1
    { s2 with power := { s2.power with idle := 2 } }

def execDeepIdleEntry (s : State) : Host.Outcome State Fault Refusal := .next s.deepIdle

/-- The tile, cask die and engine domains of the blend in force; all of them while no blend is. -/
def State.plannedOn (s : State) : Nat := (s.blend.inForce.map Blend.domainOn).getD (2 ^ 104 - 1)

/-- PWR_IDLE_CMD.CMD = RESUME: the blend's domains switch on while the lasers warm up. -/
def State.idleResume (s : State) : State :=
  if s.power.idle ≠ 2 then s.idleStatus Code.pwrIdleState
  else
    let s1 := { s.idleStatus 0 with power := { (s.idleStatus 0).power with idle := 3 } }
    (List.range 104).foldl (fun s d => if s.plannedOn.testBit d then s.switchBegin d else s) s1

def execIdleResume (s : State) : Host.Outcome State Fault Refusal := .next s.idleResume

/-- The module is READY again. -/
def State.resumed (s : State) : State :=
  if s.power.idle ≠ 3 then s
  else ({ s with power := { s.power with idle := 0 } }.setMode .ready).startEngines (List.range 8)

def execResumeDone (s : State) : Host.Outcome State Fault Refusal := .next s.resumed

end Sys2Proof.Machine
end

