-- ==== Sys2Proof/Machine/Boot.lean ====
section
/-!
DEFINITION. Reset-in (R451), the start stages (Table 15.3, R415, R434, R435), records and firmware banks (R427 to R433), and what a
start puts back (R368, R263, R157).
-/

namespace Sys2Proof.Machine

/-! ### Reset-in (R451) -/

/-- RESET_IN_N low for 10 µs. While the input has not met R363 the module goes on holding for it. -/
def State.resetInLow (s : State) : State :=
  let s1 := { s with pins := { s.pins with resetLow := true } }
  match s.power.hold with
  | .input => s1
  | .resetIn => s1
  | _ =>
    let s2 := ((s1.darken (List.range 96) 1).startCut).loseAll true
    { s2 with power := { s2.power with hold := .resetIn }, boot := { s2.boot with running := false }, rel := { s2.rel with mode := .starting } }

def execResetInLow (s : State) : Host.Outcome State Fault Refusal := .next s.resetInLow

/-- RESET_IN_N rises: stage 1 begins, provided that the input has met R363. -/
def State.resetInRise (s : State) : State :=
  let s1 := { s with pins := { s.pins with resetLow := false } }
  if s.power.hold = .resetIn then s1.startBegins false else s1

def execResetInRise (s : State) : Host.Outcome State Fault Refusal := .next s.resetInRise

/-! ### The end of a stage and the fate of a start (R434, R435) -/

/-- The time of a stage, a measured time (log 2). -/
def State.stageTime (s : State) (stage : Nat) : State :=
  { s.tick with boot := { s.boot with times := smPut (fun _ => 0) stage (Config.freeNat s.free % 2 ^ 32) s.boot.times } }

/-- Whether a stage is in progress. -/
def State.inStage (s : State) (stage : Nat) : Bool := s.boot.running && s.boot.stage == stage

/-- The next stage. -/
def State.toStage (s : State) (stage : Nat) : State := { s with boot := { s.boot with stage := stage } }

/-- What a failed cold start writes into the BOOT record: COUNT, but not in tin mode, and the fate of a TRIAL bank. -/
def State.countFailure (s : State) : State :=
  let j := s.journal
  { s with journal := { j with count := if s.boot.tinRun then j.count else min 255 (j.count + 1),
                               trialFailed := j.trialFailed || s.boot.trialRun } }

/-- A start fails in a stage. A cold one is counted and recorded, alert-out is asserted, and the module holds in reset; a warm one
escalates to a cold start and is not counted, and asserts alert-out only for a reference outside its window (R386, R435). -/
def State.startFails (s : State) (stage code unit : Nat) : State :=
  let s0 := s.toStage stage
  let s1 := if s.boot.warm && code != Code.hkcRefFail then s0.logCode code unit else s0.alarm code unit
  if s.boot.warm then (s1.startEnds 2 code unit).warmEscalate
  else (s1.countFailure.startEnds 2 code unit).holdIn .failedStart

/-! ### Stage 1 (R428, R429, R437, R45) -/

/-- The code of a record that does not check. -/
def RecState.code : RecState → Option Nat
  | .ok => none
  | .missing => some Code.bootRecordMissing
  | .badSig => some Code.bootRecordSig
  | .badRoot => some Code.bootRootKey

/-- The records that stage 1 checks; in tin mode only BOOT stops the start. -/
def State.stageRecords (s : State) : List RecState :=
  let j := s.journal
  (if s.boot.tinRun then [j.boot] else [j.boot, j.grade, j.trim, j.identity]).map RecPair.read

/-- The addresses of the CAP registers (Table 2.3). -/
def capAddrs : List Nat :=
  ((List.range 11).map fun i => 0x1000 + 8 * i) ++ ((List.range 64).map fun t => 0x1100 + 8 * t) ++ (List.range 32).map fun d => 0x1300 + 8 * d

/-- CAP loaded from the GRADE record. -/
def State.loadCap (s : State) : State :=
  capAddrs.foldl (fun s a => s.setWord a (smGet gradeWord s.journal.capWords a)) s

/-- The strap is sampled, and a cold start chooses tin mode; where both causes are present the strap is the one logged. -/
def State.chooseTin (s : State) : State :=
  let strap := s.pins.strapAsserted
  let tin := !s.boot.warm && (strap || decide (3 ≤ s.journal.count))
  let s1 := { s with boot := { s.boot with strap := strap, tinRun := tin } }
  if tin then s1.logCode (if strap then Code.bootStrap else Code.bootTin) unitModule else s1

/-- Stage 1 ends. -/
def State.stageRom (s : State) : State :=
  if !s.inStage 1 then s
  else
    let s1 := (s.stageTime 1).chooseTin
    match s1.stageRecords.findSome? RecState.code with
    | some c => s1.startFails 1 c unitModule
    | none => ((if s.journal.grade.read = .ok then s1.loadCap else s1).setDomain domHkc true).toStage 2

def execBootStageRom (s : State) : Host.Outcome State Fault Refusal := .next s.stageRom

/-! ### Stage 2 (R365, R386, R389) -/

/-- Whether VHOLD is out of range. -/
def holdupBad (vinMv vholdMv : Nat) : Bool := decide (vholdMv < 40000 ∨ 1500 < ((vinMv : Int) - vholdMv).natAbs)

/-- The first section of a complete save image, those for firmware, copied into service SRAM; their bytes within the copy are not
given, so that its contents are free (R368, log 6). -/
def State.copySections (s : State) : State :=
  match s.journal.save with
  | some i => if i.complete && !s.boot.warm then s.lose (.range (sramBase + 0x3480000) 0x4000) else s
  | none => s

/-- Stage 2 ends. -/
def State.stagePower (s : State) (refsOk testOk : Bool) (vinMv vholdMv : Nat) : State :=
  if !s.inStage 2 then s
  else
    let s1 := s.stageTime 2
    if !refsOk then s1.startFails 2 Code.hkcRefFail unitHkc
    else if !testOk then s1.startFails 2 Code.hkcTestFail unitHkc
    else if holdupBad vinMv vholdMv then s1.startFails 2 Code.pwrHoldupAbsent unitModule
    else ((s1.set .hkcTestStatusState 0 0 2).copySections).toStage 3

def execBootStagePower (refsOk testOk : Bool) (vinMv vholdMv : Nat) (s : State) : Host.Outcome State Fault Refusal :=
  .next (s.stagePower refsOk testOk vinMv vholdMv)

/-! ### Stage 3 (R432, R433, R437) -/

/-- A bank by number: 0 A, 1 B, 2 F. -/
def State.bank (s : State) (b : Nat) : Bank := smGet (fun _ => {}) s.journal.banks b

/-- Why a bank is not usable (R432); bank F is exempt from the MIN_SVN rule. -/
def Bank.refusal (x : Bank) (minSvn : Nat) (isF : Bool) : Option Nat :=
  if !x.formatOk || !x.sigOk then some Code.bootImageSig
  else if !x.targetOk then some Code.bootTarget
  else if !isF && decide (x.svn < minSvn) then some Code.bootRollback
  else none

/-- Why a bank of this module is not usable now. -/
def State.bankRefusal (s : State) (b : Nat) : Option Nat := (s.bank b).refusal s.journal.minSvn (b == 2)

/-- A TRIAL bank whose cold start failed gives way to the other one (R433). -/
def State.trialRevert (s : State) : State :=
  let j := s.journal
  if j.trial && j.trialFailed then
    { s with journal := { j with bank := 1 - j.bank, trial := false, trialFailed := false } }.logCode Code.bootTrialRevert unitModule { arg0 := j.bank }
  else s

/-- The banks in the order in which they are tried. -/
def State.bankOrder (s : State) : List Nat :=
  [s.journal.bank, 1 - s.journal.bank] ++ (if s.boot.tinRun then [2] else [])

/-- A bank loaded: the image that runs, and whether it is on trial. -/
def State.loadBank (s : State) (b : Nat) : State :=
  { s with boot := { s.boot with bank := b, svn := (s.bank b).svn, trialRun := s.journal.trial && b == s.journal.bank } }

/-- The banks that fail before one that is usable, each logged with BOOT_IMAGE_SIG and its own code. -/
def State.logBanks (s : State) (bs : List Nat) : State :=
  bs.foldl (fun s b => s.logCode Code.bootImageSig unitModule { arg0 := b, arg1 := (s.bankRefusal b).getD 0 }) s

/-- Stage 3 ends: stage E begins, and but for tin mode stage 4. -/
def State.stageImage (s : State) : State :=
  if !s.inStage 3 then s
  else
    let s1 := (s.stageTime 3).trialRevert
    let bad := s1.bankOrder.takeWhile fun b => (s1.bankRefusal b).isSome
    let s2 := s1.logBanks bad
    match s1.bankOrder.find? fun b => (s1.bankRefusal b).isNone with
    | none => s2.startFails 3 Code.bootNoImage unitModule
    | some b => ((s2.loadBank b).setDomain domEth true).toStage (if s.boot.tinRun then 0x0E else 4)

def execBootStageImage (s : State) : Host.Outcome State Fault Refusal := .next s.stageImage

/-! ### Records in memory and in the journal (R428 to R430) -/

/-- A protected record as its bytes spell it: TYPE, the body, the bytes that the digest covers, the digest, the key slot and the
signature. -/
structure Record where
  ty : Nat
  body : List Byte
  head : List Byte
  digest : List Byte
  slot : Nat
  sig : List Byte
deriving DecidableEq, Repr

/-- A record read from bytes. -/
def recordOf (bs : List Byte) : Record :=
  let n := leNat ((bs.drop 4).take 4)
  { ty := leNat (bs.take 2), body := (bs.drop 16).take n, head := bs.take (16 + n), digest := (bs.drop (16 + n)).take 32,
    slot := leNat ((bs.drop (48 + n)).take 2), sig := (bs.drop (50 + n)).take 7856 }

/-- The length of a signed record with a body of `n` bytes. -/
def recordLen (n : Nat) : Nat := 16 + n + 32 + 2 + 7856

/-- Whether a signed record checks: its type and body length, its zero bytes, its digest, and its signature under the key of its
slot. -/
def State.recordOk (s : State) (r : Record) (ty n : Nat) : Bool :=
  r.ty == ty && r.body.length == n && ((r.head.drop 12).take 4).all (· == 0) && r.digest == sha256 r.head &&
  match s.vkey r.slot with
  | some k => Config.sigOk k (r.head ++ r.digest) r.sig
  | none => false

/-- The ETH registers of a NETWORK record, in the order of its 8-byte words. -/
def netAddrs : List Nat := [0x000, 0x010, 0x018, 0x020, 0x028, 0x030, 0x038, 0x040].map (pfxBase .eth 0 + ·)

/-- The factory NETWORK record's words: VID 1, MTU 9,000, port on, and an IPv4 address that the serial gives (R430). -/
def State.factoryNet (s : State) : List W64 :=
  let n := s.journal.serial
  let ctl := withField (resetWord (Fld.ethCtlEnable.addr 0 0)) 32 32 1
  [ctl, BitVec.ofNat 64 (16 * 2 ^ 32 + (169 * 2 ^ 24 + 254 * 2 ^ 16 + (1 + n % 254) * 2 ^ 8 + n / 254 % 256)), 0, 0, 0, 0, 0, 0]

/-- The words of a NETWORK record's body. -/
def netWords (body : List Byte) : List W64 := (List.range 8).map fun i => BitVec.ofNat 64 (leNat ((body.drop (8 * i)).take 8))

/-- Whether the words of a NETWORK record keep the rules of R333. -/
def netOk (ws : List W64) : Bool :=
  let ctl := ws.getD 0 0
  let vid := fieldOf ctl 27 16
  let mtu := fieldOf ctl 13 0
  let roce := fieldOf ctl 39 37
  let v4 := fieldOf (ws.getD 1 0) 39 32
  let v6 := fieldOf (ws.getD 5 0) 7 0
  decide (1 ≤ vid ∧ vid ≤ 4094 ∧ 1500 ≤ mtu ∧ mtu ≤ 9000 ∧ v4 ≤ 32 ∧ v6 ≤ 128) &&
  !(roce == fieldOf ctl 36 34 && fieldOf ctl 47 40 / 2 ^ roce % 2 == 1) && (fieldOf ctl 32 32 == 0 || v4 != 0 || v6 != 0)

/-- Whether a NETWORK record checks. -/
def State.networkOk (s : State) (bs : List Byte) : Bool :=
  let r := recordOf bs
  s.recordOk r 7 64 && netOk (netWords r.body)

/-- The NETWORK record put in force: the one set for this start, or the one in force, or the factory values. -/
def State.loadNetwork (s : State) : State :=
  let want := match s.journal.networkNext with
    | some r => some r
    | none => s.journal.network
  let s1 := { s with journal := { s.journal with networkNext := none, network := want } }
  let bad := want.elim false fun bs => !s.networkOk bs
  let ws := match want with
    | some bs => if bad then s.factoryNet else netWords (recordOf bs).body
    | none => s.factoryNet
  let s2 := if bad then { s1 with journal := { s1.journal with network := none } }.logCode Code.netRecord unitEth else s1
  let s3 := (netAddrs.zip ws).foldl (fun s e => s.setWord e.1 e.2) s2
  s3.set .ethMacAddress 0 0 s.journal.mac

/-! ### READY (R433, R435) -/

/-- READY is reached: COUNT is 0, and a TRIAL bank has passed. -/
def State.reachReady (s : State) : State :=
  let j := s.journal
  let j1 := if s.boot.trialRun then { j with trial := false, trialFailed := false, minSvn := s.boot.svn } else j
  ({ s with journal := { j1 with count := 0 } }.setMode .ready).startEnds 1 0 unitModule

/-- READY once stages 8 and E have ended. -/
def State.maybeReady (s : State) : State := if s.boot.last && s.boot.ether then s.reachReady else s

/-- Whether stage E is in progress. -/
def State.inEther (s : State) : Bool := s.boot.running && !s.boot.ether && decide (4 ≤ s.boot.stage)

/-- BIST_FAIL for a block of the start cover; the difference of the signatures is a free value (log 11). -/
def State.coverFails (s : State) (stage unit seg : Nat) : State :=
  let s1 := ((s.set .bistFailUnit 0 0 unit).set .bistFailSegment 0 0 seg).set .bistFailDiff 0 0 (Config.freeNat s.free % 2 ^ 32)
  (s1.tick.set .bistStatusCode 0 0 Code.bistFail).startFails stage Code.bistFail unit

/-- The slices and the blocks of the start cover that passed, counted as slices and covers (R415, log 11). -/
def State.covered (s : State) (slices blocks : Nat) : State := (s.bump .bistSlices 0 0 slices).bump .bistCovers 0 0 blocks

/-- Stage E ends: the port is enabled, and the management server listens. Tin mode is reached here. -/
def State.stageEther (s : State) (fail : Option Nat) : State :=
  if !s.inEther then s
  else match fail with
    | some seg => s.coverFails 0x0E unitEth seg
    | none =>
      let s1 := (s.covered 16 1).loadNetwork
      let s2 := { s1 with boot := { s1.boot with ether := true } }
      if s.boot.tinRun then (s2.setMode .tin).startEnds 3 0 unitModule else s2.maybeReady

def execBootStageEthernet (bistFail : Option Nat) (s : State) : Host.Outcome State Fault Refusal := .next (s.stageEther bistFail)

/-! ### Stages 4 and 5 (R371, R415) -/

/-- Domains switched on. -/
def State.switchAll (s : State) (ds : List Nat) : State := ds.foldl (fun s d => s.switchOn d) s

/-- Stages 6 and 7 begin; in a warm reset their domains come on here. -/
def State.beginBoth (s : State) : State :=
  let s1 := if s.boot.warm then s.switchAll ((List.range 40).map (64 + ·)) else s
  (s1.startEngines (List.range 8)).toStage 7

/-- Stage 4 ends: the press uncores are on and trained. -/
def State.stageUncore (s : State) (trainFail : Option Nat) : State :=
  if !s.inStage 4 then s
  else
    let s1 := (s.stageTime 4).switchAll [104, 105, 106, 107]
    match trainFail with
    | some u => s1.startFails 4 Code.bootTrainFail u
    | none => if s.boot.warm then s1.beginBoth else s1.toStage 5

def execBootStageUncore (trainFail : Option Nat) (s : State) : Host.Outcome State Fault Refusal := .next (s.stageUncore trainFail)

/-- Stage 5 ends: every tile, cask die and engine domain is on, and the start cover has run. -/
def State.stageSelftest (s : State) (fail : Option (Nat × Nat)) : State :=
  if !s.inStage 5 then s
  else
    let s1 := (s.stageTime 5).switchAll (List.range 104)
    match fail with
    | some (u, seg) => s1.coverFails 5 u seg
    | none => (s1.covered 5986 221).beginBoth

def execBootStageSelftest (fail : Option (Nat × Nat)) (s : State) : Host.Outcome State Fault Refusal := .next (s.stageSelftest fail)

/-! ### Stages 6 and 7 (R33, R123, R141, R282) -/

/-- Stage 8 begins once stages 6 and 7 have ended. -/
def State.joinBoth (s : State) : State := if s.boot.cask && s.boot.optical then s.toStage 8 else s

/-- Every die's sets loaded. -/
def State.loadSets (s : State) : State := (List.range 32).foldl (fun s d => s.calLoad d []) s

/-- The findings of a cold start's open-line test, macro by macro; a key is 4,096 × die + macro. -/
def State.startOlt (s : State) (rs : List (Nat × OltReading)) : State :=
  ((rs.map Prod.fst).eraseDups).foldl
    (fun s k => s.oltFindings (k / 4096) (k % 4096) 0xFF ((rs.filter fun e => e.1 == k).map Prod.snd)) s

/-- The dies that have no usable set: those named, and those whose run has failed. -/
def State.noSets (s : State) (named : List Nat) : List Nat :=
  (List.range 32).filter fun d => named.contains d || (s.die d).noSet

/-- Stage 6 ends. While a die whose set failed its digest still runs its calibration, the stage goes on (R33, R141). -/
def State.stageCask (s : State) (noSet : List Nat) (lines : List (Nat × OltReading)) : State :=
  if !(s.inStage 7 && !s.boot.cask) then s
  else
    let s1 := s.loadSets
    match s1.noSets noSet with
    | d :: _ => (s1.stageTime 6).startFails 6 Code.calNoSet (unitCask d)
    | [] =>
      if (List.range 32).all fun d => (s1.die d).ready then
        let s2 := if s.boot.warm then s1.stageTime 6 else (s1.stageTime 6).startOlt lines
        { s2 with boot := { s2.boot with cask := true } }.joinBoth
      else s1

def execBootStageCask (noSet : List Nat) (openLayers : List (Nat × OltReading)) (s : State) : Host.Outcome State Fault Refusal :=
  .next (s.stageCask noSet openLayers)

/-- An engine at the end of stage 7: in FAULT, or READY. -/
def State.engineEnd (s : State) (fault : Bool) (e : Nat) : State :=
  if fault then (if (s.engine e).state = .ringTune then s.ringTuneFail e else s.laserFault e) else (s.laserWaitDone e).ringTuneDone e

/-- Stage 7 ends. -/
def State.stageOptical (s : State) (faults : List Nat) : State :=
  if !(s.inStage 7 && !s.boot.optical) then s
  else
    let s1 := (List.range 8).foldl (fun s e => s.engineEnd (faults.contains e) e) (s.stageTime 7)
    { s1 with boot := { s1.boot with optical := true } }.joinBoth

def execBootStageOptical (faults : List Nat) (s : State) : Host.Outcome State Fault Refusal := .next (s.stageOptical faults)

/-! ### Stage 8: the save image restored (R368, R263, R151, R157) -/

/-- The words of a CAL block that a restore puts back: its counters. -/
def calCounters (d : Nat) : List Nat := ((blockOf .cal).fields.filter fun f => f.acc == .ctr).map fun f => f.addr d 0

/-- The calibration state of a die put back. -/
def State.restoreCal (s : State) (regs : SMap W64) (d : Nat) : State :=
  let w := fun (f : Fld) => fieldOf (smGet resetWord regs (f.addr d 0)) f.hi f.lo
  let s1 := (s.set .calStatusConsec d 0 (w .calStatusConsec)).set .calTempLast d 0 (w .calTempLast)
  (calCounters d).foldl (fun s a => s.setWord a (smGet resetWord regs a)) s1

/-- The exact rows of interrupted rewrites put into their write journal entries. -/
def State.restoreRows (s : State) (rows : SMap (Option Nat)) : State :=
  rows.foldl (fun s e => match e.2, s.wjEntry e.1 with
    | some row, some x => s.setWj e.1 (some { x with mark := row })
    | _, _ => s) s

/-- The sections of a complete image put back. -/
def State.restoreImage (s : State) (i : SaveImage) : State :=
  let s1 := s.setGens fun c => smGet (fun _ => 0) i.gens c + 1
  let s2 := { s1 with layers := s1.governorBack i.layers }
  let s3 := (List.range 32).foldl (fun s d => s.restoreCal i.calRegs d) (s2.restoreRows i.rows)
  { s3 with journal := { s3.journal with lastDigest := i.blendDigest }, boot := { s3.boot with restored := true } }

/-- What a cold start makes of the save image. It is used once. -/
def State.restore (s : State) : State :=
  match s.journal.save with
  | none => s
  | some i =>
    if s.boot.warm then s
    else
      let s1 := { s.bump .pwrSags with journal := { s.journal with save := none } }
      if i.complete then (s1.restoreImage i).pwrEvent Code.pwrSag 0xFF unitModule false { arg0 := i.reason }
      else s1.pwrEvent Code.pwrSaveIncomplete 0xFF unitModule false { arg0 := i.reason }

/-- Every layer that has a write journal entry is logged as incomplete (R157). -/
def State.logInterrupted (s : State) : State :=
  (s.journal.writes.filter fun e => e.2.isSome).foldl (fun s e => s.logIncomplete (e.1 / 8 / 4096) (e.1 / 8 % 4096) (e.1 % 8)) s

/-- Stage 8 ends. -/
def State.stageReady (s : State) : State :=
  if !(s.inStage 8 && !s.boot.last) then s
  else
    let s1 := s.stageTime 8
    let s2 := if s.boot.warm then s1.switchAll (List.range 64) else s1
    let s3 := s2.restore.logInterrupted
    { s3 with boot := { s3.boot with last := true } }.maybeReady

def execBootStageReady (s : State) : Host.Outcome State Fault Refusal := .next s.stageReady

/-! ### Bounds (R435) -/

/-- The stage that has passed its bound: of stages 6 and 7 the one that has not ended, and stage E once stage 8 has. -/
def State.lateStage (s : State) : Nat :=
  if s.boot.stage = 7 then (if s.boot.cask then 7 else 6) else if s.boot.last then 0x0E else s.boot.stage

/-- A stage passes its bound. -/
def State.stageTimeout (s : State) : State :=
  if s.boot.running then s.startFails s.lateStage Code.bootStageTimeout unitModule else s

def execBootStageTimeout (s : State) : Host.Outcome State Fault Refusal := .next s.stageTimeout

end Sys2Proof.Machine
end

