-- ==== Sys2Proof/Machine/Access.lean ====
section
/-!
DEFINITION. Control-space accesses (R12 to R16, R37, R38): what a read returns, live fields among it, what it clears, what a
write does, and the registers whose write is a command.
-/

namespace Sys2Proof.Machine

/-! ### Refusals (R38) -/

/-- The power domain that a block instance lies in; none: it can always be reached while the service die runs. -/
def blockDomain (p : Pfx) (i : Nat) : Option Nat :=
  match p with
  | .rdc => some (domPress i)
  | .xfer => some (domPress i)
  | .flink => some (domPress (i / 24))
  | .tile => some (domTile i)
  | .opq => some (domTile i)
  | .sync => some (if i < 64 then domTile i else domService)
  | .cask => some (domCask i)
  | .cal => some (domCask i)
  | .cwr => some (domCask i)
  | .ses => some domService
  | .eth => some domEth
  | .hkc => some domHkc
  | _ => none

/-- Why an access is refused: the first case of R38 that it breaks. -/
def State.accessRefusal (s : State) (addr size : Nat) : Option Nat :=
  if size ≠ 8 ∨ addr % 8 ≠ 0 then some Code.ctlAccessSize
  else match blockAt addr with
    | none => some Code.ctlUnmapped
    | some (b, i) => if (blockDomain b.pfx i).elim false fun d => !s.domainOn d then some Code.ctlDomainOff else none

/-- A refused access of an agent, recorded; a service cluster core takes an access fault. -/
def State.refuseAccess (s : State) (a : Agent) (code addr : Nat) : State :=
  let s1 := s.ctlRefuse code addr
  match a with
  | .core k => { s1 with out := s1.out ++ [.accessFault k addr] }
  | .session _ => s1

/-! ### Live fields (R16) -/

/-- Bits that say which of `n` things hold. -/
def maskOf (n : Nat) (f : Nat → Bool) : Nat := (List.range n).foldl (fun m i => if f i then m + 2 ^ i else m) 0

/-- Word `k` of a digest, least significant first. -/
def digestWord (d : List Byte) (k : Nat) : Nat := leNat ((d.drop (8 * k)).take 8)

/-- The session key in a slot (R440). -/
def State.sessionKey (s : State) (slot : Nat) : Option (List Byte) :=
  if slot < 8 then smGet factoryKeys s.journal.keys slot else none

/-- The session key slots that hold a key. -/
def State.keyed (s : State) : Nat := maskOf 8 fun i => (s.sessionKey i).isSome

/-- The verification key slots that hold a key. -/
def State.vkeyed (s : State) : Nat := maskOf 4 fun i => (s.vkey i).isSome

/-- `n` bytes of a value whose length the factory fixed. -/
def fit (n : Nat) (bs : List Byte) : List Byte := (bs ++ List.replicate n 0).take n

/-- The header and the body of the IDENTITY record (R429, Table 15.1). -/
def State.identityHead (s : State) : List Byte :=
  let j := s.journal
  let vs := fit 6 (Config.factory 9)
  leBytes 2 3 ++ vs.take 2 ++ leBytes 4 56 ++ vs.drop 2 ++ leBytes 4 0 ++
  leBytes 8 j.serial ++ leBytes 6 j.mac ++ leBytes 2 0 ++ fit 32 j.devicePublic ++ fit 8 j.manufactured

/-- Whether the IDENTITY and DEVICE_KEY records checked. -/
def State.identityOk (s : State) : Bool := s.journal.identity.read == .ok && s.journal.deviceKey.read == .ok

/-- The reason record of the last start. -/
def State.lastReason (s : State) : StartReason := s.journal.reasons.getLast?.getD ⟨0, 0, 0, 0, 0, 0, 0, 0, 0⟩

/-- The live fields of the blocks of the service die's start-up and security. -/
def State.liveBoot (s : State) : List (Fld × (Nat → Nat)) :=
  let b := s.boot
  let r := s.lastReason
  [(.bootStatusStage, fun _ => b.stage), (.bootStatusCount, fun _ => s.journal.count), (.bootStatusBank, fun _ => b.bank),
   (.bootStatusTrial, fun _ => if s.journal.trial then 1 else 0), (.bootStatusStrap, fun _ => if b.strap then 1 else 0),
   (.bootStatusCode, fun _ => b.code), (.bootStatusOutcome, fun _ => b.outcome), (.bootStartTotalMs, fun _ => b.totalMs),
   (.bootStartSeq, fun _ => s.journal.startSeq), (.bootReasonCode, fun _ => r.code), (.bootReasonUnit, fun _ => r.unit),
   (.bootReasonStage, fun _ => r.stage), (.bootReasonFlags, fun _ => r.flags), (.bootSvnSvn, fun _ => b.svn),
   (.bootSvnMinSvn, fun _ => s.journal.minSvn), (.bootBankSvn, fun j => (s.bank j).svn),
   (.bootBankValid, fun j => if (s.bankRefusal j).isNone then 1 else 0),
   (.bootFwDigest, fun j => digestWord (s.bank b.bank).digest j), (.bootStageTimeUs, fun j => smGet (fun _ => 0) b.times j)]

def State.liveAtt (s : State) : List (Fld × (Nat → Nat)) :=
  [(.attSerial, fun _ => if s.journal.identity.read = .ok then s.journal.serial else 0), (.attKeysVkeyed, fun _ => s.vkeyed),
   (.attKeysKeyed, fun _ => s.keyed), (.attStatusIdentityOk, fun _ => if s.identityOk then 1 else 0),
   (.attIdentityDigest, fun j => digestWord (sha256 s.identityHead) j)]

def State.liveSes (s : State) : List (Fld × (Nat → Nat)) :=
  [(.sesStatusLocked, fun _ => maskOf 8 fun i => s.slotLocked.contains i), (.sesStatusKeyed, fun _ => s.keyed),
   (.sesStatusOpen, fun _ => (s.sessions.filter fun e => e.2.opened).length)]

def State.liveEth (s : State) : List (Fld × (Nat → Nat)) :=
  let up := s.pins.ethLink
  [(.ethStatusLanes, fun _ => if up then 255 else 0), (.ethStatusFecLock, fun _ => if up then 1 else 0),
   (.ethStatusPaused, fun _ => if s.pausedPrio.isEmpty then 0 else 1), (.ethStatusLink, fun _ => if up then 1 else 0)]

def State.livePwr (s : State) : List (Fld × (Nat → Nat)) :=
  let on := s.power.domains.toNat
  [(.pwrCapStatusAchievedW, fun _ => s.power.achievedW), (.pwrCapStatusInForceW, fun _ => s.capInForce),
   (.pwrCapStatusTileMhz, fun _ => pointMhz (s.pointOf s.index)), (.pwrCapStatusCapFlags, fun _ => s.capFlags),
   (.pwrDomainStatusBusy, fun _ => if s.power.switching.any fun e => e.2.isSome then 1 else 0),
   (.pwrDomainOn0, fun _ => on % 2 ^ 64), (.pwrDomainOn1Mask, fun _ => on / 2 ^ 64), (.pwrIdleStatusState, fun _ => s.power.idle),
   (.pwrInputVinMv, fun _ => 20 * (s.lastCode 56).toNat), (.pwrInputIinCa, fun _ => unsigned 16 (4 * s.lastCode 57)),
   (.pwrInputVholdMv, fun _ => 20 * (s.lastCode 58).toNat)]

def State.liveHkc (s : State) : List (Fld × (Nat → Nat)) :=
  [(.hkcThermStatusOver, fun _ => maskOf 4 s.thermOver),
   (.hkcThermStatusOpen, fun _ => if s.hkc.scan = 0 then 0 else s.hkc.openMask),
   (.hkcWindowData, fun j => leNat ((List.range 8).map fun x => s.hkcByte (2048 * s.get .hkcWindowBase + 8 * j + x)))]

/-- The reset that RST_STATUS shows: that of the start in progress, or the highest level in progress. -/
def State.resetShown (s : State) : Option (Nat × Nat) :=
  if s.boot.running then some (unitModule, if s.boot.warm then 4 else 5)
  else (s.rel.resets.foldl (fun (m : Option ResetRun) r => match m with
    | some x => if x.level < r.level then some r else m
    | none => some r) none).map fun r => (r.unit, r.level)

def State.liveRst (s : State) : List (Fld × (Nat → Nat)) :=
  let r := s.resetShown
  [(.rstLogPtrWptr, fun _ => s.rel.logSeq), (.rstStatusUnit, fun _ => (r.map Prod.fst).getD 0),
   (.rstStatusSafe, fun _ => if s.rel.mode = .safe then 1 else 0), (.rstStatusBusy, fun _ => if r.isSome then 1 else 0),
   (.rstStatusLevel, fun _ => (r.map Prod.snd).getD 0)]

def State.liveSnap (s : State) : List (Fld × (Nat → Nat)) :=
  let st := match s.rel.rack with
    | none => 0
    | some x => if x.latched && (x.incomplete || x.waiting.isEmpty) then 2 else 1
  [(.snapStatusActiveId, fun _ => s.rackId), (.snapStatusState, fun _ => st)]

def State.liveBist (s : State) : List (Fld × (Nat → Nat)) :=
  let b := s.blend.inForce.getD {}
  let x := (s.bistPlan[s.rel.cursor]?).getD (0, 0, 0)
  let st := match s.rel.slice with
    | some y => y.stage
    | none => if s.get .bistFailUnit = 0 then 0 else 3
  [(.bistSchedPeriodMs, fun _ => b.periodMs), (.bistSchedSliceUs, fun _ => b.sliceUs), (.bistSchedEntries, fun _ => b.bist.length),
   (.bistStatusUnit, fun _ => s.rel.lastUnit), (.bistStatusSegment, fun _ => s.rel.lastSegment), (.bistStatusState, fun _ => st),
   (.bistCursorEntry, fun _ => x.1), (.bistCursorSegment, fun _ => s.segment x.2.1)]

/-- The digest entry that RDC_DIGEST_SEL names (R324): of a link of this press die. -/
def State.shownDigest (s : State) (p : Nat) : Option Digest :=
  let l := s.get .rdcDigestSelLink p
  if l / 24 = p then (smGet (fun _ => []) s.digests l).find? fun d => d.entry == s.get .rdcDigestSelEntry p else none

def State.liveRdc (s : State) (p : Nat) : List (Fld × (Nat → Nat)) :=
  let d := s.shownDigest p
  let of := fun (f : Digest → Nat) (_ : Nat) => (d.map f).getD 0
  let inBlend := fun (g : Nat) => (s.group g).isSome
  [(.rdcDigestKeyGroup, of Digest.g), (.rdcDigestKeyBucketId, of Digest.id), (.rdcDigestKeyOpenSeq, of Digest.seq),
   (.rdcDigestKeyDir, of fun d => if d.received then 1 else 0), (.rdcDigestKeyRerouted, of fun d => if d.rerouted then 1 else 0),
   (.rdcDigestKeyValid, of fun _ => 1), (.rdcDigestKeyChunks, of Digest.count),
   (.rdcDigest, fun j => (d.map fun x => digestWord (sha256 x.bytes) j).getD 0),
   (.rdcGroupPosition, fun g => if inBlend g then (s.place g).pos else 0xFFFF),
   (.rdcGroupMembers, fun g => (s.place g).ring.length),
   (.rdcGroupOpen, fun g => (s.buckets.filter fun b => b.opened && b.g == g).length),
   (.rdcGroupServed, fun g => if inBlend g && s.serving g == p then 1 else 0)]

def State.liveXfer (s : State) (p : Nat) : List (Fld × (Nat → Nat)) :=
  let r := s.probe (s.get .xferProbeAddress p)
  [(.xferCtxStatusBusy, fun _ => if (s.ctxCmd p).isSome then 1 else 0), (.xferProbeResultValid, fun _ => fieldOf r 63 63),
   (.xferProbeResultStack, fun _ => fieldOf r 47 40), (.xferProbeResultLocal, fun _ => fieldOf r 35 0)]

/-- FLINK_ENGINE.STATE (Table 10.13). -/
def EngineState.num : EngineState → Nat
  | .off => 0
  | .laserWait => 1
  | .ringTune => 2
  | .ready => 3
  | .fault => 4

def State.liveFlink (s : State) (l : Nat) : List (Fld × (Nat → Nat)) :=
  let k := s.link l
  let e := s.engine (engineOf l)
  [(.flinkStatusState, fun _ => k.state.num), (.flinkClass0Tokens, fun _ => k.tokens / 1000),
   (.flinkCredits, fun _ => k.credit 0 + k.credit 1 * 2 ^ 16 + k.credit 2 * 2 ^ 32 + k.credit 3 * 2 ^ 48),
   (.flinkEngineSource, fun _ => if e.source then 1 else 0),
   (.flinkEngineState, fun _ => e.state.num)]

/-- The arrays that hold a block of some matrix operation. -/
def State.arraysInUse (s : State) (t : Nat) : Nat := let q := (s.tile t).inUse; maskOf 8 fun a => q / 16 ^ a % 16 != 0

def State.liveTile (s : State) (t : Nat) : List (Fld × (Nat → Nat)) :=
  [(.tileIdTile, fun _ => t), (.tileIdPress, fun _ => t / 16), (.tileIdPosition, fun _ => t % 16),
   (.tileArrayStatusFenced, fun _ => s.get .tileArrayFenceMask t ||| s.get .tileArrayStatusAutoFenced t),
   (.tileArrayStatusInUse, fun _ => s.arraysInUse t), (.tileArrayStatusEnabled, fun _ => s.get .capTileArraysMask 0 t)]

def State.liveOpq (s : State) (t : Nat) : List (Fld × (Nat → Nat)) :=
  [(.opqStateSlots, fun q => (s.tile t).held q), (.opqStateState, fun q => s.queueState t q),
   (.opqSlotsFree, fun _ => s.get .capQueuesSlots - (s.tile t).ops.length)]

def State.liveCask (s : State) (d : Nat) : List (Fld × (Nat → Nat)) :=
  let x := s.die d
  [(.caskStatusActive, fun _ => x.active), (.caskStatusRewriting, fun _ => x.heldLayers),
   (.caskStatusWaiting, fun _ => x.waitingPasses), (.caskStatusReady, fun _ => if x.ready then 1 else 0)]

def State.liveCal (s : State) (d : Nat) : List (Fld × (Nat → Nat)) :=
  let x := s.die d
  let u := x.calUnits
  [(.calStatusStale, fun _ => if s.calStale d then 1 else 0), (.calTempNow, fun _ => unsigned 16 x.temp),
   (.calUnitsNospare, fun _ => u.1), (.calUnitsColRetired, fun _ => u.2.1), (.calUnitsRowRetired, fun _ => u.2.2)]

def State.liveCwr (s : State) (d : Nat) : List (Fld × (Nat → Nat)) :=
  let x := s.die d
  let m := s.get .cwrQueryMacro d
  let l := s.get .cwrQueryLayer d
  let k := layerKey d m l
  let good := decide (m < s.good d)
  [(.cwrReqStatusQueued, fun _ => x.reqs.length), (.cwrReqStatusHeld, fun _ => x.heldLayers),
   (.cwrQueryResultWear, fun _ => if good then (s.layer k).wear else 0), (.cwrQueryResultTokens, fun _ => if good then s.tokens d k else 0),
   (.cwrQueryResultHeld, fun _ => if good && s.layerHeld d m l then 1 else 0),
   (.cwrQueryResultIncomplete, fun _ => if good && s.incomplete d m l then 1 else 0),
   (.cwrSparesMacros, fun _ => x.spareMacros), (.cwrSparesMinColumns, fun _ => s.minColumns d)]

/-- The live fields of a block instance, each a function of its register's index. -/
def State.liveOf (s : State) (p : Pfx) (i : Nat) : List (Fld × (Nat → Nat)) :=
  match p with
  | .blend => [(.blendLastDigest, fun j => digestWord ((s.journal.save.map SaveImage.blendDigest).getD s.journal.lastDigest) j)]
  | .cap => []
  | .boot => s.liveBoot
  | .att => s.liveAtt
  | .ses => s.liveSes
  | .eth => s.liveEth
  | .pwr => s.livePwr
  | .hkc => s.liveHkc
  | .rst => s.liveRst
  | .snap => s.liveSnap
  | .bist => s.liveBist
  | .rdc => s.liveRdc i
  | .xfer => s.liveXfer i
  | .flink => s.liveFlink i
  | .tile => s.liveTile i
  | .opq => s.liveOpq i
  | .sync => []
  | .cask => s.liveCask i
  | .cal => s.liveCal i
  | .cwr => s.liveCwr i

/-! ### Reads (R13, R14) -/

/-- The sync counter that a control-space address names (Table 8.12). -/
def State.ctrAt (s : State) (addr : Nat) : Option Nat :=
  let u := (addr - 0x180000) / 0x1000
  let c := addr % 0x1000 / 8
  if 0x180000 ≤ addr ∧ u < 65 ∧ c < s.ctrCount u then some (u * 256 + c) else none

/-- A field of a read word: a live field as it stands, a WO field as 0. -/
def readField (live : List (Fld × (Nat → Nat))) (w : W64) (e : Fld × Nat × Nat) : W64 :=
  match live.find? fun x => x.1 == e.1 with
  | some x => withField w e.1.hi e.1.lo (x.2 e.2.2)
  | none => if e.1.acc = .wo then withField w e.1.hi e.1.lo 0 else w

/-- What a read of the word at a mapped address returns. -/
def State.readWord (s : State) (addr : Nat) : W64 :=
  match blockAt addr with
  | none => 0
  | some (b, i) =>
    if b.pfx = .sync ∧ addr % 0x1000 < 0x800 then (s.ctrAt addr).elim 0 s.ctrWord
    else (fieldsAt addr).foldl (readField (s.liveOf b.pfx i)) (s.word addr)

/-- The bits of an address's fields that have one of some access types. -/
def bitsOf (addr : Nat) (accs : List Acc) : W64 :=
  (fieldsAt addr).foldl (fun m e => if accs.contains e.1.acc then withField m e.1.hi e.1.lo (2 ^ 64 - 1) else m) 0

/-- What a read does to the word at an address: its RC fields clear, and keep the contribution `ev` of an event in that cycle. -/
def State.readClears (s : State) (addr : Nat) (ev : W64) : State :=
  let rc := bitsOf addr [.rc]
  if rc = 0 then s else s.setWord addr ((s.word addr &&& ~~~rc) ||| (ev &&& rc))

/-- A read through the control space. -/
def State.readAccess (s : State) (a : Agent) (addr size : Nat) (ev : W64) : State :=
  match s.accessRefusal addr size with
  | some c => s.refuseAccess a c addr
  | none => s.readClears addr ev

def execRcRegisterRead (a : Agent) (addr size : Nat) (ev : W64) (s : State) : Host.Outcome State Fault Refusal :=
  .next (s.readAccess a addr size ev)

end Sys2Proof.Machine
end

