-- ==== Sys2Proof/Machine/Commits.lean ====
section
/-!
DEFINITION. Commits of staged fields (R17, R39 to R44) with the checks of every block, and writes through the control space.
-/

namespace Sys2Proof.Machine

/-! ### The captured copy -/

/-- A word of the captured copy (R40). -/
def State.capturedWord (s : State) (a : Nat) : W64 := smGet s.word s.captured a

/-- A field of the captured copy. -/
def State.cap (s : State) (f : Fld) (i j : Nat) : Nat := fieldOf (s.capturedWord (f.addr i j)) f.hi f.lo

/-- Whether a commit would change a field. -/
def State.changes (s : State) (f : Fld) (i j : Nat) : Bool := s.cap f i j != s.get f i j

/-- A check of a commit in the order of R41: whether it holds, its code, and the offset that its failure gives. -/
abbrev Check := Bool × Nat × Nat

/-- A field's own range, or the capability table. -/
def range (ok : Bool) (off : Nat) : Check := (ok, Code.commitRange, off)

/-- A rule of agreement. -/
def pair (ok : Bool) (off : Nat) : Check := (ok, Code.commitPairMismatch, off)

/-- A field that lies within bounds. -/
def State.within (s : State) (f : Fld) (i j lo hi : Nat) : Check :=
  range (decide (lo ≤ s.cap f i j ∧ s.cap f i j ≤ hi)) (f.off + j * f.stride)

/-- A size exponent: 0, or within bounds. -/
def State.sizeIn (s : State) (f : Fld) (i j lo hi : Nat) : Check :=
  let n := s.cap f i j
  range (n == 0 || decide (lo ≤ n ∧ n ≤ hi)) (f.off + j * f.stride)

/-- A service counter that the capability table has. -/
def State.svcSync (s : State) (f : Fld) (i j : Nat) : Check :=
  range (decide (s.cap f i j < s.get .capQueuesServiceSync)) (f.off + j * f.stride)

/-- Whether two areas overlap. -/
def meets (a n b m : Nat) : Bool := decide (a < b + m ∧ b < a + n)

/-! ### The checks of each block, in ascending offset and from the highest field (R41) -/

/-- BLEND (Table 2.10). -/
def State.checksBlend (s : State) : List Check :=
  let off := s.cap .blendSrcOffset 0 0
  let n := s.cap .blendLenBytes 0 0
  [range (off % 4096 == 0) 0x000, pair (decide (off + n ≤ 0x4000000)) 0x000,
   range (n % 8 == 0 && decide (64 ≤ n ∧ n ≤ s.get .capLimitsBlendMax)) 0x008]

/-- SES (Table 12.10). -/
def State.checksSes (s : State) : List Check := [s.within .sesCtlPort 0 0 1024 65535, s.within .sesCtlMax 0 0 1 4]

/-- ETH (R333, Table 12.9). -/
def State.checksEth (s : State) : List Check :=
  let g := fun (f : Fld) => s.cap f 0 0
  [pair (!(g .ethCtlPcpRoce == g .ethCtlPcpMgmt && (g .ethCtlPfcMask).testBit (g .ethCtlPcpRoce))) 0x000,
   pair (g .ethCtlEnable == 0 || g .ethIpv4Prefix != 0 || g .ethIpv6CfgPrefix != 0) 0x000,
   s.within .ethCtlVid 0 0 1 4094, s.within .ethCtlMtu 0 0 1500 9000, range (!(g .ethMacAddress).testBit 40) 0x008,
   s.within .ethIpv4Prefix 0 0 0 32, s.within .ethIpv6CfgPrefix 0 0 0 128]

/-- PWR (R375, R395, Table 13.15). -/
def State.checksPwr (s : State) : List Check :=
  let g := fun (f : Fld) => s.cap f 0 0
  let size := 2 ^ g .pwrAttrCfgSizeLog2
  [s.within .pwrCtlDroopMv 0 0 20 80, (decide (s.get .capPowerCapMin ≤ g .pwrCapCapW), Code.capInfeasible, 0x008),
   range (decide (g .pwrCapCapW ≤ s.get .capPowerCapMax)) 0x008, pair (decide (g .pwrBallastFloorW ≤ g .pwrCapCapW)) 0x008,
   s.within .pwrBallastRampMs 0 0 1 1000,
   range ((List.range 4).all fun i => let x := g .pwrThermLimitExt / 256 ^ i % 256; x == 0 || decide (20 ≤ x ∧ x ≤ 100)) 0x060,
   pair (g .pwrPeerCfgOffset % 0x20000 == 0) 0x070, s.svcSync .pwrAttrCfgSync 0 0, s.sizeIn .pwrAttrCfgSizeLog2 0 0 12 22,
   pair (g .pwrAttrCfgOffset % size == 0 && decide (g .pwrAttrCfgOffset + size ≤ sramSize)) 0x078]

/-- HKC (R396, Table 13.16). -/
def State.checksHkc (s : State) : List Check :=
  let g := fun (f : Fld) => s.cap f 0 0
  let size := 2 ^ g .hkcRingCfgSizeLog2
  [s.svcSync .hkcRingCfgSync 0 0, s.sizeIn .hkcRingCfgSizeLog2 0 0 12 17,
   pair (g .hkcRingCfgBase % size == 0 && decide (g .hkcRingCfgBase + size ≤ 0x40000)) 0x010,
   range (g .hkcRingWmWatermark % 64 == 0) 0x018]

/-- RST (R425, Table 14.10). Table 14.10 gives OFFSET of RST_SAMPLE_t as a multiple of 1,024 alone; an OFFSET at or above the
scratchpad's size, from which nothing could be sampled, is refused as outside the capability table (DESIGN CHOICE, log 43). -/
def State.checksRst (s : State) : List Check :=
  let dump := s.cap .rstDumpOffset 0 0
  let log := s.cap .rstLogCfgOffset 0 0
  let rack := s.get .snapCfgOffset
  let area := 0x400000
  [s.within .rstCtlWaitS 0 0 1 65535, s.within .rstCtlEscMax 0 0 1 5,
   pair (dump % area == 0 && !meets dump area log area && !meets dump area rack 0x40000) 0x008,
   pair (log % area == 0 && !meets log area rack 0x40000) 0x010] ++
  (List.range 64).map fun t =>
    let o := s.cap .rstSampleOffset 0 t
    range (o % 1024 == 0 && decide (o < s.get .capMemoryScratchKib * 1024)) (0x100 + 8 * t)

/-- SNAP (R425, Table 14.12). -/
def State.checksSnap (s : State) : List Check :=
  let o := s.cap .snapCfgOffset 0 0
  let area := 0x400000
  [s.svcSync .snapCfgSync 0 0,
   pair (o % 0x40000 == 0 && !meets o 0x40000 (s.get .rstDumpOffset) area && !meets o 0x40000 (s.get .rstLogCfgOffset) area) 0x000]

/-- BIST (R425, Table 14.11). -/
def State.checksBist (s : State) : List Check := [s.within .bistCtlQuiesceUs 0 0 50 10000]

/-- RDC (R329, Table 11.6). -/
def State.checksRdc (s : State) (i : Nat) : List Check :=
  let base := s.changes .rdcParkBase i 0
  let size := s.changes .rdcParkSizeLog2 i 0
  let idle := !s.buckets.any fun b => b.opened
  [pair (s.cap .rdcParkBase i 0 * 64 % 2 ^ s.cap .rdcParkSizeLog2 i 0 == 0) 0x000, (!base || idle, Code.rdcBusy, 0x000),
   s.sizeIn .rdcParkSizeLog2 i 0 16 30, (!size || idle, Code.rdcBusy, 0x000)] ++
  (List.range 16).map fun g => s.within .rdcGroupLateUs i g 10 65535

/-- XFER (R271, Table 9.5). -/
def State.checksXfer (s : State) (i : Nat) : List Check := [s.within .xferCtlDrainUs i 0 10 10000]

/-- FLINK (R298, Table 10.10). -/
def State.checksFlink (s : State) (l : Nat) : List Check :=
  [s.svcSync .flinkCtlDownSync l 0, s.within .flinkCtlTrainLimit l 0 1 15, s.within .flinkCtlUeLimit l 0 1 65535,
   s.within .flinkCtlHbUs l 0 10 1000]

/-- Whether a queue of a tile holds an operation (R88). -/
def State.tileHolds (s : State) (t : Nat) : Bool := !(s.tile t).ops.isEmpty || (List.range 16).any (s.unfetched t)

/-- Whether the commit would change TILE_NUM_CTL. -/
def State.numCtlChanges (s : State) (t : Nat) : Bool :=
  let a := Fld.tileNumCtlFtz.addr t 0
  let m := bitsOf a [.st]
  (s.capturedWord a &&& m) != (s.word a &&& m)

/-- Whether a fetched pass that has not completed names a ring (R129). -/
def State.ringNamed (s : State) (t r : Nat) : Bool :=
  (s.tile t).ops.any fun p => dKind p.2.desc == 1 && (caskBody p.2.desc).ring == r

/-- The checks of a result ring (R129, Table 4.14). -/
def State.checksRing (s : State) (t r : Nat) : List Check :=
  let o := 0x900 + 0x40 * r
  let base := s.cap .tileCringBaseBase t r
  let size := 2 ^ s.cap .tileCringSizeSizeLog2 t r
  let free := !s.ringNamed t r
  [pair (base % size == 0 && decide (base + size ≤ s.get .capMemoryScratchKib * 1024)) o,
   (!s.changes .tileCringBaseBase t r || free, Code.caskRingBusy, o), s.sizeIn .tileCringSizeSizeLog2 t r 17 24,
   (!s.changes .tileCringSizeSizeLog2 t r || free, Code.caskRingBusy, o + 8),
   range (decide (s.cap .tileCringWmSyncIndex t r < s.get .capQueuesTileSync)) (o + 0x10),
   range (s.cap .tileCringWmWatermark t r % 64 == 0) (o + 0x10),
   (!(s.changes .tileCringWmSyncIndex t r || s.changes .tileCringWmWatermark t r) || free, Code.caskRingBusy, o + 0x10)]

/-- TILE (R88, R129, R191, Table 6.12). -/
def State.checksTile (s : State) (t : Nat) : List Check :=
  let have_ := s.get .capTileArraysMask 0 t
  let mask := s.cap .tileArrayFenceMask t 0
  let fenced := mask ||| s.get .tileArrayStatusAutoFenced t
  [s.within .tileCtlFenceAfter t 0 1 15, range (mask &&& have_ == mask) 0x010,
   (have_ &&& fenced != have_, Code.tileFenceAll, 0x010), s.within .tileNumCtlOutlierRatioLog2 t 0 2 5,
   (!(s.numCtlChanges t && s.tileHolds t), Code.numCtlNotIdle, 0x800),
   pair (s.cap .tileNumCtlNebex t 0 == 0 || (s.cap .tileNumCtlFtz t 0 == 1 && s.cap .tileNumCtlOrdered t 0 == 1)) 0x800] ++
  (List.range 4).flatMap fun r => s.checksRing t r

/-- The ring and record fields of a queue. -/
def queueFields : List Fld := [.opqRingBase, .opqCfgSizeLog2, .opqRecBase, .opqRecRecLog2]

/-- Whether a queue is in use: it holds slots, or its TAIL differs from FETCHED. -/
def State.queueInUse (s : State) (t q : Nat) : Bool :=
  (s.tile t).held q != 0 || s.get .opqTailTail t q != s.get .opqPosFetched t q

/-- OPQ_BUSY at a field, where that is the first ring or record field that the commit changes. -/
def State.queueFree (s : State) (t q : Nat) (f : Fld) : Check :=
  (!((queueFields.find? fun x => s.changes x t q) == some f && s.queueInUse t q), Code.opqBusy, f.off + 0x40 * q)

/-- The checks of a queue (R251, Table 8.11). -/
def State.checksQueue (s : State) (t q : Nat) : List Check :=
  let size := s.cap .opqCfgSizeLog2 t q
  let rec_ := s.cap .opqRecRecLog2 t q
  [s.queueFree t q .opqRingBase, s.svcSync .opqCfgHaltSync t q, s.within .opqCfgSlotMax t q 1 (s.get .capQueuesSlots),
   s.within .opqCfgDeadline t q 1 24, s.sizeIn .opqCfgSizeLog2 t q 4 16, pair (rec_ != 0 || size == 0) (0x40 * q + 8),
   (size == 0 || (s.blend.inForce.isSome && (s.role t).queueMask.testBit q), Code.commitBlendConflict, 0x40 * q + 8),
   s.queueFree t q .opqCfgSizeLog2, s.queueFree t q .opqRecBase, s.sizeIn .opqRecRecLog2 t q 6 20, s.queueFree t q .opqRecRecLog2]

/-- CAL (R160, Table 5.5). -/
def State.checksCal (s : State) (d : Nat) : List Check :=
  [s.within .calCtlRetryS d 0 10 255, s.within .calCtlFailLimit d 0 1 15, s.within .calCtlTrigger d 0 10 100]

/-- CWR (R160, Table 5.6). -/
def State.checksCwr (s : State) (d : Nat) : List Check :=
  [s.within .cwrCtlPeriodS d 0 60 31536000, s.within .cwrCtlDepth d 0 1 1024,
   pair (decide (s.cap .cwrCtlDepth d 0 ≤ s.cap .cwrLimitWearLimit d 0)) 0x000, s.within .cwrCtlParallel d 0 1 32,
   (!(s.changes .cwrCtlParallel d 0 && (s.die d).heldLayers != 0), Code.cwrLayerBusy, 0x000),
   s.within .cwrLimitWearLimit d 0 1 50000]

/-- The checks of a block instance in the order of R41. -/
def State.checksOf (s : State) (p : Pfx) (i : Nat) : List Check :=
  match p with
  | .blend => s.checksBlend
  | .ses => s.checksSes
  | .eth => s.checksEth
  | .pwr => s.checksPwr
  | .hkc => s.checksHkc
  | .rst => s.checksRst
  | .snap => s.checksSnap
  | .bist => s.checksBist
  | .rdc => s.checksRdc i
  | .xfer => s.checksXfer i
  | .flink => s.checksFlink i
  | .tile => s.checksTile i
  | .opq => (List.range 16).flatMap fun q => s.checksQueue i q
  | .cal => s.checksCal i
  | .cwr => s.checksCwr i
  | .cask => []
  | .cap => []
  | .boot => []
  | .att => []
  | .sync => []

/-! ### GO (R40, R42) -/

/-- Whether a block has staged fields, and so a COMMIT register. -/
def stages (p : Pfx) : Bool := (blockOf p).fields.any fun f => f.acc == .st

/-- The address of COMMIT_STATUS in a block instance. -/
def statusAddr (p : Pfx) (i : Nat) : Nat := pfxBase p i + 0xFF8

/-- COMMIT_STATUS with STATE, and with CODE and OFFSET. -/
def State.commitStatus (s : State) (p : Pfx) (i state code off : Nat) : State :=
  let a := statusAddr p i
  s.setWord a (withField (withField (withField (s.word a) 15 14 state) 31 16 code) 11 0 off)

/-- CODE alone becomes COMMIT_BUSY: the write of GO is ignored (R42). -/
def State.commitBusy (s : State) (p : Pfx) (i : Nat) : State :=
  let a := statusAddr p i
  s.setWord a (withField (s.word a) 31 16 Code.commitBusy)

/-- The staged copy of a block instance captured. -/
def State.capture (s : State) (base : Nat) : State :=
  let inside := fun (e : Nat × W64) => decide (base ≤ e.1 ∧ e.1 < base + 0x1000)
  let old := s.captured.filter fun e => !inside e
  { s with captured := (s.staged.filter inside).foldl (fun m e => smPut s.word e.1 e.2 m) old, checking := s.checking ++ [base] }

/-- A write of PREFIX_COMMIT.GO = 1. -/
def State.commitGo (s : State) (p : Pfx) (i : Nat) : State :=
  let base := pfxBase p i
  if !stages p || decide ((blockOf p).insts ≤ i) then s
  else if (blockDomain p i).elim false fun d => !s.domainOn d then s.ctlRefuse Code.ctlDomainOff (base + 0xFF0)
  else if s.checking.contains base || s.applying then s.commitBusy p i
  else
    let w := s.word (statusAddr p i)
    (s.capture base).commitStatus p i 1 (fieldOf w 31 16) (fieldOf w 11 0)

def execCommitGo (p : Pfx) (inst : Nat) (s : State) : Host.Outcome State Fault Refusal := .next (s.commitGo p inst)

/-! ### The end of the checks (R41) -/

/-- The bits of a word with those of a mask taken from another. -/
def mergeBits (mask old new : W64) : W64 := (old &&& ~~~mask) ||| (new &&& mask)

/-- The staged fields of a register take their captured values. -/
def State.takeWord (s : State) (a : Nat) : State := s.setWord a (mergeBits (bitsOf a [.st]) (s.word a) (s.capturedWord a))

/-- What else a commit that takes effect does: rings whose place or size changes start anew, and a link follows its ENABLE. -/
def State.commitEffects (s old : State) (p : Pfx) (i : Nat) : State :=
  match p with
  | .tile => (List.range 4).foldl (fun s r =>
      if old.changes .tileCringBaseBase i r || old.changes .tileCringSizeSizeLog2 i r then
        let s1 := (s.set .tileCringWptrWptr i r 0).set .tileCringRptrRptr i r 0
        { s1 with ringSeq := smPut (fun _ => 0) (4 * i + r) 0 s1.ringSeq }
      else s) s
  | .opq => (List.range 16).foldl (fun s q =>
      if queueFields.any fun f => old.changes f i q then
        ((((s.set .opqTailTail i q 0).set .opqPosFetched i q 0).set .opqPosIssued i q 0).set .opqRecPtrWptr i q 0).set
          .opqRecPtrRptr i q 0
      else s) s
  | .hkc =>
      if old.changes .hkcRingCfgBase 0 0 || old.changes .hkcRingCfgSizeLog2 0 0 then
        (s.set .hkcRingPtrWptr 0 0 0).set .hkcRingPtrRptr 0 0 0
      else s
  | .flink => s.flinkCommitted i
  | .cwr => s.depthCommitted old i
  | _ => s

/-- The addresses of a block's captured words. -/
def State.capturedAddrs (s : State) (base : Nat) : List Nat :=
  (s.captured.filter fun e => decide (base ≤ e.1 ∧ e.1 < base + 0x1000)).map Prod.fst

/-- The capture of a block is over. -/
def State.endCapture (s : State) (base : Nat) : State :=
  { s with checking := s.checking.filter (· != base),
           captured := s.captured.filter fun e => !decide (base ≤ e.1 ∧ e.1 < base + 0x1000) }

/-- Staged copies that equal what is in force are in force. -/
def State.settleStaged (s : State) : State := { s with staged := s.staged.filter fun e => e.2 != s.word e.1 }

/-- The captured words take effect; the staged copy keeps what it held before, a value written after GO included (R40). -/
def State.takeCaptured (s : State) (base : Nat) : State :=
  let at_ := s.capturedAddrs base
  at_.foldl (fun s' a => s'.setStaged a (s.stagedWord a)) (at_.foldl (fun s' a => s'.takeWord a) s)

/-- A commit that is accepted: every staged field takes effect at once, ACCEPTED counts, CODE is 0. -/
def State.commitAccept (s : State) (p : Pfx) (i : Nat) : State :=
  let base := pfxBase p i
  let s1 := s.takeCaptured base
  let s2 := (s1.commitEffects s p i).commitStatus p i 0 0 0
  let a := statusAddr p i
  ((s2.setWord a (withField (s2.word a) 63 32 (fieldOf (s2.word a) 63 32 + 1))).endCapture base).settleStaged

/-- A commit that is refused: CODE and OFFSET name the first failure. A cap that is not feasible is recorded in PWR_ERR too. -/
def State.commitRefuse (s : State) (p : Pfx) (i code off : Nat) : State :=
  let s1 := (s.commitStatus p i 0 code off).endCapture (pfxBase p i)
  if code = Code.capInfeasible then s1.pwrErr code 0xFF else s1

/-- The commit checks end. -/
def State.commitCheckDone (s : State) (p : Pfx) (i : Nat) : State :=
  if s.checking.contains (pfxBase p i) then
    match (s.checksOf p i).find? fun c => !c.1 with
    | some (_, code, off) => s.commitRefuse p i code off
    | none => s.commitAccept p i
  else s

def execCommitCheckDone (p : Pfx) (inst : Nat) (s : State) : Host.Outcome State Fault Refusal := .next (s.commitCheckDone p inst)

/-! ### Writes by access type (R13 to R15, R44) -/
/-- A write by access type: RW fields take the value, W1C bits clear where 1 is written but for those that an event sets in that
cycle, ST fields go to the staged copy. The others, and reserved bits, do nothing. -/
def State.writeFields (s : State) (addr : Nat) (v ev : W64) : State :=
  let clear := bitsOf addr [.w1c] ||| (if (bitsOf addr [.ctr]).getMsbD 0 then (1 <<< 63 : W64) else 0)
  let w1 := mergeBits (bitsOf addr [.rw]) (s.word addr) v
  let w2 := (w1 &&& ~~~(v &&& clear)) ||| (ev &&& clear)
  let st := bitsOf addr [.st]
  let staged := mergeBits st (s.stagedWord addr) v
  let s1 := s.setWord addr w2
  if st = 0 then s1 else s1.setStaged addr staged

/-- A sync counter's register written, with bits that an event sets in that cycle (R14, R238). -/
def State.writeCtr (s : State) (addr : Nat) (v ev : W64) : State :=
  let u := (addr - 0x180000) / 0x1000
  let c := addr % 0x1000 / 8
  let s1 := s.ctrWrite u c v
  match s.ctrAt addr with
  | some id =>
    let k := s1.ctr id
    s1.setCtr id { k with misuse := k.misuse || fieldOf ev 29 29 == 1, unf := k.unf || fieldOf ev 28 28 == 1,
                          ovf := k.ovf || fieldOf ev 27 27 == 1 }
  | none => s

/-- A write to a register that is no command: BLEND_QUIESCE_TIMEOUT ignores 0 and values above 10,000. -/
def State.writePlain (s : State) (addr : Nat) (v ev : W64) : State :=
  if addr = Fld.blendQuiesceTimeoutMs.addr 0 0 ∧ (fieldOf v 13 0 = 0 ∨ 10000 < fieldOf v 13 0) then s
  else if 0x180000 ≤ addr ∧ addr < 0x1C1000 ∧ addr % 0x1000 < 0x800 then s.writeCtr addr v ev
  else s.writeFields addr v ev

/-! ### Registers whose write is a command -/

/-- What a write to a command register does; none: the register is no command. A write of PWR_ATTR_MARK closes the interval with free
measurements; the row PWR_ATTR_MARK carries what was measured (log 45). -/
def State.writeTile (s : State) (t o : Nat) (v : W64) : Option State :=
  if o = 0x920 ∨ o = 0x960 ∨ o = 0x9A0 ∨ o = 0x9E0 then some (s.ringRptrWrite t ((o - 0x920) / 0x40) v.toNat) else none

def State.writeOpq (s : State) (t o : Nat) (v : W64) : Option State :=
  if o < 0x400 ∧ o % 0x40 = 0x18 then some (s.tailWrite t (o / 0x40) v.toNat)
  else if o < 0x400 ∧ o % 0x40 = 0x38 then some (s.queueCmd t (o / 0x40) (fieldOf v 2 0))
  else if o = 0x410 then
    let s1 := if fieldOf v 0 0 = 1 then s.preemptGo t else s
    some (if fieldOf v 2 2 = 1 then s1.preemptRelease t else s1)
  else none

def State.writePwr (s : State) (o : Nat) (v : W64) : Option State :=
  match o with
  | 0x018 => some (s.envelopeWrite (fieldOf v 15 0))
  | 0x028 => some (s.domainCmd v)
  | 0x048 => some (if fieldOf v 1 0 = 1 then s.idleDeep else if fieldOf v 1 0 = 2 then s.idleResume else s)
  | 0x088 => some (if fieldOf v 0 0 = 1 then s.attrMark else s)
  | _ => none

def State.writeOf (s : State) (p : Pfx) (i o : Nat) (v : W64) : Option State :=
  match p with
  | .blend => if o = 0x10 then some (s.blendCtrl (fieldOf v 0 0 == 1) (fieldOf v 1 1 == 1)) else none
  | .tile => s.writeTile i o v
  | .opq => s.writeOpq i o v
  | .sync => if o = 0xF00 then some (s.rearm i v) else none
  | .xfer => if o = 0x10 then some (s.ctxCommand i (fieldOf v 1 0) v) else if o = 0x80 then some (s.xferProbe i v) else none
  | .flink => if o = 0x08 then some (s.linkCmd i (fieldOf v 1 0)) else if o = 0x30 then some (s.engineCmd i (fieldOf v 1 0)) else none
  | .cask => if o = 0x50 then some ((s.caskOlt i v).caskDac i v) else none
  | .cal => if o = 0x08 then some (s.calReq i v) else none
  | .cwr => if o = 0x48 then some (if fieldOf v 0 0 = 1 then s.cwrPush i else s) else none
  | .pwr => s.writePwr o v
  | .hkc => if o = 0x28 then some (s.hkcTest v) else if o = 0x20 then some (s.hkcRptr (fieldOf v 63 32)) else none
  | .rst => if o = 0x20 then some (s.rstCmd (fieldOf v 2 0) (fieldOf v 23 8)) else if o = 0x18 then some (s.logRptr (fieldOf v 63 32)) else none
  | .snap => if o = 0x08 then some (s.rackAsk (fieldOf v 15 0) none) else none
  | .bist => if o = 0x10 then some (s.bistCmd v) else none
  | .rdc => none
  | .eth => none
  | .ses => none
  | .cap => none
  | .boot => none
  | .att => none

/-- A write that no rule of R38 refuses: GO of a COMMIT, a command, or a write by access type. -/
def State.writeWord (s : State) (addr : Nat) (v ev : W64) : State :=
  match blockAt addr with
  | none => s
  | some (b, i) =>
    let o := (addr - b.base) % 0x1000
    if o = 0xFF0 then (if fieldOf v 0 0 = 1 then s.commitGo b.pfx i else s)
    else match s.writeOf b.pfx i o v with
      | some s1 => s1
      | none => s.writePlain addr v ev

/-- REGISTER_WRITE: a write through the control space. -/
def State.registerWrite (s : State) (a : Agent) (addr size : Nat) (v ev : W64) : State :=
  match s.accessRefusal addr size with
  | some c => s.refuseAccess a c addr
  | none => s.writeWord addr v ev

def execRegisterWrite (a : Agent) (addr size : Nat) (v ev : W64) (s : State) : Host.Outcome State Fault Refusal :=
  .next (s.registerWrite a addr size v ev)

end Sys2Proof.Machine
end

