-- ==== Sys2Proof/Machine/Sessions.lean ====
section
/-!
DEFINITION. Management sessions (R342 to R348), the commands of Table 12.4 that reach the control space, memory and events, and the
commands of Table 14.9. A message with an open session's index is one whose header was in order (Table 12.3).
-/

namespace Sys2Proof.Machine

/-! ### Connections (R342, R347) -/

/-- Nothing answers a session any more: commands of its that wait are gone, and one that runs goes on with nobody to answer. -/
def State.forgetSession (s : State) (n : Nat) : State :=
  let nobody := fun (e : Nat × Nat) => if e.1 = n then (0x10000, 0) else e
  let r := s.rel
  let st := s.journal.staging.map fun (x : Nat × Bank × Nat × Nat) => if x.2.2.1 = n then (x.1, x.2.1, 0x10000, 0) else x
  let runs := r.resets.map fun (x : ResetRun) => { x with sessions := x.sessions.map nobody }
  let slice := r.slice.map fun (x : Slice) => { x with session := x.session.map nobody }
  let rack := r.rack.map fun (x : Rack) => { x with session := x.session.map nobody }
  { s with journal := { s.journal with staging := st }, rel := { r with resets := runs, slice := slice, rack := rack },
           turns := s.turns.filter fun e => e.1 != n }

/-- A session closes, with the code of its failure or 0 (R347, Table 12.10). -/
def State.closeSession (s : State) (n code : Nat) : State :=
  let x := s.session n
  let s1 := if code = 0 then s else
    ((s.set .sesLastFailCode 0 0 code).set .sesLastFailSlot 0 0 x.slot).set .sesLastFailSource 0 0 (x.source % 2 ^ 32)
  let s2 := (s1.forgetSession n).setSession n {}
  { s2 with out := s2.out ++ [.closed n] }

/-- A message is answered with a code, and its session closes. -/
def State.failSession (s : State) (n seq opcode code : Nat) : State := (s.reply n seq opcode code []).closeSession n code

/-- Whether the management server listens: stage E has ended, the port is on and its link is up. -/
def State.listening (s : State) : Bool := s.boot.ether && s.pins.ethLink && s.get .ethCtlEnable == 1

/-- The lowest index that no connection has. -/
def State.freeSession (s : State) : Nat :=
  let live := (s.sessions.filter fun e => e.2.live).map Prod.fst
  ((List.range (live.length + 1)).find? fun n => !live.contains n).getD 0

/-- A TCP connection on SES_CTL.PORT. -/
def State.connect (s : State) (source : Nat) : State :=
  if !s.listening then s
  else
    let n := s.freeSession
    let s1 := s.setSession n { live := true, source := source }
    if s.get .sesCtlMax ≤ (s.sessions.filter fun e => e.2.live).length then s1.failSession n 0 0 Code.sesTooMany else s1

def execTcpConnect (source : Nat) (s : State) : Host.Outcome State Fault Refusal := .next (s.connect source)

/-- 2 s after the connection: an open that has not completed is closed (R343). -/
def State.openTimeout (s : State) (n : Nat) : State :=
  let x := s.session n
  if x.live && !x.opened then s.closeSession n Code.sesTimeout else s

def execSessionOpenTimeout (n : Nat) (s : State) : Host.Outcome State Fault Refusal := .next (s.openTimeout n)

/-- A close under R347, counted. -/
def State.timeOut (s : State) (n : Nat) : State := (s.bump .sesTimeouts).closeSession n Code.sesTimeout

/-- IDLE_S seconds without a command; an IDLE_S of 0 disables this. -/
def State.idleClose (s : State) (n : Nat) : State :=
  if (s.session n).live && s.get .sesCtlIdleS != 0 then s.timeOut n else s

def execSesTimeout (n : Nat) (s : State) : Host.Outcome State Fault Refusal := .next (s.idleClose n)

/-- A keepalive probe is due: it is sent, or the session closes after three unanswered ones. -/
def State.keepalive (s : State) (n : Nat) : State :=
  let x := s.session n
  if !x.live then s
  else if 3 ≤ x.probes then s.timeOut n
  else
    let s1 := s.setSession n { x with probes := x.probes + 1 }
    { s1 with out := s1.out ++ [.probe n] }

def execKeepaliveProbe (n : Nat) (s : State) : Host.Outcome State Fault Refusal := .next (s.keepalive n)

/-! ### One command at a time (R346) -/

/-- Whether a command that ran has still to be answered: a RESET below level 4, a RACK, a BIST_RUN or a FW_STAGE. -/
def State.awaiting (s : State) : Bool :=
  (s.rel.resets.any fun r => !r.sessions.isEmpty) || (s.rel.slice.bind Slice.session).isSome || (s.rel.rack.bind Rack.session).isSome ||
  s.journal.staging.isSome

/-- Whether a command that arrives has to wait for those before it. -/
def State.serverBusy (s : State) : Bool := s.awaiting || !s.turns.isEmpty

/-- A message of session `n` in its turn: behind a command that runs or waits, it waits (R346). Its arrival answers the probes. -/
def State.inTurn (s : State) (n : Nat) (c : Instr) (f : State → State) : State :=
  let x := s.session n
  if !s.serverBusy then f s
  else if !x.live then s
  else
    let s1 := s.setSession n { x with probes := 0 }
    { s1 with turns := s1.turns ++ [(n, c)] }

/-! ### The open (R343, R344) -/

/-- The bytes of a label. -/
def label (cs : List Char) : List Byte := cs.map fun c => BitVec.ofNat 8 c.toNat

/-- OPEN_HELLO's nonce and slot taken: the module answers with N_m and P_m. A slot without a key gives a proof under a key of its
own, so that the answer looks alike. -/
def State.hello (s : State) (n seq slot : Nat) (nonce : List Byte) : State :=
  let x := s.session n
  let key := s.sessionKey slot
  let nm := fit 32 (Config.nonce s.free)
  let k := key.getD (fit 32 (Config.nonce (s.free + 1)))
  let pm := hmac256 k (label ['L', 'V', 'R', 'M'] ++ nonce ++ nm ++ leBytes 8 s.journal.serial)
  let s1 := s.tick.tick.setSession n { x with hello := some nonce, slot := slot % 256, key := key, nonceM := nm, probes := 0 }
  s1.reply n seq 0x0001 0 (nm ++ pm)

/-- OPEN_HELLO: the first message of a session. -/
def State.openHello (s : State) (n seq slot : Nat) (nonce : List Byte) : State :=
  let x := s.session n
  if !x.live then s
  else if x.opened || x.hello.isSome then s.failSession n seq 0x0001 Code.sesNotOpen
  else s.hello n seq slot nonce

def execOpenHello (n seq slot : Nat) (nonce : List Byte) (s : State) : Host.Outcome State Fault Refusal :=
  .next (s.inTurn n (.openHello n seq slot nonce) fun s => s.openHello n seq slot nonce)

/-- A failed open of a slot: the fifth within 60 s locks it. The times are measured (log 2), in counts of 100 MHz. -/
def State.noteFail (s : State) (slot : Nat) : State :=
  let now := Config.freeNat s.free
  let old := smGet (fun _ => []) s.slotFails slot
  let near := old.filter fun t => decide (now < t + 6000000000)
  if near.length < 4 then { s.tick with slotFails := smPut (fun _ => []) slot (near ++ [now]) s.slotFails }
  else { s.tick with slotFails := smPut (fun _ => []) slot [] s.slotFails, slotLocked := s.slotLocked ++ [slot] }

/-- A proof that opens a session: it is the HMAC under the slot's key. -/
def Session.proofOk (x : Session) (proof : List Byte) : Bool :=
  match x.key, x.hello with
  | some k, some nc => proof == hmac256 k (label ['L', 'V', 'R', 'C'] ++ x.nonceM ++ nc)
  | _, _ => false

/-- OPEN_PROOF. -/
def State.openProof (s : State) (n seq : Nat) (proof : List Byte) : State :=
  let x := s.session n
  if !x.live then s
  else if x.opened || x.hello.isNone then s.failSession n seq 0x0002 Code.sesNotOpen
  else if s.slotLocked.contains x.slot then (s.bump .sesAuthFails).failSession n seq 0x0002 Code.sesLocked
  else if x.proofOk proof then ((s.setSession n { x with opened := true, probes := 0 }).bump .sesOpens).reply n seq 0x0002 0 []
  else ((s.noteFail x.slot).bump .sesAuthFails).failSession n seq 0x0002 Code.sesAuthFail

def execOpenProof (n seq : Nat) (proof : List Byte) (s : State) : Host.Outcome State Fault Refusal :=
  .next (s.inTurn n (.openProof n seq proof) fun s => s.openProof n seq proof)

/-- A slot's lock ends after 60 s. -/
def execSesLockEnd (slot : Nat) (s : State) : Host.Outcome State Fault Refusal :=
  .next { s with slotLocked := s.slotLocked.filter (· != slot) }

/-! ### Commands (R346, R436, R438) -/

/-- Whether the module's state keeps a command from being served: from stage E until READY all but a few, in tin mode a few. -/
def State.notServed (s : State) (opcode : Nat) : Bool :=
  match s.rel.mode with
  | .starting => !([0x03, 0x10, 0x12, 0x22, 0x50, 0x51, 0x62].contains opcode)
  | .tin => [0x20, 0x21, 0x30, 0x60].contains opcode
  | _ => false

/-- A command of a session at its turn: refused before the open and where the state does not serve it, else executed. -/
def State.serve (s : State) (n seq opcode : Nat) (f : State → State) : State :=
  let x := s.session n
  if !x.live then s
  else if !x.opened then s.failSession n seq opcode Code.sesNotOpen
  else
    let s1 := (s.setSession n { x with probes := 0 }).bump .sesCommands
    if s1.notServed opcode then s1.reply n seq opcode Code.bootNotReady [] else f s1

/-- A command of a session. -/
def State.command (s : State) (c : Instr) (n seq opcode : Nat) (f : State → State) : State :=
  s.inTurn n c fun s => s.serve n seq opcode f

def execClose (n seq : Nat) (s : State) : Host.Outcome State Fault Refusal :=
  .next (s.command (.close n seq) n seq 0x0003 fun s => (s.reply n seq 0x0003 0 []).closeSession n 0)

/-- The longest body: 16 MiB + 64 bytes. -/
def bodyMax : Nat := 16777280

/-- The opcodes of Table 12.4, Table 14.9 and Table 15.6 that a client may send. -/
def opcodes : List Nat :=
  [0x01, 0x02, 0x03, 0x10, 0x11, 0x12, 0x13, 0x20, 0x21, 0x22, 0x23, 0x24, 0x30, 0x31, 0x40, 0x50, 0x51, 0x52, 0x53, 0x54, 0x55,
   0x56, 0x57, 0x58, 0x60, 0x61, 0x62, 0x63]

/-- A message whose header is wrong, or whose opcode is unknown. -/
def State.oddMessage (s : State) (n seq opcode magic len : Nat) : State :=
  let x := s.session n
  if !x.live then s
  else if magic ≠ 0x4C53 ∨ bodyMax < len then s.failSession n seq opcode Code.sesLength
  else if !x.opened then s.failSession n seq opcode Code.sesNotOpen
  else if opcodes.contains opcode then s
  else ((s.setSession n { x with probes := 0 }).bump .sesCommands).reply n seq opcode Code.sesOpcode []

def execSesOpcode (n seq opcode magic len : Nat) (s : State) : Host.Outcome State Fault Refusal :=
  .next (s.inTurn n (.sesOpcode n seq opcode magic len) fun s => s.oddMessage n seq opcode magic len)

/-- One register read of a CTL_READ: its value appended, or the code of its refusal. -/
def readNext (n addr : Nat) (x : State × List Byte × Nat) (i : Nat) : State × List Byte × Nat :=
  if x.2.2 ≠ 0 then x
  else
    let a := addr + 8 * i
    match x.1.accessRefusal a 8 with
    | some c => (x.1.refuseAccess (.session n) c a, [], c)
    | none => (x.1.readClears a 0, x.2.1 ++ leBytes 8 (x.1.readWord a).toNat, 0)

/-- CTL_READ of 1 to 512 registers; the first refused access fails it. -/
def State.ctlRead (s : State) (n seq addr count : Nat) : State :=
  if count = 0 ∨ 512 < count then s.reply n seq 0x0010 Code.sesLength []
  else
    let r := (List.range count).foldl (readNext n addr) (s, [], 0)
    r.1.reply n seq 0x0010 r.2.2 (if r.2.2 = 0 then r.2.1 else [])

def execCtlRead (n seq addr count : Nat) (s : State) : Host.Outcome State Fault Refusal :=
  .next (s.command (.ctlRead n seq addr count) n seq 0x0010 fun s => s.ctlRead n seq addr count)

/-- CTL_WRITE of one register. -/
def State.ctlWrite (s : State) (n seq addr : Nat) (v : W64) : State :=
  let c := (s.accessRefusal addr 8).getD 0
  (s.registerWrite (.session n) addr 8 v 0).reply n seq 0x0011 c []

def execCtlWrite (n seq addr : Nat) (v : W64) (s : State) : Host.Outcome State Fault Refusal :=
  .next (s.command (.ctlWrite n seq addr v) n seq 0x0011 fun s => s.ctlWrite n seq addr v)

/-- Whether a range lies in the service SRAM. -/
def inSram (a n : Nat) : Bool := decide (sramBase ≤ a ∧ a + n ≤ sramBase + sramSize)

/-- Why a MEM_READ or a MEM_WRITE fails: its length, the state's limits (R436, R438), the map or ECC (R254, R258). -/
def State.memRefusal (s : State) (ue : List Nat) (a n : Nat) (isWrite : Bool) : State × Nat :=
  if 16777216 < n then (s, Code.sesLength)
  else if s.rel.mode = .starting ∧ inSram a n = false then (s, Code.bootNotReady)
  else if s.rel.mode = .tin ∧ inSram a n = false then (s, Code.xferUnmapped)
  else match s.accessErr ue a n isWrite with
    | some (.unmapped _) => (s, Code.xferUnmapped)
    | some e => (s.noteErr e, Code.memUe)
    | none => (s, 0)

/-- MEM_READ. -/
def State.memRead (s : State) (n seq a len : Nat) (ue : List Nat) : State :=
  let r := s.memRefusal ue a len false
  if r.2 = 0 then s.reply n seq 0x0012 0 (s.readBytes a len) else r.1.reply n seq 0x0012 r.2 []

def execMemRead (n seq addr len : Nat) (e : Ecc) (s : State) : Host.Outcome State Fault Refusal :=
  .next (s.command (.memRead n seq addr len e) n seq 0x0012 fun s => (s.corrected e.ce).memRead n seq addr len e.ue)

/-- MEM_WRITE. -/
def State.memWrite (s : State) (n seq a : Nat) (data : List Byte) (ue : List Nat) : State :=
  let r := s.memRefusal ue a data.length true
  if r.2 = 0 then (s.writeBytes a data).reply n seq 0x0013 0 [] else r.1.reply n seq 0x0013 r.2 []

def execMemWrite (n seq addr : Nat) (data : List Byte) (e : Ecc) (s : State) : Host.Outcome State Fault Refusal :=
  .next (s.command (.memWrite n seq addr data e) n seq 0x0013 fun s => (s.corrected e.ce).memWrite n seq addr data e.ue)

/-- EVENT_SUBSCRIBE (R348). -/
def State.subscribe (s : State) (n seq mask : Nat) : State :=
  (s.setSession n { s.session n with mask := mask % 32 }).reply n seq 0x0040 0 []

def execEventSubscribe (n seq mask : Nat) (s : State) : Host.Outcome State Fault Refusal :=
  .next (s.command (.eventSubscribe n seq mask) n seq 0x0040 fun s => s.subscribe n seq mask)

/-! ### The commands of Table 14.9 (R424) -/

/-- RACK: refused at once, or answered when the image is written. -/
def State.rackCommand (s : State) (n seq id : Nat) : State :=
  let s1 := s.rackAsk id (some (n, seq))
  match s.rackRefusal id with
  | some c => s1.reply n seq 0x0060 c []
  | none => s1

def execRack (n seq id : Nat) (s : State) : Host.Outcome State Fault Refusal :=
  .next (s.command (.rack n seq id) n seq 0x0060 fun s => s.rackCommand n seq id)

/-- RESET: levels 4 and 5 are answered before the reset, the others when it completes or when it is refused. -/
def State.resetCommand (s : State) (n seq level u : Nat) : State :=
  let c := s.resetCode level u
  if c ≠ 0 then s.reply n seq 0x0061 c []
  else if level < 4 then s.beginReset { unit := u, level := level, cause := 0, first := level, sessions := [(n, seq)] }
  else (s.reply n seq 0x0061 0 []).beginReset { unit := u, level := level, cause := 0, first := level }

def execReset (n seq level unit : Nat) (s : State) : Host.Outcome State Fault Refusal :=
  .next (s.command (.reset n seq level unit) n seq 0x0061 fun s => s.resetCommand n seq level unit)

/-- Whether the ring still holds an entry. -/
def State.logHolds (s : State) (q : Nat) : Bool := decide ((s.rel.logSeq + 2 ^ 32 - 1 - q) % 2 ^ 32 < s.rel.logHeld)

/-- The entries that a LOG_READ returns: those of the range asked for that the ring still holds. -/
def State.logEntries (s : State) (fromSeq count : Nat) : List Nat :=
  ((List.range count).map fun i => (fromSeq + i) % 2 ^ 32).filter s.logHolds

/-- LOG_READ. -/
def State.logRead (s : State) (n seq fromSeq count : Nat) : State :=
  if count = 0 ∨ 4096 < count then s.reply n seq 0x0062 Code.sesLength []
  else s.reply n seq 0x0062 0 ((s.logEntries fromSeq count).flatMap fun q => s.readBytes (s.logAddr q) 64)

def execLogRead (n seq fromSeq count : Nat) (s : State) : Host.Outcome State Fault Refusal :=
  .next (s.command (.logRead n seq fromSeq count) n seq 0x0062 fun s => s.logRead n seq fromSeq count)

def execBistRun (n seq unit slices : Nat) (s : State) : Host.Outcome State Fault Refusal :=
  .next (s.command (.bistRun n seq unit slices) n seq 0x0063 fun s => s.bistAsk unit slices (some (n, seq)))

end Sys2Proof.Machine
end

