-- ==== Sys2Proof/Machine/Security.lean ====
section
/-!
DEFINITION. The commands of Table 15.6: attestation (R439), session keys (R440 to R442), firmware images (R431 to R433) and signed
records (R428, R430).
-/

namespace Sys2Proof.Machine

/-- A command of Table 15.6 answered, its code recorded in ATT_STATUS. -/
def State.attReply (s : State) (n seq opcode code : Nat) (body : List Byte) : State :=
  (s.set .attStatusCode 0 0 code).reply n seq opcode code body

/-! ### Identity and attestation (R439) -/

/-- The signed bytes of the attestation report (Table 15.5); TIME is a measured time (log 2). -/
def State.reportHead (s : State) (nonce : List Byte) : List Byte :=
  let j := s.journal
  let blend := s.blend.inForce
  let keyDigest := fun (i : Nat) => match s.vkey i with
    | some k => sha256 k
    | none => List.replicate 32 0
  [0x4C, 0x56, 0x41, 0x54] ++ leBytes 2 1 ++ leBytes 2 2 ++ leBytes 4 17488 ++ leBytes 1 s.rel.mode.num ++
  leBytes 1 (s.get .capIdGrade) ++ leBytes 2 ((blend.map Blend.deviceId).getD 0xFFFF) ++ leBytes 8 j.serial ++
  leBytes 8 (Config.freeNat s.free) ++ fit 32 nonce ++ fit 32 (s.bank s.boot.bank).digest ++ leBytes 4 s.boot.svn ++
  leBytes 4 j.minSvn ++ leBytes 4 j.startSeq ++ leBytes 1 j.count ++ leBytes 1 s.keyed ++ leBytes 1 s.vkeyed ++
  leBytes 1 (s.boot.bank + if j.trial then 4 else 0) ++ fit 32 ((blend.map Blend.digest).getD []) ++ fit 32 j.gradeDigest ++
  fit 32 j.trimDigest ++ fit 32 ((j.network.map fun r => (recordOf r).digest).getD []) ++
  (List.range 4).flatMap keyDigest ++ fit 32 (sha256 s.identityHead)

/-- ATT_REPORT. -/
def State.attReport (s : State) (n seq : Nat) (nonce : List Byte) : State :=
  if s.identityOk then
    let head := s.reportHead nonce
    (s.tick.bump .attReports).attReply n seq 0x0050 0 (head ++ fit 17088 (Config.sign s.journal.devicePrivate head))
  else s.attReply n seq 0x0050 Code.attIdentityFail []

def execAttReport (n seq : Nat) (nonce : List Byte) (s : State) : Host.Outcome State Fault Refusal :=
  .next (s.command (.attReport n seq nonce) n seq 0x0050 fun s => s.attReport n seq nonce)

/-- ATT_IDENTITY: the IDENTITY record with its header and signature. -/
def State.attIdentity (s : State) (n seq : Nat) : State :=
  if s.identityOk then
    s.attReply n seq 0x0051 0 (s.identityHead ++ sha256 s.identityHead ++ leBytes 2 0 ++ fit 7856 s.journal.identitySig)
  else s.attReply n seq 0x0051 Code.attIdentityFail []

def execAttIdentity (n seq : Nat) (s : State) : Host.Outcome State Fault Refusal :=
  .next (s.command (.attIdentity n seq) n seq 0x0051 fun s => s.attIdentity n seq)

/-! ### Session keys (R441, R442) -/

/-- The bitwise exclusive or of two byte strings. -/
def xorBytes (xs ys : List Byte) : List Byte := List.zipWith (· ^^^ ·) xs ys

/-- The bytes that bind a rotation to its session and slot. -/
def Session.binding (x : Session) (cs : List Char) (slot : Nat) : List Byte := label cs ++ x.nonceM ++ leBytes 1 slot

/-- The key that a KEY_ROTATE offers. -/
def Session.offered (x : Session) (slot : Nat) (masked : List Byte) : List Byte :=
  xorBytes (fit 32 masked) (hmac256 (x.key.getD []) (x.binding ['L', 'V', 'R', 'K'] slot))

/-- Whether a rotation's tag checks and its key is not all zeros. -/
def Session.tagOk (x : Session) (slot : Nat) (k tag : List Byte) : Bool :=
  tag == hmac256 k (x.binding ['L', 'V', 'R', 'T'] slot) && k.any (· != 0)

/-- A session key slot written. -/
def State.setKey (s : State) (slot : Nat) (k : Option (List Byte)) : State :=
  { s with journal := { s.journal with keys := smPut factoryKeys slot k s.journal.keys } }

/-- KEY_ROTATE. -/
def State.keyRotate (s : State) (n seq slot : Nat) (masked tag : List Byte) : State :=
  let x := s.session n
  let k := x.offered slot masked
  if 7 < slot then s.attReply n seq 0x0052 Code.keySlotRange []
  else if x.rotated.contains slot then s.attReply n seq 0x0052 Code.keyReuse []
  else
    let s1 := s.setSession n { x with rotated := x.rotated ++ [slot] }
    if x.tagOk slot k tag then (s1.setKey slot (some k)).attReply n seq 0x0052 0 [] else s1.attReply n seq 0x0052 Code.keyTag []

def execKeyRotate (n seq slot : Nat) (masked tag : List Byte) (s : State) : Host.Outcome State Fault Refusal :=
  .next (s.command (.keyRotate n seq slot masked tag) n seq 0x0052 fun s => s.keyRotate n seq slot masked tag)

/-- KEY_CLEAR. -/
def State.keyClear (s : State) (n seq slot : Nat) : State :=
  if 7 < slot then s.attReply n seq 0x0053 Code.keySlotRange []
  else if s.keyed = 2 ^ slot then s.attReply n seq 0x0053 Code.keyLast []
  else (s.setKey slot none).attReply n seq 0x0053 0 []

def execKeyClear (n seq slot : Nat) (s : State) : Host.Outcome State Fault Refusal :=
  .next (s.command (.keyClear n seq slot) n seq 0x0053 fun s => s.keyClear n seq slot)

/-! ### Firmware images (R431 to R433) -/

/-- The components of an image: TYPE, OFFSET, LENGTH. -/
def imgComponents (bs : List Byte) : List (Nat × Nat × Nat) :=
  (List.range (imgNat bs 17 1)).map fun i => (imgNat bs (128 + 16 * i) 2, imgNat bs (132 + 16 * i) 4, imgNat bs (136 + 16 * i) 4)

/-- Whether an image keeps the format of R431 and Table 15.2, with its trailer at `t`. -/
def imageFormat (bs : List Byte) (t : Nat) : Bool :=
  let cs := imgComponents bs
  let table := 128 + 16 * cs.length
  bs.take 4 == [0x4C, 0x56, 0x46, 0x57] && imgNat bs 4 2 == 1 && imgNat bs 6 2 == 128 && imgNat bs 8 4 == bs.length &&
  bs.length % 8 == 0 && decide (6 ≤ cs.length ∧ cs.length ≤ 16) && imgNat bs 18 2 == 0 && ((bs.drop 64).take 64).all (· == 0) &&
  (List.range cs.length).all (fun i => imgNat bs (130 + 16 * i) 2 == 0 && imgNat bs (140 + 16 * i) 4 == 0) &&
  cs.all (fun c => c.2.1 % 64 == 0 && decide (table ≤ c.2.1 ∧ c.2.1 + c.2.2 ≤ t)) && cs.any (fun c => c.2.1 + c.2.2 == t) &&
  [1, 2, 3, 4, 5, 6].all (fun ty => (cs.filter fun c => c.1 == ty).length == 1) &&
  sha256 ((bs.drop 128).take (t - 128)) == (bs.drop 32).take 32

/-- What the checks of R432 make of an image. -/
def State.imageBank (s : State) (bs : List Byte) : Bank :=
  let t := bs.length - 7864
  let g := s.get .capIdGrade
  let key := match s.vkey 0 with
    | some k => Config.sigOk k (bs.take t) (bs.drop (t + 8))
    | none => false
  { formatOk := imageFormat bs t,
    sigOk := imgNat bs t 2 == 1 && imgNat bs (t + 2) 2 == 0 && imgNat bs (t + 4) 4 == 7856 && key,
    targetOk := imgNat bs 12 2 == s.get .capIdFamily && imgNat bs 14 2 == s.get .capIdMember &&
      decide (1 ≤ g ∧ g ≤ 8) && (imgNat bs 16 1).testBit (g - 1),
    svn := imgNat bs 20 4, digest := sha256 (bs.take t) }

/-- The image at an address of service SRAM, by its TOTAL_LENGTH; empty where it does not lie there whole. -/
def State.imageAt (s : State) (a : Nat) : List Byte :=
  let n := s.readNat (a + 8) 4
  if inSram a 128 && inSram a n && decide (8192 ≤ n ∧ n ≤ 48 * 2 ^ 20) then s.readBytes a n else []

/-- A firmware bank replaced. -/
def State.setBank (s : State) (b : Nat) (x : Bank) : State :=
  { s with journal := { s.journal with banks := smPut (fun _ => {}) b x s.journal.banks } }

/-- FW_STAGE: the image is checked, and its writing to the bank not in force begins. Until it ends that bank's digest fails. -/
def State.fwStage (s : State) (n seq a : Nat) : State :=
  let b := 1 - s.journal.bank
  let x := s.imageBank (s.imageAt a)
  if s.journal.trial then s.attReply n seq 0x0054 Code.fwTrial []
  else match x.refusal s.journal.minSvn false with
    | some c => s.attReply n seq 0x0054 c []
    | none =>
      let s1 := s.setBank b { formatOk := false }
      { s1 with journal := { s1.journal with staging := some (b, x, n, seq) } }

def execFwStage (n seq addr : Nat) (s : State) : Host.Outcome State Fault Refusal :=
  .next (s.command (.fwStage n seq addr) n seq 0x0054 fun s => s.fwStage n seq addr)

/-- The bank is written: BANK, SVN. -/
def State.fwStageDone (s : State) : State :=
  match s.journal.staging with
  | none => s
  | some (b, x, n, seq) =>
    let s1 := s.setBank b x
    let s2 : State := { s1 with journal := { s1.journal with staging := none } }
    s2.attReply n seq 0x0054 0 (leBytes 1 b ++ leBytes 3 0 ++ leBytes 4 x.svn)

def execFwStageDone (n seq : Nat) (s : State) : Host.Outcome State Fault Refusal :=
  .next (if (s.journal.staging.elim false fun x => x.2.2 == (n, seq) || x.2.2.1 == 0x10000) then s.fwStageDone else s)

/-- FW_ACTIVATE. -/
def State.fwActivate (s : State) (n seq b : Nat) : State :=
  if 1 < b || (s.bankRefusal b).isSome then s.attReply n seq 0x0055 Code.fwBankInvalid []
  else
    let s1 : State := { s with journal := { s.journal with bank := b, trial := true, trialFailed := false } }
    s1.attReply n seq 0x0055 0 []

def execFwActivate (n seq bank : Nat) (s : State) : Host.Outcome State Fault Refusal :=
  .next (s.command (.fwActivate n seq bank) n seq 0x0055 fun s => s.fwActivate n seq bank)

/-! ### Signed records and the failed-start count (R428, R430, R438) -/

/-- NET_SET: a NETWORK record for the next start. -/
def State.netSet (s : State) (n seq a : Nat) : State :=
  let len := recordLen 64
  let bs := s.readBytes a len
  let r := s.memRefusal [] a len false
  if r.2 ≠ 0 then r.1.attReply n seq 0x0056 r.2 []
  else if s.networkOk bs then
    let s1 : State := { s with journal := { s.journal with networkNext := some bs } }
    s1.attReply n seq 0x0056 0 []
  else s.attReply n seq 0x0056 Code.netRecord []

def execNetSet (n seq addr : Nat) (s : State) : Host.Outcome State Fault Refusal :=
  .next (s.command (.netSet n seq addr) n seq 0x0056 fun s => s.netSet n seq addr)

/-- BOOT_CLEAR: COUNT becomes 0, and after the reply a cold start begins. -/
def State.bootClear (s : State) (n seq : Nat) : State :=
  let s1 : State := { s with journal := { s.journal with count := 0 } }
  (s1.attReply n seq 0x0057 0 []).startBegins false

def execBootClear (n seq : Nat) (s : State) : Host.Outcome State Fault Refusal :=
  .next (s.command (.bootClear n seq) n seq 0x0057 fun s => s.bootClear n seq)

/-- Why a VKEY record is refused: its signature, slot or SERIAL is wrong, or a slot 0 key does not hash to the mask ROM value. -/
def State.vkeyRefusal (s : State) (r : Record) : Option Nat :=
  let slot := leNat (r.body.take 1)
  let serial := leNat ((r.body.drop 8).take 8)
  let key := (r.body.drop 16).take 32
  if !s.recordOk r 5 48 || r.slot != 0 || decide (3 < slot) || ((r.body.drop 1).take 7).any (· != 0) then some Code.vkeyRecord
  else if serial ≠ 0 ∧ serial ≠ s.journal.serial then some Code.vkeyRecord
  else if slot = 0 ∧ sha256 key ≠ Config.rootKeyHash then some Code.bootRootKey
  else none

/-- VKEY_SET: a verification key slot installed, or emptied by a key of all zeros. -/
def State.vkeySet (s : State) (n seq a : Nat) : State :=
  let len := recordLen 48
  let rec_ := recordOf (s.readBytes a len)
  let m := s.memRefusal [] a len false
  if m.2 ≠ 0 then m.1.attReply n seq 0x0058 m.2 []
  else match s.vkeyRefusal rec_ with
    | some c => s.attReply n seq 0x0058 c []
    | none =>
      let key := (rec_.body.drop 16).take 32
      let v := if key.all (· == 0) then none else some key
      let s1 : State := { s with journal := { s.journal with
        vkeys := smPut factoryVkeys (leNat (rec_.body.take 1)) v s.journal.vkeys } }
      s1.attReply n seq 0x0058 0 []

def execVkeySet (n seq addr : Nat) (s : State) : Host.Outcome State Fault Refusal :=
  .next (s.command (.vkeySet n seq addr) n seq 0x0058 fun s => s.vkeySet n seq addr)

end Sys2Proof.Machine
end

