-- ==== Sys2Proof/Machine/Ethernet.lean ====
section
/-!
DEFINITION. The Ethernet port (R331 to R335, R358) and RoCEv2 (R336 to R341). What the InfiniBand Architecture Specification gives
and the manual only refers to is PRESUMED (log 104).
-/

namespace Sys2Proof.Machine

/-! ### Frames sent (R331, R333, R334) -/

/-- Whether the port is on, with its link up. -/
def State.portOn (s : State) : Bool := s.domainOn domEth && s.pins.ethLink && s.get .ethCtlEnable == 1

/-- Something handed to the port. -/
def State.sendFrame (s : State) (o : Output) : State := { s with out := s.out ++ [o] }

/-- Whether something handed out is a RoCEv2 packet. -/
def Output.isRoce (o : Output) : Bool :=
  match o with
  | .cnp _ _ | .roceAck _ _ | .roceNak _ _ _ | .roceData _ _ _ | .roceWrite _ _ _ _ _ | .roceRead _ _ _ _ _ => true
  | .reply _ _ _ _ _ | .event _ _ _ _ _ | .closed _ | .datagram _ | .pfcFrame _ _ | .echo | .rst | .probe _ | .accessFault _ _ => false

/-- The frames that something handed to the port makes (log 106): a message in TCP segments, RoCEv2 data in packets. -/
def Output.frames (o : Output) (mtu : Nat) : Nat :=
  match o with
  | .reply _ _ _ _ body => ceilDiv (16 + body.length) (mtu - 40)
  | .roceData _ d bytes => max 1 (ceilDiv bytes.length d.pmtu)
  | .roceWrite _ d _ _ len => max 1 (ceilDiv len d.pmtu)
  | _ => 1

/-- The priority that something handed to the port is sent with (R333). -/
def State.prioOf (s : State) (o : Output) : Nat := if o.isRoce then s.get .ethCtlPcpRoce else s.get .ethCtlPcpMgmt

/-- What the port puts on the line: tagged with VID and a priority, ECT(0) on RoCEv2 packets; PFC frames carry no tag (log 106). -/
def State.onLine (s : State) (o : Output) : EthSent :=
  match o with
  | .pfcFrame _ _ => { tag := none, ect := false, what := o }
  | _ => { tag := some (s.get .ethCtlVid, s.prioOf o), ect := o.isRoce, what := o }

/-- Whether something handed out may leave: PFC frames always, the rest unless its priority is paused (R331). An access fault of a
service core is no frame. -/
def State.mayLeavePort (s : State) (o : Output) : Bool :=
  match o with
  | .pfcFrame _ _ => true
  | .accessFault _ _ => false
  | _ => !s.pausedPrio.contains (s.prioOf o)

/-- The port sends, in order, what its priorities let it send. -/
def State.portSend (s : State) : State :=
  let go := s.out.filter s.mayLeavePort
  if !s.portOn || go.isEmpty then s
  else
    let s1 := s.bump .ethTxFrames 0 0 ((go.map fun o => o.frames (s.get .ethCtlMtu)).sum)
    { s1 with out := s.out.filter fun o => !s.mayLeavePort o, sent := s.sent ++ go.map s.onLine }

/-- Whether a priority is one of PFC_MASK. -/
def State.lossless (s : State) (prio : Nat) : Bool := (s.get .ethCtlPfcMask).testBit prio

/-- A PFC frame of the port's own. -/
def State.sendPfc (s : State) (prio : Nat) (pause : Bool) : State :=
  let was := s.pauseSent.filter (· != prio)
  let s1 := { s with pauseSent := if pause then was ++ [prio] else was }
  (s1.bump .ethPfcTx).sendFrame (.pfcFrame prio pause)

/-- A priority's share of the receive buffer: a pause frame above 75% of 1 MiB, the resume frame below 50% (R334). -/
def State.bufferShare (s : State) (prio share : Nat) : State :=
  let s1 := { s with prioShare := smPut (fun _ => 0) prio share s.prioShare }
  let paused := s1.pauseSent.contains prio
  if !s1.lossless prio then s1
  else if !paused && decide (786432 < share) then s1.sendPfc prio true
  else if paused && decide (share < 524288) then s1.sendPfc prio false
  else s1

/-- A PFC frame received, honoured on the priorities of PFC_MASK. -/
def State.pfcArrives (s : State) (prio : Nat) (pause : Bool) : State :=
  let s1 := s.bump .ethPfcRx
  let rest := s1.pausedPrio.filter (· != prio)
  if s1.lossless prio then { s1 with pausedPrio := if pause then rest ++ [prio] else rest } else s1

/-! ### Queue pairs on the wire (R337, Table 12.2) -/

/-- The queue pair that a number on the wire names: 0x00_0100 + QP. -/
def qpOfWire (qpn : Nat) : Option Nat := if 0x100 ≤ qpn ∧ qpn < 0x500 then some (qpn - 0x100) else none

/-- A field of a queue pair's QP_OPEN body. -/
def Qp.num (x : Qp) (off n : Nat) : Nat := leNat ((x.body.drop off).take n)

/-- PMTU in bytes. -/
def Qp.pmtu (x : Qp) : Nat := 512 * 2 ^ x.num 5 1

/-- Where a queue pair's packets go, from packet sequence number `psn` on. -/
def Qp.dst (x : Qp) (psn : Nat) : RoceDst := { gid := (x.body.drop 8).take 16, qpn := x.num 24 4, psn := psn % 2 ^ 24, pmtu := x.pmtu }

/-- The packets of a message; an empty one has one. -/
def Qp.packets (x : Qp) (len : Nat) : Nat := max 1 (ceilDiv len x.pmtu)

/-- A queue pair as QP_OPEN leaves it: both packet sequence numbers start at PSN. -/
def Qp.ofBody (body : List Byte) : Qp :=
  let x : Qp := { opened := true, body := body }
  { x with sendPsn := x.num 28 4, recvPsn := x.num 28 4 }

/-- Whether packet sequence number `a` is `b` or comes after it. -/
def psnReached (a b : Nat) : Bool := decide ((a + 2 ^ 24 - b % 2 ^ 24) % 2 ^ 24 < 2 ^ 23)

/-! ### Congestion (R335) -/

/-- A CE-marked packet: counted, and one notification sent at most per 50 µs per queue pair (R335); the time is measured (log 2). -/
def State.ceArrives (s : State) (n : Nat) : State :=
  let s1 := s.bump .ethCeReceived
  let x := s1.qp n
  let now := Config.freeNat s1.free
  if s1.get .ethCtlEcn = 0 || !x.opened || (x.cnpAt.elim false fun t => decide (now < t + 5000)) then s1
  else ((s1.tick.setQp n { x with cnpAt := some now }).bump .ethCnpSent).sendFrame (.cnp n (x.dst x.recvPsn))

/-- A notification: the rate falls to half, 1 Gbit/s at the lowest (R335). -/
def State.cnpArrives (s : State) (n : Nat) : State :=
  let x := s.qp n
  if s.get .ethCtlEcn = 1 && x.opened then s.setQp n { x with rateMbps := max 1000 (x.rateMbps / 2) } else s

/-- 55 µs without a notification: the rate rises by 1/16 of line rate, up to line rate (R335). -/
def State.rateStep (s : State) (n : Nat) : State :=
  let x := s.qp n
  if x.opened then s.setQp n { x with rateMbps := min 1600000 (x.rateMbps + 100000) } else s

def execRoceRateStep (qp : Nat) (s : State) : Host.Outcome State Fault Refusal := .next (s.rateStep qp)

/-! ### Responder (R336, R338, R339) -/

/-- Whether an rkey admits a range on a queue pair. -/
def State.rkeyOk (s : State) (x : Qp) (rkey va len : Nat) : Bool :=
  let c := rkey / 65536
  let e := s.ctx c
  let w := e.windows.getD (rkey % 4) (0, 0)
  c == x.ctx && e.state == .open && e.gen == rkey / 256 % 256 && rkey / 4 % 64 == 0 && w.2 != 0 &&
  decide (65536 * w.1 ≤ va ∧ va + len ≤ 65536 * (w.1 + w.2))

/-- A NAK of the request whose first packet has number `psn`. -/
def State.nak (s : State) (n psn : Nat) (why : RoceNak) : State := s.sendFrame (.roceNak n ((s.qp n).dst psn) why)

/-- The remote access error NAK, counted and recorded. -/
def State.nakAccess (s : State) (n psn : Nat) : State := ((s.bump .ethRetransmits).ethErr Code.roceRemoteAccess n).nak n psn .remoteAccess

/-- A request executed: the packet sequence number moves past its `k` packets, and `ack` says whether an ACK of its last packet leaves. -/
def State.roceTaken (s : State) (n k : Nat) (ack : Bool) : State :=
  let x := s.qp n
  let s1 := s.setQp n { x with recvPsn := (x.recvPsn + k) % 2 ^ 24, seqNaked := false }
  if ack then s1.sendFrame (.roceAck n (x.dst (x.recvPsn + k + 2 ^ 24 - 1))) else s1

/-- A packet ahead of the one expected: the gap is answered once, naming the packet expected. -/
def State.nakGap (s : State) (n : Nat) : State :=
  let x := s.qp n
  if x.seqNaked then s else (s.setQp n { x with seqNaked := true }).nak n x.recvPsn .outOfSequence

/-- A request on a queue pair that is open and not in error: one ahead of the packet expected is answered as a gap, one behind it is a
duplicate, and the expected one runs. -/
def State.inSequence (s : State) (n psn : Nat) (dup run : State → State) : State :=
  let x := s.qp n
  if psn % 2 ^ 24 = x.recvPsn then run s
  else if psnReached psn x.recvPsn then s.nakGap n
  else dup s

/-- A duplicate of a WRITE or a SEND is acknowledged again and not executed again. -/
def State.ackAgain (s : State) (n : Nat) : State := let x := s.qp n; s.sendFrame (.roceAck n (x.dst (x.recvPsn + 2 ^ 24 - 1)))

/-- A packet for a queue pair by its number on the wire; one for no queue pair that is open is dropped. -/
def State.onQp (s : State) (qpn : Nat) (f : Nat → State) : State :=
  if !s.portOn then s
  else match qpOfWire qpn with
    | some n => if (s.qp n).opened then f n else s.bump .ethRxDrops
    | none => s.bump .ethRxDrops

/-- An inbound WRITE or READ: a key that does not admit the range, or memory that does not answer, gives the access error NAK; what
else a queue pair in error receives is dropped. -/
def State.respond (s : State) (n psn rkey va len : Nat) (isWrite : Bool) (dup run : State → State) : State :=
  let x := s.qp n
  if !s.rkeyOk x rkey va len then s.nakAccess n psn
  else if x.error then s.bump .ethRxDrops
  else s.inSequence n psn dup fun s =>
    match s.accessErr [] va len isWrite with
    | some e => (s.noteErr e).nakAccess n psn
    | none => run s

/-- An inbound WRITE applied and acknowledged. -/
def State.rdmaWrite (s : State) (qpn psn rkey va : Nat) (data : List Byte) : State :=
  s.onQp qpn fun n => s.respond n psn rkey va data.length true (fun s => s.ackAgain n)
    fun s => (s.writeBytes va data).roceTaken n ((s.qp n).packets data.length) true

def execRdmaWrite (qpn psn rkey va : Nat) (data : List Byte) (s : State) : Host.Outcome State Fault Refusal :=
  .next (s.rdmaWrite qpn psn rkey va data)

/-- The data of an inbound READ. -/
def State.readOut (s : State) (n psn va len : Nat) : State := s.sendFrame (.roceData n ((s.qp n).dst psn) (s.readBytes va len))

/-- An inbound READ answered; a duplicate of one is answered again. -/
def State.rdmaRead (s : State) (qpn psn rkey va len : Nat) : State :=
  s.onQp qpn fun n => s.respond n psn rkey va len false (fun s => s.readOut n psn va len)
    fun s => (s.readOut n psn va len).roceTaken n ((s.qp n).packets len) false

def execRdmaRead (qpn psn rkey va len : Nat) (s : State) : Host.Outcome State Fault Refusal := .next (s.rdmaRead qpn psn rkey va len)

/-- The receive ring of a queue pair (Table 12.2): its address, entries and counter. -/
def Qp.recv (x : Qp) : Nat := x.num 32 8
def Qp.recvEntries (x : Qp) : Nat := x.num 40 2
def Qp.recvSync (x : Qp) : Nat := x.num 42 2

/-- Whether the receive ring is full: its counter, which rises with every SEND and falls as they are consumed, stands at its entries.
Without a counter the manual gives no sign of what was consumed, and the answer is a free value (log 2). -/
def State.ringFull (s : State) (x : Qp) : Bool :=
  if x.recvSync = 0xFFFF then Config.freeNat s.free % 2 == 1 else decide (x.recvEntries ≤ (s.ctr (64 * 256 + x.recvSync % 256)).value)

/-- A SEND into the next entry of the ring, and its signal. -/
def State.takeSend (s : State) (n psn : Nat) (data : List Byte) : State :=
  let x := s.qp n
  let a := x.recv + 4096 * (x.recvCount % x.recvEntries)
  match s.accessErr [] a data.length true with
  | some e => (s.noteErr e).nakAccess n psn
  | none =>
    let s1 := (s.writeBytes a data).setQp n { x with recvCount := x.recvCount + 1 }
    let s2 := if x.recvSync = 0xFFFF then s1 else s1.signalService x.recvSync
    s2.roceTaken n (x.packets data.length) true

/-- A SEND in sequence. -/
def State.sendRuns (s : State) (n psn : Nat) (data : List Byte) : State :=
  let x := s.qp n
  if 4096 < data.length || x.recv == 0 then s.nak n psn .invalidRequest
  else if s.ringFull x then s.tick.nak n psn .notReady
  else s.tick.takeSend n psn data

/-- An inbound SEND. -/
def State.sendArrives (s : State) (qpn psn : Nat) (data : List Byte) : State :=
  s.onQp qpn fun n => if (s.qp n).error then s.bump .ethRxDrops
    else s.inSequence n psn (fun s => s.ackAgain n) fun s => s.sendRuns n psn data

def execSend (qpn psn : Nat) (data : List Byte) (s : State) : Host.Outcome State Fault Refusal := .next (s.sendArrives qpn psn data)

/-- A request for an operation that the module lacks (R336). -/
def State.absentArrives (s : State) (qpn psn : Nat) : State :=
  s.onQp qpn fun n => if (s.qp n).error then s.bump .ethRxDrops
    else s.inSequence n psn (fun s => s.nak n psn .invalidRequest) fun s => s.nak n psn .invalidRequest

/-! ### Frames received (R331, R334) -/

/-- Whether the address that a frame is for is configured: one IPv4 address, one global IPv6 address, one link-local address. -/
def State.addrOn (s : State) (a : EthAddr) : Bool :=
  match a with
  | .v4 => s.get .ethIpv4Prefix != 0
  | .v6 => s.get .ethIpv6CfgPrefix != 0
  | .linkLocal => true

/-- Whether the port takes a frame: PFC frames carry no tag, others the port's VID or 0, an address of the port's, and an IP datagram no
longer than MTU. -/
def State.acceptsFrame (s : State) (f : EthFrame) : Bool :=
  f.supported && match f.kind with
    | .pfc _ _ => true
    | .fragment => false
    | .other => false
    | _ => (f.vid == s.get .ethCtlVid || f.vid == 0) && s.addrOn f.addr && decide (f.bytes ≤ s.get .ethCtlMtu)

/-- The CE mark of a RoCEv2 packet. -/
def State.ceMark (s : State) (qpn : Nat) (ce : Bool) : State := if ce then (qpOfWire qpn).elim s s.ceArrives else s

/-- What an accepted frame does. -/
def State.frameActs (s : State) (f : EthFrame) : State :=
  match f.kind with
  | .arp => s.sendFrame .echo
  | .neighbour => s.sendFrame .echo
  | .echo => s.sendFrame .echo
  | .synOther => s.sendFrame .rst
  | .pfc p pause => s.pfcArrives p pause
  | .roce qpn ce => s.ceMark qpn ce
  | .roceAbsent qpn psn ce => (s.ceMark qpn ce).absentArrives qpn psn
  | .cnp qpn => (qpOfWire qpn).elim s s.cnpArrives
  | .mgmt => s
  | .fragment => s
  | .other => s

/-- An Ethernet frame is received. -/
def State.ethFrame (s : State) (f : EthFrame) : State :=
  if !s.portOn then s
  else
    let s1 := (s.bump .ethRxFrames).bufferShare f.pcp f.share
    if s1.acceptsFrame f then s1.frameActs f else s1.bump .ethRxDrops

def execEthFrame (f : EthFrame) (s : State) : Host.Outcome State Fault Refusal := .next (s.ethFrame f)

/-! ### Requester (R340) -/

/-- A request of the module's on a queue pair, as it is sent: a READ or a WRITE of its remote range. -/
def RoceReq.packet (r : RoceReq) (n : Nat) (x : Qp) : Output :=
  if r.read then .roceRead n (x.dst r.psn) r.rkey r.va r.len else .roceWrite n (x.dst r.psn) r.rkey r.va r.len

/-- A request originated: it takes the next packet sequence numbers, and it signals the service counter that its service gives it, which
the manual does not name (log 105). -/
def State.originate (s : State) (n : Nat) (r0 : RoceReq) : State :=
  let x := s.qp n
  let r := { r0 with psn := x.sendPsn, sync := Config.roceCounter n }
  let s1 := s.setQp n { x with sendPsn := (x.sendPsn + x.packets r.len) % 2 ^ 24, out := x.out ++ [r] }
  s1.sendFrame (r.packet n x)

/-- The oldest request of a queue pair is done with. -/
def State.roceDone (s : State) (n : Nat) : State :=
  let x := s.qp n
  s.setQp n { x with out := x.out.drop 1, retries := 0, rnrRetries := 0 }

/-- The signal of a request that completes. -/
def State.roceSignal (s : State) (r : RoceReq) : State := r.sync.elim s fun c => s.signalService c

/-- An input of the data loader is in the local ring, or is no longer on its way. -/
def State.loaderGot (s : State) (r : RoceReq) (ok : Bool) : State :=
  if r.read then
    let v := s.svc
    { s with svc := { v with asked := v.asked.filter (· != r.idx), inputs := if ok && v.asked.contains r.idx then v.inputs ++ [r.idx] else v.inputs } }
  else s

/-- The WRITEs at the front that an acknowledgement of packet `psn` covers. -/
def Qp.covered (x : Qp) (psn : Nat) : List RoceReq :=
  x.out.takeWhile fun r => !r.read && psnReached psn (r.psn + x.packets r.len - 1)

/-- An acknowledgement of packet `psn` and of every one before it: the WRITEs that it covers are done, in order, each with its signal. -/
def State.roceAcked (s : State) (n psn : Nat) : State := ((s.qp n).covered psn).foldl (fun s r => (s.roceDone n).roceSignal r) s

/-- The packet before one. -/
def psnBefore (psn : Nat) : Nat := (psn + 2 ^ 24 - 1) % 2 ^ 24

/-- The requests outstanding are sent again, from the oldest. -/
def State.resend (s : State) (n : Nat) : State := let x := s.qp n; x.out.foldl (fun s r => s.sendFrame (r.packet n x)) s

/-- The oldest request is tried again, or its retries are exhausted (R340). -/
def State.roceRetry (s : State) (n : Nat) : State :=
  let x := s.qp n
  if x.out.isEmpty then s
  else if x.retries < x.num 7 1 % 8 then ((s.setQp n { x with retries := x.retries + 1 }).bump .ethRetransmits).resend n
  else s.qpError n Code.roceRetryExceeded

/-- The responder was not ready: the request is sent again, as often as the RNR retry count allows; 7 sets no limit. -/
def State.roceNotReady (s : State) (n : Nat) : State :=
  let x := s.qp n
  let limit := x.num 7 1 / 8 % 8
  if x.out.isEmpty then s
  else if limit = 7 ∨ x.rnrRetries < limit then ((s.setQp n { x with rnrRetries := x.rnrRetries + 1 }).bump .ethRetransmits).resend n
  else s.qpError n Code.roceRetryExceeded

/-- Read data arrives for the oldest request, a READ: once all of it is in memory the request completes; where memory does not take it,
the request ends without a signal. -/
def State.readLands (s : State) (n : Nat) (r : RoceReq) (bytes : List Byte) : State :=
  match s.accessErr [] r.place bytes.length true with
  | some e => ((s.noteErr e).roceDone n).loaderGot r false
  | none => (((s.writeBytes r.place bytes).roceDone n).loaderGot r true).roceSignal r

/-- A request fails by a NAK. -/
def State.roceNaked (s : State) (n : Nat) (r : RoceReq) : State := ((s.roceDone n).loaderGot r false).ethErr Code.roceRemoteAccess n

/-- Whether a packet sequence number is one of a request's. -/
def Qp.has (x : Qp) (r : RoceReq) (psn : Nat) : Bool := decide ((psn + 2 ^ 24 - r.psn % 2 ^ 24) % 2 ^ 24 < x.packets r.len)

/-- An acknowledgement, a NAK or read data arrives. -/
def State.roceReply (s : State) (n : Nat) (reply : RoceReply) : State :=
  match reply with
  | .ack psn => s.roceAcked n psn
  | .nak psn =>
    let s1 := s.roceAcked n (psnBefore psn)
    match (s1.qp n).out with
    | r :: _ => if (s1.qp n).has r psn then s1.roceNaked n r else s1
    | [] => s1
  | .rnr psn => (s.roceAcked n (psnBefore psn)).roceNotReady n
  | .seqNak psn => (s.roceAcked n (psnBefore psn)).roceRetry n
  | .data psn bytes =>
    let s1 := s.roceAcked n (psnBefore psn)
    match (s1.qp n).out with
    | r :: _ => if r.read && r.psn == psn % 2 ^ 24 && bytes.length == r.len then s1.readLands n r bytes else s1
    | [] => s1

def execRoceAck (qpn : Nat) (r : RoceReply) (s : State) : Host.Outcome State Fault Refusal :=
  .next (s.onQp qpn fun n => s.roceReply n r)

/-- A local ACK timeout (R340). -/
def execRoceRetryTimeout (qp : Nat) (s : State) : Host.Outcome State Fault Refusal := .next (s.roceRetry qp)

/-! ### Queue pairs (R337) -/

/-- Whether the fields of a QP_OPEN body lie in their ranges (Table 12.2). -/
def qpBodyOk (b : List Byte) : Bool :=
  let f := fun (o n : Nat) => leNat ((b.drop o).take n)
  decide (f 0 2 < 1024 ∧ 1 ≤ f 5 1 ∧ f 5 1 ≤ 3 ∧ 8 ≤ f 6 1 ∧ f 6 1 ≤ 24 ∧ f 7 1 < 64 ∧ f 24 4 < 2 ^ 24 ∧ f 28 4 < 2 ^ 24) &&
  f 32 8 % 4096 == 0 && (f 32 8 == 0 || decide (1 ≤ f 40 2 ∧ f 40 2 ≤ 4096)) && (f 42 2 == 0xFFFF || decide (f 42 2 < 256)) && f 44 4 == 0

/-- QP_OPEN. -/
def State.qpOpen (s : State) (n seq : Nat) (b : List Byte) : State :=
  let q := leNat (b.take 2)
  let x := Qp.ofBody b
  let e := s.ctx x.ctx
  if b.length ≠ 48 then s.reply n seq 0x0030 Code.sesLength []
  else if !qpBodyOk b || (s.qp q).opened then s.reply n seq 0x0030 Code.roceQpRange []
  else if s.get .capContextsCount ≤ x.ctx ∨ e.state ≠ .open ∨ e.gen ≠ x.gen then s.reply n seq 0x0030 Code.roceCtx []
  else (s.setQp q x).reply n seq 0x0030 0 []

def execQpOpen (n seq : Nat) (body : List Byte) (s : State) : Host.Outcome State Fault Refusal :=
  .next (s.command (.qpOpen n seq body) n seq 0x0030 fun s => s.qpOpen n seq body)

/-- QP_CLOSE. -/
def State.qpClose (s : State) (n seq q : Nat) : State :=
  if 1024 ≤ q || !(s.qp q).opened then s.reply n seq 0x0031 Code.roceQpRange []
  else ((s.failRoce q Code.roceQpError).setQp q {}).reply n seq 0x0031 0 []

def execQpClose (n seq qp : Nat) (s : State) : Host.Outcome State Fault Refusal :=
  .next (s.command (.qpClose n seq qp) n seq 0x0031 fun s => s.qpClose n seq qp)

/-! ### The link (R348, R358) -/

/-- The Ethernet link goes down. -/
def State.ethDown (s : State) : State :=
  if !s.pins.ethLink then s
  else
    let s1 : State := { s with pins := { s.pins with ethLink := false }, pausedPrio := [], pauseSent := [] }
    ((s1.bump .ethLinkDowns).ethErr Code.ethLinkDown 0xFFFF).alarm Code.ethLinkDown unitEth

def execEthLinkDown (s : State) : Host.Outcome State Fault Refusal := .next s.ethDown

/-- The Ethernet link comes up; `ms` is how long it was down. -/
def State.ethUp (s : State) (ms : Nat) : State :=
  if s.pins.ethLink || !s.domainOn domEth then s
  else
    let s1 : State := { s with pins := { s.pins with ethLink := true } }
    s1.event 3 Code.ethLinkDown (fieldOf (s1.word (Fld.ethLinkDowns.addr 0 0)) 47 0) ms

def execEthLinkUp (ms : Nat) (s : State) : Host.Outcome State Fault Refusal := .next (s.ethUp ms)

end Sys2Proof.Machine
end

