-- ==== Sys2Proof/Machine/Kernel.lean ====
section
/-!
DEFINITION. Kernels: launches, what ends one, and what a core sees of its tile's memory (R185 to R188).
-/

namespace Sys2Proof.Machine

/-! ### Launches (R186, R187) -/

/-- A kernel launch leaves its queue; with CORES 0 it is a no-op. -/
def State.kernelOp (s : State) (t q kind : Nat) : State :=
  match s.taking t q .launcher [kind] with
  | none => s
  | some (slot, o) =>
    let s1 := (s.leave t q slot o .launcher).1
    if (coresOf (kernelBody o.desc).cores).isEmpty then s1.modOp t slot fun o => { o with phase := .done } else s1

def execVectorKernel (t q : Nat) (s : State) : Host.Outcome State Fault Refusal := .next (s.kernelOp t q 2)

def execScalarKernel (t q : Nat) (s : State) : Host.Outcome State Fault Refusal := .next (s.kernelOp t q 3)

/-- The machine-mode registers as the tile runtime leaves them for a kernel: one PMP entry that grants user mode the whole tile-local
space, and the user-mode counters enabled (PRESUMED, log 14). -/
def runtimeCsr (m : SMap W64) : SMap W64 :=
  smPut (fun _ => 0) 0x306 7 (smPut (fun _ => 0) 0x3A0 0x1F (smPut (fun _ => 0) 0x3B0 (2 ^ 54 - 1) m))

/-- The registers of a core as a launch starts it, in user mode (R185, R186). -/
def startCore (b : KernelBody) (slot c : Nat) (csr : SMap W64) : Core :=
  let x : Core := { state := .running, slot := slot, pc := BitVec.ofNat 64 b.entry, csr := runtimeCsr csr }
  ((((x.setX 2 (BitVec.ofNat 64 (b.stackTop - c * b.stackKib * 1024))).setX 10 (BitVec.ofNat 64 b.arg0)).setX 11
    (BitVec.ofNat 64 b.arg1)).setX 12 (BitVec.ofNat 64 b.arg2)).setX 13 (BitVec.ofNat 64 c)

/-- Whether every core that a launch names, and for a vector launch the vector unit, is free (R186). -/
def State.coresFree (s : State) (t : Nat) (d : BitVec 512) : Bool :=
  ((coresOf (kernelBody d).cores).all fun c => (s.core t c).state == .idle) &&
  (dKind d != 2 || (s.tile t).vec.core.isNone)

/-- A waiting launch starts its cores; a vector launch binds the vector unit, whose state starts anew (R182, R186). -/
def State.kernelStart (s : State) (t slot : Nat) : State :=
  match s.op t slot with
  | none => s
  | some o =>
    let b := kernelBody o.desc
    if o.phase = .running && (dKind o.desc == 2 || dKind o.desc == 3) && !o.started && s.coresFree t o.desc then
      let s1 := (coresOf b.cores).foldl (fun s c => s.setCore t c (startCore b slot c (s.core t c).csr)) s
      let s2 := if dKind o.desc = 2 then
          s1.setTile t { s1.tile t with vec := { core := (coresOf b.cores).head? } }
        else s1
      s2.modOp t slot fun o => { o with started := true }
    else s

def execKernelStart (t slot : Nat) (s : State) : Host.Outcome State Fault Refusal := .next (s.kernelStart t slot)

/-! ### The store buffer (R185, R244, log 90) -/

/-- The oldest `n` stores of a core become visible to the other units. -/
def State.drainStores (s : State) (t c n : Nat) : State :=
  let k := s.core t c
  let s1 := (k.stores.take n).foldl (fun s x => s.store t c x.addr x.size x.value) s
  let rest := k.stores.drop n
  s1.setCore t c { s1.core t c with stores := rest, loadsWait := k.loadsWait && !rest.isEmpty }

/-- Every store of a core becomes visible. -/
def State.drainAll (s : State) (t c : Nat) : State :=
  if (s.core t c).stores.isEmpty then s else s.drainStores t c (s.core t c).stores.length

/-- Time passes with no command: every store buffer drains (log 90). -/
def State.idleTick (s : State) : State := s.cores.foldl (fun s e => s.drainAll (e.1 / 8) (e.1 % 8)) s

/-- A store enters the buffer of 16 entries; a full buffer drains its oldest first. -/
def State.bufferStore (s : State) (t c a n v : Nat) : State :=
  let s1 := if 16 ≤ (s.core t c).stores.length then s.drainStores t c 1 else s
  let k := s1.core t c
  s1.setCore t c { k with stores := k.stores ++ [⟨a, n, v⟩] }

/-- A free number of a core's oldest stores becomes visible; with an empty buffer nothing happens. -/
def State.drainSome (s : State) (t c : Nat) : State :=
  let n := (s.core t c).stores.length
  if n = 0 then s else s.tick.drainStores t c (Config.freeNat s.free % (n + 1))

/-- The stores of a slot's kernel, on every core of it, become visible. -/
def State.drainKernel (s : State) (t slot : Nat) : State :=
  (List.range 8).foldl (fun s c => if (s.core t c).state != .idle && (s.core t c).slot == slot then s.drainAll t c else s) s

/-! ### What ends a kernel (R186, R188, R189) -/

/-- A kernel fails: every core of it stops once its stores are acknowledged (R244), and its operation fails with the code. -/
def State.kernelFail (s : State) (t c code detail : Nat) : State :=
  let slot := (s.core t c).slot
  ((s.drainKernel t slot).stopCores t (some slot)).modOp t slot fun o => o.fail code detail

/-- A machine-mode register of a core. -/
def Core.getCsr (k : Core) (n : Nat) : W64 := smGet (fun _ => 0) k.csr n
def Core.setCsr (k : Core) (n : Nat) (v : W64) : Core := { k with csr := smPut (fun _ => 0) n v k.csr }

/-- Trap entry of the RISC-V privileged specification: mepc, mcause and mtval are written, mstatus saves the mode and the interrupt
enable, and machine mode goes on at mtvec (log 14). -/
def Core.trapped (k : Core) (cause tval : Nat) : Core :=
  let st := (k.getCsr 0x300).toNat
  let st' := st / 8192 * 8192 + (if k.machine then 3 else 0) * 2048 + st / 256 % 8 * 256 + st / 8 % 2 * 128 + st / 16 % 8 * 16 + st % 8
  let k1 := (((k.setCsr 0x341 k.pc).setCsr 0x342 (BitVec.ofNat 64 cause)).setCsr 0x343 (BitVec.ofNat 64 tval)).setCsr 0x300 (BitVec.ofNat 64 st')
  { k1 with machine := true, pc := k.getCsr 0x305 &&& ~~~3#64 }

/-- MRET: the pc and the mode that the trap saved. -/
def Core.returned (k : Core) : Core :=
  let st := (k.getCsr 0x300).toNat
  let m := st / 2048 % 4 == 3
  let st' := (if m then st / 8192 else st / 8192 - st / 2 ^ 17 % 2 * 16) * 8192 + st / 256 % 8 * 256 + 128 + st / 16 % 8 * 16 + st / 128 % 2 * 8 + st % 8
  { k.setCsr 0x300 (BitVec.ofNat 64 st') with machine := m, pc := k.getCsr 0x341 }

/-- An exception: trap entry. One in user mode also ends the kernel, and the tile records mepc, mcause and mtval (R186). -/
def State.coreTrap (s : State) (t c cause tval : Nat) : State :=
  let k := s.core t c
  let s1 := s.setCore t c (k.trapped cause tval)
  if k.machine then s1
  else ((s1.tileFault t Code.tileScalarFault k.slot (s.descAt t k.slot) 0xFF 0 0 k.pc).faultInfo t tval c (cause % 256)).kernelFail
    t c Code.tileScalarFault 0

/-- A kernel ended by a code of its own, with the code's detail (R188, R189, Table 8.9). -/
def State.coreEnd (s : State) (t c code : Nat) (detail : Nat := 0) : State :=
  let k := s.core t c
  ((s.tileFault t code k.slot (s.descAt t k.slot)).faultInfo t 0 c 0).kernelFail t c code detail

/-- A read that met an uncorrectable word ends the kernel (R164). -/
def State.coreUe (s : State) (t c : Nat) (e : MemErr) : State :=
  let k := s.core t c
  let s1 := s.noteErr e
  let addr := (e.tileAt.map Prod.snd).getD 0
  ((s1.tileFault t e.code.1 k.slot (s.descAt t k.slot)).faultInfo t addr c 0).kernelFail t c e.code.1 0

/-- A core ends its part of the kernel: the kernel completes when every named core has ended with 0, and every store is acknowledged
(R186, R244). -/
def State.coreExit (s0 : State) (t c : Nat) (v : W64) : State :=
  let s := s0.drainAll t c
  let k := s.core t c
  if v = 0 then
    let s1 := s.setCore t c { k with state := .exited, pc := k.pc + 4 }
    let cores := coresOf (kernelBody (s.descAt t k.slot)).cores
    if cores.all fun i => (s1.core t i).state == .exited && (s1.core t i).slot == k.slot then
      (s1.stopCores t (some k.slot)).modOp t k.slot fun o => { o with phase := .done }
    else s1
  else
    ((s.tileFault t Code.tileKernelExit k.slot (s.descAt t k.slot)).faultInfo t v.toNat c 0).kernelFail t c Code.tileKernelExit 0

/-! ### Tile-local memory as a core sees it (R162, R163) -/

/-- Whether a core or the vector unit may access `n` bytes at a tile-local address: anywhere in the scratchpad; in the
accumulator window 4 or 8 bytes, naturally aligned. -/
def State.localOk (s : State) (a n : Nat) : Bool :=
  decide (a + n ≤ s.get .capMemoryScratchKib * 1024) ||
  (decide (accumBase ≤ a ∧ a + n ≤ accumBase + accumSize) && (n == 4 || n == 8) && a % n == 0)

/-- The permissions that a PMP entry grants: read 1, write 2, execute 4; its matching mode in bits 4 to 3, its lock in bit 7. -/
def Core.pmpCfg (k : Core) (i : Nat) : Nat := (k.getCsr (0x3A0 + i / 8 * 2)).toNat / 256 ^ (i % 8) % 256

/-- The addresses of a PMP entry, from the first to past the last; none: the entry is off. -/
def Core.pmpRange (k : Core) (i : Nat) : Option (Nat × Nat) :=
  let a := (k.getCsr (0x3B0 + i)).toNat % 2 ^ 54
  match k.pmpCfg i / 8 % 4 with
  | 0 => none
  | 1 => some (if i = 0 then 0 else (k.getCsr (0x3B0 + i - 1)).toNat % 2 ^ 54 * 4, a * 4)
  | 2 => some (a * 4, a * 4 + 4)
  | _ =>
    let n := ((List.range 54).find? fun j => a / 2 ^ j % 2 == 0).getD 54
    some (a / 2 ^ n * 2 ^ n * 4, a / 2 ^ n * 2 ^ n * 4 + 2 ^ (n + 3))

/-- Whether the 16 PMP entries let a core access `n` bytes at an address with a permission: the lowest entry that matches some of the
bytes decides, and must match them all; with none, machine mode may and user mode may not (R185, log 14). -/
def Core.pmpOk (k : Core) (a n perm : Nat) : Bool :=
  match (List.range 16).findSome? fun i => (k.pmpRange i).bind fun r =>
      if decide (a < r.2 ∧ r.1 < a + n) then some (i, decide (r.1 ≤ a ∧ a + n ≤ r.2)) else none with
  | none => asMachine
  | some (i, whole) => whole && ((asMachine && k.pmpCfg i / 128 == 0) || k.pmpCfg i / perm % 2 == 1)
where
  /-- Machine mode, unless mstatus.MPRV makes a load or store act in the mode that MPP saves. -/
  asMachine : Bool :=
    let st := (k.getCsr 0x300).toNat
    k.machine && (perm == 4 || st / 2 ^ 17 % 2 == 0 || st / 2048 % 4 == 3)

/-- Whether a core may access `n` bytes at a tile-local address with a permission (R162, R163, R185). -/
def State.coreOk (s : State) (t c a n perm : Nat) : Bool := s.localOk a n && (s.core t c).pmpOk a n perm

/-- What a load finds. -/
inductive Ld where
  | ok (v : Nat)
  | fault
  | ue (e : MemErr)

/-- A load of `n` bytes at a tile-local address by a core, or by the vector unit for it. -/
def State.load (s : State) (ue : List Nat) (t c a n : Nat) : Ld :=
  if !s.coreOk t c a n 1 then .fault
  else match s.accessErr ue (tileAddr t a) n false with
    | some (.unmapped _) => .fault
    | some e => .ue e
    | none => .ok (s.readNat (tileAddr t a) n)

end Sys2Proof.Machine
end

