-- ==== Sys2Proof/Machine/Driver.lean ====
section
/-!
DEFINITION. The step driver's work within a step (R193 to R208, R219, R220): the plan, its graph, what the driver fixes in each
descriptor, when an operation is released and issued, the vector unit's own work, and the counts of the completion records. How a graph
is written belongs to the compiler; its form here is the model's (log 76).
-/

namespace Sys2Proof.Machine

/-! ### The plan (Table 7.1, Table 7.2) -/

/-- A field of the plan's header. -/
def Plan.num (p : Plan) (off n : Nat) : Nat := leNat ((p.bytes.drop off).take n)
def Plan.layers (p : Plan) : Nat := p.num 0 4
def Plan.batches (p : Plan) : Nat := p.num 4 2
def Plan.lookahead (p : Plan) : Nat := p.num 6 1
def Plan.group (p : Plan) : Nat := p.num 16 1
def Plan.fp16 (p : Plan) : Bool := p.num 7 1 == 2

/-- GRAD_FMT. -/
def Plan.gradFmt (p : Plan) : Nat := p.num 7 1

/-- A layer record's 32 bytes, and a field of a record. -/
def Plan.recs (p : Plan) : List (List Byte) := (List.range p.layers).map fun i => (p.bytes.drop (64 + 32 * i)).take 32
def recNum (r : List Byte) (off n : Nat) : Nat := leNat ((r.drop off).take n)
def recKind (r : List Byte) : Nat := recNum r 4 1
def recFlag (r : List Byte) (i : Nat) : Bool := (recNum r 6 1).testBit i

/-- The record and the shape of a layer by the record's index. -/
def Plan.layer (p : Plan) (e : Nat) : List Byte := (p.bytes.drop (64 + 32 * e)).take 32
def Plan.shape (p : Plan) (e : Nat) : LayerShape := p.graph.shapes.getD e { dIn := 0, dOut := 0 }

/-- Whether a layer forms its weight gradient once per step (R206). -/
def Plan.deferred (p : Plan) (e : Nat) : Bool := recFlag (p.layer e) 0

/-! ### Masks (R210) -/

/-- Whether a block of a layer is enabled: its layer is not masked, or its bit of the mask word is 1. -/
def State.blockOn (s : State) (e : Nat) (b : Nat × Nat) : Bool :=
  let ws := s.svc.masks.getD e []
  ws.isEmpty || (ws.getD b.1 0).testBit b.2

/-- Whether an operation is not issued in this step: it covers a block that the mask turns off. -/
def State.masked (s : State) (x : GraphNode) : Bool := x.blocks.any fun b => !s.blockOn x.entry b

/-! ### What each layer costs (R195, Table 7.4) -/

/-- Whether an operation is a part of a deferred layer's product. -/
def isDeferred : WorkRole → Bool
  | .deferred _ => true
  | _ => false

/-- The operations of a layer in a micro-batch that the mask leaves. -/
def State.layerNodes (s : State) (p : Plan) (e k : Nat) : List GraphNode :=
  p.graph.nodes.filter fun x => x.entry == e && x.batch == k && !s.masked x

/-- The passes, the FP32 additions and the FLOP of some operations. -/
def passesOf (xs : List GraphNode) : Nat := ((xs.filter fun x => dKind x.desc == 1 && x.vec.isNone).map fun x => (caskBody x.desc).vectors).sum
def addsOf (xs : List GraphNode) : Nat :=
  (xs.map fun x => match x.vec with
    | some (.sum ps _ n) => (ps.length - 1) * n
    | _ => 0).sum
def flopOf (xs : List GraphNode) : Nat :=
  ((xs.filter fun x => dKind x.desc == 0 && x.vec.isNone).map fun x =>
    let b := matrixBody x.desc
    2 * b.m * b.n * b.k).sum

/-- The part of Table 7.4 that an operation belongs to: 0 forward, 1 input gradient, 2 weight gradient. -/
def rolePart : WorkRole → Option Nat
  | .forward | .adapterUp => some 0
  | .inputGrad => some 1
  | .weightGrad => some 2
  | _ => none

/-- The enabled weights of a layer: those of its enabled blocks that lie within d_in and d_out (R210). -/
def State.weightsOn (s : State) (p : Plan) (e : Nat) : Nat :=
  let sh := p.shape e
  let cb := ceilDiv sh.dOut 1024
  ((List.range (ceilDiv sh.dIn 128)).flatMap fun i => (List.range (ceilDiv sh.dOut 128)).map fun j =>
    if s.blockOn e (i / 8 * cb + j / 8, 8 * (i % 8) + j % 8) then min 128 (sh.dIn - 128 * i) * min 128 (sh.dOut - 128 * j) else 0).sum

/-- The work of Table 7.4 for a layer and a micro-batch of T tokens: passes, FP32 additions and FLOP of a part, for every use (R207). -/
def State.tableWork (s : State) (p : Plan) (e k part : Nat) : Nat × Nat × Nat :=
  let r := p.layer e
  let sh := p.shape e
  let t := recNum r 7 1 * p.graph.tokens.getD k 0
  let rb := ceilDiv sh.dIn 1024
  let cb := ceilDiv sh.dOut 1024
  let off := p.deferred e && part == 2
  match recKind r with
  | 0 => if part = 0 then (t * rb * cb, (rb - 1) * sh.dOut * t, 0) else if part = 1 then (t * rb * cb, (cb - 1) * sh.dIn * t, 0) else (0, 0, 0)
  | 1 => if part = 0 then (t * rb * cb, (rb - 1) * sh.dOut * t, 0) else if part = 1 then (t * rb * cb, (cb - 1) * sh.dIn * t, 0)
    else (0, 0, if off then 0 else 2 * s.weightsOn p e * t)
  | 2 => (0, 0, if off then 0 else 2 * sh.dIn * sh.dOut * t)
  | 3 => (0, 0, if off then 0 else 2 * recNum r 12 2 * (sh.dIn + sh.dOut) * t)
  | 4 => (0, 0, if part = 2 then 0 else (part + 1) * 2 * sh.dIn * sh.dOut * sh.inner)
  | _ => (0, 0, 0)

/-- Whether the graph's operations of a layer in a micro-batch are the work of Table 7.4 and no other. The additions of an adapter's input
gradient (R208) and a VECTOR layer's kernels have no number there. -/
def State.workOk (s : State) (p : Plan) (e k : Nat) : Bool :=
  let xs := s.layerNodes p e k
  (List.range 3).all fun part =>
    let ys := xs.filter fun x => rolePart x.role == some part
    let w := s.tableWork p e k part
    passesOf ys == w.1 && flopOf ys == w.2.2 && (decide (1 < recKind (p.layer e)) || addsOf ys == w.2.1)

/-- Whether a kind of descriptor can be an operation of its role in its layer (Table 7.3, R206, R208, R215). -/
def roleOk (p : Plan) (x : GraphNode) : Bool :=
  let k := recKind (p.layer x.entry)
  let d := dKind x.desc
  let digital := k == 1 || k == 2 || k == 3
  match x.role, x.vec with
  | .forward, none => if k ≤ 1 then d == 1 else if k ≤ 4 then d == 0 else d == 2 || d == 3
  | .inputGrad, none => if k ≤ 1 then d == 1 else if k ≤ 4 then d == 0 else d == 2 || d == 3
  | .adapterUp, none => k == 3 && d == 0
  | .weightGrad, none => if digital then d == 0 && !p.deferred x.entry else k == 5 && (d == 2 || d == 3)
  | .deferred _, none => digital && d == 0 && p.deferred x.entry
  | .bucket, none => d == 5
  | .move, none => d == 4 || d == 6 || d == 7
  | .kernel, none => d == 2 || d == 3
  | .shardSend _, none => k == 1 && d == 4
  | .shardSum _, none => k == 1 && d == 5
  | .forward, some (.sum _ _ _) => decide (k ≤ 1)
  | .inputGrad, some (.sum _ _ _) => decide (k ≤ 1) || k == 3
  | .forward, some (.scale _ _ _) => k == 3
  | .inputGrad, some (.scale _ _ _) => k == 3
  | .inputGrad, some (.seed _ _ _) => true
  | .forward, some (.save _ _ _) => digital && p.deferred x.entry
  | .inputGrad, some (.save _ _ _) => digital && p.deferred x.entry
  | _, some _ => false

/-! ### What the driver fixes in a descriptor (R198, R199, R203, R205 to R208) -/

/-- A descriptor with bits [hi:lo] of the number at `off` replaced. -/
def dPut (d : BitVec 512) (off hi lo v : Nat) : BitVec 512 :=
  let u := 2 ^ (8 * off + lo)
  BitVec.ofNat 512 (d.toNat - dBits d off hi lo * u + v % 2 ^ (hi + 1 - lo) * u)

/-- The class of an operation: 2 forward and for a delta map on its way, 1 backward and for buckets (R198, R215). -/
def classOf (x : GraphNode) : Nat :=
  match x.role with
  | .shardSend _ => 2
  | .bucket | .deferred _ | .shardSum _ => 1
  | _ => if x.backward then 1 else 2

/-- The operations before one in the graph. -/
def graphBefore (g : Graph) (x : GraphNode) : List GraphNode := g.nodes.takeWhile fun y => y.id != x.id

/-- How many writers of its slots or sum an operation follows in the order of its counter (R199). -/
def State.chainPlace (s : State) (p : Plan) (x : GraphNode) : Nat :=
  ((graphBefore p.graph x).filter fun y => y.order == x.order && !s.masked y).length

/-- The slots of a weight gradient: those that its layer's shape gives to the part that the operation names (R205, R207). -/
def Plan.slotOf (p : Plan) (x : GraphNode) : Nat := ((p.shape x.entry).slots.getD x.place (0, 0, 0)).2.1

/-- The tile that issues an operation: for a product into slots, the tile of the slots (R207). -/
def Plan.tileOf (p : Plan) (x : GraphNode) : Nat :=
  match x.role with
  | .weightGrad | .deferred _ => ((p.shape x.entry).slots.getD x.place (x.tile, 0, 0)).1
  | _ => x.tile

/-- The up-projection of the adapter before one on the same cask layer, in ascending order of records (R208). -/
def Plan.lastUp (p : Plan) (x : GraphNode) : Option GraphNode :=
  let cask := recNum (p.layer x.entry) 8 4
  (p.graph.nodes.filter fun y => y.role == .adapterUp && y.batch == x.batch && decide (y.entry < x.entry) && recNum (p.layer y.entry) 8 4 == cask).foldl
    (fun a y => if a.elim true fun (z : GraphNode) => decide (z.entry ≤ y.entry) then some y else a) none

/-- A cask pass of a graph: the macro layer of its place, and its direction with FWD or GRAD_FMT (R203, R207). -/
def Plan.fixCask (p : Plan) (x : GraphNode) (d : BitVec 512) : BitVec 512 :=
  let m := (p.shape x.entry).places.getD x.place (0, 0, 0)
  let d1 := dPut (dPut (dPut d 24 7 0 m.1) 26 15 0 m.2.1) 25 2 0 m.2.2
  if x.role = .inputGrad then
    dPut (dPut (dPut (dPut d1 28 1 0 2) 28 2 2 1) 29 2 0 (p.gradFmt - 1)) 30 3 0 p.gradFmt
  else dPut (dPut d1 28 1 0 (recNum (p.layer x.entry) 5 1)) 28 2 2 0

/-- ACC_MODE of a product into slots: 1 for the first product of micro-batch 0 and 2 for the later ones (R205, R207); the parts of a
deferred product are chained, and the last one drains (R206). -/
def Plan.accMode (p : Plan) (x : GraphNode) : Nat :=
  match x.role with
  | .deferred n =>
    let all := (p.graph.nodes.filter fun y => y.entry == x.entry && y.place == x.place && isDeferred y.role).length
    if all ≤ 1 then 0 else if n = 0 then 1 else if n + 1 = all then 3 else 2
  | _ =>
    let prior := (graphBefore p.graph x).any fun y => y.role == .weightGrad && y.entry == x.entry && y.place == x.place && y.batch == 0
    if x.batch = 0 ∧ prior = false then 1 else 2

/-- A matrix product of a graph: its formats, its slots and its addend (R203, R205 to R208). Its gradient operand is A. -/
def Plan.fixMatrix (p : Plan) (x : GraphNode) (d : BitVec 512) : BitVec 512 :=
  let fwd := recNum (p.layer x.entry) 5 1
  let g := p.gradFmt
  match x.role with
  | .forward =>
    let d1 := dPut (dPut d 32 3 0 fwd) 33 3 0 fwd
    if recKind (p.layer x.entry) = 3 then dPut d1 34 3 0 1 else d1
  | .adapterUp =>
    let d1 := dPut (dPut (dPut (dPut d 32 3 0 fwd) 33 3 0 fwd) 34 3 0 0) 35 2 0 4
    match p.lastUp x with
    | some y => dPut d1 48 31 0 (matrixBody y.desc).cOff
    | none => d1
  | .inputGrad => if dBits d 34 3 0 = 0 then dPut d 32 3 0 g else dPut (dPut d 32 3 0 g) 34 3 0 g
  | .weightGrad => dPut (dPut (dPut (dPut d 32 3 0 g) 35 2 0 (p.accMode x)) 52 15 0 (p.slotOf x)) 54 7 0 0
  | .deferred _ => dPut (dPut (dPut (dPut d 32 3 0 g) 34 3 0 g) 35 2 0 (p.accMode x)) 52 15 0 (p.slotOf x)
  | _ => d

/-- A bucket operation of a graph: the plan's group, and the slots or the format of its source (R203, R205). -/
def Plan.fixBucket (p : Plan) (x : GraphNode) (d : BitVec 512) : BitVec 512 :=
  let k := recKind (p.layer x.entry)
  let d1 := dPut d 25 7 0 p.group
  if dBits d 24 7 0 ≠ 1 ∨ k = 0 ∨ 3 < k ∨ x.role ≠ .bucket then d1
  else if p.deferred x.entry then dPut (dPut d1 36 6 6 0) 36 3 0 p.gradFmt
  else dPut (dPut d1 36 6 6 1) 38 15 0 (p.slotOf x)

/-- An OPEN of a bucket with PREPASS set where R311 and R327 require it: SCALE holds no bytes of the bucket's last use (R355). -/
def State.fixOpen (s : State) (d : BitVec 512) : BitVec 512 :=
  if dBits d 24 7 0 = 0 ∧ (dField d 25 1, dField d 26 2) ∉ s.svc.scaled then dPut d 36 1 1 1 else d

/-- The descriptor of an operation as the step driver issues it: class and record for every one, its order's counter, then its kind's
fields. -/
def State.fixed (s : State) (p : Plan) (x : GraphNode) : BitVec 512 :=
  let d0 := dPut x.desc 1 2 0 (classOf x + 4)
  let d1 := x.order.elim d0 fun c => dPut (dPut (dPut (dPut (dPut d0 12 15 0 c) 14 15 0 (s.chainPlace p x)) 6 1 1 0) 18 15 0 c) 21 7 0 1
  match dKind d1 with
  | 0 => p.fixMatrix x d1
  | 1 => p.fixCask x d1
  | 5 => s.fixOpen (p.fixBucket x d1)
  | _ => d1

/-! ### The vector unit's work (R196, R204, R206, R208) -/

/-- FP32 elements written to memory. -/
def State.writeF32s (s : State) (a : Nat) (xs : List FVal) : State := s.writeBytes a (xs.flatMap fun x => leBytes 4 (f32Code x))

/-- One element of a sum: the partial outputs added in FP32 with RNE, in ascending order of their blocks, from the first (R196). -/
def State.sumElem (s : State) (ftz : Bool) (parts : List Nat) (i : Nat) : FVal × Nat :=
  let rd := fun (a : Nat) => readOperand 0 ftz (s.readNat (a + 4 * i) 4)
  match parts with
  | [] => (.fin false 0 0, 0)
  | a :: rest => rest.foldl (fun acc b =>
      let y := rd b
      let z := r32 ftz (acc.1.add y.1)
      (z.1, acc.2 ||| y.2 ||| z.2)) (rd a)

/-- A micro-batch's tokens padded to a multiple of 32 (R206). -/
def Plan.padded (p : Plan) (k : Nat) : Nat := alignUp (p.graph.tokens.getD k 0) 32

/-- The vector work of an operation done, and its flags raised. -/
def State.vecWork (s : State) (p : Plan) (x : GraphNode) (w : VecWork) : State :=
  let ftz := (s.numMode x.tile).ftz
  match w with
  | .sum parts out n =>
    let ys := (List.range n).map (s.sumElem ftz parts)
    (s.writeF32s out (ys.map Prod.fst)).raiseFlags x.tile (ys.foldl (fun f y => f ||| y.2) 0)
  | .scale src out n =>
    let alpha := FFmt.bf16.decode (recNum (p.layer x.entry) 14 2)
    let ys := (List.range n).map fun i =>
      let h := readOperand 1 ftz (s.readNat (src + 2 * i) 2)
      let y := r32 ftz (alpha.mul h.1)
      let z := encodePlain 1 ftz 0 0 y.1
      (z.1, h.2 ||| y.2 ||| z.2)
    (s.writeBytes out (ys.flatMap fun y => leBytes 2 y.1)).raiseFlags x.tile (ys.foldl (fun f y => f ||| y.2) 0)
  | .seed src out n =>
    let ys := (List.range n).map fun i =>
      let g := readOperand 0 ftz (s.readNat (src + 4 * i) 4)
      let y := r32 ftz (g.1.shift (-(s.svc.lossScale : Int)))
      let z := encodePlain p.gradFmt ftz 0 0 y.1
      (z.1, g.2 ||| y.2 ||| z.2)
    (s.writeBytes out (ys.flatMap fun y => leBytes 2 y.1)).raiseFlags x.tile (ys.foldl (fun f y => f ||| y.2) 0)
  | .save src out row =>
    let n := p.graph.tokens.getD x.batch 0 * row
    let len := p.padded x.batch * row
    let s1 := s.writeBytes out (s.readBytes src n ++ leBytes (len - n) 0)
    { s1 with svc := { s1.svc with saves := s1.svc.saves ++ [(x.entry, out, len)] } }

/-! ### Release and issue (R197, R198) -/

/-- Whether the exchange of a sharded layer (R215) is what an operation belongs to: it outlives its step. -/
def isShard : WorkRole → Bool
  | .shardSend _ | .shardSum _ => true
  | _ => false

/-- Whether a pushed operation is over: its queue has fetched past it, and no slot holds it. -/
def State.itemOver (s : State) (p : Plan) (x : WorkItem) : Bool :=
  let t := p.tileOf x.node
  let q := x.node.queue
  match x.seq with
  | none => false
  | some n => decide ((s.get .opqPosFetched t q + 2 ^ 32 - n - 1) % 2 ^ 32 < 2 ^ 31) &&
      !((s.tile t).ops.any fun o => o.2.queue == q && o.2.seq == n)

/-- Whether a part of a micro-batch has completed: none of its released operations is left. -/
def State.partOver (s : State) (backward : Bool) (k : Nat) : Bool :=
  !s.svc.work.any fun x => x.node.backward == backward && x.node.batch == k && !isShard x.node.role

/-- Whether two operations write one slot, or add into one sum, with no counter to order them (R199). -/
def clash (x y : GraphNode) : Bool :=
  let slots := fun (z : GraphNode) => z.role == .weightGrad || isDeferred z.role
  (x.order.isNone || x.order != y.order) &&
  (match x.vec, y.vec with
   | some (.sum _ a _), some (.sum _ b _) => a == b
   | none, none => x.entry == y.entry && x.place == y.place && slots x && slots y
   | _, _ => false)

/-- Whether an operation of the released work may be issued: those before it are over; in B(k) the layers that consume the output of its
layer have formed their input gradients (R197); a deferred product and a bucket wait until the backward pass has passed the layer (R205,
R206); no earlier operation writes the same slots or sum unordered (R199). -/
def State.ready (s : State) (p : Plan) (x : WorkItem) : Bool :=
  let w := s.svc.work
  let n := x.node
  let left := fun (e : Nat) (f : WorkRole → Bool) => w.any fun y => y.node.id != n.id && y.node.entry == e && y.node.backward && f y.node.role
  let late := match n.role with
    | .deferred _ => left n.entry (fun r => r == .inputGrad || r == .weightGrad)
    | .bucket => left n.entry (fun r => r == .inputGrad || r == .weightGrad || isDeferred r)
    | _ => false
  !(n.after.any fun i => w.any fun y => y.node.id == i) && !late &&
  !(n.backward && (p.shape n.entry).consumers.any fun e => w.any fun y => y.node.entry == e && y.node.batch == n.batch && y.node.role == .inputGrad) &&
  !((w.takeWhile fun y => y.node.id != n.id).any fun y => clash y.node n)

/-- An operation leaves the released work. -/
def State.dropItem (s : State) (id : Nat) : State :=
  { s with svc := { s.svc with work := s.svc.work.filter fun y => y.node.id != id } }

/-- An operation issued: vector work is done, and its descriptor's signals sent; another's descriptor is pushed at its queue's TAIL, as soon
as the ring has room. An operation that the mask turns off, or that is not the work of Table 7.4, is not issued (log 76). -/
def State.issue (s : State) (p : Plan) (x : WorkItem) : State :=
  let n := x.node
  let t := p.tileOf n
  let q := n.queue
  if s.masked n || !roleOk p n || ((rolePart n.role).isSome && !s.workOk p n.entry n.batch) then s.dropItem n.id
  else match n.vec with
    | some w => ((s.vecWork p n w).sendSignals (s.fixed p n)).1.dropItem n.id
    | none =>
      let tail := s.get .opqTailTail t q
      let a := s.ringAddr t q tail
      if !s.domainOn (domTile t) || (s.tailRefusal t q ((tail + 1) % 2 ^ 32)).isSome || (s.accessErr [] a 64 true).isSome then s
      else
        let s1 := (s.writeBytes a (leBytes 64 (s.fixed p n).toNat)).set .opqTailTail t q ((tail + 1) % 2 ^ 32)
        { s1 with svc := { s1.svc with work := s1.svc.work.map fun y => if y.node.id = n.id then { y with seq := some tail } else y } }

/-- Every released operation that may be issued is issued, in the graph's order. -/
def State.issueAll (s : State) (p : Plan) : State :=
  s.svc.work.foldl (fun s x => if x.seq.isNone && s.ready p x then s.issue p x else s) s

/-! ### The records of the work (R219, R220) -/

/-- One completion record counted: NONFINITE, and for a repeated cask pass the formats that it went through (R79, R220). -/
def State.countRecord (s : State) (x : WorkItem) (bs : List Byte) : State :=
  let e := x.node.entry
  let at_ := fun (i n : Nat) => leNat ((bs.drop i).take n)
  let fmt := at_ 5 1
  let s1 := if (at_ 6 2).testBit 3 then s.count e Cnt.nonfinite 1 else s
  if dKind x.node.desc ≠ 1 ∨ (at_ 11 1).testBit 0 = false then s1
  else
    let f4 := (caskBody x.node.desc).inMode == 0
    let s2 := if f4 then s1.count e Cnt.repeatsF8 1 else s1
    if fmt = 1 then s2.count e Cnt.repeatsBf16 1 else s2

/-- The records of one queue read and counted, and RPTR moved past them. -/
def State.collectRing (s : State) (p : Plan) (t q : Nat) : State :=
  let r := s.get .opqRecPtrRptr t q
  let n := (s.get .opqRecPtrWptr t q + 2 ^ 32 - r) % 2 ^ 32
  let size := 2 ^ s.get .opqRecRecLog2 t q
  let s1 := (List.range (min n size)).foldl (fun s i =>
    let bs := s.readBytes (s.get .opqRecBase t q * 64 + 32 * ((r + i) % size)) 32
    match s.svc.work.find? fun x => p.tileOf x.node == t && x.node.queue == q && x.seq == some (leNat ((bs.drop 12).take 4)) with
    | some x => s.countRecord x bs
    | none => s) s
  if n = 0 then s1 else s1.set .opqRecPtrRptr t q ((r + n) % 2 ^ 32)

/-- The saved operands of deferred layers whose products are over are released (R206). -/
def State.freeSaves (s : State) (ended : List WorkItem) : State :=
  let done := (ended.filter fun x => isDeferred x.node.role).map fun x => x.node.entry
  let left := fun (e : Nat) => s.svc.work.any fun y => y.node.entry == e && isDeferred y.node.role
  { s with svc := { s.svc with saves := s.svc.saves.filter fun v => !(done.contains v.1 && !left v.1) } }

/-- What has completed is counted and leaves the released work. -/
def State.collect (s : State) (p : Plan) : State :=
  let rings := ((s.svc.work.filter fun x => x.seq.isSome).map fun x => (p.tileOf x.node, x.node.queue)).eraseDups
  let s1 := rings.foldl (fun s r => s.collectRing p r.1 r.2) s
  let ended := s1.svc.work.filter (s1.itemOver p)
  let s2 : State := { s1 with svc := { s1.svc with work := s1.svc.work.filter fun x => !s1.itemOver p x } }
  s2.freeSaves ended

/-- Operations of the graph released, in its order, where they are not in the work already. -/
def State.addWork (s : State) (p : Plan) (f : GraphNode → Bool) : State :=
  let new := p.graph.nodes.filter fun n => f n && !s.svc.work.any fun y => y.node.id == n.id
  { s with svc := { s.svc with work := s.svc.work ++ new.map fun n => { node := n } } }

/-- The counters that order the writers of a slot or sum stand at 0 when a step starts (R199). -/
def State.clearOrders (s : State) (p : Plan) : State :=
  ((p.graph.nodes.filterMap GraphNode.order).eraseDups.filter fun c => s.idValid c && !s.idOff c).foldl
    (fun s c => s.setCtr c { s.ctr c with value := 0 }) s

end Sys2Proof.Machine
end

