-- ==== Sys2Proof/Machine/StepEnd.lean ====
section
/-!
DEFINITION. What the end of a step asks of the step driver (R204, R209 to R217, R219): the optimiser's updates, the selection of flushes,
the folds and the exchange of a sharded layer, and the report.
-/

namespace Sys2Proof.Machine

/-! ### The optimiser (R204, R209, R210, R214, R217) -/

/-- An FP32 value from its code. -/
def f32Of (b : Nat) : FVal := FFmt.f32.decode (b % 2 ^ 32)

/-- One reduced gradient: a NaN counts as 0 where NONFINITE_APPLY is 1 (R217), and 2^−S is multiplied in FP32 (R204). -/
def State.gradVal (s : State) (p : Plan) (a i : Nat) : FVal :=
  let f := if p.fp16 then FFmt.fp16 else FFmt.bf16
  let g := f.decode (s.readNat (a + 2 * i) 2)
  let g := if g.isNan && (s.groupMode p.group).testBit 3 then .fin false 0 0 else g
  if p.fp16 then (r32 false (g.shift (s.svc.lossScale : Int))).1 else g

/-- Whether moments are stored in F8a (OPT_FMT). -/
def Plan.f8Moments (p : Plan) : Bool := p.num 13 1 == 3

/-- A moment of weight `o` of `n`: BF16, or F8a elements with the scale bytes of their blocks of 32 behind them (R214; log 100). -/
def State.moment (s : State) (p : Plan) (a n o : Nat) : FVal :=
  if p.f8Moments then scaleElem FFmt.f8a (s.readByte (a + n + o / 32)).toNat (s.readByte (a + o)).toNat
  else FFmt.bf16.decode (s.readNat (a + 2 * o) 2)

/-- The moments of consecutive weights stored with SR, from a block's start; the second part is what was stored (R214). -/
def State.putMoments (s : State) (p : Plan) (a n o : Nat) (draws : List Nat) (xs : List FVal) : State × List FVal :=
  if p.f8Moments then
    let b := encodeBlock 3 2 draws xs
    ((s.writeBytes (a + o) (b.2.1.map (BitVec.ofNat 8))).writeBytes (a + n + o / 32) (leBytes 1 b.1),
     b.2.1.map (scaleElem FFmt.f8a b.1))
  else
    let cs := (xs.zip draws).map fun x => (FFmt.bf16.round (.sr x.2) x.1).bits
    (s.writeBytes (a + 2 * o) (cs.flatMap (leBytes 2)), cs.map FFmt.bf16.decode)

/-- The update of one weight: u = −c × m in FP32, and with a first moment in F8a the loss of its storing, −c × β1 ÷ (1 − β1) × δ, added
(R214). -/
def updateOf (f8 : Bool) (c k m stored : FVal) : FVal :=
  let u := (r32 false (c.mul m)).1.negate
  if f8 then
    let delta := (r32 false (m.add stored.negate)).1
    let term := (r32 false ((r32 false (c.mul k)).1.mul delta)).1
    (r32 false (u.add term.negate)).1
  else u

/-- The place of weight `o` of a macro layer in its reduced gradient: the enabled blocks in the order of their mask bits, each of 128 × 128
weights by rows (R210; log 100). -/
def State.gradPlace (s : State) (e word o : Nat) : Nat :=
  let i := o / 1024
  let j := o % 1024
  let b := 8 * (i / 128) + j / 128
  let rank := ((List.range b).filter fun x => s.blockOn e (word, x)).length
  rank * 16384 + i % 128 * 128 + j % 128

/-- The 32 weights from `o` updated: their moments stored, then the weights with SR (R209, R214). The draws are the optimiser's: free
values (log 2). -/
def State.optBlock (s : State) (p : Plan) (t : WeightTarget) (place : Nat → Nat) (o : Nat) : State :=
  let os := ((List.range 32).map (o + ·)).filter (· < t.count)
  let draws := fun (k : Nat) => (List.range 32).map fun i => Config.freeNat (s.free + 32 * k + i) % 65536
  let rs := os.map fun o => Config.optim (f32Code (s.gradVal p t.grad (place o))) (f32Code (s.moment p t.mom1 t.count o))
    (f32Code (s.moment p t.mom2 t.count o)) s.svc.step
  let m := s.putMoments p t.mom1 t.count o (draws 0) (rs.map fun r => f32Of r.1)
  let v := m.1.putMoments p t.mom2 t.count o (draws 1) (rs.map fun r => f32Of r.2.1)
  let ws := ((os.zip (rs.zip m.2)).zip (draws 2)).map fun x =>
    let r := x.1.2.1
    let u := updateOf p.f8Moments (f32Of r.2.2.1) (f32Of r.2.2.2) (f32Of r.1) x.1.2.2
    let w := FFmt.bf16.decode (s.readNat (t.addr + 2 * x.1.1) 2)
    (FFmt.bf16.round (.sr x.2) (r32 false (w.add u)).1).bits
  { v.1.writeBytes (t.addr + 2 * o) (ws.flatMap (leBytes 2)) with free := s.free + 96 }

/-- The weights, or the residual, of a target updated; blocks that the mask turns off stay as they are. -/
def State.optimise (s : State) (p : Plan) (t : WeightTarget) (place : Nat → Nat) (on : Nat → Bool) : State :=
  ((List.range (ceilDiv t.count 32)).filter fun i => on (32 * i)).foldl (fun s i => s.optBlock p t place (32 * i)) s

/-- The mask bit of a weight of a macro layer. -/
def maskBit (o : Nat) : Nat := 8 * (o / 1024 / 128) + o % 1024 / 128

/-- The residual of a macro layer as the optimiser's target. -/
def residTarget (f : FlushTarget) : WeightTarget :=
  { entry := f.entry, addr := f.residual, count := 0x100000, grad := f.grad, mom1 := f.mom1, mom2 := f.mom2 }

/-- The optimiser's run at the end of a step: every residual that this module holds, and the weights in memory. -/
def State.optimiser (s : State) (p : Plan) : State :=
  let s1 := (p.graph.flushes.filter fun f => f.share != 2).foldl (fun s f =>
    s.optimise p (residTarget f) (s.gradPlace f.entry f.word) fun o => s.blockOn f.entry (f.word, maskBit o)) s
  p.graph.weights.foldl (fun s t => s.optimise p t id fun _ => true) s1

/-! ### Flushes (R150, R211, R213, R215) -/

/-- The macro layer of a flush; the residual of one of its weights (R209) and that weight's column scale. -/
def flushKey (t : FlushTarget) : Nat := layerKey t.die t.mac t.layer
def State.resid (s : State) (t : FlushTarget) (o : Nat) : FVal := FFmt.bf16.decode (s.readNat (t.residual + 2 * o) 2)
def State.residScale (s : State) (t : FlushTarget) (o : Nat) : FVal := s.scaleVal (flushKey t) (o % 1024)

/-- The delta of a weight (R150, R210); where a residual is not finite, or a scale is 0, the manual gives no quotient: a free value within
the limit (log 2). -/
def State.deltaOf (s : State) (t : FlushTarget) (o : Nat) : Int :=
  let r := s.resid t o
  let c := s.residScale t o
  let l := s.sbyte (t.levelmap + o)
  let d : Int := if !r.isFinite || !c.isFinite || c.isZero then (Config.openResult (s.readNat (t.residual + 2 * o) 2) (o % 1024) 0 : Int)
    else if c.toRat / 2 < r.abs.toRat then rneRat (r.toRat / c.toRat) else 0
  if d = 0 || !s.blockOn t.entry (t.word, maskBit o) then 0 else clampInt (-15) 15 (l + d) - l

/-- Whether a weight's residual alone asks for a flush (R211). -/
def State.residLarge (s : State) (t : FlushTarget) (o : Nat) : Bool :=
  let r := s.resid t o
  let c := s.residScale t o
  !r.isFinite || decide (2 * c.toRat ≤ r.abs.toRat)

/-- Whether a macro layer's previous request is still queued or held, or is not folded yet. -/
def State.flushBusy (s : State) (t : FlushTarget) : Bool :=
  ((s.die t.die).reqs.any fun q => q.mac == t.mac && (q.layer == t.layer || q.kind == 4)) ||
  s.svc.folds.any fun x => flushKey x.target == flushKey t

/-- Whether the passes of a layer wait for its flushes: FLUSH_OVERLAP is 0 (R212). -/
def Plan.flushWaits (p : Plan) (e : Nat) : Bool := !recFlag (p.layer e) 1

/-- The operations that exchange a macro layer's map or its e′, by the number of its target among the graph's flushes (R215). -/
def flushIndex (p : Plan) (t : FlushTarget) : Nat := p.graph.flushes.findIdx fun f => flushKey f == flushKey t

/-- A macro layer whose flush ended, or was refused, before it is folded. A sharded one forms e′ for every weight in FP32 from its ERRMAP,
or as −256 × d where nothing was flushed, and its reduction is released (R215 steps 4 and 5). -/
def State.shareErrs (s : State) (p : Plan) (t : FlushTarget) (done : Bool) : State :=
  let d := fun (o : Nat) => s.sbyte ((if t.share = 2 then t.grad else t.source) + o)
  let e := fun (o : Nat) => if d o = 0 then 0
    else if done then signed 16 (s.readNat (t.errmap + 2 * o) 2) + 256 * (s.sbyte (t.source + o) - d o) else -256 * d o
  let s1 := s.writeF32s t.eprime ((List.range 0x100000).map fun o => FVal.ofInt (e o) 0)
  s1.addWork p fun n => n.role == .shardSum (flushIndex p t)

/-- A FLUSH described in the CWR_REQ registers and pushed (Table 5.6); the report counts it (R213, R219). -/
def State.pushFlush (s : State) (p : Plan) (t : FlushTarget) : State :=
  let d := t.die
  let s1 := ((s.set .cwrReqTargetKind d 0 0).set .cwrReqTargetMacro d 0 t.mac).set .cwrReqTargetLayer d 0 t.layer
  let s2 := ((s1.set .cwrReqSource d 0 t.source).set .cwrReqLevelmap d 0 t.levelmap).set .cwrReqScales d 0 t.scales
  let s3 := ((s2.set .cwrReqErrmap d 0 t.errmap).set .cwrReqRecord d 0 t.record).set .cwrReqSignalEnable d 0 0
  let s4 := s3.cwrPush d
  let fold : Fold := { target := t, step := s.svc.step }
  if s4.get .cwrReqStatusCode d = 0 ∧ s4.domainOn (domCask d) then
    let s5 := s4.count t.entry Cnt.pushed 1
    { s5 with svc := { s5.svc with folds := s5.svc.folds ++ [fold],
                                   holds := s5.svc.holds ++ (if p.flushWaits t.entry then [flushKey t] else []) } }
  else
    let s5 := s4.count t.entry Cnt.refused 1
    if t.share = 0 then s5
    else { s5.shareErrs p t false with svc := { (s5.shareErrs p t false).svc with folds := s5.svc.folds ++ [{ fold with reducing := true }] } }

/-- Whether the buffers that a delta is built from and into answer. -/
def State.deltaBuffers (s : State) (t : FlushTarget) : Bool :=
  (s.accessErr [] t.levelmap 0x100000 false).isNone && (s.accessErr [] t.source 0x100000 true).isNone &&
  (s.accessErr [] (if t.share = 2 then t.grad else t.residual) 0x100000 false).isNone

/-- A macro layer whose residual this module holds: the delta is built, and a FLUSH pushed where R211 asks for one. The owner of a sharded
one sends its map to every member (R215 step 2). -/
def State.ownFlush (s : State) (p : Plan) (t : FlushTarget) : State :=
  let ds := (List.range 0x100000).map (s.deltaOf t)
  let asks := decide (p.num 8 4 ≤ (ds.filter (· != 0)).length) || (List.range 0x100000).any (s.residLarge t)
  if !asks then s
  else
    let s1 := s.writeBytes t.source (ds.map fun d => BitVec.ofInt 8 d)
    (if t.share = 1 then s1.addWork p fun n => n.role == .shardSend (flushIndex p t) else s1).pushFlush p t

/-- A member's copy of the owner's delta map, limited to its own levels and pushed (R215 step 3). -/
def State.memberFlush (s : State) (p : Plan) (t : FlushTarget) : State :=
  let lim := fun (o : Nat) =>
    let l := s.sbyte (t.levelmap + o)
    BitVec.ofInt 8 (clampInt (-15) 15 (l + s.sbyte (t.grad + o)) - l)
  (s.writeBytes t.source ((List.range 0x100000).map lim)).pushFlush p t

/-- One macro layer at the end of a step. -/
def State.flushOne (s : State) (p : Plan) (t : FlushTarget) : State :=
  if s.flushBusy t || !s.deltaBuffers t then s else s.ownFlush p t

/-- The macro layers of the kind 1 layers whose residual this module holds, in ascending macro-layer order (R211). -/
def Plan.ownTargets (p : Plan) : List FlushTarget :=
  sortBy flushKey ((List.range p.layers).flatMap fun e =>
    if recKind (p.layer e) = 1 then
      (List.range (recNum (p.layer e) 24 4)).filterMap fun q => p.graph.flushes.find? fun f => f.entry == e && f.word == q && f.share != 2
    else [])

/-- The owner's maps that have arrived on this member: each is taken, and its counter consumed (R215 step 3). -/
def State.memberFlushes (s : State) (p : Plan) : State :=
  (sortBy flushKey (p.graph.flushes.filter fun f => f.share == 2)).foldl (fun s f =>
    if s.wait f.gate 1 != .met || f.gate == 0xFFFF || s.flushBusy f || !s.deltaBuffers f then s
    else (s.consume f.gate 1 true).memberFlush p f) s

/-! ### Folds (R150, R211, R213, R215) -/

/-- One weight's residual folded: r − (d + e ÷ 256) × s in FP32, stored with SR; the draw is the service core's, a free value (R150; log 2).
`e` is the mean error over the group, this module's own for a layer that is not sharded. -/
def State.foldWeight (t : FlushTarget) (e : State → Nat → FVal) (s : State) (o : Nat) : State :=
  let d := s.sbyte (t.source + o)
  if d = 0 then s
  else
    let x := ((r32 false ((FVal.ofInt (256 * d) 0).add (e s o))).1).shift 8
    let y := (r32 false (x.mul (s.residScale t o))).1
    let z := (r32 false ((s.resid t o).add y.negate)).1
    let b := (FFmt.bf16.round (.sr (Config.freeNat s.free % 65536)) z).bits
    s.tick.writeBytes (t.residual + 2 * o) (leBytes 2 b)

/-- The error of a weight from ERRMAP; the mean over a group of `n` from the reduced sum of e′, in FP32 (R215 step 6). -/
def ownErr (t : FlushTarget) (s : State) (o : Nat) : FVal := FVal.ofInt (signed 16 (s.readNat (t.errmap + 2 * o) 2)) 0
def meanErr (p : Plan) (n : Nat) (t : FlushTarget) (s : State) (o : Nat) : FVal :=
  let f := if p.fp16 then FFmt.fp16 else FFmt.bf16
  (r32 false ((f.decode (s.readNat (t.esum + 2 * o) 2)).div (FVal.ofInt n 0))).1

/-- The members of a plan's group; 1 while the group is absent. -/
def State.members (s : State) (p : Plan) : Nat := max 1 (s.ringOf p.group).length

/-- A count of a flush goes to the report of its own step. -/
def State.countAt (s : State) (step entry field n : Nat) : State :=
  if s.svc.reports.any (fun r => r.step == step) then
    { s with svc := { s.svc with reports := s.svc.reports.map fun r =>
        if r.step = step then { r with counts := smMod (fun _ => 0) (16 * entry + field) (· + n) r.counts } else r } }
  else s.count entry field n

/-- A fold that is over, and the hold of its passes. -/
def State.endFold (s : State) (t : FlushTarget) : State :=
  { s with svc := { s.svc with folds := s.svc.folds.filter (fun x => flushKey x.target != flushKey t), holds := s.svc.holds.filter (· != flushKey t) } }

/-- A flush taken on as far as it has come. Its request has ended: its record is counted, and it is folded after CODE 0 or CWR_VERIFY_MISS,
left after another; a sharded one goes into the reduction of e′, and the owner folds after that (R211, R213, R215). -/
def State.foldOne (s : State) (p : Plan) (f : Fold) : State :=
  let t := f.target
  if f.reducing then
    if s.svc.work.any (fun y => y.node.role == .shardSum (flushIndex p t) || y.node.role == .shardSend (flushIndex p t)) then s
    else (if t.share = 1 then (List.range 0x100000).foldl (State.foldWeight t (meanErr p (s.members p) t)) s else s).endFold t
  else if (s.die t.die).reqs.any fun q => q.mac == t.mac && q.layer == t.layer then s
  else
    let c := s.readNat t.record 2
    let done := c == 0 || c == Code.cwrVerifyMiss
    let s1 := if done then
        (s.countAt f.step t.entry Cnt.cells (s.readNat (t.record + 8) 4)).countAt f.step t.entry Cnt.misses (s.readNat (t.record + 12) 4)
      else s.countAt f.step t.entry Cnt.refused 1
    if t.share = 0 then (if done then (List.range 0x100000).foldl (State.foldWeight t (ownErr t)) s1 else s1).endFold t
    else
      let s2 := s1.shareErrs p t done
      { s2 with svc := { s2.svc with folds := s2.svc.folds.map fun x => if flushKey x.target = flushKey t then { x with reducing := true } else x,
                                     holds := s2.svc.holds.filter (· != flushKey t) } }

/-- Every flush under way taken on. -/
def State.foldAll (s : State) (p : Plan) : State := s.svc.folds.foldl (fun s f => s.foldOne p f) s

/-! ### The report (R219, R350) -/

/-- The address of a step's report (R350). -/
def Plan.entryAddr (p : Plan) (n : Nat) : Nat := p.report + n % p.depth * (p.layers * 64)

/-- The bytes of the counts of one layer, in the widths of Table 7.7; a count stays at its field's largest value. MIXED is kept for
FLUSH_OVERLAP 1 (R212). -/
def countBytes (m : SMap Nat) (mixes : Bool) (e : Nat) : List Byte :=
  [4, 4, 4, 4, 4, 4, 4, 2, 2, 4, 4, 2, 2].zipIdx.flatMap fun w =>
    leBytes w.1 (if w.2 = Cnt.mixed ∧ mixes = false then 0 else min (smGet (fun _ => 0) m (16 * e + w.2)) (2 ^ (8 * w.1) - 1))

/-- One layer's entry written (Table 7.7). -/
def reportLayer (r : StepReport) (s : State) (e : Nat) : State :=
  let l := r.plan.layer e
  let a := r.plan.entryAddr r.step + 64 * recNum l 28 4
  let bs := leBytes 4 (recNum l 0 4) ++ leBytes 4 (r.step % 2 ^ 32) ++ countBytes r.counts (recFlag l 1) e ++ leBytes 12 0
  if (s.accessErr [] a 64 true).isNone then s.writeBytes a bs else s

/-- A report written once the requests that its step pushed have ended, and the sessions told (R350). -/
def State.publish (s : State) (r : StepReport) : State :=
  if s.svc.folds.any fun f => f.step == r.step && !f.reducing then s
  else
    let s1 := (List.range r.plan.layers).foldl (reportLayer r) s
    let s2 : State := { s1 with svc := { s1.svc with reports := s1.svc.reports.filter fun x => x.step != r.step } }
    s2.event 1 (if r.skip then Code.rdcNonfinite else 0) r.step (r.plan.entryAddr r.step)

/-- Every report that is due written, oldest first. -/
def State.publishAll (s : State) : State := s.svc.reports.foldl State.publish s

/-- The step driver goes on: completed work is counted, what may be issued is issued, flushes are taken on, and due reports are written. -/
def State.drive (s : State) : State :=
  match s.svc.plan with
  | none => s
  | some p => ((((s.collect p).foldAll p).memberFlushes p).issueAll p).publishAll

/-! ### The end of a step (R204, R211, R217, R219) -/

/-- The loss scale after a step. -/
def Svc.scaleAfter (v : Svc) (p : Plan) (skip : Bool) : Svc :=
  if !p.fp16 then { v with lossScale := 0 }
  else if skip then { v with lossScale := v.lossScale - 1, cleanSteps := 0 }
  else if v.cleanSteps + 1 = p.num 14 2 then { v with lossScale := min (v.lossScale + 1) 24, cleanSteps := 0 }
  else { v with cleanSteps := v.cleanSteps + 1 }

/-- Whether the step that ends is skipped: a bucket of the plan's group delivered NONFINITE, and NONFINITE_APPLY is 0 (R217). -/
def State.skips (s : State) (p : Plan) : Bool := s.svc.nonfinite.any (fun b => b.1 == p.group) && !(s.groupMode p.group).testBit 3

/-- The layers that contributed to a bucket that delivered NONFINITE, where the step is skipped (R217). -/
def State.nonfiniteLayers (s : State) (p : Plan) : List Nat :=
  ((p.graph.nodes.filter fun n => n.role == .bucket && dField n.desc 24 1 == 1 && s.svc.nonfinite.contains (p.group, dField n.desc 26 2)).map
    GraphNode.entry).eraseDups

/-- The blocks of a layer that received a weight gradient: those that its products of the step cover (R219). -/
def State.blocksOf (s : State) (p : Plan) (e : Nat) : Nat :=
  ((p.graph.nodes.filter fun n => n.entry == e && (n.role == .weightGrad || isDeferred n.role) && !s.masked n).flatMap GraphNode.blocks).eraseDups.length

/-- The step's updates and flushes, its loss scale, and its report put in line. -/
def State.stepWork (s : State) (p : Plan) : State :=
  let n := s.svc.step
  let skip := s.skips p
  let s1 := (List.range p.layers).foldl (fun s e => s.count e Cnt.blocks (s.blocksOf p e)) s
  let s2 := if skip then (s1.nonfiniteLayers p).foldl (fun s e => s.count e Cnt.nonfinite 1) s1
    else (s1.optimiser p) |> fun s => p.ownTargets.foldl (fun s t => s.flushOne p t) s
  let v := s2.svc.scaleAfter p skip
  let report : StepReport := { plan := p, step := n, skip := skip, counts := v.counts }
  { s2 with svc := { v with last := n, step := (n + 1) % 2 ^ 64, inStep := false, fReleased := 0, bReleased := 0, nonfinite := [], counts := [],
                            met := [], saves := [], reports := v.reports ++ [report], skipped := if skip then v.skipped + 1 else v.skipped,
                            stepsLeft := v.stepsLeft.map fun k => k - 1 } }

/-- Whether every part of the step has completed. -/
def State.stepOver (s : State) (p : Plan) : Bool :=
  s.svc.fReleased == p.batches && s.svc.bReleased == p.batches && !s.svc.work.any fun x => !isShard x.node.role

end Sys2Proof.Machine
end

