-- ==== Sys2Proof/Machine/Services.lean ====
section
/-!
DEFINITION. The services of the service cluster (R193, R194, R197, R205, R210, R216, R218, R349 to R357): the loading of plans, the releases
and the boundaries of the step driver, the data loader, the checkpoint writer, the lease and the health agent.
-/

namespace Sys2Proof.Machine

/-! ### The plan (Table 7.1, Table 7.2) -/

/-- Whether the header's fields lie in their ranges. -/
def headerOk (p : Plan) : Bool :=
  decide (1 ≤ p.layers ∧ p.layers ≤ 65535 ∧ 1 ≤ p.batches ∧ p.batches ≤ 4096 ∧ 1 ≤ p.lookahead ∧ p.lookahead ≤ 4) &&
  (p.num 7 1 == 1 || p.num 7 1 == 2) && decide (1 ≤ p.num 8 4 ∧ p.num 8 4 ≤ 1048576) &&
  (if p.fp16 then decide (p.num 12 1 ≤ 24) else p.num 12 1 == 0) && (p.num 13 1 == 1 || p.num 13 1 == 3) &&
  decide (100 ≤ p.num 14 2) && p.num 17 7 == 0 && p.num 40 24 == 0 && decide (1 ≤ p.depth ∧ p.depth ≤ 16)

/-- Whether a record's fields lie in their ranges. -/
def layerOk (p : Plan) (r : List Byte) : Bool :=
  let k := recKind r
  let alpha := FFmt.bf16.decode (recNum r 14 2)
  decide (k ≤ 5) && (if k ≤ 1 then decide (recNum r 5 1 ≤ 1) else decide (1 ≤ recNum r 5 1 ∧ recNum r 5 1 ≤ 5)) &&
  decide (recNum r 6 1 < 16) && decide (1 ≤ recNum r 7 1) &&
  (if k = 3 then decide (1 ≤ recNum r 12 2 ∧ recNum r 12 2 ≤ 1024) && alpha.isFinite && !alpha.isZero
   else recNum r 8 4 == 0xFFFFFFFF && recNum r 12 2 == 0 && recNum r 14 2 == 0) &&
  recNum r 16 8 % 64 == 0 && (if k ≤ 1 then decide (1 ≤ recNum r 24 4) else recNum r 24 4 == 0) && decide (recNum r 28 4 < p.layers)

/-- Whether the records agree as R194 asks. -/
def recAgrees (p : Plan) (r : List Byte) : Bool :=
  let k := recKind r
  let id := recNum r 0 4
  (k == 1 || !(recFlag r 1 || recFlag r 2 || recFlag r 3)) && (!recFlag r 0 || k == 1 || k == 2 || k == 3) &&
  (k != 3 || p.recs.any fun q => recKind q == 0 && recNum q 0 4 == recNum r 8 4) &&
  decide ((p.recs.filter fun q => recKind q == 3 && recNum q 8 4 == id).length ≤ 4 ∨ k ≠ 0) &&
  (recNum r 16 8 != 0) == recFlag r 3 && (recNum r 7 1 == 1 || (k != 3 && k != 4))

/-- The state of the plan's kind 1 layers, in units of 1/(16 N) byte (R216). -/
def planState (p : Plan) (n : Nat) : Nat :=
  let m := if p.num 13 1 = 1 then 64 else 33
  ((p.recs.filter fun r => recKind r == 1).map fun r =>
    recNum r 24 4 * 2 ^ 20 * (16 * n + (if recFlag r 2 then 32 + m else n * (32 + m)))).sum

/-- The slots of layers that are not deferred that the plan binds to one tile (R205). -/
def Plan.slotsOn (p : Plan) (t : Nat) : Nat :=
  (p.recs.zipIdx.map fun r =>
    if recFlag r.1 0 || recKind r.1 == 0 || decide (3 < recKind r.1) then 0
    else (((p.shape r.2).slots.filter fun x => x.1 == t).map fun x => x.2.2).sum).sum

/-- The first failure of a plan, in the order of R349; 0: none. -/
def State.planCode (s : State) (p : Plan) : Nat :=
  let ids := p.recs.map fun r => recNum r 0 4
  if !headerOk p || !p.recs.all (layerOk p) || ids.eraseDups.length != ids.length then Code.svcPlanRange
  else if !p.recs.all (recAgrees p) then Code.svcPlanAgree
  else if (List.range 64).any (fun t => decide (1024 < p.slotsOn t)) then Code.svcPlanSlots
  else if 16 * s.members p * s.get .capMemoryStacks * s.get .capMemoryStackGib * 2 ^ 30 < planState p (s.members p) then Code.svcPlanMemory
  else if (s.group p.group).isNone then Code.svcPlanGroup
  else if s.svc.waiting.isSome then Code.svcBusy
  else 0

/-! ### The data loader (R352) -/

/-- A field of a service configuration record (Table 12.5). -/
def cfgNum (b : List Byte) (off n : Nat) : Nat := leNat ((b.drop off).take n)

/-- A field of the record in force; 0 without one. -/
def State.cfg (s : State) (off n : Nat) : Nat := s.svc.config.elim 0 fun b => cfgNum b off n

/-- Whether the loader fetches inputs: a record is in force and names a queue pair. -/
def State.loaderOn (s : State) : Bool := s.svc.config.isSome && s.cfg 0 2 != 0xFFFF

/-- The number of the input of the micro-batch released forward last, or of the one released next, counted from input 0 (R352). -/
def State.inputNow (s : State) : Nat :=
  let b := s.svc.plan.elim 0 Plan.batches
  s.svc.step * b + (if s.svc.inStep then s.svc.fReleased - 1 else 0)

/-- The READ of one input requested. -/
def State.askInput (s : State) (i : Nat) : State :=
  let n := s.cfg 0 2
  let bytes := s.cfg 20 4
  let r : RoceReq := { read := true, place := s.cfg 32 8 + i % (s.cfg 2 1 + 1) * bytes, len := bytes, idx := i,
                       rkey := s.cfg 16 4, va := s.cfg 8 8 + i % s.cfg 24 8 * bytes }
  let s1 : State := { s with svc := { s.svc with asked := s.svc.asked ++ [i] } }
  s1.originate n r

/-- The inputs of the next LOADER_AHEAD micro-batches requested; older ones leave the ring. -/
def State.loaderFetch (s : State) : State :=
  let x := s.qp (s.cfg 0 2)
  let v := s.svc
  if !s.loaderOn || v.plan.isNone || v.state != 1 || !x.opened || x.error then s
  else
    let want := (List.range (s.cfg 2 1 + 1)).map fun k => s.inputNow + k
    let s1 : State := { s with svc := { v with inputs := v.inputs.filter want.contains } }
    (want.filter fun i => !v.inputs.contains i && !v.asked.contains i).foldl State.askInput s1

/-- Inputs on their way under an earlier record count for nothing. -/
def State.staleReads (s : State) : State :=
  let n := s.cfg 0 2
  let x := s.qp n
  let old := fun (r : RoceReq) => if r.read then { r with idx := 2 ^ 128 } else r
  let s1 := if s.loaderOn then s.setQp n { x with out := x.out.map old } else s
  { s1 with svc := { s1.svc with inputs := [], asked := [] } }

/-! ### Pauses, the boundary (R350, R351, R353, R354, R357) -/

/-- The step driver pauses or stops, with the code of the pause; sessions hear of a new STATE (R348). -/
def State.pauseWith (s : State) (st reason : Nat) : State :=
  let v := s.svc
  let s1 : State := { s with svc := { v with state := st, reason := reason, pauseWanted := false, stopWanted := false, stall := false, lapse := false } }
  if v.state = st then s1 else s1.event 2 reason v.last st

/-- A plan takes effect: the step driver holds paused before STEP_START. -/
def State.takePlan (s : State) (p : Plan) : State :=
  let v := s.svc
  let s2 : State := { s with svc := { v with plan := some p, waiting := none, step := p.num 32 8, lossScale := p.num 12 1, cleanSteps := 0,
                                             inStep := false, fReleased := 0, bReleased := 0, work := [], counts := [], met := [], saves := [] } }
  (if v.state = 0 ∨ v.state = 4 then s2.pauseWith 3 0 else s2).loaderFetch

/-- The timer of the lease restarts (R357). -/
def State.leaseRestart (s : State) : State := { s with svc := { s.svc with leaseRunning := s.cfg 42 2 != 0 } }

/-- A service configuration record takes effect. -/
def State.takeConfig (s : State) (b : List Byte) : State :=
  let s1 := s.staleReads
  let s2 : State := { s1 with svc := { s1.svc with config := some b, newConfig := none } }
  s2.leaseRestart.loaderFetch

/-- What waits for a boundary takes effect. -/
def State.takeWaiting (s : State) : State :=
  let s1 := s.svc.newConfig.elim s s.takeConfig
  s1.svc.waiting.elim s1 s1.takePlan

/-- A lapsed lease's pause, with alert-out. -/
def State.pauseLapsed (s : State) : State := (s.pauseWith 3 Code.svcLeaseLapsed).alarm Code.svcLeaseLapsed unitModule

/-- The checkpoint writer starts: its size is the compiler's, a free value (log 2). Where it would not fit, or no queue pair serves it,
the step driver pauses. `lapsed`: the pause of R357 follows it. -/
def State.startCheckpoint (s : State) (lapsed : Bool) : State :=
  let n := s.cfg 40 2
  let x := s.qp n
  let len := Config.freeNat s.free
  let s := s.tick
  if n = 0xFFFF || !x.opened || x.error || decide (s.cfg 80 8 < len) then
    let s1 := s.pauseWith 3 Code.svcCkptFail
    if lapsed then s1.alarm Code.svcLeaseLapsed unitModule else s1
  else
    let s1 : State := { s with svc := { s.svc with checkpoint := true, pausing := if lapsed then some Code.svcLeaseLapsed else none } }
    s1.originate n { read := false, place := 0, len := len, rkey := s.cfg 68 4, va := s.cfg 72 8 }

/-- STOP takes effect: the plan is released. -/
def State.stopNow (s : State) : State :=
  let s1 : State := { s with svc := { s.svc with plan := none, inStep := false, work := [], counts := [], met := [], saves := [] } }
  s1.pauseWith 4 0

/-- A lapsed lease once no step is in progress: the checkpoint of LEASE_ACTION 1, then the pause. -/
def State.lapseNow (s : State) : State :=
  let v := s.svc
  let s1 : State := { s with svc := { v with state := if v.state = 1 then 2 else v.state } }
  if s.cfg 3 1 ≠ 1 then s.pauseLapsed
  else if v.checkpoint then { s1 with svc := { s1.svc with pausing := some Code.svcLeaseLapsed } }
  else s1.startCheckpoint true

/-- Whether a checkpoint is due at the boundary after step `n`. -/
def State.ckptDue (s : State) (n : Nat) : Bool := s.cfg 44 4 != 0 && (n + 1) % s.cfg 44 4 == 0

/-- The step boundary after step `n`: a checkpoint, the pauses asked for, then what waits for a boundary. -/
def State.boundary (s : State) (n : Nat) : State :=
  let v := s.svc
  let s1 := if s.ckptDue n && !v.lapse && !v.checkpoint then s.startCheckpoint false else s
  let s2 := if v.lapse then s1.lapseNow
    else if v.stopWanted then s1.stopNow
    else if (v.pauseWanted || v.stepsLeft == some 0) && s1.svc.state != 3 then s1.pauseWith 3 0 else s1
  s2.takeWaiting.loaderFetch

/-! ### Sessions' commands (R349, R351, R357) -/

/-- SEED written to every tile that is on, at the plan's load (Table 7.1). -/
def State.seedTiles (s : State) (p : Plan) : State :=
  ((List.range (s.get .capComputeTiles)).filter fun t => s.domainOn (domTile t)).foldl
    (fun s t => s.setWord (Fld.tileNumSeed.addr t 0) (BitVec.ofNat 64 (p.num 24 8))) s

/-- A plan accepted: it waits for the boundary, or takes effect at once when no step is running. -/
def State.acceptPlan (s0 : State) (p : Plan) : State :=
  let s := s0.seedTiles p
  if s.svc.inStep then { s with svc := { s.svc with waiting := some p } } else s.takePlan p

/-- The code that a plan at an address cannot be read with. -/
def State.planRead (s : State) (a n : Nat) : State × Nat :=
  match s.accessErr [] a n false with
  | some (.unmapped _) => (s, Code.xferUnmapped)
  | some e => (s.noteErr e, Code.memUe)
  | none => (s, 0)

/-- PLAN_LOAD. -/
def State.planLoad (s : State) (n seq addr report depth : Nat) (g : Graph) : State :=
  let r := s.planRead addr 64
  if r.2 ≠ 0 then r.1.reply n seq 0x0020 r.2 []
  else
    let layers := s.readNat addr 4
    let len := if 65535 < layers then 64 else 64 + 32 * layers
    let r := s.planRead addr len
    if r.2 ≠ 0 then r.1.reply n seq 0x0020 r.2 []
    else
      let p : Plan := { bytes := s.readBytes addr len, addr := addr, report := report, depth := depth, graph := g }
      let c := s.planCode p
      (if c = 0 then s.acceptPlan p else s).reply n seq 0x0020 c []

def execPlanLoad (n seq addr report depth : Nat) (graph : Graph) (s : State) : Host.Outcome State Fault Refusal :=
  .next (s.command (.planLoad n seq addr report depth graph) n seq 0x0020 fun s => s.planLoad n seq addr report depth graph)

/-- RUN: steps start or go on; without a plan there are none to run. A lapsed lease's pause stays due. -/
def State.run (s : State) (steps : Nat) : State :=
  let v := s.svc
  if v.plan.isNone then s
  else
    let s1 : State := { s with svc := { v with state := if v.lapse then 2 else 1, stepsLeft := if steps = 0 then none else some steps,
                                               pauseWanted := false, stopWanted := false, stall := false } }
    s1.loaderFetch

def execStepRun (n seq steps : Nat) (s : State) : Host.Outcome State Fault Refusal :=
  .next (s.command (.stepRun n seq steps) n seq 0x0021 fun s => (s.run steps).reply n seq 0x0021 0 [])

/-- PAUSE: at the next boundary, or at once between steps. -/
def State.pause (s : State) : State :=
  let v := s.svc
  if v.state ≠ 1 ∧ v.state ≠ 2 then s
  else if v.inStep || v.lapse then { s with svc := { v with state := 2, pauseWanted := true } }
  else s.pauseWith 3 0

def execStepPause (n seq : Nat) (s : State) : Host.Outcome State Fault Refusal :=
  .next (s.command (.stepPause n seq) n seq 0x0021 fun s => s.pause.reply n seq 0x0021 0 [])

/-- STOP: at the next boundary, or at once when no step runs. -/
def State.stop (s : State) : State :=
  let v := s.svc
  if v.plan.isNone then s
  else if v.inStep && (v.state == 1 || v.state == 2) then { s with svc := { v with state := 2, stopWanted := true } }
  else s.stopNow.takeWaiting

def execStepStop (n seq : Nat) (s : State) : Host.Outcome State Fault Refusal :=
  .next (s.command (.stepStop n seq) n seq 0x0021 fun s => s.stop.reply n seq 0x0021 0 [])

/-- A member's latest cap and CAP_FLAGS: its own in force, the others' as CAP_STATE messages gave them (R355). -/
def State.memberCap (s : State) (dev : Nat) : List Byte :=
  let c := if dev = s.deviceId then (s.capInForce, s.capFlags) else smGet (fun _ => (0, 0)) s.power.capSeen dev
  leBytes 2 dev ++ leBytes 2 c.1 ++ leBytes 2 c.2 ++ leBytes 2 0

/-- What is left of the lease: a measured time, within LEASE_S (log 2). -/
def State.leaseLeft (s : State) : Nat := if s.svc.leaseRunning then Config.freeNat s.free % (s.cfg 42 2 + 1) else 0

/-- The step that STEP_STATUS names: the one under way, else the last one completed. -/
def Svc.shown (v : Svc) : Nat := if v.inStep then v.step else v.last

/-- STEP_STATUS. -/
def State.stepStatus (s : State) (n seq : Nat) : State :=
  let v := s.svc
  let devs := v.plan.elim [] fun p => s.ringOf p.group
  s.tick.reply n seq 0x0022 0 (leBytes 1 v.state ++ leBytes 1 0 ++ leBytes 2 v.reason ++ leBytes 4 v.skipped ++ leBytes 8 v.shown ++
    leBytes 4 s.leaseLeft ++ leBytes 4 devs.length ++ devs.flatMap s.memberCap)

def execStepStatus (n seq : Nat) (s : State) : Host.Outcome State Fault Refusal :=
  .next (s.command (.stepStatus n seq) n seq 0x0022 fun s => s.stepStatus n seq)

def execLease (n seq : Nat) (s : State) : Host.Outcome State Fault Refusal :=
  .next (s.command (.lease n seq) n seq 0x0023 fun s => s.leaseRestart.reply n seq 0x0023 0 (leBytes 4 (s.cfg 42 2)))

/-- Whether a record's fields lie in their ranges (Table 12.5). -/
def configOk (b : List Byte) : Bool :=
  let f := cfgNum b
  let qpOk := fun (n : Nat) => decide (n < 1024) || n == 0xFFFF
  qpOk (f 0 2) && decide (1 ≤ f 2 1 ∧ f 2 1 ≤ 8 ∧ f 3 1 ≤ 1 ∧ 1 ≤ f 4 4 ∧ f 4 4 ≤ 600000) && f 20 4 % 64 == 0 &&
  decide (64 ≤ f 20 4 ∧ f 20 4 ≤ 2 ^ 31 ∧ 1 ≤ f 24 8) && qpOk (f 40 2) && (f 42 2 == 0 || decide (5 ≤ f 42 2 ∧ f 42 2 ≤ 3600)) &&
  decide (100 ≤ f 66 2 ∧ f 66 2 ≤ 60000) && f 72 8 % 4096 == 0 && (decide (1 ≤ f 80 8) || (f 44 4 == 0 && f 3 1 == 0)) && f 88 8 == 0

/-- SVC_CONFIG. -/
def State.svcConfig (s : State) (n seq : Nat) (b : List Byte) : State :=
  if b.length ≠ 96 then s.reply n seq 0x0024 Code.sesLength []
  else if !configOk b then s.reply n seq 0x0024 Code.svcConfigRange []
  else if s.svc.inStep then
    let s1 : State := { s with svc := { s.svc with newConfig := some b } }
    s1.leaseRestart.reply n seq 0x0024 0 []
  else (s.takeConfig b).reply n seq 0x0024 0 []

def execSvcConfig (n seq : Nat) (record : List Byte) (s : State) : Host.Outcome State Fault Refusal :=
  .next (s.command (.svcConfig n seq record) n seq 0x0024 fun s => s.svcConfig n seq record)

/-! ### The lease, health (R356, R357) -/

/-- The lease expires: the step in progress finishes, then the checkpoint and the pause. -/
def State.leaseLapsed (s : State) : State :=
  let v := s.svc
  if !v.leaseRunning then s
  else
    let s1 : State := { s with svc := { v with leaseRunning := false } }
    if v.plan.isNone then s1
    else if v.inStep && (v.state == 1 || v.state == 2) then { s1 with svc := { s1.svc with lapse := true, state := 2 } }
    else s1.lapseNow

def execSvcLeaseLapsed (s : State) : Host.Outcome State Fault Refusal := .next s.leaseLapsed

/-- Whether ALERT_N is driven low (R452). -/
def State.alertLow (s : State) : Bool :=
  s.rel.alert || s.power.hold == .failedStart || s.power.hold == .thermalTrip || s.rel.mode == .safe

/-- The health datagram (Table 12.6). -/
def State.healthBytes (s : State) : List Byte :=
  let v := s.svc
  let last := if s.rel.logHeld = 0 then 0 else s.readNat (s.logAddr (s.rel.logSeq + 2 ^ 32 - 1) + 4) 2
  leBytes 2 0x4C48 ++ leBytes 1 s.rel.mode.num ++ leBytes 1 v.state ++ leBytes 2 s.deviceId ++ leBytes 2 v.reason ++ leBytes 8 s.journal.serial ++
  leBytes 8 v.shown ++ leBytes 2 last ++ leBytes 2 s.power.achievedW ++ leBytes 1 (if s.alertLow then 1 else 0) ++ leBytes 3 0 ++
  leBytes 4 v.healthSeq ++ leBytes 28 0

/-- HEALTH_MS has passed. -/
def State.health (s : State) : State :=
  if s.svc.config.isNone || s.cfg 64 2 == 0 || !s.portOn then s
  else
    let s1 := s.sendFrame (.datagram s.healthBytes)
    { s1 with svc := { s1.svc with healthSeq := (s1.svc.healthSeq + 1) % 2 ^ 32 } }

def execHealthDatagram (s : State) : Host.Outcome State Fault Refusal := .next s.health

/-! ### Releases (R197, R218, R352, R353) -/

/-- Whether F(k) may be released but for its input: F(k − 1) has completed, and so has B(k − LOOKAHEAD − 1). F(0) starts a step. -/
def State.forwardDue (s : State) (p : Plan) : Bool :=
  let v := s.svc
  let k := v.fReleased
  decide (k < p.batches ∧ k < v.bReleased + p.lookahead + 1) && !v.stall && (k == 0 || s.partOver false (k - 1)) &&
  (decide (k ≤ p.lookahead) || s.partOver true (k - p.lookahead - 1)) &&
  (if v.inStep then v.state == 1 || v.state == 2 else v.state == 1 && !v.checkpoint)

/-- Whether the next input is in the local ring. -/
def State.inputHere (s : State) (p : Plan) : Bool := !s.loaderOn || s.svc.inputs.contains (s.svc.step * p.batches + s.svc.fReleased)

/-- The words of a layer's block mask (R210); a word that cannot be read is open (log 2). -/
def State.maskWords (s : State) (r : List Byte) : List Nat :=
  (List.range (recNum r 24 4)).map fun q =>
    let a := recNum r 16 8 + 8 * q
    if (s.accessErr [] a 8 false).isNone then s.readNat a 8 else Config.openResult a 0 2

/-- A step starts: the low 32 bits of its number go into TILE_NUM_EPOCH of every tile that is on, and the block masks are read (R210,
R218). -/
def State.stepStarts (s : State) (p : Plan) : State :=
  let on := (List.range (s.get .capComputeTiles)).filter fun t => s.domainOn (domTile t)
  let s1 := on.foldl (fun s t => s.set .tileNumEpochEpoch t 0 (s.svc.step % 2 ^ 32)) s
  let s2 := s1.clearOrders p
  { s2 with svc := { s2.svc with masks := p.recs.map fun r => if recFlag r 3 then s.maskWords r else [], counts := [], met := [] } }

/-- The pause of R353 once the step in progress has gone as far as its inputs allow. -/
def State.stallPause (s : State) : State :=
  let v := s.svc
  if v.stall && v.bReleased == v.fReleased then
    let s1 := (s.pauseWith 3 Code.svcInputStall).alarm Code.svcInputStall unitModule
    if v.lapse then s1.alarm Code.svcLeaseLapsed unitModule else s1
  else s

/-- F(k) or B(k) is released: the graph's operations of that part join the released work. -/
def State.release (s : State) (backward : Bool) (k : Nat) : State :=
  let v := s.svc
  match v.plan with
  | none => s
  | some p =>
    if backward then
      if v.inStep && decide (v.bReleased < v.fReleased) && k == v.bReleased && s.partOver false k && (v.state == 1 || v.state == 2) then
        let s1 : State := { s with svc := { v with bReleased := k + 1 } }
        (s1.addWork p fun n => n.backward && n.batch == k && !isShard n.role).stallPause
      else s
    else if s.forwardDue p && s.inputHere p && k == v.fReleased then
      let s1 := if v.inStep then s else s.stepStarts p
      let s2 : State := { s1 with svc := { s1.svc with inStep := true, fReleased := k + 1 } }
      (s2.addWork p fun n => !n.backward && n.batch == k && !isShard n.role).loaderFetch
    else s

/-- A release of micro-batch k, with what the step driver does before and after it. -/
def State.microBatch (s : State) (backward : Bool) (k : Nat) : State := (s.drive.release backward k).drive

def execMicroBatchRelease (backward : Bool) (k : Nat) (s : State) : Host.Outcome State Fault Refusal := .next (s.microBatch backward k)

/-- An input has not arrived within INPUT_WAIT_MS of the time that its F(k) could otherwise have been released. -/
def State.inputStall (s : State) : State :=
  let v := s.svc
  match v.plan with
  | none => s
  | some p =>
    if s.forwardDue p && !s.inputHere p then
      let s1 : State := { s with svc := { v with stall := true, state := 2 } }
      s1.stallPause
    else s

def execSvcInputStall (s : State) : Host.Outcome State Fault Refusal := .next s.inputStall

/-! ### The end of a step (R211, R217, R219, R350) -/

/-- A step ends once every micro-batch went forward and backward; the step driver writes PWR_ATTR_MARK at the boundary (R392). -/
def State.stepEnds (s0 : State) : State :=
  let s := s0.drive
  let v := s.svc
  match v.plan with
  | none => s
  | some p => if v.inStep && s.stepOver p && (v.state == 1 || v.state == 2) then ((s.stepWork p).attrMark.drive).boundary v.step else s

def execStepEnd (s : State) : Host.Outcome State Fault Refusal := .next s.stepEnds

/-- A checkpoint's WRITEs completed, or one of them failed (R354). -/
def State.checkpointDone (s : State) (ok : Bool) : State :=
  let v := s.svc
  if !v.checkpoint then s
  else
    let n := s.cfg 40 2
    let x := s.qp n
    let s1 := s.setQp n { x with out := x.out.filter RoceReq.read }
    let s2 : State := { s1 with svc := { v with checkpoint := false, pausing := none } }
    let paused := if v.plan.isNone then s2
      else if !ok then s2.pauseWith 3 Code.svcCkptFail
      else if v.pausing.isSome then s2.pauseWith 3 Code.svcLeaseLapsed else s2
    if v.pausing.isSome then paused.alarm Code.svcLeaseLapsed unitModule else paused

def execCheckpointDone (ok : Bool) (s : State) : Host.Outcome State Fault Refusal := .next (s.checkpointDone ok)

/-! ### Time without a command -/

/-- Time passes with no command: the cores' store buffers drain, the step driver goes on, and the port sends (logs 5, 76, 90, 106). -/
def State.idle (s : State) : State := s.idleTick.drive.portSend

/-- Between the commands of the queue: the session command that has waited longest runs once nothing before it awaits its answer
(R346); with none to run time passes. -/
def State.between (run : Instr → State → Host.Outcome State Fault Refusal) (s : State) : Host.Outcome State Fault Refusal :=
  match s.turns with
  | [] => .next s.idle
  | e :: rest =>
    if s.awaiting then .next s.idle
    else match run e.2 { s with turns := [] } with
      | .next t => .next { t with turns := t.turns ++ rest.filter fun x => (t.session x.1).live }
      | o => o

end Sys2Proof.Machine
end

