-- ==== Sys2Proof/Machine/Transfers.lean ====
section
/-!
DEFINITION. Transfers (R246, R257, R258, R264 to R270, R279): DMA, REMOTE_ADD, requests that peers send, answers, and the patrol
scrubber.
-/

namespace Sys2Proof.Machine

/-! ### Requests sent (R266, R268, R291) -/

/-- The payload of a WRITE or a READ: its preamble, then data (Table 10.4). -/
def requestPayload (addr tag len : Nat) (data : List Byte) : List Byte := leBytes 8 addr ++ leBytes 4 tag ++ leBytes 4 len ++ data

/-- A range cut into requests of at most 4 KiB that do not cross a 4 KiB boundary of the destination: each an offset into the
range and a length; `fuel` bounds them (R266). -/
def cutRequests : Nat → Nat → Nat → Nat → List (Nat × Nat)
  | 0, _, _, _ => []
  | fuel + 1, dst, off, left =>
    if left = 0 then []
    else
      let n := min left (4096 - (dst + off) % 4096)
      (off, n) :: cutRequests fuel dst (off + n) (left - n)

/-- The requests of one row. -/
def rowRequests (dst len : Nat) : List (Nat × Nat) := cutRequests (len / 4096 + 2) dst 0 len

/-- The LINK of the route to a device, named when nothing is UP (R291). -/
def State.routeLink (s : State) (dev : Nat) : Nat := ((s.route dev).map Route.link).getD 0xFF

/-- A request sent for an operation: queued, and noted as awaiting its answer; without an egress the operation fails at once. -/
def State.request (s : State) (t slot : Nat) (o : Op) (kind : ReqKind) (type dev place len : Nat) (payload : Nat → List Byte) : State :=
  let r : Req := { tag := s.nextTag, kind := kind, tile := t, slot := slot, ctx := dCtx o.desc, gen := dGen o.desc, dest := dev,
                   link := (s.egress dev).getD (s.routeLink dev), place := place, len := len }
  match s.egress dev with
  | none => s.modOp t slot fun o => o.fail r.lost.1 r.lost.2
  | some l =>
    let s1 := { s with nextTag := (s.nextTag + 1) % 2 ^ 32, requests := s.requests ++ [r] }
    s1.sendBy l { dest := dev, src := s.deviceId, cls := dClass o.desc, type := type, ctx := r.ctx, gen := r.gen,
                  payload := payload r.tag }

/-- Whether the operation of a slot has failed. -/
def State.opFailed (s : State) (t slot : Nat) : Bool :=
  match s.op t slot with
  | some o => match o.phase with
    | .failed _ _ => true
    | _ => false
  | none => true

/-! ### DMA (R264, R266) -/

/-- A step of a DMA that goes on only while the operation has not failed. -/
def State.unlessFailed (s : State) (t slot : Nat) (f : State → State) : State := if s.opFailed t slot then s else f s

/-- One local row copied. -/
def State.copyRow (s : State) (t slot : Nat) (ue : List Nat) (src dst len : Nat) : State :=
  match (s.accessErr ue src len false).orElse fun _ => s.accessErr [] dst len true with
  | some e => s.opErr t slot e
  | none => s.writeBytes dst (s.readBytes src len)

/-- One row written to a peer. -/
def State.sendRow (s : State) (t slot : Nat) (o : Op) (ue : List Nat) (src dst len dev : Nat) : State :=
  (rowRequests dst len).foldl (fun s r => s.unlessFailed t slot fun s =>
    match s.accessErr ue (src + r.1) r.2 false with
    | some e => s.opErr t slot e
    | none =>
      let data := s.readBytes (src + r.1) r.2
      s.request t slot o .write msgWrite dev 0 r.2 fun tag => requestPayload (dst + r.1) tag r.2 data) s

/-- One row read from a peer. -/
def State.fetchRow (s : State) (t slot : Nat) (o : Op) (src dst len dev : Nat) : State :=
  (rowRequests dst len).foldl (fun s r => s.unlessFailed t slot fun s =>
    s.request t slot o .read msgRead dev (dst + r.1) r.2 fun tag => requestPayload (src + r.1) tag r.2 []) s

/-- A DMA that has left its queue: its rows copied or asked for, in order. -/
def State.dmaRun (s : State) (t slot : Nat) (o : Op) (ue : List Nat) : State :=
  let b := dmaBody o.desc
  let s1 := (List.range b.rows).foldl (fun s r => s.unlessFailed t slot fun s =>
    let src := b.src + r * b.srcStride
    let dst := b.dst + r * b.dstStride
    if b.dstDev ≠ 0xFFFF then s.sendRow t slot o ue src dst b.len b.dstDev
    else if b.srcDev ≠ 0xFFFF then s.fetchRow t slot o src dst b.len b.srcDev
    else s.copyRow t slot ue src dst b.len) s
  s1.unlessFailed t slot fun s => s.opDone t slot

/-- The failure of a DMA whose context was retired under it, in flight but before a request of its: every request checks the context at
its issue (R261, R266). -/
def State.staleAt (s : State) (d : BitVec 512) : Option (Nat × Nat) :=
  let e := s.ctx (dCtx d)
  if e.gen = dGen d ∧ e.state = .open then none else some (Code.ctxStaleGen, dCtx d + dGen d * 2 ^ 16 + e.gen * 2 ^ 24)

/-- A DMA leaves its queue (R230, R264). -/
def State.dma (s : State) (t q : Nat) (ue : List Nat) : State :=
  match s.taking t q .dma [4] with
  | none => s
  | some (slot, o) =>
    let r := s.leave t q slot o .dma
    if (dmaBody o.desc).isNoop then r.1.opDone t slot
    else match s.staleAt o.desc with
      | some f => r.1.modOp t slot fun o => o.fail f.1 f.2
      | none => r.1.dmaRun t slot r.2 ue

def execDma (t q : Nat) (e : Ecc) (s : State) : Host.Outcome State Fault Refusal := .next ((s.corrected e.ce).dma t q e.ue)

/-! ### REMOTE_ADD (R245, R246, R248) -/

/-- A REMOTE_ADD leaves its queue: with VALUE 0 it completes at once; otherwise it sends a SYNC_ADD. -/
def State.remoteAdd (s : State) (t q : Nat) : State :=
  match s.taking t q .sync [6] with
  | none => s
  | some (slot, o) =>
    let b := syncBody o.desc
    if b.op ≠ 2 then s
    else
      let r := s.leave t q slot o .sync
      if b.value = 0 then r.1.opDone t slot
      else r.1.request t slot r.2 .syncAdd msgSyncAdd b.device b.target 0 fun tag =>
        leBytes 4 tag ++ leBytes 2 b.target ++ leBytes 2 b.value ++ leBytes 8 0

def execRemoteAdd (t q : Nat) (s : State) : Host.Outcome State Fault Refusal := .next (s.remoteAdd t q)

/-! ### Requests of peers (R262, R268, R269, R279) -/

/-- Why a peer's read or write is not applied (R269). -/
def State.remoteRefusal (s : State) (ue : List Nat) (m : Msg) (addr len : Nat) (isWrite : Bool) : Option Nat :=
  let e := s.ctx m.ctx
  match s.arrivalFault m.ctx m.gen with
  | some c => some c
  | none =>
    if e.flags % 2 = 0 then some Code.ctxClass
    else if m.cls < e.flags / 4 % 4 then some Code.ctxClass
    else if (s.firstUnmapped addr len).isSome then some Code.xferUnmapped
    else if (e.firstOutside none addr len).isSome then some Code.xferWindow
    else if (s.accessErr ue addr len isWrite).isSome then some Code.memUe
    else none

/-- A peer's request refused: counted, recorded and answered (R258, R262, R269). -/
def State.refuseRemote (s : State) (l : Nat) (ue : List Nat) (m : Msg) (code addr len tag : Nat) (isWrite : Bool) : State :=
  let s1 := if (s.arrivalFault m.ctx m.gen).isSome then s.arrivalDrop (l / 24) m.ctx else s
  let s2 := if code = Code.memUe then ((s1.accessErr ue addr len isWrite).map s1.noteErr).getD s1 else s1
  (s2.bump .xferNacksSent (l / 24)).answerTo l m.src m.cls m.ctx m.gen tag code []

/-- A WRITE arrives. -/
def State.writeArrive (s : State) (l : Nat) (ue : List Nat) : State :=
  match s.takeDelivered l msgWrite with
  | none => s
  | some (m, s1) =>
    let addr := m.num 0 8
    let len := m.num 12 4
    match s1.remoteRefusal ue m addr len true with
    | some code => s1.refuseRemote l ue m code addr len (m.num 8 4) true
    | none => (s1.writeBytes addr ((m.payload.drop 16).take len)).answerTo l m.src m.cls m.ctx m.gen (m.num 8 4) 0 []

def execWrite (link : Nat) (e : Ecc) (s : State) : Host.Outcome State Fault Refusal := .next ((s.corrected e.ce).writeArrive link e.ue)

/-- A READ arrives. -/
def State.readArrive (s : State) (l : Nat) (ue : List Nat) : State :=
  match s.takeDelivered l msgRead with
  | none => s
  | some (m, s1) =>
    let addr := m.num 0 8
    let len := m.num 12 4
    match s1.remoteRefusal ue m addr len false with
    | some code => s1.refuseRemote l ue m code addr len (m.num 8 4) false
    | none => s1.answerTo l m.src m.cls m.ctx m.gen (m.num 8 4) 0 (s1.readBytes addr len)

def execRead (link : Nat) (e : Ecc) (s : State) : Host.Outcome State Fault Refusal := .next ((s.corrected e.ce).readArrive link e.ue)

/-- A peer's signal at a counter (Table 8.6, R246): the state after it, and the code of the answer. -/
def State.peerSignal (s : State) (src target : Nat) (delta : Int) : State × Nat :=
  if !s.idValid target || s.idOff target then (s, Code.syncRemoteRefused)
  else
    let c := s.ctr target
    if c.poison then (s.bump .syncDropped (target / 256), Code.syncPoison)
    else if !c.remoteOk then (s.misuse target src 0xFE Code.syncRemoteRefused, Code.syncRemoteRefused)
    else ((s.signalTo target delta).1, 0)

/-- A SYNC_ADD arrives (R279). -/
def State.syncAddArrive (s : State) (l : Nat) : State :=
  match s.takeDelivered l msgSyncAdd with
  | none => s
  | some (m, s1) =>
    let ans := fun (s : State) (code : Nat) => s.answerTo l m.src m.cls m.ctx m.gen (m.num 0 4) code []
    match s1.arrivalFault m.ctx m.gen with
    | some code => ans (s1.arrivalDrop (l / 24) m.ctx) code
    | none =>
      let r := s1.peerSignal m.src (m.num 4 2) (signed 16 (m.num 6 2))
      ans r.1 r.2

def execSyncAdd (link : Nat) (s : State) : Host.Outcome State Fault Refusal := .next (s.syncAddArrive link)

/-! ### Answers (R246, R262, R266, R269) -/

/-- How a REMOTE_ADD ends by the code of its answer (R246, R290). `place` of its request is its TARGET. -/
def addOutcome (r : Req) (code : Nat) : Option (Nat × Nat) :=
  if code = 0 then none
  else if code = Code.syncPoison then some (Code.syncPoison, r.place + 2 * 2 ^ 16 + r.dest * 2 ^ 32)
  else if code = Code.syncRemoteRefused then some (Code.syncRemoteRefused, r.place + r.dest * 2 ^ 32)
  else if code / 4096 = 6 then some (Code.syncRemoteLost, r.dest * 2 ^ 32 + r.link * 2 ^ 48)
  else some (Code.syncRemoteRefused, r.place + code * 2 ^ 16 + r.dest * 2 ^ 32)

/-- The answer of a REMOTE_ADD taken. -/
def State.answerAdd (s : State) (r : Req) (code : Nat) : State :=
  s.modOp r.tile r.slot fun o => match addOutcome r code with
    | none => { o with phase := .done }
    | some f => o.fail f.1 f.2

/-- The answer of a DMA's request taken: read data is written; a negative answer fails the operation (R266, R269). -/
def State.answerDma (s : State) (l : Nat) (ue : List Nat) (r : Req) (m : Msg) : State :=
  let code := m.num 4 2
  if code ≠ 0 then
    (s.bump .xferNacksReceived (l / 24)).modOp r.tile r.slot fun o => o.fail Code.xferRemoteDropped (code + m.src * 2 ^ 32)
  else if r.kind = .read ∧ r.slot ≠ noSlot then
    match s.accessErr ue r.place r.len true with
    | some e => s.opErr r.tile r.slot e
    | none => s.writeBytes r.place ((m.payload.drop 16).take r.len)
  else s

/-- An answer to a request that awaits it: the request is accounted for; one whose context or generation no longer matches is
dropped (R262). A REMOTE_ADD in flight completes normally all the same (R261). -/
def State.answerReq (s : State) (l : Nat) (ue : List Nat) (r : Req) (m : Msg) : State :=
  let s1 := { s with requests := s.requests.erase r }
  let bad := (s1.arrivalFault m.ctx m.gen).isSome
  let s2 := if bad then s1.arrivalDrop (l / 24) m.ctx else s1
  if r.kind = .syncAdd then s2.answerAdd r (m.num 4 2)
  else if bad then s2
  else s2.answerDma l ue r m

/-- An ANSWER arrives: to a request, or to an abandoned one, whose reply is dropped (R261 to R263). -/
def State.answerArrive (s : State) (l : Nat) (ue : List Nat) : State :=
  match s.takeDelivered l msgAnswer with
  | none => s
  | some (m, s1) =>
    let tag := m.num 0 4
    match s1.requests.find? fun r => r.tag == tag with
    | some r => s1.answerReq l ue r m
    | none =>
      let s2 := { s1 with abandoned := s1.abandoned.filter fun a => a.1 != tag }
      if s1.abandoned.contains (tag, true) then s2.bump .xferLateDrops (l / 24) else s2.arrivalDrop (l / 24) m.ctx

def execAnswer (link : Nat) (e : Ecc) (s : State) : Host.Outcome State Fault Refusal := .next ((s.corrected e.ce).answerArrive link e.ue)

/-! ### The patrol scrubber (R257, R258) -/

/-- The scrubber reads one block of a stack, while XFER_CTL.SCRUB of its press die is 1. -/
def State.memScrub (s : State) (addr : Nat) (o : EccOutcome) : State :=
  let b := addr / 64 * 64
  match (if placeOf 0 b = .stack then mapStack s.regions b else none) with
  | none => s
  | some (x, l) =>
    if s.get .xferCtlScrub (x / 5) = 0 then s
    else match o with
      | .clean => s
      | .corrected => s.bump .xferMemCe (x / 5) (x % 5)
      | .uncorrectable =>
        let s1 := s.noteMemErr Code.memScrubUe b
        if s1.mem.poisoned.contains (x, l) then s1 else { s1 with mem := { s1.mem with poisoned := (x, l) :: s1.mem.poisoned } }

def execMemScrub (addr : Nat) (o : EccOutcome) (s : State) : Host.Outcome State Fault Refusal := .next (s.memScrub addr o)

end Sys2Proof.Machine
end

