-- ==== Sys2Proof/Machine/Scalar.lean ====
section
/-!
DEFINITION. The scalar cores: RV64IMAFDC with Zicsr and Zifencei in user and machine mode (R61, R185). The manual names the RISC-V
specifications and does not repeat them; what an instruction does is taken from them (PRESUMED, log 14).
-/

namespace Sys2Proof.Machine

/-- Bits [hi:lo] of an instruction word. -/
def ib (w hi lo : Nat) : Nat := w / 2 ^ lo % 2 ^ (hi + 1 - lo)

/-! ### Compressed instructions, expanded to the 32-bit instructions that they stand for -/

def encR (f7 rs2 rs1 f3 rd op : Nat) : Nat := f7 * 2 ^ 25 + rs2 * 2 ^ 20 + rs1 * 2 ^ 15 + f3 * 2 ^ 12 + rd * 2 ^ 7 + op
def encI (imm rs1 f3 rd op : Nat) : Nat := imm % 4096 * 2 ^ 20 + rs1 * 2 ^ 15 + f3 * 2 ^ 12 + rd * 2 ^ 7 + op
def encS (imm rs2 rs1 f3 op : Nat) : Nat := encR (imm / 32 % 128) rs2 rs1 f3 (imm % 32) op
def encB (imm rs2 rs1 f3 : Nat) : Nat :=
  encR (imm / 4096 % 2 * 64 + imm / 32 % 64) rs2 rs1 f3 (imm / 2 % 16 * 2 + imm / 2048 % 2) 0x63
def encJ (imm rd : Nat) : Nat :=
  (imm / 2 ^ 20 % 2 * 2 ^ 31) + (imm / 2 % 1024 * 2 ^ 21) + (imm / 2 ^ 11 % 2 * 2 ^ 20) + (imm / 2 ^ 12 % 256 * 2 ^ 12) +
  rd * 128 + 0x6F

/-- The `n`-bit two's-complement value of a field, sign-extended to 64 bits, as a number modulo 2 ^ 64. -/
def sx (n v : Nat) : Nat := unsigned 64 (signed n v)

/-- Quadrant 0 of the compressed encodings. -/
def expand0 (h : Nat) : Option Nat :=
  let rd := 8 + ib h 4 2
  let rs := 8 + ib h 9 7
  let d := ib h 12 10 * 8 + ib h 6 5 * 64
  let w := ib h 12 10 * 8 + ib h 6 6 * 4 + ib h 5 5 * 64
  match ib h 15 13 with
  | 0 =>
    let imm := ib h 12 11 * 16 + ib h 10 7 * 64 + ib h 6 6 * 4 + ib h 5 5 * 8
    if imm = 0 then none else some (encI imm 2 0 rd 0x13)
  | 1 => some (encI d rs 3 rd 0x07)
  | 2 => some (encI w rs 2 rd 0x03)
  | 3 => some (encI d rs 3 rd 0x03)
  | 5 => some (encS d rd rs 3 0x27)
  | 6 => some (encS w rd rs 2 0x23)
  | 7 => some (encS d rd rs 3 0x23)
  | _ => none

/-- Quadrant 1 of the compressed encodings. -/
def expand1 (h : Nat) : Option Nat :=
  let rd := ib h 11 7
  let r := 8 + ib h 9 7
  let s := 8 + ib h 4 2
  let i6 := ib h 12 12 * 32 + ib h 6 2
  let imm := sx 6 i6 % 4096
  let j := ib h 12 12 * 2048 + ib h 11 11 * 16 + ib h 10 9 * 256 + ib h 8 8 * 1024 + ib h 7 7 * 64 + ib h 6 6 * 128 +
    ib h 5 3 * 2 + ib h 2 2 * 32
  let b := ib h 12 12 * 256 + ib h 11 10 * 8 + ib h 6 5 * 64 + ib h 4 3 * 2 + ib h 2 2 * 32
  match ib h 15 13 with
  | 0 => some (encI imm rd 0 rd 0x13)
  | 1 => if rd = 0 then none else some (encI imm rd 0 rd 0x1B)
  | 2 => some (encI imm 0 0 rd 0x13)
  | 3 =>
    if i6 = 0 then none
    else if rd = 2 then
      let v := ib h 12 12 * 512 + ib h 6 6 * 16 + ib h 5 5 * 64 + ib h 4 3 * 128 + ib h 2 2 * 32
      some (encI (sx 10 v % 4096) 2 0 2 0x13)
    else some (sx 6 i6 % 2 ^ 20 * 2 ^ 12 + rd * 128 + 0x37)
  | 4 =>
    match ib h 11 10 with
    | 0 => some (encI i6 r 5 r 0x13)
    | 1 => some (encI (0x400 + i6) r 5 r 0x13)
    | 2 => some (encI imm r 7 r 0x13)
    | _ =>
      if ib h 12 12 = 0 then
        match ib h 6 5 with
        | 0 => some (encR 0x20 s r 0 r 0x33)
        | 1 => some (encR 0 s r 4 r 0x33)
        | 2 => some (encR 0 s r 6 r 0x33)
        | _ => some (encR 0 s r 7 r 0x33)
      else match ib h 6 5 with
        | 0 => some (encR 0x20 s r 0 r 0x3B)
        | 1 => some (encR 0 s r 0 r 0x3B)
        | _ => none
  | 5 => some (encJ (sx 12 j % 2 ^ 21) 0)
  | 6 => some (encB (sx 9 b % 2 ^ 13) 0 r 0)
  | _ => some (encB (sx 9 b % 2 ^ 13) 0 r 1)

/-- Quadrant 2 of the compressed encodings. -/
def expand2 (h : Nat) : Option Nat :=
  let rd := ib h 11 7
  let rs2 := ib h 6 2
  let d := ib h 12 12 * 32 + ib h 6 5 * 8 + ib h 4 2 * 64
  let w := ib h 12 12 * 32 + ib h 6 4 * 4 + ib h 3 2 * 64
  let sd := ib h 12 10 * 8 + ib h 9 7 * 64
  let sw := ib h 12 9 * 4 + ib h 8 7 * 64
  match ib h 15 13 with
  | 0 => some (encI (ib h 12 12 * 32 + ib h 6 2) rd 1 rd 0x13)
  | 1 => some (encI d 2 3 rd 0x07)
  | 2 => if rd = 0 then none else some (encI w 2 2 rd 0x03)
  | 3 => if rd = 0 then none else some (encI d 2 3 rd 0x03)
  | 4 =>
    if ib h 12 12 = 0 then
      if rs2 = 0 then (if rd = 0 then none else some (encI 0 rd 0 0 0x67)) else some (encR 0 rs2 0 0 rd 0x33)
    else if rs2 = 0 then (if rd = 0 then some 0x00100073 else some (encI 0 rd 0 1 0x67))
    else some (encR 0 rs2 rd 0 rd 0x33)
  | 5 => some (encS sd rs2 2 3 0x27)
  | 6 => some (encS sw rs2 2 2 0x23)
  | _ => some (encS sd rs2 2 3 0x23)

/-- A 16-bit instruction expanded. -/
def expand (h : Nat) : Option Nat :=
  match h % 4 with
  | 0 => expand0 h
  | 1 => expand1 h
  | 2 => expand2 h
  | _ => none

/-! ### Fetching -/

/-- What a fetch finds: a 32-bit instruction (or one that a 16-bit instruction stands for) with its length, an instruction
access fault, a misaligned pc, an uncorrectable word, or a 16-bit encoding that stands for none. -/
inductive Fetched where
  | word (w len : Nat)
  | illegal (h : Nat)
  | fault
  | ue (e : MemErr)

/-- The instruction at a core's pc, fetched from the scratchpad. -/
def State.fetchInst (s : State) (ue : List Nat) (t c : Nat) : Fetched :=
  let a := (s.core t c).pc.toNat
  let top := s.get .capMemoryScratchKib * 1024
  if a + 2 > top || !(s.core t c).pmpOk a 2 4 then .fault
  else match s.accessErr ue (tileAddr t a) 2 false with
    | some (.unmapped _) => .fault
    | some e => .ue e
    | none =>
      let h := s.readNat (tileAddr t a) 2
      if h % 4 = 3 then
        if a + 4 > top || !(s.core t c).pmpOk a 4 4 then .fault
        else match s.accessErr ue (tileAddr t a) 4 false with
          | some (.unmapped _) => .fault
          | some e => .ue e
          | none => .word (s.readNat (tileAddr t a) 4) 4
      else match expand h with
        | some w => .word w 2
        | none => .illegal h

/-! ### Integer arithmetic -/

/-- The low 32 bits of a word, sign-extended. -/
def sext32 (v : W64) : W64 := (v.setWidth 32).signExtend 64

/-- Signed division with the RISC-V results for division by zero and for overflow, at width `n`. -/
def divS (n : Nat) (a b : Int) : Int := if b = 0 then -1 else if a = -(2 ^ (n - 1) : Int) ∧ b = -1 then a else a.tdiv b
def remS (n : Nat) (a b : Int) : Int := if b = 0 then a else if a = -(2 ^ (n - 1) : Int) ∧ b = -1 then 0 else a.tmod b

/-- Register-register operations of opcode OP. -/
def aluR (f7 f3 : Nat) (a b : W64) : Option W64 :=
  let sh := b.toNat % 64
  match f7, f3 with
  | 0, 0 => some (a + b)
  | 0x20, 0 => some (a - b)
  | 0, 1 => some (a <<< sh)
  | 0, 2 => some (if a.toInt < b.toInt then 1 else 0)
  | 0, 3 => some (if a.toNat < b.toNat then 1 else 0)
  | 0, 4 => some (a ^^^ b)
  | 0, 5 => some (a >>> sh)
  | 0x20, 5 => some (a.sshiftRight sh)
  | 0, 6 => some (a ||| b)
  | 0, 7 => some (a &&& b)
  | 1, 0 => some (a * b)
  | 1, 1 => some (BitVec.ofInt 64 (a.toInt * b.toInt / 2 ^ 64))
  | 1, 2 => some (BitVec.ofInt 64 (a.toInt * b.toNat / 2 ^ 64))
  | 1, 3 => some (BitVec.ofNat 64 (a.toNat * b.toNat / 2 ^ 64))
  | 1, 4 => some (BitVec.ofInt 64 (divS 64 a.toInt b.toInt))
  | 1, 5 => some (if b = 0 then BitVec.allOnes 64 else BitVec.ofNat 64 (a.toNat / b.toNat))
  | 1, 6 => some (BitVec.ofInt 64 (remS 64 a.toInt b.toInt))
  | 1, 7 => some (if b = 0 then a else BitVec.ofNat 64 (a.toNat % b.toNat))
  | _, _ => none

/-- Register-register operations of opcode OP-32. -/
def aluRW (f7 f3 : Nat) (a b : W64) : Option W64 :=
  let x : BitVec 32 := a.setWidth 32
  let y : BitVec 32 := b.setWidth 32
  let sh := b.toNat % 32
  let r : Option (BitVec 32) := match f7, f3 with
    | 0, 0 => some (x + y)
    | 0x20, 0 => some (x - y)
    | 0, 1 => some (x <<< sh)
    | 0, 5 => some (x >>> sh)
    | 0x20, 5 => some (x.sshiftRight sh)
    | 1, 0 => some (x * y)
    | 1, 4 => some (BitVec.ofInt 32 (divS 32 x.toInt y.toInt))
    | 1, 5 => some (if y = 0 then BitVec.allOnes 32 else BitVec.ofNat 32 (x.toNat / y.toNat))
    | 1, 6 => some (BitVec.ofInt 32 (remS 32 x.toInt y.toInt))
    | 1, 7 => some (if y = 0 then x else BitVec.ofNat 32 (x.toNat % y.toNat))
    | _, _ => none
  r.map fun v => v.signExtend 64

/-- Immediate operations of opcode OP-IMM; `imm` is the sign-extended immediate. -/
def aluI (f3 imm : Nat) (a : W64) : Option W64 :=
  let i := BitVec.ofNat 64 imm
  match f3 with
  | 1 => if imm / 64 % 64 = 0 then some (a <<< (imm % 64)) else none
  | 5 => if imm / 64 % 64 = 0 then some (a >>> (imm % 64))
         else if imm / 64 % 64 = 16 then some (a.sshiftRight (imm % 64)) else none
  | f => aluR 0 f a i

/-- Immediate operations of opcode OP-IMM-32. -/
def aluIW (f3 imm : Nat) (a : W64) : Option W64 :=
  let i := BitVec.ofNat 64 imm
  match f3 with
  | 0 => aluRW 0 0 a i
  | 1 => if imm / 32 % 128 = 0 then aluRW 0 1 a i else none
  | 5 => if imm / 32 % 128 = 0 then aluRW 0 5 a i else if imm / 32 % 128 = 0x20 then aluRW 0x20 5 a i else none
  | _ => none

/-- Whether a branch is taken. -/
def branchTaken (f3 : Nat) (a b : W64) : Option Bool :=
  match f3 with
  | 0 => some (a == b)
  | 1 => some (a != b)
  | 4 => some (decide (a.toInt < b.toInt))
  | 5 => some (decide (b.toInt ≤ a.toInt))
  | 6 => some (decide (a.toNat < b.toNat))
  | 7 => some (decide (b.toNat ≤ a.toNat))
  | _ => none

/-- The value that an AMO writes. -/
def amoOp (f5 n : Nat) (m r : Nat) : Option Nat :=
  let sm := signed (8 * n) m
  let sr := signed (8 * n) r
  let u := r % 2 ^ (8 * n)
  match f5 with
  | 0x01 => some u
  | 0x00 => some ((m + u) % 2 ^ (8 * n))
  | 0x04 => some (m ^^^ u)
  | 0x0C => some (m &&& u)
  | 0x08 => some (m ||| u)
  | 0x10 => some (if sm ≤ sr then m else u)
  | 0x14 => some (if sm ≤ sr then u else m)
  | 0x18 => some (if m ≤ u then m else u)
  | 0x1C => some (if m ≤ u then u else m)
  | _ => none

/-! ### Floating point (R61) -/

/-- The value of a single-precision register: a value that is not NaN-boxed reads as the canonical NaN. -/
def unbox (v : W64) : Nat := if v.toNat / 2 ^ 32 = 0xFFFFFFFF then v.toNat % 2 ^ 32 else 0x7FC00000

/-- A single-precision result NaN-boxed. -/
def box (b : Nat) : W64 := BitVec.ofNat 64 (0xFFFFFFFF00000000 + b % 2 ^ 32)

def Core.getF (c : Core) (r : Nat) : W64 := smGet (fun _ => 0) c.f r
def Core.setF (c : Core) (r : Nat) (v : W64) : Core := { c with f := smPut (fun _ => 0) r v c.f }

/-- The format of the 2-bit fmt field; none: not implemented. -/
def fpFmt (f : Nat) : Option FFmt := if f = 0 then some .f32 else if f = 1 then some .f64 else none

/-- The encoding that a register holds in a format. -/
def Core.getFp (c : Core) (f : FFmt) (r : Nat) : Nat := if f.width = 32 then unbox (c.getF r) else (c.getF r).toNat
def Core.setFp (c : Core) (f : FFmt) (r b : Nat) : Core := c.setF r (if f.width = 32 then box b else BitVec.ofNat 64 b)

/-- Exception flags joined to fcsr (NX 1, UF 2, OF 4, DZ 8, NV 16). -/
def Core.flag (c : Core) (fl : Nat) : Core := { c with fcsr := c.fcsr ||| fl % 32 }

/-- A signalling NaN. -/
def FFmt.isSnan (f : FFmt) (b : Nat) : Bool := (f.decode b).isNan && b / 2 ^ (f.man - 1) % 2 == 0

/-- The rounding mode that an instruction's rm field names, with frm for the dynamic one; none: reserved. -/
def rmOf (rm frm : Nat) : Option Rm :=
  match (if rm = 7 then frm else rm) with
  | 0 => some .rne
  | 1 => some .rtz
  | 2 => some .rdn
  | 3 => some .rup
  | 4 => some .rmm
  | _ => none

/-- A value rounded into a format, with the fcsr flags of the rounding. -/
def fpRound (f : FFmt) (rm : Rm) (x : FVal) : Nat × Nat :=
  let r := f.round rm x
  (r.bits, (if r.inexact then 1 else 0) + (if r.tiny && r.inexact then 2 else 0) + (if r.overflow then 4 else 0))

/-- An arithmetic result with its flags: NV for a signalling operand or for a NaN made of operands that hold none. -/
def fpResult (f : FFmt) (rm : Rm) (x : FVal) (ops : List Nat) (dz : Bool) : Nat × Nat :=
  let r := fpRound f rm x
  let nv := ops.any f.isSnan || (x.isNan && !ops.any fun b => (f.decode b).isNan)
  (r.1, r.2 ||| (if nv then 16 else 0) ||| (if dz && !nv then 8 else 0))

/-- minimumNumber and maximumNumber (F extension 2.2): a NaN operand gives the other; −0 lies below +0. -/
def fpMinMax (f : FFmt) (mx : Bool) (a b : Nat) : Nat × Nat :=
  let x := f.decode a
  let y := f.decode b
  let fl := if f.isSnan a || f.isSnan b then 16 else 0
  if x.isNan && y.isNan then (f.nanCode, fl)
  else if x.isNan then (b, fl)
  else if y.isNan then (a, fl)
  else
    let aLess := x.lt y || (x.eq y && x.neg?)
    ((if aLess == mx then b else a), fl)

/-- A floating value rounded to an integer. -/
def fpToInt (rm : Rm) (x : FVal) : Int × Bool :=
  match x with
  | .fin n m e =>
    if e ≥ 0 then ((if n then -(m * 2 ^ e.toNat : Int) else m * 2 ^ e.toNat), false)
    else
      let sh := (-e).toNat
      let lo := m / 2 ^ sh
      let rem := m % 2 ^ sh
      let v : Int := lo + (if roundsUp rm n lo rem sh then 1 else 0)
      ((if n then -v else v), rem != 0)
  | _ => (0, false)

/-- FCVT to an integer of `n` bits, signed or not: saturating, with NV; the result sign-extended to 64 bits. -/
def fpCvtInt (rm : Rm) (n : Nat) (uns : Bool) (x : FVal) : W64 × Nat :=
  let lo : Int := if uns then 0 else -(2 ^ (n - 1) : Int)
  let hi : Int := if uns then 2 ^ n - 1 else 2 ^ (n - 1) - 1
  let out := fun (v : Int) => BitVec.ofInt 64 (signed n (unsigned n v))
  match x with
  | .nan => (out hi, 16)
  | .inf true => (out lo, 16)
  | .inf false => (out hi, 16)
  | x =>
    let r := fpToInt rm x
    if r.1 < lo then (out lo, 16) else if hi < r.1 then (out hi, 16) else (out r.1, if r.2 then 1 else 0)

/-- FCLASS. -/
def fpClass (f : FFmt) (b : Nat) : Nat :=
  match f.decode b with
  | .nan => if f.isSnan b then 0x100 else 0x200
  | .inf n => if n then 0x001 else 0x080
  | .fin n m _ =>
    if m = 0 then (if n then 0x008 else 0x010)
    else if f.isSubnormal b then (if n then 0x004 else 0x020)
    else (if n then 0x002 else 0x040)

/-- What an instruction does to its core and its tile. -/
inductive Effect where
  | done (k : Core)
  | store (addr n v : Nat) (k : Core)
  | atomic (addr n v : Nat) (k : Core)
  | trap (cause tval : Nat)
  | ue (e : MemErr)
  | vblk (v : Nat) (k : Core)
  | counter (k : Core)

/-- The core with its pc moved past an instruction of `len` bytes. -/
def Core.advance (k : Core) (len : Nat) : Core := { k with pc := k.pc + BitVec.ofNat 64 len }

/-- Opcode OP-FP: illegal encodings answer none. -/
def opFp (k : Core) (w : Nat) : Option Core := do
  let f ← fpFmt (ib w 26 25)
  let rd := ib w 11 7
  let rs1 := ib w 19 15
  let rs2 := ib w 24 20
  let rm := ib w 14 12
  let a := k.getFp f rs1
  let b := k.getFp f rs2
  let x := f.decode a
  let y := f.decode b
  let frm := k.fcsr / 32 % 8
  let sgn := 2 ^ (f.width - 1)
  match ib w 31 27 with
  | 0x00 => do let m ← rmOf rm frm; let r := fpResult f m (x.add y (m == .rdn)) [a, b] false; some ((k.setFp f rd r.1).flag r.2)
  | 0x01 => do let m ← rmOf rm frm; let r := fpResult f m (x.add y.negate (m == .rdn)) [a, b] false; some ((k.setFp f rd r.1).flag r.2)
  | 0x02 => do let m ← rmOf rm frm; let r := fpResult f m (x.mul y) [a, b] false; some ((k.setFp f rd r.1).flag r.2)
  | 0x03 => do
    let m ← rmOf rm frm
    let r := fpResult f m (x.div y) [a, b] (y.isZero && x.isFinite && !x.isZero)
    some ((k.setFp f rd r.1).flag r.2)
  | 0x0B => do
    let m ← rmOf rm frm
    if rs2 = 0 then
      let r := fpResult f m x.sqrt [a] false
      some ((k.setFp f rd r.1).flag r.2)
    else none
  | 0x04 =>
    match rm with
    | 0 => some (k.setFp f rd (a % sgn + b / sgn * sgn))
    | 1 => some (k.setFp f rd (a % sgn + (1 - b / sgn) * sgn))
    | 2 => some (k.setFp f rd (a % sgn + (a / sgn + b / sgn) % 2 * sgn))
    | _ => none
  | 0x05 =>
    if rm ≤ 1 then
      let r := fpMinMax f (rm == 1) a b
      some ((k.setFp f rd r.1).flag r.2)
    else none
  | 0x08 => do
    let m ← rmOf rm frm
    if ib w 26 25 = 0 ∧ rs2 = 1 then
      let v := k.getFp .f64 rs1
      let r := fpRound .f32 m (FFmt.f64.decode v)
      some ((k.setFp .f32 rd r.1).flag (r.2 ||| if FFmt.f64.isSnan v then 16 else 0))
    else if ib w 26 25 = 1 ∧ rs2 = 0 then
      let v := k.getFp .f32 rs1
      let r := fpRound .f64 m (FFmt.f32.decode v)
      some ((k.setFp .f64 rd r.1).flag (r.2 ||| if FFmt.f32.isSnan v then 16 else 0))
    else none
  | 0x14 =>
    let anyNan := x.isNan || y.isNan
    let anySnan := f.isSnan a || f.isSnan b
    match rm with
    | 0 => some ((k.setX rd (if x.lt y || x.eq y then 1 else 0)).flag (if anyNan then 16 else 0))
    | 1 => some ((k.setX rd (if x.lt y then 1 else 0)).flag (if anyNan then 16 else 0))
    | 2 => some ((k.setX rd (if x.eq y then 1 else 0)).flag (if anySnan then 16 else 0))
    | _ => none
  | 0x18 => do
    let m ← rmOf rm frm
    if rs2 ≤ 3 then
      let r := fpCvtInt m (if rs2 < 2 then 32 else 64) (rs2 % 2 == 1) x
      some ((k.setX rd r.1).flag r.2)
    else none
  | 0x1A => do
    let m ← rmOf rm frm
    let v := k.getX rs1
    let i : Int := match rs2 with
      | 0 => signed 32 v.toNat
      | 1 => (v.toNat % 2 ^ 32 : Nat)
      | 2 => v.toInt
      | _ => v.toNat
    if rs2 ≤ 3 then
      let r := fpRound f m (FVal.ofInt i 0)
      some ((k.setFp f rd r.1).flag r.2)
    else none
  | 0x1C =>
    if rs2 ≠ 0 then none
    else if rm = 0 then
      some (k.setX rd (if f.width = 32 then BitVec.ofNat 64 (sx 32 ((k.getF rs1).toNat % 2 ^ 32)) else k.getF rs1))
    else if rm = 1 then some (k.setX rd (BitVec.ofNat 64 (fpClass f a)))
    else none
  | 0x1E =>
    if rs2 = 0 ∧ rm = 0 then some (k.setF rd (if f.width = 32 then box (k.getX rs1).toNat else k.getX rs1)) else none
  | _ => none

/-- The fused operations: rs1 × rs2 ± rs3, negated for FNMSUB and FNMADD. -/
def opFma (k : Core) (w : Nat) : Option Core := do
  let f ← fpFmt (ib w 26 25)
  let m ← rmOf (ib w 14 12) (k.fcsr / 32 % 8)
  let a := k.getFp f (ib w 19 15)
  let b := k.getFp f (ib w 24 20)
  let c := k.getFp f (ib w 31 27)
  let op := ib w 6 2
  let p := (f.decode a).mul (f.decode b)
  let p' := if op = 0x12 ∨ op = 0x13 then p.negate else p
  let c' := if op = 0x11 ∨ op = 0x13 then (f.decode c).negate else f.decode c
  let r := fpResult f m (p'.add c' (m == .rdn)) [a, b, c] false
  let nv := p.isNan && !(f.decode a).isNan && !(f.decode b).isNan
  some ((k.setFp f (ib w 11 7) r.1).flag (r.2 ||| if nv then 16 else 0))

/-! ### CSRs (R185, R189) -/

/-- misa: RV64 with the extensions A, C, D, F, I and M and with user mode. -/
def misaValue : Nat := 2 ^ 63 + 0x10112D

/-- The machine-mode CSRs that hold what is written: mstatus, mie, mtvec, mcounteren, menvcfg, mscratch, mepc, mcause, mtval, mip,
the two PMP configuration registers and the 16 PMP addresses (PRESUMED, log 14). -/
def machineCsrs : List Nat :=
  [0x300, 0x304, 0x305, 0x306, 0x30A, 0x340, 0x341, 0x342, 0x343, 0x344, 0x3A0, 0x3A2] ++ (List.range 16).map (0x3B0 + ·)

/-- What a machine-mode CSR holds; mhartid is 8 × tile + core (R185). -/
def State.machineCsr (s : State) (t c : Nat) (k : Core) (n : Nat) : Option Nat :=
  match n with
  | 0xF14 => some (8 * t + c)
  | 0xF11 => some 0
  | 0xF12 => some 0
  | 0xF13 => some 0
  | 0xF15 => some 0
  | 0x301 => some misaValue
  | 0xB00 => some (Config.freeNat s.free % 2 ^ 64)
  | 0xB02 => some (Config.freeNat s.free % 2 ^ 64)
  | _ => if machineCsrs.contains n then some (k.getCsr n).toNat else none

/-- What a CSR holds: fcsr and its parts, vblk and vl, the counters (free values, in user mode where mcounteren enables them), and in
machine mode that mode's registers; none: not readable. -/
def State.csrRead (s : State) (t c : Nat) (k : Core) (n : Nat) : Option Nat :=
  match n with
  | 0x001 => some (k.fcsr % 32)
  | 0x002 => some (k.fcsr / 32 % 8)
  | 0x003 => some (k.fcsr % 256)
  | 0x800 => some (s.tile t).vec.vblk
  | 0xCC0 => some (s.tile t).vec.vl
  | _ =>
    if 0xC00 ≤ n ∧ n ≤ 0xC02 then
      if k.machine || (k.getCsr 0x306).getLsbD (n - 0xC00) then some (Config.freeNat s.free % 2 ^ 64) else none
    else if k.machine then s.machineCsr t c k n
    else none

/-- The value that a machine-mode CSR takes from a write: mstatus keeps the fields of a machine with user mode and no other, mepc its
bit 0 clear, and a locked PMP entry what it holds. -/
def Core.legalCsr (k : Core) (n v : Nat) : Nat :=
  if n = 0x300 then v / 8 % 2 * 8 + v / 128 % 2 * 128 + (if v / 2048 % 4 = 3 then 6144 else 0) + v / 2 ^ 17 % 2 * 2 ^ 17
  else if n = 0x341 then v / 2 * 2
  else if n = 0x3A0 ∨ n = 0x3A2 then
    leNat ((List.range 8).map fun j =>
      let i := (n - 0x3A0) * 4 + j
      BitVec.ofNat 8 (if k.pmpCfg i / 128 = 1 then k.pmpCfg i else v / 256 ^ j % 256 &&& 0x9F))
  else if 0x3B0 ≤ n ∧ n ≤ 0x3BF then
    let i := n - 0x3B0
    if k.pmpCfg i / 128 = 1 ∨ (i < 15 ∧ k.pmpCfg (i + 1) / 128 = 1 ∧ k.pmpCfg (i + 1) / 8 % 4 = 1) then (k.getCsr n).toNat else v % 2 ^ 54
  else v

/-- A CSR written: the core with the new value; vblk is the vector unit's. -/
def csrWrite (k : Core) (n v : Nat) : Option Effect :=
  match n with
  | 0x001 => some (.done { k with fcsr := k.fcsr / 32 * 32 + v % 32 })
  | 0x002 => some (.done { k with fcsr := v % 8 * 32 + k.fcsr % 32 })
  | 0x003 => some (.done { k with fcsr := v % 256 })
  | 0x800 => some (.vblk (v % 4) k)
  | _ =>
    if !k.machine then none
    else if n = 0x301 ∨ n = 0xB00 ∨ n = 0xB02 then some (.done k)
    else if machineCsrs.contains n then some (.done (k.setCsr n (BitVec.ofNat 64 (k.legalCsr n v))))
    else none

/-- The Zicsr instructions; a write to a read-only CSR, or one that the mode lacks, is illegal. -/
def State.opCsr (s : State) (t c : Nat) (k : Core) (w len : Nat) : Effect :=
  let n := ib w 31 20
  let f3 := ib w 14 12
  let rs1 := ib w 19 15
  let src := if f3 ≥ 4 then rs1 else (k.getX rs1).toNat
  match s.csrRead t c k n with
  | none => .trap 2 w
  | some old =>
    let k1 := (k.setX (ib w 11 7) (BitVec.ofNat 64 old)).advance len
    let writes := f3 % 4 == 1 || rs1 != 0
    let v := match f3 % 4 with
      | 1 => src
      | 2 => old ||| src
      | _ => (BitVec.ofNat 64 old &&& ~~~(BitVec.ofNat 64 src)).toNat
    if !writes then (if (n / 256 = 0xC ∧ n ≠ 0xCC0) ∨ n = 0xB00 ∨ n = 0xB02 then .counter k1 else .done k1)
    else (csrWrite k1 n v).getD (.trap 2 w)

/-! ### Loads and stores -/

/-- A load into a core by `f`, or the load's trap. -/
def State.withLoad (s : State) (ue : List Nat) (t c a n : Nat) (f : Nat → Effect) : Effect :=
  match s.load ue t c a n with
  | .ok v => f v
  | .fault => .trap 5 a
  | .ue e => .ue e

/-- A store, or its trap. -/
def State.withStore (s : State) (t c a n v : Nat) (k : Core) : Effect := if s.coreOk t c a n 2 then .store a n v k else .trap 7 a

/-- The atomic instructions: LR, SC and the AMOs, naturally aligned (log 14). -/
def State.opAmo (s : State) (ue : List Nat) (t c : Nat) (k : Core) (w len : Nat) : Effect :=
  let f3 := ib w 14 12
  let n := if f3 = 2 then 4 else 8
  let f5 := ib w 31 27
  let rd := ib w 11 7
  let a := (k.getX (ib w 19 15)).toNat
  let r := (k.getX (ib w 24 20)).toNat
  let k1 := k.advance len
  if f3 ≠ 2 ∧ f3 ≠ 3 then .trap 2 w
  else if f5 = 2 then
    if ib w 24 20 ≠ 0 then .trap 2 w
    else if a % n ≠ 0 then .trap 4 a
    else s.withLoad ue t c a n fun v => .done { k1.setX rd (BitVec.ofNat 64 (sx (8 * n) v)) with reservation := some (a / 64) }
  else if a % n ≠ 0 then .trap 6 a
  else if f5 = 3 then
    if !s.coreOk t c a n 2 then .trap 7 a
    else if k.reservation = some (a / 64) then .atomic a n r { k1.setX rd 0 with reservation := none }
    else .done { k1.setX rd 1 with reservation := none }
  else match amoOp f5 n 0 r with
    | none => .trap 2 w
    | some _ =>
      if !s.coreOk t c a n 2 then .trap 7 a
      else match s.load ue t c a n with
      | .fault => .trap 7 a
      | .ue e => .ue e
      | .ok v => .atomic a n ((amoOp f5 n v r).getD v) (k1.setX rd (BitVec.ofNat 64 (sx (8 * n) v)))

/-! ### One instruction -/

/-- The sets of a FENCE: whether its predecessors hold writes, and whether its successors hold reads and device output. -/
def fenceSets (w : Nat) : Bool × Bool × Bool := (ib w 24 24 == 1, ib w 21 21 == 1, ib w 22 22 == 1)

/-- The effect of a standard 32-bit instruction word of length `len` on core `k`, number `c` of tile `t`. -/
def State.effect (s : State) (ue : List Nat) (t c : Nat) (k : Core) (w len : Nat) : Effect :=
  let rd := ib w 11 7
  let f3 := ib w 14 12
  let a := k.getX (ib w 19 15)
  let b := k.getX (ib w 24 20)
  let imm := sx 12 (ib w 31 20)
  let simm := sx 12 (ib w 31 25 * 32 + rd)
  let k1 := k.advance len
  let alu := fun (r : Option W64) => (r.map fun v => Effect.done (k1.setX rd v)).getD (.trap 2 w)
  let addr := (a + BitVec.ofNat 64 imm).toNat
  let saddr := (a + BitVec.ofNat 64 simm).toNat
  match ib w 6 0 with
  | 0x37 => .done (k1.setX rd (BitVec.ofNat 64 (sx 32 (ib w 31 12 * 4096))))
  | 0x17 => .done (k1.setX rd (k.pc + BitVec.ofNat 64 (sx 32 (ib w 31 12 * 4096))))
  | 0x6F =>
    let j := sx 21 (ib w 31 31 * 2 ^ 20 + ib w 19 12 * 2 ^ 12 + ib w 20 20 * 2 ^ 11 + ib w 30 21 * 2)
    .done { k.setX rd (k.pc + BitVec.ofNat 64 len) with pc := k.pc + BitVec.ofNat 64 j }
  | 0x67 =>
    if f3 = 0 then
      .done { k.setX rd (k.pc + BitVec.ofNat 64 len) with pc := (a + BitVec.ofNat 64 imm) &&& ~~~1#64 }
    else .trap 2 w
  | 0x63 =>
    let o := sx 13 (ib w 31 31 * 4096 + ib w 7 7 * 2048 + ib w 30 25 * 32 + ib w 11 8 * 2)
    match branchTaken f3 a b with
    | none => .trap 2 w
    | some true => .done { k with pc := k.pc + BitVec.ofNat 64 o }
    | some false => .done k1
  | 0x03 =>
    if f3 = 7 then .trap 2 w
    else
      let n := 2 ^ (f3 % 4)
      s.withLoad ue t c addr n fun v => .done (k1.setX rd (BitVec.ofNat 64 (if f3 < 4 then sx (8 * n) v else v)))
  | 0x23 => if f3 > 3 then .trap 2 w else s.withStore t c saddr (2 ^ f3) (b.toNat % 2 ^ (8 * 2 ^ f3)) k1
  | 0x13 => alu (aluI f3 imm a)
  | 0x1B => alu (aluIW f3 imm a)
  | 0x33 => alu (aluR (ib w 31 25) f3 a b)
  | 0x3B => alu (aluRW (ib w 31 25) f3 a b)
  | 0x0F =>
    let f := fenceSets w
    if f3 ≤ 1 then .done { k1 with loadsWait := k.loadsWait || (f3 == 0 && f.1 && f.2.1 && ib w 31 28 != 8 && !k.stores.isEmpty) }
    else .trap 2 w
  | 0x2F => s.opAmo ue t c k w len
  | 0x07 =>
    if f3 = 2 then s.withLoad ue t c addr 4 fun v => .done (k1.setF rd (box v))
    else if f3 = 3 then s.withLoad ue t c addr 8 fun v => .done (k1.setF rd (BitVec.ofNat 64 v))
    else .trap 2 w
  | 0x27 =>
    let v := (k.getF (ib w 24 20)).toNat
    if f3 = 2 then s.withStore t c saddr 4 (v % 2 ^ 32) k1 else if f3 = 3 then s.withStore t c saddr 8 v k1 else .trap 2 w
  | 0x43 => ((opFma k w).map fun k => Effect.done (k.advance len)).getD (.trap 2 w)
  | 0x47 => ((opFma k w).map fun k => Effect.done (k.advance len)).getD (.trap 2 w)
  | 0x4B => ((opFma k w).map fun k => Effect.done (k.advance len)).getD (.trap 2 w)
  | 0x4F => ((opFma k w).map fun k => Effect.done (k.advance len)).getD (.trap 2 w)
  | 0x53 => ((opFp k w).map fun k => Effect.done (k.advance len)).getD (.trap 2 w)
  | 0x73 =>
    if f3 % 4 ≠ 0 then s.opCsr t c k w len
    else if w = 0x00000073 then .trap (if k.machine then 11 else 8) 0
    else if w = 0x00100073 then .trap 3 k.pc.toNat
    else if w = 0x30200073 ∧ k.machine = true then .done k.returned
    else if w = 0x10500073 ∧ k.machine = true then .done k1
    else .trap 2 w
  | _ => .trap 2 w

/-- Whether an instruction waits until every earlier store of the core is acknowledged: an atomic, FENCE.I, a FENCE from writes to device
output (R244), and a load behind a FENCE from writes to reads (log 90). -/
def Core.waitsForStores (k : Core) (w : Nat) : Bool :=
  let f := fenceSets w
  match ib w 6 0 with
  | 0x2F => true
  | 0x0F => ib w 14 12 == 1 || (f.1 && f.2.2)
  | 0x03 => k.loadsWait
  | 0x07 => k.loadsWait
  | _ => false

/-- An effect carried out. -/
def State.apply (s : State) (t c : Nat) (e : Effect) : State :=
  match e with
  | .done k => s.setCore t c k
  | .store a n v k => (s.setCore t c k).bufferStore t c a n v
  | .atomic a n v k => (s.store t c a n v).setCore t c k
  | .trap cause tval => s.coreTrap t c cause tval
  | .ue e => s.coreUe t c e
  | .vblk v k =>
    let s1 := s.setCore t c k
    s1.setTile t { s1.tile t with vec := { (s1.tile t).vec with vblk := v } }
  | .counter k => s.tick.setCore t c k

/-- A standard instruction executed: the core's loads see its own buffered stores, and afterwards a free number of stores drains. -/
def State.standard (s : State) (t c : Nat) (ue : List Nat) (w len : Nat) : State :=
  let s1 := if (s.core t c).waitsForStores w then s.drainAll t c else s
  (s1.apply t c ((s1.drainAll t c).effect ue t c (s1.core t c) w len)).drainSome t c

end Sys2Proof.Machine
end

