-- ==== Sys2Proof/Machine/Vector.lean ====
section
/-!
DEFINITION. The custom instructions: the vector unit and tile control (R182 to R184, R188 to R190, Tables 6.9 to 6.11).
-/

namespace Sys2Proof.Machine

/-! ### Encodings (R189) -/

/-- A custom instruction: custom-0 with its funct7, custom-1 with OP2 and vs3, custom-2 with OP, custom-3 with funct7. -/
inductive Custom where
  | v0 (f7 : Nat) (a : VArgs)
  | v1 (op : Nat) (a : VArgs) (vs3 : Nat)
  | v2 (op : Nat) (m : VMem)
  | v3 (f7 rd rs1 rs2 : Nat)
deriving DecidableEq, Repr

/-- The funct7 values of Table 6.9. -/
def v0Codes : List Nat :=
  [0, 1, 2, 3, 4, 5, 6, 7, 8, 9, 0xA, 0xB, 0xC, 0xD, 0xE, 0xF, 0x10, 0x11, 0x18, 0x19, 0x1A, 0x1B, 0x1C] ++
  [0x20, 0x21, 0x22, 0x23, 0x24, 0x25, 0x26, 0x27, 0x28, 0x29, 0x2A, 0x2B, 0x30, 0x31, 0x38, 0x39]

/-- Whether a custom-0 encoding is listed: its funct7, and the fields that the table marks 0. -/
def v0Listed (f7 : Nat) (a : VArgs) : Bool :=
  v0Codes.contains f7 &&
  (!(f7 == 0x06 || f7 == 0x1C || f7 == 0x38) || a.vs2 == 0) &&
  (!(f7 == 0x18 || f7 == 0x19 || f7 == 0x1A) || a.vd == 0) &&
  (f7 != 0x1B || !a.masked)

/-- Whether a custom-2 encoding is listed: its OP, and a format of Table 6.11. -/
def v2Listed (op fmt : Nat) : Bool :=
  match op with
  | 0 => decide (fmt ≤ 2)
  | 1 => decide (fmt ≤ 2)
  | 2 => decide (3 ≤ fmt ∧ fmt ≤ 5)
  | 3 => decide (3 ≤ fmt ∧ fmt ≤ 5)
  | 4 => true
  | 5 => true
  | _ => false

/-- The operands of the custom-0 layout. -/
def vArgsOf (w : Nat) : VArgs :=
  { vd := ib w 11 7, vs1 := ib w 19 15, vs2 := ib w 24 20, masked := ib w 14 14 == 1, rc := ib w 13 12 }

/-- The custom instruction that a word is; none: not one of the listed encodings. -/
def decodeCustom (w : Nat) : Option Custom :=
  let a := vArgsOf w
  match ib w 6 0 with
  | 0x0B => if v0Listed (ib w 31 25) a then some (.v0 (ib w 31 25) a) else none
  | 0x2B => if ib w 26 25 = 3 then none else some (.v1 (ib w 26 25) a (ib w 31 27))
  | 0x5B =>
    if v2Listed (ib w 31 28) (ib w 14 12) then
      some (.v2 (ib w 31 28) { v := ib w 11 7, rs1 := ib w 19 15, rs2 := ib w 24 20, fmt := ib w 14 12, rc := ib w 27 26,
                               masked := ib w 25 25 == 1 })
    else none
  | 0x7B => if ib w 31 25 ≤ 6 ∧ ib w 14 12 = 0 then some (.v3 (ib w 31 25) (ib w 11 7) (ib w 19 15) (ib w 24 20)) else none
  | _ => none

/-- Whether a word lies in one of the four custom major opcodes. -/
def isCustom (w : Nat) : Bool := [0x0B, 0x2B, 0x5B, 0x7B].contains (ib w 6 0)

/-- Nebex-capable instructions (Tables 6.9 and 6.10, R188). -/
def nebexCapable : Custom → Bool
  | .v0 f7 _ => [0, 1, 2, 4, 5, 7, 0xA, 0xB, 0xC, 0xD, 0xE, 0xF, 0x10, 0x11, 0x18, 0x19, 0x1A, 0x1B, 0x1C, 0x30, 0x31, 0x38, 0x39].contains f7
  | .v1 _ _ _ => true
  | .v2 op m => if op = 0 ∨ op = 1 then m.fmt == 1 else if op = 2 ∨ op = 3 then false else true
  | .v3 _ _ _ _ => true

/-- Whether an instruction carries the reserved rounding code where it rounds: every custom-0 and custom-1 instruction (R189), and the
vector stores that convert, which outside Nebex-exact mode round with their RC field (R66, R188, log 88). -/
def Custom.badRc (nebex : Bool) : Custom → Bool
  | .v0 _ a => a.rc == 3
  | .v1 _ a _ => a.rc == 3
  | .v2 op m => m.rc == 3 && !nebex && ((op == 1 && m.fmt != 0) || op == 3)
  | .v3 _ _ _ _ => false

/-! ### The vector registers (R182) -/

def Vec.lane (v : Vec) (r l : Nat) : Nat := (smGet (fun _ => 0) v.regs (r * 512 + l)).toNat
def Vec.setLane (v : Vec) (r l b : Nat) : Vec := { v with regs := smPut (fun _ => 0) (r * 512 + l) (BitVec.ofNat 32 b) v.regs }

/-- Whether an instruction works on a lane: below VL, and not masked out (R182). -/
def Vec.active (v : Vec) (masked : Bool) (l : Nat) : Bool := decide (l < v.vl) && (!masked || v.vm.getLsbD l)

/-- A register written lane by lane with the results of `f`, and the flags that `f` raises. -/
def Vec.map (v : Vec) (masked : Bool) (vd : Nat) (f : Nat → Nat × Nat) : Vec × Nat :=
  (List.range 512).foldl (fun a l => if v.active masked l then
    let r := f l
    (a.1.setLane vd l r.1, a.2 ||| r.2) else a) (v, 0)

/-- How a vector instruction rounds: the tile's modes, and its operation's captured seed and epoch. -/
structure VMode where
  md : NumMode
  seed : W64
  epoch : Nat

/-- The rounding of a lane's result; `key` is the operation and its operands. DESIGN CHOICE (log 15): R68 numbers the elements of matrix
results and vector stores only. For a vector register's result in Nebex-exact mode the element is the lane, with j = 0 (the place in
the tree's level for VRSUM, 0 for VBCAST); outside it the draw is a free value of the seed, the epoch, the lane and the operands. -/
def VMode.rm (m : VMode) (rc lane : Nat) (key : List Nat) : Rm :=
  if m.md.nebex then .sr (draw m.seed m.epoch lane 0)
  else rmOfCode rc (Config.registerDraw m.seed m.epoch lane key % 65536)

/-- A lane operand as it is read (R70). In Nebex-exact mode it is read as BF16: a lane that holds no BF16 value is rounded with a free
draw (R85, log 15). -/
def VMode.read (m : VMode) (b : Nat) : FVal × Nat :=
  let x := readOperand 0 m.md.ftz b
  if m.md.nebex then
    let r := roundFtz .bf16 true (.sr (Config.registerDraw m.seed m.epoch 0 [b] % 65536)) x.1
    (FFmt.bf16.decode r.1, x.2 ||| r.2)
  else x

/-- A value rounded into a lane: to FP32, to BF16 in Nebex-exact mode (R62, R85). -/
def VMode.round (m : VMode) (rc lane : Nat) (key : List Nat) (x : FVal) : Nat × Nat :=
  if m.md.nebex then
    let q := roundFlags .bf16 true (m.rm rc lane key) x
    (q.1 * 65536, q.2)
  else roundFlags .f32 m.md.ftz (m.rm rc lane key) x

/-- An arithmetic result of operation `op` on the operands `ops`: rounded, with NV and DZ (R62). -/
def VMode.result (m : VMode) (rc lane op : Nat) (x : FVal) (ops : List Nat) (dz : Bool) : Nat × Nat :=
  let r := m.round rc lane (op :: ops) x
  let nv := ops.any FFmt.f32.isSnan || (x.isNan && !ops.any fun b => (FFmt.f32.decode b).isNan)
  (r.1, r.2 ||| flagIf nv Flag.nv ||| flagIf (dz && !nv) Flag.dz)

/-- minimum and maximum of IEEE 754-2019: a NaN operand gives NaN; −0 lies below +0 (R184). -/
def vMinMax (m : VMode) (mx : Bool) (a b : Nat) : Nat × Nat :=
  let x := m.read a
  let y := m.read b
  let fl := x.2 ||| y.2 ||| flagIf (FFmt.f32.isSnan a || FFmt.f32.isSnan b) Flag.nv
  if x.1.isNan || y.1.isNan then (FFmt.f32.nanCode, fl)
  else
    let aLess := x.1.lt y.1 || (x.1.eq y.1 && x.1.neg?)
    ((FFmt.f32.round .rne (if aLess == mx then y.1 else x.1)).bits, fl)

/-- The approximated functions at the operands that R183 fixes: zeros, infinities and NaN, and the operands that Table 6.9
sends to NaN; every other operand gives the hardware's own value within the bound. -/
def vApprox (f7 b : Nat) : Nat × Nat :=
  let x := FFmt.f32.decode b
  let nan := FFmt.f32.nanCode
  let inf := 0x7F800000
  let one := 0x3F800000
  let sg := b / 2 ^ 31 * 2 ^ 31
  match x with
  | .nan => (nan, flagIf (FFmt.f32.isSnan b) Flag.nv)
  | .inf n =>
    match f7 with
    | 0x20 => (if n then 0 else inf, 0)
    | 0x21 => (if n then 0 else inf, 0)
    | 0x22 => if n then (nan, Flag.nv) else (inf, 0)
    | 0x23 => if n then (nan, Flag.nv) else (inf, 0)
    | 0x24 => (sg, 0)
    | 0x25 => if n then (nan, Flag.nv) else (0, 0)
    | 0x26 => (sg + one, 0)
    | 0x27 => (if n then 0 else one, 0)
    | 0x28 => (if n then sg else inf, 0)
    | 0x29 => (if n then sg else inf, 0)
    | _ => (nan, Flag.nv)
  | .fin n m _ =>
    if m = 0 then
      match f7 with
      | 0x20 => (one, 0)
      | 0x21 => (one, 0)
      | 0x22 => (2 ^ 31 + inf, Flag.dz)
      | 0x23 => (2 ^ 31 + inf, Flag.dz)
      | 0x24 => (sg + inf, Flag.dz)
      | 0x25 => (sg + inf, Flag.dz)
      | 0x27 => (0x3F000000, 0)
      | 0x2B => (one, 0)
      | _ => (b, 0)
    else if n && (f7 == 0x22 || f7 == 0x23 || f7 == 0x25) then (nan, Flag.nv)
    else if (f7 == 0x2A || f7 == 0x2B) && (FVal.fin false 1 20).lt x.abs then (nan, Flag.nv)
    else approxValue f7 b

/-- A 32-bit element of a vector load or store, under FTZ a subnormal one as a zero of its sign; every other pattern keeps its bits, a
NaN its payload (R70, logs 83, 89). -/
def flushWord (ftz : Bool) (b : Nat) : Nat × Nat :=
  if ftz && FFmt.f32.isSubnormal b then (b / 2 ^ 31 % 2 * 2 ^ 31, Flag.flushed) else (b, 0)

/-- One lane of a custom-0 operation with a vector result. DEDUCED (log 83): VSGNJ, VSEL and VMOV move bits, so that a NaN keeps its
payload; R58 speaks of a NaN that the vector unit produces. -/
def vLane (m : VMode) (f7 rc lane a b : Nat) (vmBit : Bool) : Nat × Nat :=
  let x := m.read a
  let y := m.read b
  let two := fun (r : Nat × Nat) => (r.1, r.2 ||| x.2 ||| y.2)
  let one := fun (r : Nat × Nat) => (r.1, r.2 ||| x.2)
  match f7 with
  | 0x00 => two (m.result rc lane f7 (x.1.add y.1) [a, b] false)
  | 0x01 => two (m.result rc lane f7 (x.1.add y.1.negate) [a, b] false)
  | 0x02 => two (m.result rc lane f7 (x.1.mul y.1) [a, b] false)
  | 0x03 => two (m.result rc lane f7 (x.1.div y.1) [a, b] (y.1.isZero && x.1.isFinite && !x.1.isZero))
  | 0x04 => vMinMax m false a b
  | 0x05 => vMinMax m true a b
  | 0x06 => one (m.result rc lane f7 x.1.sqrt [a] false)
  | 0x07 => (a % 2 ^ 31 + b / 2 ^ 31 * 2 ^ 31, 0)
  | 0x08 => m.round rc lane [f7, a] (FVal.ofInt (signed 32 a) 0)
  | 0x09 =>
    match FFmt.f32.decode a with
    | .nan => (0, Flag.nv)
    | .inf n => (if n then 2 ^ 31 else 2 ^ 31 - 1, Flag.nv)
    | _ =>
      let r := fpToInt (m.rm rc lane [f7, a]) x.1
      if r.1 < -2 ^ 31 then (2 ^ 31, Flag.nv)
      else if r.1 > 2 ^ 31 - 1 then (2 ^ 31 - 1, Flag.nv)
      else (unsigned 32 r.1, x.2 ||| flagIf r.2 Flag.nx)
  | 0x0A => (a &&& b, 0)
  | 0x0B => (a ||| b, 0)
  | 0x0C => (a ^^^ b, 0)
  | 0x0D => (a * 2 ^ (b % 32) % 2 ^ 32, 0)
  | 0x0E => (a / 2 ^ (b % 32), 0)
  | 0x0F => (((BitVec.ofNat 32 a).sshiftRight (b % 32)).toNat, 0)
  | 0x10 => ((a + b) % 2 ^ 32, 0)
  | 0x11 => (a * b % 2 ^ 32, 0)
  | 0x1B => (if vmBit then a else b, 0)
  | 0x1C => (a, 0)
  | f =>
    if x.1.isNan then (FFmt.f32.nanCode, flagIf (FFmt.f32.isSnan a) Flag.nv)
    else
      let r := vApprox f (FFmt.f32.round .rne x.1).bits
      let z := flushWord m.md.ftz r.1
      (z.1, r.2 ||| z.2 ||| x.2)

/-- A comparison of two lanes, false for NaN: equal, less, less or equal. -/
def vCompare (m : VMode) (f7 a b : Nat) : Bool × Nat :=
  let x := m.read a
  let y := m.read b
  let anyNan := x.1.isNan || y.1.isNan
  let snan := FFmt.f32.isSnan a || FFmt.f32.isSnan b
  let fl := x.2 ||| y.2 ||| flagIf (if f7 = 0x18 then snan else anyNan) Flag.nv
  (match f7 with
    | 0x18 => x.1.eq y.1
    | 0x19 => x.1.lt y.1
    | _ => x.1.lt y.1 || x.1.eq y.1, fl)

/-- One level of the reduction tree of R184. -/
def treeLevel (f : Nat → Nat → Nat → Nat × Nat) : Nat → List Nat → List Nat × Nat
  | i, a :: b :: rest =>
    let r := f i a b
    let t := treeLevel f (i + 1) rest
    (r.1 :: t.1, r.2 ||| t.2)
  | _, xs => (xs, 0)

/-- The pairwise tree of 9 levels over 512 lanes (R184). -/
def tree (f : Nat → Nat → Nat → Nat × Nat) : Nat → List Nat → List Nat × Nat
  | 0, xs => (xs, 0)
  | n + 1, xs =>
    let l := treeLevel f 0 xs
    let r := tree f n l.1
    (r.1, l.2 ||| r.2)

/-- VRSUM and VRMAX: lanes at VL or above enter as −0 or −∞ (R184). -/
def vReduce (v : Vec) (m : VMode) (mx : Bool) (rc vs1 : Nat) : Nat × Nat :=
  let pad := if mx then 0xFF800000 else 0x80000000
  let xs := (List.range 512).map fun l => if l < v.vl then v.lane vs1 l else pad
  let r := tree (fun i a b => if mx then vMinMax m true a b else
    let x := m.read a
    let y := m.read b
    let q := m.result rc i 0x30 (x.1.add y.1) [a, b] false
    (q.1, q.2 ||| x.2 ||| y.2)) 9 xs
  (r.1.headD pad, r.2)

/-! ### Instructions carried out -/

/-- The mode of a kernel's vector instructions. -/
def State.vMode (s : State) (t c : Nat) : VMode :=
  let o := s.op t (s.core t c).slot
  { md := s.numMode t, seed := (o.map Op.seed).getD 0, epoch := (o.map Op.epoch).getD 0 }

/-- A vector instruction done: its flags raised on the tile and on the kernel's operation, the instruction counted, and the pc moved
on. -/
def State.vDone (s : State) (t c : Nat) (v : Vec) (fl : Nat) : State :=
  let k := s.core t c
  let s1 := s.setTile t { s.tile t with vec := v }
  let s2 := ((s1.raiseFlags t fl).bump .tileVectorInsts t).modOp t k.slot fun o => { o with flags := o.flags ||| fl }
  s2.setCore t c ((s2.core t c).advance 4)

/-- The value that VBCAST writes into every lane: FP32 of a scalar register under RC. A boxed FP32 is FP32 already and keeps its bits; in
Nebex-exact mode it becomes BF16 (R85). A conversion is invalid for a signalling NaN only (R62). -/
def vBroadcast (m : VMode) (rc f : Nat) : Nat × Nat :=
  let boxed := f / 2 ^ 32 == 0xFFFFFFFF
  if boxed && !m.md.nebex then (f % 2 ^ 32, 0)
  else
    let x := if boxed then readOperand 0 m.md.ftz (f % 2 ^ 32) else (FFmt.f64.decode f, 0)
    let snan := if boxed then FFmt.f32.isSnan (f % 2 ^ 32) else FFmt.f64.isSnan f
    let r := m.round rc 0 [0x38, f] x.1
    (r.1, r.2 ||| x.2 ||| flagIf snan Flag.nv)

/-- A custom-0 instruction (Table 6.9). -/
def State.run0 (s : State) (t c f7 : Nat) (a : VArgs) : State :=
  let v := (s.tile t).vec
  let m := s.vMode t c
  let k := s.core t c
  match f7 with
  | 0x18 => vCmp s v m
  | 0x19 => vCmp s v m
  | 0x1A => vCmp s v m
  | 0x30 => let r := vReduce v m false a.rc a.vs1; let w := v.map a.masked a.vd fun _ => (r.1, 0); s.vDone t c w.1 (if v.vl = 0 then 0 else r.2)
  | 0x31 => let r := vReduce v m true a.rc a.vs1; let w := v.map a.masked a.vd fun _ => (r.1, 0); s.vDone t c w.1 (if v.vl = 0 then 0 else r.2)
  | 0x38 =>
    let f := k.getF a.vs1
    let b := vBroadcast m a.rc f.toNat
    let w := v.map a.masked a.vd fun _ => b
    s.vDone t c w.1 w.2
  | 0x39 =>
    let l := (k.getX a.vs2).toNat
    if 512 ≤ l then s.coreTrap t c 5 l
    else if v.vl = 0 then s.vDone t c v 0
    else (s.setCore t c (k.setF a.vd (box (v.lane a.vs1 l)))).vDone t c v 0
  | _ =>
    let w := v.map a.masked a.vd fun l => vLane m f7 a.rc l (v.lane a.vs1 l) (v.lane a.vs2 l) (v.vm.getLsbD l)
    s.vDone t c w.1 w.2
where
  /-- A comparison writes the mask state vm in the lanes that it works on. -/
  vCmp (s : State) (v : Vec) (m : VMode) : State :=
    let r := (List.range 512).foldl (fun (x : BitVec 512 × Nat) l =>
      if v.active a.masked l then
        let q := vCompare m f7 (v.lane a.vs1 l) (v.lane a.vs2 l)
        ((x.1 &&& ~~~(1#512 <<< l)) ||| (if q.1 then 1#512 <<< l else 0#512), x.2 ||| q.2)
      else x) (v.vm, 0)
    s.vDone t c { v with vm := r.1 } r.2

/-- A custom-1 instruction: the fused multiply-adds, with one rounding (Table 6.10). DESIGN CHOICE (log 82): 0 × ∞ plus a quiet NaN sets
NV, which IEEE 754 leaves to the implementation. -/
def State.run1 (s : State) (t c op : Nat) (a : VArgs) (vs3 : Nat) : State :=
  let v := (s.tile t).vec
  let m := s.vMode t c
  let w := v.map a.masked a.vd fun l =>
    let ab := (v.lane a.vs1 l, v.lane a.vs2 l)
    let z := v.lane vs3 l
    let x := m.read ab.1
    let y := m.read ab.2
    let u := m.read z
    let p := x.1.mul y.1
    let p' := if op = 2 then p.negate else p
    let u' := if op = 1 then u.1.negate else u.1
    let r := m.result a.rc l (0x80 + op) (p'.add u') [ab.1, ab.2, z] false
    let nv := p.isNan && !x.1.isNan && !y.1.isNan
    (r.1, r.2 ||| x.2 ||| y.2 ||| u.2 ||| flagIf nv Flag.nv)
  s.vDone t c w.1 w.2

/-- The active lanes of an instruction, ascending. -/
def Vec.lanes (v : Vec) (masked : Bool) : List Nat := (List.range 512).filter fun l => v.active masked l

/-- The first error that a core's reads at tile-local addresses meet: an access fault, or an uncorrectable word. -/
def State.readErr (s : State) (ue : List Nat) (t c n : Nat) (as : List Nat) : Option (Nat ⊕ MemErr) :=
  as.findSome? fun a =>
    match s.load ue t c a n with
    | .ok _ => none
    | .fault => some (.inl a)
    | .ue e => some (.inr e)

/-- A vector load's error carried out, or the instruction that goes on when there is none. -/
def State.orErr (s : State) (t c : Nat) (e : Option (Nat ⊕ MemErr)) (go : State) : State :=
  match e with
  | some (.inl a) => s.coreTrap t c 5 a
  | some (.inr e) => s.coreUe t c e
  | none => go

/-- The address of a lane's element with a stride (Table 6.11). -/
def strideAddr (k : Core) (m : VMem) (size l : Nat) : Nat :=
  let st := if m.rs2 = 0 then BitVec.ofNat 64 size else k.getX m.rs2
  (k.getX m.rs1 + BitVec.ofNat 64 l * st).toNat

/-- VLD: elements converted to FP32, which is exact; under FTZ a subnormal operand reads as zero (R65, R70). A conversion of a
signalling NaN is invalid (R62). -/
def State.runVld (s : State) (t c : Nat) (m : VMem) (ue : List Nat) : State :=
  let v := (s.tile t).vec
  let md := s.vMode t c
  let k := s.core t c
  let sz := fmtWidth m.fmt / 8
  let e := s.readErr ue t c sz ((v.lanes m.masked).map (strideAddr k m sz))
  let w := v.map m.masked m.v fun l =>
    let b := s.readNat (tileAddr t (strideAddr k m sz l)) sz
    if m.fmt = 0 then flushWord md.md.ftz b
    else
      let x := readOperand m.fmt md.md.ftz b
      ((FFmt.f32.round .rne x.1).bits, x.2 ||| flagIf ((fmtOfCode m.fmt).any fun f => f.isSnan b) Flag.nv)
  s.orErr t c e (s.vDone t c w.1 w.2)

/-- VST: lanes converted with RC (SR draws with the element's place, R68); an FP32 store is exact. Under FTZ subnormal lanes are read,
and subnormal results stored, as zeros (R70, log 89). -/
def State.runVst (s : State) (t c : Nat) (m : VMem) : State :=
  let v := (s.tile t).vec
  let md := s.vMode t c
  let k := s.core t c
  let w := fmtWidth m.fmt
  let ls := v.lanes m.masked
  let bad := ls.find? fun l => !s.coreOk t c (strideAddr k m (w / 8) l) (w / 8) 2
  match bad with
  | some l => s.coreTrap t c 7 (strideAddr k m (w / 8) l)
  | none =>
    let r := ls.foldl (fun (x : State × Nat) l =>
      let a := strideAddr k m (w / 8) l
      let b := v.lane m.v l
      let e : Nat × Nat :=
        if m.fmt = 0 then flushWord md.md.ftz b
        else
          let y := readOperand 0 md.md.ftz b
          let d := if md.md.nebex then draw md.seed md.epoch l 0 else draw md.seed md.epoch (tileAddr t a * 8 / w) 0
          match fmtOfCode m.fmt with
          | some f =>
            let r := roundFlags f md.md.ftz (rmOfCode (storeRc md.md.nebex m.rc) d) y.1
            (r.1, r.2 ||| y.2 ||| flagIf (FFmt.f32.isSnan b) Flag.nv)
          | none => (0, 0)
      (x.1.store t c a (w / 8) e.1, x.2 ||| e.2)) (s, 0)
    r.1.vDone t c v r.2

/-- The byte of a lane's element in a block-scaled region (R60). -/
def blockAddr (fmt base l : Nat) : Nat := base + l * fmtWidth fmt / 8

/-- VLDQ: block-scaled elements at x[rs1], scale bytes at x[rs2] (Table 6.11). DESIGN CHOICE (log 85): R65 calls the conversion exact;
a decoded element beyond FP32's largest finite value becomes infinity, as RNE gives, and sets no flag. -/
def State.runVldq (s : State) (t c : Nat) (m : VMem) (ue : List Nat) : State :=
  let v := (s.tile t).vec
  let k := s.core t c
  let n := blockSize v.vblk
  let ea := (k.getX m.rs1).toNat
  let sa := (k.getX m.rs2).toNat
  let ls := v.lanes m.masked
  let e := s.readErr ue t c 1 (ls.map (blockAddr m.fmt ea) ++ ls.map fun l => sa + l / n)
  let w := v.map m.masked m.v fun l =>
    let b := (s.readByte (tileAddr t (blockAddr m.fmt ea l))).toNat
    let code := if m.fmt = 5 then b / 16 ^ (l % 2) % 16 else b
    let sc := (s.readByte (tileAddr t (sa + l / n))).toNat
    (((fmtOfCode m.fmt).map fun f => (FFmt.f32.round .rne (scaleElem f sc code)).bits).getD 0, 0)
  s.orErr t c e (s.vDone t c w.1 w.2)

/-- VSTQ: each block of the lanes below VL stored with its scale chosen; a final partial block is padded with +0 (R60, R72).
Lanes that the mask leaves out keep their elements and take no part in the scale (log 15). -/
def State.runVstq (s : State) (t c : Nat) (m : VMem) : State :=
  let v := (s.tile t).vec
  let md := s.vMode t c
  let k := s.core t c
  let n := blockSize v.vblk
  let ea := (k.getX m.rs1).toNat
  let sa := (k.getX m.rs2).toNat
  let nb := ceilDiv v.vl n
  let spots := (List.range (nb * n)).map (blockAddr m.fmt ea) ++ (List.range nb).map (sa + ·)
  match spots.find? (fun a => !s.coreOk t c a 1 2) with
  | some a => s.coreTrap t c 7 a
  | none =>
    let r := (List.range nb).foldl (fun (x : State × Nat) i =>
      let ls := (List.range n).map fun j => n * i + j
      let act := ls.filter fun l => v.active m.masked l
      let dr := fun l => draw md.seed md.epoch (if md.md.nebex then l else
        tileAddr t (blockAddr m.fmt ea 0) * 8 / fmtWidth m.fmt + l) 0
      let xs := act.map fun l => readOperand 0 md.md.ftz (v.lane m.v l)
      let e := encodeBlock m.fmt (storeRc md.md.nebex m.rc) (act.map dr) (xs.map Prod.fst)
      let put := fun (s : State) (l code : Nat) =>
        let a := blockAddr m.fmt ea l
        if m.fmt = 5 then
          let old := (s.readByte (tileAddr t a)).toNat
          s.store t c a 1 (if l % 2 = 0 then old / 16 * 16 + code % 16 else old % 16 + code % 16 * 16)
        else s.store t c a 1 code
      let s1 := (act.zip e.2.1).foldl (fun s p => put s p.1 p.2) x.1
      let s2 := (ls.filter fun l => decide (v.vl ≤ l)).foldl (fun s l => put s l 0) s1
      ((if act.isEmpty then s2 else s2.store t c (sa + i) 1 e.1), xs.foldl (fun f p => f ||| p.2) (x.2 ||| e.2.2))) (s, 0)
    r.1.vDone t c v r.2

/-- The address of a gathered or scattered lane. -/
def gatherAddr (k : Core) (v : Vec) (m : VMem) (l : Nat) : Nat :=
  (k.getX m.rs1 + BitVec.ofNat 64 (4 * v.lane m.rs2 l)).toNat

/-- VGATH. -/
def State.runVgath (s : State) (t c : Nat) (m : VMem) (ue : List Nat) : State :=
  let v := (s.tile t).vec
  let k := s.core t c
  let e := s.readErr ue t c 4 ((v.lanes m.masked).map (gatherAddr k v m))
  let w := v.map m.masked m.v fun l => flushWord (s.numMode t).ftz (s.readNat (tileAddr t (gatherAddr k v m l)) 4)
  s.orErr t c e (s.vDone t c w.1 w.2)

/-- VSCAT: for equal addresses the highest lane is written. -/
def State.runVscat (s : State) (t c : Nat) (m : VMem) : State :=
  let v := (s.tile t).vec
  let k := s.core t c
  let ls := v.lanes m.masked
  match ls.find? (fun l => !s.coreOk t c (gatherAddr k v m l) 4 2) with
  | some l => s.coreTrap t c 7 (gatherAddr k v m l)
  | none =>
    let w := fun l => flushWord (s.numMode t).ftz (v.lane m.v l)
    (ls.foldl (fun s l => s.store t c (gatherAddr k v m l) 4 (w l).1) s).vDone t c v (ls.foldl (fun f l => f ||| (w l).2) 0)

/-- A core's register written and its pc moved on. -/
def State.ctlDone (s : State) (t c rd : Nat) (v : W64) : State := s.setCore t c (((s.core t c).setX rd v).advance 4)

/-- TSIG (R190, R223, R464, Table 8.9a). A source is its unit's number. -/
def State.runTsig (s : State) (t c rs1 rs2 : Nat) : State :=
  let k := s.core t c
  let id := (k.getX rs1).toNat
  let d := signed 16 (k.getX rs2).toNat
  if !s.idValid id then s.coreEnd t c Code.syncIdRange (id % 65536)
  else
    let s1 := if d = 0 || s.idOff id then s else { s with transit := s.transit ++ [{ id := id, delta := d, source := t }] }
    s1.setCore t c (k.advance 4)

/-- TWAIT (R240, R249, R464, Table 8.9a). -/
def State.runTwait (s : State) (t c rd rs1 rs2 : Nat) : State :=
  let k := s.core t c
  let id := (k.getX rs1).toNat
  let th := (k.getX rs2).toNat % 65536
  if !s.idValid id then s.coreEnd t c Code.syncIdRange (id % 65536)
  else if th = 0 then s.ctlDone t c rd 0
  else if s.idOff id then s.ctlDone t c rd (BitVec.ofNat 64 Code.ctlDomainOff)
  else match s.wait id th with
    | .met => s.ctlDone t c rd 0
    | .poisoned => s.ctlDone t c rd (BitVec.ofNat 64 Code.syncPoison)
    | .unmet => s.setCore t c { k.advance 4 with state := .waiting id th rd }

/-- A custom-3 instruction (Table 6.11). -/
def State.run3 (s : State) (t c f7 rd rs1 rs2 : Nat) : State :=
  let k := s.core t c
  let x := s.tile t
  match f7 with
  | 0 =>
    let vl := min (k.getX rs1).toNat 512
    (s.setTile t { x with vec := { x.vec with vl := vl } }).ctlDone t c rd (BitVec.ofNat 64 vl)
  | 1 => (s.setTile t { x with vec := { x.vec with vblk := (k.getX rs1).toNat % 4 } }).setCore t c (k.advance 4)
  | 2 => s.runTsig t c rs1 rs2
  | 3 => s.runTwait t c rd rs1 rs2
  | 4 => s.setCore t c (k.advance 4)
  | 5 => s.coreExit t c (k.getX rs1)
  | _ => s.ctlDone t c rd (BitVec.ofNat 64 (8 * t + c))

/-- A listed custom instruction: its kernel ends when the core is not bound to the vector unit, when the instruction lies
outside Nebex-exact mode, or on a reserved rounding code; else it has its effect (R188, R189). -/
def State.runCustom (s : State) (t c : Nat) (ue : List Nat) (i : Custom) : State :=
  let vector := match i with
    | .v3 _ _ _ _ => false
    | _ => true
  if vector && (s.tile t).vec.core != some c then s.coreEnd t c Code.tileVectorIllegal
  else if s.get .tileNumCtlNebex t = 1 && !nebexCapable i then s.coreEnd t c Code.numNebexUnsupported
  else if i.badRc (s.get .tileNumCtlNebex t == 1) then s.coreEnd t c Code.numRoundCode
  else match i with
    | .v0 f7 a => s.run0 t c f7 a
    | .v1 op a vs3 => s.run1 t c op a vs3
    | .v2 op m =>
      match op with
      | 0 => s.runVld t c m ue
      | 1 => s.runVst t c m
      | 2 => s.runVldq t c m ue
      | 3 => s.runVstq t c m
      | 4 => s.runVgath t c m ue
      | _ => s.runVscat t c m
    | .v3 f7 rd rs1 rs2 => s.run3 t c f7 rd rs1 rs2

/-- Whether a core runs: inserted duty stops the cores of its tile at an instruction boundary (R378). -/
def State.coreGoes (s : State) (t c : Nat) : Bool := (s.core t c).state == .running && !(s.tile t).dutyStopped

/-- The listed custom instruction at a running core's pc. -/
def State.customAt (s : State) (t c : Nat) : Option Custom :=
  if s.coreGoes t c = true then
    match s.fetchInst [] t c with
    | .word w 4 => decodeCustom w
    | _ => none
  else none

/-- A core executes the custom instruction `i`, when that instruction stands at its pc. A vector load or store comes after the core's
earlier scalar stores (log 90). -/
def State.custom (s : State) (t c : Nat) (ue : List Nat) (i : Custom) : State :=
  if s.customAt t c = some i then
    match i with
    | .v2 _ _ => (s.drainAll t c).runCustom t c ue i
    | _ => s.runCustom t c ue i
  else s

/-- A core executes a standard instruction; an unlisted custom encoding ends its kernel (R185, R186, R189). -/
def State.scalarInst (s : State) (t c : Nat) (ue : List Nat) : State :=
  if s.coreGoes t c = false then s
  else match s.fetchInst ue t c with
    | .fault => s.coreTrap t c 1 (s.core t c).pc.toNat
    | .ue e => s.coreUe t c e
    | .illegal h => s.coreTrap t c 2 h
    | .word w len =>
      if isCustom w then
        if (decodeCustom w).isSome then s else s.coreEnd t c Code.tileVectorIllegal
      else s.standard t c ue w len

def execScalarInstruction (t c : Nat) (e : Ecc) (s : State) : Host.Outcome State Fault Refusal :=
  .next ((s.corrected e.ce).scalarInst t c e.ue)

/-- A core executes a custom-3 instruction, when one with these registers stands at its pc; register fields that the
instruction does not use may hold anything. Service cores (t 64) run from their own memory, which the table's rows do not
reach, so no instruction word is asked of them (log 16). -/
def State.ctlInst (s : State) (t c f7 rd rs1 : Nat) (rs2 : Option Nat) : State :=
  if t = 64 then
    if f7 = 2 ∨ f7 = 3 then s.run3 t c f7 rd rs1 (rs2.getD 0) else s
  else match s.customAt t c with
    | some (.v3 g d a b) =>
      let usesRd := f7 == 0 || f7 == 3 || f7 == 6
      let usesRs1 := f7 != 4 && f7 != 6
      if g = f7 && (!usesRd || d == rd) && (!usesRs1 || a == rs1) && rs2.elim true (· == b) then
        s.runCustom t c [] (.v3 f7 rd rs1 b)
      else s
    | _ => s

def execVadd (t c : Nat) (a : VArgs) (s : State) : Host.Outcome State Fault Refusal := .next (s.custom t c [] (.v0 0 a))
def execVsub (t c : Nat) (a : VArgs) (s : State) : Host.Outcome State Fault Refusal := .next (s.custom t c [] (.v0 1 a))
def execVmul (t c : Nat) (a : VArgs) (s : State) : Host.Outcome State Fault Refusal := .next (s.custom t c [] (.v0 2 a))
def execVdiv (t c : Nat) (a : VArgs) (s : State) : Host.Outcome State Fault Refusal := .next (s.custom t c [] (.v0 3 a))
def execVmin (t c : Nat) (a : VArgs) (s : State) : Host.Outcome State Fault Refusal := .next (s.custom t c [] (.v0 4 a))
def execVmax (t c : Nat) (a : VArgs) (s : State) : Host.Outcome State Fault Refusal := .next (s.custom t c [] (.v0 5 a))
def execVsqrt (t c : Nat) (a : VArgs) (s : State) : Host.Outcome State Fault Refusal := .next (s.custom t c [] (.v0 6 a))
def execVsgnj (t c : Nat) (a : VArgs) (s : State) : Host.Outcome State Fault Refusal := .next (s.custom t c [] (.v0 7 a))
def execVcvtif (t c : Nat) (a : VArgs) (s : State) : Host.Outcome State Fault Refusal := .next (s.custom t c [] (.v0 8 a))
def execVcvtfi (t c : Nat) (a : VArgs) (s : State) : Host.Outcome State Fault Refusal := .next (s.custom t c [] (.v0 9 a))
def execVand (t c : Nat) (a : VArgs) (s : State) : Host.Outcome State Fault Refusal := .next (s.custom t c [] (.v0 0xA a))
def execVor (t c : Nat) (a : VArgs) (s : State) : Host.Outcome State Fault Refusal := .next (s.custom t c [] (.v0 0xB a))
def execVxor (t c : Nat) (a : VArgs) (s : State) : Host.Outcome State Fault Refusal := .next (s.custom t c [] (.v0 0xC a))
def execVsll (t c : Nat) (a : VArgs) (s : State) : Host.Outcome State Fault Refusal := .next (s.custom t c [] (.v0 0xD a))
def execVsrl (t c : Nat) (a : VArgs) (s : State) : Host.Outcome State Fault Refusal := .next (s.custom t c [] (.v0 0xE a))
def execVsra (t c : Nat) (a : VArgs) (s : State) : Host.Outcome State Fault Refusal := .next (s.custom t c [] (.v0 0xF a))
def execViadd (t c : Nat) (a : VArgs) (s : State) : Host.Outcome State Fault Refusal := .next (s.custom t c [] (.v0 0x10 a))
def execVimul (t c : Nat) (a : VArgs) (s : State) : Host.Outcome State Fault Refusal := .next (s.custom t c [] (.v0 0x11 a))
def execVcmpeq (t c : Nat) (a : VArgs) (s : State) : Host.Outcome State Fault Refusal := .next (s.custom t c [] (.v0 0x18 a))
def execVcmplt (t c : Nat) (a : VArgs) (s : State) : Host.Outcome State Fault Refusal := .next (s.custom t c [] (.v0 0x19 a))
def execVcmple (t c : Nat) (a : VArgs) (s : State) : Host.Outcome State Fault Refusal := .next (s.custom t c [] (.v0 0x1A a))
def execVsel (t c : Nat) (a : VArgs) (s : State) : Host.Outcome State Fault Refusal := .next (s.custom t c [] (.v0 0x1B a))
def execVmov (t c : Nat) (a : VArgs) (s : State) : Host.Outcome State Fault Refusal := .next (s.custom t c [] (.v0 0x1C a))
def execVexp2 (t c : Nat) (a : VArgs) (s : State) : Host.Outcome State Fault Refusal := .next (s.custom t c [] (.v0 0x20 a))
def execVexp (t c : Nat) (a : VArgs) (s : State) : Host.Outcome State Fault Refusal := .next (s.custom t c [] (.v0 0x21 a))
def execVlog2 (t c : Nat) (a : VArgs) (s : State) : Host.Outcome State Fault Refusal := .next (s.custom t c [] (.v0 0x22 a))
def execVln (t c : Nat) (a : VArgs) (s : State) : Host.Outcome State Fault Refusal := .next (s.custom t c [] (.v0 0x23 a))
def execVrcp (t c : Nat) (a : VArgs) (s : State) : Host.Outcome State Fault Refusal := .next (s.custom t c [] (.v0 0x24 a))
def execVrsqrt (t c : Nat) (a : VArgs) (s : State) : Host.Outcome State Fault Refusal := .next (s.custom t c [] (.v0 0x25 a))
def execVtanh (t c : Nat) (a : VArgs) (s : State) : Host.Outcome State Fault Refusal := .next (s.custom t c [] (.v0 0x26 a))
def execVsigm (t c : Nat) (a : VArgs) (s : State) : Host.Outcome State Fault Refusal := .next (s.custom t c [] (.v0 0x27 a))
def execVgelu (t c : Nat) (a : VArgs) (s : State) : Host.Outcome State Fault Refusal := .next (s.custom t c [] (.v0 0x28 a))
def execVsilu (t c : Nat) (a : VArgs) (s : State) : Host.Outcome State Fault Refusal := .next (s.custom t c [] (.v0 0x29 a))
def execVsin (t c : Nat) (a : VArgs) (s : State) : Host.Outcome State Fault Refusal := .next (s.custom t c [] (.v0 0x2A a))
def execVcos (t c : Nat) (a : VArgs) (s : State) : Host.Outcome State Fault Refusal := .next (s.custom t c [] (.v0 0x2B a))
def execVrsum (t c : Nat) (a : VArgs) (s : State) : Host.Outcome State Fault Refusal := .next (s.custom t c [] (.v0 0x30 a))
def execVrmax (t c : Nat) (a : VArgs) (s : State) : Host.Outcome State Fault Refusal := .next (s.custom t c [] (.v0 0x31 a))
def execVbcast (t c : Nat) (a : VArgs) (s : State) : Host.Outcome State Fault Refusal := .next (s.custom t c [] (.v0 0x38 a))
def execVextr (t c : Nat) (a : VArgs) (s : State) : Host.Outcome State Fault Refusal := .next (s.custom t c [] (.v0 0x39 a))
def execVfma (t c : Nat) (a : VArgs) (vs3 : Nat) (s : State) : Host.Outcome State Fault Refusal := .next (s.custom t c [] (.v1 0 a vs3))
def execVfms (t c : Nat) (a : VArgs) (vs3 : Nat) (s : State) : Host.Outcome State Fault Refusal := .next (s.custom t c [] (.v1 1 a vs3))
def execVfnma (t c : Nat) (a : VArgs) (vs3 : Nat) (s : State) : Host.Outcome State Fault Refusal := .next (s.custom t c [] (.v1 2 a vs3))

def execVld (t c : Nat) (m : VMem) (e : Ecc) (s : State) : Host.Outcome State Fault Refusal := .next ((s.corrected e.ce).custom t c e.ue (.v2 0 m))
def execVst (t c : Nat) (m : VMem) (s : State) : Host.Outcome State Fault Refusal := .next (s.custom t c [] (.v2 1 m))
def execVldq (t c : Nat) (m : VMem) (e : Ecc) (s : State) : Host.Outcome State Fault Refusal := .next ((s.corrected e.ce).custom t c e.ue (.v2 2 m))
def execVstq (t c : Nat) (m : VMem) (s : State) : Host.Outcome State Fault Refusal := .next (s.custom t c [] (.v2 3 m))
def execVgath (t c : Nat) (m : VMem) (e : Ecc) (s : State) : Host.Outcome State Fault Refusal := .next ((s.corrected e.ce).custom t c e.ue (.v2 4 m))
def execVscat (t c : Nat) (m : VMem) (s : State) : Host.Outcome State Fault Refusal := .next (s.custom t c [] (.v2 5 m))

def execTsetvl (t c rd rs1 : Nat) (s : State) : Host.Outcome State Fault Refusal := .next (s.ctlInst t c 0 rd rs1 none)
def execTsetblk (t c rs1 : Nat) (s : State) : Host.Outcome State Fault Refusal := .next (s.ctlInst t c 1 0 rs1 none)
def execTsig (t c rs1 rs2 : Nat) (s : State) : Host.Outcome State Fault Refusal := .next (s.ctlInst t c 2 0 rs1 (some rs2))
def execTwait (t c rd rs1 rs2 : Nat) (s : State) : Host.Outcome State Fault Refusal := .next (s.ctlInst t c 3 rd rs1 (some rs2))
def execTvfence (t c : Nat) (s : State) : Host.Outcome State Fault Refusal := .next (s.ctlInst t c 4 0 0 none)
def execTexit (t c rs1 : Nat) (s : State) : Host.Outcome State Fault Refusal := .next (s.ctlInst t c 5 0 rs1 none)
def execTcore (t c rd : Nat) (s : State) : Host.Outcome State Fault Refusal := .next (s.ctlInst t c 6 rd 0 none)

end Sys2Proof.Machine
end

