-- ==== Sys2Proof/Machine/Dispatch.lean ====
section
/-!
DEFINITION. The dispatch of commands: one arm per constructor of `Instr`, each one direct call of its meaning.
-/

namespace Sys2Proof.Machine

/-- The effect of a command on everything but the queue. -/
def exec (i : Instr) (s : State) : Host.Outcome State Fault Refusal :=
  match i with
  | .registerWrite a addr size v ev => Sys2Proof.Machine.execRegisterWrite a addr size v ev s
  | .rcRegisterRead a addr size ev => Sys2Proof.Machine.execRcRegisterRead a addr size ev s
  | .commitGo p inst => Sys2Proof.Machine.execCommitGo p inst s
  | .commitCheckDone p inst => Sys2Proof.Machine.execCommitCheckDone p inst s
  | .blendCheck apply => Sys2Proof.Machine.execBlendCheck apply s
  | .blendCheckDone => Sys2Proof.Machine.execBlendCheckDone s
  | .blendApply check => Sys2Proof.Machine.execBlendApply check s
  | .blendQuiescePoint => Sys2Proof.Machine.execBlendQuiescePoint s
  | .blendNotQuiesced => Sys2Proof.Machine.execBlendNotQuiesced s
  | .blendCommitPoint => Sys2Proof.Machine.execBlendCommitPoint s
  | .caskPass t q e => Sys2Proof.Machine.execCaskPass t q e s
  | .caskLayerSwitchDone die mac => Sys2Proof.Machine.execCaskLayerSwitchDone die mac s
  | .caskPassFire die mac => Sys2Proof.Machine.execCaskPassFire die mac s
  | .caskPhaseEnd die mac e => Sys2Proof.Machine.execCaskPhaseEnd die mac e s
  | .caskAbort die mac => Sys2Proof.Machine.execCaskAbort die mac s
  | .caskPassDone t slot e => Sys2Proof.Machine.execCaskPassDone t slot e s
  | .referencePhase die mac => Sys2Proof.Machine.execReferencePhase die mac s
  | .caskOlt die w => Sys2Proof.Machine.execCaskOlt die w s
  | .caskOltDone die readings => Sys2Proof.Machine.execCaskOltDone die readings s
  | .caskDacTest die w => Sys2Proof.Machine.execCaskDacTest die w s
  | .caskDacTestDone die readings => Sys2Proof.Machine.execCaskDacTestDone die readings s
  | .tileCringRptrWrite t r v => Sys2Proof.Machine.execTileCringRptrWrite t r v s
  | .calLoadDone die badSets => Sys2Proof.Machine.execCalLoadDone die badSets s
  | .calTempTrigger die temp => Sys2Proof.Machine.execCalTempTrigger die temp s
  | .calReqRun die w => Sys2Proof.Machine.execCalReqRun die w s
  | .calRetry die => Sys2Proof.Machine.execCalRetry die s
  | .calVisit die first values => Sys2Proof.Machine.execCalVisit die first values s
  | .calRunEnd die => Sys2Proof.Machine.execCalRunEnd die s
  | .calReinterpolate die temp => Sys2Proof.Machine.execCalReinterpolate die temp s
  | .calValuesTakeEffect die mac => Sys2Proof.Machine.execCalValuesTakeEffect die mac s
  | .cwrFlush die => Sys2Proof.Machine.execCwrFlush die s
  | .cwrLoad die => Sys2Proof.Machine.execCwrLoad die s
  | .cwrResume die => Sys2Proof.Machine.execCwrResume die s
  | .cwrRepairColumn die => Sys2Proof.Machine.execCwrRepairColumn die s
  | .cwrRepairMacro die => Sys2Proof.Machine.execCwrRepairMacro die s
  | .cwrRepairReference die => Sys2Proof.Machine.execCwrRepairReference die s
  | .cwrAdmit die mac layer e => Sys2Proof.Machine.execCwrAdmit die mac layer e s
  | .cwrTakeLayer die mac layer e => Sys2Proof.Machine.execCwrTakeLayer die mac layer e s
  | .cwrRow die mac layer cells iters => Sys2Proof.Machine.execCwrRow die mac layer cells iters s
  | .cwrRelease die mac layer e => Sys2Proof.Machine.execCwrRelease die mac layer e s
  | .cwrTokenTick die => Sys2Proof.Machine.execCwrTokenTick die s
  | .cwrGovernorSave => Sys2Proof.Machine.execCwrGovernorSave s
  | .matrixOp t q e => Sys2Proof.Machine.execMatrixOp t q e s
  | .quadrantFault t array quad => Sys2Proof.Machine.execQuadrantFault t array quad s
  | .scratchScrub t addr o => Sys2Proof.Machine.execScratchScrub t addr o s
  | .vectorKernel t q => Sys2Proof.Machine.execVectorKernel t q s
  | .scalarKernel t q => Sys2Proof.Machine.execScalarKernel t q s
  | .kernelStart t slot => Sys2Proof.Machine.execKernelStart t slot s
  | .scalarInstruction t c e => Sys2Proof.Machine.execScalarInstruction t c e s
  | .vadd t c a => Sys2Proof.Machine.execVadd t c a s
  | .vsub t c a => Sys2Proof.Machine.execVsub t c a s
  | .vmul t c a => Sys2Proof.Machine.execVmul t c a s
  | .vdiv t c a => Sys2Proof.Machine.execVdiv t c a s
  | .vmin t c a => Sys2Proof.Machine.execVmin t c a s
  | .vmax t c a => Sys2Proof.Machine.execVmax t c a s
  | .vsqrt t c a => Sys2Proof.Machine.execVsqrt t c a s
  | .vsgnj t c a => Sys2Proof.Machine.execVsgnj t c a s
  | .vcvtif t c a => Sys2Proof.Machine.execVcvtif t c a s
  | .vcvtfi t c a => Sys2Proof.Machine.execVcvtfi t c a s
  | .vand t c a => Sys2Proof.Machine.execVand t c a s
  | .vor t c a => Sys2Proof.Machine.execVor t c a s
  | .vxor t c a => Sys2Proof.Machine.execVxor t c a s
  | .vsll t c a => Sys2Proof.Machine.execVsll t c a s
  | .vsrl t c a => Sys2Proof.Machine.execVsrl t c a s
  | .vsra t c a => Sys2Proof.Machine.execVsra t c a s
  | .viadd t c a => Sys2Proof.Machine.execViadd t c a s
  | .vimul t c a => Sys2Proof.Machine.execVimul t c a s
  | .vcmpeq t c a => Sys2Proof.Machine.execVcmpeq t c a s
  | .vcmplt t c a => Sys2Proof.Machine.execVcmplt t c a s
  | .vcmple t c a => Sys2Proof.Machine.execVcmple t c a s
  | .vsel t c a => Sys2Proof.Machine.execVsel t c a s
  | .vmov t c a => Sys2Proof.Machine.execVmov t c a s
  | .vexp2 t c a => Sys2Proof.Machine.execVexp2 t c a s
  | .vexp t c a => Sys2Proof.Machine.execVexp t c a s
  | .vlog2 t c a => Sys2Proof.Machine.execVlog2 t c a s
  | .vln t c a => Sys2Proof.Machine.execVln t c a s
  | .vrcp t c a => Sys2Proof.Machine.execVrcp t c a s
  | .vrsqrt t c a => Sys2Proof.Machine.execVrsqrt t c a s
  | .vtanh t c a => Sys2Proof.Machine.execVtanh t c a s
  | .vsigm t c a => Sys2Proof.Machine.execVsigm t c a s
  | .vgelu t c a => Sys2Proof.Machine.execVgelu t c a s
  | .vsilu t c a => Sys2Proof.Machine.execVsilu t c a s
  | .vsin t c a => Sys2Proof.Machine.execVsin t c a s
  | .vcos t c a => Sys2Proof.Machine.execVcos t c a s
  | .vrsum t c a => Sys2Proof.Machine.execVrsum t c a s
  | .vrmax t c a => Sys2Proof.Machine.execVrmax t c a s
  | .vbcast t c a => Sys2Proof.Machine.execVbcast t c a s
  | .vextr t c a => Sys2Proof.Machine.execVextr t c a s
  | .vfma t c a vs3 => Sys2Proof.Machine.execVfma t c a vs3 s
  | .vfms t c a vs3 => Sys2Proof.Machine.execVfms t c a vs3 s
  | .vfnma t c a vs3 => Sys2Proof.Machine.execVfnma t c a vs3 s
  | .vld t c m e => Sys2Proof.Machine.execVld t c m e s
  | .vst t c m => Sys2Proof.Machine.execVst t c m s
  | .vldq t c m e => Sys2Proof.Machine.execVldq t c m e s
  | .vstq t c m => Sys2Proof.Machine.execVstq t c m s
  | .vgath t c m e => Sys2Proof.Machine.execVgath t c m e s
  | .vscat t c m => Sys2Proof.Machine.execVscat t c m s
  | .tsetvl t c rd rs1 => Sys2Proof.Machine.execTsetvl t c rd rs1 s
  | .tsetblk t c rs1 => Sys2Proof.Machine.execTsetblk t c rs1 s
  | .tsig t c rs1 rs2 => Sys2Proof.Machine.execTsig t c rs1 rs2 s
  | .twait t c rd rs1 rs2 => Sys2Proof.Machine.execTwait t c rd rs1 rs2 s
  | .tvfence t c => Sys2Proof.Machine.execTvfence t c s
  | .texit t c rs1 => Sys2Proof.Machine.execTexit t c rs1 s
  | .tcore t c rd => Sys2Proof.Machine.execTcore t c rd s
  | .opqTailWrite t q v => Sys2Proof.Machine.execOpqTailWrite t q v s
  | .descriptorFetch t e => Sys2Proof.Machine.execDescriptorFetch t e s
  | .opComplete t slot e => Sys2Proof.Machine.execOpComplete t slot e s
  | .opqResume t q => Sys2Proof.Machine.execOpqResume t q s
  | .opqSkip t q => Sys2Proof.Machine.execOpqSkip t q s
  | .opqSkipSignal t q => Sys2Proof.Machine.execOpqSkipSignal t q s
  | .opqFlush t q => Sys2Proof.Machine.execOpqFlush t q s
  | .opqPreemptGo t => Sys2Proof.Machine.execOpqPreemptGo t s
  | .opqPreemptDone t => Sys2Proof.Machine.execOpqPreemptDone t s
  | .opqPreemptRelease t => Sys2Proof.Machine.execOpqPreemptRelease t s
  | .signalArrive id n => Sys2Proof.Machine.execSignalArrive id n s
  | .syncCtrValueWrite unit idx v => Sys2Proof.Machine.execSyncCtrValueWrite unit idx v s
  | .syncRearm unit w => Sys2Proof.Machine.execSyncRearm unit w s
  | .waiterWake w e => Sys2Proof.Machine.execWaiterWake w e s
  | .syncNop t q => Sys2Proof.Machine.execSyncNop t q s
  | .syncSet t q => Sys2Proof.Machine.execSyncSet t q s
  | .remoteAdd t q => Sys2Proof.Machine.execRemoteAdd t q s
  | .fence t q => Sys2Proof.Machine.execFence t q s
  | .ctxOpen inst w => Sys2Proof.Machine.execCtxOpen inst w s
  | .ctxRetire inst w => Sys2Proof.Machine.execCtxRetire inst w s
  | .ctxQuery inst w => Sys2Proof.Machine.execCtxQuery inst w s
  | .ctxEdge inst => Sys2Proof.Machine.execCtxEdge inst s
  | .ctxDrained c => Sys2Proof.Machine.execCtxDrained c s
  | .ctxDrainTimeout c => Sys2Proof.Machine.execCtxDrainTimeout c s
  | .ctxQuarantineEnd c => Sys2Proof.Machine.execCtxQuarantineEnd c s
  | .xferProbe inst v => Sys2Proof.Machine.execXferProbe inst v s
  | .dma t q e => Sys2Proof.Machine.execDma t q e s
  | .memScrub addr o => Sys2Proof.Machine.execMemScrub addr o s
  | .write link e => Sys2Proof.Machine.execWrite link e s
  | .read link e => Sys2Proof.Machine.execRead link e s
  | .answer link e => Sys2Proof.Machine.execAnswer link e s
  | .syncAdd link => Sys2Proof.Machine.execSyncAdd link s
  | .flitReceive link bytes fec => Sys2Proof.Machine.execFlitReceive link bytes fec s
  | .controlWord link bytes => Sys2Proof.Machine.execControlWord link bytes s
  | .lossOfLight link => Sys2Proof.Machine.execLossOfLight link s
  | .lightArrive link => Sys2Proof.Machine.execLightArrive link s
  | .trainDone link => Sys2Proof.Machine.execTrainDone link s
  | .trainTimeout link => Sys2Proof.Machine.execTrainTimeout link s
  | .peerCheckDone link id peerLink peerPassed => Sys2Proof.Machine.execPeerCheckDone link id peerLink peerPassed s
  | .frameLockLost link => Sys2Proof.Machine.execFrameLockLost link s
  | .fecUeLimit link n => Sys2Proof.Machine.execFecUeLimit link n s
  | .heartbeatSend link => Sys2Proof.Machine.execHeartbeatSend link s
  | .heartbeat link => Sys2Proof.Machine.execHeartbeat link s
  | .flinkPeerSilent link => Sys2Proof.Machine.execFlinkPeerSilent link s
  | .flinkAgedOut link cls => Sys2Proof.Machine.execFlinkAgedOut link cls s
  | .laserWaitDone e => Sys2Proof.Machine.execLaserWaitDone e s
  | .flinkLaserFault e => Sys2Proof.Machine.execFlinkLaserFault e s
  | .ringTuneDone e => Sys2Proof.Machine.execRingTuneDone e s
  | .flinkRingTuneFail e => Sys2Proof.Machine.execFlinkRingTuneFail e s
  | .laserInsert e => Sys2Proof.Machine.execLaserInsert e s
  | .laserRemove e => Sys2Proof.Machine.execLaserRemove e s
  | .linkRetrain link => Sys2Proof.Machine.execLinkRetrain link s
  | .linkRestart link => Sys2Proof.Machine.execLinkRestart link s
  | .engineRestart e => Sys2Proof.Machine.execEngineRestart e s
  | .engineService e => Sys2Proof.Machine.execEngineService e s
  | .engineServiceOff e => Sys2Proof.Machine.execEngineServiceOff e s
  | .bucketOpen t q => Sys2Proof.Machine.execBucketOpen t q s
  | .bucketContribute t q e => Sys2Proof.Machine.execBucketContribute t q e s
  | .bucketFlush t q => Sys2Proof.Machine.execBucketFlush t q s
  | .reduce link => Sys2Proof.Machine.execReduce link s
  | .reduceAbort link => Sys2Proof.Machine.execReduceAbort link s
  | .scale link => Sys2Proof.Machine.execScale link s
  | .rdcLate g b => Sys2Proof.Machine.execRdcLate g b s
  | .bucketComplete g b => Sys2Proof.Machine.execBucketComplete g b s
  | .ethFrame f => Sys2Proof.Machine.execEthFrame f s
  | .roceRateStep qp => Sys2Proof.Machine.execRoceRateStep qp s
  | .rdmaWrite qpn psn rkey va data => Sys2Proof.Machine.execRdmaWrite qpn psn rkey va data s
  | .rdmaRead qpn psn rkey va len => Sys2Proof.Machine.execRdmaRead qpn psn rkey va len s
  | .send qpn psn data => Sys2Proof.Machine.execSend qpn psn data s
  | .roceAck qpn r => Sys2Proof.Machine.execRoceAck qpn r s
  | .roceRetryTimeout qp => Sys2Proof.Machine.execRoceRetryTimeout qp s
  | .ethLinkDown => Sys2Proof.Machine.execEthLinkDown s
  | .ethLinkUp ms => Sys2Proof.Machine.execEthLinkUp ms s
  | .tcpConnect source => Sys2Proof.Machine.execTcpConnect source s
  | .sessionOpenTimeout n => Sys2Proof.Machine.execSessionOpenTimeout n s
  | .openHello n seq slot nonce => Sys2Proof.Machine.execOpenHello n seq slot nonce s
  | .openProof n seq proof => Sys2Proof.Machine.execOpenProof n seq proof s
  | .sesLockEnd slot => Sys2Proof.Machine.execSesLockEnd slot s
  | .close n seq => Sys2Proof.Machine.execClose n seq s
  | .ctlRead n seq addr count => Sys2Proof.Machine.execCtlRead n seq addr count s
  | .ctlWrite n seq addr v => Sys2Proof.Machine.execCtlWrite n seq addr v s
  | .memRead n seq addr len e => Sys2Proof.Machine.execMemRead n seq addr len e s
  | .memWrite n seq addr data e => Sys2Proof.Machine.execMemWrite n seq addr data e s
  | .planLoad n seq addr report depth graph => Sys2Proof.Machine.execPlanLoad n seq addr report depth graph s
  | .stepRun n seq steps => Sys2Proof.Machine.execStepRun n seq steps s
  | .stepPause n seq => Sys2Proof.Machine.execStepPause n seq s
  | .stepStop n seq => Sys2Proof.Machine.execStepStop n seq s
  | .stepStatus n seq => Sys2Proof.Machine.execStepStatus n seq s
  | .lease n seq => Sys2Proof.Machine.execLease n seq s
  | .svcConfig n seq record => Sys2Proof.Machine.execSvcConfig n seq record s
  | .qpOpen n seq body => Sys2Proof.Machine.execQpOpen n seq body s
  | .qpClose n seq qp => Sys2Proof.Machine.execQpClose n seq qp s
  | .eventSubscribe n seq mask => Sys2Proof.Machine.execEventSubscribe n seq mask s
  | .sesOpcode n seq opcode magic len => Sys2Proof.Machine.execSesOpcode n seq opcode magic len s
  | .sesTimeout n => Sys2Proof.Machine.execSesTimeout n s
  | .keepaliveProbe n => Sys2Proof.Machine.execKeepaliveProbe n s
  | .svcLeaseLapsed => Sys2Proof.Machine.execSvcLeaseLapsed s
  | .healthDatagram => Sys2Proof.Machine.execHealthDatagram s
  | .microBatchRelease backward k => Sys2Proof.Machine.execMicroBatchRelease backward k s
  | .svcInputStall => Sys2Proof.Machine.execSvcInputStall s
  | .stepEnd => Sys2Proof.Machine.execStepEnd s
  | .checkpointDone ok => Sys2Proof.Machine.execCheckpointDone ok s
  | .inputSag complete => Sys2Proof.Machine.execInputSag complete s
  | .inputStable => Sys2Proof.Machine.execInputStable s
  | .pwrOvervoltage => Sys2Proof.Machine.execPwrOvervoltage s
  | .pwrHoldupAbsent => Sys2Proof.Machine.execPwrHoldupAbsent s
  | .capLoop avgW => Sys2Proof.Machine.execCapLoop avgW s
  | .capState link => Sys2Proof.Machine.execCapState link s
  | .envelopePeriod duty => Sys2Proof.Machine.execEnvelopePeriod duty s
  | .pwrEnvelopeLost => Sys2Proof.Machine.execPwrEnvelopeLost s
  | .pwrEnvelopeWrite v => Sys2Proof.Machine.execPwrEnvelopeWrite v s
  | .pwrThermalThrottle unit => Sys2Proof.Machine.execPwrThermalThrottle unit s
  | .pwrThermalTrip unit complete => Sys2Proof.Machine.execPwrThermalTrip unit complete s
  | .pwrExtTherm ix => Sys2Proof.Machine.execPwrExtTherm ix s
  | .ballastUpdate w bmax t => Sys2Proof.Machine.execBallastUpdate w bmax t s
  | .droopTrip isCask unit => Sys2Proof.Machine.execDroopTrip isCask unit s
  | .droopRecover isCask unit => Sys2Proof.Machine.execDroopRecover isCask unit s
  | .hkcScan codes energyUj => Sys2Proof.Machine.execHkcScan codes energyUj s
  | .hkcTest w => Sys2Proof.Machine.execHkcTest w s
  | .hkcTestDone readings => Sys2Proof.Machine.execHkcTestDone readings s
  | .hkcRingRptrWrite v => Sys2Proof.Machine.execHkcRingRptrWrite v s
  | .attrInterval shares measuredUj => Sys2Proof.Machine.execAttrInterval shares measuredUj s
  | .pwrAttrMark shares measuredUj => Sys2Proof.Machine.execPwrAttrMark shares measuredUj s
  | .pwrAttrDrift measuredUj modelUj => Sys2Proof.Machine.execPwrAttrDrift measuredUj modelUj s
  | .pwrDomainCmd w => Sys2Proof.Machine.execPwrDomainCmd w s
  | .domainSwitchDone d => Sys2Proof.Machine.execDomainSwitchDone d s
  | .idleDeep => Sys2Proof.Machine.execIdleDeep s
  | .deepIdleEntry => Sys2Proof.Machine.execDeepIdleEntry s
  | .idleResume => Sys2Proof.Machine.execIdleResume s
  | .resumeDone => Sys2Proof.Machine.execResumeDone s
  | .hangDeadline t slot others e => Sys2Proof.Machine.execHangDeadline t slot others e s
  | .hangWait t q => Sys2Proof.Machine.execHangWait t q s
  | .resetEngine unit e => Sys2Proof.Machine.execResetEngine unit e s
  | .resetTile unit => Sys2Proof.Machine.execResetTile unit s
  | .resetOptical unit => Sys2Proof.Machine.execResetOptical unit s
  | .resetPress unit => Sys2Proof.Machine.execResetPress unit s
  | .resetWarm => Sys2Proof.Machine.execResetWarm s
  | .resetCold => Sys2Proof.Machine.execResetCold s
  | .resetDone unit => Sys2Proof.Machine.execResetDone unit s
  | .rstEscalated unit => Sys2Proof.Machine.execRstEscalated unit s
  | .safeStateDrain => Sys2Proof.Machine.execSafeStateDrain s
  | .bistVisit => Sys2Proof.Machine.execBistVisit s
  | .bistQuiesced => Sys2Proof.Machine.execBistQuiesced s
  | .bistQuiesceTimeout => Sys2Proof.Machine.execBistQuiesceTimeout s
  | .bistSliceDone signature => Sys2Proof.Machine.execBistSliceDone signature s
  | .bistCmd w => Sys2Proof.Machine.execBistCmd w s
  | .snapCmd w => Sys2Proof.Machine.execSnapCmd w s
  | .rackLatch => Sys2Proof.Machine.execRackLatch s
  | .rackFlit link => Sys2Proof.Machine.execRackFlit link s
  | .snapIncomplete => Sys2Proof.Machine.execSnapIncomplete s
  | .rackImageWritten => Sys2Proof.Machine.execRackImageWritten s
  | .logJournalCopy => Sys2Proof.Machine.execLogJournalCopy s
  | .logRptrWrite v => Sys2Proof.Machine.execLogRptrWrite v s
  | .rack n seq id => Sys2Proof.Machine.execRack n seq id s
  | .reset n seq level unit => Sys2Proof.Machine.execReset n seq level unit s
  | .logRead n seq fromSeq count => Sys2Proof.Machine.execLogRead n seq fromSeq count s
  | .bistRun n seq unit slices => Sys2Proof.Machine.execBistRun n seq unit slices s
  | .resetInLow => Sys2Proof.Machine.execResetInLow s
  | .resetInRise => Sys2Proof.Machine.execResetInRise s
  | .bootStageRom => Sys2Proof.Machine.execBootStageRom s
  | .bootStagePower refsOk testOk vinMv vholdMv => Sys2Proof.Machine.execBootStagePower refsOk testOk vinMv vholdMv s
  | .bootStageImage => Sys2Proof.Machine.execBootStageImage s
  | .bootStageEthernet bistFail => Sys2Proof.Machine.execBootStageEthernet bistFail s
  | .bootStageUncore trainFail => Sys2Proof.Machine.execBootStageUncore trainFail s
  | .bootStageSelftest fail => Sys2Proof.Machine.execBootStageSelftest fail s
  | .bootStageCask noSet openLayers => Sys2Proof.Machine.execBootStageCask noSet openLayers s
  | .bootStageOptical faults => Sys2Proof.Machine.execBootStageOptical faults s
  | .bootStageReady => Sys2Proof.Machine.execBootStageReady s
  | .bootStageTimeout => Sys2Proof.Machine.execBootStageTimeout s
  | .attReport n seq nonce => Sys2Proof.Machine.execAttReport n seq nonce s
  | .attIdentity n seq => Sys2Proof.Machine.execAttIdentity n seq s
  | .keyRotate n seq slot masked tag => Sys2Proof.Machine.execKeyRotate n seq slot masked tag s
  | .keyClear n seq slot => Sys2Proof.Machine.execKeyClear n seq slot s
  | .fwStage n seq addr => Sys2Proof.Machine.execFwStage n seq addr s
  | .fwStageDone n seq => Sys2Proof.Machine.execFwStageDone n seq s
  | .fwActivate n seq bank => Sys2Proof.Machine.execFwActivate n seq bank s
  | .netSet n seq addr => Sys2Proof.Machine.execNetSet n seq addr s
  | .bootClear n seq => Sys2Proof.Machine.execBootClear n seq s
  | .vkeySet n seq addr => Sys2Proof.Machine.execVkeySet n seq addr s
  | .frameTransmit link => Sys2Proof.Machine.execFrameTransmit link s
  | .insertedDutySlot slot => Sys2Proof.Machine.execInsertedDutySlot slot s

end Sys2Proof.Machine
end

