-- ==== Sys2Proof/Machine/Step.lean ====
section
/-!
DEFINITION. One step of the module: the command at the front of the queue has its effect on everything but the queue.
-/

namespace Sys2Proof.Machine

/-- The oldest waiting command runs with the rest of the queue left waiting; with none waiting, a session's command whose turn it is runs,
or time passes (R346; logs 5, 90). -/
def step (s : State) : Host.Outcome State Fault Refusal :=
  match s.pending with
  | [] => s.between exec
  | c :: rest => exec c { s with pending := rest }

/-- The command that a table word spells, put at the front of the queue. The table spells no command as a word. -/
def State.withFetchWord (s : State) (nbits w : Nat) : State :=
  match decodeTableWord nbits w with
  | some c => { s with pending := c :: s.pending }
  | none => s

end Sys2Proof.Machine
end

