-- ==== Sys2Proof/Safety.lean ====
section
/-!
DEFINITION. What counts as a safe run, and the shared terms of the statements: when a core's instruction is carried out, and what
a vector instruction leaves as it was.
-/

namespace Sys2Proof.Machine

/-- The invariant of memory: addresses rise strictly, and no listed byte equals what its address holds unlisted. -/
abbrev State.memOk (s : State) : Prop := s.mem.wf

/-- A step is safe when it answers a next state: no fault and no refusal. -/
def Safe (s : State) : Prop := ∃ t, step s = .next t

/-! ### Custom instructions (R182, R188, R189) -/

/-- Whether an instruction works on the vector unit: custom-0 to custom-2. -/
def Custom.vector : Custom → Bool
  | .v3 _ _ _ _ => false
  | _ => true

/-- The custom instruction `i` stands at the pc of a running core, which the vector unit serves if `i` needs it; no reserved rounding
code stands where it rounds, and in Nebex-exact mode it is Nebex-capable: `i` is carried out (R188, R189). -/
def State.Executes (s : State) (t c : Nat) (i : Custom) : Prop :=
  s.customAt t c = some i ∧ (i.vector = true → (s.tile t).vec.core = some c) ∧
  (s.get .tileNumCtlNebex t = 1 → nebexCapable i = true) ∧ i.badRc (s.get .tileNumCtlNebex t == 1) = false

/-- A lane of a vector register. -/
def Vec.word (v : Vec) (r l : Nat) : W32 := smGet (fun _ => 0) v.regs (r * 512 + l)

/-- The flags that the lanes of an instruction raise. -/
def Vec.orFlags (v : Vec) (masked : Bool) (f : Nat → Nat) : Nat :=
  (List.range 512).foldl (fun a l => if v.active masked l then a ||| f l else a) 0

/-- `u` is `s` after a vector instruction of core `c` of tile `t` that raised the flags `fl`, the vector unit's registers, the memory and
the reservations apart: the pc has moved on by 4, the flags stand in TILE_NUM_FLAGS and in the kernel's operation,
TILE_VECTOR_INSTS counts the instruction, and nothing else has changed. -/
def State.VectorDone (s u : State) (t c fl : Nat) : Prop :=
  u = { s with ctl := u.ctl, tiles := u.tiles, cores := u.cores, mem := u.mem } ∧
  u.core t c = { s.core t c with pc := (s.core t c).pc + 4, f := (u.core t c).f } ∧
  (∀ x, x ≠ t → u.tile x = s.tile x) ∧ u.tile t = { s.tile t with vec := (u.tile t).vec, slots := (u.tile t).slots } ∧
  (∀ k, u.op t k = if k = (s.core t c).slot then (s.op t k).map (fun o => { o with flags := o.flags ||| fl }) else s.op t k) ∧
  u.word (Fld.tileNumFlagsFlushed.addr t 0) = s.word (Fld.tileNumFlagsFlushed.addr t 0) ||| BitVec.ofNat 64 (fl % 8192) ∧
  u.word (Fld.tileVectorInsts.addr t 0) = bumpWord (s.word (Fld.tileVectorInsts.addr t 0)) 1 ∧
  ∀ x, x ≠ Fld.tileNumFlagsFlushed.addr t 0 → x ≠ Fld.tileVectorInsts.addr t 0 → u.word x = s.word x

/-- As `VectorDone`, with memory, reservations and every other core as they were. -/
def State.VectorOnly (s u : State) (t c fl : Nat) : Prop :=
  s.VectorDone u t c fl ∧ u.mem = s.mem ∧ (u.core t c).f = (s.core t c).f ∧ ∀ k, k ≠ 8 * t + c → smGet (fun _ => {}) u.cores k = smGet (fun _ => {}) s.cores k

/-- The lanes of `vd` that the instruction works on hold `f`; every other lane of every register, VL, vm, vblk and the bound core are as
they were (R182). -/
def State.LanesBecome (s u : State) (t : Nat) (masked : Bool) (vd : Nat) (f : Nat → W32) : Prop :=
  (u.tile t).vec = { (s.tile t).vec with regs := (u.tile t).vec.regs } ∧
  ∀ r l, l < 512 → (u.tile t).vec.word r l =
    if r = vd ∧ (s.tile t).vec.active masked l = true then f l else (s.tile t).vec.word r l

/-! ### Messages (R266, R269, R277) -/

/-- A message's flits stand at the end of its class's queue on link `l`; no other queue of any link has changed, and of the links nothing
else but which destinations have moved to an ALT_LINK (R291). -/
def State.Queues (s u : State) (l : Nat) (m : Msg) : Prop :=
  (u.link l).queue m.cls = (s.link l).queue m.cls ++ m.flits ∧ (∀ c, c ≠ m.cls → (u.link l).queue c = (s.link l).queue c) ∧
  (∀ x, x ≠ l → (u.link x).queues = (s.link x).queues) ∧
  ∀ x, u.link x = { (s.link x) with queues := (u.link x).queues, moved := (u.link x).moved }

/-- A message on its way by its route, or lost where no egress is UP. -/
def State.Sends (s u : State) (m : Msg) : Prop :=
  match s.egress m.dest with
  | some e => s.Queues u e m
  | none => u.links = s.links

/-- The ANSWER to a message. -/
def State.answerMsg (s : State) (m : Msg) (tag code : Nat) (data : List Byte) : Msg :=
  { dest := m.src, src := s.deviceId, cls := m.cls, type := msgAnswer, ctx := m.ctx, gen := m.gen, payload := answerPayload tag code data }

/-- The answer to a message that link `l` delivered is sent; an answer to this module itself is delivered at once. -/
def State.Answers (s u : State) (l : Nat) (m : Msg) (tag code : Nat) (data : List Byte) : Prop :=
  if m.src = s.deviceId then u.delivered = s.delivered ++ [(l, s.answerMsg m tag code data)] ∧ u.links = s.links
  else u.delivered = s.delivered ∧ s.Sends u (s.answerMsg m tag code data)

/-- The descriptor at the head of queue `q`, in `slot`, has left it for its unit: its waits are consumed and ISSUED has advanced (R230, R237). -/
def State.HasLeft (s u : State) (t q slot : Nat) (o : Op) : Prop :=
  (∃ p, u.op t slot = some p ∧ p.desc = o.desc ∧ p.queue = o.queue ∧ p.seq = o.seq) ∧ u.ctrs = (s.consumeWaits o.desc).ctrs ∧
  u.get .opqPosIssued t q = (s.get .opqPosIssued t q + 1) % 2 ^ 32

/-! ### The log and links (R296, R423) -/

/-- One entry with this code and unit has been written to the log's ring, and every byte outside it reads as before (R423). -/
def State.Logged (s u : State) (code unit : Nat) : Prop :=
  let a := s.logAddr s.rel.logSeq
  u.rel.logSeq = (s.rel.logSeq + 1) % 2 ^ 32 ∧ leNat (u.readBytes a 4) = s.rel.logSeq % 2 ^ 32 ∧
  leNat (u.readBytes (a + 4) 2) = code ∧ leNat (u.readBytes (a + 6) 2) = unit ∧
  ∀ x, x < a ∨ a + 64 ≤ x → u.readByte x = s.readByte x

/-- Link `l` has left UP for the state `st` with `cause` (R296): nothing is queued or held on it, the requests that it carried are given up
and their operations have failed, CAUSE stands in its block, and alert-out is asserted. -/
def State.LeavesUp (s u : State) (l : Nat) (st : LinkState) (cause : Nat) : Prop :=
  ((u.link l).state = st ∧ (u.link l).queues = [] ∧ (u.link l).replay = [] ∧ (u.link l).resend = [] ∧ (u.link l).partials = []) ∧
  u.requests = s.requests.filter (fun r => r.link != l) ∧
  (∀ r ∈ s.requests, r.link = l → ∀ o, s.op r.tile r.slot = some o → ∃ p c d, u.op r.tile r.slot = some p ∧ p.phase = .failed c d) ∧
  u.get .flinkStatusCause l = cause ∧ u.rel.alert = true

/-! ### A chain of adders (R302, R313, R314) -/

/-- The partial that the members of a chain make of the one that chain position `k - 1` sent: each adds its codes (R302, R313). -/
def chainFrom : Partial → Nat → List (List Int) → Option Partial
  | p, _, [] => some p
  | p, k, x :: xs =>
    match addChunk { g := 0, phase := 0, id := 0, seq := 0, codes := p.codes, chk := p.chk, res := p.res, maxexp := p.maxexp } x p.maxexp k 0 0 true with
    | .ok q _ => chainFrom q (k + 1) xs
    | _ => none

/-- What chain position 0 emits (R313). -/
def firstPartial (x : List Int) : Partial :=
  { codes := x, shift := 0, chk := word32 (codeSum x 0), res := 0, late := 0, clamps := 0, maxexp := [] }

/-- The sum of the codes that all members contributed to the elements that no member marked. -/
def contributed (n : Nat) (xs : List (List Int)) : Int :=
  ((List.range n).map fun i => if xs.any (fun x => x.getD i 0 == -128) then 0 else (xs.map fun x => x.getD i 0).sum).sum

/-! ### Management sessions (R342 to R347) -/

/-- The session, SEQ and opcode of a management command (Table 12.4, Table 14.9, Table 15.6), the open's two messages apart. -/
def sessionCommand : Instr → Option (Nat × Nat × Nat)
  | .close n q => some (n, q, 0x03)
  | .ctlRead n q _ _ => some (n, q, 0x10)
  | .ctlWrite n q _ _ => some (n, q, 0x11)
  | .memRead n q _ _ _ => some (n, q, 0x12)
  | .memWrite n q _ _ _ => some (n, q, 0x13)
  | .planLoad n q _ _ _ _ => some (n, q, 0x20)
  | .stepRun n q _ => some (n, q, 0x21)
  | .stepPause n q => some (n, q, 0x21)
  | .stepStop n q => some (n, q, 0x21)
  | .stepStatus n q => some (n, q, 0x22)
  | .lease n q => some (n, q, 0x23)
  | .svcConfig n q _ => some (n, q, 0x24)
  | .qpOpen n q _ => some (n, q, 0x30)
  | .qpClose n q _ => some (n, q, 0x31)
  | .eventSubscribe n q _ => some (n, q, 0x40)
  | .attReport n q _ => some (n, q, 0x50)
  | .attIdentity n q => some (n, q, 0x51)
  | .keyRotate n q _ _ _ => some (n, q, 0x52)
  | .keyClear n q _ => some (n, q, 0x53)
  | .fwStage n q _ => some (n, q, 0x54)
  | .fwActivate n q _ => some (n, q, 0x55)
  | .netSet n q _ => some (n, q, 0x56)
  | .bootClear n q => some (n, q, 0x57)
  | .vkeySet n q _ => some (n, q, 0x58)
  | .rack n q _ => some (n, q, 0x60)
  | .reset n q _ _ => some (n, q, 0x61)
  | .logRead n q _ _ => some (n, q, 0x62)
  | .bistRun n q _ _ => some (n, q, 0x63)
  | _ => none

/-- A command of session `n` has been counted, and the keepalive probes are answered. -/
def State.accept (s : State) (n : Nat) : State := (s.setSession n { s.session n with probes := 0 }).bump .sesCommands

/-- Session `n` is open, no command runs or waits, and the module's state serves the command (R346, R436, R438). -/
def State.Serves (s : State) (n opcode : Nat) : Prop :=
  (s.session n).live = true ∧ (s.session n).opened = true ∧ s.serverBusy = false ∧ s.notServed opcode = false

/-- `u` is `s` after the outputs `more` and the close of session `n` with `code` (R347): every other session is as it was, no command of
`n` waits any more, and a failure stands in SES_LAST_FAIL. -/
def State.Closes (s u : State) (n code : Nat) (more : List Output) : Prop :=
  u = { s with ctl := u.ctl, sessions := u.sessions, journal := u.journal, rel := u.rel, turns := u.turns,
               out := s.out ++ more ++ [.closed n] } ∧
  u.turns = (s.turns.filter fun e => e.1 != n) ∧
  u.session n = {} ∧ (∀ m, m ≠ n → u.session m = s.session m) ∧ (code ≠ 0 → u.get .sesLastFailCode = code) ∧
  u.journal = { s.journal with staging := u.journal.staging } ∧
  u.rel = { s.rel with resets := u.rel.resets, slice := u.rel.slice, rack := u.rel.rack }

/-- `u` is where a cold start of `s` that fails in a stage with a code ends (R435): the failure is counted and recorded with OUTCOME 2,
alert-out is asserted, and the module holds in reset with every domain off. -/
def State.StartFailed (s u : State) (stage code : Nat) : Prop :=
  u.power.hold = .failedStart ∧ u.power.domains = 0 ∧ u.boot.running = false ∧ u.rel.mode = .starting ∧ u.rel.alert = true ∧
  u.journal.count = min 255 (s.journal.count + 1) ∧
  (u.journal.reasons.getLast?.map fun r => (r.outcome, r.stage, r.code)) = some (2, stage, code)

end Sys2Proof.Machine
end

