-- ==== Sys2Proof/Certificates/Slice0/Obligations.lean ====
section
/-!
DEFINITION. The statements for the provers. Each says, for every state and operands that meet its premises, that a command completes and what
the next state holds, or a rule of the whole block.
-/

open Sys2Proof Sys2Proof.Machine

/-- A step runs the command at the front of the queue; with none waiting, the session command whose turn it is runs, or time passes (the model's choice, logs 5 and 90). 95_what_each_step_holds.md; 12_ethernet_and_services.md R346. -/
def Obligations.StepRunsFront : Prop :=
  (∀ (c : Instr) (rest : List Instr) (s : State), step { s with pending := c :: rest } = exec c { s with pending := rest }) ∧
  (∀ (s : State), s.pending = [] → s.turns = [] ∨ s.awaiting = true → step s = .next s.idle) ∧
  (∀ (s t : State) (n : Nat) (c : Instr) (rest : List (Nat × Instr)), s.pending = [] → s.turns = (n, c) :: rest → s.awaiting = false →
    exec c { s with turns := [] } = .next t →
    step s = .next { t with turns := t.turns ++ rest.filter fun x => (t.session x.1).live })

/-- A write to an RW field takes effect at once, a write to an ST field changes the staged copy alone, a read of an RC register clears it and keeps what an event set in that cycle, and an access of another size is refused and recorded. 01_module_architecture.md R13; 01_module_architecture.md R14; 01_module_architecture.md R38; 02_blend_and_capability.md R44; 02_blend_and_capability.md R53. -/
def Obligations.RegisterAccesses : Prop :=
  (∀ (s : State) (a : Agent) (v : W64), 1 ≤ fieldOf v 13 0 → fieldOf v 13 0 ≤ 10000 →
    ∃ t, exec (.registerWrite a (Fld.blendQuiesceTimeoutMs.addr 0 0) 8 v 0) s = .next t ∧ t = { s with ctl := t.ctl } ∧
      t.get .blendQuiesceTimeoutMs = fieldOf v 13 0 ∧ ∀ x, x ≠ Fld.blendQuiesceTimeoutMs.addr 0 0 → t.word x = s.word x) ∧
  (∀ (s : State) (a : Agent) (v : W64), s.domainOn domService = true →
    ∃ t, exec (.registerWrite a (Fld.sesCtlPort.addr 0 0) 8 v 0) s = .next t ∧ t = { s with ctl := t.ctl, staged := t.staged } ∧
      (∀ x, t.word x = s.word x) ∧ fieldOf (t.stagedWord (Fld.sesCtlPort.addr 0 0)) 47 32 = fieldOf v 47 32 ∧
      ∀ x, x ≠ Fld.sesCtlPort.addr 0 0 → t.stagedWord x = s.stagedWord x) ∧
  (∀ (s : State) (a : Agent) (ev : W64),
    ∃ t, exec (.rcRegisterRead a (Fld.blendCtlErrCode.addr 0 0) 8 ev) s = .next t ∧ t = { s with ctl := t.ctl } ∧
      t.word (Fld.blendCtlErrCode.addr 0 0) = ev ∧ ∀ x, x ≠ Fld.blendCtlErrCode.addr 0 0 → t.word x = s.word x) ∧
  (∀ (s : State) (a : Agent) (x n : Nat) (v ev : W64), n ≠ 8 →
    ∃ t u, exec (.registerWrite a x n v ev) s = .next t ∧ exec (.rcRegisterRead a x n ev) s = .next u ∧ u = t ∧
      t = { s with ctl := t.ctl, out := t.out } ∧ t.get .blendCtlErrCode = Code.ctlAccessSize ∧
      t.get .blendCtlErrAddress = x % 2 ^ 48 ∧ ∀ y, y ≠ Fld.blendCtlErrCode.addr 0 0 → t.word y = s.word y)

/-- A GO captures the whole staged copy of its block; the checks of the SES, ETH, SNAP and BIST blocks then end either with every captured word in force and CODE 0, or with nothing changed and the first failing check in CODE and OFFSET. 02_blend_and_capability.md R40; 02_blend_and_capability.md R41; 02_blend_and_capability.md R44; 12_ethernet_and_services.md R360. -/
def Obligations.CommitsRun : Prop :=
  (∀ (s : State) (p : Pfx) (i : Nat), stages p = true → i < (blockOf p).insts →
    ((blockDomain p i).elim true fun d => s.domainOn d) = true → s.checking.contains (pfxBase p i) = false → s.applying = false →
    smWf s.word s.staged →
    ∃ t, exec (.commitGo p i) s = .next t ∧ t = { s with ctl := t.ctl, captured := t.captured, checking := s.checking ++ [pfxBase p i] } ∧
      fieldOf (t.word (statusAddr p i)) 15 14 = 1 ∧ (∀ x, x ≠ statusAddr p i → t.word x = s.word x) ∧
      ∀ x, pfxBase p i ≤ x → x < pfxBase p i + 0x1000 → x ≠ statusAddr p i → t.capturedWord x = s.stagedWord x) ∧
  (∀ (s : State) (p : Pfx) (i : Nat), stages p = true → i < (blockOf p).insts → s.checking.contains (pfxBase p i) = true →
    (s.checksOf p i).all (fun c => c.1) = true →
    ∃ t, exec (.commitCheckDone p i) s = .next t ∧ t.checking.contains (pfxBase p i) = false ∧
      fieldOf (t.word (statusAddr p i)) 31 16 = 0 ∧ fieldOf (t.word (statusAddr p i)) 15 14 = 0 ∧
      fieldOf (t.word (statusAddr p i)) 63 32 = (fieldOf (s.word (statusAddr p i)) 63 32 + 1) % 2 ^ 32 ∧
      (p ∉ [.tile, .opq, .hkc, .flink, .cwr] →
        t = { s with ctl := t.ctl, staged := t.staged, captured := t.captured, checking := t.checking } ∧
        (∀ x ∈ s.capturedAddrs (pfxBase p i), x ≠ statusAddr p i → t.word x = mergeBits (bitsOf x [.st]) (s.word x) (s.capturedWord x)) ∧
        (∀ x, x ∉ s.capturedAddrs (pfxBase p i) → x ≠ statusAddr p i → t.word x = s.word x) ∧
        (s.staged.Pairwise (fun a b => a.1 < b.1) → ∀ x, x ≠ statusAddr p i → t.stagedWord x = s.stagedWord x))) ∧
  (∀ (s : State) (p : Pfx) (i code off : Nat), s.checking.contains (pfxBase p i) = true →
    ((s.checksOf p i).find? fun c => !c.1) = some (false, code, off) →
    ∃ t, exec (.commitCheckDone p i) s = .next t ∧ t = { s with ctl := t.ctl, captured := t.captured, checking := t.checking } ∧
      t.checking.contains (pfxBase p i) = false ∧
      fieldOf (t.word (statusAddr p i)) 31 16 = code % 2 ^ 16 ∧ fieldOf (t.word (statusAddr p i)) 11 0 = off % 2 ^ 12 ∧
      (code = Code.capInfeasible → t.get .pwrErrCode = Code.capInfeasible) ∧
      ∀ x, x ≠ statusAddr p i → (code = Code.capInfeasible → x ≠ Fld.pwrErrCode.addr 0 0) → t.word x = s.word x)

/-- A GO while the instance's checks run, or while a blend is applied, changes CODE to COMMIT_BUSY and nothing else. 02_blend_and_capability.md R42. -/
def Obligations.CommitBusyIgnored : Prop :=
  ∀ (s : State) (p : Pfx) (i : Nat), stages p = true → i < (blockOf p).insts →
    ((blockDomain p i).elim true fun d => s.domainOn d) = true →
    s.checking.contains (pfxBase p i) = true ∨ s.blendState = bsWaiting ∨ s.blendState = bsApplying →
    ∃ t, exec (.commitGo p i) s = .next t ∧ t = { s with ctl := t.ctl } ∧
      fieldOf (t.word (statusAddr p i)) 31 16 = Code.commitBusy ∧
      fieldOf (t.word (statusAddr p i)) 63 32 = fieldOf (s.word (statusAddr p i)) 63 32 ∧
      fieldOf (t.word (statusAddr p i)) 15 0 = fieldOf (s.word (statusAddr p i)) 15 0 ∧
      ∀ x, x ≠ statusAddr p i → t.word x = s.word x

/-- A blend is copied and checked, waits for the quiesce point, and comes into force at the commit point with its serial number and its POWER_PLAN; a write of BLEND_CTRL that cannot act leaves its code alone. 02_blend_and_capability.md R52; 02_blend_and_capability.md R53; 02_blend_and_capability.md R54. -/
def Obligations.BlendSteps : Prop :=
  (∀ (s : State), ∃ t, exec (.blendCheck true) s = .next t ∧ exec (.blendApply true) s = .next t ∧ t = { s with ctl := t.ctl } ∧
    t.blendState = s.blendState ∧ t.get .blendStatusCode = Code.blendCtrlInvalid ∧
    ∀ x, x ≠ Fld.blendStatusState.addr 0 0 → t.word x = s.word x) ∧
  (∀ (s : State), s.blendState = bsChecking ∨ s.blendState = bsWaiting ∨ s.blendState = bsApplying →
    ∃ t, exec (.blendCheck false) s = .next t ∧ exec (.blendApply false) s = .next t ∧ t = { s with ctl := t.ctl } ∧
      t.blendState = s.blendState ∧ t.get .blendStatusCode = Code.blendApplyBusy ∧
      ∀ x, x ≠ Fld.blendStatusState.addr 0 0 → t.word x = s.word x) ∧
  (∀ (s : State), s.blendState ≠ bsChecking → s.blendState ≠ bsWaiting → s.blendState ≠ bsApplying →
    ∃ t, exec (.blendCheck false) s = .next t ∧ t = { s with ctl := t.ctl, blend := t.blend } ∧ t.blendState = bsChecking ∧
      t.blend = { s.blend with store := s.readBytes (sramBase + s.get .blendSrcOffset) (s.get .blendLenBytes), checked := none } ∧
      t.get .blendStatusCode = s.get .blendStatusCode ∧ ∀ x, x ≠ Fld.blendStatusState.addr 0 0 → t.word x = s.word x) ∧
  (∀ (s : State), s.blendState = bsChecking →
    ∃ t, exec .blendCheckDone s = .next t ∧
      match blendVerdict s s.blend.store with
      | .ok b => t = { s with ctl := t.ctl, blend := { s.blend with checked := some b } } ∧ t.blendState = bsChecked ∧ t.get .blendStatusCode = 0 ∧
          ∀ x, x ≠ Fld.blendStatusState.addr 0 0 → t.word x = s.word x
      | .error e => t = { s with ctl := t.ctl } ∧ t.blendState = bsRefused ∧ t.get .blendStatusCode = e.code % 2 ^ 16 ∧
          t.get .blendErrLocSection = e.sec % 2 ^ 16 ∧ t.get .blendErrLocOffset = e.off % 2 ^ 32 ∧
          ∀ x, x ≠ Fld.blendStatusState.addr 0 0 → x ≠ Fld.blendErrLocSection.addr 0 0 → t.word x = s.word x) ∧
  (∀ (s : State), s.blendState = bsEmpty ∨ s.blendState = bsRefused →
    ∃ t, exec (.blendApply false) s = .next t ∧ t = { s with ctl := t.ctl } ∧ t.blendState = s.blendState ∧
      t.get .blendStatusCode = Code.blendNotChecked ∧ ∀ x, x ≠ Fld.blendStatusState.addr 0 0 → t.word x = s.word x) ∧
  (∀ (s : State), s.blendState = bsChecked →
    ∃ t, exec (.blendApply false) s = .next t ∧ t = { s with ctl := t.ctl } ∧ t.blendState = bsWaiting ∧
      t.get .blendStatusCode = s.get .blendStatusCode ∧ ∀ x, x ≠ Fld.blendStatusState.addr 0 0 → t.word x = s.word x) ∧
  (∀ (s : State), s.blendState = bsWaiting → s.quiesceMet = true →
    ∃ t, exec .blendQuiescePoint s = .next t ∧ t = { s with ctl := t.ctl } ∧ t.blendState = bsApplying ∧
      t.get .blendStatusCode = s.get .blendStatusCode ∧ ∀ x, x ≠ Fld.blendStatusState.addr 0 0 → t.word x = s.word x) ∧
  (∀ (s : State), s.blendState = bsWaiting →
    ∃ t, exec .blendNotQuiesced s = .next t ∧ t = { s with ctl := t.ctl } ∧ t.blendState = bsChecked ∧
      t.get .blendStatusCode = Code.blendNotQuiesced ∧ ∀ x, x ≠ Fld.blendStatusState.addr 0 0 → t.word x = s.word x) ∧
  (∀ (s : State) (b : Blend), s.blendState = bsApplying → s.blend.checked = some b →
    ∃ t, exec .blendCommitPoint s = .next t ∧ t.blend = { s.blend with inForce := some b, checked := none } ∧ t.blendState = bsEmpty ∧
      t.get .blendStatusCode = 0 ∧ t.get .blendActiveSerial = b.serial % 2 ^ 64 ∧ t.get .pwrCapCapW = b.capW % 2 ^ 16 ∧
      t.get .pwrCtlProfile = b.profile % 4 ∧ t.buckets = [] ∧ t.parked = [] ∧ (∀ e ∈ t.staged, e.1 < 0x6000 ∨ 0x7000 ≤ e.1))

/-- A cask pass is requested, its layer switched, fired, converted phase by phase, aborted for class 0 work and completed, and each step changes only what its rule names; what `corrected` counts, the corrected errors of the command's reads, comes first. 04_cask_arrays.md R91; 04_cask_arrays.md R92; 04_cask_arrays.md R93; 04_cask_arrays.md R98; 04_cask_arrays.md R99; 04_cask_arrays.md R110; 04_cask_arrays.md R115; 04_cask_arrays.md R116; 04_cask_arrays.md R117; 04_cask_arrays.md R125; 04_cask_arrays.md R129; 07_training_dataflow.md R212. -/
def Obligations.CaskPassesRun : Prop :=
  (∀ (s0 : State) (t q slot : Nat) (e : Ecc) (o : Op), let s := s0.corrected e.ce
    s.taking t q .cask [1] = some (slot, o) →
    let s1 := (s.leave t q slot o .cask).1
    let b := caskBody o.desc
    let pr := s1.caskPrep t b 0
    let err := (b.reads 0 (s1.get .tileNumCtlOutlier t == 1)).findSome? fun r => s1.accessErr e.ue r.1 r.2 false
    (b.rows = 0 ∨ b.vectors = 0 → ∃ u p, exec (.caskPass t q e) s0 = .next u ∧ s.HasLeft u t q slot o ∧ u.op t slot = some p ∧ p.phase = .done ∧
      u = { s with free := u.free, ctl := u.ctl, ctrs := u.ctrs, tiles := u.tiles }) ∧
    (∀ m, b.rows ≠ 0 → b.vectors ≠ 0 → err = some m →
      ∃ u p, exec (.caskPass t q e) s0 = .next u ∧ s.HasLeft u t q slot o ∧ u.op t slot = some p ∧ p.phase = .failed m.code.1 m.code.2 ∧
        u.dies = s.dies) ∧
    (b.rows ≠ 0 → b.vectors ≠ 0 → err = none → (s1.die b.die).noSet = false → (s1.layer (layerKey b.die b.mac b.layer)).openLines = [] →
      (s1.die b.die).ready = true → s1.flushHolds b.die b.mac b.layer = false → pr.input.kind ≠ .bf16 →
      (s1.unavailable b.die b.mac b.layer = false ∧ s1.dieTested b.die = false ∨ pr.input.kind = .zero ∨ pr.input.kind = .nonfinite) →
      ∃ u p, exec (.caskPass t q e) s0 = .next u ∧ s.HasLeft u t q slot o ∧
        u = { s with free := u.free, ctl := u.ctl, ctrs := u.ctrs, tiles := u.tiles, dies := u.dies, passSeq := s.passSeq + 1 } ∧
        p ∈ (u.die b.die).passes ∧ p.tile = t ∧ p.slot = slot ∧ p.vec = 0 ∧ p.seq = s.passSeq ∧ p.input = pr.input ∧
        p.stage = (if pr.input.kind = .zero ∨ pr.input.kind = .nonfinite then .drained else .waiting) ∧
        (pr.input.kind = .zero → p.vals = List.replicate 1024 0) ∧ (pr.input.kind = .nonfinite → p.vals = List.replicate 1024 0x7FC00000))) ∧
  (∀ (s : State) (d m : Nat) (p : Pass), s.headPass d m = some p → (s.die d).macFree m = true → s.dieFires d = true →
    exec (.caskLayerSwitchDone d m) s = .next (s.setDie d ((s.die d).setMac m { (s.die d).mac m with layer := p.layer }))) ∧
  (∀ (s : State) (d m : Nat) (p0 : Pass), s.headPass d m = some p0 → s.dieFires d = true → (s.die d).macFree m = true →
    let p := s.refold p0
    s.passBar p = none → p.fires = true → ((s.die d).mac m).layer = p.layer → (s.die d).gapOpen p = true → s.ringRoom p = true →
    (s.slotFree p = true → exec (.caskPassFire d m) s = .next ((s.setDie d ((s.die d).takeGap p)).putPass
      { p.choose with stage := .fired, reserved := true, phase := 0, codes := [], cells := (s.layer (layerKey d m p.layer)).wear })) ∧
    (s.slotFree p = false → exec (.caskPassFire d m) s = .next s)) ∧
  (∀ (s : State) (d m : Nat), (∀ p ∈ (s.die d).passes, p.mac = m → p.stage = .waiting → layerKey d m p.layer ∈ s.svc.holds ∧
      ∃ q ∈ (s.die d).reqs, q.mac = m ∧ q.layer = p.layer) → exec (.caskPassFire d m) s = .next s) ∧
  (∀ (s0 : State) (d m : Nat) (e : Ecc) (p : Pass) (ph : PassPart × List (Nat × Int)), let s := s0.corrected e.ce
    (s.die d).running m = some p → p.phases[p.phase]? = some ph → p.die = d →
    let r := s.setDie d ((s.die d).rotate m)
    let cs := p.codes ++ [r.phaseCodes p ph]
    (p.phase + 1 < p.phases.length →
      exec (.caskPhaseEnd d m e) s0 = .next { (r.putPass { p with codes := cs, phase := p.phase + 1 }) with free := s.free + 2048 }) ∧
    (p.phase + 1 = p.phases.length → p.discarded = false → satOutputs cs = [] →
      ∃ u p', exec (.caskPhaseEnd d m e) s0 = .next u ∧ u = { s with free := u.free, ctl := u.ctl, tiles := u.tiles, dies := u.dies } ∧
        p' ∈ (u.die d).passes ∧ p'.seq = p.seq ∧ p'.stage = .drained ∧ p'.codes = cs)) ∧
  (∀ (s : State) (d m : Nat) (p q : Pass), (s.die d).running m = some p → s.get .caskCtlAbortEnable d = 1 → 2 ≤ p.cls →
    p.promoted = false → q ∈ (s.die d).passes → q.mac = m → q.stage = .waiting → q.cls = 0 →
    s.unavailable d m q.layer = false → s.flushHolds d m q.layer = false →
    exec (.caskAbort d m) s = .next (if p.discarded then (s.bump .caskAborts d).dropPass p
      else (if p.aborts + 1 = 4 then (s.bump .caskAborts d).bump .caskPromoted d else s.bump .caskAborts d).putPass
        { p with stage := .waiting, reserved := false, aborts := p.aborts + 1, promoted := decide (4 ≤ p.aborts + 1), phase := 0, codes := [] })) ∧
  (∀ (s0 : State) (t slot : Nat) (e : Ecc) (p : Pass), let s := s0.corrected e.ce
    s.dies.findSome? (fun e => e.2.passes.find? fun p => p.tile == t && p.slot == slot && p.stage == .drained) = some p →
    let r := ((s.passRecord p).notePass p).dropPass p
    (p.discarded = true → exec (.caskPassDone t slot e) s0 = .next ((s.bump .caskPasses p.die).dropPass p)) ∧
    (p.discarded = false → p.reserved = true ∨ ((s.die p.die).ready = true ∧ s.domainOn (domCask p.die) = true ∧ s.ringRoom p = true) →
      ((caskBody p.desc).vectors ≤ p.vec + 1 → exec (.caskPassDone t slot e) s0 = .next (r.modOp t slot fun o => { o with phase := .done })) ∧
      (p.vec + 1 < (caskBody p.desc).vectors → exec (.caskPassDone t slot e) s0 = .next (r.requestPass t slot (p.vec + 1) e.ue)))) ∧
  (∀ (s : State) (d m : Nat), (s.die d).visited m = true → s.domainOn (domCask d) = true →
    (∀ p ∈ (s.die d).passes, p.mac = m → p.stage = .drained) →
    exec (.referencePhase d m) s = .next (s.setDie d ((s.die d).setMac m { (s.die d).mac m with refPhase := true }))) ∧
  (∀ (s : State) (t r : Nat) (v : W64), s.domainOn (domTile t) = true →
    ((s.get .tileCringWptrWptr t r + 2 ^ 32 - v.toNat % 2 ^ 32) % 2 ^ 32 ≤ 2 ^ s.get .tileCringSizeSizeLog2 t r →
      exec (.tileCringRptrWrite t r v) s = .next (s.set .tileCringRptrRptr t r (v.toNat % 2 ^ 32))) ∧
    (2 ^ s.get .tileCringSizeSizeLog2 t r < (s.get .tileCringWptrWptr t r + 2 ^ 32 - v.toNat % 2 ^ 32) % 2 ^ 32 →
      exec (.tileCringRptrWrite t r v) s = .next (s.caskErr (8 * (t / 16)) Code.caskRingPtr t r false 0)))

/-- The open-line test and the DAC test run on a macro that the die has, and end with their findings in CASK_TEST_STATUS. 04_cask_arrays.md R123; 04_cask_arrays.md R124. -/
def Obligations.CaskTestsRun : Prop :=
  (∀ e ∈ ([(.caskOlt, 0, fun w => .olt (fieldOf w 27 16) (fieldOf w 35 28)), (.caskDacTest, 1, fun w => .dac (fieldOf w 27 16))] :
      List ((Nat → W64 → Instr) × Nat × (W64 → CaskTest))),
    ∀ (s : State) (d : Nat) (w : W64), fieldOf w e.2.1 e.2.1 = 1 → s.domainOn (domCask d) = true →
    ((s.die d).test = none → fieldOf w 27 16 < s.good d →
      ∃ t, exec (e.1 d w) s = .next t ∧ t = { s with dies := t.dies, ctl := t.ctl } ∧ t.die d = { s.die d with test := some (e.2.2 w) } ∧
        (∀ k, k ≠ d → t.die k = s.die k) ∧ t.get .caskTestStatusState d = 1 ∧
        ∀ x, x ≠ Fld.caskTestStatusState.addr d 0 → t.word x = s.word x) ∧
    ((s.die d).test.isSome = true ∨ s.good d ≤ fieldOf w 27 16 →
      ∃ t, exec (e.1 d w) s = .next t ∧ t = { s with ctl := t.ctl } ∧
        t.get .caskErrCode d = (if (s.die d).test.isSome then Code.caskTestBusy else Code.caskMacroRange) ∧
        ∀ x, x ≠ Fld.caskErrCode.addr d 0 → t.word x = s.word x)) ∧
  (∀ (s : State) (d mac layers : Nat) (rs : List OltReading), (s.die d).test = some (.olt mac layers) →
    ∃ t, exec (.caskOltDone d rs) s = .next t ∧ t = { s with dies := t.dies, ctl := t.ctl, layers := t.layers } ∧
      t.die d = { s.die d with test := none } ∧ (∀ k, k ≠ d → t.die k = s.die k) ∧
      t.get .caskTestStatusState d = (if rs.any (fun r => layers / 2 ^ r.layer % 2 == 1 && oltOpen r) then 3 else 2) ∧
      ∀ r ∈ rs, layers / 2 ^ r.layer % 2 = 1 → oltOpen r = true → (r.row, r.line) ∈ (t.layer (layerKey d mac r.layer)).openLines) ∧
  (∀ (s : State) (d mac : Nat) (rs : List DacReading), (s.die d).test = some (.dac mac) →
    let us := (List.range 76).filter fun u => rs.any (fun r => r.unit == u && dacBad r) && !((s.die d).mac mac).retired.contains u
    ∃ t, exec (.caskDacTestDone d rs) s = .next t ∧ t = { s with dies := t.dies, ctl := t.ctl, layers := t.layers } ∧ (t.die d).test = none ∧
      ((t.die d).mac mac).retired = ((s.die d).mac mac).retired ++ us ∧ (t.die d).passes = (s.die d).passes ∧
      (∀ k, k ≠ d → t.die k = s.die k) ∧ t.get .caskTestStatusState d = (if us = [] then 2 else 3))

/-- Calibration sets are loaded, a run starts on a temperature move, a request or a retry, visits the macros eight at a time, and passes or fails as a whole. 05_cask_calibration_and_writing.md R33; 05_cask_calibration_and_writing.md R131; 05_cask_calibration_and_writing.md R133; 05_cask_calibration_and_writing.md R136; 05_cask_calibration_and_writing.md R138; 05_cask_calibration_and_writing.md R140; 05_cask_calibration_and_writing.md R141. -/
def Obligations.CalibrationRuns : Prop :=
  (∀ (s : State) (d : Nat) (bad : List Nat), s.domainOn (domCask d) = true → (s.die d).loaded = false →
    ((List.range 5).all (s.setOk bad d) = true → s.beyond d (s.die d).temp (s.die d).passTemp = false →
      ∃ t, exec (.calLoadDone d bad) s = .next t ∧ t = { s with dies := t.dies } ∧ (t.die d).loaded = true ∧ (t.die d).ready = true ∧
        (t.die d).target = s.calAt d (s.die d).temp ∧ (∀ m, ((t.die d).mac m).vals = (t.die d).target.filter fun v => v.mac == m) ∧
        (t.die d).run = (s.die d).run ∧ (t.die d).passes = (s.die d).passes ∧ ∀ k, k ≠ d → t.die k = s.die k) ∧
    ((List.range 5).all (s.setOk bad d) = false →
      ∃ t, exec (.calLoadDone d bad) s = .next t ∧ t = { s with dies := t.dies, ctl := t.ctl } ∧ (t.die d).loaded = true ∧
        (t.die d).ready = false ∧ (t.die d).run.isSome = true)) ∧
  (∀ (s : State) (d : Nat) (x : Int),
    (s.domainOn (domCask d) = true → (s.die d).loaded = true → (s.die d).run = none → s.beyond d x (s.die d).lastTemp = true →
      ∃ t, exec (.calTempTrigger d x) s = .next t ∧ t = { s with dies := t.dies, ctl := t.ctl } ∧
        t.die d = { s.die d with temp := x, lastTemp := x, run := some { startTemp := x } } ∧ t.get .calStatusState d = 1) ∧
    (s.beyond d x (s.die d).lastTemp = false → exec (.calTempTrigger d x) s = .next (s.setDie d { s.die d with temp := x }))) ∧
  (∀ (s : State) (d : Nat) (w : W64), s.domainOn (domCask d) = true → fieldOf w 0 0 = 1 →
    ∃ t, exec (.calReqRun d w) s = .next t ∧ t = { s with dies := t.dies, ctl := t.ctl } ∧
      ((s.die d).failed = true → exec (.calRetry d) s = .next t) ∧
      ((s.die d).run = none → t.die d = { s.die d with run := some { startTemp := (s.die d).temp }, lastTemp := (s.die d).temp } ∧
        t.get .calStatusState d = 1) ∧
      ((s.die d).run.isSome = true → t.die d = s.die d ∧ t.get .calStatusPending d = 1)) ∧
  (∀ (s : State) (d first : Nat) (vs : List CalValue) (r : CalRun), (s.die d).run = some r → r.next = first → first < s.good d →
    (s.die d).bistQuiesce = false → s.domainOn (domCask d) = true →
    ((∀ q ∈ (s.die d).reqs, q.stage = .held → q.mac < first ∨ first + 8 ≤ q.mac) →
      ∃ t, exec (.calVisit d first vs) s = .next t ∧ t = { s with dies := t.dies } ∧
        (t.die d).run = some { r with next := first + 8, spares := (if first = 0 then vs.filter ofSpare else r.spares),
                                      values := r.values ++ vs.filter fun v => !ofSpare v && decide (first ≤ v.mac ∧ v.mac < first + 8) } ∧
        (t.die d).passes = (s.die d).passes ∧ (t.die d).reqs = (s.die d).reqs ∧
        (∀ m, first ≤ m → m < first + 8 → ((t.die d).mac m).refPhase = false) ∧ ∀ k, k ≠ d → t.die k = s.die k) ∧
    ((∃ q ∈ (s.die d).reqs, q.stage = .held ∧ first ≤ q.mac ∧ q.mac < first + 8) → exec (.calVisit d first vs) s = .next s)) ∧
  (∀ (s : State) (d : Nat) (r : CalRun), (s.die d).run = some r → s.good d ≤ r.next → s.domainOn (domCask d) = true →
    let vs := (s.die d).counted (r.spares ++ r.values)
    let set := s.runSet d r.startTemp vs
    ((vs.all calOk && set.2.all calOk) = true →
      ∃ t, exec (.calRunEnd d) s = .next t ∧ t = { s with dies := t.dies, ctl := t.ctl, journal := t.journal } ∧
        (t.die d).failed = false ∧ (t.die d).ready = true ∧ t.get .calStatusConsec d = 0 ∧ t.calSet d set.1 = some (calRecord set.2) ∧
        t.storedTemp d = r.startTemp ∧
        (s.get .calStatusPending d = 0 → (t.die d).run = none ∧ t.get .calStatusState d = 2) ∧
        (s.get .calStatusPending d = 1 → (t.die d).run = some { startTemp := (s.die d).temp } ∧ t.get .calStatusState d = 1)) ∧
    ((vs.all calOk && set.2.all calOk) = false →
      ∃ t, exec (.calRunEnd d) s = .next t ∧ t.journal = s.journal ∧ (t.die d).failed = true ∧ (t.die d).ready = (s.die d).ready ∧
        t.get .calStatusConsec d = min 255 (s.get .calStatusConsec d + 1) ∧
        (s.get .calStatusPending d = 0 → (t.die d).run = none ∧ t.get .calStatusState d = 3) ∧
        (s.get .calStatusPending d = 1 → (t.die d).run = some { startTemp := (s.die d).temp } ∧ t.get .calStatusState d = 1))) ∧
  (∀ (s : State) (d : Nat) (x : Int), s.domainOn (domCask d) = true → (s.die d).loaded = true →
    exec (.calReinterpolate d x) s = .next (s.setDie d (if 25 ≤ 10 * (x - (s.die d).reTemp).natAbs
      then { s.die d with temp := x, target := s.calAt d x, reTemp := x } else { s.die d with temp := x }))) ∧
  (∀ (s : State) (d m : Nat), (s.die d).running m = none → s.domainOn (domCask d) = true →
    exec (.calValuesTakeEffect d m) s =
      .next (s.setDie d ((s.die d).setMac m { (s.die d).mac m with vals := (s.die d).target.filter fun v => v.mac == m })))

/-- A push of any kind that no check refuses queues its request; only a FLUSH takes a token, at the push; a refused push queues nothing and shows its code. 05_cask_calibration_and_writing.md R142; 05_cask_calibration_and_writing.md R144; 05_cask_calibration_and_writing.md R151; 05_cask_calibration_and_writing.md R158. -/
def Obligations.WritePushes : Prop :=
  ∀ (s : State) (d kind : Nat) (c : Instr), (kind, c) ∈ [(0, Instr.cwrFlush d), (1, .cwrLoad d), (2, .cwrResume d), (3, .cwrRepairColumn d),
      (4, .cwrRepairMacro d), (5, .cwrRepairReference d)] → s.get .cwrReqTargetKind d = kind → s.domainOn (domCask d) = true →
    let r0 := s.cwrReq d
    let k := layerKey d r0.mac r0.layer
    let r := { r0 with origKind := ((s.wjEntry k).map WJEntry.kind).getD 0, row := 0 }
    (s.pushCode d r = none →
      ∃ t, exec c s = .next t ∧ t = { s with dies := t.dies, layers := t.layers, ctl := t.ctl } ∧ (t.die d).reqs = (s.die d).reqs ++ [r] ∧
        t.get .cwrReqStatusCode d = 0 ∧ (kind ≠ 0 → t.layers = s.layers) ∧
        (kind = 0 → t.tokens d k = s.tokens d k - 1) ∧ ∀ x, x ≠ d → t.die x = s.die x) ∧
    (∀ code, s.pushCode d r = some code →
      ∃ t, exec c s = .next t ∧ t = { s with ctl := t.ctl } ∧ t.get .cwrReqStatusCode d = code % 2 ^ 16 ∧
        (code ≠ Code.cwrNoToken → ∀ x, x ≠ Fld.cwrReqStatusCode.addr d 0 → t.word x = s.word x) ∧
        (code = Code.cwrNoToken → t.word (Fld.cwrNoTokens.addr d 0) = bumpWord (s.word (Fld.cwrNoTokens.addr d 0)) 1))

/-- A write request is admitted, takes its layer with a journal entry, programs row by row and releases the layer; tokens return with time and go to the journal. 05_cask_calibration_and_writing.md R145; 05_cask_calibration_and_writing.md R146; 05_cask_calibration_and_writing.md R149; 05_cask_calibration_and_writing.md R151; 05_cask_calibration_and_writing.md R152; 05_cask_calibration_and_writing.md R156. -/
def Obligations.WritesProceed : Prop :=
  (∀ (s0 : State) (d : Nat) (e : Ecc) (r : WReq), let s := s0.corrected e.ce
    ((s.die d).reqs.find? fun r => r.stage == .queued) = some r →
    s.parallelOk d r = true → s.capAdmits d = true → (s.die d).ready = true → (s.die d).bistQuiesce = false → s.domainOn (domCask d) = true →
    let k := layerKey d r.mac r.layer
    let err := r.inputs.findSome? fun b => s.accessErr e.ue b.1 b.2 false
    let ok := err.isNone && (r.kind != 2 || ((s.wjEntry k).map fun e => decide (e.digests = s.cwrDigests r)).getD false) && s.targetsOk r && s.scalesOk r
    (ok = true → exec (.cwrAdmit d r.mac r.layer e) s0 = .next (s.putReq d { r with stage := .admitted, digests := s.cwrDigests r })) ∧
    (ok = false → ∃ t, exec (.cwrAdmit d r.mac r.layer e) s0 = .next t ∧
      t.die d = { s.die d with reqs := (s.die d).reqs.filter fun q => !(q.mac == r.mac && q.layer == r.layer) } ∧
      t.tokens d k = (if r.kind = 0 then min (s.get .cwrCtlDepth d) (s.tokens d k + 1) else s.tokens d k) ∧
      (t.layer k).wear = (s.layer k).wear ∧ t.cells = s.cells ∧ t.journal = s.journal ∧ ∀ x, x ≠ d → t.die x = s.die x)) ∧
  (∀ (s0 : State) (d m l : Nat) (e : Ecc) (r : WReq), let s := s0.corrected e.ce
    s.findReq d m l .admitted = some r →
    ((s.die d).passes.any fun p => p.mac == m && p.stage == .fired) = false → (s.die d).visited m = false → s.parallelOk d r = true →
    s.capAdmits d = true → (s.die d).bistQuiesce = false → s.rel.safeDrain = false → s.domainOn (domCask d) = true →
    let mark := if r.kind = 2 then ((s.wjEntry (layerKey d m l)).map WJEntry.mark).getD 0 else 0
    ∃ t, exec (.cwrTakeLayer d m l e) s0 = .next t ∧ t.cells = s.cells ∧ ((t.die d).mac m).layer = r.layers.headD 0 ∧
      (t.die d).reqs = ((s.die d).reqs.map fun q => if q.mac = m ∧ q.layer = l then { r with stage := .held, mark := mark } else q) ∧
      ∀ i y, r.layers[i]? = some y → t.wjEntry (layerKey d m y) = some {
        kind := r.doing, sourceDigest := r.digests.getD (3 * i) [],
        mapDigest := r.digests.getD (3 * i + 1) [], scalesDigest := r.digests.getD (3 * i + 2) [], mark := mark }) ∧
  (∀ (s : State) (d m l iters : Nat) (cells : List CellReading) (r : WReq), s.findReq d m l .held = some r → r.row < 1024 →
    s.rel.safeDrain = false → (s.die d).running m = none →
    ∃ t r', exec (.cwrRow d m l cells iters) s = .next t ∧ t = { s with cells := t.cells, dies := t.dies, journal := t.journal } ∧
      t.findReq d m l .held = some r' ∧ r'.kind = r.kind ∧ r'.levelmap = r.levelmap ∧ r'.gap = false ∧
      (if r.row = 1023 ∧ r.kind = 4 ∧ r.sub < 7 then r'.row = 0 ∧ r'.sub = r.sub + 1 else r'.row = r.row + 1 ∧ r'.sub = r.sub) ∧
      ((t.die d).mac m).layer = r.layerNow ∧ (t.die d).passes = (s.die d).passes ∧ (∀ x, x ≠ d → t.die x = s.die x) ∧
      ((r.kind = 2 → r.mark ≤ r.row) → ∀ col < 1024, s.cwrPrograms r r.row col = true →
        t.cellLevel (layerKey d m r.layerNow) r.row col = achievedOf cells col (s.cwrTarget r r.row col)) ∧
      ∀ x, x / 1024 ≠ layerKey d m r.layerNow * 1024 + r.row → smGet (fun _ => 0) t.cells x = smGet (fun _ => 0) s.cells x) ∧
  (∀ (s0 : State) (d m l : Nat) (e : Ecc) (r : WReq), let s := s0.corrected e.ce
    s.findReq d m l .held = some r → 1024 ≤ r.row →
    ∃ t, exec (.cwrRelease d m l e) s0 = .next t ∧ t.findReq d m l .held = none ∧ t.cells = s.cells ∧ (∀ x, x ≠ d → t.die x = s.die x) ∧
      ∀ y ∈ r.layers, t.wjEntry (layerKey d m y) = none ∧ (t.layer (layerKey d m y)).levelmap = some (r.mapAt y) ∧
        (t.layer (layerKey d m y)).wear = (if r.kind = 4 then 0 else (s.layer (layerKey d m y)).wear) + (if r.cells = 0 then 0 else 1)) ∧
  (∀ (s : State) (d : Nat), s.domainOn (domCask d) = true → smWf (fun _ => {}) s.layers →
    ∃ t, exec (.cwrTokenTick d) s = .next t ∧ t = { s with layers := t.layers, dies := t.dies } ∧
      (∀ k, k / 32768 = d → t.tokens d k = min (s.tokens d k + 1) (s.get .cwrCtlDepth d) ∧
        { (t.layer k) with tokens := none } = { (s.layer k) with tokens := none }) ∧
      (∀ k, k / 32768 ≠ d → t.layer k = s.layer k) ∧ t.die d = { s.die d with bucket := (t.die d).bucket } ∧
      ∀ x, x ≠ d → t.die x = s.die x) ∧
  (∀ (s : State), exec .cwrGovernorSave s = .next { s with journal := { s.journal with governor := s.layers } })

/-- A MATRIX descriptor leaves its queue: with an empty shape it is a no-op, with an operand that cannot be read it fails, and else C holds the drained and rounded result of every element. 06_press_tiles.md R173; 06_press_tiles.md R176; 06_press_tiles.md R177; 08_operations_and_sync.md R230; 08_operations_and_sync.md R237. -/
def Obligations.MatrixOpRuns : Prop :=
  (∀ (s0 : State) (t q slot : Nat) (o : Op) (e : Ecc), let s := s0.corrected e.ce
    s.taking t q .fold [0] = some (slot, o) → (matrixBody o.desc).isNoop = true →
    ∃ u p, exec (.matrixOp t q e) s0 = .next u ∧ u = { s with free := u.free, ctl := u.ctl, ctrs := u.ctrs, tiles := u.tiles } ∧
      u.op t slot = some p ∧ p.phase = .done ∧ p.desc = o.desc ∧ u.ctrs = (s.consumeWaits o.desc).ctrs ∧
      u.get .opqPosIssued t q = (s.get .opqPosIssued t q + 1) % 2 ^ 32) ∧
  (∀ (s0 : State) (t q slot : Nat) (o : Op) (e : Ecc) (err : MemErr), let s := s0.corrected e.ce
    s.taking t q .fold [0] = some (slot, o) → (matrixBody o.desc).isNoop = false →
    s.matrixErr t e.ue (matrixBody o.desc) = some err →
    ∃ u p, exec (.matrixOp t q e) s0 = .next u ∧ u = { s with free := u.free, ctl := u.ctl, ctrs := u.ctrs, tiles := u.tiles } ∧
      u.op t slot = some p ∧ p.phase = .failed err.code.1 err.code.2 ∧ u.ctrs = (s.consumeWaits o.desc).ctrs) ∧
  (∀ (s0 : State) (t q slot : Nat) (o : Op) (e : Ecc), let s := s0.corrected e.ce
    s.taking t q .fold [0] = some (slot, o) →
    let b := matrixBody o.desc
    let l := s.leave t q slot o .fold
    let rows := (l.1.matrixRows t l.2).1
    b.isNoop = false → s.matrixErr t e.ue b = none →
    ∃ u p, exec (.matrixOp t q e) s0 = .next u ∧ u = { s with free := u.free, ctl := u.ctl, ctrs := u.ctrs, tiles := u.tiles, mem := u.mem } ∧
      u.op t slot = some p ∧ p.phase = .done ∧ p.fmt = b.fmtA ∧ u.ctrs = (s.consumeWaits o.desc).ctrs ∧
      (b.accMode = 0 → b.out = 0 → b.fn = 0 → ∀ i < b.m, ∀ j < b.n,
        u.readNat (tileAddr t (b.cOff + i * rowBytes 0 b.n + 4 * j)) 4 =
          (roundFtz .f32 (s.numMode t).ftz (rmOfCode (storeRc (s.numMode t).nebex b.rc)
            (draw l.2.seed l.2.epoch ((if (s.numMode t).nebex then i * b.n else tileAddr t (b.cOff + i * rowBytes 0 b.n) * 8 / 32) + j) 0))
            ((rows.getD i []).getD j .nan)).1) ∧
      ∀ a, (b.usesC = true → a < tileAddr t b.cOff ∨ tileAddr t b.cOff + tensorBytes b.out b.blkC b.m b.n ≤ a) →
        (b.usesSlots = true → a < tileAddr t (slotAddr b.slot 0 0) ∨ tileAddr t (slotAddr (b.slot + b.slots) 0 0) ≤ a) →
        u.readByte a = s.readByte a)

/-- A quadrant fault is counted, fails the operation that the quadrant serves, and fences its array at FENCE_AFTER; the scrubber counts what it corrects and what it cannot. 06_press_tiles.md R164; 06_press_tiles.md R174; 06_press_tiles.md R175. -/
def Obligations.TileFaultsRecorded : Prop :=
  (∀ (s : State) (t a k : Nat), a < 8 → k < 4 → s.domainOn (domTile t) = true → s.get .capTileArraysMask 0 t / 2 ^ a % 2 = 1 →
    let c := s.get .tileArrayFaultsCount t / 16 ^ a % 16
    ∃ u, exec (.quadrantFault t a k) s = .next u ∧ u.word (Fld.tileParityFaults.addr t 0) = bumpWord (s.word (Fld.tileParityFaults.addr t 0)) 1 ∧
      u.get .tileArrayFaultsCount t / 16 ^ a % 16 = min (c + 1) 15 ∧
      (s.get .tileCtlFenceAfter t ≤ min (c + 1) 15 → s.usableArrays t / 2 ^ a % 2 = 1 → s.usableArrays t ≠ 2 ^ a →
        u.get .tileArrayStatusAutoFenced t / 2 ^ a % 2 = 1) ∧
      ((s.tile t).coveredBy a k = none → u.tiles = s.tiles) ∧
      (∀ slot o, slot < 64 → (s.tile t).coveredBy a k = some (slot, o) → s.op t slot = some o → (o.phase = .running ∨ o.phase = .done) →
        (u.op t slot).map Op.phase = some (.failed Code.tileArrayParity 0) ∧ u.get .tileFaultCode t = Code.tileArrayParity) ∧
      (∀ x, x ≠ t → u.tile x = s.tile x) ∧ u.ctrs = s.ctrs ∧ u.cores = s.cores ∧ u.dies = s.dies ∧ u.links = s.links) ∧
  (∀ (s : State) (t addr : Nat), s.get .tileCtlScrub t = 1 → s.domainOn (domTile t) = true →
    exec (.scratchScrub t addr .clean) s = .next s ∧
    (∃ u, exec (.scratchScrub t addr .corrected) s = .next u ∧ u = { s with ctl := u.ctl } ∧
      let f := if accumBase ≤ addr then Fld.tileAccumCe else Fld.tileScratchCe
      u.word (f.addr t 0) = bumpWord (s.word (f.addr t 0)) 1 ∧ ∀ x, x ≠ f.addr t 0 → u.word x = s.word x) ∧
    (∃ u, exec (.scratchScrub t addr .uncorrectable) s = .next u ∧ u = { s with ctl := u.ctl } ∧
      let f := if accumBase ≤ addr then Fld.tileAccumUe else Fld.tileScratchUe
      u.word (f.addr t 0) = bumpWord (s.word (f.addr t 0)) 1 ∧ u.get .tileFaultInfoAddress t = addr % 2 ^ 32 ∧
      ∀ x, x ≠ f.addr t 0 → x ≠ Fld.tileFaultInfoAddress.addr t 0 → u.word x = s.word x)) ∧
  (∀ (s : State) (t addr : Nat) (o : EccOutcome), s.get .tileCtlScrub t = 0 → exec (.scratchScrub t addr o) s = .next s)

/-- A kernel launch leaves its queue, is done at once with CORES 0, and starts its cores on the registers that R186 gives once they are free. 06_press_tiles.md R182; 06_press_tiles.md R186; 06_press_tiles.md R187; 08_operations_and_sync.md R230. -/
def Obligations.KernelsStart : Prop :=
  (∀ (s : State) (t q slot : Nat) (o : Op), s.taking t q .launcher [2] = some (slot, o) →
    ∃ u p, exec (.vectorKernel t q) s = .next u ∧ u = { s with free := u.free, ctl := u.ctl, ctrs := u.ctrs, tiles := u.tiles } ∧
      u.op t slot = some p ∧ p.desc = o.desc ∧ p.phase = (if (coresOf (kernelBody o.desc).cores).isEmpty then .done else .running) ∧
      u.ctrs = (s.consumeWaits o.desc).ctrs ∧ u.get .opqPosIssued t q = (s.get .opqPosIssued t q + 1) % 2 ^ 32) ∧
  (∀ (s : State) (t q slot : Nat) (o : Op), s.taking t q .launcher [3] = some (slot, o) →
    ∃ u p, exec (.scalarKernel t q) s = .next u ∧ u = { s with free := u.free, ctl := u.ctl, ctrs := u.ctrs, tiles := u.tiles } ∧
      u.op t slot = some p ∧ p.desc = o.desc ∧ p.phase = (if (coresOf (kernelBody o.desc).cores).isEmpty then .done else .running) ∧
      u.ctrs = (s.consumeWaits o.desc).ctrs ∧ u.get .opqPosIssued t q = (s.get .opqPosIssued t q + 1) % 2 ^ 32) ∧
  (∀ (s : State) (t slot : Nat) (o : Op), s.op t slot = some o → o.phase = .running → (dKind o.desc = 2 ∨ dKind o.desc = 3) → o.started = false →
    s.coresFree t o.desc = true →
    let b := kernelBody o.desc
    ∃ u, exec (.kernelStart t slot) s = .next u ∧ u = { s with cores := u.cores, tiles := u.tiles } ∧
      u.op t slot = some { o with started := true } ∧
      (∀ c ∈ coresOf b.cores, (u.core t c).state = .running ∧ (u.core t c).slot = slot ∧ (u.core t c).pc = BitVec.ofNat 64 b.entry ∧
        (u.core t c).getX 2 = BitVec.ofNat 64 (b.stackTop - c * b.stackKib * 1024) ∧ (u.core t c).getX 10 = BitVec.ofNat 64 b.arg0 ∧
        (u.core t c).getX 11 = BitVec.ofNat 64 b.arg1 ∧ (u.core t c).getX 12 = BitVec.ofNat 64 b.arg2 ∧
        (u.core t c).getX 13 = BitVec.ofNat 64 c ∧ (∀ r, r ∉ [2, 10, 11, 12, 13] → (u.core t c).getX r = 0) ∧
        (∀ r, (u.core t c).getF r = 0) ∧ (u.core t c).fcsr = 0) ∧
      (∀ c, c < 8 → c ∉ coresOf b.cores → u.core t c = s.core t c) ∧ (∀ x c, x ≠ t → c < 8 → u.core x c = s.core x c) ∧
      (∀ x, x ≠ t → u.tile x = s.tile x) ∧
      (dKind o.desc = 3 → (u.tile t).vec = (s.tile t).vec) ∧
      (dKind o.desc = 2 → (u.tile t).vec.core = (coresOf b.cores).head? ∧ (u.tile t).vec.vl = 512 ∧ (u.tile t).vec.vm = BitVec.allOnes 512 ∧
        ∀ r l, (u.tile t).vec.word r l = 0))

/-- A core carries out the standard instruction at its pc; ADDI writes its register, a store its bytes once it leaves the store buffer; an exception in user mode, an uncorrectable word and an unlisted custom encoding end the kernel with their codes. 06_press_tiles.md R163; 06_press_tiles.md R164; 06_press_tiles.md R185; 06_press_tiles.md R186; 06_press_tiles.md R189. -/
def Obligations.ScalarInstructionsRun : Prop :=
  (∀ (s0 : State) (t c len imm rs1 rd : Nat) (e : Ecc), imm < 4096 → rs1 < 32 → rd < 32 → let s := s0.corrected e.ce
    s.coreGoes t c = true → s.fetchInst e.ue t c = .word (encI imm rs1 0 rd 0x13) len →
    ∃ u, exec (.scalarInstruction t c e) s0 = .next u ∧ u.ctl = s.ctl ∧ u.tiles = s.tiles ∧
      (u.core t c).pc = (s.core t c).pc + BitVec.ofNat 64 len ∧ (∀ r, r ≠ rd → (u.core t c).getX r = (s.core t c).getX r) ∧
      (rd ≠ 0 → (u.core t c).getX rd = (s.core t c).getX rs1 + (BitVec.ofNat 12 imm).signExtend 64) ∧
      ((s.core t c).stores = [] → u = s.setCore t c { s.core t c with x := (u.core t c).x, pc := (u.core t c).pc })) ∧
  (∀ (s0 : State) (t c w len : Nat) (e : Ecc), let s := s0.corrected e.ce
    s.coreGoes t c = true → s.fetchInst e.ue t c = .word w len → isCustom w = false →
    let r := if (s.core t c).waitsForStores w then s.drainAll t c else s
    let eff := (r.drainAll t c).effect e.ue t c (r.core t c) w len
    (∀ k, eff = .done k → exec (.scalarInstruction t c e) s0 = .next ((r.setCore t c k).drainSome t c)) ∧
    (∀ k, eff = .counter k → exec (.scalarInstruction t c e) s0 = .next ((r.tick.setCore t c k).drainSome t c)) ∧
    (∀ n k, eff = .vblk n k → ∃ u, exec (.scalarInstruction t c e) s0 = .next u ∧ u.ctl = s.ctl ∧
      u.tile t = { s.tile t with vec := { (s.tile t).vec with vblk := n } } ∧ (u.core t c).pc = k.pc ∧ (u.core t c).x = k.x) ∧
    (∀ a n v k, eff = .store a n v k → ∃ u, exec (.scalarInstruction t c e) s0 = .next u ∧ u.ctl = s.ctl ∧ u.tiles = s.tiles ∧
      (u.core t c).pc = k.pc ∧ (u.core t c).x = k.x ∧ (u.drainAll t c).readBytes (tileAddr t a) n = leBytes n v ∧
      ((s.core t c).stores = [] → k.stores = [] →
        ∀ x, x < tileAddr t a ∨ tileAddr t a + n ≤ x → (u.drainAll t c).readByte x = s.readByte x)) ∧
    (∀ a n v k, eff = .atomic a n v k → k.stores = [] → ∃ u, exec (.scalarInstruction t c e) s0 = .next u ∧ u.ctl = s.ctl ∧ u.core t c = k ∧
      u.readBytes (tileAddr t a) n = leBytes n v ∧
      ∀ x, x < tileAddr t a ∨ tileAddr t a + n ≤ x → u.readByte x = r.readByte x)) ∧
  (∀ (s0 : State) (t c cause tval : Nat) (e : Ecc), let s := s0.corrected e.ce
    s.coreGoes t c = true →
    ((s.fetchInst e.ue t c = .fault ∧ cause = 1 ∧ tval = (s.core t c).pc.toNat) ∨ (s.fetchInst e.ue t c = .illegal tval ∧ cause = 2) ∨
      (∃ w len, s.fetchInst e.ue t c = .word w len ∧ isCustom w = false ∧
        let r := if (s.core t c).waitsForStores w then s.drainAll t c else s
        (r.drainAll t c).effect e.ue t c (r.core t c) w len = .trap cause tval)) →
    (∀ o, c < 8 → (s.core t c).machine = false → s.op t (s.core t c).slot = some o → o.phase = .running →
      ∃ u, exec (.scalarInstruction t c e) s0 = .next u ∧ u = { s with ctl := u.ctl, cores := u.cores, tiles := u.tiles, mem := u.mem } ∧
        (u.core t c).state = .idle ∧ (u.op t (s.core t c).slot).map Op.phase = some (.failed Code.tileScalarFault 0) ∧
        ((s.core t c).slot < 64 → u.get .tileFaultCode t = Code.tileScalarFault) ∧ u.word (Fld.tileFaultPc.addr t 0) = (s.core t c).pc ∧
        u.get .tileFaultInfoAddress t = tval % 2 ^ 32 ∧ u.get .tileFaultInfoCause t = cause % 256) ∧
    ((s.core t c).machine = true → (s.core t c).stores = [] →
      exec (.scalarInstruction t c e) s0 = .next (s.setCore t c ((s.core t c).trapped cause tval)))) ∧
  (∀ (s0 : State) (t c : Nat) (e : Ecc) (err : MemErr) (o : Op), c < 8 → let s := s0.corrected e.ce
    s.coreGoes t c = true → s.op t (s.core t c).slot = some o → o.phase = .running →
    (s.fetchInst e.ue t c = .ue err ∨ (∃ w len, s.fetchInst e.ue t c = .word w len ∧ isCustom w = false ∧
      let r := if (s.core t c).waitsForStores w then s.drainAll t c else s
      (r.drainAll t c).effect e.ue t c (r.core t c) w len = .ue err)) →
    ∃ u, exec (.scalarInstruction t c e) s0 = .next u ∧ (u.core t c).state = .idle ∧
      (u.op t (s.core t c).slot).map Op.phase = some (.failed err.code.1 0)) ∧
  (∀ (s0 : State) (t c w len : Nat) (e : Ecc), let s := s0.corrected e.ce
    s.coreGoes t c = true → s.fetchInst e.ue t c = .word w len → isCustom w = true →
    ((decodeCustom w).isSome = true → exec (.scalarInstruction t c e) s0 = .next s) ∧
    (∀ o, decodeCustom w = none → c < 8 → s.op t (s.core t c).slot = some o → o.phase = .running →
      ∃ u, exec (.scalarInstruction t c e) s0 = .next u ∧ u = { s with ctl := u.ctl, cores := u.cores, tiles := u.tiles, mem := u.mem } ∧
        (u.core t c).state = .idle ∧ (u.op t (s.core t c).slot).map Op.phase = some (.failed Code.tileVectorIllegal 0) ∧
        ((s.core t c).slot < 64 → u.get .tileFaultCode t = Code.tileVectorIllegal))) ∧
  (∀ (s : State) (t c : Nat) (ue : List Nat), s.coreGoes t c = false → exec (.scalarInstruction t c { ue := ue }) s = .next s)

/-- The bitwise, shift, integer, sign, select and move instructions write each lane that they work on with the 32-bit result of Table 6.9, raise no flag, and change no other lane. 06_press_tiles.md R182; 06_press_tiles.md R183. -/
def Obligations.VectorIntegerLanes : Prop :=
  (∀ e ∈ ([(.vand, 0x0A, fun x y _ => x &&& y), (.vor, 0x0B, fun x y _ => x ||| y), (.vxor, 0x0C, fun x y _ => x ^^^ y),
      (.vsll, 0x0D, fun x y _ => x <<< (y.toNat % 32)), (.vsrl, 0x0E, fun x y _ => x >>> (y.toNat % 32)),
      (.vsra, 0x0F, fun x y _ => x.sshiftRight (y.toNat % 32)), (.viadd, 0x10, fun x y _ => x + y), (.vimul, 0x11, fun x y _ => x * y),
      (.vsgnj, 0x07, fun x y _ => (x &&& 0x7FFFFFFF#32) ||| (y &&& 0x80000000#32)), (.vsel, 0x1B, fun x y m => if m then x else y),
      (.vmov, 0x1C, fun x _ _ => x)] : List ((Nat → Nat → VArgs → Instr) × Nat × (W32 → W32 → Bool → W32))),
    ∀ (s : State) (t c : Nat) (a : VArgs), s.Executes t c (.v0 e.2.1 a) →
      let v := (s.tile t).vec
      ∃ u, exec (e.1 t c a) s = .next u ∧ s.VectorOnly u t c 0 ∧
        s.LanesBecome u t a.masked a.vd fun l => e.2.2 (v.word a.vs1 l) (v.word a.vs2 l) (v.vm.getLsbD l))

/-- The arithmetic, conversion and approximated instructions write the lanes that they work on with the function's FP32 result and raise its flags, on the tile and on the operation. 06_press_tiles.md R182; 06_press_tiles.md R183; 06_press_tiles.md R184; 03_number_formats.md R62. -/
def Obligations.VectorFloatLanes : Prop :=
  (∀ e ∈ ([(.vadd, 0), (.vsub, 1), (.vmul, 2), (.vdiv, 3), (.vmin, 4), (.vmax, 5), (.vsqrt, 6), (.vcvtif, 8), (.vcvtfi, 9), (.vexp2, 0x20),
      (.vexp, 0x21), (.vlog2, 0x22), (.vln, 0x23), (.vrcp, 0x24), (.vrsqrt, 0x25), (.vtanh, 0x26), (.vsigm, 0x27), (.vgelu, 0x28),
      (.vsilu, 0x29), (.vsin, 0x2A), (.vcos, 0x2B)] : List ((Nat → Nat → VArgs → Instr) × Nat)),
    ∀ (s : State) (t c : Nat) (a : VArgs), s.Executes t c (.v0 e.2 a) →
      let v := (s.tile t).vec
      let r := fun l => vLane (s.vMode t c) e.2 a.rc l (v.word a.vs1 l).toNat (v.word a.vs2 l).toNat (v.vm.getLsbD l)
      ∃ u, exec (e.1 t c a) s = .next u ∧ s.VectorOnly u t c (v.orFlags a.masked fun l => (r l).2) ∧
        s.LanesBecome u t a.masked a.vd fun l => BitVec.ofNat 32 (r l).1) ∧
  (∀ e ∈ ([(.vadd, 0, fun x y => x.add y), (.vsub, 1, fun x y => x.add y.negate), (.vmul, 2, FVal.mul), (.vdiv, 3, FVal.div)] :
      List ((Nat → Nat → VArgs → Instr) × Nat × (FVal → FVal → FVal))),
    ∀ (s : State) (t c : Nat) (a : VArgs), s.Executes t c (.v0 e.2.1 a) → (s.numMode t).nebex = false → (s.numMode t).ftz = false → a.rc ≤ 1 →
      let v := (s.tile t).vec
      ∃ u, exec (e.1 t c a) s = .next u ∧ s.LanesBecome u t a.masked a.vd fun l =>
        BitVec.ofNat 32 (FFmt.f32.round (if a.rc = 0 then .rne else .rtz)
          (e.2.2 (FFmt.f32.decode (v.word a.vs1 l).toNat) (FFmt.f32.decode (v.word a.vs2 l).toNat))).bits) ∧
  (∀ e ∈ ([(.vadd, 0), (.vand, 0x0A), (.vcmpeq, 0x18), (.vsel, 0x1B), (.vexp2, 0x20), (.vrsum, 0x30), (.vbcast, 0x38), (.vextr, 0x39)] :
      List ((Nat → Nat → VArgs → Instr) × Nat)),
    ∀ (s : State) (t c : Nat) (a : VArgs) (o : Op), c < 8 → s.customAt t c = some (.v0 e.2 a) → s.op t (s.core t c).slot = some o →
      o.phase = .running → (s.tile t).vec.core ≠ some c ∨ (a.rc = 3 ∧ s.get .tileNumCtlNebex t = 0) →
      ∃ u, exec (e.1 t c a) s = .next u ∧ (u.core t c).state = .idle ∧ (u.op t (s.core t c).slot).map Op.phase =
        some (.failed (if (s.tile t).vec.core ≠ some c then Code.tileVectorIllegal else Code.numRoundCode) 0))

/-- At a NaN, at the infinities and at the zeros the approximated functions return what IEEE 754 gives or the function's limit. 06_press_tiles.md R183. -/
def Obligations.ApproximatedSpecialOperands : Prop :=
  ∀ (m : VMode) (rc lane b : Nat),
    (∀ f ∈ [0x20, 0x21, 0x22, 0x23, 0x24, 0x25, 0x26, 0x27, 0x28, 0x29, 0x2A, 0x2B], ∀ (a : Nat), a < 2 ^ 32 → 0x7F800000 < a % 2 ^ 31 →
      (vLane m f rc lane a b false).1 = 0x7FC00000) ∧
    (∀ p ∈ [(0x20, 0x7F800000), (0x21, 0x7F800000), (0x22, 0x7F800000), (0x23, 0x7F800000), (0x24, 0), (0x25, 0), (0x26, 0x3F800000),
      (0x27, 0x3F800000), (0x28, 0x7F800000), (0x29, 0x7F800000), (0x2A, 0x7FC00000), (0x2B, 0x7FC00000)],
      (vLane m p.1 rc lane 0x7F800000 b false).1 = p.2) ∧
    (∀ p ∈ [(0x20, 0x3F800000), (0x21, 0x3F800000), (0x22, 0xFF800000), (0x23, 0xFF800000), (0x24, 0x7F800000), (0x25, 0x7F800000), (0x26, 0),
      (0x27, 0x3F000000), (0x28, 0), (0x29, 0), (0x2A, 0), (0x2B, 0x3F800000)], (vLane m p.1 rc lane 0 b false).1 = p.2) ∧
    (∀ p ∈ [(0x20, 0), (0x21, 0), (0x22, 0x7FC00000), (0x23, 0x7FC00000), (0x24, 0x80000000), (0x25, 0x7FC00000), (0x26, 0xBF800000), (0x27, 0)],
      (vLane m p.1 rc lane 0xFF800000 b false).1 = p.2)

/-- Comparisons write the mask, reductions and VBCAST one value into every lane that they work on, VEXTR a lane into a scalar register, and the fused operations the exact product and sum rounded once. 06_press_tiles.md R182; 06_press_tiles.md R184. -/
def Obligations.VectorReduceAndMask : Prop :=
  (∀ e ∈ ([(.vcmpeq, 0x18), (.vcmplt, 0x19), (.vcmple, 0x1A)] : List ((Nat → Nat → VArgs → Instr) × Nat)),
    ∀ (s : State) (t c : Nat) (a : VArgs), s.Executes t c (.v0 e.2 a) →
      let v := (s.tile t).vec
      let r := fun l => vCompare (s.vMode t c) e.2 (v.word a.vs1 l).toNat (v.word a.vs2 l).toNat
      ∃ u, exec (e.1 t c a) s = .next u ∧ s.VectorOnly u t c (v.orFlags a.masked fun l => (r l).2) ∧
        (u.tile t).vec = { v with vm := (u.tile t).vec.vm } ∧
        ∀ l < 512, (u.tile t).vec.vm.getLsbD l = (if v.active a.masked l = true then
          (r l).1 && !(FFmt.f32.decode (v.word a.vs1 l).toNat).isNan && !(FFmt.f32.decode (v.word a.vs2 l).toNat).isNan else v.vm.getLsbD l)) ∧
  (∀ e ∈ ([(.vrsum, 0x30, false), (.vrmax, 0x31, true)] : List ((Nat → Nat → VArgs → Instr) × Nat × Bool)),
    ∀ (s : State) (t c : Nat) (a : VArgs), s.Executes t c (.v0 e.2.1 a) →
      let v := (s.tile t).vec
      let r := vReduce v (s.vMode t c) e.2.2 a.rc a.vs1
      ∃ u, exec (e.1 t c a) s = .next u ∧ s.VectorOnly u t c (if v.vl = 0 then 0 else r.2) ∧
        s.LanesBecome u t a.masked a.vd fun _ => BitVec.ofNat 32 r.1) ∧
  (∀ (s : State) (t c : Nat) (a : VArgs), s.Executes t c (.v0 0x38 a) →
      let f := (s.core t c).getF a.vs1
      let r := vBroadcast (s.vMode t c) a.rc f.toNat
      ∃ u, exec (.vbcast t c a) s = .next u ∧ s.VectorOnly u t c ((s.tile t).vec.orFlags a.masked fun _ => r.2) ∧
        s.LanesBecome u t a.masked a.vd (fun _ => BitVec.ofNat 32 r.1) ∧
        (f.toNat / 2 ^ 32 = 0xFFFFFFFF → (s.numMode t).nebex = false → s.VectorOnly u t c 0 ∧ r.1 = (f.setWidth 32).toNat) ∧
        (f.toNat / 2 ^ 32 ≠ 0xFFFFFFFF → (s.numMode t).nebex = false → (s.numMode t).ftz = false → a.rc ≤ 1 →
          r.1 = (FFmt.f32.round (if a.rc = 0 then .rne else .rtz) (FFmt.f64.decode f.toNat)).bits)) ∧
  (∀ (s : State) (t c : Nat) (a : VArgs), s.Executes t c (.v0 0x39 a) → ((s.core t c).getX a.vs2).toNat < 512 → (s.tile t).vec.vl ≠ 0 →
      ∃ u, exec (.vextr t c a) s = .next u ∧ s.VectorDone u t c 0 ∧ u.mem = s.mem ∧ (u.tile t).vec = (s.tile t).vec ∧
        (u.core t c).getF a.vd = box ((s.tile t).vec.word a.vs1 ((s.core t c).getX a.vs2).toNat).toNat ∧
        ∀ r, r ≠ a.vd → (u.core t c).getF r = (s.core t c).getF r) ∧
  (∀ (s : State) (t c : Nat) (a : VArgs) (o : Op), c < 8 → (s.core t c).machine = false → s.Executes t c (.v0 0x39 a) → 512 ≤ ((s.core t c).getX a.vs2).toNat →
      s.op t (s.core t c).slot = some o → o.phase = .running →
      ∃ u, exec (.vextr t c a) s = .next u ∧ (u.core t c).state = .idle ∧
        (u.op t (s.core t c).slot).map Op.phase = some (.failed Code.tileScalarFault 0)) ∧
  (∀ e ∈ ([(.vfma, 0, fun p z => p.add z), (.vfms, 1, fun p z => p.add z.negate), (.vfnma, 2, fun p z => p.negate.add z)] :
      List ((Nat → Nat → VArgs → Nat → Instr) × Nat × (FVal → FVal → FVal))),
    ∀ (s : State) (t c vs3 : Nat) (a : VArgs), s.Executes t c (.v1 e.2.1 a vs3) → (s.numMode t).nebex = false → (s.numMode t).ftz = false → a.rc ≤ 1 →
      let v := (s.tile t).vec
      ∃ u fl, exec (e.1 t c a vs3) s = .next u ∧ s.VectorOnly u t c fl ∧ s.LanesBecome u t a.masked a.vd fun l =>
        BitVec.ofNat 32 (FFmt.f32.round (if a.rc = 0 then .rne else .rtz) (e.2.2
          ((FFmt.f32.decode (v.word a.vs1 l).toNat).mul (FFmt.f32.decode (v.word a.vs2 l).toNat)) (FFmt.f32.decode (v.word vs3 l).toNat))).bits)

/-- Vector loads fill the lanes that they work on from tile-local memory once the core's earlier stores stand in it; vector stores write their lanes' bytes and leave every other byte; an address outside tile-local memory ends the kernel. 06_press_tiles.md R163; 06_press_tiles.md R182; 06_press_tiles.md R189; 03_number_formats.md R57; 03_number_formats.md R65; 03_number_formats.md R70. -/
def Obligations.VectorMemory : Prop :=
  (∀ (s0 : State) (t c : Nat) (m : VMem) (e : Ecc), (s0.corrected e.ce).Executes t c (.v2 0 m) →
      let s := (s0.corrected e.ce).drainAll t c
      let n := fmtWidth m.fmt / 8
      let b := fun l => s.readNat (tileAddr t (strideAddr (s.core t c) m n l)) n
      s.readErr e.ue t c n (((s.tile t).vec.lanes m.masked).map (strideAddr (s.core t c) m n)) = none →
      ∃ u fl, exec (.vld t c m e) s0 = .next u ∧ s.VectorOnly u t c fl ∧
        (m.fmt = 0 → s.LanesBecome u t m.masked m.v fun l => BitVec.ofNat 32 (flushWord (s.numMode t).ftz (b l)).1) ∧
        (∀ f, m.fmt ≠ 0 → fmtOfCode m.fmt = some f → (s.numMode t).ftz = false →
          s.LanesBecome u t m.masked m.v fun l => BitVec.ofNat 32 (FFmt.f32.round .rne (f.decode (b l))).bits)) ∧
  (∀ (s0 : State) (t c : Nat) (m : VMem) (e : Ecc), (s0.corrected e.ce).Executes t c (.v2 2 m) →
      let s := (s0.corrected e.ce).drainAll t c
      let k := s.core t c
      let ea := (k.getX m.rs1).toNat
      let sa := (k.getX m.rs2).toNat
      let n := blockSize (s.tile t).vec.vblk
      let ls := (s.tile t).vec.lanes m.masked
      s.readErr e.ue t c 1 (ls.map (blockAddr m.fmt ea) ++ ls.map fun l => sa + l / n) = none →
      ∃ u, exec (.vldq t c m e) s0 = .next u ∧ s.VectorOnly u t c 0 ∧ s.LanesBecome u t m.masked m.v fun l =>
        let b := (s.readByte (tileAddr t (blockAddr m.fmt ea l))).toNat
        let x := scaleElem ((fmtOfCode m.fmt).getD .f4) (s.readByte (tileAddr t (sa + l / n))).toNat
          (if m.fmt = 5 then (if l % 2 = 0 then b % 16 else b / 16) else b)
        BitVec.ofNat 32 (FFmt.f32.round .rne x).bits) ∧
  (∀ (s0 : State) (t c : Nat) (m : VMem) (e : Ecc), (s0.corrected e.ce).Executes t c (.v2 4 m) →
      let s := (s0.corrected e.ce).drainAll t c
      let k := s.core t c
      let v := (s.tile t).vec
      let r := fun l => flushWord (s.numMode t).ftz (s.readNat (tileAddr t (gatherAddr k v m l)) 4)
      s.readErr e.ue t c 4 ((v.lanes m.masked).map (gatherAddr k v m)) = none →
      ∃ u, exec (.vgath t c m e) s0 = .next u ∧ s.VectorOnly u t c (v.orFlags m.masked fun l => (r l).2) ∧
        s.LanesBecome u t m.masked m.v fun l => BitVec.ofNat 32 (r l).1) ∧
  (∀ (s0 : State) (t c : Nat) (m : VMem), s0.Executes t c (.v2 1 m) →
      let s := s0.drainAll t c
      let k := s.core t c
      let v := (s.tile t).vec
      let n := fmtWidth m.fmt / 8
      (∀ l ∈ v.lanes m.masked, s.coreOk t c (strideAddr k m n l) n 2 = true) →
      ∃ u fl, exec (.vst t c m) s0 = .next u ∧ s.VectorDone u t c fl ∧ (u.core t c).f = k.f ∧ (u.tile t).vec = v ∧
        (∀ x, (∀ l ∈ v.lanes m.masked, x < tileAddr t (strideAddr k m n l) ∨ tileAddr t (strideAddr k m n l) + n ≤ x) → u.readByte x = s.readByte x) ∧
        (m.fmt = 0 → ∀ l, (v.lanes m.masked).getLast? = some l →
          u.readNat (tileAddr t (strideAddr k m n l)) 4 = (flushWord (s.numMode t).ftz (v.word m.v l).toNat).1)) ∧
  (∀ (s0 : State) (t c : Nat) (m : VMem), s0.Executes t c (.v2 5 m) →
      let s := s0.drainAll t c
      let k := s.core t c
      let v := (s.tile t).vec
      (∀ l ∈ v.lanes m.masked, s.coreOk t c (gatherAddr k v m l) 4 2 = true) →
      ∃ u fl, exec (.vscat t c m) s0 = .next u ∧ s.VectorDone u t c fl ∧ (u.core t c).f = k.f ∧ (u.tile t).vec = v ∧
        (∀ x, (∀ l ∈ v.lanes m.masked, x < tileAddr t (gatherAddr k v m l) ∨ tileAddr t (gatherAddr k v m l) + 4 ≤ x) → u.readByte x = s.readByte x) ∧
        (∀ l, (v.lanes m.masked).getLast? = some l →
          u.readNat (tileAddr t (gatherAddr k v m l)) 4 = (flushWord (s.numMode t).ftz (v.word m.v l).toNat).1)) ∧
  (∀ (s0 : State) (t c : Nat) (m : VMem), s0.Executes t c (.v2 3 m) →
      let s := s0.drainAll t c
      let k := s.core t c
      let v := (s.tile t).vec
      let n := blockSize v.vblk
      let nb := ceilDiv v.vl n
      let ea := (k.getX m.rs1).toNat
      let sa := (k.getX m.rs2).toNat
      (∀ l < nb * n, s.coreOk t c (blockAddr m.fmt ea l) 1 2 = true) → (∀ i < nb, s.coreOk t c (sa + i) 1 2 = true) →
      ∃ u fl, exec (.vstq t c m) s0 = .next u ∧ s.VectorDone u t c fl ∧ (u.core t c).f = k.f ∧ (u.tile t).vec = v ∧
        ∀ x, (∀ l < nb * n, x ≠ tileAddr t (blockAddr m.fmt ea l)) → (∀ i < nb, x ≠ tileAddr t (sa + i)) → u.readByte x = s.readByte x) ∧
  (∀ (s0 : State) (t c a : Nat) (m : VMem) (e : Ecc) (o : Op), c < 8 → (s0.corrected e.ce).Executes t c (.v2 0 m) →
      let s := (s0.corrected e.ce).drainAll t c
      let n := fmtWidth m.fmt / 8
      s.readErr e.ue t c n (((s.tile t).vec.lanes m.masked).map (strideAddr (s.core t c) m n)) = some (.inl a) →
      (s.core t c).machine = false → s.op t (s.core t c).slot = some o → o.phase = .running →
      ∃ u, exec (.vld t c m e) s0 = .next u ∧ (u.core t c).state = .idle ∧
        (u.op t (s.core t c).slot).map Op.phase = some (.failed Code.tileScalarFault 0) ∧ u.get .tileFaultInfoAddress t = a % 2 ^ 32) ∧
  (∀ (s0 : State) (t c a : Nat) (m : VMem) (o : Op), c < 8 → s0.Executes t c (.v2 1 m) →
      let s := s0.drainAll t c
      let n := fmtWidth m.fmt / 8
      (((s.tile t).vec.lanes m.masked).map (strideAddr (s.core t c) m n)).find? (fun x => !s.coreOk t c x n 2) = some a →
      (s.core t c).machine = false → s.op t (s.core t c).slot = some o → o.phase = .running →
      ∃ u, exec (.vst t c m) s0 = .next u ∧ (u.core t c).state = .idle ∧
        (u.op t (s.core t c).slot).map Op.phase = some (.failed Code.tileScalarFault 0) ∧ u.get .tileFaultInfoAddress t = a % 2 ^ 32)

/-- TSETVL, TSETBLK, TVFENCE and TCORE change their registers alone; TSIG sends its signal; TWAIT goes on where its counter is reached and sleeps where it is not; TEXIT ends the core's part. 06_press_tiles.md R186; 06_press_tiles.md R190; 08_operations_and_sync.md R240; 08_operations_and_sync.md R243. -/
def Obligations.TileControlInstructions : Prop :=
  (∀ (s : State) (t c rd rs1 b : Nat), t ≠ 64 → s.Executes t c (.v3 0 rd rs1 b) →
      let vl := min ((s.core t c).getX rs1).toNat 512
      ∃ u, exec (.tsetvl t c rd rs1) s = .next u ∧ u = { s with tiles := u.tiles, cores := u.cores } ∧
        (u.tile t) = { s.tile t with vec := { (s.tile t).vec with vl := vl } } ∧ (rd ≠ 0 → (u.core t c).getX rd = BitVec.ofNat 64 vl) ∧
        (∀ r, r ≠ rd → (u.core t c).getX r = (s.core t c).getX r) ∧ (u.core t c).pc = (s.core t c).pc + 4) ∧
  (∀ (s : State) (t c d rs1 b : Nat), t ≠ 64 → s.Executes t c (.v3 1 d rs1 b) →
      exec (.tsetblk t c rs1) s = .next ((s.setTile t { s.tile t with vec := { (s.tile t).vec with vblk := ((s.core t c).getX rs1).toNat % 4 } }).setCore t c
        { s.core t c with pc := (s.core t c).pc + 4 })) ∧
  (∀ (s : State) (t c d a b : Nat), t ≠ 64 → s.Executes t c (.v3 4 d a b) →
      exec (.tvfence t c) s = .next (s.setCore t c { s.core t c with pc := (s.core t c).pc + 4 })) ∧
  (∀ (s : State) (t c rd a b : Nat), t ≠ 64 → s.Executes t c (.v3 6 rd a b) →
      ∃ u, exec (.tcore t c rd) s = .next u ∧ u = s.setCore t c (u.core t c) ∧ (rd ≠ 0 → (u.core t c).getX rd = BitVec.ofNat 64 (8 * t + c)) ∧
        (∀ r, r ≠ rd → (u.core t c).getX r = (s.core t c).getX r) ∧ (u.core t c).pc = (s.core t c).pc + 4) ∧
  (∀ (s : State) (t c d rs1 rs2 : Nat), (t = 64 ∨ s.Executes t c (.v3 2 d rs1 rs2)) →
      let id := ((s.core t c).getX rs1).toNat
      let delta := signed 16 ((s.core t c).getX rs2).toNat
      s.idValid id = true →
      exec (.tsig t c rs1 rs2) s = .next (State.setCore { s with transit := s.transit ++
          (if delta = 0 ∨ s.idOff id = true then [] else [{ id := id, delta := delta, source := t }]) } t c
        { s.core t c with pc := (s.core t c).pc + 4 })) ∧
  (∀ (s : State) (t c rd rs1 rs2 : Nat), (t = 64 ∨ s.Executes t c (.v3 3 rd rs1 rs2)) →
      let id := ((s.core t c).getX rs1).toNat
      let th := ((s.core t c).getX rs2).toNat % 65536
      s.idValid id = true → s.idOff id = false → (s.ctr id).poison = false →
      (th ≤ (s.ctr id).value → ∃ u, exec (.twait t c rd rs1 rs2) s = .next u ∧ u = s.setCore t c (u.core t c) ∧
        (u.core t c).state = (s.core t c).state ∧ (rd ≠ 0 → (u.core t c).getX rd = 0) ∧ (u.core t c).pc = (s.core t c).pc + 4) ∧
      ((s.ctr id).value < th → id ≠ 0xFFFF →
        exec (.twait t c rd rs1 rs2) s = .next (s.setCore t c { s.core t c with pc := (s.core t c).pc + 4, state := .waiting id th rd }))) ∧
  (∀ (s : State) (t c rd rs1 rs2 : Nat), (t = 64 ∨ s.Executes t c (.v3 3 rd rs1 rs2)) →
      let id := ((s.core t c).getX rs1).toNat
      s.idValid id = true → ((s.core t c).getX rs2).toNat % 65536 ≠ 0 → id ≠ 0xFFFF → s.idOff id = true ∨ (s.ctr id).poison = true →
      ∃ u, exec (.twait t c rd rs1 rs2) s = .next u ∧ u = s.setCore t c (u.core t c) ∧ (u.core t c).pc = (s.core t c).pc + 4 ∧
        (rd ≠ 0 → (u.core t c).getX rd = BitVec.ofNat 64 (if s.idOff id then Code.ctlDomainOff else Code.syncPoison))) ∧
  (∀ (s : State) (t c d rs1 rs2 : Nat) (o : Op), t ≠ 64 → c < 8 → s.op t (s.core t c).slot = some o → o.phase = .running →
      let id := ((s.core t c).getX rs1).toNat
      s.idValid id = false →
      (s.Executes t c (.v3 2 d rs1 rs2) → ∃ u, exec (.tsig t c rs1 rs2) s = .next u ∧ (u.core t c).state = .idle ∧ u.transit = s.transit ∧
        (u.op t (s.core t c).slot).map Op.phase = some (.failed Code.syncIdRange (id % 65536))) ∧
      (s.Executes t c (.v3 3 d rs1 rs2) → ∃ u, exec (.twait t c d rs1 rs2) s = .next u ∧ (u.core t c).state = .idle ∧
        (u.op t (s.core t c).slot).map Op.phase = some (.failed Code.syncIdRange (id % 65536)))) ∧
  (∀ (s : State) (t c d rs1 b : Nat) (o : Op), t ≠ 64 → c < 8 → s.Executes t c (.v3 5 d rs1 b) → s.op t (s.core t c).slot = some o → o.phase = .running →
      ((s.core t c).getX rs1 = 0 → ∃ u, exec (.texit t c rs1) s = .next u ∧ u = { s.drainAll t c with cores := u.cores, tiles := u.tiles } ∧
        (coresOf (kernelBody o.desc).cores = [c] → (u.core t c).state = .idle ∧ u.op t (s.core t c).slot = some { o with phase := .done }) ∧
        ((∃ i ∈ coresOf (kernelBody o.desc).cores, i ≠ c ∧ (s.core t i).state = .running) →
          (u.core t c).state = .exited ∧ u.op t (s.core t c).slot = some o)) ∧
      ((s.core t c).getX rs1 ≠ 0 → ∃ u, exec (.texit t c rs1) s = .next u ∧ (u.core t c).state = .idle ∧
        (u.op t (s.core t c).slot).map Op.phase = some (.failed Code.tileKernelExit 0) ∧
        u.get .tileFaultInfoAddress t = ((s.core t c).getX rs1).toNat % 2 ^ 32))

/-- A TAIL write in range is taken and any other is refused with its code; a fetch takes the next ring entry into the lowest free slot, ready or refused. 08_operations_and_sync.md R225; 08_operations_and_sync.md R226; 08_operations_and_sync.md R227; 08_operations_and_sync.md R228; 08_operations_and_sync.md R229; 08_operations_and_sync.md R232. -/
def Obligations.PushesAndFetches : Prop :=
  (∀ (s : State) (t q : Nat) (v : W64), s.domainOn (domTile t) = true → s.blend.inForce.isSome = true → s.applying = false →
    s.get .opqCfgSizeLog2 t q ≠ 0 → (v.toNat % 2 ^ 32 + 2 ^ 32 - s.get .opqPosIssued t q) % 2 ^ 32 ≤ 2 ^ s.get .opqCfgSizeLog2 t q →
    ∃ u, exec (.opqTailWrite t q v) s = .next u ∧ u = { s with ctl := u.ctl } ∧ u.get .opqTailTail t q = v.toNat % 2 ^ 32 ∧
      ∀ x, x ≠ Fld.opqTailTail.addr t q → u.word x = s.word x) ∧
  (∀ (s : State) (t q c : Nat) (v : W64), q < 16 → s.domainOn (domTile t) = true → s.tailRefusal t q (v.toNat % 2 ^ 32) = some c →
    ∃ u, exec (.opqTailWrite t q v) s = .next u ∧ u = { s with ctl := u.ctl } ∧ u.get .opqPushErrCode t = c % 2 ^ 16 ∧ u.get .opqPushErrQueue t = q ∧
      u.get .opqPushErrValue t = v.toNat % 2 ^ 32 ∧ u.word (Fld.opqPushRefused.addr t 0) = bumpWord (s.word (Fld.opqPushRefused.addr t 0)) 1 ∧
      ∀ x, x ≠ Fld.opqPushErrCode.addr t 0 → x ≠ Fld.opqPushRefused.addr t 0 → u.word x = s.word x) ∧
  (∀ (s : State) (t q : Nat) (v : W64), s.domainOn (domTile t) = false →
    ∃ u, exec (.opqTailWrite t q v) s = .next u ∧ u = { s with ctl := u.ctl } ∧ u.get .blendCtlErrCode = Code.ctlDomainOff ∧
      ∀ x, x ≠ Fld.blendCtlErrCode.addr 0 0 → u.word x = s.word x) ∧
  (∀ (s0 : State) (t q slot : Nat) (e : Ecc), let s := s0.corrected e.ce
    s.fetcher t = some q → s.freeSlot t = some slot →
    let a := s.ringAddr t q (s.get .opqPosFetched t q)
    let d := descOf (s.readBytes a 64)
    s.accessErr e.ue a 64 false = none → s.checkDesc t d = none →
    ∃ u, exec (.descriptorFetch t e) s0 = .next u ∧ u = { s with ctl := u.ctl, tiles := u.tiles } ∧
      u.op t slot = some { queue := q, seq := s.get .opqPosFetched t q, order := (s.tile t).fetches, desc := d, phase := .ready } ∧
      (∀ k, k ≠ slot → u.op t k = s.op t k) ∧ u.get .opqPosFetched t q = (s.get .opqPosFetched t q + 1) % 2 ^ 32 ∧
      ∀ x, x ≠ Fld.opqPosFetched.addr t q → u.word x = s.word x) ∧
  (∀ (s0 : State) (t q slot code detail : Nat) (e : Ecc), t < 64 → let s := s0.corrected e.ce
    s.fetcher t = some q → s.freeSlot t = some slot →
    let a := s.ringAddr t q (s.get .opqPosFetched t q)
    let d := descOf (s.readBytes a 64)
    s.accessErr e.ue a 64 false = none → s.checkDesc t d = some (code, detail) →
    ∃ u p, exec (.descriptorFetch t e) s0 = .next u ∧ u.op t slot = some p ∧ p.phase = .refused code detail ∧ p.desc = d ∧
      (u.tile t).halt q = some (.refusal slot) ∧ u.get .opqStateHaltCode t q = code % 2 ^ 16 ∧ u.cores = s.cores ∧ u.dies = s.dies) ∧
  (∀ (s0 : State) (t q slot : Nat) (e : Ecc) (err : MemErr), t < 64 → let s := s0.corrected e.ce
    s.fetcher t = some q → s.freeSlot t = some slot →
    let a := s.ringAddr t q (s.get .opqPosFetched t q)
    s.accessErr e.ue a 64 false = some err →
    ∃ u p, exec (.descriptorFetch t e) s0 = .next u ∧ u.op t slot = some p ∧ p.phase = .refused Code.opqFetchError a ∧
      (u.tile t).halt q = some (.refusal slot) ∧ u.get .opqStateHaltCode t q = Code.opqFetchError)

/-- A finished operation sends its signals, writes its record and frees its slot; a failed one writes its record, halts its queue and sends no signal; one whose record cannot be written halts its queue with OPQ_RECORD_LOST and sends no signal. 08_operations_and_sync.md R231; 08_operations_and_sync.md R232; 08_operations_and_sync.md R235; 08_operations_and_sync.md R465. -/
def Obligations.OperationsComplete : Prop :=
  (∀ (s0 : State) (t slot : Nat) (e : Ecc) (o : Op), t < 64 → o.queue < 16 → let s := s0.corrected e.ce
    s.preempted t = false → s.op t slot = some o → o.phase = .done → s.awaits t slot = false →
    dBits o.desc 1 2 2 = 0 →
    ∃ u, exec (.opComplete t slot e) s0 = .next u ∧ u = { s with ctl := u.ctl, ctrs := u.ctrs, tiles := u.tiles } ∧ u.op t slot = none ∧
      (∀ k, k ≠ slot → u.op t k = s.op t k) ∧ u.ctrs = (s.sendSignals o.desc).1.ctrs) ∧
  (∀ (s0 : State) (t slot : Nat) (e : Ecc) (o : Op), t < 64 → o.queue < 16 → let s := s0.corrected e.ce
    s.preempted t = false → s.op t slot = some o → o.phase = .done → s.awaits t slot = false →
    dBits o.desc 1 2 2 = 1 → s.recOk e.ue t o.queue = true →
    let p := if (s.sendSignals o.desc).2 then o.saturated (s.saturatedId o.desc) else o
    ∃ u n, exec (.opComplete t slot e) s0 = .next u ∧ u = { s with free := u.free, ctl := u.ctl, ctrs := u.ctrs, tiles := u.tiles, mem := u.mem } ∧
      u.op t slot = none ∧ u.ctrs = (s.sendSignals o.desc).1.ctrs ∧
      u.readBytes (s.recAddr t o.queue) 32 = recordBytes (infoCode p.info) o.queue slot n p.detail p ∧
      (∀ x, x < s.recAddr t o.queue ∨ s.recAddr t o.queue + 32 ≤ x → u.readByte x = s.readByte x) ∧
      u.get .opqRecPtrWptr t o.queue = (s.get .opqRecPtrWptr t o.queue + 1) % 2 ^ 32) ∧
  (∀ (s0 : State) (t slot : Nat) (e : Ecc) (o : Op), t < 64 → o.queue < 16 → let s := s0.corrected e.ce
    s.preempted t = false → s.op t slot = some o → o.phase = .done → s.awaits t slot = false →
    dBits o.desc 1 2 2 = 1 → s.recOk e.ue t o.queue = false → (s.tile t).halt o.queue = none → s.get .opqCfgHaltSignal t o.queue = 0 →
    ∃ u, exec (.opComplete t slot e) s0 = .next u ∧ u = { s with ctl := u.ctl, tiles := u.tiles } ∧ u.op t slot = none ∧
      (u.tile t).halt o.queue = some (.failure o.desc) ∧ u.get .opqStateHaltCode t o.queue = Code.opqRecordLost ∧
      u.get .opqStateHaltSeq t o.queue = o.seq % 2 ^ 32) ∧
  (∀ (s0 : State) (t slot code detail : Nat) (e : Ecc) (o : Op), t < 64 → o.queue < 16 → let s := s0.corrected e.ce
    s.preempted t = false → s.op t slot = some o → o.phase = .failed code detail →
    (code = Code.ctxStaleGen → s.awaits t slot = false) → (s.tile t).halt o.queue = none → s.get .opqCfgHaltSignal t o.queue = 0 →
    ∃ u, exec (.opComplete t slot e) s0 = .next u ∧
      u = { s with free := u.free, ctl := u.ctl, tiles := u.tiles, mem := u.mem, requests := u.requests } ∧ u.op t slot = none ∧
      (u.tile t).halt o.queue = some (.failure o.desc) ∧ u.get .opqStateHaltCode t o.queue = code % 2 ^ 16 ∧
      (s.recOk e.ue t o.queue = true → u.readNat (s.recAddr t o.queue) 2 = code % 2 ^ 16)) ∧
  (∀ (s0 : State) (t slot : Nat) (e : Ecc), let s := s0.corrected e.ce
    s.preempted t = true ∨ (s.awaits t slot = true ∧ (s.op t slot).map Op.phase = some .done) →
    exec (.opComplete t slot e) s0 = .next s)

/-- RESUME, SKIP and SKIP_SIGNAL continue a halted queue as Table 8.3 says, FLUSH empties a queue in any state but OFF, and a command on a queue that is not halted or is pre-empted is refused. 08_operations_and_sync.md R233; 08_operations_and_sync.md R234. -/
def Obligations.QueueCommands : Prop :=
  (∀ (s : State) (t q slot : Nat) (o : Op), s.domainOn (domTile t) = true → s.preempted t = false → (s.tile t).halt q = some (.refusal slot) →
    s.op t slot = some o →
    (∃ u, exec (.opqResume t q) s = .next u ∧ u = { s with ctl := u.ctl, tiles := u.tiles } ∧ u.op t slot = none ∧ (u.tile t).halt q = none ∧
      u.get .opqPosFetched t q = o.seq % 2 ^ 32 ∧ (∀ k, k ≠ slot → u.op t k = s.op t k) ∧ ∀ x, x ≠ Fld.opqPosFetched.addr t q → u.word x = s.word x) ∧
    (∃ u, exec (.opqSkip t q) s = .next u ∧ u = { s with ctl := u.ctl, tiles := u.tiles } ∧ u.op t slot = none ∧ (u.tile t).halt q = none ∧
      u.get .opqPosIssued t q = (s.get .opqPosIssued t q + 1) % 2 ^ 32 ∧ (∀ k, k ≠ slot → u.op t k = s.op t k) ∧
      ∀ x, x ≠ Fld.opqPosIssued.addr t q → u.word x = s.word x) ∧
    (t < 64 → q < 16 → ∃ u, exec (.opqSkipSignal t q) s = .next u ∧ u = { s with ctl := u.ctl, tiles := u.tiles, ctrs := u.ctrs } ∧ u.op t slot = none ∧
      (u.tile t).halt q = none ∧ u.get .opqPosIssued t q = (s.get .opqPosIssued t q + 1) % 2 ^ 32 ∧ u.ctrs = (s.sendSignals o.desc).1.ctrs)) ∧
  (∀ (s : State) (t q : Nat) (d : BitVec 512), s.domainOn (domTile t) = true → s.preempted t = false → (s.tile t).halt q = some (.failure d) →
    exec (.opqResume t q) s = .next (s.setTile t ((s.tile t).setHalt q none)) ∧ exec (.opqSkip t q) s = .next (s.setTile t ((s.tile t).setHalt q none)) ∧
    ∃ u, exec (.opqSkipSignal t q) s = .next u ∧ (u.tile t).halt q = none ∧ u.ctrs = (s.sendSignals d).1.ctrs) ∧
  (∀ (s : State) (t q : Nat), q < 16 → s.domainOn (domTile t) = true → s.get .opqCfgSizeLog2 t q ≠ 0 →
    ∃ u, exec (.opqFlush t q) s = .next u ∧ u = { s with ctl := u.ctl, tiles := u.tiles } ∧ (u.tile t).halt q = none ∧
      u.get .opqPosFetched t q = s.get .opqTailTail t q ∧ u.get .opqPosIssued t q = s.get .opqTailTail t q ∧
      (∀ k o, u.op t k = some o → o.queue ≠ q ∨ o.hasLeft = true) ∧
      (∀ k o, s.op t k = some o → o.queue ≠ q ∨ o.hasLeft = true → u.op t k = some o) ∧ ∀ p, p ≠ q → (u.tile t).halt p = (s.tile t).halt p) ∧
  (∀ c ∈ ([.opqResume, .opqSkip, .opqSkipSignal] : List (Nat → Nat → Instr)), ∀ (s : State) (t q : Nat), q < 16 → s.domainOn (domTile t) = true →
    (s.preempted t = true ∨ (s.tile t).halt q = none) →
    ∃ u, exec (c t q) s = .next u ∧ u = { s with ctl := u.ctl } ∧ u.get .opqPushErrQueue t = q ∧
      u.get .opqPushErrCode t = (if s.preempted t = true then Code.opqPreempted else Code.opqNotHalted) ∧
      ∀ x, x ≠ Fld.opqPushErrCode.addr t 0 → u.word x = s.word x)

/-- Pre-emption discards what has not left, stops the cores, poisons the tile's counters and reports DONE when its units have stopped; RELEASE ends it. 08_operations_and_sync.md R234; 08_operations_and_sync.md R249. -/
def Obligations.PreemptionOfATile : Prop :=
  (∀ (s : State) (t : Nat), t < 64 → s.domainOn (domTile t) = true → s.preempted t = false →
    ∃ u, exec (.opqPreemptGo t) s = .next u ∧
      u = { s with ctl := u.ctl, tiles := u.tiles, cores := u.cores, dies := u.dies, buckets := u.buckets, ctrs := u.ctrs } ∧
      (u.tile t).preempt = .running ∧ (∀ x, x ≠ t → u.tile x = s.tile x) ∧
      (∀ q < 16, u.get .opqPosFetched t q = s.get .opqTailTail t q ∧ u.get .opqPosIssued t q = s.get .opqTailTail t q ∧
        u.get .opqStateHaltCode t q = Code.opqPreempted ∧ (u.tile t).halt q = none) ∧
      (∀ k o, u.op t k = some o → o.queue < 16 → o.hasLeft = true) ∧ (∀ c < 8, (u.core t c).state = .idle) ∧
      (∀ i < s.get .capQueuesTileSync, (u.ctr (t * 256 + i)).poison = true ∧ (u.ctr (t * 256 + i)).value = 0) ∧
      ∀ id, id / 256 ≠ t → u.ctr id = s.ctr id) ∧
  (∀ (s : State) (t : Nat), s.domainOn (domTile t) = true → s.preempted t = true → exec (.opqPreemptGo t) s = .next s) ∧
  (∀ (s : State) (t : Nat), (s.tile t).preempt = .running → s.unitsStopped t = true →
    ∃ u, exec (.opqPreemptDone t) s = .next u ∧ u = { s with ctl := u.ctl, tiles := u.tiles } ∧ (u.tile t).preempt = .preempted ∧
      (∀ k, u.op t k = none) ∧ u.get .opqPreemptDone t = 1 ∧ ∀ x, x ≠ Fld.opqPreemptDone.addr t 0 → u.word x = s.word x) ∧
  (∀ (s : State) (t : Nat), s.domainOn (domTile t) = true → (s.tile t).preempt = .preempted →
    ∃ u, exec (.opqPreemptRelease t) s = .next u ∧ u = { s with ctl := u.ctl, tiles := u.tiles } ∧ u.tile t = { s.tile t with preempt := .none } ∧
      u.get .opqPreemptDone t = 0 ∧ ∀ x, x ≠ Fld.opqPreemptDone.addr t 0 → u.word x = s.word x)

/-- A signal that arrives adds to its counter with saturation, is dropped and counted on POISON or at a tile that is off, and in one clock increments come before decrements; writes, rearming and waking act on the counter and the waiter they name. 08_operations_and_sync.md R237; 08_operations_and_sync.md R238; 08_operations_and_sync.md R243; 08_operations_and_sync.md R248; 08_operations_and_sync.md R249; 08_operations_and_sync.md R250; 08_operations_and_sync.md R252; 08_operations_and_sync.md R240; 08_operations_and_sync.md R464. -/
def Obligations.SignalsReachCounters : Prop :=
  (∀ (s : State) (id src : Nat) (delta : Int) (before rest : List Signal), s.transit = before ++ ⟨id, delta, src⟩ :: rest →
    (∀ x ∈ before, x.id ≠ id) → s.idOff id = false → (s.ctr id).poison = false → (s.ctr id).value ≤ 0xFFFF →
    ∃ u, exec (.signalArrive id 1) s = .next u ∧ u = { s with ctl := u.ctl, ctrs := u.ctrs, transit := before ++ rest } ∧
      ((u.ctr id).value : Int) = max 0 (min 0xFFFF ((s.ctr id).value + delta)) ∧
      (u.ctr id).ovf = ((s.ctr id).ovf || decide (0xFFFF < ((s.ctr id).value : Int) + delta)) ∧
      (u.ctr id).unf = ((s.ctr id).unf || decide (((s.ctr id).value : Int) + delta < 0)) ∧ ∀ x, x ≠ id → u.ctr x = s.ctr x) ∧
  (∀ (s : State) (id src : Nat) (delta : Int) (before rest : List Signal), s.transit = before ++ ⟨id, delta, src⟩ :: rest →
    (∀ x ∈ before, x.id ≠ id) → delta ≠ 0 → s.idOff id = true ∨ (s.ctr id).poison = true →
    let a := Fld.syncDropped.addr (if s.idOff id then 64 else id / 256) 0
    ∃ u, exec (.signalArrive id 1) s = .next u ∧ u = { s with ctl := u.ctl, transit := before ++ rest } ∧
      u.word a = bumpWord (s.word a) 1 ∧ ∀ x, x ≠ a → u.word x = s.word x) ∧
  (∀ (s : State) (id n : Nat), ∃ u, exec (.signalArrive id n) s = .next u ∧
    u = { s with ctl := u.ctl, ctrs := u.ctrs, transit := (takeSignals id n s.transit).2 } ∧ ∀ x, x ≠ id → u.ctr x = s.ctr x) ∧
  (∀ (s : State) (id a b : Nat), s.transit = [⟨id, -1, a⟩, ⟨id, 1, b⟩] → s.idOff id = false → s.ctr id = {} →
    exec (.signalArrive id 2) s = .next { s with transit := [], ctrs := smDel id s.ctrs }) ∧
  (∀ (s : State) (unit i : Nat) (v : W64), (unit < 64 → s.domainOn (domTile unit) = true) → i < s.ctrCount unit →
    ∃ u, exec (.syncCtrValueWrite unit i v) s = .next u ∧ u = { s with ctrs := u.ctrs } ∧
      let c := u.ctr (unit * 256 + i)
      c.value = fieldOf v 15 0 ∧ c.remoteOk = (fieldOf v 30 30 == 1) ∧ c.poison = (s.ctr (unit * 256 + i)).poison ∧
      c.misuse = ((s.ctr (unit * 256 + i)).misuse && fieldOf v 29 29 == 0) ∧ c.unf = ((s.ctr (unit * 256 + i)).unf && fieldOf v 28 28 == 0) ∧
      c.ovf = ((s.ctr (unit * 256 + i)).ovf && fieldOf v 27 27 == 0) ∧
      ∀ x, x ≠ unit * 256 + i → u.ctr x = s.ctr x) ∧
  (∀ (s : State) (unit : Nat) (w : W64), (unit < 64 → s.domainOn (domTile unit) = true) →
    ∃ u, exec (.syncRearm unit w) s = .next u ∧ u = { s with ctrs := u.ctrs } ∧
      ∀ i < s.ctrCount unit, u.ctr (unit * 256 + i) = (if fieldOf w 8 8 = 1 ∨ i = fieldOf w 7 0
        then { s.ctr (unit * 256 + i) with value := fieldOf w 31 16, poison := false } else s.ctr (unit * 256 + i))) ∧
  (∀ (s0 : State) (t c id th rd : Nat) (w : Waiter) (e : Ecc), w = .core t c ∨ (t = 64 ∧ w = .service c) → let s := s0.corrected e.ce
    (s.core t c).state = .waiting id th rd →
    (s.wait id th = .met → exec (.waiterWake w e) s0 = .next (s.setCore t c { (s.core t c).setX rd 0 with state := .running })) ∧
    (s.wait id th = .poisoned →
      exec (.waiterWake w e) s0 = .next (s.setCore t c { (s.core t c).setX rd (BitVec.ofNat 64 Code.syncPoison) with state := .running })) ∧
    (s.wait id th = .unmet → exec (.waiterWake w e) s0 = .next s)) ∧
  (∀ (s0 : State) (t q slot : Nat) (o : Op) (e : Ecc), t < 64 → q < 16 → let s := s0.corrected e.ce
    (s.tile t).head q = some (slot, o) → s.op t slot = some o → o.queue = q → s.halted t q = false → o.phase = .ready →
    ((s.waits o.desc).1 = .poisoned →
      ∃ u, exec (.waiterWake (.queue t q) e) s0 = .next u ∧ u.op t slot = none ∧ (u.tile t).halt q = some (.failure o.desc) ∧
        u.get .opqStateHaltCode t q = Code.syncPoison ∧ u.get .opqPosIssued t q = (s.get .opqPosIssued t q + 1) % 2 ^ 32) ∧
    ((s.waits o.desc).1 ≠ .poisoned → exec (.waiterWake (.queue t q) e) s0 = .next s))

/-- SYNC NOP, SYNC SET and FENCE consume their waits and are done; SET writes its counter or fails on POISON; a FENCE leaves only when earlier operations of its masked queues have completed. 08_operations_and_sync.md R230; 08_operations_and_sync.md R237; 08_operations_and_sync.md R245; 08_operations_and_sync.md R247. -/
def Obligations.SyncUnitOperations : Prop :=
  (∀ (s : State) (t q slot : Nat) (o : Op), s.taking t q .sync [6] = some (slot, o) → (syncBody o.desc).op = 0 →
    ∃ u p, exec (.syncNop t q) s = .next u ∧ u = { s with free := u.free, ctl := u.ctl, ctrs := u.ctrs, tiles := u.tiles } ∧
      u.op t slot = some p ∧ p.phase = .done ∧ p.desc = o.desc ∧ u.ctrs = (s.consumeWaits o.desc).ctrs ∧
      u.get .opqPosIssued t q = (s.get .opqPosIssued t q + 1) % 2 ^ 32) ∧
  (∀ (s : State) (t q slot : Nat) (o : Op), s.taking t q .sync [6] = some (slot, o) → (syncBody o.desc).op = 1 →
    let id := (syncBody o.desc).target
    ((s.consumeWaits o.desc).ctr id).poison = false →
    ∃ u p, exec (.syncSet t q) s = .next u ∧ u = { s with free := u.free, ctl := u.ctl, ctrs := u.ctrs, tiles := u.tiles } ∧
      u.op t slot = some p ∧ p.phase = .done ∧ u.ctr id = { (s.consumeWaits o.desc).ctr id with value := (syncBody o.desc).value } ∧
      ∀ x, x ≠ id → u.ctr x = (s.consumeWaits o.desc).ctr x) ∧
  (∀ (s : State) (t q slot : Nat) (o : Op), s.taking t q .sync [6] = some (slot, o) → (syncBody o.desc).op = 1 →
    let id := (syncBody o.desc).target
    ((s.consumeWaits o.desc).ctr id).poison = true →
    ∃ u p, exec (.syncSet t q) s = .next u ∧ u.op t slot = some p ∧ p.phase = .failed Code.syncPoison (id + 2 * 2 ^ 16 + 0xFFFF * 2 ^ 32) ∧
      u.ctrs = (s.consumeWaits o.desc).ctrs) ∧
  (∀ (s : State) (t q slot : Nat) (o : Op), s.taking t q .sync [7] = some (slot, o) →
    ∃ u p, exec (.fence t q) s = .next u ∧ u = { s with free := u.free, ctl := u.ctl, ctrs := u.ctrs, tiles := u.tiles } ∧
      u.op t slot = some p ∧ p.phase = .done ∧ u.ctrs = (s.consumeWaits o.desc).ctrs ∧
      u.get .opqPosIssued t q = (s.get .opqPosIssued t q + 1) % 2 ^ 32) ∧
  (∀ (s : State) (t q slot k : Nat) (o p : Op), (s.tile t).head q = some (slot, o) → dField o.desc 0 1 = 7 → (k, p) ∈ (s.tile t).ops →
    dField o.desc 24 2 / 2 ^ p.queue % 2 = 1 → p.order < o.order → exec (.fence t q) s = .next s)

/-- A context command that no check refuses is captured until its edge (QUERY is answered at once); at the edge OPEN installs the entry and RETIRE advances GEN and begins the drain; a refused one sets its code alone. 09_memory_and_transfers.md R259; 09_memory_and_transfers.md R260; 09_memory_and_transfers.md R261; 09_memory_and_transfers.md R255. -/
def Obligations.ContextCommands : Prop :=
  (∀ (s : State) (i : Nat) (w : W64), s.domainOn (domPress i) = true →
    (s.ctxRefusal i 1 = none → ∃ u, exec (.ctxOpen i w) s = .next u ∧ u = { s with ctl := u.ctl, ctxCmds := u.ctxCmds } ∧
      u.ctxCmd i = some (s.ctxCapture i 1 w) ∧ (∀ x, x ≠ i → u.ctxCmd x = s.ctxCmd x) ∧ u.get .xferCtxStatusCode i = 0) ∧
    (s.ctxRefusal i 2 = none → ∃ u, exec (.ctxRetire i w) s = .next u ∧ u = { s with ctl := u.ctl, ctxCmds := u.ctxCmds } ∧
      u.ctxCmd i = some (s.ctxCapture i 2 w) ∧ (∀ x, x ≠ i → u.ctxCmd x = s.ctxCmd x) ∧ u.get .xferCtxStatusCode i = 0) ∧
    (s.ctxRefusal i 3 = none → (s.ctx (s.get .xferCtxSelIndex i)).windows.length = 4 →
      ∃ u, exec (.ctxQuery i w) s = .next u ∧ u = { s with ctl := u.ctl } ∧
      u.entryImage i = entryWords (s.ctx (s.get .xferCtxSelIndex i)) ∧ u.get .xferCtxStatusCode i = 0) ∧
    (∃ u, exec (.xferProbe i w) s = .next u ∧ u = { s with ctl := u.ctl } ∧ u.get .xferProbeAddress i = fieldOf w 47 0 ∧
      ∀ x, x ≠ Fld.xferProbeAddress.addr i 0 → u.word x = s.word x)) ∧
  (∀ e ∈ ([(.ctxOpen, 1), (.ctxRetire, 2), (.ctxQuery, 3)] : List ((Nat → W64 → Instr) × Nat)), ∀ (s : State) (i code : Nat) (w : W64),
    s.domainOn (domPress i) = true → s.ctxRefusal i e.2 = some code →
    ∃ u, exec (e.1 i w) s = .next u ∧ u = { s with ctl := u.ctl } ∧ u.get .xferCtxStatusCode i = code % 2 ^ 16 ∧
      u.get .xferCtxStatusState i = (s.ctx (s.get .xferCtxSelIndex i)).state.num ∧
      ∀ x, x ≠ Fld.xferCtxStatusCode.addr i 0 → u.word x = s.word x) ∧
  (∀ (s : State) (i : Nat) (c : CtxCmd), s.ctxCmd i = some c → c.retire = false →
    ∃ u, exec (.ctxEdge i) s = .next u ∧ u = { s with ctl := u.ctl, ctxCmds := u.ctxCmds, ctxs := u.ctxs } ∧ u.ctxCmd i = none ∧
      u.ctx c.index = { state := .open, gen := c.gen, flags := c.flags, job := c.job, drops := 0, windows := c.windows } ∧
      (∀ x, x ≠ c.index → u.ctx x = s.ctx x) ∧ u.get .xferCtxStatusState i = 1) ∧
  (∀ (s : State) (i : Nat) (c : CtxCmd), s.ctxCmd i = some c → c.retire = true →
    ∃ u, exec (.ctxEdge i) s = .next u ∧ u.ctxCmd i = none ∧
      u.ctx c.index = { s.ctx c.index with gen := ((s.ctx c.index).gen + 1) % 256, state := .draining, signal := c.signal } ∧
      (∀ x, x ≠ c.index → u.ctx x = s.ctx x) ∧ u.requests = s.requests ∧
      ∀ t k o, (t, k, o) ∈ s.allOps → s.op t k = some o → dKind o.desc = 4 → dCtx o.desc = c.index → (o.phase = .running ∨ o.phase = .done) →
        (u.op t k).map Op.phase = some (.failed Code.ctxStaleGen
          (c.index + (s.ctx c.index).gen * 2 ^ 16 + ((s.ctx c.index).gen + 1) % 256 * 2 ^ 24))) ∧
  (∀ (s : State) (i : Nat) (w : W64), s.domainOn (domPress i) = false → ∀ c ∈ [Instr.ctxOpen i w, .ctxRetire i w, .ctxQuery i w, .xferProbe i w],
    ∃ u, exec c s = .next u ∧ u = { s with ctl := u.ctl } ∧ u.get .blendCtlErrCode = Code.ctlDomainOff ∧
      ∀ x, x ≠ Fld.blendCtlErrCode.addr 0 0 → u.word x = s.word x)

/-- A draining context enters quarantine once nothing of it is left or DRAIN_US passes, and is free when quarantine ends. 09_memory_and_transfers.md R261; 09_memory_and_transfers.md R262; 09_memory_and_transfers.md R270. -/
def Obligations.ContextTeardown : Prop :=
  (∀ (s : State) (c : Nat), (s.ctx c).state = .draining →
    (s.ctxIdle c = true → exec (.ctxDrained c) s = .next (s.setCtx c { s.ctx c with state := .quarantine })) ∧
    (s.ctxIdle c = false → exec (.ctxDrained c) s = .next s)) ∧
  (∀ (s : State) (c : Nat), (s.ctx c).state = .draining →
    ∃ u, exec (.ctxDrainTimeout c) s = .next u ∧
      u = { s with ctxs := u.ctxs, requests := s.requests.filter (fun r => r.ctx != c),
                   abandoned := s.abandoned ++ (s.requests.filter (fun r => r.ctx == c)).map (fun r => (r.tag, false)), tiles := u.tiles } ∧
      u.ctx c = { s.ctx c with state := .quarantine } ∧ (∀ x, x ≠ c → u.ctx x = s.ctx x) ∧
      (∀ r ∈ s.requests, r.ctx = c → ∀ o, s.op r.tile r.slot = some o → o.phase = .running →
        ∃ x ∈ s.requests, x.ctx = c ∧ x.tile = r.tile ∧ x.slot = r.slot ∧ (u.op r.tile r.slot).map Op.phase = some (.failed x.lost.1 x.lost.2)) ∧
      ∀ t k, (∀ r ∈ s.requests, r.ctx = c → r.tile = t → r.slot ≠ k) → u.op t k = s.op t k) ∧
  (∀ (s : State) (c : Nat), (s.ctx c).state = .quarantine →
    ∃ u, exec (.ctxQuarantineEnd c) s = .next u ∧ u = { s with ctl := u.ctl, ctxs := u.ctxs, ctrs := u.ctrs } ∧
      u.ctx c = { s.ctx c with state := .free, signal := none } ∧ (∀ x, x ≠ c → u.ctx x = s.ctx x) ∧
      u.word (Fld.xferTeardowns.addr (c % 4) 0) = bumpWord (s.word (Fld.xferTeardowns.addr (c % 4) 0)) 1 ∧
      ((s.ctx c).signal = none → u.ctrs = s.ctrs) ∧ ∀ n, (s.ctx c).signal = some n → u.ctrs = (s.signalTo (64 * 256 + n) 1).1.ctrs)

/-- A DMA copies its rows on this module, or sends a request to its peer for each part; an operand that cannot be accessed, or a context retired under it, fails it; a REMOTE_ADD sends a SYNC_ADD. 09_memory_and_transfers.md R261; 09_memory_and_transfers.md R264; 09_memory_and_transfers.md R266; 09_memory_and_transfers.md R258; 08_operations_and_sync.md R246; 08_operations_and_sync.md R230. -/
def Obligations.DmaAndRemoteAdd : Prop :=
  (∀ (s0 : State) (t q slot : Nat) (e : Ecc) (o : Op), let s := s0.corrected e.ce
    s.taking t q .dma [4] = some (slot, o) →
    let b := dmaBody o.desc
    let src := fun r => b.src + r * b.srcStride
    let dst := fun r => b.dst + r * b.dstStride
    let parts := (List.range b.rows).flatMap fun r => rowRequests (dst r) b.len
    let sent := fun (x : Req) => (x.kind, x.tile, x.slot, x.dest, x.link, x.len)
    (b.isNoop = true → ∃ u, exec (.dma t q e) s0 = .next u ∧ u = { s with free := u.free, ctl := u.ctl, ctrs := u.ctrs, tiles := u.tiles } ∧
      s.HasLeft u t q slot o ∧ (u.op t slot).map Op.phase = some .done) ∧
    (b.isNoop = false → ∀ f, s.staleAt o.desc = some f → ∃ u, exec (.dma t q e) s0 = .next u ∧
      u = { s with free := u.free, ctl := u.ctl, ctrs := u.ctrs, tiles := u.tiles } ∧ s.HasLeft u t q slot o ∧
      (u.op t slot).map Op.phase = some (.failed f.1 f.2)) ∧
    (b.isNoop = false → s.staleAt o.desc = none → b.srcDev = 0xFFFF → b.dstDev = 0xFFFF →
      (∀ r < b.rows, s.accessErr e.ue (src r) b.len false = none ∧ s.accessErr [] (dst r) b.len true = none) →
      ∃ u, exec (.dma t q e) s0 = .next u ∧ u = { s with free := u.free, ctl := u.ctl, ctrs := u.ctrs, tiles := u.tiles, mem := u.mem } ∧
        s.HasLeft u t q slot o ∧ (u.op t slot).map Op.phase = some .done ∧
        (∀ x, (∀ r < b.rows, x < dst r ∨ dst r + b.len ≤ x) → u.readByte x = s.readByte x) ∧
        ((b.rows = 1 ∨ b.len ≤ b.dstStride ∧ ∀ i < b.rows, ∀ j < b.rows, src i + b.len ≤ dst j ∨ dst j + b.len ≤ src i) →
          ∀ r < b.rows, u.readBytes (dst r) b.len = s.readBytes (src r) b.len)) ∧
    (b.isNoop = false → s.staleAt o.desc = none → b.srcDev = 0xFFFF → b.dstDev = 0xFFFF →
      ∀ err, ((s.accessErr e.ue b.src b.len false).orElse fun _ => s.accessErr [] b.dst b.len true) = some err →
      ∃ u, exec (.dma t q e) s0 = .next u ∧ s.HasLeft u t q slot o ∧ (u.op t slot).map Op.phase = some (.failed err.code.1 err.code.2) ∧ u.mem = s.mem) ∧
    (b.isNoop = false → s.staleAt o.desc = none → b.dstDev ≠ 0xFFFF →
      (∀ r < b.rows, ∀ p ∈ rowRequests (dst r) b.len, s.accessErr e.ue (src r + p.1) p.2 false = none) → ∀ l, s.egress b.dstDev = some l →
      ∃ u, exec (.dma t q e) s0 = .next u ∧ u.mem = s.mem ∧ s.HasLeft u t q slot o ∧ (u.op t slot).map Op.phase = some .done ∧
        u.requests.map sent = s.requests.map sent ++ parts.map (fun p => (.write, t, slot, b.dstDev, l, p.2)) ∧
        (b.rows = 1 → b.len ≠ 0 → b.dst % 4096 + b.len ≤ 4096 →
          u.requests = s.requests ++ [⟨s.nextTag, .write, t, slot, dCtx o.desc, dGen o.desc, b.dstDev, l, 0, b.len⟩] ∧
          s.Queues u l { dest := b.dstDev, src := s.deviceId, cls := dClass o.desc, type := msgWrite, ctx := dCtx o.desc, gen := dGen o.desc,
                         payload := requestPayload b.dst s.nextTag b.len (s.readBytes b.src b.len) })) ∧
    (b.isNoop = false → s.staleAt o.desc = none → b.srcDev ≠ 0xFFFF → b.dstDev = 0xFFFF → ∀ l, s.egress b.srcDev = some l →
      ∃ u, exec (.dma t q e) s0 = .next u ∧ u.mem = s.mem ∧ s.HasLeft u t q slot o ∧ (u.op t slot).map Op.phase = some .done ∧
        u.requests.map sent = s.requests.map sent ++ parts.map (fun p => (.read, t, slot, b.srcDev, l, p.2)) ∧
        (b.rows = 1 → b.len ≠ 0 → b.dst % 4096 + b.len ≤ 4096 →
          u.requests = s.requests ++ [⟨s.nextTag, .read, t, slot, dCtx o.desc, dGen o.desc, b.srcDev, l, b.dst, b.len⟩] ∧
          s.Queues u l { dest := b.srcDev, src := s.deviceId, cls := dClass o.desc, type := msgRead, ctx := dCtx o.desc, gen := dGen o.desc,
                         payload := requestPayload b.src s.nextTag b.len [] }))) ∧
  (∀ (s : State) (t q slot : Nat) (o : Op), s.taking t q .sync [6] = some (slot, o) → (syncBody o.desc).op = 2 →
    let b := syncBody o.desc
    (b.value = 0 → ∃ u, exec (.remoteAdd t q) s = .next u ∧ u = { s with free := u.free, ctl := u.ctl, ctrs := u.ctrs, tiles := u.tiles } ∧
      s.HasLeft u t q slot o ∧ (u.op t slot).map Op.phase = some .done) ∧
    (b.value ≠ 0 → ∀ e, s.egress b.device = some e → ∃ u, exec (.remoteAdd t q) s = .next u ∧ s.HasLeft u t q slot o ∧
      (u.op t slot).map Op.phase = some .running ∧ u.mem = s.mem ∧
      u.requests = s.requests ++ [⟨s.nextTag, .syncAdd, t, slot, dCtx o.desc, dGen o.desc, b.device, e, b.target, 0⟩] ∧
      s.Queues u e { dest := b.device, src := s.deviceId, cls := dClass o.desc, type := msgSyncAdd, ctx := dCtx o.desc, gen := dGen o.desc,
                     payload := leBytes 4 s.nextTag ++ leBytes 2 b.target ++ leBytes 2 b.value ++ leBytes 8 0 }) ∧
    (b.value ≠ 0 → s.egress b.device = none → ∃ u, exec (.remoteAdd t q) s = .next u ∧ u.requests = s.requests ∧ u.links = s.links ∧
      (u.op t slot).map Op.phase = some (.failed Code.syncRemoteLost (b.device * 2 ^ 32 + s.routeLink b.device * 2 ^ 48))))

/-- A peer's WRITE, READ and SYNC_ADD that pass the checks act and are answered with code 0; one that fails a check acts on nothing and is answered with the code. 09_memory_and_transfers.md R262; 09_memory_and_transfers.md R268; 09_memory_and_transfers.md R269; 10_fepra_links.md R279; 08_operations_and_sync.md R246; 08_operations_and_sync.md R248. -/
def Obligations.PeersRequests : Prop :=
  (∀ (s0 s1 : State) (l : Nat) (e : Ecc) (m : Msg), let s := s0.corrected e.ce
    s.takeDelivered l msgWrite = some (m, s1) →
    let data := (m.payload.drop 16).take (m.num 12 4)
    (s1.remoteRefusal e.ue m (m.num 0 8) (m.num 12 4) true = none →
      ∃ u, exec (.write l e) s0 = .next u ∧ u = { s1 with mem := u.mem, links := u.links, delivered := u.delivered } ∧
        u.readBytes (m.num 0 8) data.length = data ∧
        (∀ x, x < m.num 0 8 ∨ m.num 0 8 + data.length ≤ x → u.readByte x = s.readByte x) ∧ s1.Answers u l m (m.num 8 4) 0 []) ∧
    (∀ code, l < 96 → s1.remoteRefusal e.ue m (m.num 0 8) (m.num 12 4) true = some code →
      ∃ u, exec (.write l e) s0 = .next u ∧ u = { s1 with ctl := u.ctl, ctxs := u.ctxs, links := u.links, delivered := u.delivered } ∧
        s1.Answers u l m (m.num 8 4) code [] ∧
        u.word (Fld.xferNacksSent.addr (l / 24) 0) = bumpWord (s.word (Fld.xferNacksSent.addr (l / 24) 0)) 1)) ∧
  (∀ (s0 s1 : State) (l : Nat) (e : Ecc) (m : Msg), let s := s0.corrected e.ce
    s.takeDelivered l msgRead = some (m, s1) →
    (s1.remoteRefusal e.ue m (m.num 0 8) (m.num 12 4) false = none →
      ∃ u, exec (.read l e) s0 = .next u ∧ u = { s1 with links := u.links, delivered := u.delivered } ∧
        s1.Answers u l m (m.num 8 4) 0 (s.readBytes (m.num 0 8) (m.num 12 4))) ∧
    (∀ code, l < 96 → s1.remoteRefusal e.ue m (m.num 0 8) (m.num 12 4) false = some code →
      ∃ u, exec (.read l e) s0 = .next u ∧ u = { s1 with ctl := u.ctl, ctxs := u.ctxs, links := u.links, delivered := u.delivered } ∧
        s1.Answers u l m (m.num 8 4) code [])) ∧
  (∀ (s s1 : State) (l : Nat) (m : Msg), s.takeDelivered l msgSyncAdd = some (m, s1) →
    let id := m.num 4 2
    let refused := fun (code : Nat) => ∃ u, exec (.syncAdd l) s = .next u ∧
      u = { s1 with ctl := u.ctl, ctxs := u.ctxs, links := u.links, delivered := u.delivered } ∧ s1.Answers u l m (m.num 0 4) code []
    (∀ code, s1.arrivalFault m.ctx m.gen = some code → refused code) ∧
    (s1.arrivalFault m.ctx m.gen = none → s1.idValid id = false ∨ s1.idOff id = true → refused Code.syncRemoteRefused) ∧
    (s1.arrivalFault m.ctx m.gen = none → s1.idValid id = true → s1.idOff id = false → (s1.ctr id).poison = true → refused Code.syncPoison)) ∧
  (∀ (s s1 : State) (l : Nat) (m : Msg), s.takeDelivered l msgSyncAdd = some (m, s1) → s1.arrivalFault m.ctx m.gen = none →
    let id := m.num 4 2
    s1.idValid id = true → s1.idOff id = false → (s1.ctr id).poison = false →
    ((s1.ctr id).remoteOk = true → ∃ u, exec (.syncAdd l) s = .next u ∧
      u = { s1 with ctl := u.ctl, ctrs := u.ctrs, links := u.links, delivered := u.delivered } ∧
      u.ctrs = (s1.signalTo id (signed 16 (m.num 6 2))).1.ctrs ∧ s1.Answers u l m (m.num 0 4) 0 []) ∧
    ((s1.ctr id).remoteOk = false → ∃ u, exec (.syncAdd l) s = .next u ∧
      u = { s1 with ctl := u.ctl, ctrs := u.ctrs, links := u.links, delivered := u.delivered } ∧
      u.ctr id = { s.ctr id with misuse := true } ∧ s1.Answers u l m (m.num 0 4) Code.syncRemoteRefused []))

/-- An answer accounts for its request and delivers its data or its outcome; an answer that matches no request is dropped and counted; the patrol scrubber counts what it corrects and poisons what it cannot. 09_memory_and_transfers.md R257; 09_memory_and_transfers.md R258; 09_memory_and_transfers.md R261; 09_memory_and_transfers.md R262; 09_memory_and_transfers.md R263; 09_memory_and_transfers.md R266; 08_operations_and_sync.md R246. -/
def Obligations.AnswersArrive : Prop :=
  (∀ (s0 s1 : State) (l : Nat) (e : Ecc) (m : Msg) (r : Req), let s := s0.corrected e.ce
    s.takeDelivered l msgAnswer = some (m, s1) →
    (s1.requests.find? fun x => x.tag == m.num 0 4) = some r → s1.arrivalFault m.ctx m.gen = none →
    (r.kind = .read → r.slot ≠ noSlot → m.num 4 2 = 0 → s.accessErr e.ue r.place r.len true = none →
      let data := (m.payload.drop 16).take r.len
      ∃ u, exec (.answer l e) s0 = .next u ∧ u = { s1 with requests := s1.requests.erase r, mem := u.mem } ∧
        u.readBytes r.place data.length = data ∧ ∀ x, x < r.place ∨ r.place + data.length ≤ x → u.readByte x = s.readByte x) ∧
    (r.kind = .write → m.num 4 2 = 0 → exec (.answer l e) s0 = .next { s1 with requests := s1.requests.erase r }) ∧
    (r.kind ≠ .syncAdd → m.num 4 2 ≠ 0 → ∀ o, s.op r.tile r.slot = some o → (∀ c d, o.phase ≠ .failed c d) →
      ∃ u, exec (.answer l e) s0 = .next u ∧ u = { s1 with requests := s1.requests.erase r, ctl := u.ctl, tiles := u.tiles } ∧
        (u.op r.tile r.slot).map Op.phase = some (.failed Code.xferRemoteDropped (m.num 4 2 + m.src * 2 ^ 32))) ∧
    (r.kind = .syncAdd → m.num 4 2 = 0 → ∀ o, s.op r.tile r.slot = some o →
      ∃ u, exec (.answer l e) s0 = .next u ∧ u = { s1 with requests := s1.requests.erase r, tiles := u.tiles } ∧
        u.op r.tile r.slot = some { o with phase := .done }) ∧
    (∀ o f, r.kind = .syncAdd → addOutcome r (m.num 4 2) = some f → s.op r.tile r.slot = some o → o.phase = .running →
      ∃ u, exec (.answer l e) s0 = .next u ∧ u = { s1 with requests := s1.requests.erase r, tiles := u.tiles } ∧
        (u.op r.tile r.slot).map Op.phase = some (.failed f.1 f.2)) ∧
    (∀ o err, r.kind = .read → r.slot ≠ noSlot → m.num 4 2 = 0 → s.accessErr e.ue r.place r.len true = some err →
      s.op r.tile r.slot = some o → (∀ c d, o.phase ≠ .failed c d) →
      ∃ u, exec (.answer l e) s0 = .next u ∧ u.requests = s1.requests.erase r ∧ u.mem = s.mem ∧
        (u.op r.tile r.slot).map Op.phase = some (.failed err.code.1 err.code.2))) ∧
  (∀ (s0 s1 : State) (l : Nat) (e : Ecc) (m : Msg) (r : Req), let s := s0.corrected e.ce
    s.takeDelivered l msgAnswer = some (m, s1) → (s1.requests.find? fun x => x.tag == m.num 0 4) = some r →
    (s1.arrivalFault m.ctx m.gen).isSome = true → r.kind ≠ .syncAdd →
    ∃ u, exec (.answer l e) s0 = .next u ∧ u = { s1 with requests := s1.requests.erase r, ctl := u.ctl, ctxs := u.ctxs } ∧
      u.word (Fld.xferLateDrops.addr (l / 24) 0) = bumpWord (s.word (Fld.xferLateDrops.addr (l / 24) 0)) 1) ∧
  (∀ (s0 s1 : State) (l : Nat) (e : Ecc) (m : Msg), let s := s0.corrected e.ce
    s.takeDelivered l msgAnswer = some (m, s1) →
    (∀ r ∈ s.requests, r.tag ≠ m.num 0 4) →
    ∃ u, exec (.answer l e) s0 = .next u ∧ u = { s1 with ctl := u.ctl, ctxs := u.ctxs, abandoned := u.abandoned } ∧
      u.word (Fld.xferLateDrops.addr (l / 24) 0) = bumpWord (s.word (Fld.xferLateDrops.addr (l / 24) 0)) 1) ∧
  (∀ (s : State) (a x k : Nat), placeOf 0 (a / 64 * 64) = .stack → mapStack s.regions (a / 64 * 64) = some (x, k) → s.get .xferCtlScrub (x / 5) = 1 →
    exec (.memScrub a .clean) s = .next s ∧
    (∃ u, exec (.memScrub a .corrected) s = .next u ∧ u = { s with ctl := u.ctl } ∧
      u.word (Fld.xferMemCe.addr (x / 5) (x % 5)) = bumpWord (s.word (Fld.xferMemCe.addr (x / 5) (x % 5))) 1) ∧
    ∃ u, exec (.memScrub a .uncorrectable) s = .next u ∧ u.mem.cells = s.mem.cells ∧ u.mem.poisoned.contains (x, k) = true ∧
      u.word (Fld.xferMemUe.addr (x / 5) (x % 5)) = bumpWord (s.word (Fld.xferMemUe.addr (x / 5) (x % 5))) 1) ∧
  (∀ (s : State) (a : Nat) (o : EccOutcome), (∀ x k, mapStack s.regions (a / 64 * 64) = some (x, k) → s.get .xferCtlScrub (x / 5) = 0) →
    exec (.memScrub a o) s = .next s)

/-- A flit is accepted only in sequence and intact; an accepted one for this module is delivered with the rest of its message, one for another module goes on with one more hop by the egress of its route or of its message, and one that cannot go on is discarded, counted and, if it is a request, answered. 10_fepra_links.md R276; 10_fepra_links.md R277; 10_fepra_links.md R278; 10_fepra_links.md R280; 10_fepra_links.md R290; 10_fepra_links.md R291; 10_fepra_links.md R292. That the later flits of a message keep to the egress of its first is the model's reading (log 102). -/
def Obligations.FlitsReceived : Prop :=
  (∀ (s : State) (l : Nat) (bs : List Byte) (fec : Fec), (s.link l).state ≠ .up → exec (.flitReceive l bs fec) s = .next s) ∧
  (∀ (s : State) (l : Nat) (bs : List Byte) (fec : Fec), (s.link l).state = .up →
    let f := flitOf bs
    fec.decoded = false ∨ crcHolds 256 bs = false ∨ f.type = 0 ∨ f.seq ≠ (s.link l).rxSeq →
    ∃ u, exec (.flitReceive l bs fec) s = .next u ∧ u = { s with ctl := u.ctl, links := u.links } ∧
      u.link l = (if fec.decoded = true ∧ crcHolds 256 bs = true ∧ f.type = 0 then s.link l else { s.link l with nakWanted := true }) ∧
      (∀ x, x ≠ l → u.link x = s.link x) ∧
      u.word (Fld.flinkFecSymbols.addr l 0) = bumpWord (s.word (Fld.flinkFecSymbols.addr l 0)) fec.corrected ∧
      u.word (Fld.flinkFecUncorrectable.addr l 0) = bumpWord (s.word (Fld.flinkFecUncorrectable.addr l 0)) fec.lost ∧
      u.word (Fld.flinkCrcFails.addr l 0) =
        (if fec.decoded = true ∧ crcHolds 256 bs = false then bumpWord (s.word (Fld.flinkCrcFails.addr l 0)) 1 else s.word (Fld.flinkCrcFails.addr l 0)) ∧
      u.word (Fld.flinkRxFlits.addr l 0) = s.word (Fld.flinkRxFlits.addr l 0)) ∧
  (∀ (s : State) (l : Nat) (bs : List Byte) (fec : Fec), (s.link l).state = .up → fec.decoded = true → crcHolds 256 bs = true →
    let f := flitOf bs
    let k := s.link l
    let fs := if f.first then [f] else smGet (fun _ => []) k.partials f.cls ++ [f]
    f.type ≠ 0 → f.seq = k.rxSeq →
    (f.type < 10 → f.dest = s.deviceId →
      ∃ u, exec (.flitReceive l bs fec) s = .next u ∧
        u = { s with ctl := u.ctl, links := u.links, delivered := u.delivered, digests := u.digests } ∧
        (f.type ≠ msgReduce → u.digests = s.digests) ∧ (u.link l).rxSeq = (k.rxSeq + 1) % 65536 ∧ (u.link l).nakWanted = false ∧
        (u.link l).queues = k.queues ∧ (∀ x, x ≠ l → u.link x = s.link x) ∧
        u.word (Fld.flinkRxFlits.addr l 0) = bumpWord (s.word (Fld.flinkRxFlits.addr l 0)) 1 ∧
        (f.type = msgRack → u.delivered = s.delivered ++ ((msgOf [f]).map fun m => (l, m)).toList) ∧
        (f.type ≠ msgRack → f.first = true ∨ smGet (fun _ => []) k.partials f.cls ≠ [] →
          (u.link l).freedOf f.cls = k.freedOf f.cls + (if f.type = msgReduce then 0 else 1) ∧
          u.delivered = s.delivered ++ (if f.last then ((msgOf fs).map fun m => (l, m)).toList else []) ∧
          smGet (fun _ => []) (u.link l).partials f.cls = (if f.last then [] else fs))) ∧
    (f.type < 10 → f.dest ≠ s.deviceId → f.type ≠ msgHeartbeat → f.hops < 8 → ∀ e, s.egressFor l f = some e →
      ∃ u, exec (.flitReceive l bs fec) s = .next u ∧ u = { s with ctl := u.ctl, links := u.links, digests := u.digests } ∧
        (u.link e).queue f.cls = (s.link e).queue f.cls ++ [{ f with hops := f.hops + 1 }] ∧
        (∀ x c, x ≠ e ∨ c ≠ f.cls → (u.link x).queue c = (s.link x).queue c) ∧
        smGet (fun _ => none) (u.link l).through f.cls = (if f.last then none else some (flitKey f, e)) ∧
        u.word (Fld.flinkForwarded.addr e 0) = bumpWord (s.word (Fld.flinkForwarded.addr e 0)) 1 ∧
        (u.link l).rxSeq = (k.rxSeq + 1) % 65536 ∧ (u.link l).freedOf f.cls = k.freedOf f.cls + 1) ∧
    (f.type < 10 → f.dest ≠ s.deviceId → f.type = msgHeartbeat ∨ 8 ≤ f.hops ∨ s.egressFor l f = none →
      ∃ u, exec (.flitReceive l bs fec) s = .next u ∧
        u = { s with ctl := u.ctl, links := u.links, delivered := u.delivered, digests := u.digests } ∧
        u.word (Fld.flinkDrops.addr l 0) = bumpWord (s.word (Fld.flinkDrops.addr l 0)) 1 ∧
        (u.link l).rxSeq = (k.rxSeq + 1) % 65536 ∧ (u.link l).freedOf f.cls = k.freedOf f.cls + 1 ∧
        let ans : Msg := { dest := f.src, src := s.deviceId, cls := f.cls, type := msgAnswer, ctx := f.ctx, gen := f.gen,
                           payload := answerPayload (flitTag f) (if 8 ≤ f.hops then Code.flinkHopLimit else Code.flinkUnreachable) [] }
        (flitAnswered f = true → f.src ≠ s.deviceId → u.delivered = s.delivered ∧
          ∀ e, s.egress f.src = some e → (u.link e).queue f.cls = (s.link e).queue f.cls ++ ans.flits) ∧
        (flitAnswered f = true → f.src = s.deviceId → u.delivered = s.delivered ++ [(l, ans)]) ∧
        (flitAnswered f = false → u.delivered = s.delivered ∧ ∀ e c, (u.link e).queue c = (s.link e).queue c)) ∧
    (10 ≤ f.type → ∃ u, exec (.flitReceive l bs fec) s = .next u ∧ u = { s with ctl := u.ctl, links := u.links } ∧
      u.word (Fld.flinkDrops.addr l 0) = bumpWord (s.word (Fld.flinkDrops.addr l 0)) 1 ∧ (u.link l).rxSeq = (k.rxSeq + 1) % 65536 ∧
      (u.link l).freedOf f.cls = k.freedOf f.cls + 1 ∧ (∀ e c, (u.link e).queue c = (s.link e).queue c)))

/-- A frame carries its control word and 76 flit slots, the flits due again first and a NULL flit where nothing is sent; a control word whose CRC is right acknowledges, returns credits, and may retrain or darken the link; the bytes of a flit and of a control word spell it. 10_fepra_links.md R276; 10_fepra_links.md R277; 10_fepra_links.md R281; 10_fepra_links.md R284; 10_fepra_links.md R286; 10_fepra_links.md R287; 10_fepra_links.md R288; 10_fepra_links.md R294; 10_fepra_links.md R295; 10_fepra_links.md R296; 14_reliability_and_recovery.md R418. -/
def Obligations.FramesAndControlWords : Prop :=
  (∀ (s : State) (l : Nat), (s.link l).state = .off → exec (.frameTransmit l) s = .next s) ∧
  (∀ (s : State) (l : Nat), (s.link l).state ≠ .off → (s.link l).state ≠ .up ∨ s.blend.inForce = none →
    ∃ u, exec (.frameTransmit l) s = .next u ∧ u = { s with ctl := u.ctl, links := u.links, frames := u.frames } ∧
      u.frames = s.frames ++ [{ link := l, word := s.ctlWord l false ((s.link l).state = .retrain), flits := [] }] ∧
      u.link l = { s.link l with freed := [] } ∧ ∀ x, x ≠ l → u.link x = s.link x) ∧
  (∀ (s : State) (l : Nat) (b : Blend), (s.link l).state = .up → s.blend.inForce = some b →
    let k := s.link l
    ∃ u fs new, exec (.frameTransmit l) s = .next u ∧ u = { s with ctl := u.ctl, links := u.links, frames := u.frames, digests := u.digests } ∧
      u.frames = s.frames ++ [{ link := l, word := s.ctlWord l false false, flits := fs }] ∧ fs.length = 76 ∧
      fs.take k.resend.length = k.resend.take 76 ∧ (u.link l).replay = k.replay ++ new ∧
      new.Sublist (fs.drop k.resend.length) ∧ (∀ f ∈ fs.drop k.resend.length, f = nullFlit ∨ f ∈ new) ∧
      (u.link l).txSeq % 65536 = (k.txSeq + new.length) % 65536 ∧ (u.link l).freed = [] ∧
      (∀ c, k.credit c = 0 → (u.link l).queue c = k.queue c) ∧ (∀ x, x ≠ l → u.link x = s.link x) ∧
      (1024 ≤ k.replay.length → new = []) ∧
      (∀ f, k.resend = [] → k.replay.length < 1024 → k.rackDue = some f → k.credit 0 ≠ 0 → fs.head? = some { f with seq := k.txSeq }) ∧
      ∀ f, k.resend = [] → k.replay.length < 1024 → k.rackDue = none → s.nextClass0 (k.refill b 1) = some f →
        fs.head? = some { f with seq := k.txSeq }) ∧
  (∀ (s : State) (l : Nat) (bs : List Byte), crcHolds 64 bs = false ∨ (s.link l).state ∉ [.peerCheck, .retrain, .up] →
    exec (.controlWord l bs) s = .next s) ∧
  (∀ (s : State) (l : Nat) (bs : List Byte), crcHolds 64 bs = true → (s.link l).state = .peerCheck ∨ (s.link l).state = .retrain →
    ∃ u, exec (.controlWord l bs) s = .next u ∧ u = { s with ctl := u.ctl } ∧ u.get .flinkStatusPeerId l = (wordOf bs).senderId ∧
      u.get .flinkStatusPeerLink l = (wordOf bs).senderLink ∧ ∀ x, x ≠ Fld.flinkStatusPeerId.addr l 0 → u.word x = s.word x) ∧
  (∀ (s : State) (l : Nat) (bs : List Byte), crcHolds 64 bs = true → (s.link l).state = .up →
    let w := wordOf bs
    w.goingDark = false → w.retrainReq = false → ¬ (w.nak = true ∧ (s.link l).nakCount = 2 ∧ (s.link l).nakSeq = w.ackSeq) →
    ∃ u, exec (.controlWord l bs) s = .next u ∧ u = { s with ctl := u.ctl, links := u.links } ∧
      (u.link l).replay = (s.link l).replay.filter (fun f => !acks w.ackSeq f.seq) ∧
      (∀ c, c < 4 → (u.link l).credit c = min ((s.link l).credit c + w.credits.getD c 0) (classBuffers c)) ∧
      (w.nak = true → (u.link l).resend = (u.link l).replay) ∧
      (w.nak = false → (u.link l).nakCount = 0 ∧ (u.link l).resend = (s.link l).resend.filter (fun f => !acks w.ackSeq f.seq)) ∧
      (u.link l).queues = (s.link l).queues ∧ ∀ x, x ≠ l → u.link x = s.link x) ∧
  (∀ (s : State) (l : Nat) (bs : List Byte), crcHolds 64 bs = true → l < 96 → (s.link l).state = .up →
    let w := wordOf bs
    (w.goingDark = true → ∃ u, exec (.controlWord l bs) s = .next u ∧ s.LeavesUp u l .notPresent 1) ∧
    (w.goingDark = false → w.retrainReq = true → ∃ u, exec (.controlWord l bs) s = .next u ∧ s.LeavesUp u l .retrain 4 ∧ u.frames = s.frames) ∧
    (w.goingDark = false → w.retrainReq = false → w.nak = true → (s.link l).nakCount = 2 → (s.link l).nakSeq = w.ackSeq →
      ∃ u v, exec (.controlWord l bs) s = .next u ∧ s.LeavesUp u l .retrain 4 ∧ u.frames = s.frames ++ [{ link := l, word := v, flits := [] }] ∧
        v.retrainReq = true)) ∧
  (∀ (f : Flit), f.seq < 65536 → f.dest < 16384 → f.cls < 4 → f.src < 16384 → f.type < 16 → f.hops < 16 → f.len ≤ 240 → f.ctx < 65536 → f.gen < 256 →
    f.payload.length = f.len → flitOf (flitBytes f) = f ∧ (flitBytes f).length = 256) ∧
  (∀ (w : CtlWord), w.ackSeq < 65536 → w.senderLink < 256 → w.senderId < 16384 → w.credits.length = 4 → (∀ c ∈ w.credits, c < 65536) →
    wordOf (wordBytes w) = w ∧ (wordBytes w).length = 64)

/-- A link comes up by light, training and the peer check, and fails to by its bounds. 10_fepra_links.md R282; 10_fepra_links.md R283; 10_fepra_links.md R284; 10_fepra_links.md R285; 10_fepra_links.md R286; 10_fepra_links.md R288; 10_fepra_links.md R298. -/
def Obligations.LinksComeUp : Prop :=
  (∀ (s : State) (l : Nat),
    (¬ ((s.link l).state = .notPresent ∧ s.get .flinkCtlAuto l = 1) → exec (.lightArrive l) s = .next (s.setLink l { s.link l with light := true })) ∧
    ((s.link l).state = .notPresent → s.get .flinkCtlAuto l = 1 →
      ∃ u, exec (.lightArrive l) s = .next u ∧ u = { s with ctl := u.ctl, links := u.links } ∧
        u.link l = { s.link l with light := true, state := .train, tries := 1, checked := false } ∧ (∀ x, x ≠ l → u.link x = s.link x) ∧
        u.get .flinkStatusAttempts l = min (s.get .flinkStatusAttempts l + 1) 15)) ∧
  (∀ (s : State) (l : Nat),
    ((s.link l).state = .train → exec (.trainDone l) s = .next (s.setLink l { s.link l with state := .peerCheck, checked := false })) ∧
    ((s.link l).state = .retrain → exec (.trainDone l) s = .next (s.setLink l { s.link l with checked := true })) ∧
    ((s.link l).state ≠ .train → (s.link l).state ≠ .retrain → exec (.trainDone l) s = .next s)) ∧
  (∀ (s : State) (l : Nat), (s.link l).state = .train ∨ ((s.link l).state = .retrain ∧ (s.link l).checked = false) →
    ((s.link l).tries < s.get .flinkCtlTrainLimit l →
      ∃ u, exec (.trainTimeout l) s = .next u ∧ u = { s with ctl := u.ctl, links := u.links } ∧
        u.link l = { s.link l with tries := (s.link l).tries + 1, checked := false } ∧ ∀ x, x ≠ l → u.link x = s.link x) ∧
    (l < 96 → s.get .flinkCtlTrainLimit l ≤ (s.link l).tries →
      ∃ u, exec (.trainTimeout l) s = .next u ∧ u = { s with ctl := u.ctl, links := u.links, mem := u.mem, free := u.free, rel := u.rel } ∧
        (u.link l).state = .failed ∧ u.get .flinkStatusCode l = Code.flinkTrainFail ∧ s.Logged u Code.flinkTrainFail (unitLink l))) ∧
  (∀ (s : State) (l id pl : Nat) (ok : Bool), (s.link l).state = .peerCheck ∨ ((s.link l).state = .retrain ∧ (s.link l).checked = true) →
    ((s.peerOf l).id = id → (s.peerOf l).link = pl → ok = true →
      ∃ u, exec (.peerCheckDone l id pl ok) s = .next u ∧ u = { s with ctl := u.ctl, links := u.links } ∧ (u.link l).state = .up ∧
        (u.link l).txSeq = 0 ∧ (u.link l).rxSeq = 0 ∧ (u.link l).replay = [] ∧ (u.link l).queues = [] ∧ (∀ c, (u.link l).credit c = classBuffers c) ∧
        (u.link l).tokens = ((s.blend.inForce.map Blend.class0Depth).getD 0) * 1000 ∧ u.get .flinkStatusAttempts l = 0 ∧
        u.get .flinkStatusPeerId l = id % 2 ^ 14 ∧ ∀ x, x ≠ l → u.link x = s.link x) ∧
    (l < 96 → ((s.peerOf l).id ≠ id ∨ (s.peerOf l).link ≠ pl ∨ ok = false) →
      ∃ u, exec (.peerCheckDone l id pl ok) s = .next u ∧ u = { s with ctl := u.ctl, links := u.links, mem := u.mem, free := u.free, rel := u.rel } ∧
        (u.link l).state = .mismatch ∧ u.get .flinkStatusCode l = Code.flinkPeerMismatch ∧ s.Logged u Code.flinkPeerMismatch (unitLink l))) ∧
  (∀ (s : State) (l : Nat), s.domainOn (domPress (l / 24)) = true →
    ((s.link l).state = .mismatch ∨ (s.link l).state = .failed →
      ∃ u, exec (.linkRestart l) s = .next u ∧ u = { s with ctl := u.ctl, links := u.links } ∧
        (u.link l).state = (if (s.link l).light = true ∧ s.get .flinkCtlAuto l = 1 then .train else .notPresent)) ∧
    ((s.link l).state ≠ .mismatch → (s.link l).state ≠ .failed →
      ∃ u, exec (.linkRestart l) s = .next u ∧ u = { s with ctl := u.ctl } ∧ u.get .flinkStatusCode l = Code.flinkCmdState))

/-- A link in UP enters RETRAIN for each of the causes of R284, and goes to NOT_PRESENT when its light is lost or a control word has GOING_DARK set. 10_fepra_links.md R284. -/
def Obligations.LinksLeaveUp : Prop :=
  (∀ (s : State) (l : Nat), l < 96 → (s.link l).state = .up →
    (∃ u, exec (.lossOfLight l) s = .next u ∧ s.LeavesUp u l .notPresent 0 ∧ (u.link l).light = false ∧ u.get .flinkStatusCode l = Code.flinkLos ∧
      u.word (Fld.flinkLosEvents.addr l 0) = bumpWord (s.word (Fld.flinkLosEvents.addr l 0)) 1 ∧ (s.lostUses l = [] → s.Logged u Code.flinkLos (unitLink l))) ∧
    (∀ bs : List Byte, crcHolds 64 bs = true → (wordOf bs).goingDark = true → ∃ u, exec (.controlWord l bs) s = .next u ∧ s.LeavesUp u l .notPresent 1 ∧
      u.word (Fld.flinkLosEvents.addr l 0) = bumpWord (s.word (Fld.flinkLosEvents.addr l 0)) 1) ∧
    (∀ c : Instr, (c = .frameLockLost l ∨ (∃ n, s.get .flinkCtlUeLimit l < n ∧ c = .fecUeLimit l n) ∨ c = .flinkPeerSilent l ∨
        (s.domainOn (domPress (l / 24)) = true ∧ c = .linkRetrain l) ∨
        (∃ bs, crcHolds 64 bs = true ∧ (wordOf bs).goingDark = false ∧ (wordOf bs).retrainReq = true ∧ c = .controlWord l bs) ∨
        (∃ bs, crcHolds 64 bs = true ∧ (wordOf bs).goingDark = false ∧ (wordOf bs).retrainReq = false ∧ (wordOf bs).nak = true ∧
          (s.link l).nakCount = 2 ∧ (s.link l).nakSeq = (wordOf bs).ackSeq ∧ c = .controlWord l bs)) →
      ∃ u, exec c s = .next u ∧ s.LeavesUp u l .retrain 4 ∧ u.get .flinkStatusCode l = Code.flinkRetrain ∧ (u.link l).tries = 1 ∧
        u.word (Fld.flinkRetrains.addr l 0) = bumpWord (s.word (Fld.flinkRetrains.addr l 0)) 1 ∧
        (u.frames = s.frames ∨ ∃ v : CtlWord, v.retrainReq = true ∧ u.frames = s.frames ++ [{ link := l, word := v, flits := [] }]))) ∧
  (∀ (s : State) (l : Nat), (s.link l).state ∈ [.train, .peerCheck, .retrain] →
    exec (.lossOfLight l) s = .next (s.setLink l { s.link l with state := .notPresent, light := false, checked := false })) ∧
  (∀ (s : State) (l n : Nat), (s.link l).state ≠ .up →
    exec (.frameLockLost l) s = .next s ∧ exec (.fecUeLimit l n) s = .next s ∧ exec (.flinkPeerSilent l) s = .next s ∧
    (s.domainOn (domPress (l / 24)) = true → ∃ u, exec (.linkRetrain l) s = .next u ∧ u = { s with ctl := u.ctl } ∧
      u.get .flinkStatusCode l = Code.flinkCmdState)) ∧
  (∀ (s u : State) (l id pl : Nat) (ok : Bool), (s.link l).state ≠ .up → exec (.peerCheckDone l id pl ok) s = .next u → (u.link l).state = .up →
    (u.link l).txSeq = 0 ∧ (u.link l).rxSeq = 0)

/-- An engine passes through LASER_WAIT and RING_TUNE to READY, when its links may leave OFF; a bound missed or a source lost takes it to FAULT with its links OFF; SERVICE turns its links dark. 10_fepra_links.md R273; 10_fepra_links.md R282; 10_fepra_links.md R283; 10_fepra_links.md R294; 10_fepra_links.md R296; 10_fepra_links.md R297; 10_fepra_links.md R298. -/
def Obligations.EnginesAndLasers : Prop :=
  (∀ (s : State) (e : Nat), (s.engine e).service = false →
    ((s.engine e).state = .laserWait → (s.engine e).source = true → exec (.laserWaitDone e) s = .next (s.setEngine e { s.engine e with state := .ringTune })) ∧
    ((s.engine e).state = .ringTune → ∃ u, exec (.ringTuneDone e) s = .next u ∧
      u = { s with ctl := u.ctl, links := u.links, engines := u.engines } ∧ u.engine e = { s.engine e with state := .ready } ∧ (∀ x, x ≠ e → u.engine x = s.engine x) ∧
      (∀ l, l / 12 ≠ e → u.link l = s.link l) ∧
      ∀ l, l / 12 = e → (s.link l).state = .off → s.get .flinkCtlEnable l = 1 → (s.peerOf l).id ≠ 0xFFFF →
        (u.link l).state = if (s.link l).light = true ∧ s.get .flinkCtlAuto l = 1 then .train else .notPresent) ∧
    (∀ (c : Instr) (code : Nat), e < 8 →
      ((c = .flinkLaserFault e ∧ (s.engine e).state ∈ [.laserWait, .ringTune, .ready] ∧ code = Code.flinkLaserFault) ∨
        (c = .laserRemove e ∧ (s.engine e).state ∈ [.laserWait, .ringTune, .ready] ∧ code = Code.flinkLaserFault) ∨
        (c = .flinkRingTuneFail e ∧ (s.engine e).state = .ringTune ∧ code = Code.flinkRingTuneFail)) →
      ∃ u, exec c s = .next u ∧ (u.engine e).state = .fault ∧ (∀ x, x ≠ e → u.engine x = s.engine x) ∧
        (∀ l, l / 12 = e → (u.link l).state = .off ∧ u.get .flinkStatusCode l = code ∧
          ((s.link l).state = .up → u.get .flinkStatusCause l = 3 ∧ u.rel.alert = true ∧ ∀ r ∈ u.requests, r.link ≠ l)) ∧
        ∀ r ∈ s.requests, r.link / 12 ≠ e → r ∈ u.requests)) ∧
  (∀ (s : State) (e : Nat),
    ((s.engine e).service = true → s.domainOn (domOptical e) = true →
      ∃ u, exec (.laserInsert e) s = .next u ∧ u = { s with ctl := u.ctl, engines := u.engines } ∧
        u.engine e = { s.engine e with state := .laserWait, source := true, service := false } ∧ (∀ x, x ≠ e → u.engine x = s.engine x) ∧
        ∀ l, l / 12 = e → u.get .flinkEngineService l = 0) ∧
    ((s.engine e).service = false ∨ s.domainOn (domOptical e) = false →
      exec (.laserInsert e) s = .next (s.setEngine e { s.engine e with source := true })) ∧
    ((s.engine e).service = true ∨ (s.engine e).state = .off ∨ (s.engine e).state = .fault →
      exec (.laserRemove e) s = .next (s.setEngine e { s.engine e with source := false })) ∧
    ((s.engine e).service = true → exec (.engineServiceOff e) s = .next (s.setEngine e { s.engine e with state := .off })) ∧
    ((s.engine e).service = false → exec (.engineServiceOff e) s = .next s) ∧
    ((s.engine e).service = true → exec (.laserWaitDone e) s = .next s ∧ exec (.ringTuneDone e) s = .next s ∧
      exec (.flinkLaserFault e) s = .next s ∧ exec (.flinkRingTuneFail e) s = .next s)) ∧
  (∀ (s : State) (e : Nat), s.domainOn (domPress (e / 2)) = true →
    ((s.engine e).state = .off ∨ (s.engine e).state = .fault → s.domainOn (domOptical e) = true →
      ∃ u, exec (.engineRestart e) s = .next u ∧ u = { s with ctl := u.ctl, engines := u.engines } ∧
        u.engine e = { s.engine e with state := .laserWait, service := false } ∧ (∀ x, x ≠ e → u.engine x = s.engine x) ∧
        ∀ l, l / 12 = e → u.get .flinkEngineService l = 0) ∧
    ((s.engine e).state ∈ [.laserWait, .ringTune, .ready] ∨ s.domainOn (domOptical e) = false →
      ∃ u, exec (.engineRestart e) s = .next u ∧ u = { s with ctl := u.ctl } ∧
        u.get .flinkStatusCode (12 * e) = Code.flinkCmdState ∧ ∀ x, x ≠ Fld.flinkStatusCode.addr (12 * e) 0 → u.word x = s.word x) ∧
    ((s.engine e).service = true → ∃ u, exec (.engineService e) s = .next u ∧ u = { s with ctl := u.ctl } ∧
      u.get .flinkStatusCode (12 * e) = Code.flinkCmdState ∧ ∀ x, x ≠ Fld.flinkStatusCode.addr (12 * e) 0 → u.word x = s.word x) ∧
    (e < 8 → (s.engine e).service = false → ∃ u fs, exec (.engineService e) s = .next u ∧ u.engine e = { s.engine e with service := true } ∧
      (∀ x, x ≠ e → u.engine x = s.engine x) ∧
      u.frames = s.frames ++ fs ∧ (∀ f ∈ fs, f.word.goingDark = true ∧ f.flits = []) ∧
      ∀ l, l / 12 = e → (u.link l).state = .off ∧ u.get .flinkEngineService l = 1 ∧
        ((s.link l).state ≠ .off → (fs.filter fun f => f.link == l).length = 2) ∧
        ((s.link l).state = .up → u.get .flinkStatusCause l = 2 ∧ ∀ r ∈ u.requests, r.link ≠ l)))

/-- An UP link sends heartbeats with the module's state and keeps its peer's; a flit that waited too long is discarded, counted and, if it is a request, answered. 10_fepra_links.md R292; 10_fepra_links.md R293; 14_reliability_and_recovery.md R400. -/
def Obligations.HeartbeatsAndAge : Prop :=
  (∀ (s : State) (l : Nat),
    ((s.link l).state = .up →
      let beat := ((s.link l).beat + 1) % 65536
      ∃ u, exec (.heartbeatSend l) s = .next u ∧ u = { s with links := u.links } ∧ (u.link l).beat = beat ∧
        (s.setLink l { s.link l with beat := beat }).Queues u l
          { dest := (s.peerOf l).id, src := s.deviceId, cls := 0, type := msgHeartbeat, ctx := 0, gen := 0,
            payload := leBytes 2 beat ++ leBytes 1 s.rel.mode.num ++ leBytes 1 0 }) ∧
    ((s.link l).state ≠ .up → exec (.heartbeatSend l) s = .next s) ∧
    (∀ m s1, s.takeDelivered l msgHeartbeat = some (m, s1) →
      exec (.heartbeat l) s = .next (s1.setLink l { s.link l with peerBeat := m.num 0 2, peerState := m.num 2 1 })) ∧
    (s.takeDelivered l msgHeartbeat = none → exec (.heartbeat l) s = .next s)) ∧
  (∀ (s : State) (l c : Nat),
    let k := s.link l
    let ages := (k.queue c).find? fun f => !(c == 0 && s.ownFlit f && !k.hasTokens)
    (ages = none → exec (.flinkAgedOut l c) s = .next s) ∧
    ∀ f, ages = some f →
      let s1 := s.setLink l (k.loseFlit c f)
      (s1.link l).queue c = (k.queue c).erase f ∧
      ∃ u, exec (.flinkAgedOut l c) s = .next u ∧ u = { s with ctl := u.ctl, links := u.links, delivered := u.delivered } ∧
        u.word (Fld.flinkAged.addr l 0) = bumpWord (s.word (Fld.flinkAged.addr l 0)) 1 ∧
        (∀ x, x ≠ Fld.flinkAged.addr l 0 → u.word x = s.word x) ∧
        (flitAnswered f = false → u.links = s1.links ∧ u.delivered = s.delivered) ∧
        (flitAnswered f = true → s1.Answers u l { dest := f.dest, src := f.src, cls := f.cls, type := f.type, ctx := f.ctx, gen := f.gen, payload := [] }
          (flitTag f) Code.flinkAgedOut []))

/-- The checks of the adders never fail along a chain of any length, CHK stays the sum of the codes sent, and CHK + RES the sum of what was contributed; an altered code is found. 11_gradient_reduction.md R302; 11_gradient_reduction.md R313; 11_gradient_reduction.md R314. The third clause is narrower than the last paragraph of R314: an element marked after a residue of it was carried leaves that residue in RES, as the fourth clause shows. -/
def Obligations.ChainsKeepTheirSums : Prop :=
  (∀ (n : Nat) (x : List Int) (xs : List (List Int)), (∀ y ∈ x :: xs, y.length = n ∧ ∀ c ∈ y, -128 ≤ c ∧ c ≤ 127) →
    ∃ q, chainFrom (firstPartial x) 1 xs = some q ∧ q.codes.length = n ∧ q.shift = ceilLog2 (xs.length + 1) ∧ q.chk = word32 (codeSum q.codes q.shift) ∧
      (∀ i, i < n → (q.codes.getD i 0 = -128 ↔ ∃ y ∈ x :: xs, y.getD i 0 = -128)) ∧ (∀ c ∈ q.codes, -128 ≤ c ∧ c ≤ 127) ∧
      ((∀ y ∈ xs, ∀ i, i < n → y.getD i 0 = -128 → x.getD i 0 = -128) → (q.chk + q.res) % 2 ^ 32 = word32 (contributed n (x :: xs)))) ∧
  (∃ q, chainFrom (firstPartial [1]) 1 [[0], [-128]] = some q ∧ contributed 1 [[1], [0], [-128]] = 0 ∧ q.chk = 0 ∧ q.res = 1) ∧
  (∀ (m : RMsg) (x : List Int) (own : List Nat) (k j oc lh : Nat) (c : Int), 1 ≤ k → k ≤ 1024 → m.chk = word32 (codeSum m.codes (ceilLog2 k)) → j < m.codes.length →
    (∀ d ∈ m.codes, -128 ≤ d ∧ d ≤ 127) → m.codes.getD j 0 ≠ -128 → -127 ≤ c → c ≤ 127 → c ≠ m.codes.getD j 0 →
    addChunk { m with codes := m.codes.set j c } x own k oc lh true = .incoming)

/-- An OPEN creates its bucket, a CONTRIBUTE stages its span, and a FLUSH or the last contribution starts the bucket with its exponent bytes and its chunks of chain position 0. 11_gradient_reduction.md R304; 11_gradient_reduction.md R306; 11_gradient_reduction.md R307; 11_gradient_reduction.md R308; 11_gradient_reduction.md R309; 11_gradient_reduction.md R310; 11_gradient_reduction.md R319. -/
def Obligations.BucketOperations : Prop :=
  (∀ (s : State) (t q slot : Nat) (o : Op), s.takingBucket t q 0 = some (slot, o) →
    let b := bucketBody o.desc
    let r := s.leave t q slot o .reduction
    (b.count = 0 → ∃ u, exec (.bucketOpen t q) s = .next u ∧ u.buckets = s.buckets ∧ s.HasLeft u t q slot o ∧ (u.op t slot).map Op.phase = some .done) ∧
    (b.count ≠ 0 → s.bucket b.group b.id = none →
      (s.buckets.filter fun x => x.opened && x.g == b.group).length < ((s.group b.group).map Group.outstanding).getD 0 →
      s.parked = [] → s.earlyAborts = [] → (∀ x ∈ s.buckets, ¬ (x.g = b.group ∧ x.id = b.id ∧ x.seq = s.nextSeq b.group b.id)) →
      ∃ u x, exec (.bucketOpen t q) s = .next u ∧
        u = { s with free := u.free, ctl := u.ctl, ctrs := u.ctrs, tiles := u.tiles, buckets := s.buckets ++ [x], openSeqs := u.openSeqs } ∧
        x = s.newUse t slot r.2 ∧ u.nextSeq b.group b.id = (s.nextSeq b.group b.id + 1) % 65536 ∧ s.HasLeft u t q slot o ∧
        (u.op t slot).map Op.phase = some .running ∧ x.seq = s.nextSeq b.group b.id ∧ x.elems = b.count ∧ x.chunks = [] ∧ x.started = false) ∧
    (∀ x, b.count ≠ 0 → s.bucket b.group b.id = some x →
      ∃ u, exec (.bucketOpen t q) s = .next u ∧ u.buckets = s.buckets ∧ (u.op t slot).map Op.phase = some (.failed Code.rdcIdBusy b.id)) ∧
    (b.count ≠ 0 → s.bucket b.group b.id = none →
      ((s.group b.group).map Group.outstanding).getD 0 ≤ (s.buckets.filter fun x => x.opened && x.g == b.group).length →
      ∃ u, exec (.bucketOpen t q) s = .next u ∧ u.buckets = s.buckets ∧ (u.op t slot).map Op.phase = some (.failed Code.rdcTooMany b.group))) ∧
  (∀ (s0 : State) (t q slot : Nat) (o : Op) (e : Ecc), let s := s0.corrected e.ce
    s.takingBucket t q 1 = some (slot, o) →
    let b := bucketBody o.desc
    let r := s.leave t q slot o .reduction
    (b.count = 0 → ∃ u, exec (.bucketContribute t q e) s0 = .next u ∧ s.HasLeft u t q slot o ∧ (u.op t slot).map Op.phase = some .done ∧
      u.mem = s.mem ∧ u.buckets = s.buckets) ∧
    (b.count ≠ 0 → s.bucket b.group b.id = none →
      ∃ u, exec (.bucketContribute t q e) s0 = .next u ∧ u.mem = s.mem ∧ (u.op t slot).map Op.phase = some (.failed Code.rdcNotOpen b.id)) ∧
    (∀ x, b.count ≠ 0 → s.bucket b.group b.id = some x →
      (∀ i, (b.chunks.find? fun i => x.chunks.contains i) = some i →
        ∃ u, exec (.bucketContribute t q e) s0 = .next u ∧ u.mem = s.mem ∧ (u.op t slot).map Op.phase = some (.failed Code.rdcOverlap i)) ∧
      ((b.chunks.find? fun i => x.chunks.contains i) = none → x.started = true →
        ∃ u, exec (.bucketContribute t q e) s0 = .next u ∧ u.mem = s.mem ∧ (u.op t slot).map Op.phase = some (.failed Code.rdcStarted b.id)) ∧
      (∀ err, (b.chunks.find? fun i => x.chunks.contains i) = none → x.started = false →
        s.accessErr e.ue (b.readRange t).1 (b.readRange t).2 false = some err →
        ∃ u, exec (.bucketContribute t q e) s0 = .next u ∧ u.mem = s.mem ∧ u.buckets = s.buckets ∧
          (u.op t slot).map Op.phase = some (.failed err.code.1 err.code.2)) ∧
      ((b.chunks.find? fun i => x.chunks.contains i) = none → x.started = false → s.accessErr e.ue (b.readRange t).1 (b.readRange t).2 false = none →
        (x.err = 0 ∨ s.accessErr e.ue (x.err + 2 * b.first) (2 * b.count) false = none) → s.current x = some x →
        let x' : Bucket := { x with chunks := x.chunks ++ b.chunks }
        (x'.full = false →
          ∃ u, exec (.bucketContribute t q e) s0 = .next u ∧
            u = { s with free := u.free, ctl := u.ctl, ctrs := u.ctrs, tiles := u.tiles, buckets := u.buckets, mem := u.mem } ∧
            s.HasLeft u t q slot o ∧ (u.op t slot).map Op.phase = some .done ∧ u.current x = some x' ∧
            u.readBytes (x.stage + 2 * b.first) (2 * b.count) = s.stageBytes t r.2 x b ∧
            ∀ a, a < x.stage + 2 * b.first ∨ x.stage + 2 * b.first + 2 * b.count ≤ a → u.readByte a = s.readByte a) ∧
        (x'.full = true → x.late = false → s.regionErr x = none → s.parked = [] → (∀ i, i < x.chunkCount → (s.place x.g).chain x.elems i ≠ 0) →
          ∃ u, exec (.bucketContribute t q e) s0 = .next u ∧
            u = { s with free := u.free, ctl := u.ctl, ctrs := u.ctrs, tiles := u.tiles, buckets := u.buckets, mem := u.mem } ∧
            s.HasLeft u t q slot o ∧ (u.op t slot).map Op.phase = some .done ∧ u.current x = some { x' with started := true } ∧
            (x.stage + 2 * b.first + 2 * b.count ≤ x.ownBytesAt → u.readBytes (x.stage + 2 * b.first) (2 * b.count) = s.stageBytes t r.2 x b))))) ∧
  (∀ (s : State) (t q slot : Nat) (o : Op) (x : Bucket), s.takingBucket t q 2 = some (slot, o) →
    s.bucket (bucketBody o.desc).group (bucketBody o.desc).id = some x → x.started = false → x.late = false → s.regionErr x = none → s.parked = [] →
    s.current x = some x →
    let n := ceilDiv x.elems 32
    let own := (List.range n).map fun k => BitVec.ofNat 8 (blockByte ((List.range 32).map fun j => s.stageElem x (32 * k + j)))
    ((∀ i, i < x.chunkCount → (s.place x.g).chain x.elems i ≠ 0) →
      ∃ u, exec (.bucketFlush t q) s = .next u ∧
        u = { s with free := u.free, ctl := u.ctl, ctrs := u.ctrs, tiles := u.tiles, buckets := u.buckets, mem := u.mem } ∧ s.HasLeft u t q slot o ∧
        (u.op t slot).map Op.phase = some .done ∧ u.current x = some { x with started := true } ∧ u.readBytes x.ownBytesAt n = own ∧
        ∀ a, a < x.ownBytesAt ∨ x.ownBytesAt + n ≤ a → u.readByte a = s.readByte a) ∧
    (x.chunkCount = 1 → x.carry = false → (x.agreedAt 0) = none → (s.place x.g).chain x.elems 0 = 0 → 1 < (s.place x.g).n → ∀ e, s.egress (s.place x.g).tierSucc = some e →
      ∃ u, exec (.bucketFlush t q) s = .next u ∧ u.readBytes x.ownBytesAt n = own ∧ u.current x = some { x with started := true } ∧
        s.Queues u e { dest := (s.place x.g).tierSucc, src := s.deviceId, cls := 0, type := msgScale, ctx := x.ctx, gen := x.gen,
                       payload := RMsg.payload { x.msg 0 0 with maxexp := (own ++ List.replicate (128 - n) 0).map BitVec.toNat } true })) ∧
  (∀ (s : State) (t q slot : Nat) (o : Op), s.takingBucket t q 2 = some (slot, o) →
    let b := bucketBody o.desc
    (s.bucket b.group b.id = none → ∃ u, exec (.bucketFlush t q) s = .next u ∧ u.mem = s.mem ∧ u.buckets = s.buckets ∧
      (u.op t slot).map Op.phase = some (.failed Code.rdcNotOpen b.id)) ∧
    ∀ x, s.bucket b.group b.id = some x →
      (x.started = true → ∃ u, exec (.bucketFlush t q) s = .next u ∧ u = { s with free := u.free, ctl := u.ctl, ctrs := u.ctrs, tiles := u.tiles } ∧
        s.HasLeft u t q slot o ∧ (u.op t slot).map Op.phase = some .done) ∧
      (x.started = false → x.late = true → s.regionErr x = none → s.parked = [] → s.current x = some x →
        ∃ u, exec (.bucketFlush t q) s = .next u ∧
          u = { s with free := u.free, ctl := u.ctl, ctrs := u.ctrs, tiles := u.tiles, buckets := u.buckets, mem := u.mem } ∧
          s.HasLeft u t q slot o ∧ (u.op t slot).map Op.phase = some .done ∧ u.current x = some { x with started := true } ∧
          u.readBytes x.err (2 * x.elems) = (List.range x.elems).flatMap fun n =>
            if x.chunks.contains (n / 4096) then s.readBytes (x.stage + 2 * n) 2 else [0, 0]))

/-- A chunk or SCALE message is dropped, parked or used by its match; a partial is added and passed on, a final is written to RESULT, exponent bytes are combined and agreed. 11_gradient_reduction.md R310; 11_gradient_reduction.md R313; 11_gradient_reduction.md R314; 11_gradient_reduction.md R315; 11_gradient_reduction.md R316; 11_gradient_reduction.md R319; 11_gradient_reduction.md R325; 09_memory_and_transfers.md R262. -/
def Obligations.ReductionMessages : Prop :=
  (∀ (s s1 : State) (l : Nat) (m : Msg) (c : Instr), s.parked = [] →
    ((c = .reduce l ∧ (s.takeRdc l fun m => m.type == msgReduce && m.num 1 1 != 3) = some (m, s1)) ∨ (c = .scale l ∧ (s.takeRdc l fun m => m.type == msgScale) = some (m, s1))) →
    let r := rmsgOf m
    let f := s1.freeBuffers l m
    (s1.arrivalFault m.ctx m.gen ≠ none → s1.useOf r = none →
      ∃ u, exec c s = .next u ∧ u = { s1 with ctl := u.ctl, links := f.links, ctxs := u.ctxs } ∧
        u.word (Fld.xferLateDrops.addr (l / 24) 0) = bumpWord (s.word (Fld.xferLateDrops.addr (l / 24) 0)) 1) ∧
    (s1.arrivalFault m.ctx m.gen = none → s1.matchMsg m r = .stale →
      ∃ u, exec c s = .next u ∧ u = { s1 with ctl := u.ctl, links := f.links } ∧
        u.word (Fld.rdcStaleDrops.addr (l / 24) 0) = bumpWord (s.word (Fld.rdcStaleDrops.addr (l / 24) 0)) 1) ∧
    (s1.arrivalFault m.ctx m.gen = none → s1.matchMsg m r = .park →
      let lg := s.get .rdcParkSizeLog2 (l / 24)
      ∃ u w, exec c s = .next u ∧ u = { s1 with ctl := u.ctl, links := u.links, parked := [⟨l, m, w⟩], mem := u.mem, free := u.free } ∧ (w = true → u.mem = s.mem) ∧
        (w = true ↔ lg = 0 ∨ 2 ^ lg < m.payload.length) ∧ u.links = (if w then s1.links else f.links) ∧
        u.word (Fld.rdcParked.addr (l / 24) 0) =
          (if w then s.word (Fld.rdcParked.addr (l / 24) 0) else bumpWord (s.word (Fld.rdcParked.addr (l / 24) 0)) 1)) ∧
    (∀ b, s1.arrivalFault m.ctx m.gen = none → s1.matchMsg m r = .take b → b.late = false → (s.place b.g).otherTier m.src = false →
      let p := s.place b.g
      let k := p.chain b.elems r.chunk
      (m.type = msgScale → r.phase = 0 → k + 1 < p.n → ∀ e, s.egress p.tierSucc = some e →
        ∃ u, exec c s = .next u ∧ u = { s1 with links := u.links } ∧
          s1.Queues u e { dest := p.tierSucc, src := s.deviceId, cls := 0, type := msgScale, ctx := b.ctx, gen := b.gen,
                          payload := RMsg.payload (b.scaleMsg 0 r.chunk k ((r.maxexp.zip (s.ownBytes b r.chunk)).map fun q => max q.1 q.2) r.late) true }) ∧
      (m.type = msgScale → r.phase = 1 → k ≠ 0 → b.agreedAt r.chunk = none → p.finalDests (b.segment p r.chunk) false = [] →
        ∃ u, exec c s = .next u ∧ u = { s1 with buckets := u.buckets } ∧ ∃ x, u.current b = some x ∧ x.agreedAt r.chunk = some r.maxexp) ∧
      (m.type = msgReduce → r.phase = 0 → k ≠ 0 → r.chunk ∉ b.coded → ∀ eb, s.scaleExps b r.chunk = some eb →
        let own := s.formCodes b r.chunk eb
        (∀ x n, k + 1 < p.n → addChunk r own.2.1 (s.ownBytes b r.chunk) k own.2.2 0 b.checked = .ok x n → ∀ e, s.egress p.tierSucc = some e →
          let at_ := b.err + 2 * (4096 * r.chunk)
          ∃ u, exec c s = .next u ∧ u = { s1 with ctl := u.ctl, links := u.links, buckets := u.buckets, mem := u.mem } ∧
            (b.err = 0 → u.mem = s.mem) ∧
            (∀ a, a < at_ ∨ at_ + 2 * min 4096 (b.elems - 4096 * r.chunk) ≤ a → u.readByte a = s.readByte a) ∧
            f.Queues u e { dest := p.tierSucc, src := s.deviceId, cls := 1, type := msgReduce, ctx := b.ctx, gen := b.gen,
                           payload := (x.msg b 0 r.chunk k).payload false } ∧
            u.word (Fld.rdcChunksAdded.addr (s.serving b.g) 0) = bumpWord (s.word (Fld.rdcChunksAdded.addr (s.serving b.g) 0)) 1) ∧
        (addChunk r own.2.1 (s.ownBytes b r.chunk) k own.2.2 0 b.checked = .incoming → b.opened = true → b.orphan = false →
          ∀ o, s.op b.tile b.slot = some o → o.phase = .running →
          ∃ u, exec c s = .next u ∧ u.current b = none ∧
            (u.op b.tile b.slot).map Op.phase = some (.failed Code.rdcChecksum (failDetail p.pos 1 s.deviceId l)))) ∧
      (m.type = msgReduce → r.phase = 1 → b.opened = true → (∀ x ∈ b.finals, x.chunk ≠ r.chunk) →
        (b.checked = false ∨ word32 (codeSum r.codes r.shift) = r.chk) → p.finalDests (b.segment p r.chunk) false = [] → ∀ eb, s.scaleExps b r.chunk = some eb →
        let out := (decodeChunk b r.chunk r.shift eb r.codes).1
        let a := b.result + 8192 * r.chunk
        ∃ u, exec c s = .next u ∧ u = { s1 with links := f.links, buckets := u.buckets, mem := u.mem } ∧ u.readBytes a out.length = out ∧
          (∀ x, x < a ∨ a + out.length ≤ x → u.readByte x = s.readByte x) ∧ ∃ x, u.current b = some x ∧ ∃ y ∈ x.finals, y.chunk = r.chunk)))

/-- A bucket with all its finals completes with its flags and counts; an abort ends its use here and goes on once, and waits for a use not yet open; a member that kept a message waiting becomes late and passes it on. 11_gradient_reduction.md R319; 11_gradient_reduction.md R321; 11_gradient_reduction.md R323; 11_gradient_reduction.md R325; 11_gradient_reduction.md R326; 11_gradient_reduction.md R311. -/
def Obligations.BucketsEnd : Prop :=
  (∀ (s : State) (g id : Nat), (s.bucket g id = none → exec (.bucketComplete g id) s = .next s) ∧
    ∀ b, s.bucket g id = some b → (b.complete = false → exec (.bucketComplete g id) s = .next s) ∧
      (b.complete = true → b.orphan = false → ∀ o, s.op b.tile b.slot = some o →
        let nf := b.overflowed || b.finals.any fun f => f.flags % 2 == 1
        let late := (b.finals.map Final.late).foldl max 0
        let cl := (b.finals.map Final.clamps).foldl max 0
        ∃ u p, exec (.bucketComplete g id) s = .next u ∧
          u = { s with ctl := u.ctl, tiles := u.tiles, mem := u.mem, svc := u.svc, buckets := s.buckets.filter fun x => !(x.g == g && x.id == id && x.seq == b.seq) } ∧
          u.readBytes b.scale b.reducedBytes.length = b.reducedBytes ∧
          (∀ a, a < b.scale ∨ b.scale + b.reducedBytes.length ≤ a → u.readByte a = s.readByte a) ∧
          u.svc.scaled = (g, id) :: s.svc.scaled.filter (· != (g, id)) ∧
          u.svc.nonfinite = (if nf then (g, id) :: s.svc.nonfinite else s.svc.nonfinite) ∧
          u.word (Fld.rdcBuckets.addr (s.serving g) 0) = bumpWord (s.word (Fld.rdcBuckets.addr (s.serving g) 0)) 1 ∧
          u.op b.tile b.slot = some p ∧ p.phase = .done ∧ (p.detail / 2 ^ 16 = late + cl * 2 ^ 16) ∧ (p.detail.testBit 0 = nf) ∧
          (p.detail.testBit 3 = b.late) ∧ (p.info.testBit 5 = (nf || o.info.testBit 5)))) ∧
  (∀ (s s1 : State) (l : Nat) (m : Msg), (s.takeRdc l fun m => m.type == msgReduce && m.num 1 1 == 3) = some (m, s1) → s.parked = [] →
    let r := rmsgOf m
    let p := s.place r.g
    s1.arrivalFault m.ctx m.gen = none →
    (∀ b o, s1.useOf r = some b → b.opened = true → b.orphan = false → s.op b.tile b.slot = some o → o.phase = .running →
      ∃ u, exec (.reduceAbort l) s = .next u ∧ u.current b = none ∧
        (u.op b.tile b.slot).map Op.phase = some (.failed r.code (failDetail r.fpos 0 r.fdev 0xFF)) ∧
        ((s.group r.g).isSome → m.src = p.pred → (r.g, r.id, r.seq, true) ∉ s.abortsSent → ∀ e, s.egress p.succ = some e →
          ∃ a : Msg, a.dest = p.succ ∧ a.payload = r.payload false ∧ (u.link e).queue 0 = ((s1.freeBuffers l m).link e).queue 0 ++ a.flits ∧
            (r.g, r.id, r.seq, true) ∈ u.abortsSent) ∧
        ((r.g, r.id, r.seq, m.src == p.pred) ∈ s.abortsSent → u.links = (s1.freeBuffers l m).links)) ∧
    (s1.useOf r = none → (r.seq + 65536 - s.nextSeq r.g r.id) % 65536 < 32768 →
      ∃ u, exec (.reduceAbort l) s = .next u ∧ (⟨r.g, r.id, r.seq, r.code, r.fpos, r.fdev⟩ : EarlyAbort) ∈ u.earlyAborts ∧ u.buckets = s.buckets)) ∧
  (∀ (s : State) (g id : Nat),
    (s.waitedLate g id = none → exec (.rdcLate g id) s = .next s) ∧ (s.groupMode g / 4 % 2 = 0 → exec (.rdcLate g id) s = .next s) ∧
    ∀ w, s.parked = [w] → w.msg.type = msgScale → s.waitedLate g id = some w → s.groupMode g / 4 % 2 = 1 → s.useOf (rmsgOf w.msg) = none →
      s.arrivalFault w.msg.ctx w.msg.gen = none →
      let r := rmsgOf w.msg
      let p := s.place g
      let b := { lateUse w.msg r with late := true }
      r.chunk < b.chunkCount → (∀ i, i < b.chunkCount → p.chain r.elems i ≠ 0) → p.otherTier w.msg.src = false → p.chain r.elems r.chunk + 1 < p.n →
      (∀ y ∈ r.maxexp, y < 256) → r.maxexp.length = 128 → ∀ e, s.egress p.tierSucc = some e →
      ∃ u, exec (.rdcLate g id) s = .next u ∧ u = { s with ctl := u.ctl, links := u.links, buckets := s.buckets ++ [b], parked := [] } ∧
        u.word (Fld.rdcLateSkips.addr (s.serving g) 0) = bumpWord (s.word (Fld.rdcLateSkips.addr (s.serving g) 0)) 1 ∧
        s.Queues u e { dest := p.tierSucc, src := s.deviceId, cls := 0, type := msgScale, ctx := w.msg.ctx, gen := w.msg.gen,
                       payload := RMsg.payload (b.scaleMsg 0 r.chunk (p.chain r.elems r.chunk) r.maxexp (min (r.late + 1) 0xFFFF)) true })

/-- A management command waits its turn behind one that runs or waits, and is served only in an open session and only where the module's state serves it. 12_ethernet_and_services.md R343; 12_ethernet_and_services.md R346; 12_ethernet_and_services.md R347; 15_startup_and_security.md R436; 15_startup_and_security.md R438. -/
def Obligations.SessionsServeCommands : Prop :=
  (∀ (c : Instr) (n q op : Nat) (s : State), sessionCommand c = some (n, q, op) →
    ((s.session n).live = false → exec c s = .next s) ∧
    ((s.session n).live = true → s.serverBusy = true →
      exec c s = .next { s.setSession n { s.session n with probes := 0 } with turns := s.turns ++ [(n, c)] }) ∧
    ((s.session n).live = true → s.serverBusy = false → (s.session n).opened = false →
      ∃ u, exec c s = .next u ∧ s.Closes u n Code.sesNotOpen [.reply n op q Code.sesNotOpen []]) ∧
    ((s.session n).live = true → s.serverBusy = false → (s.session n).opened = true → s.notServed op = true →
      exec c s = .next { s.accept n with out := s.out ++ [.reply n op q Code.bootNotReady []] } ∧
        (s.accept n).word (Fld.sesCommands.addr 0 0) = bumpWord (s.word (Fld.sesCommands.addr 0 0)) 1)) ∧
  (∀ (s : State) (n : Nat) (c : Instr), (s.session n).live = true → s.serverBusy = true →
    ((∃ q slot nonce, c = .openHello n q slot nonce) ∨ (∃ q proof, c = .openProof n q proof) ∨ (∃ q op magic len, c = .sesOpcode n q op magic len)) →
    exec c s = .next { s.setSession n { s.session n with probes := 0 } with turns := s.turns ++ [(n, c)] })

/-- A connection opens by the hello and the right proof, and closes by command, by silence, by a wrong proof and by a wrong header. 12_ethernet_and_services.md R342; 12_ethernet_and_services.md R343; 12_ethernet_and_services.md R344; 12_ethernet_and_services.md R347. -/
def Obligations.SessionsOpenAndClose : Prop :=
  (∀ (s : State) (src : Nat),
    (s.listening = false → exec (.tcpConnect src) s = .next s) ∧
    (s.listening = true → (s.sessions.filter fun e => e.2.live).length < s.get .sesCtlMax →
      exec (.tcpConnect src) s = .next (s.setSession s.freeSession { live := true, source := src })) ∧
    (s.listening = true → s.get .sesCtlMax ≤ (s.sessions.filter fun e => e.2.live).length →
      ∃ u, exec (.tcpConnect src) s = .next u ∧ s.Closes u s.freeSession Code.sesTooMany [.reply s.freeSession 0 0 Code.sesTooMany []])) ∧
  (∀ (s : State) (n : Nat), (s.session n).live = true → (s.session n).opened = false →
    (∃ u, exec (.sessionOpenTimeout n) s = .next u ∧ s.Closes u n Code.sesTimeout []) ∧
    ∀ (q slot : Nat) (nonce : List Byte), s.serverBusy = false → (s.session n).hello = none →
      let k := (s.sessionKey slot).getD (fit 32 (Config.nonce (s.free + 1)))
      let nm := fit 32 (Config.nonce s.free)
      nm.length = 32 ∧ ∃ u, exec (.openHello n q slot nonce) s = .next u ∧
        u = { s with free := u.free, sessions := u.sessions, out := s.out ++ [.reply n 0x0001 q 0
          (nm ++ hmac256 k (label ['L', 'V', 'R', 'M'] ++ nonce ++ nm ++ leBytes 8 s.journal.serial))] } ∧
        u.session n = { s.session n with hello := some nonce, slot := slot % 256, key := s.sessionKey slot, nonceM := nm, probes := 0 } ∧
        ∀ m, m ≠ n → u.session m = s.session m) ∧
  (∀ (s : State) (n q slot : Nat) (nonce proof : List Byte), (s.session n).live = true → s.serverBusy = false →
    ((s.session n).opened = true ∨ (s.session n).hello.isSome = true → ∃ u, exec (.openHello n q slot nonce) s = .next u ∧
      s.Closes u n Code.sesNotOpen [.reply n 0x0001 q Code.sesNotOpen []]) ∧
    ((s.session n).opened = true ∨ (s.session n).hello = none → ∃ u, exec (.openProof n q proof) s = .next u ∧
      s.Closes u n Code.sesNotOpen [.reply n 0x0002 q Code.sesNotOpen []])) ∧
  (∀ (s : State) (n q : Nat) (proof nc : List Byte), (s.session n).live = true → s.serverBusy = false → (s.session n).opened = false →
    (s.session n).hello = some nc →
    let right := (s.session n).key.map fun k => hmac256 k (label ['L', 'V', 'R', 'C'] ++ (s.session n).nonceM ++ nc)
    ((s.session n).slot ∉ s.slotLocked → some proof = right →
      ∃ u, exec (.openProof n q proof) s = .next u ∧ u = { s with ctl := u.ctl, sessions := u.sessions, out := s.out ++ [.reply n 0x0002 q 0 []] } ∧
        u.session n = { s.session n with opened := true, probes := 0 } ∧ (∀ m, m ≠ n → u.session m = s.session m) ∧
        u.word (Fld.sesOpens.addr 0 0) = bumpWord (s.word (Fld.sesOpens.addr 0 0)) 1) ∧
    ((s.session n).slot ∈ s.slotLocked → ∃ u, exec (.openProof n q proof) s = .next u ∧ s.Closes u n Code.sesLocked [.reply n 0x0002 q Code.sesLocked []] ∧
      u.word (Fld.sesAuthFails.addr 0 0) = bumpWord (s.word (Fld.sesAuthFails.addr 0 0)) 1) ∧
    ((s.session n).slot ∉ s.slotLocked → some proof ≠ right →
      ∃ u v, exec (.openProof n q proof) s = .next u ∧ v = { s with free := u.free, slotFails := u.slotFails, slotLocked := u.slotLocked } ∧
        v.Closes u n Code.sesAuthFail [.reply n 0x0002 q Code.sesAuthFail []] ∧
        u.word (Fld.sesAuthFails.addr 0 0) = bumpWord (s.word (Fld.sesAuthFails.addr 0 0)) 1 ∧
        (u.slotLocked = s.slotLocked ∨ u.slotLocked = s.slotLocked ++ [(s.session n).slot]))) ∧
  (∀ (s : State) (slot : Nat), exec (.sesLockEnd slot) s = .next { s with slotLocked := s.slotLocked.filter (· != slot) }) ∧
  (∀ (s : State) (n q : Nat), s.Serves n 0x0003 → ∃ u, exec (.close n q) s = .next u ∧ (s.accept n).Closes u n 0 [.reply n 0x0003 q 0 []]) ∧
  (∀ (s : State) (n : Nat), (s.session n).live = true →
    (s.get .sesCtlIdleS ≠ 0 → ∃ u, exec (.sesTimeout n) s = .next u ∧ s.Closes u n Code.sesTimeout [] ∧
      u.word (Fld.sesTimeouts.addr 0 0) = bumpWord (s.word (Fld.sesTimeouts.addr 0 0)) 1) ∧
    (s.get .sesCtlIdleS = 0 → exec (.sesTimeout n) s = .next s) ∧
    ((s.session n).probes < 3 → ∃ u, exec (.keepaliveProbe n) s = .next u ∧ u = { s with sessions := u.sessions, out := s.out ++ [.probe n] } ∧
      u.session n = { s.session n with probes := (s.session n).probes + 1 }) ∧
    (3 ≤ (s.session n).probes → ∃ u, exec (.keepaliveProbe n) s = .next u ∧ s.Closes u n Code.sesTimeout []) ∧
    ∀ q op magic len : Nat, s.serverBusy = false →
      (magic ≠ 0x4C53 ∨ 16 * 2 ^ 20 + 64 < len → ∃ u, exec (.sesOpcode n q op magic len) s = .next u ∧ s.Closes u n Code.sesLength [.reply n op q Code.sesLength []]) ∧
      (magic = 0x4C53 → len ≤ 16 * 2 ^ 20 + 64 → (s.session n).opened = false →
        ∃ u, exec (.sesOpcode n q op magic len) s = .next u ∧ s.Closes u n Code.sesNotOpen [.reply n op q Code.sesNotOpen []]) ∧
      (magic = 0x4C53 → len ≤ 16 * 2 ^ 20 + 64 → (s.session n).opened = true → op ∉ opcodes →
        exec (.sesOpcode n q op magic len) s = .next { s.accept n with out := s.out ++ [.reply n op q Code.sesOpcode []] }))

/-- Register, memory, event and log commands of a served session answer what they read and change only what they write. 12_ethernet_and_services.md R346; 12_ethernet_and_services.md R348; 14_reliability_and_recovery.md R423; 14_reliability_and_recovery.md R424; 01_module_architecture.md R14; 15_startup_and_security.md R436; 15_startup_and_security.md R438. -/
def Obligations.SessionsReadAndWrite : Prop :=
  ∀ (s : State) (n q : Nat),
    let a := s.accept n
    (s.Serves n 0x0010 → ∀ x cnt : Nat,
      (cnt = 0 ∨ 512 < cnt → exec (.ctlRead n q x cnt) s = .next { a with out := s.out ++ [.reply n 0x0010 q Code.sesLength []] }) ∧
      (a.accessRefusal x 8 = none → ∃ u, exec (.ctlRead n q x 1) s = .next u ∧
        u = { a with ctl := u.ctl, out := s.out ++ [.reply n 0x0010 q 0 (leBytes 8 (a.readWord x).toNat)] } ∧ ∀ y, y ≠ x → u.word y = a.word y) ∧
      (0 < cnt → cnt ≤ 512 → (∀ i < cnt, a.accessRefusal (x + 8 * i) 8 = none) → ∃ u d, exec (.ctlRead n q x cnt) s = .next u ∧
        u = { a with ctl := u.ctl, out := s.out ++ [.reply n 0x0010 q 0 d] } ∧ d.length = 8 * cnt ∧ d.take 8 = leBytes 8 (a.readWord x).toNat) ∧
      (∀ c, a.accessRefusal x 8 = some c → 0 < cnt → cnt ≤ 512 → ∃ u, exec (.ctlRead n q x cnt) s = .next u ∧
        u = { a with ctl := u.ctl, out := s.out ++ [.reply n 0x0010 q c []] } ∧ u.get .blendCtlErrAddress = x % 2 ^ 48)) ∧
    (s.Serves n 0x0011 → ∀ (x : Nat) (v : W64), ∃ w, exec (.registerWrite (.session n) x 8 v 0) a = .next w ∧
      exec (.ctlWrite n q x v) s = .next (w.reply n q 0x0011 ((a.accessRefusal x 8).getD 0) [])) ∧
    (s.Serves n 0x0012 → ∀ (x len : Nat) (e : Ecc),
      let c := a.corrected e.ce
      let answers := fun (code : Nat) => exec (.memRead n q x len e) s = .next { c with out := s.out ++ [.reply n 0x0012 q code []] }
      (2 ^ 24 < len → answers Code.sesLength) ∧
      (len ≤ 2 ^ 24 → s.rel.mode = .starting → inSram x len = false → answers Code.bootNotReady) ∧
      (len ≤ 2 ^ 24 → s.rel.mode = .tin → inSram x len = false → answers Code.xferUnmapped) ∧
      (len ≤ 2 ^ 24 → (s.rel.mode = .starting ∨ s.rel.mode = .tin → inSram x len = true) →
        (c.accessErr e.ue x len false = none → exec (.memRead n q x len e) s = .next { c with out := s.out ++ [.reply n 0x0012 q 0 (s.readBytes x len)] }) ∧
        (∀ y, c.accessErr e.ue x len false = some (.unmapped y) → answers Code.xferUnmapped) ∧
        (∀ err, c.accessErr e.ue x len false = some err → (∀ y, err ≠ .unmapped y) → ∃ u, exec (.memRead n q x len e) s = .next u ∧
          u = { c with ctl := u.ctl, out := s.out ++ [.reply n 0x0012 q Code.memUe []] }))) ∧
    (s.Serves n 0x0013 → ∀ (x : Nat) (data : List Byte) (e : Ecc),
      let c := a.corrected e.ce
      let answers := fun (code : Nat) => exec (.memWrite n q x data e) s = .next { c with out := s.out ++ [.reply n 0x0013 q code []] }
      (2 ^ 24 < data.length → answers Code.sesLength) ∧
      (data.length ≤ 2 ^ 24 → s.rel.mode = .starting → inSram x data.length = false → answers Code.bootNotReady) ∧
      (data.length ≤ 2 ^ 24 → s.rel.mode = .tin → inSram x data.length = false → answers Code.xferUnmapped) ∧
      (data.length ≤ 2 ^ 24 → (s.rel.mode = .starting ∨ s.rel.mode = .tin → inSram x data.length = true) →
        (c.accessErr e.ue x data.length true = none → ∃ u, exec (.memWrite n q x data e) s = .next u ∧
          u = { c with mem := u.mem, out := s.out ++ [.reply n 0x0013 q 0 []] } ∧
          u.readBytes x data.length = data ∧ ∀ y, y < x ∨ x + data.length ≤ y → u.readByte y = s.readByte y) ∧
        (∀ y, c.accessErr e.ue x data.length true = some (.unmapped y) → answers Code.xferUnmapped) ∧
        (∀ err, c.accessErr e.ue x data.length true = some err → (∀ y, err ≠ .unmapped y) → ∃ u, exec (.memWrite n q x data e) s = .next u ∧
          u = { c with ctl := u.ctl, out := s.out ++ [.reply n 0x0013 q Code.memUe []] }))) ∧
    (s.Serves n 0x0040 → ∀ mask : Nat, ∃ u, exec (.eventSubscribe n q mask) s = .next u ∧
      u = { a with sessions := u.sessions, out := s.out ++ [.reply n 0x0040 q 0 []] } ∧ u.session n = { s.session n with probes := 0, mask := mask % 32 } ∧
      ∀ m, m ≠ n → u.session m = s.session m) ∧
    (s.Serves n 0x0062 → ∀ from_ cnt : Nat, (cnt = 0 ∨ 4096 < cnt →
      exec (.logRead n q from_ cnt) s = .next { a with out := s.out ++ [.reply n 0x0062 q Code.sesLength []] }) ∧ (0 < cnt → cnt ≤ 4096 →
      exec (.logRead n q from_ cnt) s = .next { a with out := s.out ++ [.reply n 0x0062 q 0
        (((List.range cnt).filter fun i => (s.rel.logSeq + 2 ^ 32 - 1 - (from_ + i) % 2 ^ 32) % 2 ^ 32 < s.rel.logHeld).flatMap
          fun i => s.readBytes (s.logAddr ((from_ + i) % 2 ^ 32)) 64)] }))

/-- Every frame that arrives is counted; one of another VLAN, for an address that is off, or of a kind that the port lacks is dropped; PFC, CE and CNP do what they are for; what leaves is tagged, and held back while its priority is paused. 12_ethernet_and_services.md R331; 12_ethernet_and_services.md R333; 12_ethernet_and_services.md R334; 12_ethernet_and_services.md R335; 12_ethernet_and_services.md R348; 12_ethernet_and_services.md R358. -/
def Obligations.EthernetPort : Prop :=
  (∀ (s : State) (f : EthFrame), (s.portOn = false → exec (.ethFrame f) s = .next s) ∧
    (s.portOn = true →
      let b := (s.bump .ethRxFrames).bufferShare f.pcp f.share
      b = { s with ctl := b.ctl, out := b.out, pauseSent := b.pauseSent, prioShare := smPut (fun _ => 0) f.pcp f.share s.prioShare } ∧
      b.word (Fld.ethRxFrames.addr 0 0) = bumpWord (s.word (Fld.ethRxFrames.addr 0 0)) 1 ∧
      (s.lossless f.pcp = true → f.pcp ∉ s.pauseSent → 786432 < f.share → b.out = s.out ++ [.pfcFrame f.pcp true] ∧ f.pcp ∈ b.pauseSent) ∧
      (s.lossless f.pcp = true → f.pcp ∈ s.pauseSent → f.share < 524288 → b.out = s.out ++ [.pfcFrame f.pcp false] ∧ f.pcp ∉ b.pauseSent) ∧
      (s.lossless f.pcp = false ∨ (f.pcp ∉ s.pauseSent ∧ f.share ≤ 786432) ∨ (f.pcp ∈ s.pauseSent ∧ 524288 ≤ f.share) →
        b.out = s.out ∧ b.pauseSent = s.pauseSent) ∧
      (s.acceptsFrame f = false → exec (.ethFrame f) s = .next (b.bump .ethRxDrops)) ∧
      (s.acceptsFrame f = true →
        (f.kind = .arp ∨ f.kind = .neighbour ∨ f.kind = .echo → exec (.ethFrame f) s = .next { b with out := b.out ++ [.echo] }) ∧
        (f.kind = .synOther → exec (.ethFrame f) s = .next { b with out := b.out ++ [.rst] }) ∧
        (f.kind = .mgmt → exec (.ethFrame f) s = .next b) ∧
        (∀ p z, f.kind = .pfc p z → ∃ u, exec (.ethFrame f) s = .next u ∧ u = { b with ctl := u.ctl, pausedPrio := u.pausedPrio } ∧
          u.word (Fld.ethPfcRx.addr 0 0) = bumpWord (s.word (Fld.ethPfcRx.addr 0 0)) 1 ∧
          (s.lossless p = true → ((p ∈ u.pausedPrio) ↔ z = true) ∧ ∀ x, x ≠ p → (x ∈ u.pausedPrio ↔ x ∈ s.pausedPrio)) ∧
          (s.lossless p = false → u.pausedPrio = s.pausedPrio)) ∧
        (∀ n k, f.kind = .cnp n → qpOfWire n = some k → s.get .ethCtlEcn = 1 → (s.qp k).opened = true →
          exec (.ethFrame f) s = .next (b.setQp k { s.qp k with rateMbps := max 1000 ((s.qp k).rateMbps / 2) })) ∧
        (∀ n, f.kind = .cnp n → (∀ k, qpOfWire n = some k → s.get .ethCtlEcn = 0 ∨ (s.qp k).opened = false) → exec (.ethFrame f) s = .next b) ∧
        (∀ n, f.kind = .roce n false → exec (.ethFrame f) s = .next b) ∧
        (∀ n k, f.kind = .roce n true → qpOfWire n = some k → ∃ u, exec (.ethFrame f) s = .next u ∧
          u.word (Fld.ethCeReceived.addr 0 0) = bumpWord (s.word (Fld.ethCeReceived.addr 0 0)) 1 ∧
          (s.get .ethCtlEcn = 0 ∨ (s.qp k).opened = false → u = { b with ctl := u.ctl }) ∧
          (s.get .ethCtlEcn ≠ 0 → (s.qp k).opened = true → (s.qp k).cnpAt = none →
            u = { b with free := s.free + 1, ctl := u.ctl, qps := u.qps, out := b.out ++ [.cnp k ((s.qp k).dst (s.qp k).recvPsn)] } ∧
            u.qp k = { s.qp k with cnpAt := some (Config.freeNat s.free) } ∧
            u.word (Fld.ethCnpSent.addr 0 0) = bumpWord (s.word (Fld.ethCnpSent.addr 0 0)) 1)) ∧
        (∀ n k psn, f.kind = .roceAbsent n psn false → qpOfWire n = some k → (s.qp k).opened = true → (s.qp k).error = false →
          psn % 2 ^ 24 = (s.qp k).recvPsn →
          exec (.ethFrame f) s = .next { b with out := b.out ++ [.roceNak k ((s.qp k).dst psn) .invalidRequest] })))) ∧
  (∀ s : State, s.portOn = true →
    let u := s.portSend
    u = { s with ctl := u.ctl, out := u.out, sent := u.sent } ∧ u.out = s.out.filter (fun o => !s.mayLeavePort o) ∧
    u.sent = s.sent ++ (s.out.filter s.mayLeavePort).map s.onLine ∧
    ∀ o, (∀ p z, o ≠ .pfcFrame p z) → (s.onLine o).tag = some (s.get .ethCtlVid, if o.isRoce then s.get .ethCtlPcpRoce else s.get .ethCtlPcpMgmt) ∧
      (s.onLine o).ect = o.isRoce) ∧
  (∀ (s : State) (k : Nat), ((s.qp k).opened = true →
      exec (.roceRateStep k) s = .next (s.setQp k { s.qp k with rateMbps := min 1600000 ((s.qp k).rateMbps + 100000) })) ∧
    ((s.qp k).opened = false → exec (.roceRateStep k) s = .next s)) ∧
  (∀ (s : State) (ms : Nat),
    (s.pins.ethLink = true → ∃ u, exec .ethLinkDown s = .next u ∧
      u = { s with free := u.free, ctl := u.ctl, mem := u.mem, rel := u.rel, out := u.out, pausedPrio := [], pauseSent := [], pins := { s.pins with ethLink := false } } ∧
      s.Logged u Code.ethLinkDown unitEth ∧ u.rel.alert = true ∧ u.get .ethErrCode = Code.ethLinkDown ∧
      u.word (Fld.ethLinkDowns.addr 0 0) = bumpWord (s.word (Fld.ethLinkDowns.addr 0 0)) 1) ∧
    (s.pins.ethLink = false → exec .ethLinkDown s = .next s ∧ (s.domainOn domEth = true →
      exec (.ethLinkUp ms) s = .next { s with pins := { s.pins with ethLink := true }, out := s.out ++ ((s.sessions.filter fun e => e.2.opened && e.2.mask / 2 ^ 3 % 2 == 1).map
        fun e => Output.event e.1 3 Code.ethLinkDown (fieldOf (s.word (Fld.ethLinkDowns.addr 0 0)) 47 0) ms) })) ∧
    (s.pins.ethLink = true → exec (.ethLinkUp ms) s = .next s))

/-- A queue pair opens on an open context; inbound requests act in their packet sequence, and only where their key admits the range; acknowledgements end the oldest requests, and retries are bounded. 12_ethernet_and_services.md R336; 12_ethernet_and_services.md R337; 12_ethernet_and_services.md R338; 12_ethernet_and_services.md R339; 12_ethernet_and_services.md R340; 12_ethernet_and_services.md R341. What the InfiniBand rules give and the manual only refers to, the packet sequences and their NAKs among it, is PRESUMED (log 104). -/
def Obligations.RdmaRequests : Prop :=
  (∀ (s : State) (n q : Nat), s.Serves n 0x0030 → ∀ body : List Byte,
    let a := s.accept n
    let k := leNat (body.take 2)
    let x := Qp.ofBody body
    (body.length ≠ 48 → exec (.qpOpen n q body) s = .next { a with out := s.out ++ [.reply n 0x0030 q Code.sesLength []] }) ∧
    (body.length = 48 → (qpBodyOk body = false ∨ (s.qp k).opened = true) →
      exec (.qpOpen n q body) s = .next { a with out := s.out ++ [.reply n 0x0030 q Code.roceQpRange []] }) ∧
    (body.length = 48 → qpBodyOk body = true → (s.qp k).opened = false →
      (s.get .capContextsCount ≤ x.ctx ∨ (s.ctx x.ctx).state ≠ .open ∨ (s.ctx x.ctx).gen ≠ x.gen) →
      exec (.qpOpen n q body) s = .next { a with out := s.out ++ [.reply n 0x0030 q Code.roceCtx []] }) ∧
    (body.length = 48 → qpBodyOk body = true → (s.qp k).opened = false → x.ctx < s.get .capContextsCount → (s.ctx x.ctx).state = .open → (s.ctx x.ctx).gen = x.gen →
      exec (.qpOpen n q body) s = .next { a.setQp k x with out := s.out ++ [.reply n 0x0030 q 0 []] } ∧ x.body = body ∧ x.opened = true ∧
        x.error = false ∧ x.out = [] ∧ x.rateMbps = 1600000 ∧ x.sendPsn = leNat ((body.drop 28).take 4) ∧ x.recvPsn = x.sendPsn)) ∧
  (∀ (s : State) (n q k : Nat), s.Serves n 0x0031 →
    (1024 ≤ k ∨ (s.qp k).opened = false → exec (.qpClose n q k) s = .next { s.accept n with out := s.out ++ [.reply n 0x0031 q Code.roceQpRange []] }) ∧
    (k < 1024 → (s.qp k).opened = true → ∃ u, exec (.qpClose n q k) s = .next u ∧
      u = { s.accept n with ctl := u.ctl, qps := u.qps, svc := u.svc, out := s.out ++ [.reply n 0x0031 q 0 []] } ∧ u.qp k = {} ∧ (∀ j, j ≠ k → u.qp j = s.qp j) ∧
      ((s.qp k).out ≠ [] → u.get .ethErrCode = Code.roceQpError))) ∧
  (∀ (s : State) (n psn rkey va : Nat) (data : List Byte) (len : Nat),
    let isRequest := fun (c : Instr) => c = .rdmaWrite n psn rkey va data ∨ c = .rdmaRead n psn rkey va len ∨ c = .send n psn data
    (s.portOn = false → ∀ c, isRequest c → exec c s = .next s) ∧
    (s.portOn = true → qpOfWire n = none → ∀ c, isRequest c → exec c s = .next (s.bump .ethRxDrops)) ∧
    (∀ k, s.portOn = true → qpOfWire n = some k →
      let x := s.qp k
      ((x.opened = false ∨ x.error = true) → (x.opened = true → s.rkeyOk x rkey va data.length = true ∧ s.rkeyOk x rkey va len = true) →
        ∀ c, isRequest c → exec c s = .next (s.bump .ethRxDrops)) ∧
      (x.opened = true →
        (s.rkeyOk x rkey va data.length = false → ∃ u, exec (.rdmaWrite n psn rkey va data) s = .next u ∧
          u = { s with ctl := u.ctl, out := s.out ++ [.roceNak k (x.dst psn) .remoteAccess] } ∧ u.get .ethErrCode = Code.roceRemoteAccess) ∧
        (s.rkeyOk x rkey va len = false → ∃ u, exec (.rdmaRead n psn rkey va len) s = .next u ∧
          u = { s with ctl := u.ctl, out := s.out ++ [.roceNak k (x.dst psn) .remoteAccess] } ∧ u.get .ethErrCode = Code.roceRemoteAccess)) ∧
      (x.opened = true → x.error = false → s.rkeyOk x rkey va data.length = true → s.rkeyOk x rkey va len = true → psn % 2 ^ 24 ≠ x.recvPsn →
        (psnReached psn x.recvPsn = true → x.seqNaked = true → ∀ c, isRequest c → exec c s = .next s) ∧
        (psnReached psn x.recvPsn = true → x.seqNaked = false → ∀ c, isRequest c →
          exec c s = .next { s.setQp k { x with seqNaked := true } with out := s.out ++ [.roceNak k (x.dst x.recvPsn) .outOfSequence] }) ∧
        (psnReached psn x.recvPsn = false →
          (∀ c, c = .rdmaWrite n psn rkey va data ∨ c = .send n psn data → exec c s = .next { s with out := s.out ++ [.roceAck k (x.dst (x.recvPsn + 2 ^ 24 - 1))] }) ∧
          exec (.rdmaRead n psn rkey va len) s = .next { s with out := s.out ++ [.roceData k (x.dst psn) (s.readBytes va len)] })) ∧
      (x.opened = true → x.error = false → psn % 2 ^ 24 = x.recvPsn →
        let taken := fun (m : Nat) => { x with recvPsn := (x.recvPsn + x.packets m) % 2 ^ 24, seqNaked := false }
        let last := x.dst (x.recvPsn + x.packets data.length + 2 ^ 24 - 1)
        let a := x.recv + 4096 * (x.recvCount % x.recvEntries)
        (s.rkeyOk x rkey va data.length = true → s.accessErr [] va data.length true = none → ∃ u, exec (.rdmaWrite n psn rkey va data) s = .next u ∧
          u = { s with mem := u.mem, qps := u.qps, out := s.out ++ [.roceAck k last] } ∧ u.qp k = taken data.length ∧ (∀ j, j ≠ k → u.qp j = s.qp j) ∧
          u.readBytes va data.length = data ∧ ∀ y, y < va ∨ va + data.length ≤ y → u.readByte y = s.readByte y) ∧
        (s.rkeyOk x rkey va len = true → s.accessErr [] va len false = none → ∃ u, exec (.rdmaRead n psn rkey va len) s = .next u ∧
          u = { s with qps := u.qps, out := s.out ++ [.roceData k (x.dst psn) (s.readBytes va len)] } ∧ u.qp k = taken len ∧ ∀ j, j ≠ k → u.qp j = s.qp j) ∧
        (4096 < data.length ∨ x.recv = 0 → exec (.send n psn data) s = .next { s with out := s.out ++ [.roceNak k (x.dst psn) .invalidRequest] }) ∧
        (data.length ≤ 4096 → x.recv ≠ 0 → s.ringFull x = true →
          exec (.send n psn data) s = .next { s with free := s.free + 1, out := s.out ++ [.roceNak k (x.dst psn) .notReady] }) ∧
        (data.length ≤ 4096 → x.recv ≠ 0 → s.ringFull x = false → s.accessErr [] a data.length true = none → ∃ u, exec (.send n psn data) s = .next u ∧
          u = { s with free := s.free + 1, ctl := u.ctl, ctrs := u.ctrs, mem := u.mem, qps := u.qps, out := s.out ++ [.roceAck k last] } ∧
          u.readBytes a data.length = data ∧ u.qp k = { taken data.length with recvCount := x.recvCount + 1 } ∧
          u.ctrs = (if x.recvSync = 0xFFFF then s.ctrs else (s.signalService x.recvSync).ctrs) ∧
          ∀ y, y < a ∨ a + data.length ≤ y → u.readByte y = s.readByte y) ∧
        (x.recvSync < 256 → (s.ringFull x = true ↔ x.recvEntries ≤ (s.ctr (64 * 256 + x.recvSync)).value))))) ∧
  (∀ (s : State) (n k : Nat), s.portOn = true → qpOfWire n = some k → (s.qp k).opened = true →
    let x := s.qp k
    let gone := fun (m : Nat) => { x with out := x.out.drop m, retries := 0, rnrRetries := 0 }
    (∀ psn, x.covered psn = [] → exec (.roceAck n (.ack psn)) s = .next s) ∧
    (∀ psn, x.covered psn ≠ [] → ∃ u, exec (.roceAck n (.ack psn)) s = .next u ∧ u = { s with ctl := u.ctl, ctrs := u.ctrs, qps := u.qps } ∧
      u.qp k = gone (x.covered psn).length ∧ (∀ j, j ≠ k → u.qp j = s.qp j) ∧
      ∀ r, x.covered psn = [r] → u.ctrs = (r.sync.elim s fun c => s.signalService c).ctrs) ∧
    (∀ r rs (bytes : List Byte), x.out = r :: rs → r.read = true → bytes.length = r.len → r.psn < 2 ^ 24 →
      (s.accessErr [] r.place r.len true = none → ∃ u, exec (.roceAck n (.data r.psn bytes)) s = .next u ∧
        u = { s with ctl := u.ctl, ctrs := u.ctrs, mem := u.mem, qps := u.qps, svc := u.svc } ∧ u.readBytes r.place r.len = bytes ∧
        u.qp k = gone 1 ∧ u.ctrs = (r.sync.elim s fun c => s.signalService c).ctrs ∧
        (r.idx ∈ s.svc.asked → r.idx ∈ u.svc.inputs ∧ r.idx ∉ u.svc.asked)) ∧
      (∀ e, s.accessErr [] r.place r.len true = some e → ∃ u, exec (.roceAck n (.data r.psn bytes)) s = .next u ∧
        u = { s with ctl := u.ctl, qps := u.qps, svc := u.svc } ∧ u.qp k = gone 1 ∧ r.idx ∉ u.svc.asked ∧ u.svc.inputs = s.svc.inputs)) ∧
    (∀ r rs psn, x.out = r :: rs → x.covered (psnBefore psn) = [] → x.has r psn = true → ∃ u, exec (.roceAck n (.nak psn)) s = .next u ∧
      u = { s with ctl := u.ctl, qps := u.qps, svc := u.svc } ∧ u.get .ethErrCode = Code.roceRemoteAccess ∧ u.qp k = gone 1 ∧
      u.svc.inputs = s.svc.inputs) ∧
    (∀ psn, x.out ≠ [] → x.covered (psnBefore psn) = [] →
      let limit := x.num 7 1 / 8 % 8
      (limit = 7 ∨ x.rnrRetries < limit → ∃ u, exec (.roceAck n (.rnr psn)) s = .next u ∧
        u = { s with ctl := u.ctl, qps := u.qps, out := s.out ++ x.out.map fun r => r.packet k x } ∧ u.qp k = { x with rnrRetries := x.rnrRetries + 1 } ∧
        u.word (Fld.ethRetransmits.addr 0 0) = bumpWord (s.word (Fld.ethRetransmits.addr 0 0)) 1) ∧
      (limit ≠ 7 → limit ≤ x.rnrRetries → ∃ u, exec (.roceAck n (.rnr psn)) s = .next u ∧ u = { s with ctl := u.ctl, qps := u.qps, svc := u.svc } ∧
        u.qp k = { gone x.out.length with error := true } ∧ u.get .ethErrCode = Code.roceRetryExceeded) ∧
      ∃ u, exec (.roceAck n (.seqNak psn)) s = .next u ∧ exec (.roceRetryTimeout k) s = .next u)) ∧
  (∀ (s : State) (k : Nat),
    let x := s.qp k
    (x.out = [] → exec (.roceRetryTimeout k) s = .next s) ∧
    (x.out ≠ [] → x.retries < x.num 7 1 % 8 → ∃ u, exec (.roceRetryTimeout k) s = .next u ∧
      u = { s with ctl := u.ctl, qps := u.qps, out := s.out ++ x.out.map fun r => r.packet k x } ∧ u.qp k = { x with retries := x.retries + 1 } ∧
      u.word (Fld.ethRetransmits.addr 0 0) = bumpWord (s.word (Fld.ethRetransmits.addr 0 0)) 1) ∧
    (x.out ≠ [] → x.num 7 1 % 8 ≤ x.retries → ∃ u, exec (.roceRetryTimeout k) s = .next u ∧ u = { s with ctl := u.ctl, qps := u.qps, svc := u.svc } ∧
      u.qp k = { x with out := [], retries := 0, rnrRetries := 0, error := true } ∧ u.get .ethErrCode = Code.roceRetryExceeded))

/-- A plan that checks takes effect between steps or waits for the boundary; RUN, PAUSE and STOP move the step driver; STEP_STATUS, LEASE and SVC_CONFIG answer with what is in force. 07_training_dataflow.md R193; 07_training_dataflow.md R194; 12_ethernet_and_services.md R349; 12_ethernet_and_services.md R351; 12_ethernet_and_services.md R352; 12_ethernet_and_services.md R355; 12_ethernet_and_services.md R357. The form in which a plan's graph comes with it is the model's (log 76). -/
def Obligations.StepDriverCommands : Prop :=
  (∀ (s : State) (n q addr report depth : Nat) (g : Graph), s.Serves n 0x0020 →
    let a := s.accept n
    let c := Instr.planLoad n q addr report depth g
    let layers := s.readNat addr 4
    let len := if 65535 < layers then 64 else 64 + 32 * layers
    let p : Plan := { bytes := s.readBytes addr len, addr := addr, report := report, depth := depth, graph := g }
    let err := (s.accessErr [] addr 64 false).orElse fun _ => s.accessErr [] addr len false
    (∀ y, err = some (.unmapped y) → exec c s = .next { a with out := s.out ++ [.reply n 0x0020 q Code.xferUnmapped []] }) ∧
    (∀ e, err = some e → (∀ y, e ≠ .unmapped y) → ∃ u, exec c s = .next u ∧ u = { a with ctl := u.ctl, out := s.out ++ [.reply n 0x0020 q Code.memUe []] }) ∧
    (err = none → a.planCode p ≠ 0 → exec c s = .next { a with out := s.out ++ [.reply n 0x0020 q (a.planCode p) []] }) ∧
    (err = none → a.planCode p = 0 → ∃ u, exec c s = .next u ∧
      (∀ t, t < 64 → t < s.get .capComputeTiles → s.domainOn (domTile t) = true → u.word (Fld.tileNumSeed.addr t 0) = BitVec.ofNat 64 (p.num 24 8)) ∧
      (s.svc.inStep = true → u = { a with ctl := u.ctl, svc := { s.svc with waiting := some p }, out := s.out ++ [.reply n 0x0020 q 0 []] }) ∧
      (s.svc.inStep = false → u.svc.plan = some p ∧ u.svc.waiting = none ∧ u.svc.step = p.num 32 8 ∧ u.svc.lossScale = p.num 12 1 ∧ u.svc.cleanSteps = 0 ∧
        u.svc.fReleased = 0 ∧ u.svc.bReleased = 0 ∧ u.svc.work = [] ∧ u.svc.saves = [] ∧
        u.svc.state = (if s.svc.state = 0 ∨ s.svc.state = 4 then 3 else s.svc.state) ∧
        (s.svc.config = none → ∃ ev, u = { a with ctl := u.ctl, svc := u.svc, out := s.out ++ ev ++ [.reply n 0x0020 q 0 []] })))) ∧
  (∀ (s : State) (n q : Nat), s.Serves n 0x0021 →
    let a := s.accept n
    let done := fun (c : Instr) (v : Svc) => ∃ u ev, exec c s = .next u ∧ u = { a with svc := v, out := s.out ++ ev ++ [.reply n 0x0021 q 0 []] }
    (s.svc.plan = none → (∀ k, done (.stepRun n q k) s.svc) ∧ done (.stepStop n q) s.svc) ∧
    (s.svc.plan ≠ none → s.svc.config = none →
      ∀ k, done (.stepRun n q k) { s.svc with state := if s.svc.lapse then 2 else 1, stepsLeft := if k = 0 then none else some k, pauseWanted := false,
                                              stopWanted := false, stall := false }) ∧
    (s.svc.plan ≠ none → ∀ k, ∃ u, exec (.stepRun n q k) s = .next u ∧ u.svc.state = (if s.svc.lapse then 2 else 1) ∧
      u.svc.stepsLeft = (if k = 0 then none else some k) ∧ u.svc.stall = false ∧ u.svc.plan = s.svc.plan ∧ u.svc.step = s.svc.step ∧ u.mem = s.mem) ∧
    (s.svc.state = 1 ∨ s.svc.state = 2 →
      (s.svc.inStep = true ∨ s.svc.lapse = true → done (.stepPause n q) { s.svc with state := 2, pauseWanted := true }) ∧
      (s.svc.inStep = false → s.svc.lapse = false →
        done (.stepPause n q) { s.svc with state := 3, reason := 0, pauseWanted := false, stopWanted := false, stall := false, lapse := false }) ∧
      (s.svc.inStep = true → s.svc.plan ≠ none → done (.stepStop n q) { s.svc with state := 2, stopWanted := true })) ∧
    (s.svc.state ≠ 1 → s.svc.state ≠ 2 → done (.stepPause n q) s.svc) ∧
    (s.svc.inStep = false ∨ (s.svc.state ≠ 1 ∧ s.svc.state ≠ 2) → s.svc.plan ≠ none →
      (s.svc.waiting = none → s.svc.newConfig = none →
        done (.stepStop n q) { s.svc with plan := none, inStep := false, work := [], counts := [], met := [], saves := [], state := 4, reason := 0,
                                          pauseWanted := false, stopWanted := false, stall := false, lapse := false }) ∧
      (∀ p, s.svc.waiting = some p → ∃ u, exec (.stepStop n q) s = .next u ∧ u.svc.plan = some p ∧ u.svc.waiting = none ∧ u.svc.state = 3))) ∧
  (∀ (s : State) (n q : Nat),
    let a := s.accept n
    (s.Serves n 0x0022 →
      let devs := s.svc.plan.elim [] fun p => s.ringOf p.group
      exec (.stepStatus n q) s = .next { a with free := s.free + 1, out := s.out ++ [.reply n 0x0022 q 0 (leBytes 1 s.svc.state ++ leBytes 1 0 ++ leBytes 2 s.svc.reason ++
        leBytes 4 s.svc.skipped ++ leBytes 8 s.svc.shown ++ leBytes 4 s.leaseLeft ++ leBytes 4 devs.length ++ devs.flatMap s.memberCap)] }) ∧
    (s.Serves n 0x0023 → exec (.lease n q) s = .next { a with svc := { s.svc with leaseRunning := s.cfg 42 2 != 0 }, out := s.out ++ [.reply n 0x0023 q 0 (leBytes 4 (s.cfg 42 2))] }) ∧
    (s.Serves n 0x0024 → ∀ b : List Byte,
      (b.length ≠ 96 → exec (.svcConfig n q b) s = .next { a with out := s.out ++ [.reply n 0x0024 q Code.sesLength []] }) ∧
      (b.length = 96 → configOk b = false → exec (.svcConfig n q b) s = .next { a with out := s.out ++ [.reply n 0x0024 q Code.svcConfigRange []] }) ∧
      (b.length = 96 → configOk b = true → s.svc.inStep = true → ∃ u, exec (.svcConfig n q b) s = .next u ∧
        u = { a with svc := u.svc, out := s.out ++ [.reply n 0x0024 q 0 []] } ∧ u.svc.newConfig = some b ∧ u.svc.config = s.svc.config) ∧
      (b.length = 96 → configOk b = true → s.svc.inStep = false → ∃ u sent, exec (.svcConfig n q b) s = .next u ∧
        u = { a with svc := u.svc, qps := u.qps, out := s.out ++ sent ++ [.reply n 0x0024 q 0 []] } ∧ u.svc.newConfig = none ∧ u.svc.config = some b ∧
        u.svc.leaseRunning = (cfgNum b 42 2 != 0) ∧ (s.svc.state ≠ 1 → sent = []))))

/-- Micro-batches are released in order within the lookahead, with their operations of the graph; a step ends with its loss scale, report and event, and with the pause that was asked for; a stall, a lapsed lease and a failed checkpoint pause with their codes. 07_training_dataflow.md R197; 07_training_dataflow.md R199; 07_training_dataflow.md R204; 07_training_dataflow.md R210; 07_training_dataflow.md R217; 07_training_dataflow.md R218; 07_training_dataflow.md R219; 12_ethernet_and_services.md R350; 12_ethernet_and_services.md R353; 12_ethernet_and_services.md R354; 12_ethernet_and_services.md R356; 12_ethernet_and_services.md R357. That the driver goes on, by `drive`, before and after a release is the model's reading (log 76). -/
def Obligations.StepDriverEvents : Prop :=
  (∀ (s : State) (p : Plan) (k : Nat),
    let d := s.drive
    let joins := fun (r : State) (backward : Bool) =>
      (∀ n ∈ p.graph.nodes, n.backward = backward → n.batch = k → isShard n.role = false → ∃ x ∈ r.svc.work, x.node.id = n.id) ∧
      ∀ x ∈ r.svc.work, x ∈ d.svc.work ∨ (x.node ∈ p.graph.nodes ∧ x.node.backward = backward ∧ x.node.batch = k ∧ x.seq = none)
    d.svc.plan = some p →
    (d.forwardDue p = true → d.inputHere p = true → k = d.svc.fReleased →
      ∃ r, exec (.microBatchRelease false k) s = .next r.drive ∧ r.svc.plan = some p ∧ r.svc.inStep = true ∧ r.svc.fReleased = k + 1 ∧
        r.svc.bReleased = d.svc.bReleased ∧ r.mem = d.mem ∧ joins r false ∧
        (d.svc.inStep = true → r.ctl = d.ctl ∧ r.svc.masks = d.svc.masks) ∧
        (d.svc.inStep = false →
          (∀ t, t < 64 → t < d.get .capComputeTiles → d.domainOn (domTile t) = true → r.get .tileNumEpochEpoch t = d.svc.step % 2 ^ 32) ∧
          (∀ n ∈ p.graph.nodes, ∀ c, n.order = some c → d.idValid c = true → d.idOff c = false → (r.ctr c).value = 0) ∧
          ∀ (i j : Nat) (l : List Byte), p.recs[i]? = some l → recFlag l 3 = true → j < recNum l 24 4 →
            (d.accessErr [] (recNum l 16 8 + 8 * j) 8 false).isNone = true →
            (r.svc.masks.getD i []).getD j 0 = d.readNat (recNum l 16 8 + 8 * j) 8)) ∧
    (d.forwardDue p = false ∨ d.inputHere p = false ∨ k ≠ d.svc.fReleased → exec (.microBatchRelease false k) s = .next d.drive) ∧
    (d.svc.inStep = true → d.svc.state = 1 ∨ d.svc.state = 2 → d.svc.bReleased < d.svc.fReleased → k = d.svc.bReleased → d.partOver false k = true →
      ∃ r, exec (.microBatchRelease true k) s = .next r.drive ∧ r.svc.bReleased = k + 1 ∧ r.svc.fReleased = d.svc.fReleased ∧ joins r true ∧
        (d.svc.stall = false ∨ k + 1 ≠ d.svc.fReleased → r = { d with svc := { d.svc with bReleased := k + 1, work := r.svc.work } }) ∧
        (d.svc.stall = true → k + 1 = d.svc.fReleased → r.svc.state = 3 ∧ r.svc.reason = Code.svcInputStall ∧ r.svc.stall = false ∧ r.rel.alert = true)) ∧
    (d.svc.inStep = false ∨ (d.svc.state ≠ 1 ∧ d.svc.state ≠ 2) ∨ d.svc.fReleased ≤ d.svc.bReleased ∨ k ≠ d.svc.bReleased ∨ d.partOver false k = false →
      exec (.microBatchRelease true k) s = .next d.drive)) ∧
  (∀ (s : State) (p : Plan), s.svc.plan = some p →
    (s.forwardDue p = true → s.inputHere p = false →
      (s.svc.bReleased ≠ s.svc.fReleased → exec .svcInputStall s = .next { s with svc := { s.svc with stall := true, state := 2 } }) ∧
      (s.svc.bReleased = s.svc.fReleased → ∃ u, exec .svcInputStall s = .next u ∧
        u = { s with free := u.free, mem := u.mem, rel := u.rel, svc := u.svc, out := u.out } ∧ u.svc.state = 3 ∧ u.svc.reason = Code.svcInputStall ∧
        u.rel.alert = true ∧ (s.svc.lapse = false → s.Logged u Code.svcInputStall unitModule))) ∧
    (s.inputHere p = true ∨ s.forwardDue p = false → exec .svcInputStall s = .next s)) ∧
  (∀ (s : State) (p : Plan),
    let d := s.drive
    let n := d.svc.step
    d.svc.plan = some p → d.svc.inStep = true → d.stepOver p = true → d.svc.state = 1 ∨ d.svc.state = 2 → d.svc.config = none →
    d.svc.waiting = none → d.svc.newConfig = none →
    let skip := d.skips p
    ∃ u, exec .stepEnd s = .next u ∧ u.svc.last = n ∧ u.svc.step = (n + 1) % 2 ^ 64 ∧ u.svc.inStep = false ∧ u.svc.fReleased = 0 ∧ u.svc.bReleased = 0 ∧
      u.svc.nonfinite = [] ∧ u.svc.skipped = d.svc.skipped + (if skip then 1 else 0) ∧
      (p.fp16 = false → u.svc.lossScale = 0) ∧ (p.fp16 = true → skip = true → u.svc.lossScale = d.svc.lossScale - 1 ∧ u.svc.cleanSteps = 0) ∧
      (p.fp16 = true → skip = false → d.svc.cleanSteps + 1 = p.num 14 2 → u.svc.lossScale = min (d.svc.lossScale + 1) 24 ∧ u.svc.cleanSteps = 0) ∧
      (p.fp16 = true → skip = false → d.svc.cleanSteps + 1 ≠ p.num 14 2 → u.svc.lossScale = d.svc.lossScale ∧ u.svc.cleanSteps = d.svc.cleanSteps + 1) ∧
      (skip = true → d.svc.folds = [] → d.svc.reports = [] → ∀ e ∈ s.sessions, e.2.opened = true → e.2.mask.testBit 1 = true →
        Output.event e.1 1 Code.rdcNonfinite n (p.entryAddr n) ∈ u.out) ∧
      (d.svc.lapse = true → u.svc.state = 3 ∧ u.svc.reason = Code.svcLeaseLapsed ∧ u.rel.alert = true) ∧
      (d.svc.lapse = false → d.svc.stopWanted = true → u.svc.state = 4 ∧ u.svc.plan = none) ∧
      (d.svc.lapse = false → d.svc.stopWanted = false → (d.svc.pauseWanted = true ∨ d.svc.stepsLeft = some 1 ∨ d.svc.stepsLeft = some 0) →
        u.svc.state = 3 ∧ u.svc.plan = some p) ∧
      (d.svc.lapse = false → d.svc.stopWanted = false → d.svc.pauseWanted = false → d.svc.stepsLeft = none → u.svc.state = d.svc.state ∧ u.svc.plan = some p)) ∧
  (∀ s : State,
    let d := s.drive
    (d.svc.plan = none ∨ d.svc.inStep = false ∨ (∃ p, d.svc.plan = some p ∧ d.stepOver p = false) ∨ (d.svc.state ≠ 1 ∧ d.svc.state ≠ 2)) →
    exec .stepEnd s = .next d) ∧
  (∀ (s : State) (r : StepReport) (e : Nat), (∀ f ∈ s.svc.folds, f.step = r.step → f.reducing = true) → e < r.plan.layers →
    (∀ x y, x < r.plan.layers → y < r.plan.layers → recNum (r.plan.layer x) 28 4 = recNum (r.plan.layer y) 28 4 → x = y) →
    let a := r.plan.entryAddr r.step + 64 * recNum (r.plan.layer e) 28 4
    s.accessErr [] a 64 true = none →
    (s.publish r).readBytes a 64 =
      leBytes 4 (recNum (r.plan.layer e) 0 4) ++ leBytes 4 (r.step % 2 ^ 32) ++ countBytes r.counts (recFlag (r.plan.layer e) 1) e ++ leBytes 12 0) ∧
  (∀ (s : State) (t : FlushTarget) (i j : Nat), i < 1024 → j < 1024 → s.svc.masks.getD t.entry [] ≠ [] →
    ((s.svc.masks.getD t.entry []).getD t.word 0).testBit (8 * (i / 128) + j / 128) = false → s.deltaOf t (1024 * i + j) = 0) ∧
  (∀ s : State,
    (s.svc.leaseRunning = false → exec .svcLeaseLapsed s = .next s) ∧
    (s.svc.leaseRunning = true → s.svc.plan = none → exec .svcLeaseLapsed s = .next { s with svc := { s.svc with leaseRunning := false } }) ∧
    (s.svc.leaseRunning = true → s.svc.plan ≠ none → s.svc.inStep = true → s.svc.state = 1 ∨ s.svc.state = 2 →
      exec .svcLeaseLapsed s = .next { s with svc := { s.svc with leaseRunning := false, lapse := true, state := 2 } }) ∧
    (s.svc.leaseRunning = true → s.svc.plan ≠ none → s.svc.inStep = false ∨ (s.svc.state ≠ 1 ∧ s.svc.state ≠ 2) →
      (s.cfg 3 1 ≠ 1 → ∃ u, exec .svcLeaseLapsed s = .next u ∧
        u = { s with free := u.free, mem := u.mem, rel := u.rel, svc := u.svc, out := u.out } ∧ u.svc.state = 3 ∧ u.svc.reason = Code.svcLeaseLapsed ∧
        u.rel.alert = true ∧ s.Logged u Code.svcLeaseLapsed unitModule) ∧
      (s.cfg 3 1 = 1 → s.svc.checkpoint = true → exec .svcLeaseLapsed s = .next { s with
        svc := { s.svc with leaseRunning := false, state := if s.svc.state = 1 then 2 else s.svc.state, pausing := some Code.svcLeaseLapsed } }) ∧
      (s.cfg 3 1 = 1 → s.svc.checkpoint = false →
        let m := s.cfg 40 2
        m ≠ 0xFFFF → (s.qp m).opened = true → (s.qp m).error = false → Config.freeNat s.free ≤ s.cfg 80 8 → ∃ u r, exec .svcLeaseLapsed s = .next u ∧
          u.svc.checkpoint = true ∧ u.svc.pausing = some Code.svcLeaseLapsed ∧ u.svc.state = (if s.svc.state = 1 then 2 else s.svc.state) ∧
          (u.qp m).out = (s.qp m).out ++ [r] ∧ r.read = false ∧ r.len = Config.freeNat s.free ∧ u.out = s.out ++ [r.packet m (s.qp m)] ∧ u.mem = s.mem))) ∧
  (∀ (s : State) (ok : Bool), (s.svc.checkpoint = false → exec (.checkpointDone ok) s = .next s) ∧
    (s.svc.checkpoint = true → ∃ u, exec (.checkpointDone ok) s = .next u ∧ u.svc.checkpoint = false ∧ u.svc.pausing = none ∧
      (u.qp (s.cfg 40 2)).out = (s.qp (s.cfg 40 2)).out.filter RoceReq.read ∧
      (s.svc.pausing = none → u = { s with qps := u.qps, svc := u.svc, out := u.out }) ∧
      (s.svc.pausing ≠ none → u.rel.alert = true) ∧
      (ok = true → s.svc.pausing = none → u.svc = { s.svc with checkpoint := false, pausing := none }) ∧
      (ok = true → s.svc.pausing ≠ none → s.svc.plan ≠ none → u.svc.state = 3 ∧ u.svc.reason = Code.svcLeaseLapsed) ∧
      (ok = false → s.svc.plan ≠ none → u.svc.state = 3 ∧ u.svc.reason = Code.svcCkptFail))) ∧
  (∀ s : State,
    (s.svc.config ≠ none → s.cfg 64 2 ≠ 0 → s.portOn = true →
      exec .healthDatagram s = .next { s with svc := { s.svc with healthSeq := (s.svc.healthSeq + 1) % 2 ^ 32 }, out := s.out ++ [.datagram s.healthBytes] } ∧
      s.healthBytes.take 4 = [0x48, 0x4C] ++ leBytes 1 s.rel.mode.num ++ leBytes 1 s.svc.state) ∧
    (s.svc.config = none ∨ s.cfg 64 2 = 0 ∨ s.portOn = false → exec .healthDatagram s = .next s))

/-- The report is signed over the caller's nonce; keys rotate once a session under a proof of the new key; images, banks and signed records are taken only when their checks pass. 15_startup_and_security.md R428; 15_startup_and_security.md R430; 15_startup_and_security.md R431; 15_startup_and_security.md R432; 15_startup_and_security.md R433; 15_startup_and_security.md R438; 15_startup_and_security.md R439; 15_startup_and_security.md R440; 15_startup_and_security.md R441; 15_startup_and_security.md R442. Whether a signature checks is open in the model (log 10): those cases are stated by a case distinction. -/
def Obligations.SecurityCommands : Prop :=
  ∀ (s : State) (n q : Nat),
    let a := s.accept n
    let done := fun (c : Instr) (op code : Nat) (body : List Byte) (p : State → Prop) => ∃ u, exec c s = .next u ∧ u.out = s.out ++ [.reply n op q code body] ∧
      u.get .attStatusCode = code ∧ u.mem = s.mem ∧ u.ctrs = s.ctrs ∧ p u
    let keeps := fun (u : State) => u.journal = s.journal
    (s.Serves n 0x0050 → ∀ nonce : List Byte,
      (s.identityOk = true → done (.attReport n q nonce) 0x0050 0 (a.reportHead nonce ++ fit 17088 (Config.sign s.journal.devicePrivate (a.reportHead nonce))) (fun u =>
        keeps u ∧ u.word (Fld.attReports.addr 0 0) = bumpWord (s.word (Fld.attReports.addr 0 0)) 1 ∧ ((a.reportHead nonce).drop 32).take 32 = fit 32 nonce)) ∧
      (s.identityOk = false → done (.attReport n q nonce) 0x0050 Code.attIdentityFail [] keeps)) ∧
    (s.Serves n 0x0051 →
      (s.identityOk = true → done (.attIdentity n q) 0x0051 0 (s.identityHead ++ sha256 s.identityHead ++ leBytes 2 0 ++ fit 7856 s.journal.identitySig) keeps) ∧
      (s.identityOk = false → done (.attIdentity n q) 0x0051 Code.attIdentityFail [] keeps)) ∧
    (s.Serves n 0x0052 → ∀ (slot : Nat) (masked tag : List Byte),
      let k := (s.session n).offered slot masked
      (7 < slot → done (.keyRotate n q slot masked tag) 0x0052 Code.keySlotRange [] keeps) ∧
      (slot ≤ 7 → slot ∈ (s.session n).rotated → done (.keyRotate n q slot masked tag) 0x0052 Code.keyReuse [] keeps) ∧
      (slot ≤ 7 → slot ∉ (s.session n).rotated → (s.session n).tagOk slot k tag = false → done (.keyRotate n q slot masked tag) 0x0052 Code.keyTag [] (fun u =>
        keeps u ∧ slot ∈ (u.session n).rotated)) ∧
      (slot ≤ 7 → slot ∉ (s.session n).rotated → (s.session n).tagOk slot k tag = true → done (.keyRotate n q slot masked tag) 0x0052 0 [] (fun u =>
        u.sessionKey slot = some k ∧ (∀ i, i ≠ slot → u.sessionKey i = s.sessionKey i) ∧ slot ∈ (u.session n).rotated))) ∧
    (s.Serves n 0x0053 → ∀ slot : Nat,
      (7 < slot → done (.keyClear n q slot) 0x0053 Code.keySlotRange [] keeps) ∧
      (slot ≤ 7 → s.keyed = 2 ^ slot → done (.keyClear n q slot) 0x0053 Code.keyLast [] keeps) ∧
      (slot ≤ 7 → s.keyed ≠ 2 ^ slot → done (.keyClear n q slot) 0x0053 0 [] (fun u => u.sessionKey slot = none ∧ ∀ i, i ≠ slot → u.sessionKey i = s.sessionKey i))) ∧
    (s.Serves n 0x0054 → ∀ x : Nat,
      (s.journal.trial = true → done (.fwStage n q x) 0x0054 Code.fwTrial [] keeps) ∧
      (s.journal.trial = false → ∃ u, exec (.fwStage n q x) s = .next u ∧ u.mem = s.mem ∧
        match (a.imageBank (s.imageAt x)).refusal s.journal.minSvn false with
        | some c => u.out = s.out ++ [.reply n 0x0054 q c []] ∧ keeps u
        | none => u.out = s.out ∧ u.journal.staging = some (1 - s.journal.bank, a.imageBank (s.imageAt x), n, q) ∧ (u.bank (1 - s.journal.bank)).formatOk = false ∧
            u.bank s.journal.bank = s.bank s.journal.bank)) ∧
    (∀ (b : Nat) (x : Bank), s.journal.staging = some (b, x, n, q) → (s.session n).live = true → done (.fwStageDone n q) 0x0054 0 (leBytes 1 b ++ leBytes 3 0 ++ leBytes 4 x.svn)
      (fun u => u.bank b = x ∧ (∀ i, i ≠ b → u.bank i = s.bank i) ∧ u.journal.staging = none)) ∧
    (s.Serves n 0x0055 → ∀ b : Nat,
      (1 < b ∨ s.bankRefusal b ≠ none → done (.fwActivate n q b) 0x0055 Code.fwBankInvalid [] keeps) ∧
      (b ≤ 1 → s.bankRefusal b = none → done (.fwActivate n q b) 0x0055 0 [] (fun u => u.journal = { s.journal with bank := b, trial := true, trialFailed := false }))) ∧
    (s.Serves n 0x0056 → ∀ x : Nat, (s.memRefusal [] x (recordLen 64) false).2 = 0 →
      let ok := s.networkOk (s.readBytes x (recordLen 64))
      done (.netSet n q x) 0x0056 (if ok then 0 else Code.netRecord) [] (fun u =>
        u.journal = { s.journal with networkNext := if ok then some (s.readBytes x (recordLen 64)) else s.journal.networkNext })) ∧
    (s.Serves n 0x0056 → ∀ x : Nat, (s.memRefusal [] x (recordLen 64) false).2 ≠ 0 →
      done (.netSet n q x) 0x0056 (s.memRefusal [] x (recordLen 64) false).2 [] keeps) ∧
    (s.Serves n 0x0057 → ∃ u, exec (.bootClear n q) s = .next u ∧ .reply n 0x0057 q 0 [] ∈ u.out ∧ u.journal.count = 0 ∧ u.rel.mode = .starting ∧
      u.boot = { stage := 1, running := true } ∧ u.journal.startSeq = (s.journal.startSeq + 1) % 2 ^ 32) ∧
    (s.Serves n 0x0058 → ∀ x : Nat, (s.memRefusal [] x (recordLen 48) false).2 ≠ 0 →
      done (.vkeySet n q x) 0x0058 (s.memRefusal [] x (recordLen 48) false).2 [] keeps) ∧
    (s.Serves n 0x0058 → ∀ x : Nat, (s.memRefusal [] x (recordLen 48) false).2 = 0 →
      let r := recordOf (s.readBytes x (recordLen 48))
      let key := (r.body.drop 16).take 32
      let slot := leNat (r.body.take 1)
      done (.vkeySet n q x) 0x0058 ((s.vkeyRefusal r).getD 0) [] (fun u => (∀ i, i ≠ slot → u.vkey i = s.vkey i) ∧
        u.vkey slot = (if (s.vkeyRefusal r).isSome then s.vkey slot else if key.all (· == 0) then none else some key) ∧ ((s.vkeyRefusal r).isSome = true → keeps u)))

/-- A sag, a thermal trip and reset-in take the module into hold with every link dark and every domain off; the first two save what R367 names first; a stable input begins a cold start. 13_power_and_thermal.md R362; 13_power_and_thermal.md R363; 13_power_and_thermal.md R365; 13_power_and_thermal.md R366; 13_power_and_thermal.md R367; 13_power_and_thermal.md R369; 13_power_and_thermal.md R381; 16_electrical_and_mechanical.md R451; 14_reliability_and_recovery.md R417. -/
def Obligations.InputAndHolds : Prop :=
  (let held := fun (s u : State) (h : Hold) => u.power.hold = h ∧ u.power.domains = 0 ∧ u.rel.mode = .starting ∧ u.boot.running = false ∧ u.sessions = [] ∧ u.turns = [] ∧ u.tiles = [] ∧
      u.ctrs = [] ∧ u.blend.inForce = none ∧ (∀ l, (u.link l).state = .off) ∧ u.pins.resetLow = s.pins.resetLow
   (∀ (s : State) (full : Bool), s.power.hold = .none →
      ∃ u, exec (.inputSag full) s = .next u ∧ held s u .input ∧ u.rel.alert = true ∧
        (s.rel.mode = .ready → ∃ i, u.journal.save = some i ∧ i.complete = full ∧ i.reason = 0 ∧ i.step = s.svc.step ∧ i.lossScale = s.svc.lossScale) ∧
        (s.rel.mode = .starting ∨ s.rel.mode = .safe → u.journal.save = s.journal.save)) ∧
   (∀ (s : State) (unit : Nat) (full : Bool), s.powered = true → unitValid unit = true → unitKind unit ∈ [2, 3, 5] →
      ∃ u, exec (.pwrThermalTrip unit full) s = .next u ∧ held s u .thermalTrip ∧ u.rel.alert = true ∧
        (s.rel.mode = .ready → ∃ i, u.journal.save = some i ∧ i.complete = full ∧ i.reason = 1 ∧ i.step = s.svc.step)) ∧
   (∀ s : State, s.power.hold ≠ .input → s.power.hold ≠ .resetIn →
      ∃ u, exec .resetInLow s = .next u ∧ held { s with pins := { s.pins with resetLow := true } } u .resetIn ∧ u.journal.save = s.journal.save)) ∧
  (∀ (s : State) (full : Bool),
    (s.power.hold = .resetIn → exec (.inputSag full) s = .next s) ∧
    (s.power.hold ≠ .none → s.power.hold ≠ .resetIn → exec (.inputSag full) s = .next { s with power := { s.power with hold := .input } }) ∧
    (s.power.hold = .input ∨ s.power.hold = .resetIn → exec .resetInLow s = .next { s with pins := { s.pins with resetLow := true } }) ∧
    (s.power.hold ≠ .resetIn → exec .resetInRise s = .next { s with pins := { s.pins with resetLow := false } }) ∧
    (s.power.hold ≠ .input → exec .inputStable s = .next s) ∧
    (s.power.hold = .input → s.pins.resetLow = true → exec .inputStable s = .next { s with power := { s.power with hold := .resetIn } })) ∧
  (∀ (s : State) (c : Instr), (c = .inputStable ∧ s.power.hold = .input ∧ s.pins.resetLow = false) ∨ (c = .resetInRise ∧ s.power.hold = .resetIn) →
    ∃ u, exec c s = .next u ∧ u.boot = { stage := 1, running := true } ∧ u.power.hold = .none ∧ u.rel.mode = .starting ∧ u.pins.resetLow = false ∧
      u.journal.startSeq = (s.journal.startSeq + 1) % 2 ^ 32 ∧ u.domainOn domService = true ∧ u.domainOn domJournal = true ∧ ∀ d, d < 109 → u.domainOn d = false) ∧
  (∀ (s : State) (c : Instr) (code : Nat), (c, code) ∈ [(Instr.pwrOvervoltage, Code.pwrOvervoltage), (.pwrHoldupAbsent, Code.pwrHoldupAbsent), (.pwrEnvelopeLost, Code.pwrEnvelopeLost)] →
    (s.powered = false → exec c s = .next s) ∧
    (s.powered = true → ∃ u, exec c s = .next u ∧ u = { s with free := u.free, ctl := u.ctl, mem := u.mem, rel := u.rel, out := u.out } ∧ u.rel.alert = true ∧
      s.Logged u code unitModule ∧ u.get .pwrErrCode = code))

/-- The cap loop moves the throttle index by one step toward the cap within the profile's range; the envelope, inserted duty, thermal throttle and CAP_STATE follow their rules. 13_power_and_thermal.md R372; 13_power_and_thermal.md R373; 13_power_and_thermal.md R374; 13_power_and_thermal.md R375; 13_power_and_thermal.md R376; 13_power_and_thermal.md R377; 13_power_and_thermal.md R378; 13_power_and_thermal.md R379; 13_power_and_thermal.md R380; 13_power_and_thermal.md R381. -/
def Obligations.PowerCap : Prop :=
  (∀ (s : State) (w : Nat), (s.powered = false → exec (.capLoop w) s = .next s) ∧
    (s.powered = true →
      let r := profileRange (s.get .pwrCtlProfile)
      let i := s.index
      ∃ u, exec (.capLoop w) s = .next u ∧ u.power.achievedW = w ∧ u.dies = s.dies ∧ u.tiles = s.tiles ∧ u.power.thermal = s.power.thermal ∧
        (s.capInForce < w → i < r.2 → u.power.index = i + 1) ∧ (s.capInForce < w → i = r.2 → u.power.index = i ∧ u.power.unmet = true) ∧
        (100 * w < 98 * s.capInForce → r.1 < i → s.power.thermal = [] → u.power.index = i - 1) ∧
        (w ≤ s.capInForce → 98 * s.capInForce ≤ 100 * w → u.power.index = i) ∧ (w ≤ s.capInForce → s.power.thermal ≠ [] → u.power.index = i) ∧
        (w < s.capInForce → 99 ≤ s.power.under → u.power.unmet = false) ∧ r.1 ≤ u.power.index ∧ u.power.index ≤ r.2)) ∧
  (∀ (s : State) (duty : Nat), (s.powered = false ∨ duty = 0 ∨ 1024 ≤ duty → exec (.envelopePeriod duty) s = .next s) ∧
    (s.powered = true → 0 < duty → duty < 1024 →
      let w := (4800 * duty + 1024) / 2048
      (s.get .capPowerCapMin ≤ w → exec (.envelopePeriod duty) s = .next { s with power := { s.power with envSideband := w } }) ∧
      (w < s.get .capPowerCapMin → ∃ u, exec (.envelopePeriod duty) s = .next u ∧ u = { s with ctl := u.ctl } ∧ u.get .pwrErrCode = Code.capInfeasible))) ∧
  (∀ (s : State) (v : W64),
    (s.get .capPowerCapMin ≤ fieldOf v 15 0 → ∃ u, exec (.pwrEnvelopeWrite v) s = .next u ∧ u = { s with ctl := u.ctl } ∧ u.get .pwrEnvelopeW = fieldOf v 15 0 ∧
      ∀ x, x ≠ Fld.pwrEnvelopeW.addr 0 0 → u.word x = s.word x) ∧
    (fieldOf v 15 0 < s.get .capPowerCapMin → ∃ u, exec (.pwrEnvelopeWrite v) s = .next u ∧ u = { s with ctl := u.ctl } ∧ u.get .pwrErrCode = Code.capInfeasible ∧
      u.get .pwrEnvelopeW = s.get .pwrEnvelopeW)) ∧
  (∀ (s : State) (slot : Nat), ∃ u, exec (.insertedDutySlot slot) s = .next u ∧ u = { s with tiles := u.tiles, dies := u.dies } ∧
    (∀ t, t < 64 → u.tile t = { s.tile t with dutyStopped := decide ((slot % 16 + 16 - t % 16) % 16 < s.dutyOf (s.tileIndex t)) }) ∧
    ∀ d, d < 32 → u.die d = { s.die d with dutyStopped := decide ((slot % 16 + 16 - d % 16) % 16 < s.dutyOf (s.tileIndex d)) }) ∧
  (∀ (s : State) (i : Nat), s.powered = true →
    (i < 4 → ∃ u, exec (.pwrThermalThrottle (unitPress i)) s = .next u ∧
      u = { s with free := u.free, ctl := u.ctl, mem := u.mem, rel := u.rel, power := { s.power with thermal := u.power.thermal } } ∧
      smGet (fun _ => 0) u.power.thermal i =
        min (profileRange (s.get .pwrCtlProfile)).2 (max (smGet (fun _ => 0) s.power.thermal i + 1) (s.index + 1)) ∧
      (∀ j, j ≠ i → smGet (fun _ => 0) u.power.thermal j = smGet (fun _ => 0) s.power.thermal j) ∧
      (smGet (fun _ => 0) s.power.thermal i = 0 → s.Logged u Code.pwrThermalThrottle (unitPress i))) ∧
    (i < 32 → exec (.pwrThermalThrottle (unitCask i)) s = .next (s.setDie i { s.die i with limit := max 1 (min s.caskLimit (s.die i).limit / 2) }))) ∧
  (∀ (s s1 : State) (l : Nat) (m : Msg), s.takeDelivered l msgCapState = some (m, s1) →
    let a := sramBase + s.get .pwrPeerCfgOffset + 8 * (m.src % 16384)
    ∃ u, exec (.capState l) s = .next u ∧ u = { s1 with mem := u.mem, links := u.links, power := u.power } ∧
      smGet (fun _ => (0, 0)) u.power.capSeen m.src = (m.num 0 2, m.num 4 2) ∧ smGet (fun _ => none) u.power.peerCaps m.src = some (m.num 6 2) ∧
      (s.get .pwrPeerCfgEnable = 1 → u.readBytes a (m.payload.take 8).length = m.payload.take 8 ∧ ∀ x, x < a ∨ a + (m.payload.take 8).length ≤ x → u.readByte x = s.readByte x) ∧
      (s.get .pwrPeerCfgEnable ≠ 1 → u.mem = s.mem) ∧
      (smGet (fun _ => none) s.power.peerCaps m.src = some (m.num 6 2) → u.links = s.links) ∧
      (smGet (fun _ => none) s.power.peerCaps m.src ≠ some (m.num 6 2) → ∀ d, s.capOnward l m.src = [d] → s1.Sends u { m with dest := d }))

/-- Ballast energy, droops and attribution are counted as their rules say, and an interval's records account for exactly the energy measured. 13_power_and_thermal.md R382; 13_power_and_thermal.md R383; 13_power_and_thermal.md R384; 13_power_and_thermal.md R391; 13_power_and_thermal.md R392. -/
def Obligations.EnergyAndDroop : Prop :=
  (∀ (s : State) (w bmax t : Nat), (s.powered = false → exec (.ballastUpdate w bmax t) s = .next s) ∧
    (s.powered = true →
      let f := s.get .pwrBallastFloorW
      let t0 := if w < f ∧ s.power.wasAbove = true then some t else s.power.fellAt
      let unit := 1000 * s.get .pwrBallastRampMs
      let rest := t0.elim 0 fun x => f * (unit - (t - x))
      let b := min (rest - w * unit) (min ((s.capInForce - w) * unit) (bmax * unit))
      let a := Fld.pwrBallastUj.addr 0 0
      ∃ u, exec (.ballastUpdate w bmax t) s = .next u ∧
        u = { s with ctl := u.ctl, power := { s.power with fellAt := t0, wasAbove := decide (f ≤ w), rampOn := decide (0 < rest) } } ∧
        u.word a = s.word a + BitVec.ofNat 64 (b * 100 / unit) ∧ ∀ x, x ≠ a → u.word x = s.word x)) ∧
  (∀ (s : State) (i : Nat),
    (s.domainOn (domTile i) = true → ∃ u, exec (.droopTrip false i) s = .next u ∧ u = { s with free := u.free, ctl := u.ctl, tiles := u.tiles, hkc := u.hkc } ∧
      u.tile i = { s.tile i with halfClock := true } ∧ u.word (Fld.pwrDroopEvents.addr 0 0) = bumpWord (s.word (Fld.pwrDroopEvents.addr 0 0)) 1) ∧
    (s.domainOn (domCask i) = true → ∃ u, exec (.droopTrip true i) s = .next u ∧ u = { s with free := u.free, ctl := u.ctl, dies := u.dies, hkc := u.hkc } ∧
      u.die i = { s.die i with droopHold := true } ∧ u.word (Fld.pwrDroopEvents.addr 0 0) = bumpWord (s.word (Fld.pwrDroopEvents.addr 0 0)) 1) ∧
    exec (.droopRecover false i) s = .next (s.setTile i { s.tile i with halfClock := false }) ∧
    exec (.droopRecover true i) s = .next (s.setDie i { s.die i with droopHold := false })) ∧
  (∀ (s : State) (xs : List AttrShare) (uj : Nat) (c : Instr) (mark : Bool), (c = .attrInterval xs uj ∧ mark = false) ∨ (c = .pwrAttrMark xs uj ∧ mark = true) → s.powered = true →
    let ys := attrShares xs
    let recs := attrRecords ys uj s.power.interval ++ [attrRecord 0xFFFC (if mark then 1 else 0) 1 s.power.interval uj (ys.map AttrShare.modelUj).sum]
    let size := 2 ^ s.get .pwrAttrCfgSizeLog2
    let w := s.get .pwrAttrPtrWptr
    let a := sramBase + s.get .pwrAttrCfgOffset + w % size
    ∃ u, exec c s = .next u ∧ u.power = { s.power with interval := (s.power.interval + 1) % 2 ^ 32 } ∧
      u.word (Fld.pwrEnergyModelUj.addr 0 0) = s.word (Fld.pwrEnergyModelUj.addr 0 0) + BitVec.ofNat 64 (ys.map AttrShare.modelUj).sum ∧
      (s.get .pwrAttrCfgSizeLog2 = 0 → u = { s with ctl := u.ctl, power := u.power }) ∧
      (s.get .pwrAttrCfgSizeLog2 ≠ 0 → (w + 2 ^ 32 - s.get .pwrAttrPtrRptr) % 2 ^ 32 + 16 * recs.length ≤ size → w % size + 16 * recs.length ≤ size → w + 16 * recs.length < 2 ^ 32 →
        u = { s with ctl := u.ctl, mem := u.mem, power := u.power, ctrs := u.ctrs } ∧ u.readBytes a (16 * recs.length) = recs.flatten ∧
        u.get .pwrAttrPtrWptr = w + 16 * recs.length ∧ ∀ x, x < a ∨ a + 16 * recs.length ≤ x → u.readByte x = s.readByte x)) ∧
  (∀ (xs : List AttrShare) (uj n : Nat), uj < 2 ^ 32 → ((attrRecords (attrShares xs) uj n).map fun r => leNat ((r.drop 8).take 4)).sum = uj) ∧
  (∀ (s : State) (m n : Nat), s.powered = true →
    (20 * ((m : Int) - n).natAbs ≤ m → exec (.pwrAttrDrift m n) s = .next s) ∧
    (m < 20 * ((m : Int) - n).natAbs → ∃ u, exec (.pwrAttrDrift m n) s = .next u ∧ u = { s with free := u.free, ctl := u.ctl, mem := u.mem, rel := u.rel } ∧
      s.Logged u Code.pwrAttrDrift unitModule ∧ u.get .pwrErrCode = Code.pwrAttrDrift))

/-- A scan delivers each channel's code and the input energy, a ring entry is written or dropped whole, the DAC test reports which outputs are off, and a read pointer never passes the write pointer. 13_power_and_thermal.md R381; 13_power_and_thermal.md R385; 13_power_and_thermal.md R386; 13_power_and_thermal.md R387; 13_power_and_thermal.md R388; 13_power_and_thermal.md R389; 13_power_and_thermal.md R396. -/
def Obligations.HousekeepingConverter : Prop :=
  (∀ (s : State) (codes : List Int) (uj : Nat), s.powered = true → s.rel.slice = none → s.get .hkcTestStatusState ≠ 1 → s.hkc.abandoned = none → s.get .hkcRingCfgSizeLog2 = 0 →
    ∃ u, exec (.hkcScan codes uj) s = .next u ∧
      (∀ c, c < 64 → u.word (Fld.hkcLastCode.addr 0 c) = BitVec.ofNat 64 (unsigned 16 (codes.getD c 0) + s.hkc.scan % 2 ^ 32 * 2 ^ 32)) ∧
      u.word (Fld.pwrEnergyInUj.addr 0 0) = s.word (Fld.pwrEnergyInUj.addr 0 0) + BitVec.ofNat 64 uj ∧ u.hkc.scan = s.hkc.scan + 1 ∧ u.hkc.sram = s.hkc.sram ∧
      fieldOf (u.word (Fld.hkcConversions.addr 0 0)) 47 0 = (fieldOf (s.word (Fld.hkcConversions.addr 0 0)) 47 0 + 64) % 2 ^ 48 ∧
      (∀ d, d < 32 → (u.die d).temp = -640 + 5 * (unsigned 16 (codes.getD (4 + d) 0) : Int) / 8) ∧
      ∀ p, p < 4 → unsigned 16 (codes.getD p 0) < 2608 → smGet (fun _ => 0) u.power.thermal p = 0) ∧
  (∀ (s : State) (x : HkcSample),
    let size := 2 ^ s.get .hkcRingCfgSizeLog2
    let w := s.get .hkcRingPtrWptr
    let used := (w + 2 ^ 32 - s.get .hkcRingPtrRptr) % 2 ^ 32
    s.get .hkcRingCfgSizeLog2 ≠ 0 → s.hkc.scan % 2 ^ s.get .hkcCtlDiv = 0 → (s.get .hkcRingMask).testBit x.ch = true →
    (size < used + 4 → s.hkcRing x = s.bump .hkcRingDrops) ∧
    (used + 4 ≤ size → s.get .hkcRingWmWatermark = 0 → s.hkcRing x = { s with ctl := (s.hkcRing x).ctl, hkc := { s.hkc with sram := (s.hkcRing x).hkc.sram } } ∧
      (s.hkcRing x).get .hkcRingPtrWptr = (w + 4) % 2 ^ 32 ∧
      ∀ j, (s.hkcRing x).hkcByte j = if s.get .hkcRingCfgBase + w % size ≤ j ∧ j < s.get .hkcRingCfgBase + w % size + 4
        then (leBytes 4 (x.entry (s.get .hkcCtlLeft == 1) s.hkc.scan)).getD (j - (s.get .hkcRingCfgBase + w % size)) 0 else s.hkcByte j)) ∧
  (∀ (s : State) (w : W64), s.powered = true → fieldOf w 0 0 = 1 → s.get .hkcTestStatusState ≠ 1 →
    ∃ u, exec (.hkcTest w) s = .next u ∧ u = { s with ctl := u.ctl } ∧ u.get .hkcTestStatusState = 1 ∧ u.get .hkcTestStatusFailed = 0) ∧
  (∀ (s : State) (rs : List DacReading), (s.get .hkcTestStatusState ≠ 1 → exec (.hkcTestDone rs) s = .next s) ∧
    (s.get .hkcTestStatusState = 1 → ∃ u, exec (.hkcTestDone rs) s = .next u ∧ u = { s with free := u.free, ctl := u.ctl, mem := u.mem, rel := u.rel, out := u.out } ∧
      (∀ i, i < 3 → (u.get .hkcTestStatusFailed).testBit i = rs.any fun r => r.unit == 56 + i && hkcTestBad r) ∧
      (u.get .hkcTestStatusFailed = 0 → u.get .hkcTestStatusState = 2 ∧ u.rel = s.rel ∧ u.mem = s.mem) ∧
      (u.get .hkcTestStatusFailed ≠ 0 → u.get .hkcTestStatusState = 3 ∧ s.Logged u Code.hkcTestFail unitHkc ∧ u.rel.alert = true))) ∧
  (∀ (s : State) (v : W64), s.domainOn domHkc = true →
    (2 ^ s.get .hkcRingCfgSizeLog2 < (s.get .hkcRingPtrWptr + 2 ^ 32 - fieldOf v 63 32) % 2 ^ 32 → ∃ u, exec (.hkcRingRptrWrite v) s = .next u ∧ u = { s with ctl := u.ctl } ∧
      u.get .hkcRingPtrRptr = s.get .hkcRingPtrRptr ∧ u.get .pwrErrCode = Code.hkcRingPtr) ∧
    ((s.get .hkcRingPtrWptr + 2 ^ 32 - fieldOf v 63 32) % 2 ^ 32 ≤ 2 ^ s.get .hkcRingCfgSizeLog2 → ∃ u, exec (.hkcRingRptrWrite v) s = .next u ∧ u = { s with ctl := u.ctl } ∧
      u.get .hkcRingPtrRptr = fieldOf v 63 32 ∧ ∀ x, x ≠ Fld.hkcRingPtrRptr.addr 0 0 → u.word x = s.word x)) ∧
  (∀ (s : State) (v : W64), s.domainOn domHkc = false → ∀ c ∈ [Instr.hkcRingRptrWrite v, .hkcTest v],
    ∃ u, exec c s = .next u ∧ u = { s with ctl := u.ctl } ∧ u.get .blendCtlErrCode = Code.ctlDomainOff) ∧
  (∀ (s : State) (i : Nat), (s.powered = true → i < 4 → s.thermLimit i ≠ 0 → ∃ u, exec (.pwrExtTherm i) s = .next u ∧
      u = { s with free := u.free, ctl := u.ctl, mem := u.mem, rel := u.rel, out := u.out } ∧ s.Logged u Code.pwrExtTherm unitHkc ∧ u.rel.alert = true ∧ u.get .pwrErrUnit = 59 + i) ∧
    (s.thermLimit i = 0 ∨ 4 ≤ i → exec (.pwrExtTherm i) s = .next s))

/-- A domain command is refused by its first failing check or switches the domain; a tile switched off loses its operations, counters and memory; deep idle is entered only when nothing works, and RESUME brings the blend's domains back. 01_module_architecture.md R30; 01_module_architecture.md R32; 13_power_and_thermal.md R371; 13_power_and_thermal.md R393; 13_power_and_thermal.md R394; 08_operations_and_sync.md R464; 14_reliability_and_recovery.md R400. -/
def Obligations.DomainsAndDeepIdle : Prop :=
  (∀ (s : State) (w : W64),
    let d := fieldOf w 6 0
    let sw := fieldOf w 7 7
    let no := fun (c : Nat) => ∃ u, exec (.pwrDomainCmd w) s = .next u ∧ u = { s with ctl := u.ctl } ∧ u.get .pwrDomainStatusCode = c ∧ u.get .pwrErrCode = c ∧ u.get .pwrErrUnit = d
    (108 ≤ d → no Code.pwrDomainFixed) ∧
    (d < 104 → sw = 1 → s.domainOn (domPress (pressOf d)) = false → no Code.pwrDomainOrder) ∧
    (104 ≤ d → d < 108 → sw = 0 → (∃ x ∈ childrenOf (d - 104), s.domainOn x = true ∨ s.switchingOn x = true) → no Code.pwrDomainOrder) ∧
    (d < 96 → sw = 0 → s.domainOn d = true → s.quiesced d = false → no Code.pwrDomainBusy) ∧
    (d < 108 → sw = 1 → (d < 104 → s.domainOn (domPress (pressOf d)) = true) → s.domainOn d = true → exec (.pwrDomainCmd w) s = .next (s.set .pwrDomainStatusCode 0 0 0)) ∧
    (d < 108 → sw = 0 → (d < 96 → s.domainOn d = true → s.quiesced d = true) →
      (104 ≤ d → ∀ x ∈ childrenOf (d - 104), s.domainOn x = false ∧ s.switchingOn x = false) →
      ∃ u, exec (.pwrDomainCmd w) s = .next u ∧ u.domainOn d = false ∧ u.switchingOn d = false ∧ ∀ x, x < 112 → x ≠ d → u.domainOn x = s.domainOn x) ∧
    (d < 108 → sw = 1 → (d < 104 → s.domainOn (domPress (pressOf d)) = true) → s.domainOn d = false → ∃ u, exec (.pwrDomainCmd w) s = .next u ∧
      u = { s with ctl := u.ctl, power := { s.power with switching := u.power.switching } } ∧ u.switchingOn d = true ∧ u.get .pwrDomainStatusCode = 0) ∧
    (d < 64 → sw = 0 → s.domainOn d = true → s.quiesced d = true → ∃ u, exec (.pwrDomainCmd w) s = .next u ∧ u.domainOn d = false ∧
      (∀ x, x < 112 → x ≠ d → u.domainOn x = s.domainOn x) ∧ u.tile d = {} ∧ (∀ i, i < 256 → u.ctr (256 * d + i) = {}) ∧
      (∀ c, c < 8 → u.core d c = {}) ∧ ∀ a, tileBase d ≤ a → a < tileBase d + 0x4000000 → u.readByte a = freshByte a)) ∧
  (∀ (s : State) (d : Nat), 96 ≤ d → d < 108 → s.switchingOn d = true → (d < 104 → s.domainOn (domPress (pressOf d)) = true) →
      ∃ u, exec (.domainSwitchDone d) s = .next u ∧ u.domainOn d = true ∧ u.switchingOn d = false ∧ ∀ x, x < 112 → x ≠ d → u.domainOn x = s.domainOn x) ∧
  (∀ (s : State) (d : Nat), d < 104 → s.domainOn (domPress (pressOf d)) = false → exec (.domainSwitchDone d) s = .next s) ∧
  (∀ (s : State) (d : Nat), d < 96 → (s.switchingOn d = true → s.domainOn (domPress (pressOf d)) = true → s.domainOn d = false →
      ∃ u, exec (.domainSwitchDone d) s = .next u ∧ u = { s with power := { s.power with domains := u.power.domains, switching := u.power.switching } } ∧ u.domainOn d = true ∧
        u.switchingOn d = false ∧ ∀ x, x < 112 → x ≠ d → u.domainOn x = s.domainOn x) ∧
    (s.switchingOn d = false → exec (.domainSwitchDone d) s = .next s)) ∧
  (∀ s : State,
    (s.power.idle ≠ 0 ∨ s.rel.mode ≠ .ready → ∃ u, exec .idleDeep s = .next u ∧ u = { s with ctl := u.ctl } ∧ u.get .pwrIdleStatusCode = Code.pwrIdleState) ∧
    (s.power.idle = 0 → s.rel.mode = .ready → (∃ d, d < 96 ∧ s.workless d = false) ∨ (∃ b ∈ s.buckets, b.opened = true) →
      ∃ u, exec .idleDeep s = .next u ∧ u = { s with ctl := u.ctl } ∧ u.get .pwrIdleStatusCode = Code.pwrIdleNotQuiesced) ∧
    (s.power.idle = 0 → s.rel.mode = .ready → (∀ d, d < 96 → s.workless d = true) → (∀ b ∈ s.buckets, b.opened = false) →
      ∃ u, exec .idleDeep s = .next u ∧ u = { s with ctl := u.ctl, links := u.links, power := { s.power with idle := 1 }, rel := { s.rel with mode := .deepIdle } } ∧
        u.get .pwrIdleStatusCode = 0) ∧
    (s.power.idle ≠ 1 → exec .deepIdleEntry s = .next s) ∧
    (s.power.idle = 1 → s.power.rampOn = true → s.get .pwrBallastFloorW ≠ 0 → exec .deepIdleEntry s = .next s) ∧
    (s.power.idle = 1 → s.power.rampOn = false ∨ s.get .pwrBallastFloorW = 0 → ∃ u, exec .deepIdleEntry s = .next u ∧ u.power.idle = 2 ∧ (∀ d, d < 104 → u.domainOn d = false) ∧
      (∀ d, 104 ≤ d → d < 112 → u.domainOn d = s.domainOn d) ∧ ∀ l, l < 96 → (u.link l).state = .off) ∧
    (s.power.idle ≠ 2 → ∃ u, exec .idleResume s = .next u ∧ u = { s with ctl := u.ctl } ∧ u.get .pwrIdleStatusCode = Code.pwrIdleState) ∧
    (s.power.idle = 2 → ∃ u, exec .idleResume s = .next u ∧ u = { s with ctl := u.ctl, power := { s.power with idle := 3, switching := u.power.switching } } ∧
      ∀ d, d < 104 → s.domainOn d = false → s.plannedOn.testBit d = true → u.switchingOn d = true) ∧
    (s.power.idle ≠ 3 → exec .resumeDone s = .next s) ∧
    (s.power.idle = 3 → ∃ u, exec .resumeDone s = .next u ∧ u = { s with ctl := u.ctl, links := u.links, engines := u.engines, power := { s.power with idle := 0 }, rel := { s.rel with mode := .ready } }))

/-- An expired deadline fails its operation and resets the unit of its kind (deadlines of one tile in one clock all fail, and the hang record names the lowest slot); a long wait is logged once; the self-test visits the schedule's next eligible block, tests it once quiet, advances its segment on a pass and enters safe state on a failure. 14_reliability_and_recovery.md R401; 14_reliability_and_recovery.md R402; 14_reliability_and_recovery.md R403; 14_reliability_and_recovery.md R408; 14_reliability_and_recovery.md R409; 14_reliability_and_recovery.md R410; 14_reliability_and_recovery.md R411; 14_reliability_and_recovery.md R412; 14_reliability_and_recovery.md R413; 14_reliability_and_recovery.md R414; 14_reliability_and_recovery.md R424. -/
def Obligations.DeadlinesAndSelfTest : Prop :=
  (∀ (s : State) (t slot : Nat) (others : List Nat) (e : Ecc), s.preempted t = true ∨ (∀ k ∈ slot :: others, ∀ o, s.op t k = some o → o.canHang = false) →
    exec (.hangDeadline t slot others e) s = .next (s.corrected e.ce)) ∧
  (∀ (s0 : State) (t slot : Nat) (others : List Nat) (e : Ecc), (∀ k ∈ slot :: others, k < 64) → let s := s0.corrected e.ce
    s.preempted t = false → (∃ k ∈ slot :: others, ∃ o, s.op t k = some o ∧ o.canHang = true) →
    ∃ u, exec (.hangDeadline t slot others e) s0 = .next u ∧ (∀ r ∈ s.rel.resets, r ∈ u.rel.resets) ∧
      (s.get .rstHangCode ≠ 0 → ∀ x ∈ [Fld.rstHangCode.addr 0 0, Fld.rstHangUnitUnit.addr 0 0, Fld.rstHangPc.addr 0 0, Fld.rstHangDetail.addr 0 0], u.word x = s.word x) ∧
      (others = [] → u.word (Fld.rstDeadlines.addr 0 0) = bumpWord (s.word (Fld.rstDeadlines.addr 0 0)) 1) ∧
      (∀ k ∈ slot :: others, ∀ o, s.op t k = some o → o.canHang = true →
        let h := s.hangOf t k o
        u.op t k = none ∧ (∀ r ∈ u.requests, ¬ (r.tile = t ∧ r.slot = k)) ∧
        (∀ v, h.unit = some v ∨ h.also = some v → s.absorbed 0 v = false → ∃ r ∈ u.rel.resets, r.unit = v ∧ r.level = 0 ∧ r.cause = Code.hangDeadline) ∧
        (s.get .rstHangCode = 0 → (∀ j ∈ slot :: others, (s.op t j).elim false Op.canHang = true → k ≤ j) →
          u.get .rstHangCode = Code.hangDeadline ∧ u.get .rstHangSlot = k ∧ u.get .rstHangKind = dKind o.desc ∧ u.get .rstHangUnitUnit = h.unit.getD unitModule % 2 ^ 16 ∧
          u.word (Fld.rstHangPc.addr 0 0) = h.pc)) ∧
      ((∀ k ∈ slot :: others, ∀ o, s.op t k = some o → o.canHang = true → (s.hangOf t k o).unit = none) → u.rel.resets = s.rel.resets)) ∧
  (∀ (s : State) (t slot : Nat) (o : Op), (s.hangOf t slot o).unit =
    ([some (unitTile t 0), some (unitTile t 5), some (unitTile t 3), some (unitTile t 3), some (unitTile t 4)].getD (dKind o.desc) none)) ∧
  (∀ (s : State) (t q slot : Nat) (o : Op), t < 64 → (s.tile t).head q = some (slot, o) →
    (s.queueState t q ≠ 3 ∨ s.rel.waitsLogged.contains (t, q, o.seq) = true → exec (.hangWait t q) s = .next s) ∧
    (s.queueState t q = 3 → s.rel.waitsLogged.contains (t, q, o.seq) = false → ∃ u, exec (.hangWait t q) s = .next u ∧
      u = { s with free := u.free, ctl := u.ctl, mem := u.mem, rel := u.rel } ∧ u.rel.waitsLogged.contains (t, q, o.seq) = true ∧
      s.Logged u Code.hangWait (unitTile t 6) ∧ u.word (Fld.rstWaitReports.addr 0 0) = bumpWord (s.word (Fld.rstWaitReports.addr 0 0)) 1)) ∧
  (∀ s : State, s.get .bistCtlEnable = 0 ∨ s.bistPlan = [] ∨ s.rel.slice.isSome = true ∨ s.rel.mode = .safe ∨ s.rel.safeDrain = true → exec .bistVisit s = .next s) ∧
  (∀ s : State, s.get .bistCtlEnable ≠ 0 → s.rel.slice = none → s.rel.mode ≠ .safe → s.rel.safeDrain = false →
    let n := s.bistPlan.length
    (s.bistPlan ≠ [] → (∀ e ∈ s.bistPlan, s.bistEligible e.2.1 = false) → exec .bistVisit s = .next (s.bump .bistSkips 0 0 n)) ∧
    ∀ k i v m, k < n → (∀ j e, j < k → s.bistPlan[(s.rel.cursor + j) % n]? = some e → s.bistEligible e.2.1 = false) →
      s.bistPlan[(s.rel.cursor + k) % n]? = some (i, v, m) → s.bistEligible v = true →
      ∃ u, exec .bistVisit s = .next u ∧ u = { s with ctl := u.ctl, tiles := u.tiles, dies := u.dies, rel := u.rel } ∧
        u.rel = { s.rel with cursor := (s.rel.cursor + k + 1) % n, slice := some { unit := v, stage := 1, left := m, scheduled := true }, lastUnit := v,
                             lastSegment := s.segment v } ∧
        (k = 0 → u.ctl = s.ctl) ∧ (k ≠ 0 → u.word (Fld.bistSkips.addr 0 0) = bumpWord (s.word (Fld.bistSkips.addr 0 0)) k) ∧
        (∀ x, x ≠ Fld.bistSkips.addr 0 0 → u.word x = s.word x) ∧
        (unitKind v = 1 → u.tile (unitInst v) = { s.tile (unitInst v) with bistQuiesce := true } ∧ u.dies = s.dies) ∧
        (unitKind v = 2 → u.die (unitInst v) = { s.die (unitInst v) with bistQuiesce := true } ∧ u.tiles = s.tiles)) ∧
  (∀ (s : State) (sig : W64), s.rel.slice = none → ∀ c ∈ [Instr.bistQuiesced, .bistQuiesceTimeout, .bistSliceDone sig], exec c s = .next s) ∧
  (∀ (s : State) (x : Slice), s.rel.slice = some x →
    (x.stage ≠ 1 ∨ s.bistQuiet x.unit = false → exec .bistQuiesced s = .next s) ∧
    (x.stage = 1 → s.bistQuiet x.unit = true → ∃ u, exec .bistQuiesced s = .next u ∧ u.rel.slice = some { x with stage := 2 } ∧
      (unitKind x.unit ≠ 2 → u = { s with rel := { s.rel with slice := some { x with stage := 2 } } })) ∧
    (x.stage ≠ 1 → exec .bistQuiesceTimeout s = .next s) ∧
    (x.stage = 1 → unitValid x.unit = true → let d := smGet (fun _ => 0) s.rel.defers x.unit + 1
      ∃ u, exec .bistQuiesceTimeout s = .next u ∧ u.rel.slice = none ∧ smGet (fun _ => 0) u.rel.defers x.unit = d % 8 ∧
        u.word (Fld.bistDefers.addr 0 0) = bumpWord (s.word (Fld.bistDefers.addr 0 0)) 1 ∧ (unitKind x.unit = 1 → (u.tile (unitInst x.unit)).bistQuiesce = false) ∧
        (unitKind x.unit = 2 → (u.die (unitInst x.unit)).bistQuiesce = false) ∧ (d = 8 → s.Logged u Code.bistDeferred x.unit ∧ u.get .bistStatusCode = Code.bistDeferred ∧ u.rel.alert = true) ∧
        (d ≠ 8 → u.mem = s.mem ∧ u.rel.alert = s.rel.alert)) ∧
    (∀ sig, x.stage ≠ 2 → exec (.bistSliceDone sig) s = .next s) ∧
    (∀ sig, x.stage = 2 → sig = Config.bistSignature x.unit (s.segment x.unit) →
      let done := s.segment x.unit + 1 = coverOf (unitKind x.unit)
      ∃ u, exec (.bistSliceDone sig) s = .next u ∧ u.segment x.unit = (if done then 0 else s.segment x.unit + 1) ∧
        u.word (Fld.bistSlices.addr 0 0) = bumpWord (s.word (Fld.bistSlices.addr 0 0)) 1 ∧
        u.word (Fld.bistCovers.addr 0 0) = (if done then bumpWord (s.word (Fld.bistCovers.addr 0 0)) 1 else s.word (Fld.bistCovers.addr 0 0)) ∧
        (1 < x.left → u.rel.slice = some { x with stage := 1, left := x.left - 1 }) ∧
        (x.left ≤ 1 → u.rel.slice = none ∧ (unitKind x.unit = 1 → (u.tile (unitInst x.unit)).bistQuiesce = false) ∧ (unitKind x.unit = 2 → (u.die (unitInst x.unit)).bistQuiesce = false)) ∧
        u.mem = s.mem) ∧
    (∀ sig, x.stage = 2 → sig ≠ Config.bistSignature x.unit (s.segment x.unit) → s.rel.mode ≠ .safe →
      ∃ u, exec (.bistSliceDone sig) s = .next u ∧ u.get .bistFailUnit = x.unit % 2 ^ 16 ∧ u.get .bistStatusCode = Code.bistFail ∧ u.rel.safeDrain = true ∧
        (s.rel.safeDrain = false → u.rel.safeCause = Code.bistFail ∧ u.rel.safeUnit = x.unit ∧ ∀ l, l < 96 → (u.link l).state = .off))) ∧
  (∀ (s : State) (w : W64),
    let v := fieldOf w 31 16
    let k := fieldOf w 15 8
    let busy := s.rel.slice.isSome = true ∨ (s.boot.running = true ∧ s.boot.stage = 5)
    let fit := s.bistEligible v = true ∧ k ≠ 0 ∧ s.rel.safeDrain = false
    (fieldOf w 0 0 = 0 → exec (.bistCmd w) s = .next s) ∧
    (fieldOf w 0 0 = 1 → busy → ∃ u, exec (.bistCmd w) s = .next u ∧ u = { s with ctl := u.ctl } ∧ u.get .bistStatusCode = Code.bistBusy) ∧
    (fieldOf w 0 0 = 1 → ¬ busy → fit → ∃ u, exec (.bistCmd w) s = .next u ∧ u = { s with tiles := u.tiles, dies := u.dies, rel := u.rel } ∧
      u.rel = { s.rel with slice := some { unit := v, stage := 1, left := k, scheduled := false }, lastUnit := v, lastSegment := s.segment v }) ∧
    (fieldOf w 0 0 = 1 → ¬ busy → ¬ fit → exec (.bistCmd w) s = .next (s.bump .bistSkips))) ∧
  (∀ (s : State) (n q v k : Nat), s.Serves n 0x63 →
    let a := s.accept n
    let busy := s.rel.slice.isSome = true ∨ (s.boot.running = true ∧ s.boot.stage = 5)
    let fit := s.bistEligible v = true ∧ k ≠ 0 ∧ s.rel.safeDrain = false
    let rep := fun (st code : Nat) => Output.reply n 0x63 q 0 (leBytes 1 st ++ leBytes 1 0 ++ leBytes 2 code ++ leBytes 2 s.rel.lastSegment ++ leBytes 2 0)
    (busy → ∃ u, exec (.bistRun n q v k) s = .next u ∧ u = { a with ctl := u.ctl, out := s.out ++ [rep 2 Code.bistBusy] } ∧ u.get .bistStatusCode = Code.bistBusy) ∧
    (¬ busy → fit → ∃ u, exec (.bistRun n q v k) s = .next u ∧ u = { a with tiles := u.tiles, dies := u.dies, rel := u.rel } ∧
      u.rel.slice = some { unit := v, stage := 1, left := k, scheduled := false, session := some (n, q) }) ∧
    (¬ busy → ¬ fit → exec (.bistRun n q v k) s = .next { a.bump .bistSkips with out := s.out ++ [rep 0 0] }))

/-- A reset request that does not pair, or that a running reset covers, changes only RST_STATUS; a taken one of level 0 to 3 runs and loses what its level loses, a warm reset and a cold start begin stage 1; RESET_DONE ends it, RST_ESCALATED raises it a level or ends in safe state. 14_reliability_and_recovery.md R404; 14_reliability_and_recovery.md R405; 14_reliability_and_recovery.md R406; 14_reliability_and_recovery.md R407; 14_reliability_and_recovery.md R408; 14_reliability_and_recovery.md R416; 14_reliability_and_recovery.md R417; 14_reliability_and_recovery.md R424; 08_operations_and_sync.md R249; 02_blend_and_capability.md R44. -/
def Obligations.ResetsRun : Prop :=
  (∀ (s0 s : State) (v : Nat) (e : Ecc) (c : Instr) (lv un : Nat) (ctr : Fld),
    (c, s, lv, un, ctr) ∈ [(Instr.resetEngine v e, s0.corrected e.ce, 0, v, Fld.rstEngineResets), (.resetTile v, s0, 1, v, .rstTileResets),
      (.resetOptical v, s0, 2, v, .rstOpticalRestarts), (.resetPress v, s0, 3, v, .rstPressResets), (.resetWarm, s0, 4, unitModule, .rstWarmResets),
      (.resetCold, s0, 5, unitModule, .rstWarmResets)] →
    (s.domainOn domService = false → exec c s0 = .next s) ∧
    (s.domainOn domService = true → ∀ code, (levelOk lv un = false ∧ code = Code.rstCmdRange) ∨ (levelOk lv un = true ∧ s.absorbed lv un = true ∧ code = Code.rstBusy) →
      ∃ u, exec c s0 = .next u ∧ u = { s with ctl := u.ctl } ∧ u.get .rstStatusCode = code ∧ ∀ x, x ≠ Fld.rstStatusCode.addr 0 0 → u.word x = s.word x) ∧
    (s.domainOn domService = true → levelOk lv un = true → s.absorbed lv un = false →
      (lv < 4 → ∃ u, exec c s0 = .next u ∧ u.get .rstStatusCode = 0 ∧ (∃ r ∈ u.rel.resets, r.unit = un ∧ r.level = lv ∧ r.cause = 0 ∧ r.first = lv) ∧
        (∀ r ∈ u.rel.resets, lv ≤ r.level ∨ inScope lv un r.unit = false) ∧ u.word (ctr.addr 0 0) = bumpWord (s.word (ctr.addr 0 0)) 1 ∧
        u.get .rstLastUnit = un % 2 ^ 16 ∧ u.get .rstLastCause = 0 ∧ u.get .rstLastFinal = lv ∧ (s.rel.mode = .ready → lv = 2 ∨ lv = 3 → u.rel.mode = .resetting) ∧
        (lv = 0 → unitKind un = 1 → s.domainOn (domTile (unitInst un)) = true → s.preempted (unitInst un) = false → ∀ slot o, s.op (unitInst un) slot = some o →
          o.hasLeft = true → dKind o.desc ∈ partKinds (unitPart un) → u.op (unitInst un) slot = none ∧ ∀ r ∈ u.requests, ¬ (r.tile = unitInst un ∧ r.slot = slot)) ∧
        (lv = 0 → unitKind un = 4 → s.domainOn (domPress (unitInst un / 24)) = true → (s.link (unitInst un)).state = .up → (u.link (unitInst un)).state = .retrain) ∧
        (lv = 1 → s.domainOn (domTile (unitInst un)) = true → u.tile (unitInst un) = {} ∧ (∀ k, k < 8 → u.core (unitInst un) k = {}) ∧
          (∀ i, i < s.get .capQueuesTileSync → (u.ctr (unitInst un * 256 + i)) = { value := 0, poison := true }) ∧
          ∀ p ∈ [Pfx.tile, .opq, .sync], ∀ x, pfxBase p (unitInst un) ≤ x → x < pfxBase p (unitInst un) + 0x1000 → u.word x = resetWord x ∧ u.stagedWord x = u.word x) ∧
        (lv = 2 → s.domainOn (domOptical (unitInst un)) = true → (u.engine (unitInst un)).state = .laserWait ∧ ∀ l ∈ linksOf (unitInst un), (u.link l).state = .off) ∧
        (lv = 3 → ∀ l ∈ pressLinks (unitInst un), (u.link l).state = .off)) ∧
      (4 ≤ lv → ∃ u, exec c s0 = .next u ∧ u.boot = { stage := 1, running := true, warm := decide (lv = 4) } ∧ u.rel.mode = .starting ∧ u.power.hold = .none ∧
        u.journal.startSeq = (s.journal.startSeq + 1) % 2 ^ 32 ∧ u.domainOn domService = true ∧ u.domainOn domJournal = true ∧ (∀ d, d < 109 → u.domainOn d = false) ∧
        (∀ x, outlives (decide (lv = 5)) x = false → u.stagedWord x = u.word x) ∧ (lv = 4 → u.word (ctr.addr 0 0) = bumpWord (s.word (ctr.addr 0 0)) 1) ∧ (lv = 5 → ∀ x, isCounter x = false → u.word x = resetWord x)))) ∧
  (∀ (s : State) (n q lv un : Nat), s.Serves n 0x61 →
    let a := s.accept n
    (s.resetCode lv un ≠ 0 → exec (.reset n q lv un) s = .next { a with out := s.out ++ [.reply n 0x61 q (s.resetCode lv un) []] }) ∧
    (s.resetCode lv un = 0 → lv < 4 → ∃ u, exec (.reset n q lv un) s = .next u ∧ ∃ r ∈ u.rel.resets, r.unit = un ∧ r.level = lv ∧ (n, q) ∈ r.sessions) ∧
    (s.resetCode lv un = 0 → 4 ≤ lv → ∃ u, exec (.reset n q lv un) s = .next u ∧ u.boot.running = true ∧ u.boot.stage = 1 ∧ Output.reply n 0x61 q 0 [] ∈ u.out)) ∧
  (∀ (s : State) (un : Nat), (s.rel.resets.find? (fun r => r.unit == un)) = none → exec (.resetDone un) s = .next s ∧
    (un ≠ unitModule ∨ s.boot.running = false ∨ s.boot.warm = false → exec (.rstEscalated un) s = .next s)) ∧
  (∀ (s : State) (un : Nat) (r : ResetRun), (s.rel.resets.find? (fun r => r.unit == un)) = some r →
    (∃ u, exec (.resetDone un) s = .next u ∧ u = { s with ctl := u.ctl, links := u.links, rel := u.rel, out := u.out } ∧ u.rel = { s.rel with resets := s.rel.resets.erase r, mode := u.rel.mode } ∧
      u.out = s.out ++ (r.sessions.filter fun e => (s.session e.1).live).map (fun e => Output.reply e.1 0x61 e.2 0 []) ∧
      (s.rel.mode = .resetting → ((s.rel.resets.erase r).all fun x => x.level != 2 && x.level != 3) = true → u.rel.mode = .ready)) ∧
    let n := nextLevel r.level un
    ∃ u, exec (.rstEscalated un) s = .next u ∧
      (n.1 < 5 → u.word (Fld.rstEscalations.addr 0 0) = bumpWord (s.word (Fld.rstEscalations.addr 0 0)) 1) ∧
      (s.get .rstCtlEscMax < n.1 → s.rel.mode ≠ .safe → u.rel.safeDrain = true ∧ (s.rel.safeDrain = false → u.rel.resets = [] ∧ ∀ l, l < 96 → (u.link l).state = .off)) ∧
      (n.1 ≤ s.get .rstCtlEscMax → ({ s with rel := { s.rel with resets := s.rel.resets.erase r } } : State).absorbed n.1 n.2 = false → n.1 < 4 →
        ∃ x ∈ u.rel.resets, x.unit = n.2 ∧ x.level = n.1 ∧ x.cause = r.cause ∧ x.first = r.first ∧ x.escalations = r.escalations + 1) ∧
      (n.1 ≤ s.get .rstCtlEscMax → ({ s with rel := { s.rel with resets := s.rel.resets.erase r } } : State).absorbed n.1 n.2 = false → n.1 = 4 →
        u.boot = { stage := 1, running := true, warm := true })) ∧
  (∀ s : State, (s.rel.safeDrain = false → exec .safeStateDrain s = .next s) ∧
    (s.rel.safeDrain = true → ∃ u, exec .safeStateDrain s = .next u ∧ u.rel.mode = .safe ∧ u.rel.safeDrain = false ∧ u.rel.alert = true ∧ (∀ d, d < 104 → u.domainOn d = false) ∧
      (∃ i, u.journal.save = some i ∧ i.reason = 2 ∧ i.complete = true ∧ i.step = s.svc.step) ∧
      u.word (Fld.rstSafeEntries.addr 0 0) = bumpWord (s.word (Fld.rstSafeEntries.addr 0 0)) 1))

/-- A rack starts once, latches every counter as it stands, waits for the RACK flits of its links, and leaves its image in SRAM; the log's journal copy flags the newest 1,024 entries, and the read pointer releases alert-out. 14_reliability_and_recovery.md R418; 14_reliability_and_recovery.md R419; 14_reliability_and_recovery.md R420; 14_reliability_and_recovery.md R423; 14_reliability_and_recovery.md R424; 16_electrical_and_mechanical.md R452. -/
def Obligations.RacksAndTheLog : Prop :=
  (∀ (s : State) (w : W64), let id := fieldOf w 15 0
    (id = 0 → exec (.snapCmd w) s = .next (s.set .snapStatusCode 0 0 Code.snapId)) ∧
    (id ≠ 0 → s.rel.rack.isSome = true → exec (.snapCmd w) s = .next (s.set .snapStatusCode 0 0 Code.snapBusy)) ∧
    (id ≠ 0 → s.rel.rack = none → ∃ u, exec (.snapCmd w) s = .next u ∧ u = { s with ctl := u.ctl, rel := { s.rel with rack := some { id := id, origin := s.deviceId, link := 0xFF } } } ∧
      u.get .snapStatusCode = 0 ∧ ∀ x, x ≠ Fld.snapStatusCode.addr 0 0 → u.word x = s.word x)) ∧
  (∀ (s : State) (n q id : Nat), s.Serves n 0x60 → let a := s.accept n
    (∀ code, (id = 0 ∧ code = Code.snapId) ∨ (id ≠ 0 ∧ s.rel.rack.isSome = true ∧ code = Code.snapBusy) →
      exec (.rack n q id) s = .next { a.set .snapStatusCode 0 0 code with out := s.out ++ [.reply n 0x60 q code []] }) ∧
    (id ≠ 0 → s.rel.rack = none → ∃ u, exec (.rack n q id) s = .next u ∧
      u = { a with ctl := u.ctl, rel := { s.rel with rack := some { id := id, origin := s.deviceId, link := 0xFF, session := some (n, q) } } } ∧ u.get .snapStatusCode = 0)) ∧
  (∀ s : State, (s.rel.rack.elim true Rack.latched) = true → exec .rackLatch s = .next s) ∧
  (∀ (s : State) (x : Rack), s.rel.rack = some x → x.latched = false →
    ∃ u r, exec .rackLatch s = .next u ∧ u = { s with free := u.free, links := u.links, rel := { s.rel with rack := some r } } ∧
      r = { x with latched := true, entries := r.entries, waiting := r.waiting, fabric := r.fabric, time := r.time } ∧
      (∀ l, l ∈ r.waiting ↔ l < 96 ∧ s.isUp l = true ∧ l ≠ x.link ∧ l ∉ x.early) ∧
      (∀ p f i j, (p, f) ∈ rackFields → i < (blockOf p).insts → j < f.count → f ≠ .flinkRxFlits →
        (if s.inReset (unitOfBlock p i) then (2 ^ 48 + f.addr i j, 0) else (f.addr i j, s.word (f.addr i j))) ∈ r.entries) ∧
      ∀ l, l < 96 → if s.isUp l then (u.link l).rackCount = (if l = x.link then none else some 0) ∧ ((s.get .snapCfgForward = 1) → (u.link l).rackDue = s.rackFlitTo x (s.peerOf l).id) else u.link l = s.link l) ∧
  (∀ (s : State) (l : Nat), s.takeDelivered l msgRack = none → exec (.rackFlit l) s = .next s) ∧
  (∀ (s s1 : State) (l : Nat) (m : Msg), s.takeDelivered l msgRack = some (m, s1) → let id := m.num 0 2
    ∃ u, exec (.rackFlit l) s = .next u ∧ u = { s1 with ctl := u.ctl, links := u.links, rel := { s.rel with rack := u.rel.rack } } ∧ (∀ k, k ≠ l → u.link k = s.link k) ∧
      (∀ x, s.rel.rack = some x → x.id = id → u.word (Fld.snapDuplicates.addr 0 0) = bumpWord (s.word (Fld.snapDuplicates.addr 0 0)) 1 ∧
        (x.latched = true → u.rel.rack = some { x with waiting := x.waiting.filter (· != l) }) ∧ (x.latched = false → u.rel.rack = some { x with early := x.early ++ [l] })) ∧
      (∀ x, s.rel.rack = some x → x.id ≠ id → u.rel.rack = some x ∧ u.word (Fld.snapRefused.addr 0 0) = bumpWord (s.word (Fld.snapRefused.addr 0 0)) 1) ∧
      (s.rel.rack = none → id = s.get .snapStatusLastId → u.rel.rack = none ∧ u.word (Fld.snapDuplicates.addr 0 0) = bumpWord (s.word (Fld.snapDuplicates.addr 0 0)) 1) ∧
      (s.rel.rack = none → id ≠ s.get .snapStatusLastId → u.rel.rack = some { id := id, origin := m.num 2 2, link := l } ∧ u.ctl = s.ctl)) ∧
  (∀ s : State, (s.rel.rack.elim true fun x => !x.latched || x.waiting.isEmpty || x.incomplete) = true → exec .snapIncomplete s = .next s) ∧
  (∀ (s : State) (x : Rack), s.rel.rack = some x → x.latched = true → x.waiting ≠ [] → x.incomplete = false →
    ∃ u, exec .snapIncomplete s = .next u ∧ u = { s with free := u.free, ctl := u.ctl, mem := u.mem, rel := u.rel } ∧ u.rel.rack = some { x with incomplete := true } ∧
      u.get .snapStatusCode = Code.snapIncomplete ∧ s.Logged u Code.snapIncomplete unitModule) ∧
  (∀ (s : State) (x : Rack), s.rel.rack = some x → x.latched = true → x.incomplete = true ∨ (x.waiting = [] ∧ ∀ l, l < 96 → (s.link l).rackLost = false) →
    let es := x.entries ++ s.flights
    let img := x.image x.incomplete es
    let a := sramBase + s.get .snapCfgOffset
    ∃ u, exec .rackImageWritten s = .next u ∧ u = { s with ctl := u.ctl, mem := u.mem, links := u.links, ctrs := u.ctrs, out := u.out, rel := { s.rel with rack := none } } ∧
      u.readBytes a img.length = img ∧ (∀ y, y < a ∨ a + img.length ≤ y → u.readByte y = s.readByte y) ∧ u.get .snapStatusLastId = x.id % 2 ^ 16 ∧
      u.word (Fld.snapRacks.addr 0 0) = bumpWord (s.word (Fld.snapRacks.addr 0 0)) 1 ∧ (∀ l, l < 96 → (u.link l).rackCount = none) ∧
      (x.session = none → u.out = s.out) ∧
      ∀ n q, x.session = some (n, q) → (s.session n).live = true → u.out = s.out ++ [.reply n 0x60 q 0 (leBytes 4 es.length ++ leBytes 4 (s.get .snapCfgOffset))]) ∧
  (∀ (s : State), (s.rel.rack.elim true fun x => !x.latched) = true → exec .rackImageWritten s = .next s) ∧
  (∀ s : State, (s.rel.mode = .starting → s.boot.running = false → exec .logJournalCopy s = .next s) ∧
    (s.rel.mode ≠ .starting ∨ s.boot.running = true → ∃ u, exec .logJournalCopy s = .next u ∧ u = { s with mem := u.mem, journal := { s.journal with logCopy := u.journal.logCopy } } ∧
      u.journal.logCopy.length = min 1024 s.rel.logSeq ∧ (∀ e ∈ u.journal.logCopy, (e.getD 27 0).getLsbD 3 = true) ∧
      ∀ y, y < sramBase + s.get .rstLogCfgOffset ∨ sramBase + s.get .rstLogCfgOffset + 64 * 65536 ≤ y → u.readByte y = s.readByte y)) ∧
  (∀ (s : State) (v : W64), ∃ u, exec (.logRptrWrite v) s = .next u ∧ u = { s with ctl := u.ctl, rel := { s.rel with alert := u.rel.alert } } ∧ u.get .rstLogPtrRptr = fieldOf v 63 32 ∧
    (∀ x, x ≠ Fld.rstLogPtrRptr.addr 0 0 → u.word x = s.word x) ∧
    let past := (fieldOf v 63 32 + 2 ^ 32 - s.rel.alertSeq) % 2 ^ 32
    (1 ≤ past ∧ past < 2 ^ 31 → u.rel.alert = false) ∧ (past = 0 ∨ 2 ^ 31 ≤ past → u.rel.alert = s.rel.alert))

/-- The stages of a start run in order: each loads or switches on what its row names and begins the next; a stage that fails or passes its bound counts and records the failed start and holds in reset; the module is READY once stages 8 and E have ended, in tin mode once stage E has. 15_startup_and_security.md R428; 15_startup_and_security.md R429; 15_startup_and_security.md R432; 15_startup_and_security.md R433; 15_startup_and_security.md R434; 15_startup_and_security.md R435; 15_startup_and_security.md R437; 02_blend_and_capability.md R45; 01_module_architecture.md R33; 13_power_and_thermal.md R365; 13_power_and_thermal.md R368; 14_reliability_and_recovery.md R415. -/
def Obligations.StartStages : Prop :=
  (∀ (s : State) (a b : Bool) (x y : Nat) (f : Option Nat) (g : Option (Nat × Nat)) (ds : List Nat) (ls : List (Nat × OltReading)),
    (s.inStage 1 = false → exec .bootStageRom s = .next s) ∧ (s.inStage 2 = false → exec (.bootStagePower a b x y) s = .next s) ∧ (s.inStage 3 = false → exec .bootStageImage s = .next s) ∧
    (s.inEther = false → exec (.bootStageEthernet f) s = .next s) ∧ (s.inStage 4 = false → exec (.bootStageUncore f) s = .next s) ∧ (s.inStage 5 = false → exec (.bootStageSelftest g) s = .next s) ∧
    (s.inStage 7 = false ∨ s.boot.cask = true → exec (.bootStageCask ds ls) s = .next s) ∧ (s.inStage 7 = false ∨ s.boot.optical = true → exec (.bootStageOptical ds) s = .next s) ∧
    (s.inStage 8 = false ∨ s.boot.last = true → exec .bootStageReady s = .next s) ∧ (s.boot.running = false → exec .bootStageTimeout s = .next s)) ∧
  (∀ s : State, s.inStage 1 = true → s.boot.warm = true ∨ (s.pins.strapAsserted = false ∧ s.journal.count < 3) →
    (s.journal.boot.read = .ok → s.journal.grade.read = .ok → s.journal.trim.read = .ok → s.journal.identity.read = .ok → ∃ u, exec .bootStageRom s = .next u ∧
      u = { s with free := u.free, ctl := u.ctl, power := u.power, boot := u.boot } ∧ u.boot.stage = 2 ∧ u.boot.running = true ∧ u.boot.tinRun = false ∧ u.domainOn domHkc = true ∧
      (∀ a ∈ capAddrs, u.word a = smGet gradeWord s.journal.capWords a) ∧ ∀ a, a ∉ capAddrs → u.word a = s.word a) ∧
    ∀ code, (s.boot.warm = false) → ([s.journal.boot, s.journal.grade, s.journal.trim, s.journal.identity].findSome? fun r => r.read.code) = some code →
      ∃ u, exec .bootStageRom s = .next u ∧ s.StartFailed u 1 code) ∧
  (∀ s : State, s.inStage 1 = true → s.boot.warm = false → s.pins.strapAsserted = true ∨ 3 ≤ s.journal.count → s.journal.boot.read = .ok →
    ∃ u, exec .bootStageRom s = .next u ∧ u.boot.tinRun = true ∧ u.boot.stage = 2 ∧ u.boot.running = true ∧ u.domainOn domHkc = true ∧ u.journal = s.journal ∧
      s.Logged u (if s.pins.strapAsserted then Code.bootStrap else Code.bootTin) unitModule ∧
      (s.journal.grade.read = .ok → ∀ a ∈ capAddrs, u.word a = smGet gradeWord s.journal.capWords a) ∧
      (s.journal.grade.read ≠ .ok → ∀ a ∈ capAddrs, u.word a = s.word a)) ∧
  (∀ (s : State) (refs test : Bool) (vin vhold : Nat), s.inStage 2 = true →
    (refs = true → test = true → holdupBad vin vhold = false → ∃ u, exec (.bootStagePower refs test vin vhold) s = .next u ∧
      u = { s with free := u.free, ctl := u.ctl, mem := u.mem, boot := u.boot } ∧ u.boot.stage = 3 ∧ u.boot.running = true ∧ u.get .hkcTestStatusState = 2) ∧
    (s.boot.warm = false → s.boot.tinRun = false → ∀ code, (refs = false ∧ code = Code.hkcRefFail) ∨ (refs = true ∧ test = false ∧ code = Code.hkcTestFail) ∨
        (refs = true ∧ test = true ∧ holdupBad vin vhold = true ∧ code = Code.pwrHoldupAbsent) → ∃ u, exec (.bootStagePower refs test vin vhold) s = .next u ∧ s.StartFailed u 2 code)) ∧
  (∀ s : State, s.inStage 3 = true → s.boot.tinRun = false → s.journal.trial = false → s.journal.bank < 2 →
    (s.bankRefusal s.journal.bank = none → ∃ u, exec .bootStageImage s = .next u ∧ u.boot.bank = s.journal.bank ∧ u.boot.svn = (s.bank s.journal.bank).svn ∧ u.boot.stage = 4 ∧
      u.domainOn domEth = true ∧ u.mem = s.mem ∧ u.journal = s.journal) ∧
    (s.bankRefusal s.journal.bank ≠ none → s.bankRefusal (1 - s.journal.bank) = none → ∃ u, exec .bootStageImage s = .next u ∧ u.boot.bank = 1 - s.journal.bank ∧ u.boot.stage = 4 ∧
      s.Logged u Code.bootImageSig unitModule) ∧
    (s.bankRefusal s.journal.bank ≠ none → s.bankRefusal (1 - s.journal.bank) ≠ none → s.boot.warm = false → ∃ u, exec .bootStageImage s = .next u ∧ s.StartFailed u 3 Code.bootNoImage)) ∧
  (∀ s : State, s.inStage 3 = true → s.journal.bank < 2 → s.journal.trial = true → s.journal.trialFailed = true → s.bankRefusal (1 - s.journal.bank) = none →
    ∃ u, exec .bootStageImage s = .next u ∧ u.journal = { s.journal with bank := 1 - s.journal.bank, trial := false, trialFailed := false } ∧
      u.boot.bank = 1 - s.journal.bank ∧ u.boot.trialRun = false ∧ u.boot.stage = (if s.boot.tinRun then 0x0E else 4) ∧ s.Logged u Code.bootTrialRevert unitModule) ∧
  (∀ (s : State) (b : Nat), s.inStage 3 = true → s.journal.trial = false ∨ s.journal.trialFailed = false →
    (s.bankOrder.find? fun x => (s.bankRefusal x).isNone) = some b →
    ∃ u, exec .bootStageImage s = .next u ∧ u.journal = s.journal ∧ u.boot.bank = b ∧ u.boot.svn = (s.bank b).svn ∧
      u.boot.trialRun = (s.journal.trial && b == s.journal.bank) ∧ u.boot.stage = (if s.boot.tinRun then 0x0E else 4) ∧ u.domainOn domEth = true) ∧
  (∀ s : State, s.inStage 4 = true →
    (∃ u, exec (.bootStageUncore none) s = .next u ∧ u.boot.stage = (if s.boot.warm then 7 else 5) ∧ u.boot.running = true ∧ ∀ p, p < 4 → u.domainOn (domPress p) = true) ∧
    ∀ v, s.boot.warm = false → s.boot.tinRun = false → ∃ u, exec (.bootStageUncore (some v)) s = .next u ∧ s.StartFailed u 4 Code.bootTrainFail) ∧
  (∀ s : State, s.inStage 5 = true → s.boot.warm = false →
    (∃ u, exec (.bootStageSelftest none) s = .next u ∧ u.boot.stage = 7 ∧ u.boot.running = true ∧ (∀ d, d < 104 → u.domainOn d = true) ∧
      u.word (Fld.bistSlices.addr 0 0) = bumpWord (s.word (Fld.bistSlices.addr 0 0)) 5986 ∧ u.word (Fld.bistCovers.addr 0 0) = bumpWord (s.word (Fld.bistCovers.addr 0 0)) 221) ∧
    ∀ v seg, s.boot.tinRun = false → ∃ u, exec (.bootStageSelftest (some (v, seg))) s = .next u ∧ s.StartFailed u 5 Code.bistFail) ∧
  (∀ (s : State) (ds : List Nat) (ls : List (Nat × OltReading)), s.inStage 7 = true → s.boot.cask = false →
    (s.loadSets.noSets ds = [] → (∀ d, d < 32 → (s.loadSets.die d).ready = true) → ∃ u, exec (.bootStageCask ds ls) s = .next u ∧ u.boot.cask = true ∧
      u.boot.stage = if s.boot.optical then 8 else 7) ∧
    (s.loadSets.noSets ds = [] → (∃ d, d < 32 ∧ (s.loadSets.die d).ready = false) → exec (.bootStageCask ds ls) s = .next s.loadSets) ∧
    (s.loadSets.noSets ds ≠ [] → s.boot.warm = false → s.boot.tinRun = false → ∃ u, exec (.bootStageCask ds ls) s = .next u ∧ s.StartFailed u 6 Code.calNoSet)) ∧
  (∀ (s : State) (fs : List Nat), s.inStage 7 = true → s.boot.optical = false → ∃ u, exec (.bootStageOptical fs) s = .next u ∧ u.boot.optical = true ∧
    (u.boot.stage = if s.boot.cask then 8 else 7) ∧
    ∀ e, e < 8 → (s.engine e).state = .laserWait → (s.engine e).service = false →
      (e ∈ fs → (u.engine e).state = .fault) ∧ (e ∉ fs → (s.engine e).source = true → (u.engine e).state = .ready)) ∧
  (∀ s : State, s.inStage 8 = true → s.boot.last = false → s.rel.mode = .starting →
    (s.boot.ether = true → ∃ u, exec .bootStageReady s = .next u ∧ u.rel.mode = .ready ∧ u.boot.running = false ∧ u.journal.count = 0 ∧ u.boot.outcome = 1) ∧
    (s.boot.ether = false → ∃ u, exec .bootStageReady s = .next u ∧ u.rel.mode = .starting ∧ u.boot.running = true ∧ u.boot.last = true)) ∧
  (∀ s : State, s.inEther = true →
    (s.boot.tinRun = true → ∃ u, exec (.bootStageEthernet none) s = .next u ∧ u.rel.mode = .tin ∧ u.boot.running = false ∧ u.boot.ether = true) ∧
    (s.boot.tinRun = false → s.boot.last = true → ∃ u, exec (.bootStageEthernet none) s = .next u ∧ u.rel.mode = .ready ∧ u.journal.count = 0 ∧ u.boot.ether = true) ∧
    (s.boot.tinRun = false → s.boot.last = false → ∃ u, exec (.bootStageEthernet none) s = .next u ∧ u.boot = { s.boot with ether := true } ∧ u.rel.mode = s.rel.mode ∧
      u.get .ethMacAddress = s.journal.mac % 2 ^ 48 ∧ u.word (Fld.bistSlices.addr 0 0) = bumpWord (s.word (Fld.bistSlices.addr 0 0)) 16 ∧
      u.word (Fld.bistCovers.addr 0 0) = bumpWord (s.word (Fld.bistCovers.addr 0 0)) 1) ∧
    ∀ seg, s.boot.warm = false → s.boot.tinRun = false → ∃ u, exec (.bootStageEthernet (some seg)) s = .next u ∧ s.StartFailed u 0x0E Code.bistFail) ∧
  (∀ s : State, s.boot.running = true →
    (s.boot.warm = false → s.boot.tinRun = false → ∃ u, exec .bootStageTimeout s = .next u ∧ s.StartFailed u s.lateStage Code.bootStageTimeout) ∧
    (s.boot.warm = true → 5 ≤ s.get .rstCtlEscMax → ∃ u, exec .bootStageTimeout s = .next u ∧ u.boot = { stage := 1, running := true } ∧ u.rel.mode = .starting ∧ u.power.hold = .none))

/-- At power-on the module holds in reset for its input, every domain off, CAP 0, every register and staged copy at its reset value, no blend, no session and every link OFF, and its memory is in canonical form. 00_scope.md R16; 02_blend_and_capability.md R44; 02_blend_and_capability.md R45; 02_blend_and_capability.md R55; 13_power_and_thermal.md R363; 10_fepra_links.md R282. -/
def Obligations.ResetState : Prop :=
  State.reset.pending = [] ∧ State.reset.power.hold = .input ∧ State.reset.power.domains = 0 ∧ State.reset.rel.mode = .starting ∧ State.reset.boot.running = false ∧
  (∀ a, State.reset.word a = resetWord a ∧ State.reset.stagedWord a = resetWord a) ∧ (∀ a ∈ capAddrs, State.reset.word a = 0) ∧
  State.reset.blend.inForce = none ∧ State.reset.sessions = [] ∧ (∀ l, (State.reset.link l).state = .off) ∧ State.reset.mem.cells = [] ∧ State.reset.mem.wf

/-- Every step of every state takes the front of the queue, answers a next state, and keeps the memory in canonical form. 01_module_architecture.md R21; 06_press_tiles.md R181; 14_reliability_and_recovery.md R407; 95_what_each_step_holds.md. -/
def Obligations.StepKeepsMemoryForm : Prop :=
  ∀ s : State, ∃ t, step s = .next t ∧ t.pending = s.pending.tail ∧ (s.mem.wf → t.mem.wf)
end

