-- ==== Sys2Proof/Laws/Store.lean ====
section
/-!
SUPPORT. Sparse stores: what a key holds after a write, and that every operation keeps the canonical form.
-/

namespace Sys2Proof.Machine

variable {α : Type}

@[simp] theorem smGet_nil (d : Nat → α) (k : Nat) : smGet d [] k = d k := rfl

theorem smGet_smIns (d : Nat → α) (k j : Nat) (v : α) (m : SMap α) :
    smGet d (smIns k v m) j = if j = k then v else smGet d m j := by
  induction m with
  | nil => rfl
  | cons e m ih =>
    obtain ⟨k', v'⟩ := e
    simp only [smIns]
    split
    · simp [smGet]
    · split
      · subst_vars
        by_cases h : j = k' <;> simp [smGet, h]
      · simp only [smGet, ih]
        split_ifs <;> first | rfl | omega

theorem smGet_smDel (d : Nat → α) (k j : Nat) (m : SMap α) :
    smGet d (smDel k m) j = if j = k then d k else smGet d m j := by
  induction m with
  | nil => by_cases h : j = k <;> simp [smDel, smGet, h]
  | cons e m ih =>
    obtain ⟨k', v'⟩ := e
    by_cases h : k = k'
    · subst h
      simp only [smDel, if_true, ih, smGet]
      by_cases h1 : j = k <;> simp [h1]
    · simp only [smDel, if_neg h, smGet, ih]
      split_ifs <;> first | rfl | omega

/-- A write is read back, and no other key changes: of any store, canonical or not. -/
theorem smGet_smPut [DecidableEq α] (d : Nat → α) (k j : Nat) (v : α) (m : SMap α) :
    smGet d (smPut d k v m) j = if j = k then v else smGet d m j := by
  by_cases hv : v = d k
  · subst hv
    simpa [smPut] using smGet_smDel d k j m
  · simpa [smPut, hv] using smGet_smIns d k j v m

@[simp] theorem smGet_smPut_self [DecidableEq α] (d : Nat → α) (k : Nat) (v : α) (m : SMap α) :
    smGet d (smPut d k v m) k = v := by simp [smGet_smPut]

theorem smGet_smPut_ne [DecidableEq α] (d : Nat → α) {k j : Nat} (h : j ≠ k) (v : α) (m : SMap α) :
    smGet d (smPut d k v m) j = smGet d m j := by simp [smGet_smPut, h]

/-- What is read after a filter by keys: the entry if its key stays, else what an unlisted key holds. -/
theorem smGet_filter_key (d : Nat → α) (p : Nat → Bool) (m : SMap α) (k : Nat) :
    smGet d (m.filter fun e => p e.1) k = if p k then smGet d m k else d k := by
  induction m with
  | nil => simp
  | cons e m ih =>
    obtain ⟨k', v'⟩ := e
    by_cases hp : p k'
    · simp only [List.filter_cons, hp, if_true, smGet, ih]
      by_cases h : k = k'
      · subst h; simp [hp]
      · simp [h]
    · simp only [List.filter_cons, hp, Bool.false_eq_true, if_false, ih, smGet]
      by_cases h : k = k'
      · subst h; simp [hp]
      · simp [h]

/-- Two stores over the same keys read alike where their defaults agree off the listed keys. -/
theorem smGet_congr (d e : Nat → α) (m : SMap α) (k : Nat) (h : d k = e k) : smGet d m k = smGet e m k := by
  induction m with
  | nil => exact h
  | cons x m ih => simp only [smGet, ih]

/-! ### The canonical form -/

theorem smIns_mem {k : Nat} {v : α} {m : SMap α} {e : Nat × α} (h : e ∈ smIns k v m) : e = (k, v) ∨ e ∈ m := by
  induction m with
  | nil => simpa [smIns] using h
  | cons x m ih =>
    obtain ⟨k', v'⟩ := x
    simp only [smIns] at h
    split at h
    · simpa using h
    · split at h
      · rcases List.mem_cons.1 h with h | h
        · exact .inl h
        · exact .inr (List.mem_cons_of_mem _ h)
      · rcases List.mem_cons.1 h with h | h
        · exact .inr (h ▸ List.mem_cons_self)
        · exact (ih h).imp id (List.mem_cons_of_mem _)

theorem smDel_mem {k : Nat} {m : SMap α} {e : Nat × α} (h : e ∈ smDel k m) : e ∈ m := by
  induction m with
  | nil => simp [smDel] at h
  | cons x m ih =>
    obtain ⟨k', v'⟩ := x
    simp only [smDel] at h
    split at h
    · exact List.mem_cons_of_mem _ (ih h)
    · rcases List.mem_cons.1 h with h | h
      · exact h ▸ List.mem_cons_self
      · exact List.mem_cons_of_mem _ (ih h)

theorem smIns_rising {k : Nat} {v : α} {m : SMap α} (h : m.Pairwise fun a b => a.1 < b.1) :
    (smIns k v m).Pairwise fun a b => a.1 < b.1 := by
  induction m with
  | nil => simp [smIns]
  | cons x m ih =>
    obtain ⟨k', v'⟩ := x
    rw [List.pairwise_cons] at h
    simp only [smIns]
    split
    · rename_i hk
      refine List.pairwise_cons.2 ⟨fun e he => ?_, List.pairwise_cons.2 h⟩
      rcases List.mem_cons.1 he with he | he
      · exact he ▸ hk
      · exact lt_trans hk (h.1 e he)
    · split
      · rename_i hk
        exact List.pairwise_cons.2 ⟨fun e he => hk ▸ h.1 e he, h.2⟩
      · refine List.pairwise_cons.2 ⟨fun e he => ?_, ih h.2⟩
        rcases smIns_mem he with he | he
        · subst he; dsimp only; omega
        · exact h.1 e he

theorem smDel_rising {k : Nat} {m : SMap α} (h : m.Pairwise fun a b => a.1 < b.1) :
    (smDel k m).Pairwise fun a b => a.1 < b.1 := by
  induction m with
  | nil => simp [smDel]
  | cons x m ih =>
    obtain ⟨k', v'⟩ := x
    rw [List.pairwise_cons] at h
    simp only [smDel]
    split
    · exact ih h.2
    · exact List.pairwise_cons.2 ⟨fun e he => h.1 e (smDel_mem he), ih h.2⟩

/-- A write keeps the canonical form. -/
theorem smPut_wf [DecidableEq α] {d : Nat → α} {m : SMap α} (h : smWf d m) (k : Nat) (v : α) : smWf d (smPut d k v m) := by
  by_cases hv : v = d k
  · simp only [smPut, hv, if_true]
    exact ⟨smDel_rising h.1, fun e he => h.2 e (smDel_mem he)⟩
  · simp only [smPut, hv, if_false]
    refine ⟨smIns_rising h.1, fun e he => ?_⟩
    rcases smIns_mem he with he | he
    · subst he; exact hv
    · exact h.2 e he

/-- A filter keeps the canonical form. -/
theorem filter_wf {d : Nat → α} {m : SMap α} (h : smWf d m) (p : Nat × α → Bool) : smWf d (m.filter p) :=
  ⟨h.1.filter p, fun e he => h.2 e (List.mem_of_mem_filter he)⟩

/-- Two canonical stores that read alike are the same list. -/
theorem sm_ext {d : Nat → α} {m n : SMap α} (hm : smWf d m) (hn : smWf d n) (h : ∀ k, smGet d m k = smGet d n k) : m = n := by
  have low : ∀ (l : SMap α) (k : Nat), (∀ e ∈ l, k < e.1) → smGet d l k = d k := by
    intro l k hl
    induction l with
    | nil => rfl
    | cons x l ih =>
      obtain ⟨k', v'⟩ := x
      have h1 : k < k' := hl (k', v') List.mem_cons_self
      have h2 := ih fun e he => hl e (List.mem_cons_of_mem _ he)
      simp only [smGet, if_neg (Nat.ne_of_lt h1), h2]
  induction m generalizing n with
  | nil =>
    cases n with
    | nil => rfl
    | cons y n =>
      obtain ⟨k, v⟩ := y
      have := h k
      simp only [smGet, if_true] at this
      exact absurd this.symm (hn.2 (k, v) List.mem_cons_self)
  | cons x m ih =>
    obtain ⟨k, v⟩ := x
    have hm' := List.pairwise_cons.1 hm.1
    cases n with
    | nil =>
      have := h k
      simp only [smGet, if_true] at this
      exact absurd this (hm.2 (k, v) List.mem_cons_self)
    | cons y n =>
      obtain ⟨j, w⟩ := y
      have hn' := List.pairwise_cons.1 hn.1
      have hkj : k = j := by
        rcases lt_trichotomy k j with hl | hl | hl
        · have h1 := h k
          rw [low ((j, w) :: n) k (by
            intro e he
            rcases List.mem_cons.1 he with he | he
            · exact he ▸ hl
            · exact lt_trans hl (hn'.1 e he))] at h1
          simp only [smGet, if_true] at h1
          exact absurd h1 (hm.2 (k, v) List.mem_cons_self)
        · exact hl
        · have h1 := h j
          rw [low ((k, v) :: m) j (by
            intro e he
            rcases List.mem_cons.1 he with he | he
            · exact he ▸ hl
            · exact lt_trans hl (hm'.1 e he))] at h1
          simp only [smGet, if_true] at h1
          exact absurd h1.symm (hn.2 (j, w) List.mem_cons_self)
      subst hkj
      have hv : v = w := by have := h k; simpa [smGet] using this
      subst hv
      congr 1
      refine ih ⟨hm'.2, fun e he => hm.2 e (List.mem_cons_of_mem _ he)⟩ ⟨hn'.2, fun e he => hn.2 e (List.mem_cons_of_mem _ he)⟩ fun i => ?_
      by_cases hi : i = k
      · subst hi
        rw [low m i hm'.1, low n i hn'.1]
      · have := h i
        simpa [smGet, hi] using this

end Sys2Proof.Machine
end

