-- ==== Sys2Proof/Laws/Word.lean ====
section
/-!
SUPPORT. Fields of a word, and little-endian bytes.
-/

namespace Sys2Proof

theorem fieldOf_lt (w : W64) (hi lo : Nat) : fieldOf w hi lo < 2 ^ (hi + 1 - lo) := Nat.mod_lt _ (by positivity)

/-- A low part and a high part lie below the product of their bounds. -/
theorem mix_lt {a b A B : Nat} (ha : a < A) (hb : b < B) : a + b * A < A * B := by
  have h := Nat.mul_le_mul_right A (Nat.succ_le_of_lt hb)
  rw [Nat.succ_mul, Nat.mul_comm B A] at h
  omega

/-- A word is what lies below a field, the field, and what lies above it. -/
theorem word_split (n hi lo : Nat) (h : lo ≤ hi + 1) :
    n = n % 2 ^ lo + n / 2 ^ lo % 2 ^ (hi + 1 - lo) * 2 ^ lo + n / 2 ^ (hi + 1) * 2 ^ (hi + 1) := by
  have h1 := Nat.div_add_mod n (2 ^ lo)
  have h2 := Nat.div_add_mod (n / 2 ^ lo) (2 ^ (hi + 1 - lo))
  rw [Nat.div_div_eq_div_mul, ← pow_add, Nat.add_sub_cancel' h] at h2
  have h3 : 2 ^ lo * (2 ^ (hi + 1 - lo) * (n / 2 ^ (hi + 1))) = n / 2 ^ (hi + 1) * 2 ^ (hi + 1) := by
    rw [← mul_assoc, ← pow_add, Nat.add_sub_cancel' h, mul_comm]
  have h4 := congrArg (2 ^ lo * ·) h2
  simp only [mul_add, h3] at h4
  rw [Nat.mul_comm (n / 2 ^ lo % _)]
  omega

/-- A word with a field replaced, as a number. -/
theorem withField_toNat (w : W64) (hi lo v : Nat) (hl : lo ≤ hi) (hh : hi < 64) :
    (withField w hi lo v).toNat =
      w.toNat % 2 ^ lo + v % 2 ^ (hi + 1 - lo) * 2 ^ lo + w.toNat / 2 ^ (hi + 1) * 2 ^ (hi + 1) := by
  have hs := word_split w.toNat hi lo (by omega)
  have hv : v % 2 ^ (hi + 1 - lo) < 2 ^ (hi + 1 - lo) := Nat.mod_lt _ (by positivity)
  have hlow : w.toNat % 2 ^ lo < 2 ^ lo := Nat.mod_lt _ (by positivity)
  have hp : 2 ^ lo * 2 ^ (hi + 1 - lo) = 2 ^ (hi + 1) := by rw [← pow_add, Nat.add_sub_cancel' (by omega)]
  have htop : w.toNat / 2 ^ (hi + 1) * 2 ^ (hi + 1) + 2 ^ (hi + 1) ≤ 2 ^ 64 := by
    have hq : w.toNat / 2 ^ (hi + 1) < 2 ^ (64 - (hi + 1)) := by
      rw [Nat.div_lt_iff_lt_mul (by positivity), ← pow_add, Nat.sub_add_cancel (by omega)]
      exact w.isLt
    have := Nat.mul_le_mul_right (2 ^ (hi + 1)) (Nat.succ_le_of_lt hq)
    rw [← pow_add, Nat.sub_add_cancel (by omega)] at this
    linarith
  have hb : w.toNat % 2 ^ lo + v % 2 ^ (hi + 1 - lo) * 2 ^ lo < 2 ^ (hi + 1) := hp ▸ mix_lt hlow hv
  unfold withField fieldOf
  rw [BitVec.toNat_ofNat, Nat.mod_eq_of_lt] <;> omega

theorem fieldOf_withField (w : W64) (hi lo v : Nat) (hl : lo ≤ hi) (hh : hi < 64) :
    fieldOf (withField w hi lo v) hi lo = v % 2 ^ (hi + 1 - lo) := by
  have hp : 2 ^ (hi + 1) = 2 ^ lo * 2 ^ (hi + 1 - lo) := by rw [← pow_add, Nat.add_sub_cancel' (by omega)]
  rw [fieldOf, withField_toNat w hi lo v hl hh, hp]
  have h0 : (0 : Nat) < 2 ^ lo := by positivity
  have hlow : w.toNat % 2 ^ lo < 2 ^ lo := Nat.mod_lt _ h0
  generalize w.toNat / (2 ^ lo * 2 ^ (hi + 1 - lo)) = q
  rw [show w.toNat % 2 ^ lo + v % 2 ^ (hi + 1 - lo) * 2 ^ lo + q * (2 ^ lo * 2 ^ (hi + 1 - lo)) =
    w.toNat % 2 ^ lo + 2 ^ lo * (v % 2 ^ (hi + 1 - lo) + 2 ^ (hi + 1 - lo) * q) by ring, Nat.add_mul_div_left _ _ h0,
    Nat.div_eq_of_lt hlow, zero_add, Nat.add_mul_mod_self_left, Nat.mod_mod]

theorem fieldOf_withField_apart (w : W64) (hi lo v hi' lo' : Nat) (hl : lo ≤ hi) (hh : hi < 64) (_ : hi' < 64)
    (h : hi < lo' ∨ hi' < lo) : fieldOf (withField w hi lo v) hi' lo' = fieldOf w hi' lo' := by
  have hs := word_split w.toNat hi lo (by omega)
  have hv : v % 2 ^ (hi + 1 - lo) < 2 ^ (hi + 1 - lo) := Nat.mod_lt _ (by positivity)
  have hu : w.toNat / 2 ^ lo % 2 ^ (hi + 1 - lo) < 2 ^ (hi + 1 - lo) := Nat.mod_lt _ (by positivity)
  have hlow : w.toNat % 2 ^ lo < 2 ^ lo := Nat.mod_lt _ (by positivity)
  have hp : 2 ^ lo * 2 ^ (hi + 1 - lo) = 2 ^ (hi + 1) := by rw [← pow_add, Nat.add_sub_cancel' (by omega)]
  rw [fieldOf, fieldOf, withField_toNat w hi lo v hl hh]
  rcases h with h | h
  · have key : ∀ b : Nat, b < 2 ^ (hi + 1) → ∀ q, (b + q * 2 ^ (hi + 1)) / 2 ^ lo' = q / 2 ^ (lo' - (hi + 1)) := by
      intro b hb q
      obtain ⟨j, rfl⟩ : ∃ j, lo' = (hi + 1) + j := ⟨lo' - (hi + 1), by omega⟩
      rw [pow_add 2 (hi + 1) j, ← Nat.div_div_eq_div_mul, Nat.add_mul_div_right _ _ (by positivity), Nat.div_eq_of_lt hb, zero_add,
        Nat.add_sub_cancel_left]
    have hb1 : w.toNat % 2 ^ lo + v % 2 ^ (hi + 1 - lo) * 2 ^ lo < 2 ^ (hi + 1) := hp ▸ mix_lt hlow hv
    have hb2 : w.toNat % 2 ^ lo + w.toNat / 2 ^ lo % 2 ^ (hi + 1 - lo) * 2 ^ lo < 2 ^ (hi + 1) := hp ▸ mix_lt hlow hu
    conv_rhs => rw [hs]
    rw [key _ hb1, key _ hb2]
  · by_cases hlt : lo' ≤ hi'
    · have hp' : 2 ^ lo = 2 ^ (hi' + 1) * 2 ^ (lo - (hi' + 1)) := by rw [← pow_add, Nat.add_sub_cancel' (by omega)]
      have hf : ∀ n : Nat, n / 2 ^ lo' % 2 ^ (hi' + 1 - lo') = n % 2 ^ (hi' + 1) / 2 ^ lo' := by
        intro n
        rw [show hi' + 1 = lo' + (hi' + 1 - lo') by omega, pow_add, Nat.mod_mul_right_div_self, Nat.add_sub_cancel_left]
      rw [hf, hf]
      have e1 : ∀ x y : Nat, (w.toNat % 2 ^ lo + x * 2 ^ lo + y * 2 ^ (hi + 1)) % 2 ^ (hi' + 1) = w.toNat % 2 ^ lo % 2 ^ (hi' + 1) := by
        intro x y
        rw [← hp, hp', show w.toNat % (2 ^ (hi' + 1) * 2 ^ (lo - (hi' + 1))) + x * (2 ^ (hi' + 1) * 2 ^ (lo - (hi' + 1))) +
          y * (2 ^ (hi' + 1) * 2 ^ (lo - (hi' + 1)) * 2 ^ (hi + 1 - lo)) =
          w.toNat % (2 ^ (hi' + 1) * 2 ^ (lo - (hi' + 1))) + 2 ^ (hi' + 1) * (x * 2 ^ (lo - (hi' + 1)) + y * (2 ^ (lo - (hi' + 1)) * 2 ^ (hi + 1 - lo))) by ring,
          Nat.add_mul_mod_self_left]
      conv_rhs => rw [hs]
      rw [e1, e1]
    · simp [show hi' + 1 - lo' = 0 by omega, Nat.mod_one]

/-! ### Bytes -/

theorem leNat_lt (bs : List Byte) : leNat bs < 256 ^ bs.length := by
  induction bs with
  | nil => simp [leNat]
  | cons b bs ih =>
    have := b.isLt
    simp only [leNat, List.length_cons, pow_succ]
    omega

@[simp] theorem leBytes_length (n v : Nat) : (leBytes n v).length = n := by
  induction n generalizing v with
  | zero => rfl
  | succ n ih => simp [leBytes, ih]

/-- Bytes spell the number that they come from, modulo their room. -/
theorem leNat_leBytes (n v : Nat) : leNat (leBytes n v) = v % 256 ^ n := by
  induction n generalizing v with
  | zero => simp [leBytes, leNat, Nat.mod_one]
  | succ n ih =>
    simp only [leBytes, leNat, ih, BitVec.toNat_ofNat]
    rw [show 256 ^ (n + 1) = 256 * 256 ^ n by ring, Nat.mod_mul]

end Sys2Proof
end

