-- ==== Sys2Proof/Laws/State.lean ====
section
/-!
SUPPORT. What each update of the state leaves as it is: one equation for each field and update.
-/

namespace Sys2Proof.Machine

variable (s : State)

/-! ### State.setWord -/

@[simp] theorem State.setWord_pending (a : Nat) (v : W64) : (s.setWord a v).pending = s.pending := rfl
@[simp] theorem State.setWord_free (a : Nat) (v : W64) : (s.setWord a v).free = s.free := rfl
@[simp] theorem State.setWord_staged (a : Nat) (v : W64) : (s.setWord a v).staged = s.staged := rfl
@[simp] theorem State.setWord_captured (a : Nat) (v : W64) : (s.setWord a v).captured = s.captured := rfl
@[simp] theorem State.setWord_checking (a : Nat) (v : W64) : (s.setWord a v).checking = s.checking := rfl
@[simp] theorem State.setWord_blend (a : Nat) (v : W64) : (s.setWord a v).blend = s.blend := rfl
@[simp] theorem State.setWord_mem (a : Nat) (v : W64) : (s.setWord a v).mem = s.mem := rfl
@[simp] theorem State.setWord_ctxs (a : Nat) (v : W64) : (s.setWord a v).ctxs = s.ctxs := rfl
@[simp] theorem State.setWord_ctxCmds (a : Nat) (v : W64) : (s.setWord a v).ctxCmds = s.ctxCmds := rfl
@[simp] theorem State.setWord_requests (a : Nat) (v : W64) : (s.setWord a v).requests = s.requests := rfl
@[simp] theorem State.setWord_abandoned (a : Nat) (v : W64) : (s.setWord a v).abandoned = s.abandoned := rfl
@[simp] theorem State.setWord_nextTag (a : Nat) (v : W64) : (s.setWord a v).nextTag = s.nextTag := rfl
@[simp] theorem State.setWord_tiles (a : Nat) (v : W64) : (s.setWord a v).tiles = s.tiles := rfl
@[simp] theorem State.setWord_cores (a : Nat) (v : W64) : (s.setWord a v).cores = s.cores := rfl
@[simp] theorem State.setWord_ctrs (a : Nat) (v : W64) : (s.setWord a v).ctrs = s.ctrs := rfl
@[simp] theorem State.setWord_transit (a : Nat) (v : W64) : (s.setWord a v).transit = s.transit := rfl
@[simp] theorem State.setWord_dies (a : Nat) (v : W64) : (s.setWord a v).dies = s.dies := rfl
@[simp] theorem State.setWord_layers (a : Nat) (v : W64) : (s.setWord a v).layers = s.layers := rfl
@[simp] theorem State.setWord_cells (a : Nat) (v : W64) : (s.setWord a v).cells = s.cells := rfl
@[simp] theorem State.setWord_scales (a : Nat) (v : W64) : (s.setWord a v).scales = s.scales := rfl
@[simp] theorem State.setWord_passSeq (a : Nat) (v : W64) : (s.setWord a v).passSeq = s.passSeq := rfl
@[simp] theorem State.setWord_ringSeq (a : Nat) (v : W64) : (s.setWord a v).ringSeq = s.ringSeq := rfl
@[simp] theorem State.setWord_links (a : Nat) (v : W64) : (s.setWord a v).links = s.links := rfl
@[simp] theorem State.setWord_engines (a : Nat) (v : W64) : (s.setWord a v).engines = s.engines := rfl
@[simp] theorem State.setWord_delivered (a : Nat) (v : W64) : (s.setWord a v).delivered = s.delivered := rfl
@[simp] theorem State.setWord_frames (a : Nat) (v : W64) : (s.setWord a v).frames = s.frames := rfl
@[simp] theorem State.setWord_buckets (a : Nat) (v : W64) : (s.setWord a v).buckets = s.buckets := rfl
@[simp] theorem State.setWord_openSeqs (a : Nat) (v : W64) : (s.setWord a v).openSeqs = s.openSeqs := rfl
@[simp] theorem State.setWord_parked (a : Nat) (v : W64) : (s.setWord a v).parked = s.parked := rfl
@[simp] theorem State.setWord_earlyAborts (a : Nat) (v : W64) : (s.setWord a v).earlyAborts = s.earlyAborts := rfl
@[simp] theorem State.setWord_abortsSent (a : Nat) (v : W64) : (s.setWord a v).abortsSent = s.abortsSent := rfl
@[simp] theorem State.setWord_digests (a : Nat) (v : W64) : (s.setWord a v).digests = s.digests := rfl
@[simp] theorem State.setWord_qps (a : Nat) (v : W64) : (s.setWord a v).qps = s.qps := rfl
@[simp] theorem State.setWord_prioShare (a : Nat) (v : W64) : (s.setWord a v).prioShare = s.prioShare := rfl
@[simp] theorem State.setWord_pausedPrio (a : Nat) (v : W64) : (s.setWord a v).pausedPrio = s.pausedPrio := rfl
@[simp] theorem State.setWord_pauseSent (a : Nat) (v : W64) : (s.setWord a v).pauseSent = s.pauseSent := rfl
@[simp] theorem State.setWord_sessions (a : Nat) (v : W64) : (s.setWord a v).sessions = s.sessions := rfl
@[simp] theorem State.setWord_slotFails (a : Nat) (v : W64) : (s.setWord a v).slotFails = s.slotFails := rfl
@[simp] theorem State.setWord_slotLocked (a : Nat) (v : W64) : (s.setWord a v).slotLocked = s.slotLocked := rfl
@[simp] theorem State.setWord_out (a : Nat) (v : W64) : (s.setWord a v).out = s.out := rfl
@[simp] theorem State.setWord_sent (a : Nat) (v : W64) : (s.setWord a v).sent = s.sent := rfl
@[simp] theorem State.setWord_turns (a : Nat) (v : W64) : (s.setWord a v).turns = s.turns := rfl
@[simp] theorem State.setWord_svc (a : Nat) (v : W64) : (s.setWord a v).svc = s.svc := rfl
@[simp] theorem State.setWord_power (a : Nat) (v : W64) : (s.setWord a v).power = s.power := rfl
@[simp] theorem State.setWord_hkc (a : Nat) (v : W64) : (s.setWord a v).hkc = s.hkc := rfl
@[simp] theorem State.setWord_rel (a : Nat) (v : W64) : (s.setWord a v).rel = s.rel := rfl
@[simp] theorem State.setWord_journal (a : Nat) (v : W64) : (s.setWord a v).journal = s.journal := rfl
@[simp] theorem State.setWord_boot (a : Nat) (v : W64) : (s.setWord a v).boot = s.boot := rfl
@[simp] theorem State.setWord_pins (a : Nat) (v : W64) : (s.setWord a v).pins = s.pins := rfl

/-! ### State.set -/

@[simp] theorem State.set_pending (f : Fld) (i j v : Nat) : (s.set f i j v).pending = s.pending := rfl
@[simp] theorem State.set_free (f : Fld) (i j v : Nat) : (s.set f i j v).free = s.free := rfl
@[simp] theorem State.set_staged (f : Fld) (i j v : Nat) : (s.set f i j v).staged = s.staged := rfl
@[simp] theorem State.set_captured (f : Fld) (i j v : Nat) : (s.set f i j v).captured = s.captured := rfl
@[simp] theorem State.set_checking (f : Fld) (i j v : Nat) : (s.set f i j v).checking = s.checking := rfl
@[simp] theorem State.set_blend (f : Fld) (i j v : Nat) : (s.set f i j v).blend = s.blend := rfl
@[simp] theorem State.set_mem (f : Fld) (i j v : Nat) : (s.set f i j v).mem = s.mem := rfl
@[simp] theorem State.set_ctxs (f : Fld) (i j v : Nat) : (s.set f i j v).ctxs = s.ctxs := rfl
@[simp] theorem State.set_ctxCmds (f : Fld) (i j v : Nat) : (s.set f i j v).ctxCmds = s.ctxCmds := rfl
@[simp] theorem State.set_requests (f : Fld) (i j v : Nat) : (s.set f i j v).requests = s.requests := rfl
@[simp] theorem State.set_abandoned (f : Fld) (i j v : Nat) : (s.set f i j v).abandoned = s.abandoned := rfl
@[simp] theorem State.set_nextTag (f : Fld) (i j v : Nat) : (s.set f i j v).nextTag = s.nextTag := rfl
@[simp] theorem State.set_tiles (f : Fld) (i j v : Nat) : (s.set f i j v).tiles = s.tiles := rfl
@[simp] theorem State.set_cores (f : Fld) (i j v : Nat) : (s.set f i j v).cores = s.cores := rfl
@[simp] theorem State.set_ctrs (f : Fld) (i j v : Nat) : (s.set f i j v).ctrs = s.ctrs := rfl
@[simp] theorem State.set_transit (f : Fld) (i j v : Nat) : (s.set f i j v).transit = s.transit := rfl
@[simp] theorem State.set_dies (f : Fld) (i j v : Nat) : (s.set f i j v).dies = s.dies := rfl
@[simp] theorem State.set_layers (f : Fld) (i j v : Nat) : (s.set f i j v).layers = s.layers := rfl
@[simp] theorem State.set_cells (f : Fld) (i j v : Nat) : (s.set f i j v).cells = s.cells := rfl
@[simp] theorem State.set_scales (f : Fld) (i j v : Nat) : (s.set f i j v).scales = s.scales := rfl
@[simp] theorem State.set_passSeq (f : Fld) (i j v : Nat) : (s.set f i j v).passSeq = s.passSeq := rfl
@[simp] theorem State.set_ringSeq (f : Fld) (i j v : Nat) : (s.set f i j v).ringSeq = s.ringSeq := rfl
@[simp] theorem State.set_links (f : Fld) (i j v : Nat) : (s.set f i j v).links = s.links := rfl
@[simp] theorem State.set_engines (f : Fld) (i j v : Nat) : (s.set f i j v).engines = s.engines := rfl
@[simp] theorem State.set_delivered (f : Fld) (i j v : Nat) : (s.set f i j v).delivered = s.delivered := rfl
@[simp] theorem State.set_frames (f : Fld) (i j v : Nat) : (s.set f i j v).frames = s.frames := rfl
@[simp] theorem State.set_buckets (f : Fld) (i j v : Nat) : (s.set f i j v).buckets = s.buckets := rfl
@[simp] theorem State.set_openSeqs (f : Fld) (i j v : Nat) : (s.set f i j v).openSeqs = s.openSeqs := rfl
@[simp] theorem State.set_parked (f : Fld) (i j v : Nat) : (s.set f i j v).parked = s.parked := rfl
@[simp] theorem State.set_earlyAborts (f : Fld) (i j v : Nat) : (s.set f i j v).earlyAborts = s.earlyAborts := rfl
@[simp] theorem State.set_abortsSent (f : Fld) (i j v : Nat) : (s.set f i j v).abortsSent = s.abortsSent := rfl
@[simp] theorem State.set_digests (f : Fld) (i j v : Nat) : (s.set f i j v).digests = s.digests := rfl
@[simp] theorem State.set_qps (f : Fld) (i j v : Nat) : (s.set f i j v).qps = s.qps := rfl
@[simp] theorem State.set_prioShare (f : Fld) (i j v : Nat) : (s.set f i j v).prioShare = s.prioShare := rfl
@[simp] theorem State.set_pausedPrio (f : Fld) (i j v : Nat) : (s.set f i j v).pausedPrio = s.pausedPrio := rfl
@[simp] theorem State.set_pauseSent (f : Fld) (i j v : Nat) : (s.set f i j v).pauseSent = s.pauseSent := rfl
@[simp] theorem State.set_sessions (f : Fld) (i j v : Nat) : (s.set f i j v).sessions = s.sessions := rfl
@[simp] theorem State.set_slotFails (f : Fld) (i j v : Nat) : (s.set f i j v).slotFails = s.slotFails := rfl
@[simp] theorem State.set_slotLocked (f : Fld) (i j v : Nat) : (s.set f i j v).slotLocked = s.slotLocked := rfl
@[simp] theorem State.set_out (f : Fld) (i j v : Nat) : (s.set f i j v).out = s.out := rfl
@[simp] theorem State.set_sent (f : Fld) (i j v : Nat) : (s.set f i j v).sent = s.sent := rfl
@[simp] theorem State.set_turns (f : Fld) (i j v : Nat) : (s.set f i j v).turns = s.turns := rfl
@[simp] theorem State.set_svc (f : Fld) (i j v : Nat) : (s.set f i j v).svc = s.svc := rfl
@[simp] theorem State.set_power (f : Fld) (i j v : Nat) : (s.set f i j v).power = s.power := rfl
@[simp] theorem State.set_hkc (f : Fld) (i j v : Nat) : (s.set f i j v).hkc = s.hkc := rfl
@[simp] theorem State.set_rel (f : Fld) (i j v : Nat) : (s.set f i j v).rel = s.rel := rfl
@[simp] theorem State.set_journal (f : Fld) (i j v : Nat) : (s.set f i j v).journal = s.journal := rfl
@[simp] theorem State.set_boot (f : Fld) (i j v : Nat) : (s.set f i j v).boot = s.boot := rfl
@[simp] theorem State.set_pins (f : Fld) (i j v : Nat) : (s.set f i j v).pins = s.pins := rfl

/-! ### State.bump -/

@[simp] theorem State.bump_pending (f : Fld) (i j n : Nat) : (s.bump f i j n).pending = s.pending := rfl
@[simp] theorem State.bump_free (f : Fld) (i j n : Nat) : (s.bump f i j n).free = s.free := rfl
@[simp] theorem State.bump_staged (f : Fld) (i j n : Nat) : (s.bump f i j n).staged = s.staged := rfl
@[simp] theorem State.bump_captured (f : Fld) (i j n : Nat) : (s.bump f i j n).captured = s.captured := rfl
@[simp] theorem State.bump_checking (f : Fld) (i j n : Nat) : (s.bump f i j n).checking = s.checking := rfl
@[simp] theorem State.bump_blend (f : Fld) (i j n : Nat) : (s.bump f i j n).blend = s.blend := rfl
@[simp] theorem State.bump_mem (f : Fld) (i j n : Nat) : (s.bump f i j n).mem = s.mem := rfl
@[simp] theorem State.bump_ctxs (f : Fld) (i j n : Nat) : (s.bump f i j n).ctxs = s.ctxs := rfl
@[simp] theorem State.bump_ctxCmds (f : Fld) (i j n : Nat) : (s.bump f i j n).ctxCmds = s.ctxCmds := rfl
@[simp] theorem State.bump_requests (f : Fld) (i j n : Nat) : (s.bump f i j n).requests = s.requests := rfl
@[simp] theorem State.bump_abandoned (f : Fld) (i j n : Nat) : (s.bump f i j n).abandoned = s.abandoned := rfl
@[simp] theorem State.bump_nextTag (f : Fld) (i j n : Nat) : (s.bump f i j n).nextTag = s.nextTag := rfl
@[simp] theorem State.bump_tiles (f : Fld) (i j n : Nat) : (s.bump f i j n).tiles = s.tiles := rfl
@[simp] theorem State.bump_cores (f : Fld) (i j n : Nat) : (s.bump f i j n).cores = s.cores := rfl
@[simp] theorem State.bump_ctrs (f : Fld) (i j n : Nat) : (s.bump f i j n).ctrs = s.ctrs := rfl
@[simp] theorem State.bump_transit (f : Fld) (i j n : Nat) : (s.bump f i j n).transit = s.transit := rfl
@[simp] theorem State.bump_dies (f : Fld) (i j n : Nat) : (s.bump f i j n).dies = s.dies := rfl
@[simp] theorem State.bump_layers (f : Fld) (i j n : Nat) : (s.bump f i j n).layers = s.layers := rfl
@[simp] theorem State.bump_cells (f : Fld) (i j n : Nat) : (s.bump f i j n).cells = s.cells := rfl
@[simp] theorem State.bump_scales (f : Fld) (i j n : Nat) : (s.bump f i j n).scales = s.scales := rfl
@[simp] theorem State.bump_passSeq (f : Fld) (i j n : Nat) : (s.bump f i j n).passSeq = s.passSeq := rfl
@[simp] theorem State.bump_ringSeq (f : Fld) (i j n : Nat) : (s.bump f i j n).ringSeq = s.ringSeq := rfl
@[simp] theorem State.bump_links (f : Fld) (i j n : Nat) : (s.bump f i j n).links = s.links := rfl
@[simp] theorem State.bump_engines (f : Fld) (i j n : Nat) : (s.bump f i j n).engines = s.engines := rfl
@[simp] theorem State.bump_delivered (f : Fld) (i j n : Nat) : (s.bump f i j n).delivered = s.delivered := rfl
@[simp] theorem State.bump_frames (f : Fld) (i j n : Nat) : (s.bump f i j n).frames = s.frames := rfl
@[simp] theorem State.bump_buckets (f : Fld) (i j n : Nat) : (s.bump f i j n).buckets = s.buckets := rfl
@[simp] theorem State.bump_openSeqs (f : Fld) (i j n : Nat) : (s.bump f i j n).openSeqs = s.openSeqs := rfl
@[simp] theorem State.bump_parked (f : Fld) (i j n : Nat) : (s.bump f i j n).parked = s.parked := rfl
@[simp] theorem State.bump_earlyAborts (f : Fld) (i j n : Nat) : (s.bump f i j n).earlyAborts = s.earlyAborts := rfl
@[simp] theorem State.bump_abortsSent (f : Fld) (i j n : Nat) : (s.bump f i j n).abortsSent = s.abortsSent := rfl
@[simp] theorem State.bump_digests (f : Fld) (i j n : Nat) : (s.bump f i j n).digests = s.digests := rfl
@[simp] theorem State.bump_qps (f : Fld) (i j n : Nat) : (s.bump f i j n).qps = s.qps := rfl
@[simp] theorem State.bump_prioShare (f : Fld) (i j n : Nat) : (s.bump f i j n).prioShare = s.prioShare := rfl
@[simp] theorem State.bump_pausedPrio (f : Fld) (i j n : Nat) : (s.bump f i j n).pausedPrio = s.pausedPrio := rfl
@[simp] theorem State.bump_pauseSent (f : Fld) (i j n : Nat) : (s.bump f i j n).pauseSent = s.pauseSent := rfl
@[simp] theorem State.bump_sessions (f : Fld) (i j n : Nat) : (s.bump f i j n).sessions = s.sessions := rfl
@[simp] theorem State.bump_slotFails (f : Fld) (i j n : Nat) : (s.bump f i j n).slotFails = s.slotFails := rfl
@[simp] theorem State.bump_slotLocked (f : Fld) (i j n : Nat) : (s.bump f i j n).slotLocked = s.slotLocked := rfl
@[simp] theorem State.bump_out (f : Fld) (i j n : Nat) : (s.bump f i j n).out = s.out := rfl
@[simp] theorem State.bump_sent (f : Fld) (i j n : Nat) : (s.bump f i j n).sent = s.sent := rfl
@[simp] theorem State.bump_turns (f : Fld) (i j n : Nat) : (s.bump f i j n).turns = s.turns := rfl
@[simp] theorem State.bump_svc (f : Fld) (i j n : Nat) : (s.bump f i j n).svc = s.svc := rfl
@[simp] theorem State.bump_power (f : Fld) (i j n : Nat) : (s.bump f i j n).power = s.power := rfl
@[simp] theorem State.bump_hkc (f : Fld) (i j n : Nat) : (s.bump f i j n).hkc = s.hkc := rfl
@[simp] theorem State.bump_rel (f : Fld) (i j n : Nat) : (s.bump f i j n).rel = s.rel := rfl
@[simp] theorem State.bump_journal (f : Fld) (i j n : Nat) : (s.bump f i j n).journal = s.journal := rfl
@[simp] theorem State.bump_boot (f : Fld) (i j n : Nat) : (s.bump f i j n).boot = s.boot := rfl
@[simp] theorem State.bump_pins (f : Fld) (i j n : Nat) : (s.bump f i j n).pins = s.pins := rfl

/-! ### State.setStaged -/

@[simp] theorem State.setStaged_pending (a : Nat) (v : W64) : (s.setStaged a v).pending = s.pending := rfl
@[simp] theorem State.setStaged_free (a : Nat) (v : W64) : (s.setStaged a v).free = s.free := rfl
@[simp] theorem State.setStaged_ctl (a : Nat) (v : W64) : (s.setStaged a v).ctl = s.ctl := rfl
@[simp] theorem State.setStaged_captured (a : Nat) (v : W64) : (s.setStaged a v).captured = s.captured := rfl
@[simp] theorem State.setStaged_checking (a : Nat) (v : W64) : (s.setStaged a v).checking = s.checking := rfl
@[simp] theorem State.setStaged_blend (a : Nat) (v : W64) : (s.setStaged a v).blend = s.blend := rfl
@[simp] theorem State.setStaged_mem (a : Nat) (v : W64) : (s.setStaged a v).mem = s.mem := rfl
@[simp] theorem State.setStaged_ctxs (a : Nat) (v : W64) : (s.setStaged a v).ctxs = s.ctxs := rfl
@[simp] theorem State.setStaged_ctxCmds (a : Nat) (v : W64) : (s.setStaged a v).ctxCmds = s.ctxCmds := rfl
@[simp] theorem State.setStaged_requests (a : Nat) (v : W64) : (s.setStaged a v).requests = s.requests := rfl
@[simp] theorem State.setStaged_abandoned (a : Nat) (v : W64) : (s.setStaged a v).abandoned = s.abandoned := rfl
@[simp] theorem State.setStaged_nextTag (a : Nat) (v : W64) : (s.setStaged a v).nextTag = s.nextTag := rfl
@[simp] theorem State.setStaged_tiles (a : Nat) (v : W64) : (s.setStaged a v).tiles = s.tiles := rfl
@[simp] theorem State.setStaged_cores (a : Nat) (v : W64) : (s.setStaged a v).cores = s.cores := rfl
@[simp] theorem State.setStaged_ctrs (a : Nat) (v : W64) : (s.setStaged a v).ctrs = s.ctrs := rfl
@[simp] theorem State.setStaged_transit (a : Nat) (v : W64) : (s.setStaged a v).transit = s.transit := rfl
@[simp] theorem State.setStaged_dies (a : Nat) (v : W64) : (s.setStaged a v).dies = s.dies := rfl
@[simp] theorem State.setStaged_layers (a : Nat) (v : W64) : (s.setStaged a v).layers = s.layers := rfl
@[simp] theorem State.setStaged_cells (a : Nat) (v : W64) : (s.setStaged a v).cells = s.cells := rfl
@[simp] theorem State.setStaged_scales (a : Nat) (v : W64) : (s.setStaged a v).scales = s.scales := rfl
@[simp] theorem State.setStaged_passSeq (a : Nat) (v : W64) : (s.setStaged a v).passSeq = s.passSeq := rfl
@[simp] theorem State.setStaged_ringSeq (a : Nat) (v : W64) : (s.setStaged a v).ringSeq = s.ringSeq := rfl
@[simp] theorem State.setStaged_links (a : Nat) (v : W64) : (s.setStaged a v).links = s.links := rfl
@[simp] theorem State.setStaged_engines (a : Nat) (v : W64) : (s.setStaged a v).engines = s.engines := rfl
@[simp] theorem State.setStaged_delivered (a : Nat) (v : W64) : (s.setStaged a v).delivered = s.delivered := rfl
@[simp] theorem State.setStaged_frames (a : Nat) (v : W64) : (s.setStaged a v).frames = s.frames := rfl
@[simp] theorem State.setStaged_buckets (a : Nat) (v : W64) : (s.setStaged a v).buckets = s.buckets := rfl
@[simp] theorem State.setStaged_openSeqs (a : Nat) (v : W64) : (s.setStaged a v).openSeqs = s.openSeqs := rfl
@[simp] theorem State.setStaged_parked (a : Nat) (v : W64) : (s.setStaged a v).parked = s.parked := rfl
@[simp] theorem State.setStaged_earlyAborts (a : Nat) (v : W64) : (s.setStaged a v).earlyAborts = s.earlyAborts := rfl
@[simp] theorem State.setStaged_abortsSent (a : Nat) (v : W64) : (s.setStaged a v).abortsSent = s.abortsSent := rfl
@[simp] theorem State.setStaged_digests (a : Nat) (v : W64) : (s.setStaged a v).digests = s.digests := rfl
@[simp] theorem State.setStaged_qps (a : Nat) (v : W64) : (s.setStaged a v).qps = s.qps := rfl
@[simp] theorem State.setStaged_prioShare (a : Nat) (v : W64) : (s.setStaged a v).prioShare = s.prioShare := rfl
@[simp] theorem State.setStaged_pausedPrio (a : Nat) (v : W64) : (s.setStaged a v).pausedPrio = s.pausedPrio := rfl
@[simp] theorem State.setStaged_pauseSent (a : Nat) (v : W64) : (s.setStaged a v).pauseSent = s.pauseSent := rfl
@[simp] theorem State.setStaged_sessions (a : Nat) (v : W64) : (s.setStaged a v).sessions = s.sessions := rfl
@[simp] theorem State.setStaged_slotFails (a : Nat) (v : W64) : (s.setStaged a v).slotFails = s.slotFails := rfl
@[simp] theorem State.setStaged_slotLocked (a : Nat) (v : W64) : (s.setStaged a v).slotLocked = s.slotLocked := rfl
@[simp] theorem State.setStaged_out (a : Nat) (v : W64) : (s.setStaged a v).out = s.out := rfl
@[simp] theorem State.setStaged_sent (a : Nat) (v : W64) : (s.setStaged a v).sent = s.sent := rfl
@[simp] theorem State.setStaged_turns (a : Nat) (v : W64) : (s.setStaged a v).turns = s.turns := rfl
@[simp] theorem State.setStaged_svc (a : Nat) (v : W64) : (s.setStaged a v).svc = s.svc := rfl
@[simp] theorem State.setStaged_power (a : Nat) (v : W64) : (s.setStaged a v).power = s.power := rfl
@[simp] theorem State.setStaged_hkc (a : Nat) (v : W64) : (s.setStaged a v).hkc = s.hkc := rfl
@[simp] theorem State.setStaged_rel (a : Nat) (v : W64) : (s.setStaged a v).rel = s.rel := rfl
@[simp] theorem State.setStaged_journal (a : Nat) (v : W64) : (s.setStaged a v).journal = s.journal := rfl
@[simp] theorem State.setStaged_boot (a : Nat) (v : W64) : (s.setStaged a v).boot = s.boot := rfl
@[simp] theorem State.setStaged_pins (a : Nat) (v : W64) : (s.setStaged a v).pins = s.pins := rfl

/-! ### State.tick -/

@[simp] theorem State.tick_pending : (s.tick).pending = s.pending := rfl
@[simp] theorem State.tick_ctl : (s.tick).ctl = s.ctl := rfl
@[simp] theorem State.tick_staged : (s.tick).staged = s.staged := rfl
@[simp] theorem State.tick_captured : (s.tick).captured = s.captured := rfl
@[simp] theorem State.tick_checking : (s.tick).checking = s.checking := rfl
@[simp] theorem State.tick_blend : (s.tick).blend = s.blend := rfl
@[simp] theorem State.tick_mem : (s.tick).mem = s.mem := rfl
@[simp] theorem State.tick_ctxs : (s.tick).ctxs = s.ctxs := rfl
@[simp] theorem State.tick_ctxCmds : (s.tick).ctxCmds = s.ctxCmds := rfl
@[simp] theorem State.tick_requests : (s.tick).requests = s.requests := rfl
@[simp] theorem State.tick_abandoned : (s.tick).abandoned = s.abandoned := rfl
@[simp] theorem State.tick_nextTag : (s.tick).nextTag = s.nextTag := rfl
@[simp] theorem State.tick_tiles : (s.tick).tiles = s.tiles := rfl
@[simp] theorem State.tick_cores : (s.tick).cores = s.cores := rfl
@[simp] theorem State.tick_ctrs : (s.tick).ctrs = s.ctrs := rfl
@[simp] theorem State.tick_transit : (s.tick).transit = s.transit := rfl
@[simp] theorem State.tick_dies : (s.tick).dies = s.dies := rfl
@[simp] theorem State.tick_layers : (s.tick).layers = s.layers := rfl
@[simp] theorem State.tick_cells : (s.tick).cells = s.cells := rfl
@[simp] theorem State.tick_scales : (s.tick).scales = s.scales := rfl
@[simp] theorem State.tick_passSeq : (s.tick).passSeq = s.passSeq := rfl
@[simp] theorem State.tick_ringSeq : (s.tick).ringSeq = s.ringSeq := rfl
@[simp] theorem State.tick_links : (s.tick).links = s.links := rfl
@[simp] theorem State.tick_engines : (s.tick).engines = s.engines := rfl
@[simp] theorem State.tick_delivered : (s.tick).delivered = s.delivered := rfl
@[simp] theorem State.tick_frames : (s.tick).frames = s.frames := rfl
@[simp] theorem State.tick_buckets : (s.tick).buckets = s.buckets := rfl
@[simp] theorem State.tick_openSeqs : (s.tick).openSeqs = s.openSeqs := rfl
@[simp] theorem State.tick_parked : (s.tick).parked = s.parked := rfl
@[simp] theorem State.tick_earlyAborts : (s.tick).earlyAborts = s.earlyAborts := rfl
@[simp] theorem State.tick_abortsSent : (s.tick).abortsSent = s.abortsSent := rfl
@[simp] theorem State.tick_digests : (s.tick).digests = s.digests := rfl
@[simp] theorem State.tick_qps : (s.tick).qps = s.qps := rfl
@[simp] theorem State.tick_prioShare : (s.tick).prioShare = s.prioShare := rfl
@[simp] theorem State.tick_pausedPrio : (s.tick).pausedPrio = s.pausedPrio := rfl
@[simp] theorem State.tick_pauseSent : (s.tick).pauseSent = s.pauseSent := rfl
@[simp] theorem State.tick_sessions : (s.tick).sessions = s.sessions := rfl
@[simp] theorem State.tick_slotFails : (s.tick).slotFails = s.slotFails := rfl
@[simp] theorem State.tick_slotLocked : (s.tick).slotLocked = s.slotLocked := rfl
@[simp] theorem State.tick_out : (s.tick).out = s.out := rfl
@[simp] theorem State.tick_sent : (s.tick).sent = s.sent := rfl
@[simp] theorem State.tick_turns : (s.tick).turns = s.turns := rfl
@[simp] theorem State.tick_svc : (s.tick).svc = s.svc := rfl
@[simp] theorem State.tick_power : (s.tick).power = s.power := rfl
@[simp] theorem State.tick_hkc : (s.tick).hkc = s.hkc := rfl
@[simp] theorem State.tick_rel : (s.tick).rel = s.rel := rfl
@[simp] theorem State.tick_journal : (s.tick).journal = s.journal := rfl
@[simp] theorem State.tick_boot : (s.tick).boot = s.boot := rfl
@[simp] theorem State.tick_pins : (s.tick).pins = s.pins := rfl

/-! ### State.setTile -/

@[simp] theorem State.setTile_pending (t : Nat) (x : Tile) : (s.setTile t x).pending = s.pending := rfl
@[simp] theorem State.setTile_free (t : Nat) (x : Tile) : (s.setTile t x).free = s.free := rfl
@[simp] theorem State.setTile_ctl (t : Nat) (x : Tile) : (s.setTile t x).ctl = s.ctl := rfl
@[simp] theorem State.setTile_staged (t : Nat) (x : Tile) : (s.setTile t x).staged = s.staged := rfl
@[simp] theorem State.setTile_captured (t : Nat) (x : Tile) : (s.setTile t x).captured = s.captured := rfl
@[simp] theorem State.setTile_checking (t : Nat) (x : Tile) : (s.setTile t x).checking = s.checking := rfl
@[simp] theorem State.setTile_blend (t : Nat) (x : Tile) : (s.setTile t x).blend = s.blend := rfl
@[simp] theorem State.setTile_mem (t : Nat) (x : Tile) : (s.setTile t x).mem = s.mem := rfl
@[simp] theorem State.setTile_ctxs (t : Nat) (x : Tile) : (s.setTile t x).ctxs = s.ctxs := rfl
@[simp] theorem State.setTile_ctxCmds (t : Nat) (x : Tile) : (s.setTile t x).ctxCmds = s.ctxCmds := rfl
@[simp] theorem State.setTile_requests (t : Nat) (x : Tile) : (s.setTile t x).requests = s.requests := rfl
@[simp] theorem State.setTile_abandoned (t : Nat) (x : Tile) : (s.setTile t x).abandoned = s.abandoned := rfl
@[simp] theorem State.setTile_nextTag (t : Nat) (x : Tile) : (s.setTile t x).nextTag = s.nextTag := rfl
@[simp] theorem State.setTile_cores (t : Nat) (x : Tile) : (s.setTile t x).cores = s.cores := rfl
@[simp] theorem State.setTile_ctrs (t : Nat) (x : Tile) : (s.setTile t x).ctrs = s.ctrs := rfl
@[simp] theorem State.setTile_transit (t : Nat) (x : Tile) : (s.setTile t x).transit = s.transit := rfl
@[simp] theorem State.setTile_dies (t : Nat) (x : Tile) : (s.setTile t x).dies = s.dies := rfl
@[simp] theorem State.setTile_layers (t : Nat) (x : Tile) : (s.setTile t x).layers = s.layers := rfl
@[simp] theorem State.setTile_cells (t : Nat) (x : Tile) : (s.setTile t x).cells = s.cells := rfl
@[simp] theorem State.setTile_scales (t : Nat) (x : Tile) : (s.setTile t x).scales = s.scales := rfl
@[simp] theorem State.setTile_passSeq (t : Nat) (x : Tile) : (s.setTile t x).passSeq = s.passSeq := rfl
@[simp] theorem State.setTile_ringSeq (t : Nat) (x : Tile) : (s.setTile t x).ringSeq = s.ringSeq := rfl
@[simp] theorem State.setTile_links (t : Nat) (x : Tile) : (s.setTile t x).links = s.links := rfl
@[simp] theorem State.setTile_engines (t : Nat) (x : Tile) : (s.setTile t x).engines = s.engines := rfl
@[simp] theorem State.setTile_delivered (t : Nat) (x : Tile) : (s.setTile t x).delivered = s.delivered := rfl
@[simp] theorem State.setTile_frames (t : Nat) (x : Tile) : (s.setTile t x).frames = s.frames := rfl
@[simp] theorem State.setTile_buckets (t : Nat) (x : Tile) : (s.setTile t x).buckets = s.buckets := rfl
@[simp] theorem State.setTile_openSeqs (t : Nat) (x : Tile) : (s.setTile t x).openSeqs = s.openSeqs := rfl
@[simp] theorem State.setTile_parked (t : Nat) (x : Tile) : (s.setTile t x).parked = s.parked := rfl
@[simp] theorem State.setTile_earlyAborts (t : Nat) (x : Tile) : (s.setTile t x).earlyAborts = s.earlyAborts := rfl
@[simp] theorem State.setTile_abortsSent (t : Nat) (x : Tile) : (s.setTile t x).abortsSent = s.abortsSent := rfl
@[simp] theorem State.setTile_digests (t : Nat) (x : Tile) : (s.setTile t x).digests = s.digests := rfl
@[simp] theorem State.setTile_qps (t : Nat) (x : Tile) : (s.setTile t x).qps = s.qps := rfl
@[simp] theorem State.setTile_prioShare (t : Nat) (x : Tile) : (s.setTile t x).prioShare = s.prioShare := rfl
@[simp] theorem State.setTile_pausedPrio (t : Nat) (x : Tile) : (s.setTile t x).pausedPrio = s.pausedPrio := rfl
@[simp] theorem State.setTile_pauseSent (t : Nat) (x : Tile) : (s.setTile t x).pauseSent = s.pauseSent := rfl
@[simp] theorem State.setTile_sessions (t : Nat) (x : Tile) : (s.setTile t x).sessions = s.sessions := rfl
@[simp] theorem State.setTile_slotFails (t : Nat) (x : Tile) : (s.setTile t x).slotFails = s.slotFails := rfl
@[simp] theorem State.setTile_slotLocked (t : Nat) (x : Tile) : (s.setTile t x).slotLocked = s.slotLocked := rfl
@[simp] theorem State.setTile_out (t : Nat) (x : Tile) : (s.setTile t x).out = s.out := rfl
@[simp] theorem State.setTile_sent (t : Nat) (x : Tile) : (s.setTile t x).sent = s.sent := rfl
@[simp] theorem State.setTile_turns (t : Nat) (x : Tile) : (s.setTile t x).turns = s.turns := rfl
@[simp] theorem State.setTile_svc (t : Nat) (x : Tile) : (s.setTile t x).svc = s.svc := rfl
@[simp] theorem State.setTile_power (t : Nat) (x : Tile) : (s.setTile t x).power = s.power := rfl
@[simp] theorem State.setTile_hkc (t : Nat) (x : Tile) : (s.setTile t x).hkc = s.hkc := rfl
@[simp] theorem State.setTile_rel (t : Nat) (x : Tile) : (s.setTile t x).rel = s.rel := rfl
@[simp] theorem State.setTile_journal (t : Nat) (x : Tile) : (s.setTile t x).journal = s.journal := rfl
@[simp] theorem State.setTile_boot (t : Nat) (x : Tile) : (s.setTile t x).boot = s.boot := rfl
@[simp] theorem State.setTile_pins (t : Nat) (x : Tile) : (s.setTile t x).pins = s.pins := rfl

/-! ### State.setOp -/

@[simp] theorem State.setOp_pending (t k : Nat) (o : Option Op) : (s.setOp t k o).pending = s.pending := rfl
@[simp] theorem State.setOp_free (t k : Nat) (o : Option Op) : (s.setOp t k o).free = s.free := rfl
@[simp] theorem State.setOp_ctl (t k : Nat) (o : Option Op) : (s.setOp t k o).ctl = s.ctl := rfl
@[simp] theorem State.setOp_staged (t k : Nat) (o : Option Op) : (s.setOp t k o).staged = s.staged := rfl
@[simp] theorem State.setOp_captured (t k : Nat) (o : Option Op) : (s.setOp t k o).captured = s.captured := rfl
@[simp] theorem State.setOp_checking (t k : Nat) (o : Option Op) : (s.setOp t k o).checking = s.checking := rfl
@[simp] theorem State.setOp_blend (t k : Nat) (o : Option Op) : (s.setOp t k o).blend = s.blend := rfl
@[simp] theorem State.setOp_mem (t k : Nat) (o : Option Op) : (s.setOp t k o).mem = s.mem := rfl
@[simp] theorem State.setOp_ctxs (t k : Nat) (o : Option Op) : (s.setOp t k o).ctxs = s.ctxs := rfl
@[simp] theorem State.setOp_ctxCmds (t k : Nat) (o : Option Op) : (s.setOp t k o).ctxCmds = s.ctxCmds := rfl
@[simp] theorem State.setOp_requests (t k : Nat) (o : Option Op) : (s.setOp t k o).requests = s.requests := rfl
@[simp] theorem State.setOp_abandoned (t k : Nat) (o : Option Op) : (s.setOp t k o).abandoned = s.abandoned := rfl
@[simp] theorem State.setOp_nextTag (t k : Nat) (o : Option Op) : (s.setOp t k o).nextTag = s.nextTag := rfl
@[simp] theorem State.setOp_cores (t k : Nat) (o : Option Op) : (s.setOp t k o).cores = s.cores := rfl
@[simp] theorem State.setOp_ctrs (t k : Nat) (o : Option Op) : (s.setOp t k o).ctrs = s.ctrs := rfl
@[simp] theorem State.setOp_transit (t k : Nat) (o : Option Op) : (s.setOp t k o).transit = s.transit := rfl
@[simp] theorem State.setOp_dies (t k : Nat) (o : Option Op) : (s.setOp t k o).dies = s.dies := rfl
@[simp] theorem State.setOp_layers (t k : Nat) (o : Option Op) : (s.setOp t k o).layers = s.layers := rfl
@[simp] theorem State.setOp_cells (t k : Nat) (o : Option Op) : (s.setOp t k o).cells = s.cells := rfl
@[simp] theorem State.setOp_scales (t k : Nat) (o : Option Op) : (s.setOp t k o).scales = s.scales := rfl
@[simp] theorem State.setOp_passSeq (t k : Nat) (o : Option Op) : (s.setOp t k o).passSeq = s.passSeq := rfl
@[simp] theorem State.setOp_ringSeq (t k : Nat) (o : Option Op) : (s.setOp t k o).ringSeq = s.ringSeq := rfl
@[simp] theorem State.setOp_links (t k : Nat) (o : Option Op) : (s.setOp t k o).links = s.links := rfl
@[simp] theorem State.setOp_engines (t k : Nat) (o : Option Op) : (s.setOp t k o).engines = s.engines := rfl
@[simp] theorem State.setOp_delivered (t k : Nat) (o : Option Op) : (s.setOp t k o).delivered = s.delivered := rfl
@[simp] theorem State.setOp_frames (t k : Nat) (o : Option Op) : (s.setOp t k o).frames = s.frames := rfl
@[simp] theorem State.setOp_buckets (t k : Nat) (o : Option Op) : (s.setOp t k o).buckets = s.buckets := rfl
@[simp] theorem State.setOp_openSeqs (t k : Nat) (o : Option Op) : (s.setOp t k o).openSeqs = s.openSeqs := rfl
@[simp] theorem State.setOp_parked (t k : Nat) (o : Option Op) : (s.setOp t k o).parked = s.parked := rfl
@[simp] theorem State.setOp_earlyAborts (t k : Nat) (o : Option Op) : (s.setOp t k o).earlyAborts = s.earlyAborts := rfl
@[simp] theorem State.setOp_abortsSent (t k : Nat) (o : Option Op) : (s.setOp t k o).abortsSent = s.abortsSent := rfl
@[simp] theorem State.setOp_digests (t k : Nat) (o : Option Op) : (s.setOp t k o).digests = s.digests := rfl
@[simp] theorem State.setOp_qps (t k : Nat) (o : Option Op) : (s.setOp t k o).qps = s.qps := rfl
@[simp] theorem State.setOp_prioShare (t k : Nat) (o : Option Op) : (s.setOp t k o).prioShare = s.prioShare := rfl
@[simp] theorem State.setOp_pausedPrio (t k : Nat) (o : Option Op) : (s.setOp t k o).pausedPrio = s.pausedPrio := rfl
@[simp] theorem State.setOp_pauseSent (t k : Nat) (o : Option Op) : (s.setOp t k o).pauseSent = s.pauseSent := rfl
@[simp] theorem State.setOp_sessions (t k : Nat) (o : Option Op) : (s.setOp t k o).sessions = s.sessions := rfl
@[simp] theorem State.setOp_slotFails (t k : Nat) (o : Option Op) : (s.setOp t k o).slotFails = s.slotFails := rfl
@[simp] theorem State.setOp_slotLocked (t k : Nat) (o : Option Op) : (s.setOp t k o).slotLocked = s.slotLocked := rfl
@[simp] theorem State.setOp_out (t k : Nat) (o : Option Op) : (s.setOp t k o).out = s.out := rfl
@[simp] theorem State.setOp_sent (t k : Nat) (o : Option Op) : (s.setOp t k o).sent = s.sent := rfl
@[simp] theorem State.setOp_turns (t k : Nat) (o : Option Op) : (s.setOp t k o).turns = s.turns := rfl
@[simp] theorem State.setOp_svc (t k : Nat) (o : Option Op) : (s.setOp t k o).svc = s.svc := rfl
@[simp] theorem State.setOp_power (t k : Nat) (o : Option Op) : (s.setOp t k o).power = s.power := rfl
@[simp] theorem State.setOp_hkc (t k : Nat) (o : Option Op) : (s.setOp t k o).hkc = s.hkc := rfl
@[simp] theorem State.setOp_rel (t k : Nat) (o : Option Op) : (s.setOp t k o).rel = s.rel := rfl
@[simp] theorem State.setOp_journal (t k : Nat) (o : Option Op) : (s.setOp t k o).journal = s.journal := rfl
@[simp] theorem State.setOp_boot (t k : Nat) (o : Option Op) : (s.setOp t k o).boot = s.boot := rfl
@[simp] theorem State.setOp_pins (t k : Nat) (o : Option Op) : (s.setOp t k o).pins = s.pins := rfl

/-! ### State.setCore -/

@[simp] theorem State.setCore_pending (t c : Nat) (x : Core) : (s.setCore t c x).pending = s.pending := rfl
@[simp] theorem State.setCore_free (t c : Nat) (x : Core) : (s.setCore t c x).free = s.free := rfl
@[simp] theorem State.setCore_ctl (t c : Nat) (x : Core) : (s.setCore t c x).ctl = s.ctl := rfl
@[simp] theorem State.setCore_staged (t c : Nat) (x : Core) : (s.setCore t c x).staged = s.staged := rfl
@[simp] theorem State.setCore_captured (t c : Nat) (x : Core) : (s.setCore t c x).captured = s.captured := rfl
@[simp] theorem State.setCore_checking (t c : Nat) (x : Core) : (s.setCore t c x).checking = s.checking := rfl
@[simp] theorem State.setCore_blend (t c : Nat) (x : Core) : (s.setCore t c x).blend = s.blend := rfl
@[simp] theorem State.setCore_mem (t c : Nat) (x : Core) : (s.setCore t c x).mem = s.mem := rfl
@[simp] theorem State.setCore_ctxs (t c : Nat) (x : Core) : (s.setCore t c x).ctxs = s.ctxs := rfl
@[simp] theorem State.setCore_ctxCmds (t c : Nat) (x : Core) : (s.setCore t c x).ctxCmds = s.ctxCmds := rfl
@[simp] theorem State.setCore_requests (t c : Nat) (x : Core) : (s.setCore t c x).requests = s.requests := rfl
@[simp] theorem State.setCore_abandoned (t c : Nat) (x : Core) : (s.setCore t c x).abandoned = s.abandoned := rfl
@[simp] theorem State.setCore_nextTag (t c : Nat) (x : Core) : (s.setCore t c x).nextTag = s.nextTag := rfl
@[simp] theorem State.setCore_tiles (t c : Nat) (x : Core) : (s.setCore t c x).tiles = s.tiles := rfl
@[simp] theorem State.setCore_ctrs (t c : Nat) (x : Core) : (s.setCore t c x).ctrs = s.ctrs := rfl
@[simp] theorem State.setCore_transit (t c : Nat) (x : Core) : (s.setCore t c x).transit = s.transit := rfl
@[simp] theorem State.setCore_dies (t c : Nat) (x : Core) : (s.setCore t c x).dies = s.dies := rfl
@[simp] theorem State.setCore_layers (t c : Nat) (x : Core) : (s.setCore t c x).layers = s.layers := rfl
@[simp] theorem State.setCore_cells (t c : Nat) (x : Core) : (s.setCore t c x).cells = s.cells := rfl
@[simp] theorem State.setCore_scales (t c : Nat) (x : Core) : (s.setCore t c x).scales = s.scales := rfl
@[simp] theorem State.setCore_passSeq (t c : Nat) (x : Core) : (s.setCore t c x).passSeq = s.passSeq := rfl
@[simp] theorem State.setCore_ringSeq (t c : Nat) (x : Core) : (s.setCore t c x).ringSeq = s.ringSeq := rfl
@[simp] theorem State.setCore_links (t c : Nat) (x : Core) : (s.setCore t c x).links = s.links := rfl
@[simp] theorem State.setCore_engines (t c : Nat) (x : Core) : (s.setCore t c x).engines = s.engines := rfl
@[simp] theorem State.setCore_delivered (t c : Nat) (x : Core) : (s.setCore t c x).delivered = s.delivered := rfl
@[simp] theorem State.setCore_frames (t c : Nat) (x : Core) : (s.setCore t c x).frames = s.frames := rfl
@[simp] theorem State.setCore_buckets (t c : Nat) (x : Core) : (s.setCore t c x).buckets = s.buckets := rfl
@[simp] theorem State.setCore_openSeqs (t c : Nat) (x : Core) : (s.setCore t c x).openSeqs = s.openSeqs := rfl
@[simp] theorem State.setCore_parked (t c : Nat) (x : Core) : (s.setCore t c x).parked = s.parked := rfl
@[simp] theorem State.setCore_earlyAborts (t c : Nat) (x : Core) : (s.setCore t c x).earlyAborts = s.earlyAborts := rfl
@[simp] theorem State.setCore_abortsSent (t c : Nat) (x : Core) : (s.setCore t c x).abortsSent = s.abortsSent := rfl
@[simp] theorem State.setCore_digests (t c : Nat) (x : Core) : (s.setCore t c x).digests = s.digests := rfl
@[simp] theorem State.setCore_qps (t c : Nat) (x : Core) : (s.setCore t c x).qps = s.qps := rfl
@[simp] theorem State.setCore_prioShare (t c : Nat) (x : Core) : (s.setCore t c x).prioShare = s.prioShare := rfl
@[simp] theorem State.setCore_pausedPrio (t c : Nat) (x : Core) : (s.setCore t c x).pausedPrio = s.pausedPrio := rfl
@[simp] theorem State.setCore_pauseSent (t c : Nat) (x : Core) : (s.setCore t c x).pauseSent = s.pauseSent := rfl
@[simp] theorem State.setCore_sessions (t c : Nat) (x : Core) : (s.setCore t c x).sessions = s.sessions := rfl
@[simp] theorem State.setCore_slotFails (t c : Nat) (x : Core) : (s.setCore t c x).slotFails = s.slotFails := rfl
@[simp] theorem State.setCore_slotLocked (t c : Nat) (x : Core) : (s.setCore t c x).slotLocked = s.slotLocked := rfl
@[simp] theorem State.setCore_out (t c : Nat) (x : Core) : (s.setCore t c x).out = s.out := rfl
@[simp] theorem State.setCore_sent (t c : Nat) (x : Core) : (s.setCore t c x).sent = s.sent := rfl
@[simp] theorem State.setCore_turns (t c : Nat) (x : Core) : (s.setCore t c x).turns = s.turns := rfl
@[simp] theorem State.setCore_svc (t c : Nat) (x : Core) : (s.setCore t c x).svc = s.svc := rfl
@[simp] theorem State.setCore_power (t c : Nat) (x : Core) : (s.setCore t c x).power = s.power := rfl
@[simp] theorem State.setCore_hkc (t c : Nat) (x : Core) : (s.setCore t c x).hkc = s.hkc := rfl
@[simp] theorem State.setCore_rel (t c : Nat) (x : Core) : (s.setCore t c x).rel = s.rel := rfl
@[simp] theorem State.setCore_journal (t c : Nat) (x : Core) : (s.setCore t c x).journal = s.journal := rfl
@[simp] theorem State.setCore_boot (t c : Nat) (x : Core) : (s.setCore t c x).boot = s.boot := rfl
@[simp] theorem State.setCore_pins (t c : Nat) (x : Core) : (s.setCore t c x).pins = s.pins := rfl

/-! ### State.setCtr -/

@[simp] theorem State.setCtr_pending (i : Nat) (x : Ctr) : (s.setCtr i x).pending = s.pending := rfl
@[simp] theorem State.setCtr_free (i : Nat) (x : Ctr) : (s.setCtr i x).free = s.free := rfl
@[simp] theorem State.setCtr_ctl (i : Nat) (x : Ctr) : (s.setCtr i x).ctl = s.ctl := rfl
@[simp] theorem State.setCtr_staged (i : Nat) (x : Ctr) : (s.setCtr i x).staged = s.staged := rfl
@[simp] theorem State.setCtr_captured (i : Nat) (x : Ctr) : (s.setCtr i x).captured = s.captured := rfl
@[simp] theorem State.setCtr_checking (i : Nat) (x : Ctr) : (s.setCtr i x).checking = s.checking := rfl
@[simp] theorem State.setCtr_blend (i : Nat) (x : Ctr) : (s.setCtr i x).blend = s.blend := rfl
@[simp] theorem State.setCtr_mem (i : Nat) (x : Ctr) : (s.setCtr i x).mem = s.mem := rfl
@[simp] theorem State.setCtr_ctxs (i : Nat) (x : Ctr) : (s.setCtr i x).ctxs = s.ctxs := rfl
@[simp] theorem State.setCtr_ctxCmds (i : Nat) (x : Ctr) : (s.setCtr i x).ctxCmds = s.ctxCmds := rfl
@[simp] theorem State.setCtr_requests (i : Nat) (x : Ctr) : (s.setCtr i x).requests = s.requests := rfl
@[simp] theorem State.setCtr_abandoned (i : Nat) (x : Ctr) : (s.setCtr i x).abandoned = s.abandoned := rfl
@[simp] theorem State.setCtr_nextTag (i : Nat) (x : Ctr) : (s.setCtr i x).nextTag = s.nextTag := rfl
@[simp] theorem State.setCtr_tiles (i : Nat) (x : Ctr) : (s.setCtr i x).tiles = s.tiles := rfl
@[simp] theorem State.setCtr_cores (i : Nat) (x : Ctr) : (s.setCtr i x).cores = s.cores := rfl
@[simp] theorem State.setCtr_transit (i : Nat) (x : Ctr) : (s.setCtr i x).transit = s.transit := rfl
@[simp] theorem State.setCtr_dies (i : Nat) (x : Ctr) : (s.setCtr i x).dies = s.dies := rfl
@[simp] theorem State.setCtr_layers (i : Nat) (x : Ctr) : (s.setCtr i x).layers = s.layers := rfl
@[simp] theorem State.setCtr_cells (i : Nat) (x : Ctr) : (s.setCtr i x).cells = s.cells := rfl
@[simp] theorem State.setCtr_scales (i : Nat) (x : Ctr) : (s.setCtr i x).scales = s.scales := rfl
@[simp] theorem State.setCtr_passSeq (i : Nat) (x : Ctr) : (s.setCtr i x).passSeq = s.passSeq := rfl
@[simp] theorem State.setCtr_ringSeq (i : Nat) (x : Ctr) : (s.setCtr i x).ringSeq = s.ringSeq := rfl
@[simp] theorem State.setCtr_links (i : Nat) (x : Ctr) : (s.setCtr i x).links = s.links := rfl
@[simp] theorem State.setCtr_engines (i : Nat) (x : Ctr) : (s.setCtr i x).engines = s.engines := rfl
@[simp] theorem State.setCtr_delivered (i : Nat) (x : Ctr) : (s.setCtr i x).delivered = s.delivered := rfl
@[simp] theorem State.setCtr_frames (i : Nat) (x : Ctr) : (s.setCtr i x).frames = s.frames := rfl
@[simp] theorem State.setCtr_buckets (i : Nat) (x : Ctr) : (s.setCtr i x).buckets = s.buckets := rfl
@[simp] theorem State.setCtr_openSeqs (i : Nat) (x : Ctr) : (s.setCtr i x).openSeqs = s.openSeqs := rfl
@[simp] theorem State.setCtr_parked (i : Nat) (x : Ctr) : (s.setCtr i x).parked = s.parked := rfl
@[simp] theorem State.setCtr_earlyAborts (i : Nat) (x : Ctr) : (s.setCtr i x).earlyAborts = s.earlyAborts := rfl
@[simp] theorem State.setCtr_abortsSent (i : Nat) (x : Ctr) : (s.setCtr i x).abortsSent = s.abortsSent := rfl
@[simp] theorem State.setCtr_digests (i : Nat) (x : Ctr) : (s.setCtr i x).digests = s.digests := rfl
@[simp] theorem State.setCtr_qps (i : Nat) (x : Ctr) : (s.setCtr i x).qps = s.qps := rfl
@[simp] theorem State.setCtr_prioShare (i : Nat) (x : Ctr) : (s.setCtr i x).prioShare = s.prioShare := rfl
@[simp] theorem State.setCtr_pausedPrio (i : Nat) (x : Ctr) : (s.setCtr i x).pausedPrio = s.pausedPrio := rfl
@[simp] theorem State.setCtr_pauseSent (i : Nat) (x : Ctr) : (s.setCtr i x).pauseSent = s.pauseSent := rfl
@[simp] theorem State.setCtr_sessions (i : Nat) (x : Ctr) : (s.setCtr i x).sessions = s.sessions := rfl
@[simp] theorem State.setCtr_slotFails (i : Nat) (x : Ctr) : (s.setCtr i x).slotFails = s.slotFails := rfl
@[simp] theorem State.setCtr_slotLocked (i : Nat) (x : Ctr) : (s.setCtr i x).slotLocked = s.slotLocked := rfl
@[simp] theorem State.setCtr_out (i : Nat) (x : Ctr) : (s.setCtr i x).out = s.out := rfl
@[simp] theorem State.setCtr_sent (i : Nat) (x : Ctr) : (s.setCtr i x).sent = s.sent := rfl
@[simp] theorem State.setCtr_turns (i : Nat) (x : Ctr) : (s.setCtr i x).turns = s.turns := rfl
@[simp] theorem State.setCtr_svc (i : Nat) (x : Ctr) : (s.setCtr i x).svc = s.svc := rfl
@[simp] theorem State.setCtr_power (i : Nat) (x : Ctr) : (s.setCtr i x).power = s.power := rfl
@[simp] theorem State.setCtr_hkc (i : Nat) (x : Ctr) : (s.setCtr i x).hkc = s.hkc := rfl
@[simp] theorem State.setCtr_rel (i : Nat) (x : Ctr) : (s.setCtr i x).rel = s.rel := rfl
@[simp] theorem State.setCtr_journal (i : Nat) (x : Ctr) : (s.setCtr i x).journal = s.journal := rfl
@[simp] theorem State.setCtr_boot (i : Nat) (x : Ctr) : (s.setCtr i x).boot = s.boot := rfl
@[simp] theorem State.setCtr_pins (i : Nat) (x : Ctr) : (s.setCtr i x).pins = s.pins := rfl

/-! ### State.setDie -/

@[simp] theorem State.setDie_pending (d : Nat) (x : Die) : (s.setDie d x).pending = s.pending := rfl
@[simp] theorem State.setDie_free (d : Nat) (x : Die) : (s.setDie d x).free = s.free := rfl
@[simp] theorem State.setDie_ctl (d : Nat) (x : Die) : (s.setDie d x).ctl = s.ctl := rfl
@[simp] theorem State.setDie_staged (d : Nat) (x : Die) : (s.setDie d x).staged = s.staged := rfl
@[simp] theorem State.setDie_captured (d : Nat) (x : Die) : (s.setDie d x).captured = s.captured := rfl
@[simp] theorem State.setDie_checking (d : Nat) (x : Die) : (s.setDie d x).checking = s.checking := rfl
@[simp] theorem State.setDie_blend (d : Nat) (x : Die) : (s.setDie d x).blend = s.blend := rfl
@[simp] theorem State.setDie_mem (d : Nat) (x : Die) : (s.setDie d x).mem = s.mem := rfl
@[simp] theorem State.setDie_ctxs (d : Nat) (x : Die) : (s.setDie d x).ctxs = s.ctxs := rfl
@[simp] theorem State.setDie_ctxCmds (d : Nat) (x : Die) : (s.setDie d x).ctxCmds = s.ctxCmds := rfl
@[simp] theorem State.setDie_requests (d : Nat) (x : Die) : (s.setDie d x).requests = s.requests := rfl
@[simp] theorem State.setDie_abandoned (d : Nat) (x : Die) : (s.setDie d x).abandoned = s.abandoned := rfl
@[simp] theorem State.setDie_nextTag (d : Nat) (x : Die) : (s.setDie d x).nextTag = s.nextTag := rfl
@[simp] theorem State.setDie_tiles (d : Nat) (x : Die) : (s.setDie d x).tiles = s.tiles := rfl
@[simp] theorem State.setDie_cores (d : Nat) (x : Die) : (s.setDie d x).cores = s.cores := rfl
@[simp] theorem State.setDie_ctrs (d : Nat) (x : Die) : (s.setDie d x).ctrs = s.ctrs := rfl
@[simp] theorem State.setDie_transit (d : Nat) (x : Die) : (s.setDie d x).transit = s.transit := rfl
@[simp] theorem State.setDie_layers (d : Nat) (x : Die) : (s.setDie d x).layers = s.layers := rfl
@[simp] theorem State.setDie_cells (d : Nat) (x : Die) : (s.setDie d x).cells = s.cells := rfl
@[simp] theorem State.setDie_scales (d : Nat) (x : Die) : (s.setDie d x).scales = s.scales := rfl
@[simp] theorem State.setDie_passSeq (d : Nat) (x : Die) : (s.setDie d x).passSeq = s.passSeq := rfl
@[simp] theorem State.setDie_ringSeq (d : Nat) (x : Die) : (s.setDie d x).ringSeq = s.ringSeq := rfl
@[simp] theorem State.setDie_links (d : Nat) (x : Die) : (s.setDie d x).links = s.links := rfl
@[simp] theorem State.setDie_engines (d : Nat) (x : Die) : (s.setDie d x).engines = s.engines := rfl
@[simp] theorem State.setDie_delivered (d : Nat) (x : Die) : (s.setDie d x).delivered = s.delivered := rfl
@[simp] theorem State.setDie_frames (d : Nat) (x : Die) : (s.setDie d x).frames = s.frames := rfl
@[simp] theorem State.setDie_buckets (d : Nat) (x : Die) : (s.setDie d x).buckets = s.buckets := rfl
@[simp] theorem State.setDie_openSeqs (d : Nat) (x : Die) : (s.setDie d x).openSeqs = s.openSeqs := rfl
@[simp] theorem State.setDie_parked (d : Nat) (x : Die) : (s.setDie d x).parked = s.parked := rfl
@[simp] theorem State.setDie_earlyAborts (d : Nat) (x : Die) : (s.setDie d x).earlyAborts = s.earlyAborts := rfl
@[simp] theorem State.setDie_abortsSent (d : Nat) (x : Die) : (s.setDie d x).abortsSent = s.abortsSent := rfl
@[simp] theorem State.setDie_digests (d : Nat) (x : Die) : (s.setDie d x).digests = s.digests := rfl
@[simp] theorem State.setDie_qps (d : Nat) (x : Die) : (s.setDie d x).qps = s.qps := rfl
@[simp] theorem State.setDie_prioShare (d : Nat) (x : Die) : (s.setDie d x).prioShare = s.prioShare := rfl
@[simp] theorem State.setDie_pausedPrio (d : Nat) (x : Die) : (s.setDie d x).pausedPrio = s.pausedPrio := rfl
@[simp] theorem State.setDie_pauseSent (d : Nat) (x : Die) : (s.setDie d x).pauseSent = s.pauseSent := rfl
@[simp] theorem State.setDie_sessions (d : Nat) (x : Die) : (s.setDie d x).sessions = s.sessions := rfl
@[simp] theorem State.setDie_slotFails (d : Nat) (x : Die) : (s.setDie d x).slotFails = s.slotFails := rfl
@[simp] theorem State.setDie_slotLocked (d : Nat) (x : Die) : (s.setDie d x).slotLocked = s.slotLocked := rfl
@[simp] theorem State.setDie_out (d : Nat) (x : Die) : (s.setDie d x).out = s.out := rfl
@[simp] theorem State.setDie_sent (d : Nat) (x : Die) : (s.setDie d x).sent = s.sent := rfl
@[simp] theorem State.setDie_turns (d : Nat) (x : Die) : (s.setDie d x).turns = s.turns := rfl
@[simp] theorem State.setDie_svc (d : Nat) (x : Die) : (s.setDie d x).svc = s.svc := rfl
@[simp] theorem State.setDie_power (d : Nat) (x : Die) : (s.setDie d x).power = s.power := rfl
@[simp] theorem State.setDie_hkc (d : Nat) (x : Die) : (s.setDie d x).hkc = s.hkc := rfl
@[simp] theorem State.setDie_rel (d : Nat) (x : Die) : (s.setDie d x).rel = s.rel := rfl
@[simp] theorem State.setDie_journal (d : Nat) (x : Die) : (s.setDie d x).journal = s.journal := rfl
@[simp] theorem State.setDie_boot (d : Nat) (x : Die) : (s.setDie d x).boot = s.boot := rfl
@[simp] theorem State.setDie_pins (d : Nat) (x : Die) : (s.setDie d x).pins = s.pins := rfl

/-! ### State.setLink -/

@[simp] theorem State.setLink_pending (l : Nat) (x : Link) : (s.setLink l x).pending = s.pending := rfl
@[simp] theorem State.setLink_free (l : Nat) (x : Link) : (s.setLink l x).free = s.free := rfl
@[simp] theorem State.setLink_ctl (l : Nat) (x : Link) : (s.setLink l x).ctl = s.ctl := rfl
@[simp] theorem State.setLink_staged (l : Nat) (x : Link) : (s.setLink l x).staged = s.staged := rfl
@[simp] theorem State.setLink_captured (l : Nat) (x : Link) : (s.setLink l x).captured = s.captured := rfl
@[simp] theorem State.setLink_checking (l : Nat) (x : Link) : (s.setLink l x).checking = s.checking := rfl
@[simp] theorem State.setLink_blend (l : Nat) (x : Link) : (s.setLink l x).blend = s.blend := rfl
@[simp] theorem State.setLink_mem (l : Nat) (x : Link) : (s.setLink l x).mem = s.mem := rfl
@[simp] theorem State.setLink_ctxs (l : Nat) (x : Link) : (s.setLink l x).ctxs = s.ctxs := rfl
@[simp] theorem State.setLink_ctxCmds (l : Nat) (x : Link) : (s.setLink l x).ctxCmds = s.ctxCmds := rfl
@[simp] theorem State.setLink_requests (l : Nat) (x : Link) : (s.setLink l x).requests = s.requests := rfl
@[simp] theorem State.setLink_abandoned (l : Nat) (x : Link) : (s.setLink l x).abandoned = s.abandoned := rfl
@[simp] theorem State.setLink_nextTag (l : Nat) (x : Link) : (s.setLink l x).nextTag = s.nextTag := rfl
@[simp] theorem State.setLink_tiles (l : Nat) (x : Link) : (s.setLink l x).tiles = s.tiles := rfl
@[simp] theorem State.setLink_cores (l : Nat) (x : Link) : (s.setLink l x).cores = s.cores := rfl
@[simp] theorem State.setLink_ctrs (l : Nat) (x : Link) : (s.setLink l x).ctrs = s.ctrs := rfl
@[simp] theorem State.setLink_transit (l : Nat) (x : Link) : (s.setLink l x).transit = s.transit := rfl
@[simp] theorem State.setLink_dies (l : Nat) (x : Link) : (s.setLink l x).dies = s.dies := rfl
@[simp] theorem State.setLink_layers (l : Nat) (x : Link) : (s.setLink l x).layers = s.layers := rfl
@[simp] theorem State.setLink_cells (l : Nat) (x : Link) : (s.setLink l x).cells = s.cells := rfl
@[simp] theorem State.setLink_scales (l : Nat) (x : Link) : (s.setLink l x).scales = s.scales := rfl
@[simp] theorem State.setLink_passSeq (l : Nat) (x : Link) : (s.setLink l x).passSeq = s.passSeq := rfl
@[simp] theorem State.setLink_ringSeq (l : Nat) (x : Link) : (s.setLink l x).ringSeq = s.ringSeq := rfl
@[simp] theorem State.setLink_engines (l : Nat) (x : Link) : (s.setLink l x).engines = s.engines := rfl
@[simp] theorem State.setLink_delivered (l : Nat) (x : Link) : (s.setLink l x).delivered = s.delivered := rfl
@[simp] theorem State.setLink_frames (l : Nat) (x : Link) : (s.setLink l x).frames = s.frames := rfl
@[simp] theorem State.setLink_buckets (l : Nat) (x : Link) : (s.setLink l x).buckets = s.buckets := rfl
@[simp] theorem State.setLink_openSeqs (l : Nat) (x : Link) : (s.setLink l x).openSeqs = s.openSeqs := rfl
@[simp] theorem State.setLink_parked (l : Nat) (x : Link) : (s.setLink l x).parked = s.parked := rfl
@[simp] theorem State.setLink_earlyAborts (l : Nat) (x : Link) : (s.setLink l x).earlyAborts = s.earlyAborts := rfl
@[simp] theorem State.setLink_abortsSent (l : Nat) (x : Link) : (s.setLink l x).abortsSent = s.abortsSent := rfl
@[simp] theorem State.setLink_digests (l : Nat) (x : Link) : (s.setLink l x).digests = s.digests := rfl
@[simp] theorem State.setLink_qps (l : Nat) (x : Link) : (s.setLink l x).qps = s.qps := rfl
@[simp] theorem State.setLink_prioShare (l : Nat) (x : Link) : (s.setLink l x).prioShare = s.prioShare := rfl
@[simp] theorem State.setLink_pausedPrio (l : Nat) (x : Link) : (s.setLink l x).pausedPrio = s.pausedPrio := rfl
@[simp] theorem State.setLink_pauseSent (l : Nat) (x : Link) : (s.setLink l x).pauseSent = s.pauseSent := rfl
@[simp] theorem State.setLink_sessions (l : Nat) (x : Link) : (s.setLink l x).sessions = s.sessions := rfl
@[simp] theorem State.setLink_slotFails (l : Nat) (x : Link) : (s.setLink l x).slotFails = s.slotFails := rfl
@[simp] theorem State.setLink_slotLocked (l : Nat) (x : Link) : (s.setLink l x).slotLocked = s.slotLocked := rfl
@[simp] theorem State.setLink_out (l : Nat) (x : Link) : (s.setLink l x).out = s.out := rfl
@[simp] theorem State.setLink_sent (l : Nat) (x : Link) : (s.setLink l x).sent = s.sent := rfl
@[simp] theorem State.setLink_turns (l : Nat) (x : Link) : (s.setLink l x).turns = s.turns := rfl
@[simp] theorem State.setLink_svc (l : Nat) (x : Link) : (s.setLink l x).svc = s.svc := rfl
@[simp] theorem State.setLink_power (l : Nat) (x : Link) : (s.setLink l x).power = s.power := rfl
@[simp] theorem State.setLink_hkc (l : Nat) (x : Link) : (s.setLink l x).hkc = s.hkc := rfl
@[simp] theorem State.setLink_rel (l : Nat) (x : Link) : (s.setLink l x).rel = s.rel := rfl
@[simp] theorem State.setLink_journal (l : Nat) (x : Link) : (s.setLink l x).journal = s.journal := rfl
@[simp] theorem State.setLink_boot (l : Nat) (x : Link) : (s.setLink l x).boot = s.boot := rfl
@[simp] theorem State.setLink_pins (l : Nat) (x : Link) : (s.setLink l x).pins = s.pins := rfl

/-! ### State.setEngine -/

@[simp] theorem State.setEngine_pending (e : Nat) (x : Engine) : (s.setEngine e x).pending = s.pending := rfl
@[simp] theorem State.setEngine_free (e : Nat) (x : Engine) : (s.setEngine e x).free = s.free := rfl
@[simp] theorem State.setEngine_ctl (e : Nat) (x : Engine) : (s.setEngine e x).ctl = s.ctl := rfl
@[simp] theorem State.setEngine_staged (e : Nat) (x : Engine) : (s.setEngine e x).staged = s.staged := rfl
@[simp] theorem State.setEngine_captured (e : Nat) (x : Engine) : (s.setEngine e x).captured = s.captured := rfl
@[simp] theorem State.setEngine_checking (e : Nat) (x : Engine) : (s.setEngine e x).checking = s.checking := rfl
@[simp] theorem State.setEngine_blend (e : Nat) (x : Engine) : (s.setEngine e x).blend = s.blend := rfl
@[simp] theorem State.setEngine_mem (e : Nat) (x : Engine) : (s.setEngine e x).mem = s.mem := rfl
@[simp] theorem State.setEngine_ctxs (e : Nat) (x : Engine) : (s.setEngine e x).ctxs = s.ctxs := rfl
@[simp] theorem State.setEngine_ctxCmds (e : Nat) (x : Engine) : (s.setEngine e x).ctxCmds = s.ctxCmds := rfl
@[simp] theorem State.setEngine_requests (e : Nat) (x : Engine) : (s.setEngine e x).requests = s.requests := rfl
@[simp] theorem State.setEngine_abandoned (e : Nat) (x : Engine) : (s.setEngine e x).abandoned = s.abandoned := rfl
@[simp] theorem State.setEngine_nextTag (e : Nat) (x : Engine) : (s.setEngine e x).nextTag = s.nextTag := rfl
@[simp] theorem State.setEngine_tiles (e : Nat) (x : Engine) : (s.setEngine e x).tiles = s.tiles := rfl
@[simp] theorem State.setEngine_cores (e : Nat) (x : Engine) : (s.setEngine e x).cores = s.cores := rfl
@[simp] theorem State.setEngine_ctrs (e : Nat) (x : Engine) : (s.setEngine e x).ctrs = s.ctrs := rfl
@[simp] theorem State.setEngine_transit (e : Nat) (x : Engine) : (s.setEngine e x).transit = s.transit := rfl
@[simp] theorem State.setEngine_dies (e : Nat) (x : Engine) : (s.setEngine e x).dies = s.dies := rfl
@[simp] theorem State.setEngine_layers (e : Nat) (x : Engine) : (s.setEngine e x).layers = s.layers := rfl
@[simp] theorem State.setEngine_cells (e : Nat) (x : Engine) : (s.setEngine e x).cells = s.cells := rfl
@[simp] theorem State.setEngine_scales (e : Nat) (x : Engine) : (s.setEngine e x).scales = s.scales := rfl
@[simp] theorem State.setEngine_passSeq (e : Nat) (x : Engine) : (s.setEngine e x).passSeq = s.passSeq := rfl
@[simp] theorem State.setEngine_ringSeq (e : Nat) (x : Engine) : (s.setEngine e x).ringSeq = s.ringSeq := rfl
@[simp] theorem State.setEngine_links (e : Nat) (x : Engine) : (s.setEngine e x).links = s.links := rfl
@[simp] theorem State.setEngine_delivered (e : Nat) (x : Engine) : (s.setEngine e x).delivered = s.delivered := rfl
@[simp] theorem State.setEngine_frames (e : Nat) (x : Engine) : (s.setEngine e x).frames = s.frames := rfl
@[simp] theorem State.setEngine_buckets (e : Nat) (x : Engine) : (s.setEngine e x).buckets = s.buckets := rfl
@[simp] theorem State.setEngine_openSeqs (e : Nat) (x : Engine) : (s.setEngine e x).openSeqs = s.openSeqs := rfl
@[simp] theorem State.setEngine_parked (e : Nat) (x : Engine) : (s.setEngine e x).parked = s.parked := rfl
@[simp] theorem State.setEngine_earlyAborts (e : Nat) (x : Engine) : (s.setEngine e x).earlyAborts = s.earlyAborts := rfl
@[simp] theorem State.setEngine_abortsSent (e : Nat) (x : Engine) : (s.setEngine e x).abortsSent = s.abortsSent := rfl
@[simp] theorem State.setEngine_digests (e : Nat) (x : Engine) : (s.setEngine e x).digests = s.digests := rfl
@[simp] theorem State.setEngine_qps (e : Nat) (x : Engine) : (s.setEngine e x).qps = s.qps := rfl
@[simp] theorem State.setEngine_prioShare (e : Nat) (x : Engine) : (s.setEngine e x).prioShare = s.prioShare := rfl
@[simp] theorem State.setEngine_pausedPrio (e : Nat) (x : Engine) : (s.setEngine e x).pausedPrio = s.pausedPrio := rfl
@[simp] theorem State.setEngine_pauseSent (e : Nat) (x : Engine) : (s.setEngine e x).pauseSent = s.pauseSent := rfl
@[simp] theorem State.setEngine_sessions (e : Nat) (x : Engine) : (s.setEngine e x).sessions = s.sessions := rfl
@[simp] theorem State.setEngine_slotFails (e : Nat) (x : Engine) : (s.setEngine e x).slotFails = s.slotFails := rfl
@[simp] theorem State.setEngine_slotLocked (e : Nat) (x : Engine) : (s.setEngine e x).slotLocked = s.slotLocked := rfl
@[simp] theorem State.setEngine_out (e : Nat) (x : Engine) : (s.setEngine e x).out = s.out := rfl
@[simp] theorem State.setEngine_sent (e : Nat) (x : Engine) : (s.setEngine e x).sent = s.sent := rfl
@[simp] theorem State.setEngine_turns (e : Nat) (x : Engine) : (s.setEngine e x).turns = s.turns := rfl
@[simp] theorem State.setEngine_svc (e : Nat) (x : Engine) : (s.setEngine e x).svc = s.svc := rfl
@[simp] theorem State.setEngine_power (e : Nat) (x : Engine) : (s.setEngine e x).power = s.power := rfl
@[simp] theorem State.setEngine_hkc (e : Nat) (x : Engine) : (s.setEngine e x).hkc = s.hkc := rfl
@[simp] theorem State.setEngine_rel (e : Nat) (x : Engine) : (s.setEngine e x).rel = s.rel := rfl
@[simp] theorem State.setEngine_journal (e : Nat) (x : Engine) : (s.setEngine e x).journal = s.journal := rfl
@[simp] theorem State.setEngine_boot (e : Nat) (x : Engine) : (s.setEngine e x).boot = s.boot := rfl
@[simp] theorem State.setEngine_pins (e : Nat) (x : Engine) : (s.setEngine e x).pins = s.pins := rfl

/-! ### State.setCtx -/

@[simp] theorem State.setCtx_pending (c : Nat) (x : Ctx) : (s.setCtx c x).pending = s.pending := rfl
@[simp] theorem State.setCtx_free (c : Nat) (x : Ctx) : (s.setCtx c x).free = s.free := rfl
@[simp] theorem State.setCtx_ctl (c : Nat) (x : Ctx) : (s.setCtx c x).ctl = s.ctl := rfl
@[simp] theorem State.setCtx_staged (c : Nat) (x : Ctx) : (s.setCtx c x).staged = s.staged := rfl
@[simp] theorem State.setCtx_captured (c : Nat) (x : Ctx) : (s.setCtx c x).captured = s.captured := rfl
@[simp] theorem State.setCtx_checking (c : Nat) (x : Ctx) : (s.setCtx c x).checking = s.checking := rfl
@[simp] theorem State.setCtx_blend (c : Nat) (x : Ctx) : (s.setCtx c x).blend = s.blend := rfl
@[simp] theorem State.setCtx_mem (c : Nat) (x : Ctx) : (s.setCtx c x).mem = s.mem := rfl
@[simp] theorem State.setCtx_ctxCmds (c : Nat) (x : Ctx) : (s.setCtx c x).ctxCmds = s.ctxCmds := rfl
@[simp] theorem State.setCtx_requests (c : Nat) (x : Ctx) : (s.setCtx c x).requests = s.requests := rfl
@[simp] theorem State.setCtx_abandoned (c : Nat) (x : Ctx) : (s.setCtx c x).abandoned = s.abandoned := rfl
@[simp] theorem State.setCtx_nextTag (c : Nat) (x : Ctx) : (s.setCtx c x).nextTag = s.nextTag := rfl
@[simp] theorem State.setCtx_tiles (c : Nat) (x : Ctx) : (s.setCtx c x).tiles = s.tiles := rfl
@[simp] theorem State.setCtx_cores (c : Nat) (x : Ctx) : (s.setCtx c x).cores = s.cores := rfl
@[simp] theorem State.setCtx_ctrs (c : Nat) (x : Ctx) : (s.setCtx c x).ctrs = s.ctrs := rfl
@[simp] theorem State.setCtx_transit (c : Nat) (x : Ctx) : (s.setCtx c x).transit = s.transit := rfl
@[simp] theorem State.setCtx_dies (c : Nat) (x : Ctx) : (s.setCtx c x).dies = s.dies := rfl
@[simp] theorem State.setCtx_layers (c : Nat) (x : Ctx) : (s.setCtx c x).layers = s.layers := rfl
@[simp] theorem State.setCtx_cells (c : Nat) (x : Ctx) : (s.setCtx c x).cells = s.cells := rfl
@[simp] theorem State.setCtx_scales (c : Nat) (x : Ctx) : (s.setCtx c x).scales = s.scales := rfl
@[simp] theorem State.setCtx_passSeq (c : Nat) (x : Ctx) : (s.setCtx c x).passSeq = s.passSeq := rfl
@[simp] theorem State.setCtx_ringSeq (c : Nat) (x : Ctx) : (s.setCtx c x).ringSeq = s.ringSeq := rfl
@[simp] theorem State.setCtx_links (c : Nat) (x : Ctx) : (s.setCtx c x).links = s.links := rfl
@[simp] theorem State.setCtx_engines (c : Nat) (x : Ctx) : (s.setCtx c x).engines = s.engines := rfl
@[simp] theorem State.setCtx_delivered (c : Nat) (x : Ctx) : (s.setCtx c x).delivered = s.delivered := rfl
@[simp] theorem State.setCtx_frames (c : Nat) (x : Ctx) : (s.setCtx c x).frames = s.frames := rfl
@[simp] theorem State.setCtx_buckets (c : Nat) (x : Ctx) : (s.setCtx c x).buckets = s.buckets := rfl
@[simp] theorem State.setCtx_openSeqs (c : Nat) (x : Ctx) : (s.setCtx c x).openSeqs = s.openSeqs := rfl
@[simp] theorem State.setCtx_parked (c : Nat) (x : Ctx) : (s.setCtx c x).parked = s.parked := rfl
@[simp] theorem State.setCtx_earlyAborts (c : Nat) (x : Ctx) : (s.setCtx c x).earlyAborts = s.earlyAborts := rfl
@[simp] theorem State.setCtx_abortsSent (c : Nat) (x : Ctx) : (s.setCtx c x).abortsSent = s.abortsSent := rfl
@[simp] theorem State.setCtx_digests (c : Nat) (x : Ctx) : (s.setCtx c x).digests = s.digests := rfl
@[simp] theorem State.setCtx_qps (c : Nat) (x : Ctx) : (s.setCtx c x).qps = s.qps := rfl
@[simp] theorem State.setCtx_prioShare (c : Nat) (x : Ctx) : (s.setCtx c x).prioShare = s.prioShare := rfl
@[simp] theorem State.setCtx_pausedPrio (c : Nat) (x : Ctx) : (s.setCtx c x).pausedPrio = s.pausedPrio := rfl
@[simp] theorem State.setCtx_pauseSent (c : Nat) (x : Ctx) : (s.setCtx c x).pauseSent = s.pauseSent := rfl
@[simp] theorem State.setCtx_sessions (c : Nat) (x : Ctx) : (s.setCtx c x).sessions = s.sessions := rfl
@[simp] theorem State.setCtx_slotFails (c : Nat) (x : Ctx) : (s.setCtx c x).slotFails = s.slotFails := rfl
@[simp] theorem State.setCtx_slotLocked (c : Nat) (x : Ctx) : (s.setCtx c x).slotLocked = s.slotLocked := rfl
@[simp] theorem State.setCtx_out (c : Nat) (x : Ctx) : (s.setCtx c x).out = s.out := rfl
@[simp] theorem State.setCtx_sent (c : Nat) (x : Ctx) : (s.setCtx c x).sent = s.sent := rfl
@[simp] theorem State.setCtx_turns (c : Nat) (x : Ctx) : (s.setCtx c x).turns = s.turns := rfl
@[simp] theorem State.setCtx_svc (c : Nat) (x : Ctx) : (s.setCtx c x).svc = s.svc := rfl
@[simp] theorem State.setCtx_power (c : Nat) (x : Ctx) : (s.setCtx c x).power = s.power := rfl
@[simp] theorem State.setCtx_hkc (c : Nat) (x : Ctx) : (s.setCtx c x).hkc = s.hkc := rfl
@[simp] theorem State.setCtx_rel (c : Nat) (x : Ctx) : (s.setCtx c x).rel = s.rel := rfl
@[simp] theorem State.setCtx_journal (c : Nat) (x : Ctx) : (s.setCtx c x).journal = s.journal := rfl
@[simp] theorem State.setCtx_boot (c : Nat) (x : Ctx) : (s.setCtx c x).boot = s.boot := rfl
@[simp] theorem State.setCtx_pins (c : Nat) (x : Ctx) : (s.setCtx c x).pins = s.pins := rfl

/-! ### State.setSession -/

@[simp] theorem State.setSession_pending (n : Nat) (x : Session) : (s.setSession n x).pending = s.pending := rfl
@[simp] theorem State.setSession_free (n : Nat) (x : Session) : (s.setSession n x).free = s.free := rfl
@[simp] theorem State.setSession_ctl (n : Nat) (x : Session) : (s.setSession n x).ctl = s.ctl := rfl
@[simp] theorem State.setSession_staged (n : Nat) (x : Session) : (s.setSession n x).staged = s.staged := rfl
@[simp] theorem State.setSession_captured (n : Nat) (x : Session) : (s.setSession n x).captured = s.captured := rfl
@[simp] theorem State.setSession_checking (n : Nat) (x : Session) : (s.setSession n x).checking = s.checking := rfl
@[simp] theorem State.setSession_blend (n : Nat) (x : Session) : (s.setSession n x).blend = s.blend := rfl
@[simp] theorem State.setSession_mem (n : Nat) (x : Session) : (s.setSession n x).mem = s.mem := rfl
@[simp] theorem State.setSession_ctxs (n : Nat) (x : Session) : (s.setSession n x).ctxs = s.ctxs := rfl
@[simp] theorem State.setSession_ctxCmds (n : Nat) (x : Session) : (s.setSession n x).ctxCmds = s.ctxCmds := rfl
@[simp] theorem State.setSession_requests (n : Nat) (x : Session) : (s.setSession n x).requests = s.requests := rfl
@[simp] theorem State.setSession_abandoned (n : Nat) (x : Session) : (s.setSession n x).abandoned = s.abandoned := rfl
@[simp] theorem State.setSession_nextTag (n : Nat) (x : Session) : (s.setSession n x).nextTag = s.nextTag := rfl
@[simp] theorem State.setSession_tiles (n : Nat) (x : Session) : (s.setSession n x).tiles = s.tiles := rfl
@[simp] theorem State.setSession_cores (n : Nat) (x : Session) : (s.setSession n x).cores = s.cores := rfl
@[simp] theorem State.setSession_ctrs (n : Nat) (x : Session) : (s.setSession n x).ctrs = s.ctrs := rfl
@[simp] theorem State.setSession_transit (n : Nat) (x : Session) : (s.setSession n x).transit = s.transit := rfl
@[simp] theorem State.setSession_dies (n : Nat) (x : Session) : (s.setSession n x).dies = s.dies := rfl
@[simp] theorem State.setSession_layers (n : Nat) (x : Session) : (s.setSession n x).layers = s.layers := rfl
@[simp] theorem State.setSession_cells (n : Nat) (x : Session) : (s.setSession n x).cells = s.cells := rfl
@[simp] theorem State.setSession_scales (n : Nat) (x : Session) : (s.setSession n x).scales = s.scales := rfl
@[simp] theorem State.setSession_passSeq (n : Nat) (x : Session) : (s.setSession n x).passSeq = s.passSeq := rfl
@[simp] theorem State.setSession_ringSeq (n : Nat) (x : Session) : (s.setSession n x).ringSeq = s.ringSeq := rfl
@[simp] theorem State.setSession_links (n : Nat) (x : Session) : (s.setSession n x).links = s.links := rfl
@[simp] theorem State.setSession_engines (n : Nat) (x : Session) : (s.setSession n x).engines = s.engines := rfl
@[simp] theorem State.setSession_delivered (n : Nat) (x : Session) : (s.setSession n x).delivered = s.delivered := rfl
@[simp] theorem State.setSession_frames (n : Nat) (x : Session) : (s.setSession n x).frames = s.frames := rfl
@[simp] theorem State.setSession_buckets (n : Nat) (x : Session) : (s.setSession n x).buckets = s.buckets := rfl
@[simp] theorem State.setSession_openSeqs (n : Nat) (x : Session) : (s.setSession n x).openSeqs = s.openSeqs := rfl
@[simp] theorem State.setSession_parked (n : Nat) (x : Session) : (s.setSession n x).parked = s.parked := rfl
@[simp] theorem State.setSession_earlyAborts (n : Nat) (x : Session) : (s.setSession n x).earlyAborts = s.earlyAborts := rfl
@[simp] theorem State.setSession_abortsSent (n : Nat) (x : Session) : (s.setSession n x).abortsSent = s.abortsSent := rfl
@[simp] theorem State.setSession_digests (n : Nat) (x : Session) : (s.setSession n x).digests = s.digests := rfl
@[simp] theorem State.setSession_qps (n : Nat) (x : Session) : (s.setSession n x).qps = s.qps := rfl
@[simp] theorem State.setSession_prioShare (n : Nat) (x : Session) : (s.setSession n x).prioShare = s.prioShare := rfl
@[simp] theorem State.setSession_pausedPrio (n : Nat) (x : Session) : (s.setSession n x).pausedPrio = s.pausedPrio := rfl
@[simp] theorem State.setSession_pauseSent (n : Nat) (x : Session) : (s.setSession n x).pauseSent = s.pauseSent := rfl
@[simp] theorem State.setSession_slotFails (n : Nat) (x : Session) : (s.setSession n x).slotFails = s.slotFails := rfl
@[simp] theorem State.setSession_slotLocked (n : Nat) (x : Session) : (s.setSession n x).slotLocked = s.slotLocked := rfl
@[simp] theorem State.setSession_out (n : Nat) (x : Session) : (s.setSession n x).out = s.out := rfl
@[simp] theorem State.setSession_sent (n : Nat) (x : Session) : (s.setSession n x).sent = s.sent := rfl
@[simp] theorem State.setSession_turns (n : Nat) (x : Session) : (s.setSession n x).turns = s.turns := rfl
@[simp] theorem State.setSession_svc (n : Nat) (x : Session) : (s.setSession n x).svc = s.svc := rfl
@[simp] theorem State.setSession_power (n : Nat) (x : Session) : (s.setSession n x).power = s.power := rfl
@[simp] theorem State.setSession_hkc (n : Nat) (x : Session) : (s.setSession n x).hkc = s.hkc := rfl
@[simp] theorem State.setSession_rel (n : Nat) (x : Session) : (s.setSession n x).rel = s.rel := rfl
@[simp] theorem State.setSession_journal (n : Nat) (x : Session) : (s.setSession n x).journal = s.journal := rfl
@[simp] theorem State.setSession_boot (n : Nat) (x : Session) : (s.setSession n x).boot = s.boot := rfl
@[simp] theorem State.setSession_pins (n : Nat) (x : Session) : (s.setSession n x).pins = s.pins := rfl

/-! ### State.setQp -/

@[simp] theorem State.setQp_pending (n : Nat) (x : Qp) : (s.setQp n x).pending = s.pending := rfl
@[simp] theorem State.setQp_free (n : Nat) (x : Qp) : (s.setQp n x).free = s.free := rfl
@[simp] theorem State.setQp_ctl (n : Nat) (x : Qp) : (s.setQp n x).ctl = s.ctl := rfl
@[simp] theorem State.setQp_staged (n : Nat) (x : Qp) : (s.setQp n x).staged = s.staged := rfl
@[simp] theorem State.setQp_captured (n : Nat) (x : Qp) : (s.setQp n x).captured = s.captured := rfl
@[simp] theorem State.setQp_checking (n : Nat) (x : Qp) : (s.setQp n x).checking = s.checking := rfl
@[simp] theorem State.setQp_blend (n : Nat) (x : Qp) : (s.setQp n x).blend = s.blend := rfl
@[simp] theorem State.setQp_mem (n : Nat) (x : Qp) : (s.setQp n x).mem = s.mem := rfl
@[simp] theorem State.setQp_ctxs (n : Nat) (x : Qp) : (s.setQp n x).ctxs = s.ctxs := rfl
@[simp] theorem State.setQp_ctxCmds (n : Nat) (x : Qp) : (s.setQp n x).ctxCmds = s.ctxCmds := rfl
@[simp] theorem State.setQp_requests (n : Nat) (x : Qp) : (s.setQp n x).requests = s.requests := rfl
@[simp] theorem State.setQp_abandoned (n : Nat) (x : Qp) : (s.setQp n x).abandoned = s.abandoned := rfl
@[simp] theorem State.setQp_nextTag (n : Nat) (x : Qp) : (s.setQp n x).nextTag = s.nextTag := rfl
@[simp] theorem State.setQp_tiles (n : Nat) (x : Qp) : (s.setQp n x).tiles = s.tiles := rfl
@[simp] theorem State.setQp_cores (n : Nat) (x : Qp) : (s.setQp n x).cores = s.cores := rfl
@[simp] theorem State.setQp_ctrs (n : Nat) (x : Qp) : (s.setQp n x).ctrs = s.ctrs := rfl
@[simp] theorem State.setQp_transit (n : Nat) (x : Qp) : (s.setQp n x).transit = s.transit := rfl
@[simp] theorem State.setQp_dies (n : Nat) (x : Qp) : (s.setQp n x).dies = s.dies := rfl
@[simp] theorem State.setQp_layers (n : Nat) (x : Qp) : (s.setQp n x).layers = s.layers := rfl
@[simp] theorem State.setQp_cells (n : Nat) (x : Qp) : (s.setQp n x).cells = s.cells := rfl
@[simp] theorem State.setQp_scales (n : Nat) (x : Qp) : (s.setQp n x).scales = s.scales := rfl
@[simp] theorem State.setQp_passSeq (n : Nat) (x : Qp) : (s.setQp n x).passSeq = s.passSeq := rfl
@[simp] theorem State.setQp_ringSeq (n : Nat) (x : Qp) : (s.setQp n x).ringSeq = s.ringSeq := rfl
@[simp] theorem State.setQp_links (n : Nat) (x : Qp) : (s.setQp n x).links = s.links := rfl
@[simp] theorem State.setQp_engines (n : Nat) (x : Qp) : (s.setQp n x).engines = s.engines := rfl
@[simp] theorem State.setQp_delivered (n : Nat) (x : Qp) : (s.setQp n x).delivered = s.delivered := rfl
@[simp] theorem State.setQp_frames (n : Nat) (x : Qp) : (s.setQp n x).frames = s.frames := rfl
@[simp] theorem State.setQp_buckets (n : Nat) (x : Qp) : (s.setQp n x).buckets = s.buckets := rfl
@[simp] theorem State.setQp_openSeqs (n : Nat) (x : Qp) : (s.setQp n x).openSeqs = s.openSeqs := rfl
@[simp] theorem State.setQp_parked (n : Nat) (x : Qp) : (s.setQp n x).parked = s.parked := rfl
@[simp] theorem State.setQp_earlyAborts (n : Nat) (x : Qp) : (s.setQp n x).earlyAborts = s.earlyAborts := rfl
@[simp] theorem State.setQp_abortsSent (n : Nat) (x : Qp) : (s.setQp n x).abortsSent = s.abortsSent := rfl
@[simp] theorem State.setQp_digests (n : Nat) (x : Qp) : (s.setQp n x).digests = s.digests := rfl
@[simp] theorem State.setQp_prioShare (n : Nat) (x : Qp) : (s.setQp n x).prioShare = s.prioShare := rfl
@[simp] theorem State.setQp_pausedPrio (n : Nat) (x : Qp) : (s.setQp n x).pausedPrio = s.pausedPrio := rfl
@[simp] theorem State.setQp_pauseSent (n : Nat) (x : Qp) : (s.setQp n x).pauseSent = s.pauseSent := rfl
@[simp] theorem State.setQp_sessions (n : Nat) (x : Qp) : (s.setQp n x).sessions = s.sessions := rfl
@[simp] theorem State.setQp_slotFails (n : Nat) (x : Qp) : (s.setQp n x).slotFails = s.slotFails := rfl
@[simp] theorem State.setQp_slotLocked (n : Nat) (x : Qp) : (s.setQp n x).slotLocked = s.slotLocked := rfl
@[simp] theorem State.setQp_out (n : Nat) (x : Qp) : (s.setQp n x).out = s.out := rfl
@[simp] theorem State.setQp_sent (n : Nat) (x : Qp) : (s.setQp n x).sent = s.sent := rfl
@[simp] theorem State.setQp_turns (n : Nat) (x : Qp) : (s.setQp n x).turns = s.turns := rfl
@[simp] theorem State.setQp_svc (n : Nat) (x : Qp) : (s.setQp n x).svc = s.svc := rfl
@[simp] theorem State.setQp_power (n : Nat) (x : Qp) : (s.setQp n x).power = s.power := rfl
@[simp] theorem State.setQp_hkc (n : Nat) (x : Qp) : (s.setQp n x).hkc = s.hkc := rfl
@[simp] theorem State.setQp_rel (n : Nat) (x : Qp) : (s.setQp n x).rel = s.rel := rfl
@[simp] theorem State.setQp_journal (n : Nat) (x : Qp) : (s.setQp n x).journal = s.journal := rfl
@[simp] theorem State.setQp_boot (n : Nat) (x : Qp) : (s.setQp n x).boot = s.boot := rfl
@[simp] theorem State.setQp_pins (n : Nat) (x : Qp) : (s.setQp n x).pins = s.pins := rfl

/-! ### State.setLayer -/

@[simp] theorem State.setLayer_pending (k : Nat) (x : Layer) : (s.setLayer k x).pending = s.pending := rfl
@[simp] theorem State.setLayer_free (k : Nat) (x : Layer) : (s.setLayer k x).free = s.free := rfl
@[simp] theorem State.setLayer_ctl (k : Nat) (x : Layer) : (s.setLayer k x).ctl = s.ctl := rfl
@[simp] theorem State.setLayer_staged (k : Nat) (x : Layer) : (s.setLayer k x).staged = s.staged := rfl
@[simp] theorem State.setLayer_captured (k : Nat) (x : Layer) : (s.setLayer k x).captured = s.captured := rfl
@[simp] theorem State.setLayer_checking (k : Nat) (x : Layer) : (s.setLayer k x).checking = s.checking := rfl
@[simp] theorem State.setLayer_blend (k : Nat) (x : Layer) : (s.setLayer k x).blend = s.blend := rfl
@[simp] theorem State.setLayer_mem (k : Nat) (x : Layer) : (s.setLayer k x).mem = s.mem := rfl
@[simp] theorem State.setLayer_ctxs (k : Nat) (x : Layer) : (s.setLayer k x).ctxs = s.ctxs := rfl
@[simp] theorem State.setLayer_ctxCmds (k : Nat) (x : Layer) : (s.setLayer k x).ctxCmds = s.ctxCmds := rfl
@[simp] theorem State.setLayer_requests (k : Nat) (x : Layer) : (s.setLayer k x).requests = s.requests := rfl
@[simp] theorem State.setLayer_abandoned (k : Nat) (x : Layer) : (s.setLayer k x).abandoned = s.abandoned := rfl
@[simp] theorem State.setLayer_nextTag (k : Nat) (x : Layer) : (s.setLayer k x).nextTag = s.nextTag := rfl
@[simp] theorem State.setLayer_tiles (k : Nat) (x : Layer) : (s.setLayer k x).tiles = s.tiles := rfl
@[simp] theorem State.setLayer_cores (k : Nat) (x : Layer) : (s.setLayer k x).cores = s.cores := rfl
@[simp] theorem State.setLayer_ctrs (k : Nat) (x : Layer) : (s.setLayer k x).ctrs = s.ctrs := rfl
@[simp] theorem State.setLayer_transit (k : Nat) (x : Layer) : (s.setLayer k x).transit = s.transit := rfl
@[simp] theorem State.setLayer_dies (k : Nat) (x : Layer) : (s.setLayer k x).dies = s.dies := rfl
@[simp] theorem State.setLayer_cells (k : Nat) (x : Layer) : (s.setLayer k x).cells = s.cells := rfl
@[simp] theorem State.setLayer_scales (k : Nat) (x : Layer) : (s.setLayer k x).scales = s.scales := rfl
@[simp] theorem State.setLayer_passSeq (k : Nat) (x : Layer) : (s.setLayer k x).passSeq = s.passSeq := rfl
@[simp] theorem State.setLayer_ringSeq (k : Nat) (x : Layer) : (s.setLayer k x).ringSeq = s.ringSeq := rfl
@[simp] theorem State.setLayer_links (k : Nat) (x : Layer) : (s.setLayer k x).links = s.links := rfl
@[simp] theorem State.setLayer_engines (k : Nat) (x : Layer) : (s.setLayer k x).engines = s.engines := rfl
@[simp] theorem State.setLayer_delivered (k : Nat) (x : Layer) : (s.setLayer k x).delivered = s.delivered := rfl
@[simp] theorem State.setLayer_frames (k : Nat) (x : Layer) : (s.setLayer k x).frames = s.frames := rfl
@[simp] theorem State.setLayer_buckets (k : Nat) (x : Layer) : (s.setLayer k x).buckets = s.buckets := rfl
@[simp] theorem State.setLayer_openSeqs (k : Nat) (x : Layer) : (s.setLayer k x).openSeqs = s.openSeqs := rfl
@[simp] theorem State.setLayer_parked (k : Nat) (x : Layer) : (s.setLayer k x).parked = s.parked := rfl
@[simp] theorem State.setLayer_earlyAborts (k : Nat) (x : Layer) : (s.setLayer k x).earlyAborts = s.earlyAborts := rfl
@[simp] theorem State.setLayer_abortsSent (k : Nat) (x : Layer) : (s.setLayer k x).abortsSent = s.abortsSent := rfl
@[simp] theorem State.setLayer_digests (k : Nat) (x : Layer) : (s.setLayer k x).digests = s.digests := rfl
@[simp] theorem State.setLayer_qps (k : Nat) (x : Layer) : (s.setLayer k x).qps = s.qps := rfl
@[simp] theorem State.setLayer_prioShare (k : Nat) (x : Layer) : (s.setLayer k x).prioShare = s.prioShare := rfl
@[simp] theorem State.setLayer_pausedPrio (k : Nat) (x : Layer) : (s.setLayer k x).pausedPrio = s.pausedPrio := rfl
@[simp] theorem State.setLayer_pauseSent (k : Nat) (x : Layer) : (s.setLayer k x).pauseSent = s.pauseSent := rfl
@[simp] theorem State.setLayer_sessions (k : Nat) (x : Layer) : (s.setLayer k x).sessions = s.sessions := rfl
@[simp] theorem State.setLayer_slotFails (k : Nat) (x : Layer) : (s.setLayer k x).slotFails = s.slotFails := rfl
@[simp] theorem State.setLayer_slotLocked (k : Nat) (x : Layer) : (s.setLayer k x).slotLocked = s.slotLocked := rfl
@[simp] theorem State.setLayer_out (k : Nat) (x : Layer) : (s.setLayer k x).out = s.out := rfl
@[simp] theorem State.setLayer_sent (k : Nat) (x : Layer) : (s.setLayer k x).sent = s.sent := rfl
@[simp] theorem State.setLayer_turns (k : Nat) (x : Layer) : (s.setLayer k x).turns = s.turns := rfl
@[simp] theorem State.setLayer_svc (k : Nat) (x : Layer) : (s.setLayer k x).svc = s.svc := rfl
@[simp] theorem State.setLayer_power (k : Nat) (x : Layer) : (s.setLayer k x).power = s.power := rfl
@[simp] theorem State.setLayer_hkc (k : Nat) (x : Layer) : (s.setLayer k x).hkc = s.hkc := rfl
@[simp] theorem State.setLayer_rel (k : Nat) (x : Layer) : (s.setLayer k x).rel = s.rel := rfl
@[simp] theorem State.setLayer_journal (k : Nat) (x : Layer) : (s.setLayer k x).journal = s.journal := rfl
@[simp] theorem State.setLayer_boot (k : Nat) (x : Layer) : (s.setLayer k x).boot = s.boot := rfl
@[simp] theorem State.setLayer_pins (k : Nat) (x : Layer) : (s.setLayer k x).pins = s.pins := rfl

/-! ### State.writeBytes -/

@[simp] theorem State.writeBytes_pending (a : Nat) (bs : List Byte) : (s.writeBytes a bs).pending = s.pending := rfl
@[simp] theorem State.writeBytes_free (a : Nat) (bs : List Byte) : (s.writeBytes a bs).free = s.free := rfl
@[simp] theorem State.writeBytes_ctl (a : Nat) (bs : List Byte) : (s.writeBytes a bs).ctl = s.ctl := rfl
@[simp] theorem State.writeBytes_staged (a : Nat) (bs : List Byte) : (s.writeBytes a bs).staged = s.staged := rfl
@[simp] theorem State.writeBytes_captured (a : Nat) (bs : List Byte) : (s.writeBytes a bs).captured = s.captured := rfl
@[simp] theorem State.writeBytes_checking (a : Nat) (bs : List Byte) : (s.writeBytes a bs).checking = s.checking := rfl
@[simp] theorem State.writeBytes_blend (a : Nat) (bs : List Byte) : (s.writeBytes a bs).blend = s.blend := rfl
@[simp] theorem State.writeBytes_ctxs (a : Nat) (bs : List Byte) : (s.writeBytes a bs).ctxs = s.ctxs := rfl
@[simp] theorem State.writeBytes_ctxCmds (a : Nat) (bs : List Byte) : (s.writeBytes a bs).ctxCmds = s.ctxCmds := rfl
@[simp] theorem State.writeBytes_requests (a : Nat) (bs : List Byte) : (s.writeBytes a bs).requests = s.requests := rfl
@[simp] theorem State.writeBytes_abandoned (a : Nat) (bs : List Byte) : (s.writeBytes a bs).abandoned = s.abandoned := rfl
@[simp] theorem State.writeBytes_nextTag (a : Nat) (bs : List Byte) : (s.writeBytes a bs).nextTag = s.nextTag := rfl
@[simp] theorem State.writeBytes_tiles (a : Nat) (bs : List Byte) : (s.writeBytes a bs).tiles = s.tiles := rfl
@[simp] theorem State.writeBytes_cores (a : Nat) (bs : List Byte) : (s.writeBytes a bs).cores = s.cores := rfl
@[simp] theorem State.writeBytes_ctrs (a : Nat) (bs : List Byte) : (s.writeBytes a bs).ctrs = s.ctrs := rfl
@[simp] theorem State.writeBytes_transit (a : Nat) (bs : List Byte) : (s.writeBytes a bs).transit = s.transit := rfl
@[simp] theorem State.writeBytes_dies (a : Nat) (bs : List Byte) : (s.writeBytes a bs).dies = s.dies := rfl
@[simp] theorem State.writeBytes_layers (a : Nat) (bs : List Byte) : (s.writeBytes a bs).layers = s.layers := rfl
@[simp] theorem State.writeBytes_cells (a : Nat) (bs : List Byte) : (s.writeBytes a bs).cells = s.cells := rfl
@[simp] theorem State.writeBytes_scales (a : Nat) (bs : List Byte) : (s.writeBytes a bs).scales = s.scales := rfl
@[simp] theorem State.writeBytes_passSeq (a : Nat) (bs : List Byte) : (s.writeBytes a bs).passSeq = s.passSeq := rfl
@[simp] theorem State.writeBytes_ringSeq (a : Nat) (bs : List Byte) : (s.writeBytes a bs).ringSeq = s.ringSeq := rfl
@[simp] theorem State.writeBytes_links (a : Nat) (bs : List Byte) : (s.writeBytes a bs).links = s.links := rfl
@[simp] theorem State.writeBytes_engines (a : Nat) (bs : List Byte) : (s.writeBytes a bs).engines = s.engines := rfl
@[simp] theorem State.writeBytes_delivered (a : Nat) (bs : List Byte) : (s.writeBytes a bs).delivered = s.delivered := rfl
@[simp] theorem State.writeBytes_frames (a : Nat) (bs : List Byte) : (s.writeBytes a bs).frames = s.frames := rfl
@[simp] theorem State.writeBytes_buckets (a : Nat) (bs : List Byte) : (s.writeBytes a bs).buckets = s.buckets := rfl
@[simp] theorem State.writeBytes_openSeqs (a : Nat) (bs : List Byte) : (s.writeBytes a bs).openSeqs = s.openSeqs := rfl
@[simp] theorem State.writeBytes_parked (a : Nat) (bs : List Byte) : (s.writeBytes a bs).parked = s.parked := rfl
@[simp] theorem State.writeBytes_earlyAborts (a : Nat) (bs : List Byte) : (s.writeBytes a bs).earlyAborts = s.earlyAborts := rfl
@[simp] theorem State.writeBytes_abortsSent (a : Nat) (bs : List Byte) : (s.writeBytes a bs).abortsSent = s.abortsSent := rfl
@[simp] theorem State.writeBytes_digests (a : Nat) (bs : List Byte) : (s.writeBytes a bs).digests = s.digests := rfl
@[simp] theorem State.writeBytes_qps (a : Nat) (bs : List Byte) : (s.writeBytes a bs).qps = s.qps := rfl
@[simp] theorem State.writeBytes_prioShare (a : Nat) (bs : List Byte) : (s.writeBytes a bs).prioShare = s.prioShare := rfl
@[simp] theorem State.writeBytes_pausedPrio (a : Nat) (bs : List Byte) : (s.writeBytes a bs).pausedPrio = s.pausedPrio := rfl
@[simp] theorem State.writeBytes_pauseSent (a : Nat) (bs : List Byte) : (s.writeBytes a bs).pauseSent = s.pauseSent := rfl
@[simp] theorem State.writeBytes_sessions (a : Nat) (bs : List Byte) : (s.writeBytes a bs).sessions = s.sessions := rfl
@[simp] theorem State.writeBytes_slotFails (a : Nat) (bs : List Byte) : (s.writeBytes a bs).slotFails = s.slotFails := rfl
@[simp] theorem State.writeBytes_slotLocked (a : Nat) (bs : List Byte) : (s.writeBytes a bs).slotLocked = s.slotLocked := rfl
@[simp] theorem State.writeBytes_out (a : Nat) (bs : List Byte) : (s.writeBytes a bs).out = s.out := rfl
@[simp] theorem State.writeBytes_sent (a : Nat) (bs : List Byte) : (s.writeBytes a bs).sent = s.sent := rfl
@[simp] theorem State.writeBytes_turns (a : Nat) (bs : List Byte) : (s.writeBytes a bs).turns = s.turns := rfl
@[simp] theorem State.writeBytes_svc (a : Nat) (bs : List Byte) : (s.writeBytes a bs).svc = s.svc := rfl
@[simp] theorem State.writeBytes_power (a : Nat) (bs : List Byte) : (s.writeBytes a bs).power = s.power := rfl
@[simp] theorem State.writeBytes_hkc (a : Nat) (bs : List Byte) : (s.writeBytes a bs).hkc = s.hkc := rfl
@[simp] theorem State.writeBytes_rel (a : Nat) (bs : List Byte) : (s.writeBytes a bs).rel = s.rel := rfl
@[simp] theorem State.writeBytes_journal (a : Nat) (bs : List Byte) : (s.writeBytes a bs).journal = s.journal := rfl
@[simp] theorem State.writeBytes_boot (a : Nat) (bs : List Byte) : (s.writeBytes a bs).boot = s.boot := rfl
@[simp] theorem State.writeBytes_pins (a : Nat) (bs : List Byte) : (s.writeBytes a bs).pins = s.pins := rfl

/-! ### State.lose -/

@[simp] theorem State.lose_pending (k : LossKind) : (s.lose k).pending = s.pending := rfl
@[simp] theorem State.lose_ctl (k : LossKind) : (s.lose k).ctl = s.ctl := rfl
@[simp] theorem State.lose_staged (k : LossKind) : (s.lose k).staged = s.staged := rfl
@[simp] theorem State.lose_captured (k : LossKind) : (s.lose k).captured = s.captured := rfl
@[simp] theorem State.lose_checking (k : LossKind) : (s.lose k).checking = s.checking := rfl
@[simp] theorem State.lose_blend (k : LossKind) : (s.lose k).blend = s.blend := rfl
@[simp] theorem State.lose_ctxs (k : LossKind) : (s.lose k).ctxs = s.ctxs := rfl
@[simp] theorem State.lose_ctxCmds (k : LossKind) : (s.lose k).ctxCmds = s.ctxCmds := rfl
@[simp] theorem State.lose_requests (k : LossKind) : (s.lose k).requests = s.requests := rfl
@[simp] theorem State.lose_abandoned (k : LossKind) : (s.lose k).abandoned = s.abandoned := rfl
@[simp] theorem State.lose_nextTag (k : LossKind) : (s.lose k).nextTag = s.nextTag := rfl
@[simp] theorem State.lose_tiles (k : LossKind) : (s.lose k).tiles = s.tiles := rfl
@[simp] theorem State.lose_cores (k : LossKind) : (s.lose k).cores = s.cores := rfl
@[simp] theorem State.lose_ctrs (k : LossKind) : (s.lose k).ctrs = s.ctrs := rfl
@[simp] theorem State.lose_transit (k : LossKind) : (s.lose k).transit = s.transit := rfl
@[simp] theorem State.lose_dies (k : LossKind) : (s.lose k).dies = s.dies := rfl
@[simp] theorem State.lose_layers (k : LossKind) : (s.lose k).layers = s.layers := rfl
@[simp] theorem State.lose_cells (k : LossKind) : (s.lose k).cells = s.cells := rfl
@[simp] theorem State.lose_scales (k : LossKind) : (s.lose k).scales = s.scales := rfl
@[simp] theorem State.lose_passSeq (k : LossKind) : (s.lose k).passSeq = s.passSeq := rfl
@[simp] theorem State.lose_ringSeq (k : LossKind) : (s.lose k).ringSeq = s.ringSeq := rfl
@[simp] theorem State.lose_links (k : LossKind) : (s.lose k).links = s.links := rfl
@[simp] theorem State.lose_engines (k : LossKind) : (s.lose k).engines = s.engines := rfl
@[simp] theorem State.lose_delivered (k : LossKind) : (s.lose k).delivered = s.delivered := rfl
@[simp] theorem State.lose_frames (k : LossKind) : (s.lose k).frames = s.frames := rfl
@[simp] theorem State.lose_buckets (k : LossKind) : (s.lose k).buckets = s.buckets := rfl
@[simp] theorem State.lose_openSeqs (k : LossKind) : (s.lose k).openSeqs = s.openSeqs := rfl
@[simp] theorem State.lose_parked (k : LossKind) : (s.lose k).parked = s.parked := rfl
@[simp] theorem State.lose_earlyAborts (k : LossKind) : (s.lose k).earlyAborts = s.earlyAborts := rfl
@[simp] theorem State.lose_abortsSent (k : LossKind) : (s.lose k).abortsSent = s.abortsSent := rfl
@[simp] theorem State.lose_digests (k : LossKind) : (s.lose k).digests = s.digests := rfl
@[simp] theorem State.lose_qps (k : LossKind) : (s.lose k).qps = s.qps := rfl
@[simp] theorem State.lose_prioShare (k : LossKind) : (s.lose k).prioShare = s.prioShare := rfl
@[simp] theorem State.lose_pausedPrio (k : LossKind) : (s.lose k).pausedPrio = s.pausedPrio := rfl
@[simp] theorem State.lose_pauseSent (k : LossKind) : (s.lose k).pauseSent = s.pauseSent := rfl
@[simp] theorem State.lose_sessions (k : LossKind) : (s.lose k).sessions = s.sessions := rfl
@[simp] theorem State.lose_slotFails (k : LossKind) : (s.lose k).slotFails = s.slotFails := rfl
@[simp] theorem State.lose_slotLocked (k : LossKind) : (s.lose k).slotLocked = s.slotLocked := rfl
@[simp] theorem State.lose_out (k : LossKind) : (s.lose k).out = s.out := rfl
@[simp] theorem State.lose_sent (k : LossKind) : (s.lose k).sent = s.sent := rfl
@[simp] theorem State.lose_turns (k : LossKind) : (s.lose k).turns = s.turns := rfl
@[simp] theorem State.lose_svc (k : LossKind) : (s.lose k).svc = s.svc := rfl
@[simp] theorem State.lose_power (k : LossKind) : (s.lose k).power = s.power := rfl
@[simp] theorem State.lose_hkc (k : LossKind) : (s.lose k).hkc = s.hkc := rfl
@[simp] theorem State.lose_rel (k : LossKind) : (s.lose k).rel = s.rel := rfl
@[simp] theorem State.lose_journal (k : LossKind) : (s.lose k).journal = s.journal := rfl
@[simp] theorem State.lose_boot (k : LossKind) : (s.lose k).boot = s.boot := rfl
@[simp] theorem State.lose_pins (k : LossKind) : (s.lose k).pins = s.pins := rfl

/-! ### The unit that an update changes, and the others -/

@[simp] theorem State.tile_setTile (t y : Nat) (x : Tile) : (s.setTile t x).tile y = if y = t then x else s.tile y :=
  smGet_smPut _ _ _ _ _

@[simp] theorem State.ctr_setCtr (i y : Nat) (x : Ctr) : (s.setCtr i x).ctr y = if y = i then x else s.ctr y :=
  smGet_smPut _ _ _ _ _

@[simp] theorem State.die_setDie (d y : Nat) (x : Die) : (s.setDie d x).die y = if y = d then x else s.die y :=
  smGet_smPut _ _ _ _ _

@[simp] theorem State.link_setLink (l y : Nat) (x : Link) : (s.setLink l x).link y = if y = l then x else s.link y :=
  smGet_smPut _ _ _ _ _

@[simp] theorem State.engine_setEngine (e y : Nat) (x : Engine) : (s.setEngine e x).engine y = if y = e then x else s.engine y :=
  smGet_smPut _ _ _ _ _

@[simp] theorem State.ctx_setCtx (c y : Nat) (x : Ctx) : (s.setCtx c x).ctx y = if y = c then x else s.ctx y :=
  smGet_smPut _ _ _ _ _

@[simp] theorem State.session_setSession (n y : Nat) (x : Session) : (s.setSession n x).session y = if y = n then x else s.session y :=
  smGet_smPut _ _ _ _ _

@[simp] theorem State.qp_setQp (n y : Nat) (x : Qp) : (s.setQp n x).qp y = if y = n then x else s.qp y :=
  smGet_smPut _ _ _ _ _

@[simp] theorem State.layer_setLayer (k y : Nat) (x : Layer) : (s.setLayer k x).layer y = if y = k then x else s.layer y :=
  smGet_smPut _ _ _ _ _

theorem State.core_setCore (t c u d : Nat) (x : Core) (hc : c < 8) (hd : d < 8) :
    (s.setCore t c x).core u d = if u = t ∧ d = c then x else s.core u d := by
  simp only [State.core, State.setCore, smGet_smPut]
  split_ifs <;> first | rfl | omega

@[simp] theorem State.op_setOp (t k u j : Nat) (o : Option Op) :
    (s.setOp t k o).op u j = if u = t ∧ j = k then o else s.op u j := by
  simp only [State.op, State.setOp, State.tile_setTile]
  by_cases h : u = t
  · subst h; simp [Tile.op, Tile.setOp, smGet_smPut]
  · simp [h]

/-! ### Registers -/

@[simp] theorem State.word_setWord (a x : Nat) (v : W64) : (s.setWord a v).word x = if x = a then v else s.word x :=
  smGet_smPut _ _ _ _ _

theorem State.word_set (f : Fld) (i j v x : Nat) :
    (s.set f i j v).word x = if x = f.addr i j then withField (s.word (f.addr i j)) f.hi f.lo v else s.word x :=
  smGet_smPut _ _ _ _ _

theorem State.word_bump (f : Fld) (i j n x : Nat) :
    (s.bump f i j n).word x = if x = f.addr i j then bumpWord (s.word (f.addr i j)) n else s.word x :=
  smGet_smPut _ _ _ _ _

@[simp] theorem State.stagedWord_setStaged (a x : Nat) (v : W64) :
    (s.setStaged a v).stagedWord x = if x = a then v else s.stagedWord x := smGet_smPut _ _ _ _ _

/-- A register of another address reads as before. -/
theorem State.get_set_ne (f g : Fld) (i j i' j' v : Nat) (h : g.addr i' j' ≠ f.addr i j) : (s.set f i j v).get g i' j' = s.get g i' j' := by
  simp [State.get, State.word_set, h]

theorem State.get_bump_ne (f g : Fld) (i j i' j' n : Nat) (h : g.addr i' j' ≠ f.addr i j) : (s.bump f i j n).get g i' j' = s.get g i' j' := by
  simp [State.get, State.word_bump, h]

/-- A field written is read back, modulo its width. -/
theorem State.get_set_self (f : Fld) (i j v : Nat) (hl : f.lo ≤ f.hi) (hh : f.hi < 64) :
    (s.set f i j v).get f i j = v % 2 ^ (f.hi + 1 - f.lo) := by
  simp [State.get, State.word_set, fieldOf_withField _ _ _ _ hl hh]

/-- Another field of the same word, lying above or below, reads as before. -/
theorem State.get_set_apart (f g : Fld) (i j i' j' v : Nat) (ha : g.addr i' j' = f.addr i j) (hl : f.lo ≤ f.hi) (hh : f.hi < 64)
    (hg : g.hi < 64) (h : f.hi < g.lo ∨ g.hi < f.lo) : (s.set f i j v).get g i' j' = s.get g i' j' := by
  simp only [State.get, State.word_set, ha, if_true]
  exact fieldOf_withField_apart _ _ _ _ _ _ hl hh hg h

end Sys2Proof.Machine
end

