-- ==== Sys2Proof/Laws/Memory.lean ====
section
/-!
SUPPORT. Memory: a byte written is read back and no other byte changes; every operation keeps the canonical form; when an access is
clean.
-/

namespace Sys2Proof.Machine

@[simp] theorem Memory.read_write (m : Memory) (a x : Nat) (b : Byte) : (m.write a b).read x = if x = a then b else m.read x :=
  smGet_smPut _ _ _ _ _

theorem Memory.write_wf {m : Memory} (h : m.wf) (a : Nat) (b : Byte) : (m.write a b).wf := smPut_wf h a b

@[simp] theorem Memory.write_lost (m : Memory) (a : Nat) (b : Byte) : (m.write a b).lost = m.lost := rfl
@[simp] theorem Memory.write_poisoned (m : Memory) (a : Nat) (b : Byte) : (m.write a b).poisoned = m.poisoned := rfl

/-- Bytes written stand where they were written, and every other byte reads as before. -/
theorem Memory.read_writeList (m : Memory) (a x : Nat) (bs : List Byte) :
    (m.writeList a bs).read x = if a ≤ x ∧ x < a + bs.length then bs.getD (x - a) 0 else m.read x := by
  induction bs generalizing m a with
  | nil => simp [Memory.writeList]
  | cons b bs ih =>
    simp only [Memory.writeList, ih, Memory.read_write, List.length_cons]
    by_cases h : x = a
    · subst h
      simp
    · by_cases h1 : a + 1 ≤ x ∧ x < a + 1 + bs.length
      · rw [if_pos h1, if_pos (by omega), show x - a = x - (a + 1) + 1 by omega, List.getD_cons_succ]
      · rw [if_neg h1, if_neg h, if_neg (by omega)]

theorem Memory.writeList_wf {m : Memory} (h : m.wf) (a : Nat) (bs : List Byte) : (m.writeList a bs).wf := by
  induction bs generalizing m a with
  | nil => exact h
  | cons b bs ih => exact ih (Memory.write_wf h a b) (a + 1)

@[simp] theorem Memory.writeList_lost (m : Memory) (a : Nat) (bs : List Byte) : (m.writeList a bs).lost = m.lost := by
  induction bs generalizing m a with
  | nil => rfl
  | cons b bs ih => simp [Memory.writeList, ih]

/-- An unlisted byte that a loss event does not reach reads as before it. -/
theorem unlisted_lost (lost : List Loss) (l : Loss) (a : Nat) (h : l.kind.covers a = false) : unlisted (l :: lost) a = unlisted lost a := by
  simp [unlisted, h]

theorem Memory.lose_wf {m : Memory} (h : m.wf) (stamp : Nat) (k : LossKind) : (m.lose stamp k).wf := by
  refine ⟨h.1.filter _, fun e he => ?_⟩
  have hm := List.mem_filter.1 he
  rw [show (m.lose stamp k).lost = ⟨stamp, k⟩ :: m.lost from rfl, unlisted_lost _ _ _ (by simpa using hm.2)]
  exact h.2 e hm.1

/-- A byte after a loss: as the event leaves it where it reaches, else as before. -/
theorem Memory.read_lose (m : Memory) (stamp a : Nat) (k : LossKind) :
    (m.lose stamp k).read a = if k.covers a then Loss.byte ⟨stamp, k⟩ a else m.read a := by
  have hf := smGet_filter_key (unlisted (⟨stamp, k⟩ :: m.lost)) (fun x => !k.covers x) m.cells a
  simp only [Memory.read, Memory.lose, hf]
  by_cases h : k.covers a
  · simp [h, unlisted]
  · simp only [h, Bool.not_false, if_true, Bool.false_eq_true, if_false]
    exact smGet_congr _ _ _ _ (unlisted_lost _ _ _ (by simpa using h))

/-! ### The state's memory -/

/-- What a write of bytes does to every byte. -/
@[simp] theorem State.readByte_writeBytes (s : State) (a x : Nat) (bs : List Byte) :
    (s.writeBytes a bs).readByte x = if a ≤ x ∧ x < a + bs.length then bs.getD (x - a) 0 else s.readByte x :=
  Memory.read_writeList s.mem a x bs

/-- Bytes written are read back. -/
theorem State.readBytes_writeBytes (s : State) (a : Nat) (bs : List Byte) : (s.writeBytes a bs).readBytes a bs.length = bs := by
  refine List.ext_getElem (by simp [State.readBytes, Memory.readList]) fun i h1 h2 => ?_
  have := State.readByte_writeBytes s a (a + i) bs
  rw [if_pos (by omega), Nat.add_sub_cancel_left] at this
  simpa [State.readBytes, Memory.readList, State.readByte, List.getD_eq_getElem?_getD, h2] using this

/-- Bytes of a range that a write does not touch are as before. -/
theorem State.readBytes_apart (s : State) (a b n : Nat) (bs : List Byte) (h : b + n ≤ a ∨ a + bs.length ≤ b) :
    (s.writeBytes a bs).readBytes b n = s.readBytes b n := by
  refine List.map_congr_left fun i hi => ?_
  have hi' := List.mem_range.1 hi
  have := State.readByte_writeBytes s a (b + i) bs
  rwa [if_neg (by omega)] at this

theorem State.writeBytes_wf {s : State} (h : s.mem.wf) (a : Nat) (bs : List Byte) : (s.writeBytes a bs).mem.wf := by
  have hw := Memory.writeList_wf h a bs
  exact hw

theorem State.lose_wf {s : State} (h : s.mem.wf) (k : LossKind) : (s.lose k).mem.wf := Memory.lose_wf h s.free k

theorem State.reset_mem_wf : State.reset.mem.wf := by
  refine ⟨List.Pairwise.nil, fun e he => ?_⟩
  cases he

/-! ### Clean accesses -/

theorem State.firstUnmapped_none (s : State) (a n : Nat) :
    s.firstUnmapped a n = none ↔ ∀ x, a ≤ x → x < a + n → s.mapped x = true := by
  simp only [State.firstUnmapped, List.find?_eq_none, List.mem_map, List.mem_range]
  constructor
  · intro h x h1 h2
    have := h x ⟨x - a, by omega, by omega⟩
    simpa using this
  · rintro h x ⟨i, hi, rfl⟩
    simp [h (a + i) (by omega) (by omega)]

/-- An access to mapped bytes, with no poisoned block and no uncorrectable one reported, meets no error. -/
theorem State.accessErr_clean (s : State) (a n : Nat) (w : Bool) (hm : ∀ x, a ≤ x → x < a + n → s.mapped x = true)
    (hp : ∀ b ∈ unitsOf (eccBytes (s.get .capMemoryScratchKib) a) a n, s.isPoisoned b = false) : s.accessErr [] a n w = none := by
  rw [State.accessErr, (s.firstUnmapped_none a n).2 hm]
  refine List.findSome?_eq_none_iff.2 fun b hb => ?_
  simp [hp b hb]

end Sys2Proof.Machine
end

