-- ==== Sys2Proof/Laws/Ops.lean ====
section
/-!
SUPPORT. Shared operations, each once: which fields of the state it can change, and what the caller needs of the rest. `Keeps` is what
every operation does to the queue and to memory's canonical form.
-/

namespace Sys2Proof.Machine

/-! ### The queue and memory's form -/

/-- `t` has the queue of `s`, and memory in canonical form where `s` has. -/
def Keeps (s t : State) : Prop := t.pending = s.pending ∧ (s.mem.wf → t.mem.wf)

theorem Keeps.refl (s : State) : Keeps s s := ⟨rfl, id⟩

theorem Keeps.trans {s t u : State} (h : Keeps s t) (k : Keeps t u) : Keeps s u := ⟨k.1.trans h.1, fun w => k.2 (h.2 w)⟩

/-- An update that touches neither the queue nor memory. -/
theorem Keeps.of_eq {s t : State} (hp : t.pending = s.pending) (hm : t.mem = s.mem) : Keeps s t := ⟨hp, fun w => hm ▸ w⟩

/-- What holds of each step of a fold holds of the fold. -/
theorem Keeps.foldl {α : Type} (f : State → α → State) (h : ∀ s x, Keeps s (f s x)) (xs : List α) (s : State) : Keeps s (xs.foldl f s) := by
  induction xs generalizing s with
  | nil => exact .refl s
  | cons x xs ih => exact (h s x).trans (ih (f s x))

theorem Keeps.ite {s a b : State} {c : Prop} [Decidable c] (ha : Keeps s a) (hb : Keeps s b) : Keeps s (if c then a else b) := by
  split <;> assumption

theorem Keeps.writeBytes (s : State) (a : Nat) (bs : List Byte) : Keeps s (s.writeBytes a bs) := ⟨rfl, fun w => s.writeBytes_wf w a bs⟩

theorem Keeps.lose (s : State) (k : LossKind) : Keeps s (s.lose k) := ⟨rfl, fun w => s.lose_wf w k⟩

/-! ### Events and the log -/

/-- An event changes the outputs alone. -/
theorem State.event_frame (s : State) (k c a b : Nat) : ∃ o, s.event k c a b = { s with out := s.out ++ o } := ⟨_, rfl⟩

/-- An entry logged: what it can change. -/
theorem State.logCode_frame (s : State) (code unit : Nat) (a : LogArgs) :
    ∃ m r o, s.logCode code unit a = { s with free := s.free + 1, mem := m, rel := r, out := o } := by
  unfold State.logCode
  dsimp only
  generalize s.logEntry code unit a = bs
  generalize s.logAddr s.rel.logSeq = x
  unfold State.writeBytes
  generalize s.mem.writeList x bs = m
  split <;> exact ⟨_, _, _, rfl⟩

/-- An entry whose FLAGS bit 0 is clear: the ring, SEQ and how many entries are held, nothing else. -/
theorem State.logCode_quiet (s : State) (code unit : Nat) (a : LogArgs) (h : a.flags % 2 = 0) :
    s.logCode code unit a = { (s.writeBytes (s.logAddr s.rel.logSeq) (s.logEntry code unit a)) with
      free := s.free + 1, rel := { s.rel with logSeq := (s.rel.logSeq + 1) % 2 ^ 32, logHeld := min 65536 (s.rel.logHeld + 1) } } := by
  unfold State.logCode
  dsimp only
  generalize s.logEntry code unit a = bs
  generalize s.logAddr s.rel.logSeq = x
  unfold State.writeBytes
  generalize s.mem.writeList x bs = m
  rw [if_neg (by omega)]
  rfl

theorem State.alarm_alert (s : State) (code unit : Nat) (a : LogArgs) : (s.alarm code unit a).rel.alert = true := by
  unfold State.alarm State.logCode
  dsimp only
  rw [if_pos (by omega)]
  rfl

theorem State.logCode_mem (s : State) (code unit : Nat) (a : LogArgs) :
    (s.logCode code unit a).mem = (s.writeBytes (s.logAddr s.rel.logSeq) (s.logEntry code unit a)).mem := by
  unfold State.logCode
  dsimp only
  split <;> rfl

theorem State.logCode_seq (s : State) (code unit : Nat) (a : LogArgs) :
    (s.logCode code unit a).rel.logSeq = (s.rel.logSeq + 1) % 2 ^ 32 := by
  unfold State.logCode
  dsimp only
  split <;> rfl

@[simp] theorem State.logEntry_length (s : State) (code unit : Nat) (a : LogArgs) : (s.logEntry code unit a).length = 64 := by
  simp [State.logEntry]

theorem Keeps.logCode (s : State) (code unit : Nat) (a : LogArgs) : Keeps s (s.logCode code unit a) := by
  refine ⟨?_, fun w => ?_⟩
  · obtain ⟨_, _, _, h⟩ := s.logCode_frame code unit a
    rw [h]
  · rw [State.logCode_mem]
    exact s.writeBytes_wf w _ _

/-- The bytes of a range are those of a list whose bytes stand there. -/
theorem State.readBytes_of {s : State} {a n : Nat} {bs : List Byte} (hl : n ≤ bs.length) (h : ∀ i, i < n → s.readByte (a + i) = bs.getD i 0) :
    s.readBytes a n = bs.take n := by
  refine List.ext_getElem (by simp [State.readBytes, Memory.readList, hl]) fun i h1 h2 => ?_
  have hi : i < n := by simpa [State.readBytes, Memory.readList] using h1
  have := h i hi
  simp [State.readBytes, Memory.readList, State.readByte, List.getD_eq_getElem?_getD, show i < bs.length by omega] at this ⊢
  exact this

theorem logEntry_code (s : State) (code unit : Nat) (a : LogArgs) :
    ((s.logEntry code unit a).drop 4).take 2 = leBytes 2 code ∧ ((s.logEntry code unit a).drop 6).take 2 = leBytes 2 unit := by
  constructor
  · simp [State.logEntry]
  · simp [State.logEntry, leBytes]

/-- An entry logged stands in the ring with its code and unit, and no other byte changes (R423). -/
theorem State.logCode_logged (s : State) (code unit : Nat) (a : LogArgs) (hc : code < 65536) (hu : unit < 65536) :
    s.Logged (s.logCode code unit a) code unit := by
  have hm : ∀ x, (s.logCode code unit a).readByte x = (s.writeBytes (s.logAddr s.rel.logSeq) (s.logEntry code unit a)).readByte x := by
    intro x
    simp only [State.readByte, State.logCode_mem]
  have field : ∀ j n, j + n ≤ 64 → (s.logCode code unit a).readBytes (s.logAddr s.rel.logSeq + j) n = ((s.logEntry code unit a).drop j).take n := by
    intro j n h
    refine State.readBytes_of (by simp; omega) fun i hi => ?_
    rw [hm, State.readByte_writeBytes, if_pos (by simp; omega), show s.logAddr s.rel.logSeq + j + i - s.logAddr s.rel.logSeq = j + i by omega]
    simp [List.getD_eq_getElem?_getD, List.getElem?_drop]
  refine ⟨s.logCode_seq code unit a, ?_, ?_, ?_, fun x hx => ?_⟩
  · have := field 0 4 (by omega)
    rw [Nat.add_zero] at this
    rw [this]
    simp [State.logEntry, leNat_leBytes]
  · rw [field 4 2 (by omega), (logEntry_code s code unit a).1, leNat_leBytes]
    exact Nat.mod_eq_of_lt (by omega)
  · rw [field 6 2 (by omega), (logEntry_code s code unit a).2, leNat_leBytes]
    exact Nat.mod_eq_of_lt (by omega)
  · rw [hm, State.readByte_writeBytes, if_neg (by simp; omega)]

/-! ### Signals -/

/-- A signal changes counters and the counts of its block, nothing else. -/
theorem State.signalTo_frame (s : State) (id : Nat) (d : Int) : ∃ c k, (s.signalTo id d).1 = { s with ctl := c, ctrs := k } := by
  unfold State.signalTo
  dsimp only
  split_ifs <;> exact ⟨_, _, rfl⟩

theorem State.signalService_frame (s : State) (n : Nat) : ∃ c k, s.signalService n = { s with ctl := c, ctrs := k } := s.signalTo_frame _ _

/-- No signal reaches a counter of another number. -/
theorem State.signalTo_other (s : State) (id j : Nat) (d : Int) (h : j ≠ id) : (s.signalTo id d).1.ctr j = s.ctr j := by
  have e : ∀ x, ((s.setCtr id x).ctr j) = s.ctr j := fun x => by simp [h]
  unfold State.signalTo
  dsimp only
  split_ifs
  · rfl
  · rfl
  · rfl
  · exact e _
  · exact e _

/-- A signal to a counter in NORMAL of a unit that is on adds or subtracts, saturating (Table 8.6). -/
theorem State.signalTo_normal (s : State) (id : Nat) (d : Int) (h0 : d ≠ 0) (hon : s.idOff id = false) (hp : (s.ctr id).poison = false) :
    (s.signalTo id d).1.ctr id = (s.ctr id).signal d := by
  have e : ∀ x, ((s.setCtr id x).ctr id) = x := fun x => by simp
  unfold State.signalTo
  simp only [h0, hon, hp, if_false, Bool.false_eq_true]
  split_ifs
  · exact e _
  · exact e _

theorem Keeps.signalTo (s : State) (id : Nat) (d : Int) : Keeps s (s.signalTo id d).1 := by
  obtain ⟨_, _, h⟩ := s.signalTo_frame id d
  rw [h]; exact .of_eq rfl rfl

theorem Keeps.signalService (s : State) (n : Nat) : Keeps s (s.signalService n) := .signalTo s _ _

/-- An operation's signals change counters and counts, nothing else. -/
theorem State.sendSignals_frame (s : State) (d : BitVec 512) : ∃ c k, (s.sendSignals d).1 = { s with ctl := c, ctrs := k } := by
  have key : ∀ (gs : List (Nat × Int)) (a : State × Bool),
      ∃ c k, (gs.foldl (fun a g => if g.1 = 0xFFFF then a else let r := a.1.signalTo g.1 g.2; (r.1, a.2 || r.2)) a).1 =
        { a.1 with ctl := c, ctrs := k } := by
    intro gs
    induction gs with
    | nil => intro a; exact ⟨_, _, rfl⟩
    | cons g gs ih =>
      intro a
      simp only [List.foldl_cons]
      obtain ⟨c, k, h⟩ := ih (if g.1 = 0xFFFF then a else ((a.1.signalTo g.1 g.2).1, a.2 || (a.1.signalTo g.1 g.2).2))
      rw [h]
      split
      · exact ⟨_, _, rfl⟩
      · obtain ⟨c', k', h'⟩ := a.1.signalTo_frame g.1 g.2
        exact ⟨c, k, by rw [h']⟩
  exact key _ _

theorem Keeps.sendSignals (s : State) (d : BitVec 512) : Keeps s (s.sendSignals d).1 := by
  obtain ⟨_, _, h⟩ := s.sendSignals_frame d
  rw [h]; exact .of_eq rfl rfl

/-! ### Queues and records -/

/-- A wait consumed changes counters alone. -/
theorem State.consume_frame (s : State) (id th : Nat) (c : Bool) : ∃ k, s.consume id th c = { s with ctrs := k } := by
  unfold State.consume
  split <;> exact ⟨_, rfl⟩

theorem State.consumeWaits_frame (s : State) (d : BitVec 512) : ∃ k, s.consumeWaits d = { s with ctrs := k } := by
  unfold State.consumeWaits
  obtain ⟨k, h⟩ := s.consume_frame (dField d 8 2) (dField d 10 2) (dBits d 6 0 0 == 1)
  rw [h]
  obtain ⟨k', h'⟩ := State.consume_frame { s with ctrs := k } (dField d 12 2) (dField d 14 2) (dBits d 6 1 1 == 1)
  exact ⟨k', h'⟩

/-- A record written: its bytes, its pointer, nothing else. -/
theorem State.writeRecord_frame (s : State) (t q : Nat) (bs : List Byte) : ∃ c m, s.writeRecord t q bs = { s with ctl := c, mem := m } :=
  ⟨_, _, rfl⟩

theorem State.writeRecord_bytes (s : State) (t q x : Nat) (bs : List Byte) :
    (s.writeRecord t q bs).readByte x =
      if s.recAddr t q ≤ x ∧ x < s.recAddr t q + bs.length then bs.getD (x - s.recAddr t q) 0 else s.readByte x :=
  s.readByte_writeBytes _ _ _

theorem Keeps.writeRecord (s : State) (t q : Nat) (bs : List Byte) : Keeps s (s.writeRecord t q bs) :=
  ⟨rfl, fun w => s.writeBytes_wf w _ _⟩

/-- A register write and a count change registers alone. -/
theorem State.set_frame (s : State) (f : Fld) (i j v : Nat) : ∃ c, s.set f i j v = { s with ctl := c } := ⟨_, rfl⟩
theorem State.bump_frame (s : State) (f : Fld) (i j n : Nat) : ∃ c, s.bump f i j n = { s with ctl := c } := ⟨_, rfl⟩

/-- A halt changes its tile and its queue's registers. -/
theorem State.haltQueue_frame (s : State) (t q code seq : Nat) (h : Halt) :
    ∃ c k, s.haltQueue t q code seq h = { s with ctl := c, tiles := k } := by
  unfold State.haltQueue
  split
  · exact ⟨_, _, rfl⟩
  · generalize (s.tile t).setHalt q (some h) = x
    obtain ⟨c1, h1⟩ := (s.setTile t x).set_frame .opqStateHaltCode t q code
    obtain ⟨c2, h2⟩ := State.set_frame ((s.setTile t x).set .opqStateHaltCode t q code) .opqStateHaltSeq t q seq
    obtain ⟨c3, h3⟩ := State.bump_frame (((s.setTile t x).set .opqStateHaltCode t q code).set .opqStateHaltSeq t q seq) .opqHalts t 0 1
    refine ⟨c3, (s.setTile t x).tiles, ?_⟩
    rw [h3, h2, h1]
    rfl

theorem State.haltQueue_halted (s : State) (t q code seq : Nat) (h : Halt) : (s.haltQueue t q code seq h).halted t q = true := by
  unfold State.haltQueue
  split
  · rename_i x hx
    simp [State.halted, hx]
  · simp only [State.halted, Bool.or_eq_true]
    left
    have e : ∀ s' : State, s'.tiles = (s.setTile t ((s.tile t).setHalt q (some h))).tiles → ((s'.tile t).halt q).isSome = true := by
      intro s' hs
      have : s'.tile t = (s.tile t).setHalt q (some h) := by
        simp only [State.tile, hs]
        exact smGet_smPut_self _ _ _ _
      simp [this, Tile.halt, Tile.setHalt]
    exact e _ rfl

theorem State.haltSignal_frame (s : State) (t q : Nat) : ∃ c k, s.haltSignal t q = { s with ctl := c, ctrs := k } := by
  unfold State.haltSignal
  split
  · exact s.signalService_frame _
  · exact ⟨_, _, rfl⟩

theorem Keeps.haltSignal (s : State) (t q : Nat) : Keeps s (s.haltSignal t q) := by
  obtain ⟨_, _, h⟩ := s.haltSignal_frame t q
  rw [h]; exact .of_eq rfl rfl

/-- An access error noted: registers alone. -/
theorem State.noteErr_frame (s : State) (e : MemErr) : ∃ c, s.noteErr e = { s with ctl := c } := by
  cases e with
  | unmapped => exact ⟨_, rfl⟩
  | ue a =>
    show ∃ c, s.noteMemErr _ a = _
    unfold State.noteMemErr
    split
    · exact ⟨_, rfl⟩
    · rename_i x l _
      obtain ⟨c1, h1⟩ := s.bump_frame .xferMemUe (x / 5) (x % 5) 1
      obtain ⟨c2, h2⟩ := State.set_frame (s.bump .xferMemUe (x / 5) (x % 5)) .xferMemErrCode (x / 5) 0 Code.memUe
      obtain ⟨c3, h3⟩ := State.set_frame ((s.bump .xferMemUe (x / 5) (x % 5)).set .xferMemErrCode (x / 5) 0 Code.memUe) .xferMemErrStack (x / 5) 0 x
      obtain ⟨c4, h4⟩ := State.set_frame (((s.bump .xferMemUe (x / 5) (x % 5)).set .xferMemErrCode (x / 5) 0 Code.memUe).set .xferMemErrStack (x / 5) 0 x)
        .xferMemErrLocal (x / 5) 0 l
      exact ⟨c4, by rw [h4, h3, h2, h1]⟩
  | scratchUe t => exact s.bump_frame _ _ _ _
  | accumUe t => exact s.bump_frame _ _ _ _

theorem Keeps.noteErr (s : State) (e : MemErr) : Keeps s (s.noteErr e) := by
  obtain ⟨_, h⟩ := s.noteErr_frame e
  rw [h]; exact .of_eq rfl rfl

/-- What a failing or completing operation can change. -/
def OpChanges (s t : State) : Prop := ∃ f c m k n, t = { s with free := f, ctl := c, mem := m, tiles := k, ctrs := n }

theorem OpChanges.refl (s : State) : OpChanges s s := ⟨_, _, _, _, _, rfl⟩

theorem OpChanges.trans {s t u : State} (h : OpChanges s t) (k : OpChanges t u) : OpChanges s u := by
  obtain ⟨_, _, _, _, _, rfl⟩ := h
  obtain ⟨_, _, _, _, _, rfl⟩ := k
  exact ⟨_, _, _, _, _, rfl⟩

theorem OpChanges.setOp (s : State) (t k : Nat) (o : Option Op) : OpChanges s (s.setOp t k o) := ⟨_, _, _, _, _, rfl⟩

theorem OpChanges.record (s : State) (t q : Nat) (bs : List Byte) : OpChanges s (s.tick.writeRecord t q bs) := ⟨_, _, _, _, _, rfl⟩

theorem OpChanges.haltQueue (s : State) (t q code seq : Nat) (h : Halt) : OpChanges s (s.haltQueue t q code seq h) := by
  obtain ⟨_, _, e⟩ := s.haltQueue_frame t q code seq h
  exact ⟨_, _, _, _, _, e⟩

theorem OpChanges.haltSignal (s : State) (t q : Nat) : OpChanges s (s.haltSignal t q) := by
  obtain ⟨_, _, e⟩ := s.haltSignal_frame t q
  exact ⟨_, _, _, _, _, e⟩

theorem OpChanges.sendSignals (s : State) (d : BitVec 512) : OpChanges s (s.sendSignals d).1 := by
  obtain ⟨_, _, e⟩ := s.sendSignals_frame d
  exact ⟨_, _, _, _, _, e⟩

theorem OpChanges.noteErr (s : State) (e : MemErr) : OpChanges s (s.noteErr e) := by
  obtain ⟨_, h⟩ := s.noteErr_frame e
  exact ⟨_, _, _, _, _, h⟩

theorem OpChanges.ite {s a b : State} {c : Prop} [Decidable c] (ha : OpChanges s a) (hb : OpChanges s b) : OpChanges s (if c then a else b) := by
  split <;> assumption

/-- An operation that fails: what it can change. -/
theorem State.failOp_frame (s : State) (ue : List Nat) (t k code detail : Nat) (keep : Bool) : OpChanges s (s.failOp ue t k code detail keep) := by
  unfold State.failOp
  split
  · exact .refl s
  · refine (((?_ : OpChanges s _).trans (.haltQueue _ t _ _ _ _)).trans (.setOp _ t k _)).trans (.haltSignal _ t _)
    generalize s.recErr ue t _ = e
    cases e with
    | none => exact .record s t _ _
    | some e => exact .noteErr s e

/-- An operation that completes: what it can change. -/
theorem State.completeOp_frame (s : State) (ue : List Nat) (t k : Nat) : OpChanges s (s.completeOp ue t k) := by
  unfold State.completeOp
  split
  · exact .refl s
  · rename_i o _
    dsimp only
    generalize (if (dBits o.desc 1 2 2 == 1) = true then s.recErr ue t o.queue else none) = e
    cases e with
    | some e => exact (((OpChanges.noteErr s e).trans (.haltQueue _ t _ _ _ _)).trans (.setOp _ t k _)).trans (.haltSignal _ t _)
    | none => exact ((OpChanges.sendSignals s _).trans (.ite (.record _ t _ _) (.refl _))).trans (.setOp _ t k _)

theorem Keeps.setOp (s : State) (t k : Nat) (o : Option Op) : Keeps s (s.setOp t k o) := .of_eq rfl rfl

theorem Keeps.record (s : State) (t q : Nat) (bs : List Byte) : Keeps s (s.tick.writeRecord t q bs) :=
  (Keeps.of_eq rfl rfl : Keeps s s.tick).trans (.writeRecord _ t q bs)

theorem Keeps.haltQueue (s : State) (t q code seq : Nat) (h : Halt) : Keeps s (s.haltQueue t q code seq h) := by
  obtain ⟨_, _, e⟩ := s.haltQueue_frame t q code seq h
  rw [e]; exact .of_eq rfl rfl

theorem Keeps.failOp (s : State) (ue : List Nat) (t k code detail : Nat) (keep : Bool) : Keeps s (s.failOp ue t k code detail keep) := by
  unfold State.failOp
  split
  · exact .refl s
  · refine (((?_ : Keeps s _).trans (.haltQueue _ t _ _ _ _)).trans (.setOp _ t k _)).trans (.haltSignal _ t _)
    generalize s.recErr ue t _ = e
    cases e with
    | none => exact .record s t _ _
    | some e => exact .noteErr s e

theorem Keeps.completeOp (s : State) (ue : List Nat) (t k : Nat) : Keeps s (s.completeOp ue t k) := by
  unfold State.completeOp
  split
  · exact .refl s
  · rename_i o _
    dsimp only
    generalize (if (dBits o.desc 1 2 2 == 1) = true then s.recErr ue t o.queue else none) = e
    cases e with
    | some e => exact (((Keeps.noteErr s e).trans (.haltQueue _ t _ _ _ _)).trans (.setOp _ t k _)).trans (.haltSignal _ t _)
    | none => exact ((Keeps.sendSignals s _).trans (.ite (.record _ t _ _) (.refl _))).trans (.setOp _ t k _)

/-- An operation that leaves its queue: what it can change; it runs from then on. -/
theorem State.leave_frame (s : State) (t q k : Nat) (o : Op) (u : OpUnit) :
    ∃ c n m, (s.leave t q k o u).1 = { s with free := s.free + 1, ctl := c, tiles := n, ctrs := m } := by
  unfold State.leave
  dsimp only
  obtain ⟨_, h⟩ := s.tick.consumeWaits_frame o.desc
  rw [h]
  exact ⟨_, _, _, rfl⟩

theorem State.leave_op (s : State) (t q k : Nat) (o : Op) (u : OpUnit) :
    (s.leave t q k o u).1.op t k = some (s.leave t q k o u).2 ∧ (s.leave t q k o u).2.phase = .running := by
  refine ⟨?_, rfl⟩
  unfold State.leave
  simp [State.op, Tile.op, Tile.setOp]

theorem Keeps.leave (s : State) (t q k : Nat) (o : Op) (u : OpUnit) : Keeps s (s.leave t q k o u).1 := by
  obtain ⟨_, _, _, h⟩ := s.leave_frame t q k o u
  rw [h]; exact .of_eq rfl rfl

/-- An operation changed in its slot: its tile alone. -/
theorem State.modOp_frame (s : State) (t k : Nat) (f : Op → Op) : ∃ n, s.modOp t k f = { s with tiles := n } := by
  unfold State.modOp
  split <;> exact ⟨_, rfl⟩

theorem State.op_modOp (s : State) (t k u j : Nat) (f : Op → Op) :
    (s.modOp t k f).op u j = if u = t ∧ j = k then (s.op t k).map f else s.op u j := by
  unfold State.modOp
  split
  · rename_i o ho
    simp [ho]
  · rename_i ho
    split
    · rename_i h
      simp [h.1, h.2, ho]
    · rfl

theorem Keeps.modOp (s : State) (t k : Nat) (f : Op → Op) : Keeps s (s.modOp t k f) := by
  obtain ⟨_, h⟩ := s.modOp_frame t k f
  rw [h]; exact .of_eq rfl rfl

end Sys2Proof.Machine
end

