-- ==== Sys2Proof/WellFormed.lean ====
section
/-!
DEFINITION. Which operands a command can carry: every index within the counts of Table 2.1 and Table 2.4 (TLV-96F), every field
within its width. The model gives an ill-formed command an outcome too; no unit of the module could send one.
-/

namespace Sys2Proof

/-- The instances of a unit with registers (Table 2.1). -/
def Pfx.count (p : Pfx) : Nat :=
  match p with
  | .tile => 64
  | .opq => 64
  | .sync => 65
  | .cask => 32
  | .cal => 32
  | .cwr => 32
  | .xfer => 4
  | .flink => 96
  | .rdc => 4
  | _ => 1

/-- A tile. -/
def okTile (t : Nat) : Bool := decide (t < 64)

/-- A queue of a tile. -/
def okQueue (t q : Nat) : Bool := okTile t && decide (q < 16)

/-- An operation slot of a tile (CAP_QUEUES.SLOTS). -/
def okSlot (t slot : Nat) : Bool := okTile t && decide (slot < 64)

/-- A scalar core of a tile, or of the service cluster, whose cores stand under tile 64 (log 16). -/
def okCore (t c : Nat) : Bool := (okTile t && decide (c < 8)) || (t == 64 && decide (c < 16))

/-- A cask die. -/
def okDie (d : Nat) : Bool := decide (d < 32)

/-- A macro of a cask die (CAP_MACROS.NOMINAL). -/
def okMac (d m : Nat) : Bool := okDie d && decide (m < 2048)

/-- A layer of a macro (CAP_CASK.LAYERS). -/
def okLayer (d m l : Nat) : Bool := okMac d m && decide (l < 8)

/-- A Fepra link. -/
def okLink (l : Nat) : Bool := decide (l < 96)

/-- An optical engine. -/
def okEngine (e : Nat) : Bool := decide (e < 8)

/-- A power domain (Table 13.4). -/
def okDomain (d : Nat) : Bool := decide (d < 112)

/-- A unit identifier (R398). -/
def okUnit (u : Nat) : Bool := decide (u < 2 ^ 16)

/-- A management session, of which at most four are open (R342), and the SEQ of its command (Table 12.3). -/
def okSes (n seq : Nat) : Bool := decide (n < 4 ∧ seq < 2 ^ 32)

/-- A number of `w` bits. -/
def okBits (w n : Nat) : Bool := decide (n < 2 ^ w)

/-- An agent: a session, or one of the 16 service cluster cores. -/
def Agent.ok (a : Agent) : Bool :=
  match a with
  | .session n => decide (n < 4)
  | .core k => decide (k < 16)

/-- The registers of a custom-0 instruction: five bits each. -/
def VArgs.ok (a : VArgs) : Bool := okBits 5 a.vd && okBits 5 a.vs1 && okBits 5 a.vs2 && okBits 2 a.rc

/-- The fields of a custom-2 instruction (Table 6.11). -/
def VMem.ok (m : VMem) : Bool := okBits 5 m.v && okBits 5 m.rs1 && okBits 5 m.rs2 && okBits 3 m.fmt && okBits 2 m.rc

/-- The fields of a received Ethernet frame: a VLAN, a priority, a length. -/
def EthFrame.ok (f : EthFrame) : Bool := okBits 12 f.vid && okBits 3 f.pcp && okBits 16 f.bytes

/-- One line reading of the open-line test: 12-bit codes. -/
def OltReading.ok (r : OltReading) : Bool := decide (r.layer < 8 ∧ r.line < 1032) && okBits 12 r.up && okBits 12 r.down

/-- A waiter. -/
def Waiter.ok (w : Waiter) : Bool :=
  match w with
  | .queue t q => okQueue t q
  | .core t c => okTile t && decide (c < 8)
  | .service k => decide (k < 16)

/-- Whether a command's operands lie within what the module's units can send. -/
def Instr.wf (i : Instr) : Bool :=
  match i with
  | .registerWrite a addr size _ _ | .rcRegisterRead a addr size _ => a.ok && okBits 48 addr && decide (1 ≤ size ∧ size ≤ 8)
  | .commitGo p k | .commitCheckDone p k => decide (k < p.count)
  | .caskPass t q _ | .matrixOp t q _ | .dma t q _ | .bucketContribute t q _ => okQueue t q
  | .vectorKernel t q | .scalarKernel t q | .opqTailWrite t q _ | .opqResume t q | .opqSkip t q | .opqSkipSignal t q | .opqFlush t q
  | .syncNop t q | .syncSet t q | .remoteAdd t q | .fence t q | .bucketOpen t q | .bucketFlush t q | .hangWait t q => okQueue t q
  | .caskLayerSwitchDone d m | .caskPassFire d m | .caskPhaseEnd d m _ | .caskAbort d m | .referencePhase d m
  | .calValuesTakeEffect d m => okMac d m
  | .caskPassDone t k _ | .kernelStart t k | .opComplete t k _ => okSlot t k
  | .hangDeadline t k others _ => okSlot t k && others.all (okSlot t)
  | .caskOlt d _ | .caskDacTest d _ | .caskDacTestDone d _ | .calLoadDone d _ | .calTempTrigger d _ | .calReqRun d _ | .calRetry d
  | .calRunEnd d | .calReinterpolate d _ | .cwrFlush d | .cwrLoad d | .cwrResume d | .cwrRepairColumn d | .cwrRepairMacro d
  | .cwrRepairReference d | .cwrTokenTick d => okDie d
  | .caskOltDone d rs => okDie d && rs.all OltReading.ok
  | .calVisit d m _ => okMac d m
  | .tileCringRptrWrite t r _ => okTile t && decide (r < 4)
  | .cwrAdmit d m l _ | .cwrTakeLayer d m l _ | .cwrRelease d m l _ => okLayer d m l
  | .cwrRow d m l _ iters => okLayer d m l && decide (iters ≤ 8)
  | .quadrantFault t a k => okTile t && decide (a < 8 ∧ k < 4)
  | .scratchScrub t addr _ => okTile t && okBits 26 addr
  | .scalarInstruction t c _ => okTile t && decide (c < 8)
  | .vadd t c a | .vsub t c a | .vmul t c a | .vdiv t c a | .vmin t c a | .vmax t c a | .vsqrt t c a | .vsgnj t c a | .vcvtif t c a
  | .vcvtfi t c a | .vand t c a | .vor t c a | .vxor t c a | .vsll t c a | .vsrl t c a | .vsra t c a | .viadd t c a | .vimul t c a
  | .vcmpeq t c a | .vcmplt t c a | .vcmple t c a | .vsel t c a | .vmov t c a | .vexp2 t c a | .vexp t c a | .vlog2 t c a | .vln t c a
  | .vrcp t c a | .vrsqrt t c a | .vtanh t c a | .vsigm t c a | .vgelu t c a | .vsilu t c a | .vsin t c a | .vcos t c a | .vrsum t c a
  | .vrmax t c a | .vbcast t c a | .vextr t c a => okTile t && decide (c < 8) && a.ok
  | .vfma t c a v | .vfms t c a v | .vfnma t c a v => okTile t && decide (c < 8) && a.ok && okBits 5 v
  | .vst t c m | .vstq t c m | .vscat t c m => okTile t && decide (c < 8) && m.ok
  | .vld t c m _ | .vldq t c m _ | .vgath t c m _ => okTile t && decide (c < 8) && m.ok
  | .tsetvl t c a b => okTile t && decide (c < 8) && okBits 5 a && okBits 5 b
  | .tsetblk t c a | .texit t c a | .tcore t c a => okTile t && decide (c < 8) && okBits 5 a
  | .tvfence t c => okTile t && decide (c < 8)
  | .tsig t c a b => okCore t c && okBits 5 a && okBits 5 b
  | .twait t c d a b => okCore t c && okBits 5 d && okBits 5 a && okBits 5 b
  | .descriptorFetch t _ => okTile t
  | .opqPreemptGo t | .opqPreemptDone t | .opqPreemptRelease t => okTile t
  | .signalArrive id n => decide (id < 65 * 256) && okBits 16 n
  | .syncCtrValueWrite u k _ => decide (u < 65 ∧ k < 256)
  | .syncRearm u _ => decide (u < 65)
  | .waiterWake w _ => w.ok
  | .ctxOpen p _ | .ctxRetire p _ | .ctxQuery p _ | .xferProbe p _ => decide (p < 4)
  | .ctxEdge p => decide (p < 4)
  | .ctxDrained c | .ctxDrainTimeout c | .ctxQuarantineEnd c => decide (c < 40960)
  | .memScrub addr _ => okBits 48 addr
  | .write l _ | .read l _ | .answer l _ => okLink l
  | .syncAdd l | .lossOfLight l | .lightArrive l | .trainDone l | .trainTimeout l | .frameLockLost l | .heartbeatSend l | .heartbeat l
  | .flinkPeerSilent l | .linkRetrain l | .linkRestart l | .reduce l | .reduceAbort l | .scale l | .capState l | .rackFlit l
  | .frameTransmit l => okLink l
  | .flitReceive l bs _ => okLink l && decide (bs.length = 256)
  | .controlWord l bs => okLink l && decide (bs.length = 64)
  | .peerCheckDone l id pl _ => okLink l && okBits 14 id && okLink pl
  | .fecUeLimit l _ => okLink l
  | .flinkAgedOut l c => okLink l && decide (c < 4)
  | .laserWaitDone e | .flinkLaserFault e | .ringTuneDone e | .flinkRingTuneFail e | .laserInsert e | .laserRemove e | .engineRestart e
  | .engineService e | .engineServiceOff e => okEngine e
  | .rdcLate g b | .bucketComplete g b => okBits 8 g && okBits 16 b
  | .ethFrame f => f.ok
  | .roceRateStep qp | .roceRetryTimeout qp => decide (qp < 1024)
  | .rdmaWrite qpn psn rkey va _ | .rdmaRead qpn psn rkey va _ => okBits 24 qpn && okBits 24 psn && okBits 32 rkey && okBits 64 va
  | .send qpn psn _ => okBits 24 qpn && okBits 24 psn
  | .roceAck qpn _ => okBits 24 qpn
  | .tcpConnect source => okBits 128 source
  | .sessionOpenTimeout n | .sesTimeout n | .keepaliveProbe n => decide (n < 4)
  | .openHello n q slot nonce => okSes n q && okBits 8 slot && decide (nonce.length = 32)
  | .openProof n q proof => okSes n q && decide (proof.length = 32)
  | .sesLockEnd slot => decide (slot < 8)
  | .close n q | .stepPause n q | .stepStop n q | .stepStatus n q | .lease n q | .attIdentity n q | .fwStageDone n q
  | .bootClear n q => okSes n q
  | .ctlRead n q a k => okSes n q && okBits 64 a && okBits 32 k
  | .ctlWrite n q a _ => okSes n q && okBits 64 a
  | .memRead n q a k _ => okSes n q && okBits 64 a && okBits 32 k
  | .memWrite n q a _ _ => okSes n q && okBits 64 a
  | .planLoad n q a r d g => okSes n q && okBits 64 a && okBits 64 r && okBits 8 d && g.nodes.all fun x => okQueue x.tile x.queue
  | .stepRun n q k => okSes n q && okBits 32 k
  | .svcConfig n q _ | .qpOpen n q _ => okSes n q
  | .attReport n q nonce => okSes n q && decide (nonce.length = 32)
  | .qpClose n q qp => okSes n q && okBits 16 qp
  | .eventSubscribe n q m => okSes n q && okBits 32 m
  | .sesOpcode n q op m k => okSes n q && okBits 16 op && okBits 32 m && okBits 32 k
  | .keyRotate n q slot _ _ | .keyClear n q slot => okSes n q && okBits 8 slot
  | .fwStage n q a | .netSet n q a | .vkeySet n q a => okSes n q && okBits 64 a
  | .fwActivate n q b => okSes n q && okBits 8 b
  | .rack n q id => okSes n q && okBits 16 id
  | .reset n q lv u => okSes n q && okBits 8 lv && okUnit u
  | .logRead n q a k => okSes n q && okBits 32 a && okBits 32 k
  | .bistRun n q u k => okSes n q && okUnit u && okBits 8 k
  | .envelopePeriod duty => decide (duty ≤ 1024)
  | .pwrThermalThrottle u | .resetEngine u _ | .resetTile u | .resetOptical u | .resetPress u | .resetDone u | .rstEscalated u => okUnit u
  | .pwrThermalTrip u _ => okUnit u
  | .pwrExtTherm k => decide (k < 4)
  | .droopTrip isCask u | .droopRecover isCask u => if isCask then okDie u else okTile u
  | .hkcScan codes _ => decide (64 ≤ codes.length)
  | .domainSwitchDone d => okDomain d
  | .bootStageSelftest f => f.elim true fun e => okUnit e.1
  | .bootStageUncore f => f.elim true okUnit
  | .bootStageCask ds ls => ds.all okDie && ls.all fun e => okBits 17 e.1 && e.2.ok
  | .bootStageOptical es => es.all okEngine
  | .insertedDutySlot k => decide (k < 16)
  | .blendCheck _ | .blendCheckDone | .blendApply _ | .blendQuiescePoint | .blendNotQuiesced | .blendCommitPoint | .cwrGovernorSave
  | .ethLinkDown | .ethLinkUp _ | .svcLeaseLapsed | .healthDatagram | .microBatchRelease _ _ | .svcInputStall | .checkpointDone _ | .stepEnd
  | .inputSag _ | .inputStable | .pwrOvervoltage | .pwrHoldupAbsent | .capLoop _ | .pwrEnvelopeLost | .pwrEnvelopeWrite _
  | .ballastUpdate _ _ _ | .hkcTest _ | .hkcTestDone _ | .hkcRingRptrWrite _ | .attrInterval _ _ | .pwrAttrMark _ _ | .pwrAttrDrift _ _
  | .pwrDomainCmd _ | .idleDeep | .deepIdleEntry | .idleResume | .resumeDone | .resetWarm | .resetCold | .safeStateDrain | .bistVisit
  | .bistQuiesced | .bistQuiesceTimeout | .bistSliceDone _ | .bistCmd _ | .snapCmd _ | .rackLatch | .snapIncomplete | .rackImageWritten
  | .logJournalCopy | .logRptrWrite _ | .resetInLow | .resetInRise | .bootStageRom | .bootStagePower _ _ _ _ | .bootStageImage
  | .bootStageEthernet _ | .bootStageReady | .bootStageTimeout => true

end Sys2Proof
end

