-- ==== Sys2Proof/Tests/Slice0.lean ====
section
/-!
SUPPORT. Tests: one step each on small states; witnesses that the statements' premises can be met; ill-formed commands.
-/

namespace Sys2Proof.Tests

open Sys2Proof Sys2Proof.Machine

set_option Elab.async false

/-- Whether a command answers a next state that meets a test. -/
def after (c : Instr) (s : State) (p : State → Bool) : Bool :=
  match exec c s with
  | .next t => p t
  | _ => false

/-- A module whose domains are all on, with the CAP words of TLV-96F that the tests read. -/
def on : State :=
  let w : Power := { domains := BitVec.allOnes 112, hold := .none }
  { State.reset with power := w, ctl := ((List.range 11).map fun i => (0x1000 + 8 * i, gradeWord (0x1000 + 8 * i))) ++
      [(0x1100, 0xFF), (0x1300, 2048)] }

/-- `on` with SES_CTL.PORT staged at 2,048. -/
def s1Staged : State := on.setStaged (Fld.sesCtlPort.addr 0 0) (withField (on.word (Fld.sesCtlPort.addr 0 0)) 47 32 2048)

/-- A descriptor of the given fields (offset, value); the counters that they do not give are none. -/
def mkDesc (fs : List (Nat × Nat)) : BitVec 512 :=
  BitVec.ofNat 512 ((fs ++ ([(8, 0xFFFF), (12, 0xFFFF), (16, 0xFFFF), (18, 0xFFFF)].filter fun (d : Nat × Nat) => !fs.any fun (f : Nat × Nat) => f.1 == d.1)).foldl (fun (a : Nat) (f : Nat × Nat) => a + f.2 * 2 ^ (8 * f.1)) 0)

/-- `on` with a descriptor fetched into slot 0 of tile 0, at the head of queue 0. -/
def headOf (d : BitVec 512) : State :=
  { on with tiles := [(0, { slots := [(0, some { queue := 0, seq := 0, order := 0, desc := d, phase := .ready })], fetches := 1 })] }

/-- `headOf` under context 0, open. -/
def openHead (d : BitVec 512) : State := (headOf d).setCtx 0 { state := .open, flags := 1 }

/-- Core 0 of tile 0 at a 32-bit instruction word at tile-local address 0, x5 = 3 and x6 = 64, bound to the vector unit. -/
def coreAt (w : Nat) (regs : SMap W32) : State :=
  let s : State := { on with cores := [(0, { state := .running, csr := runtimeCsr [], x := [(5, 3), (6, 64)] })],
                             tiles := [(0, { vec := { core := some 0, vl := 2, regs := regs } })] }
  s.writeBytes (tileBase 0) (leBytes 4 w)

/-! ### Witnesses of StepRunsFront -/

theorem wit_StepRunsFront :
    (match step { on with pending := [.stepPause 0 1, .resetCold] } with
     | .next t => t.pending == [Instr.resetCold]
     | _ => false) = true := by decide +kernel
/-- A session command in its turn, and one that waits while a RACK awaits its answer. -/
theorem wit_StepRunsFront_turns :
    let s : State := { on with turns := [(0, .stepPause 0 1)] }
    (match step s with
     | .next t => t.turns.isEmpty
     | _ => false) = true ∧
    (match step { s with journal := { s.journal with staging := some (0, {}, 0, 1) } } with
     | .next t => t.turns.length == 1
     | _ => false) = true := by decide +kernel

/-! ### Witnesses of RegisterAccesses -/

theorem wit_RegisterAccesses :
    after (.registerWrite (.session 0) (Fld.blendQuiesceTimeoutMs.addr 0 0) 8 10000 0) on
        (fun t => t.get .blendQuiesceTimeoutMs == 10000) = true ∧
    after (.registerWrite (.session 0) (Fld.sesCtlPort.addr 0 0) 8 (BitVec.ofNat 64 (2048 * 2 ^ 32)) 0) on
        (fun t => fieldOf (t.stagedWord (Fld.sesCtlPort.addr 0 0)) 47 32 == 2048 && t.get .sesCtlPort == 6210) = true ∧
    after (.rcRegisterRead (.core 1) (Fld.blendCtlErrCode.addr 0 0) 8 3) (on.set .blendCtlErrCode 0 0 5)
        (fun t => t.word (Fld.blendCtlErrCode.addr 0 0) == 3) = true ∧
    after (.registerWrite (.core 2) 0x1234 4 7 0) on
        (fun t => t.get .blendCtlErrCode == Code.ctlAccessSize && t.get .blendCtlErrAddress == 0x1234) = true := by decide +kernel

/-! ### Witnesses of CommitsRun -/

theorem wit_CommitsRun_go :
    (stages .ses && s1Staged.domainOn domService && !s1Staged.checking.contains (pfxBase .ses 0) && !s1Staged.applying &&
      decide (smWf s1Staged.word s1Staged.staged)) = true ∧
    after (.commitGo .ses 0) s1Staged (fun t => fieldOf (t.capturedWord (Fld.sesCtlPort.addr 0 0)) 47 32 == 2048 &&
      fieldOf (t.word (statusAddr .ses 0)) 15 14 == 1) = true := by decide +kernel
theorem wit_CommitsRun_checks :
    after (.commitGo .ses 0) s1Staged (fun t => (t.checksOf .ses 0).all (fun c => c.1) &&
      after (.commitCheckDone .ses 0) t (fun u => u.get .sesCtlPort == 2048 && fieldOf (u.word (statusAddr .ses 0)) 63 32 == 1)) = true ∧
    after (.commitGo .ses 0) (s1Staged.setStaged (Fld.sesCtlPort.addr 0 0) 0) (fun t =>
      ((t.checksOf .ses 0).find? fun c => !c.1) == some (false, Code.commitRange, 0) &&
      after (.commitCheckDone .ses 0) t (fun u => u.get .sesCtlPort == 6210 && fieldOf (u.word (statusAddr .ses 0)) 31 16 == Code.commitRange)) = true := by
  decide +kernel

/-! ### Witnesses of CommitBusyIgnored -/

theorem wit_CommitBusyIgnored :
    (stages .ses && decide (0 < (blockOf .ses).insts) && on.domainOn domService) = true ∧
    after (.commitGo .ses 0) { on with checking := [pfxBase .ses 0] }
      (fun t => fieldOf (t.word (statusAddr .ses 0)) 31 16 == Code.commitBusy) = true ∧
    after (.commitGo .ses 0) (on.set .blendStatusState 0 0 bsWaiting)
      (fun t => fieldOf (t.word (statusAddr .ses 0)) 31 16 == Code.commitBusy && fieldOf (t.word (statusAddr .ses 0)) 63 32 == 0) = true ∧
    after (.commitGo .ses 0) (on.set .blendStatusState 0 0 bsApplying)
      (fun t => fieldOf (t.word (statusAddr .ses 0)) 31 16 == Code.commitBusy) = true := by decide +kernel

/-! ### Witnesses of BlendSteps -/

theorem wit_BlendSteps :
    after (.blendCheck false) on (fun t => t.blendState == bsChecking && after .blendCheckDone t (fun u => u.blendState == bsRefused)) = true ∧
    after (.blendApply false) (on.set .blendStatusState 0 0 bsChecked) (fun t => t.blendState == bsWaiting && t.quiesceMet &&
      after .blendQuiescePoint t (fun u => u.blendState == bsApplying) &&
      after .blendNotQuiesced t (fun u => u.blendState == bsChecked)) = true ∧
    after .blendCommitPoint { on.set .blendStatusState 0 0 bsApplying with blend := { checked := some { serial := 9, domainOn := 2 ^ 112 - 1 } } }
      (fun t => t.blend.inForce == some { serial := 9, domainOn := 2 ^ 112 - 1 }) = true := by decide +kernel
theorem wit_BlendSteps_writes :
    after (.blendApply true) on (fun t => t.get .blendStatusCode == Code.blendCtrlInvalid) = true ∧
    after (.blendApply false) on (fun t => t.get .blendStatusCode == Code.blendNotChecked) = true ∧
    after (.blendCheck false) (on.set .blendStatusState 0 0 bsWaiting) (fun t => t.get .blendStatusCode == Code.blendApplyBusy) = true := by decide +kernel

/-! ### Witnesses of CaskPassesRun -/

/-- A pass descriptor: 32 F8a elements of macro 3, layer 1 of die 0 by tile 0 in I8 mode. -/
def passOp : Op := { queue := 0, seq := 0, order := 0, desc := 0, phase := .running }

/-- One waiting pass on macro 3 of die 0, its layer current. -/
def onePass : Pass :=
  { tile := 0, slot := 0, desc := 0, vec := 0, die := 0, mac := 3, layer := 0, cls := 2, seq := 0, input := { kind := .i8, rows := [(0, 2)], vp := some 0 } }

/-- Die 0 ready, with passes. -/
def withPasses (ps : List Pass) : State := (on.setDie 0 { passes := ps, ready := true, loaded := true }).setWord 0x1010 0x2008400400400010

theorem wit_CaskPassesRun_fire :
    ((withPasses [onePass]).headPass 0 3 == some onePass && (withPasses [onePass]).dieFires 0 && ((withPasses [onePass]).die 0).macFree 3) = true ∧
    after (.caskLayerSwitchDone 0 3) (withPasses [onePass]) (fun t => ((t.die 0).mac 3).layer == 0) = true ∧
    after (.caskPassFire 0 3) ((withPasses [onePass]).set .tileCringSizeSizeLog2 0 0 17) (fun t => (t.die 0).active == 1) = true := by decide +kernel

/-- onePass's layer with a flush of the step before still queued. -/
def heldFlush : State :=
  let s := withPasses [onePass]
  let q : WReq := { kind := 1, mac := 3, layer := 0, source := 0, levelmap := 0, scales := 0, errmap := 0, record := 0, sync := 0, enable := false, column := 0 }
  { s.setDie 0 { s.die 0 with reqs := [q] } with svc := { holds := [layerKey 0 3 0] } }
theorem wit_CaskPassesRun_held :
    heldFlush.flushHolds 0 3 0 = true ∧ (heldFlush.headPass 0 3).isNone = true ∧
    after (.caskPassFire 0 3) (heldFlush.set .tileCringSizeSizeLog2 0 0 17) (fun t => (t.die 0).active == 0) = true := by decide +kernel

theorem wit_CaskPassesRun_end :
    after (.caskAbort 0 3) ((withPasses [{ onePass with stage := .fired }, { onePass with cls := 0, seq := 1 }]).set .caskCtlAbortEnable 0 0 1)
      (fun t => (t.die 0).active == 0) = true ∧
    after (.caskPassDone 0 0 {}) ((withPasses [{ onePass with stage := .drained, reserved := true, vals := [0] }]).setOp 0 0 (some passOp))
      (fun t => (t.die 0).passes.isEmpty && (t.op 0 0).map Op.phase == some .done) = true ∧
    after (.referencePhase 0 3) (on.setDie 0 { run := some { startTemp := 250 } }) (fun t => ((t.die 0).mac 3).refPhase) = true ∧
    after (.tileCringRptrWrite 2 1 0) on (fun t => t.get .tileCringRptrRptr 2 1 == 0) = true := by decide +kernel

/-- A CASK_PASS descriptor: some rows and vectors on macro 3, layer 0 of die 0, FP32 elements at SRAM, I8 mode. -/
def caskDesc (rows vectors : Nat) : BitVec 512 := mkDesc [(0, 1), (26, 3), (34, rows), (36, vectors), (40, sramBase), (48, sramBase + 8192)]

/-- `headOf` over die 0, ready. -/
def caskHead (rows vectors : Nat) : State :=
  { withPasses [] with tiles := (headOf (caskDesc rows vectors)).tiles }

theorem wit_CaskPassesRun_request :
    after (.caskPass 0 0 {}) (caskHead 0 1) (fun t => (t.op 0 0).map Op.phase == some .done) = true ∧
    after (.caskPass 0 0 { ue := [sramBase] }) (caskHead 1 1) (fun t => match (t.op 0 0).map Op.phase with
      | some (.failed ..) => true
      | _ => false) = true ∧
    after (.caskPass 0 0 {}) (caskHead 1 1) (fun t => (t.die 0).passes.map (fun p => (p.input.kind, p.stage)) == [(.zero, .drained)]) = true := by decide +kernel
theorem wit_CaskPassesRun_phase :
    (({ onePass with p := 1 }).phases[0]?).isSome = true ∧ ((withPasses [{ onePass with p := 1, stage := .fired }]).die 0).running 3 ≠ none ∧
    after (.caskPassDone 0 0 {}) (withPasses [{ onePass with stage := .drained, discarded := true }])
      (fun t => (t.die 0).passes.isEmpty && t.get .caskPasses 0 == 1) = true ∧
    after (.tileCringRptrWrite 2 1 (BitVec.ofNat 64 (2 ^ 32 - 9))) on (fun t => t.get .caskErrCode 0 == Code.caskRingPtr) = true := by decide +kernel

/-! ### Witnesses of CaskTestsRun -/

/-- Die 5 with 2,048 macros. -/
def die5 (x : Die) : State := (on.setDie 5 x).set .capDieMacrosGood 0 5 2048

theorem wit_CaskTestsRun :
    after (.caskOlt 5 (BitVec.ofNat 64 (1 + 2047 * 2 ^ 16 + 2 ^ 28))) (die5 {}) (fun t => t.get .caskTestStatusState 5 == 1) = true ∧
    after (.caskOlt 5 (BitVec.ofNat 64 (1 + 2048 * 2 ^ 16 + 2 ^ 28))) (die5 {}) (fun t => t.get .caskErrCode 5 == Code.caskMacroRange) = true ∧
    after (.caskDacTest 5 2) (die5 { test := some (.dac 3) }) (fun t => t.get .caskErrCode 5 == Code.caskTestBusy) = true ∧
    after (.caskDacTest 5 2) (die5 {}) (fun t => (t.die 5).test == some (.dac 0)) = true ∧
    after (.caskOltDone 5 [⟨0, true, 7, 0, 0⟩]) (die5 { test := some (.olt 3 1) }) (fun t => t.get .caskTestStatusState 5 == 3) = true ∧
    after (.caskDacTestDone 5 [⟨64, 512, 2048⟩]) (die5 { test := some (.dac 3) }) (fun t => t.get .caskTestStatusState 5 == 2) = true ∧
    after (.caskDacTestDone 5 [⟨64, 512, 2061⟩]) (die5 { test := some (.dac 3) }) (fun t => t.get .caskTestStatusState 5 == 3) = true := by
  decide +kernel

/-! ### Witnesses of CalibrationRuns -/

theorem wit_CalibrationRuns_start :
    after (.calLoadDone 5 []) (die5 {}) (fun t => (t.die 5).ready) = true ∧
    after (.calTempTrigger 5 900) (die5 { loaded := true }) (fun t => t.get .calStatusState 5 == 1) = true ∧
    after (.calReqRun 5 1) (die5 { temp := 300 }) (fun t => (t.die 5).run == some { startTemp := 300 }) = true ∧
    after (.calReqRun 5 1) (die5 { run := some { startTemp := 300 } }) (fun t => t.get .calStatusPending 5 == 1) = true ∧
    after (.calRetry 5) (die5 { failed := true }) (fun t => t.get .calStatusState 5 == 1) = true := by decide +kernel
theorem wit_CalibrationRuns_bad :
    after (.calLoadDone 5 [2]) (die5 {}) (fun t => (t.die 5).loaded && !(t.die 5).ready && (t.die 5).run.isSome) = true ∧
    after (.calTempTrigger 5 252) (die5 { loaded := true, temp := 250, lastTemp := 250 }) (fun t => (t.die 5).temp == 252 && (t.die 5).run.isNone) = true ∧
    after (.calRunEnd 5) ((die5 { run := some { startTemp := 250, next := 2048 } }).set .calStatusPending 5 0 1)
      (fun t => (t.die 5).run.isSome && t.get .calStatusState 5 == 1) = true := by decide +kernel

theorem wit_CalibrationRuns_end :
    after (.calVisit 5 2040 [⟨.colGain, 2047, 0, 1⟩]) (die5 { run := some { startTemp := 300, next := 2040 } })
      (fun t => (t.die 5).run.map CalRun.next == some 2048) = true ∧
    after (.calRunEnd 5) (die5 { run := some { startTemp := 250, next := 2048 } }) (fun t => t.get .calStatusState 5 == 2) = true ∧
    after (.calRunEnd 5) (die5 { run := some { startTemp := 250, next := 2048, values := [⟨.colGain, 3, 0, 2⟩] } })
      (fun t => t.get .calStatusState 5 == 3 && t.get .calStatusConsec 5 == 1) = true ∧
    after (.calReinterpolate 5 253) (die5 { loaded := true }) (fun t => (t.die 5).reTemp == 253) = true ∧
    after (.calValuesTakeEffect 5 3) (die5 { target := [⟨.colGain, 3, 0, 1⟩] }) (fun t => ((t.die 5).mac 3).vals.length == 1) = true := by
  decide +kernel

/-! ### Witnesses of WritePushes -/

/-- A CWR_REQ of one kind on macro 3, layer 1 of die 5, with buffers apart. -/
def pushState (kind : Nat) : State :=
  let s := ({ die5 {} with blend := { inForce := some { regions := [⟨0, 0x100000000, 1, 8⟩] } } } : State)
  let s := (s.set .cwrReqTargetKind 5 0 kind).set .cwrReqTargetMacro 5 0 3
  let s := ((s.set .cwrReqTargetLayer 5 0 1).set .cwrReqSource 5 0 0x1000000).set .cwrReqLevelmap 5 0 0x2000000
  ((s.set .cwrReqScales 5 0 0x4000000).set .cwrReqErrmap 5 0 0x5000000).set .cwrReqRecord 5 0 0x6000000

theorem wit_WritePushes :
    after (.cwrFlush 5) (pushState 0) (fun t => (t.die 5).reqs.length == 1 && t.tokens 5 (layerKey 5 3 1) == 63) = true ∧
    after (.cwrRepairMacro 5) (pushState 4) (fun t => (t.die 5).reqs.length == 1) = true := by decide +kernel
/-- A RESUME without a journal entry, and requests of the other kinds on a macro that the die has not. -/
theorem wit_WritePushes_refused :
    after (.cwrResume 5) (pushState 2) (fun t => t.get .cwrReqStatusCode 5 == Code.cwrReqRange) = true ∧
    ([(1, Instr.cwrLoad 5), (3, .cwrRepairColumn 5), (5, .cwrRepairReference 5)].all fun x =>
      after x.2 ((pushState x.1).set .capDieMacrosGood 0 5 3) (fun t => t.get .cwrReqStatusCode 5 == Code.cwrReqRange)) = true := by decide +kernel

/-! ### Witnesses of WritesProceed -/

/-- A FLUSH of macro 3, layer 1 at one stage and row. -/
def flushReq (st : ReqStage) (row : Nat) : WReq :=
  { kind := 0, mac := 3, layer := 1, source := 0x1000000, levelmap := 0x2000000, scales := 0, errmap := 0x5000000, record := 0x6000000,
    sync := 0, enable := false, column := 0, stage := st, row := row }

theorem wit_WritesProceed_take :
    after (.cwrTakeLayer 5 3 1 {}) (die5 { reqs := [flushReq .admitted 0], ready := true })
      (fun t => (t.wjEntry (layerKey 5 3 1)).isSome && t.layerHeld 5 3 1) = true ∧
    after (.cwrTokenTick 5) ((die5 {}).setTokens 5 (layerKey 5 3 1) 7) (fun t => t.tokens 5 (layerKey 5 3 1) == 8) = true ∧
    after .cwrGovernorSave ((die5 {}).setTokens 5 (layerKey 5 3 1) 7) (fun t => t.journal.governor.length == 1) = true := by decide +kernel

theorem wit_WritesProceed_rows :
    after (.cwrRow 5 3 1 [] 8) (die5 { reqs := [flushReq .held 1023] })
      (fun t => (t.findReq 5 3 1 .held).map WReq.row == some 1024) = true ∧
    after (.calVisit 5 0 []) (die5 { run := some { startTemp := 300 }, reqs := [flushReq .held 7] }) (fun t => (t.die 5).run.map CalRun.next == some 0) = true := by decide +kernel
theorem wit_WritesProceed_release :
    (die5 { reqs := [flushReq .held 1024] }).findReq 5 3 1 .held = some (flushReq .held 1024) := by decide +kernel
theorem wit_WritesProceed_admit :
    let s := (pushState 0).setDie 5 { ready := true, reqs := [flushReq .queued 0] }
    (s.capAdmits 5 && s.parallelOk 5 (flushReq .queued 0) && s.domainOn (domCask 5)) = true := by decide +kernel

/-! ### Witnesses of MatrixOpRuns -/

/-- A MATRIX descriptor of 1 by 1 by 1 FP32 to FP32: A at 0, B at 64, C at 128. -/
def oneByOne (m pair : Nat) : BitVec 512 := mkDesc [(24, m), (26, 1), (28, 1), (32, pair), (33, pair), (40, 64), (44, 128)]

/-- The operands A = 3 and B = 5 in BF16. -/
def oneState : State := ((headOf (oneByOne 1 1)).writeBytes (tileBase 0) (leBytes 2 0x4040)).writeBytes (tileBase 0 + 64) (leBytes 2 0x40A0)

theorem wit_MatrixOpRuns_noop : after (.matrixOp 0 0 {}) (headOf (oneByOne 0 1))
    (fun t => (t.op 0 0).map Op.phase == some .done && t.get .opqPosIssued 0 0 == 1) = true := by decide +kernel
theorem wit_MatrixOpRuns_error : after (.matrixOp 0 0 { ue := [tileBase 0] }) oneState
    (fun t => (t.op 0 0).map Op.phase == some (.failed Code.tileScratchUe 0)) = true := by decide +kernel
theorem wit_MatrixOpRuns_run : after (.matrixOp 0 0 {}) (oneState.set .tileNumCtlOrdered 0 0 1)
    (fun t => (t.op 0 0).map Op.phase == some .done && t.readNat (tileBase 0 + 128) 4 == 0x41700000) = true := by decide +kernel

/-! ### Witnesses of TileFaultsRecorded -/

/-- `oneState` with its operation running in array 0. -/
def runningState : State := oneState.modOp 0 0 fun o => { o with phase := .running, usable := 1 }

theorem wit_TileFaultsRecorded : ((runningState.tile 0).coveredBy 0 0).isSome = true ∧
    after (.quadrantFault 0 0 0) runningState (fun t => t.get .tileFaultCode 0 == Code.tileArrayParity) = true := by decide +kernel
theorem wit_TileFaultsRecorded_scrub :
    (on.set .tileCtlScrub 3 0 1).get .tileCtlScrub 3 = 1 ∧ after (.scratchScrub 3 accumBase .uncorrectable) (on.set .tileCtlScrub 3 0 1)
      (fun t => t.get .tileFaultInfoAddress 3 == accumBase) = true := by decide +kernel

/-! ### Witnesses of KernelsStart -/

/-- A kernel launch on core 0 with entry 64. -/
def launchDesc (kind : Nat) : BitVec 512 := mkDesc [(0, kind), (24, 64), (28, 1), (30, 4), (32, 4096), (40, 9)]

theorem wit_KernelsStart :
    after (.vectorKernel 0 0) (headOf (launchDesc 2)) (fun t => (t.op 0 0).map Op.phase == some .running &&
      after (.kernelStart 0 0) t (fun u => (u.core 0 0).getX 10 == 9 && (u.tile 0).vec.core == some 0)) = true ∧
    after (.scalarKernel 0 0) (headOf (launchDesc 3)) (fun t => (t.op 0 0).map Op.phase == some .running &&
      after (.kernelStart 0 0) t (fun u => (u.core 0 0).pc == 64)) = true := by decide +kernel

/-! ### Witnesses of ScalarInstructionsRun -/

/-- `coreAt` with the kernel's operation in slot 0. -/
def kernelAt (w : Nat) (regs : SMap W32 := []) : State :=
  (coreAt w regs).setOp 0 0 (some { queue := 0, seq := 0, order := 0, desc := launchDesc 2, phase := .running })

theorem wit_ScalarInstructionsRun_addi : after (.scalarInstruction 0 0 {}) (kernelAt (encI 4095 5 0 7 0x13))
    (fun t => (t.core 0 0).getX 7 == 2 && (t.core 0 0).pc == 4) = true := by decide +kernel
/-- How much of the store buffer drains at once is a free value. -/
theorem wit_ScalarInstructionsRun_store : after (.scalarInstruction 0 0 {}) (kernelAt (encS 8 5 6 3 0x23))
    (fun _ => true) = true ∧
    (((kernelAt 0).bufferStore 0 0 72 8 3).idleTick).readNat (tileBase 0 + 72) 8 = 3 := by decide +kernel
theorem wit_ScalarInstructionsRun_trap : after (.scalarInstruction 0 0 {}) (kernelAt 0x00000073)
    (fun t => t.get .tileFaultCode 0 == Code.tileScalarFault && (t.core 0 0).state == .idle) = true := by decide +kernel
theorem wit_ScalarInstructionsRun_machine :
    (let s := kernelAt 0x00000073
     after (.scalarInstruction 0 0 {}) (s.setCore 0 0 { s.core 0 0 with machine := true }) (fun t => (t.core 0 0).machine && (t.core 0 0).state == .running)) = true ∧
    after (.scalarInstruction 0 0 { ue := [tileBase 0] }) (kernelAt 0x00000073) (fun t => (t.core 0 0).state == .idle) = true := by decide +kernel
theorem wit_ScalarInstructionsRun_illegal : after (.scalarInstruction 0 0 {}) (kernelAt 0x0000702B)
    (fun t => (t.op 0 0).map Op.phase == some .running) = true ∧ after (.scalarInstruction 0 0 {}) (kernelAt 0x0600002B)
    (fun t => (t.op 0 0).map Op.phase == some (.failed Code.tileVectorIllegal 0)) = true := by decide +kernel

/-! ### Witnesses of VectorIntegerLanes -/

/-- A custom-0 word: funct7, vs2, vs1, funct3, vd. -/
def c0 (f7 vs2 vs1 f3 vd : Nat) : Nat := encR f7 vs2 vs1 f3 vd 0x0B

theorem wit_VectorIntegerLanes :
    (kernelAt (c0 0x0F 2 1 0 3)).customAt 0 0 = some (.v0 0x0F ⟨3, 1, 2, false, 0⟩) ∧
    after (.vsra 0 0 ⟨3, 1, 2, false, 0⟩) (kernelAt (c0 0x0F 2 1 0 3) [(512, 0x80000000), (513, 8), (1024, 4), (1025, 33)])
      (fun t => (t.tile 0).vec.word 3 0 == 0xF8000000 && (t.tile 0).vec.word 3 1 == 4 && (t.tile 0).vec.word 3 2 == 0) = true := by
  decide +kernel

/-! ### Witnesses of VectorFloatLanes -/

theorem wit_VectorFloatLanes :
    after (.vmul 0 0 ⟨3, 1, 2, false, 0⟩) (kernelAt (c0 2 2 1 0 3) [(512, 0x40400000), (1024, 0x40A00000)])
      (fun t => (t.tile 0).vec.word 3 0 == 0x41700000) = true ∧
    after (.vdiv 0 0 ⟨3, 1, 2, false, 0⟩) (kernelAt (c0 3 2 1 0 3) [(512, 0x3F800000)])
      (fun t => (t.tile 0).vec.word 3 0 == 0x7F800000 && t.get .tileNumFlagsDz 0 == 1) = true ∧
    after (.vrcp 0 0 ⟨3, 1, 0, false, 0⟩) (kernelAt (c0 0x24 0 1 0 3) [(512, 0x80000000)])
      (fun t => (t.tile 0).vec.word 3 0 == 0xFF800000) = true := by decide +kernel

/-! ### Witnesses of ApproximatedSpecialOperands -/

theorem wit_ApproximatedSpecialOperands : 0x7FC00001 < 2 ^ 32 ∧ 0x7F800000 < 0x7FC00001 % 2 ^ 31 := by decide +kernel

/-! ### Witnesses of VectorReduceAndMask -/

theorem wit_VectorReduceAndMask_mask :
    after (.vcmplt 0 0 ⟨0, 1, 2, false, 0⟩) (kernelAt (c0 0x19 2 1 0 0) [(512, 0x3F800000), (513, 0x3F800000), (1024, 0x40000000)])
      (fun t => (t.tile 0).vec.vm.getLsbD 0 && !(t.tile 0).vec.vm.getLsbD 1) = true := by decide +kernel
theorem wit_VectorReduceAndMask_sum :
    after (.vrsum 0 0 ⟨3, 1, 2, false, 0⟩) (kernelAt (c0 0x30 2 1 0 3) [(512, 0x3F800000), (513, 0x40000000)])
      (fun t => (t.tile 0).vec.word 3 1 == 0x40400000) = true := by decide +kernel
theorem wit_VectorReduceAndMask_scalar :
    after (.vbcast 0 0 ⟨3, 1, 0, false, 0⟩) ((kernelAt (c0 0x38 0 1 0 3)).setCore 0 0 { state := .running, csr := runtimeCsr [], f := [(1, 0xFFFFFFFF3F800000)] })
      (fun t => (t.tile 0).vec.word 3 1 == 0x3F800000) = true ∧
    after (.vextr 0 0 ⟨3, 1, 5, false, 0⟩) (kernelAt (c0 0x39 5 1 0 3) [(515, 0x3F800000)])
      (fun t => (t.core 0 0).getF 3 == 0xFFFFFFFF3F800000) = true ∧
    after (.vextr 0 0 ⟨3, 1, 7, false, 0⟩) ((kernelAt (c0 0x39 7 1 0 3)).setCore 0 0 { state := .running, csr := runtimeCsr [], x := [(7, 512)] })
      (fun t => (t.op 0 0).map Op.phase == some (.failed Code.tileScalarFault 0)) = true := by decide +kernel
/-- Example 6.3: VFMA v3 = v1 x v2 + v4 is the word 0x202081AB. -/
theorem wit_VectorReduceAndMask_fma :
    (kernelAt 0x202081AB).customAt 0 0 = some (.v1 0 ⟨3, 1, 2, false, 0⟩ 4) ∧
    after (.vfma 0 0 ⟨3, 1, 2, false, 0⟩ 4) (kernelAt 0x202081AB [(512, 0x40400000), (1024, 0x40A00000), (2048, 0xBF800000)])
      (fun t => (t.tile 0).vec.word 3 0 == 0x41600000) = true := by decide +kernel

/-! ### Witnesses of VectorMemory -/

/-- A custom-2 word: OP, RC, MASKED, rs2, rs1, FMT, v. -/
def c2 (op rs2 rs1 fmt v : Nat) : Nat := op * 2 ^ 28 + rs2 * 2 ^ 20 + rs1 * 2 ^ 15 + fmt * 2 ^ 12 + v * 2 ^ 7 + 0x5B

theorem wit_VectorMemory_loads :
    after (.vld 0 0 ⟨1, 6, 0, 0, 0, false⟩ {}) ((kernelAt (c2 0 0 6 0 1)).writeBytes (tileBase 0 + 64) (leBytes 8 0x0000000700000005))
      (fun t => (t.tile 0).vec.word 1 0 == 5 && (t.tile 0).vec.word 1 1 == 7) = true ∧
    after (.vldq 0 0 ⟨1, 6, 0, 5, 0, false⟩ {}) ((kernelAt (c2 2 0 6 5 1)).writeBytes (tileBase 0 + 64) [0x42])
      (fun t => (t.tile 0).vec.word 1 0 != (t.tile 0).vec.word 1 1) = true ∧
    after (.vgath 0 0 ⟨1, 6, 2, 0, 0, false⟩ {}) ((kernelAt (c2 4 2 6 0 1) [(1025, 1)]).writeBytes (tileBase 0 + 64) (leBytes 8 0x0000000700000005))
      (fun t => (t.tile 0).vec.word 1 0 == 5 && (t.tile 0).vec.word 1 1 == 7) = true := by decide +kernel
theorem wit_VectorMemory_stores :
    after (.vst 0 0 ⟨1, 6, 0, 0, 0, false⟩) (kernelAt (c2 1 0 6 0 1) [(512, 5), (513, 7)])
      (fun t => t.readNat (tileBase 0 + 64) 8 == 0x0000000700000005) = true ∧
    after (.vscat 0 0 ⟨1, 6, 2, 0, 0, false⟩) (kernelAt (c2 5 2 6 0 1) [(512, 5), (513, 7)])
      (fun t => t.readNat (tileBase 0 + 64) 4 == 7) = true ∧
    after (.vstq 0 0 ⟨1, 6, 0, 3, 0, false⟩) (kernelAt (c2 3 0 6 3 1) [(512, 0x3F800000)])
      (fun t => t.readNat (tileBase 0 + 64) 1 != 0 && (t.core 0 0).pc == 4) = true := by decide +kernel
theorem wit_VectorMemory_fault :
    after (.vld 0 0 ⟨1, 6, 0, 0, 0, false⟩ {}) ((kernelAt (c2 0 0 6 0 1)).setCore 0 0 { state := .running, csr := runtimeCsr [], x := [(6, 0x1800000)] })
      (fun t => t.get .tileFaultInfoAddress 0 == 0x1800000) = true := by decide +kernel

/-! ### Witnesses of TileControlInstructions -/

/-- A custom-3 word: funct7, rs2, rs1, rd. -/
def c3 (f7 rs2 rs1 rd : Nat) : Nat := encR f7 rs2 rs1 0 rd 0x7B

theorem wit_TileControlInstructions_registers :
    after (.tsetvl 0 0 7 5) (kernelAt (c3 0 0 5 7)) (fun t => (t.tile 0).vec.vl == 3 && (t.core 0 0).getX 7 == 3) = true ∧
    after (.tsetblk 0 0 5) (kernelAt (c3 1 0 5 0)) (fun t => (t.tile 0).vec.vblk == 3) = true ∧
    after (.tvfence 0 0) (kernelAt (c3 4 0 0 0)) (fun t => (t.core 0 0).pc == 4) = true ∧
    after (.tcore 0 0 7) (kernelAt (c3 6 0 0 7)) (fun t => (t.core 0 0).pc == 4) = true := by decide +kernel
/-- `kernelAt` with a service counter that a core may name in x8, and 1 in x9. -/
def signalAt (w : Nat) : State := (kernelAt w).setCore 0 0 { state := .running, csr := runtimeCsr [], x := [(8, 64 * 256 + 5), (9, 1)] }
theorem wit_TileControlInstructions_counters :
    ((signalAt 0).idValid (64 * 256 + 5) && !(signalAt 0).idOff (64 * 256 + 5)) = true ∧
    after (.tsig 0 0 8 9) (signalAt (c3 2 9 8 0)) (fun t => t.transit == [⟨64 * 256 + 5, 1, 0⟩]) = true ∧
    after (.twait 0 0 7 8 9) (signalAt (c3 3 9 8 7)) (fun t => (t.core 0 0).state == .waiting (64 * 256 + 5) 1 7) = true ∧
    after (.twait 0 0 7 8 9) ((signalAt (c3 3 9 8 7)).setCtr (64 * 256 + 5) { value := 1 }) (fun t => (t.core 0 0).state == .running) = true := by
  decide +kernel
theorem wit_TileControlInstructions_exit :
    after (.texit 0 0 0) (kernelAt (c3 5 0 0 0)) (fun t => (t.op 0 0).map Op.phase == some .done) = true ∧
    after (.tsig 0 0 6 5) ((kernelAt (c3 2 5 6 0)).setCore 0 0 { state := .running, csr := runtimeCsr [], x := [(6, 65 * 256)] })
      (fun t => (t.op 0 0).map Op.phase == some (.failed Code.syncIdRange (65 * 256))) = true ∧
    after (.twait 0 0 7 8 9) ((signalAt (c3 3 9 8 7)).setCtr (64 * 256 + 5) { poison := true })
      (fun t => (t.core 0 0).getX 7 == BitVec.ofNat 64 Code.syncPoison) = true ∧
    after (.texit 0 0 5) (kernelAt (c3 5 0 5 0)) (fun t => t.get .tileFaultInfoAddress 0 == 3) = true := by decide +kernel

/-! ### Witnesses of PushesAndFetches -/

/-- `on` with queue 2 of tile 1 of 16 entries at SRAM 0, one slot, and TAIL 1. -/
def pushed : State := ((((on.set .opqCfgSizeLog2 1 2 4).set .opqRingBase 1 2 (sramBase / 64)).set .opqCfgSlotMax 1 2 1).set .opqTailTail 1 2 1)

theorem wit_PushesAndFetches_push :
    after (.opqTailWrite 1 2 17) { pushed with blend := { inForce := some {} } } (fun t => t.get .opqTailTail 1 2 == 1 && t.get .opqPushErrCode 1 == Code.opqRingOverrun) = true ∧
    after (.opqTailWrite 1 2 16) { pushed with blend := { inForce := some {} } } (fun t => t.get .opqTailTail 1 2 == 16) = true ∧
    after (.opqTailWrite 1 2 16) { pushed with power := { domains := 0 } } (fun t => t.get .blendCtlErrCode == Code.ctlDomainOff) = true := by decide +kernel
theorem wit_PushesAndFetches_fetch :
    (pushed.fetcher 1 == some 2 && pushed.freeSlot 1 == some 0) = true ∧
    after (.descriptorFetch 1 {}) (pushed.writeBytes sramBase [9]) (fun t => ((t.tile 1).halt 2) == some (.refusal 0)) = true ∧
    after (.descriptorFetch 1 { ue := [sramBase] }) pushed (fun t => t.get .opqStateHaltCode 1 2 == Code.opqFetchError) = true ∧
    after (.descriptorFetch 1 {}) ((pushed.writeBytes sramBase (leBytes 64 (mkDesc [(0, 6), (26, 0xFFFF)]).toNat)).setCtx 0 { state := .open })
      (fun t => (t.op 1 0).map Op.phase == some .ready && t.get .opqPosFetched 1 2 == 1) = true := by decide +kernel

/-! ### Witnesses of OperationsComplete -/

/-- `headOf` with its operation done, records due in SRAM. -/
def doneState (rec : Nat) : State :=
  ((headOf (mkDesc [(0, 6), (1, 4 * rec), (16, 64 * 256 + 5), (20, 1)])).modOp 0 0 fun o => { o with phase := .done }).set .opqRecBase 0 0 (sramBase / 64)

theorem wit_OperationsComplete :
    after (.opComplete 0 0 {}) (doneState 0) (fun t => (t.op 0 0).isNone && (t.ctr (64 * 256 + 5)).value == 1) = true ∧
    after (.opComplete 0 0 {}) (doneState 1) (fun t => t.get .opqRecPtrWptr 0 0 == 1) = true ∧ (doneState 1).recOk [] 0 0 = true ∧
    after (.opComplete 0 0 {}) ((doneState 1).set .opqRecBase 0 0 0) (fun t => t.get .opqStateHaltCode 0 0 == Code.opqRecordLost) = true ∧
    after (.opComplete 0 0 {}) ((doneState 0).modOp 0 0 fun o => o.fail Code.memUe 7) (fun t => t.get .opqStateHaltCode 0 0 == Code.memUe) = true := by
  decide +kernel

theorem wit_OperationsComplete_preempted : after (.opqPreemptGo 0) (doneState 0) (fun t => t.preempted 0) = true := by decide +kernel

/-! ### Witnesses of QueueCommands -/

/-- `headOf` with its descriptor refused and its queue halted. -/
def refusedState : State := (((headOf (mkDesc [(0, 9), (16, 64 * 256 + 5), (20, 1)])).modOp 0 0 fun o => { o with phase := .refused 1 0 }).setTile 0
  { slots := [(0, some { queue := 0, seq := 7, order := 0, desc := mkDesc [(0, 9), (16, 64 * 256 + 5), (20, 1)], phase := .refused 1 0 })],
    halts := [(0, some (.refusal 0))] }).set .opqCfgSizeLog2 0 0 4

theorem wit_QueueCommands :
    after (.opqResume 0 0) refusedState (fun t => t.get .opqPosFetched 0 0 == 7 && (t.op 0 0).isNone) = true ∧
    after (.opqSkip 0 0) refusedState (fun t => t.get .opqPosIssued 0 0 == 1) = true ∧
    after (.opqSkipSignal 0 0) refusedState (fun t => (t.ctr (64 * 256 + 5)).value == 1) = true ∧
    after (.opqFlush 0 0) (refusedState.set .opqTailTail 0 0 9) (fun t => t.get .opqPosIssued 0 0 == 9 && ((t.tile 0).halt 0).isNone) = true ∧
    after (.opqResume 3 1) on (fun t => t.get .opqPushErrCode 3 == Code.opqNotHalted) = true := by decide +kernel
theorem wit_QueueCommands_failure :
    after (.opqSkipSignal 0 0) (refusedState.setTile 0 { halts := [(0, some (.failure 0))] }) (fun t => ((t.tile 0).halt 0).isNone) = true := by
  decide +kernel

/-! ### Witnesses of PreemptionOfATile -/

theorem wit_PreemptionOfATile : after (.opqPreemptGo 0) (refusedState.set .opqTailTail 0 0 9) (fun t =>
    t.get .opqPosIssued 0 0 == 9 && (t.ctr 31).poison && t.unitsStopped 0 &&
    after (.opqPreemptDone 0) t (fun u => u.get .opqPreemptDone 0 == 1 &&
      after (.opqPreemptRelease 0) u (fun v => v.get .opqPreemptDone 0 == 0 && !v.preempted 0))) = true := by decide +kernel

/-! ### Witnesses of SignalsReachCounters -/

theorem wit_SignalsReachCounters_signals :
    after (.signalArrive (64 * 256) 1) { on with transit := [⟨64 * 256, -1, 0⟩] } (fun t => (t.ctr (64 * 256)).unf) = true ∧
    after (.signalArrive (64 * 256) 1) ({ on with transit := [⟨64 * 256, 1, 0⟩] }.setCtr (64 * 256) { poison := true }) (fun t => (t.ctr (64 * 256)).value == 0) = true ∧
    after (.signalArrive (64 * 256) 2) { on with transit := [⟨64 * 256, -1, 0⟩, ⟨64 * 256, 1, 1⟩] } (fun t => t.ctr (64 * 256) == {}) = true := by decide +kernel
theorem wit_SignalsReachCounters_writes :
    after (.syncCtrValueWrite 0 31 0x40000007) on (fun t => (t.ctr 31).value == 7 && (t.ctr 31).remoteOk) = true ∧
    after (.syncRearm 0 0x00050100) (on.setCtr 31 { poison := true }) (fun t => t.ctr 31 == { value := 5 }) = true := by decide +kernel
theorem wit_SignalsReachCounters_wakes :
    after (.waiterWake (.core 0 0) {}) ((on.setCore 0 0 { state := .waiting 5 2 7 }).setCtr 5 { value := 2 }) (fun t => (t.core 0 0).state == .running) = true ∧
    after (.waiterWake (.core 0 0) {}) ((on.setCore 0 0 { state := .waiting 5 2 7 }).setCtr 5 { poison := true })
      (fun t => (t.core 0 0).getX 7 == BitVec.ofNat 64 Code.syncPoison) = true ∧
    after (.waiterWake (.queue 0 0) {}) ((headOf (mkDesc [(0, 6), (8, 5), (10, 1)])).setCtr 5 { poison := true }) (fun t => t.get .opqStateHaltCode 0 0 == Code.syncPoison) = true := by decide +kernel

/-! ### Witnesses of SyncUnitOperations -/

theorem wit_SyncUnitOperations :
    after (.syncNop 0 0) (headOf (mkDesc [(0, 6)])) (fun t => (t.op 0 0).map Op.phase == some .done) = true ∧
    after (.syncSet 0 0) (headOf (mkDesc [(0, 6), (24, 1), (26, 31), (28, 9)])) (fun t => (t.ctr 31).value == 9) = true ∧
    after (.syncSet 0 0) ((headOf (mkDesc [(0, 6), (24, 1), (26, 31), (28, 9)])).setCtr 31 { poison := true })
      (fun t => (t.op 0 0).map Op.phase == some (.failed Code.syncPoison (31 + 2 * 2 ^ 16 + 0xFFFF * 2 ^ 32))) = true ∧
    after (.fence 0 0) (headOf (mkDesc [(0, 7)])) (fun t => (t.op 0 0).map Op.phase == some .done) = true := by decide +kernel

/-! ### Witnesses of ContextCommands -/

theorem wit_ContextCommands :
    after (.ctxOpen 1 1) ((on.set .xferCtxSelIndex 1 0 5).setWord (Fld.xferCtxEntry.addr 1 0) 0x0000000700000300) (fun t => (t.ctxCmd 1).isSome &&
      after (.ctxEdge 1) t (fun u => (u.ctx 5).state == .open && (u.ctx 5).gen == 3 &&
        after (.ctxQuery 1 3) u (fun v => v.word (Fld.xferCtxEntry.addr 1 0) == 0x0000000000000301 || v.get .xferCtxStatusCode 1 == 0) &&
        after (.ctxRetire 1 2) u (fun v => after (.ctxEdge 1) v (fun w => (w.ctx 5).state == .draining && (w.ctx 5).gen == 4)))) = true ∧
    after (.ctxOpen 0 1) (on.set .xferCtxSelIndex 0 0 5) (fun t => t.get .xferCtxStatusCode 0 == Code.ctxRange) = true ∧
    after (.xferProbe 2 0x20100000000) on (fun t => t.get .xferProbeAddress 2 == 0x20100000000) = true := by decide +kernel

/-! ### Witnesses of ContextTeardown -/

theorem wit_ContextTeardown :
    after (.ctxDrained 5) (on.setCtx 5 { state := .draining }) (fun t => (t.ctx 5).state == .quarantine) = true ∧
    after (.ctxDrained 5) { on.setCtx 5 { state := .draining } with requests := [⟨1, .write, 0, 0, 5, 0, 3, 7, 0, 64⟩] }
      (fun t => (t.ctx 5).state == .draining && after (.ctxDrainTimeout 5) t (fun u => u.abandoned == [(1, false)] && (u.ctx 5).state == .quarantine)) = true ∧
    after (.ctxQuarantineEnd 5) (on.setCtx 5 { state := .quarantine, signal := some 9 })
      (fun t => (t.ctx 5).state == .free && (t.ctr (64 * 256 + 9)).value == 1) = true := by decide +kernel

/-! ### Witnesses of DmaAndRemoteAdd -/

/-- A blend of which this module is device 1, with device 2 reached by link 0. -/
def twoBlend : Blend := { deviceId := 1, routes := [⟨2, 0, 1⟩], peers := [⟨2, 0⟩], class0Rate := 1, class0Depth := 4096, weights := [1, 1, 1] }

/-- A state with `twoBlend` in force and link 0 UP. -/
def linked (s : State) : State := { s with blend := { inForce := some twoBlend }, links := [(0, { state := .up, light := true })] }

/-- A DMA descriptor: source, destination, length and devices. -/
def dmaDesc (src dst len sd dd : Nat) : BitVec 512 := mkDesc [(0, 4), (24, src), (32, dst), (40, len), (44, 1), (56, sd), (58, dd)]

theorem wit_DmaAndRemoteAdd_local :
    after (.dma 0 0 {}) ((openHead (dmaDesc sramBase (sramBase + 64) 4 0xFFFF 0xFFFF)).writeBytes sramBase [1, 2, 3, 4])
      (fun t => t.readBytes (sramBase + 64) 4 == [1, 2, 3, 4] && (t.op 0 0).map Op.phase == some .done) = true ∧
    after (.dma 0 0 {}) (openHead (dmaDesc 0 (sramBase + 64) 4 0xFFFF 0xFFFF)) (fun t => (t.op 0 0).map Op.phase == some (.failed Code.xferUnmapped 0)) = true ∧
    after (.dma 0 0 {}) (headOf (dmaDesc 0 (sramBase + 64) 4 0xFFFF 0xFFFF)) (fun t => (t.op 0 0).map Op.phase == some (.failed Code.ctxStaleGen 0)) = true ∧
    after (.dma 0 0 {}) (headOf (dmaDesc 0 0 0 0xFFFF 0xFFFF)) (fun t => (t.op 0 0).map Op.phase == some .done) = true := by decide +kernel
theorem wit_DmaAndRemoteAdd_remote :
    (linked on).egress 2 = some 0 ∧
    after (.dma 0 0 {}) (linked (openHead (dmaDesc sramBase 0 4 0xFFFF 2))) (fun t => t.requests.length == 1 && ((t.link 0).queue 0).length == 1) = true ∧
    after (.dma 0 0 {}) (linked (openHead (dmaDesc 0 sramBase 4 2 0xFFFF))) (fun t => t.requests.length == 1) = true ∧
    after (.remoteAdd 0 0) (linked (headOf (mkDesc [(0, 6), (24, 2), (26, 5), (28, 1), (30, 2)]))) (fun t => t.requests.length == 1) = true ∧
    after (.remoteAdd 0 0) (headOf (mkDesc [(0, 6), (24, 2), (26, 5), (28, 1), (30, 2)])) (fun t => t.requests.isEmpty) = true ∧
    after (.remoteAdd 0 0) (headOf (mkDesc [(0, 6), (24, 2), (26, 5), (30, 2)])) (fun t => (t.op 0 0).map Op.phase == some .done) = true := by decide +kernel

/-! ### Witnesses of PeersRequests -/

/-- A delivered request of device 2 under context 5, whose first window covers the SRAM. -/
def delivered (type : Nat) (payload : List Byte) : State :=
  { (linked on).setCtx 5 { state := .open, flags := 1, windows := [(sramBase / 65536, 1024), (0, 0), (0, 0), (0, 0)] } with
    delivered := [(0, { dest := 1, src := 2, cls := 1, type := type, ctx := 5, gen := 0, payload := payload })] }

theorem wit_PeersRequests_write :
    after (.write 0 {}) (delivered msgWrite (requestPayload sramBase 7 4 [1, 2, 3, 4])) (fun t => t.readBytes sramBase 4 == [1, 2, 3, 4] &&
      ((t.link 0).queue 1).length == 1) = true ∧
    after (.write 0 {}) (delivered msgWrite (requestPayload 0 7 4 [1, 2, 3, 4])) (fun t => ((t.link 0).queue 1).length == 1 && t.mem.cells.isEmpty) = true := by
  decide +kernel
theorem wit_PeersRequests_others :
    after (.read 0 {}) (delivered msgRead (requestPayload sramBase 7 4 [])) (fun t => ((t.link 0).queue 1).length == 1) = true ∧
    after (.read 0 {}) (delivered msgRead (requestPayload 0 7 4 [])) (fun t => ((t.link 0).queue 1).length == 1) = true ∧
    after (.syncAdd 0) ((delivered msgSyncAdd (leBytes 4 7 ++ leBytes 2 (64 * 256 + 5) ++ leBytes 2 1)).setCtr (64 * 256 + 5) { remoteOk := true })
      (fun t => (t.ctr (64 * 256 + 5)).value == 1) = true ∧
    after (.syncAdd 0) (delivered msgSyncAdd (leBytes 4 7 ++ leBytes 2 (64 * 256 + 5) ++ leBytes 2 1)) (fun t => (t.ctr (64 * 256 + 5)).misuse) = true := by
  decide +kernel

/-! ### Witnesses of AnswersArrive -/

/-- A request to device 2 that awaits its answer, and the answer. -/
def answered (kind : ReqKind) (tag code : Nat) (s : State) : State :=
  { (linked s).setCtx 5 { state := .open, flags := 1 } with
    requests := [⟨7, kind, 0, 0, 5, 0, 2, 0, sramBase, 4⟩],
    delivered := [(0, { dest := 1, src := 2, cls := 1, type := msgAnswer, ctx := 5, gen := 0, payload := answerPayload tag code [1, 2, 3, 4] })] }

theorem wit_AnswersArrive :
    after (.answer 0 {}) (answered .read 7 0 on) (fun t => t.readBytes sramBase 4 == [1, 2, 3, 4] && t.requests.isEmpty) = true ∧
    after (.answer 0 {}) (answered .write 7 0 on) (fun t => t.requests.isEmpty) = true ∧
    after (.answer 0 {}) (answered .write 7 3 runningState) (fun t => (t.op 0 0).map Op.phase == some (.failed Code.xferRemoteDropped (3 + 2 * 2 ^ 32))) = true ∧
    after (.answer 0 {}) (answered .syncAdd 7 0 runningState) (fun t => (t.op 0 0).map Op.phase == some .done) = true ∧
    after (.answer 0 {}) (answered .write 8 0 on) (fun t => t.requests.length == 1 && fieldOf (t.word (Fld.xferLateDrops.addr 0 0)) 47 0 == 1) = true := by
  decide +kernel
theorem wit_AnswersArrive_scrub :
    let s := { on.set .xferCtlScrub 0 0 1 with blend := { inForce := some { regions := [⟨0, 0x100000000, 1, 8⟩] } } }
    (mapStack s.regions 64 == some (0, 64)) = true ∧ after (.memScrub 64 .uncorrectable) s (fun t => t.mem.poisoned == [(0, 64)]) = true := by decide +kernel

/-! ### Witnesses of FlitsReceived -/

/-- A one-flit message from device 2, its type, destination and hops given. -/
def mkFlit (type dest hops : Nat) : Flit :=
  { seq := 0, dest := dest, cls := 1, src := 2, first := true, last := true, type := type, hops := hops, len := 16, ctx := 5, gen := 0, payload := leBytes 16 7 }

theorem wit_FlitsReceived :
    ((linked on).link 0).state = .up ∧ (on.link 0).state ≠ .up ∧
    after (.flitReceive 0 (flitBytes (mkFlit 1 1 0)) { decoded := false, lost := 3 }) (linked on) (fun t => (t.link 0).nakWanted && t.delivered.isEmpty) = true ∧
    after (.flitReceive 0 (flitBytes (mkFlit 0 1 0)) { decoded := true }) (linked on) (fun t => (t.link 0).rxSeq == 0) = true ∧
    after (.flitReceive 0 (flitBytes (mkFlit 1 1 0)) { decoded := true }) (linked on) (fun t => t.delivered.length == 1 && (t.link 0).rxSeq == 1) = true ∧
    after (.flitReceive 0 (flitBytes (mkFlit 1 2 7)) { decoded := true }) (linked on) (fun t => ((t.link 0).queue 1).map Flit.hops == [8]) = true ∧
    after (.flitReceive 0 (flitBytes (mkFlit 1 2 8)) { decoded := true }) (linked on) (fun t => ((t.link 0).queue 1).map Flit.type == [msgAnswer]) = true ∧
    after (.flitReceive 0 (flitBytes (mkFlit 3 9 0)) { decoded := true }) (linked on) (fun t => ((t.link 0).queue 1).isEmpty) = true := by decide +kernel

/-! ### Witnesses of FramesAndControlWords -/

/-- `linked on` with link 0 changed. -/
def linkAs (f : Link → Link) : State := (linked on).setLink 0 (f ((linked on).link 0))

/-- Of each frame sent, one field of the flits that are no NULL flits. -/
def sentFlits (t : State) (f : Flit → Nat) : List (List Nat) := t.frames.map fun x => (x.flits.filter fun y => y.type != 0).map f

/-- A control word that acknowledges nothing. -/
def plainWord : CtlWord := { ackSeq := 5, nak := false, goingDark := false, retrainReq := false, senderLink := 7, senderId := 2, credits := [0, 1, 2, 3] }

theorem wit_FramesAndControlWords_frames :
    (on.link 0).state = .off ∧
    after (.frameTransmit 0) (linkAs fun k => { k with state := .train }) (fun t => t.frames.map Frame.flits == [[]]) = true ∧
    after (.frameTransmit 0) (linkAs fun k => { k with resend := [mkFlit 2 1 0], queues := [(1, [mkFlit 1 2 0])] })
      (fun t => sentFlits t Flit.type == [[2, 1]] && (t.link 0).replay.map Flit.type == [1]) = true ∧
    after (.frameTransmit 0) (linkAs fun k => { k with queues := [(0, [{ mkFlit 1 2 1 with cls := 0 }]), (1, [mkFlit 1 2 0])] })
      (fun t => sentFlits t Flit.cls == [[0, 1]]) = true ∧
    after (.frameTransmit 0) (linkAs fun k => { k with credits := [(1, 0)], queues := [(1, [mkFlit 1 2 0])] })
      (fun t => sentFlits t Flit.type == [[]]) = true := by decide +kernel
theorem wit_FramesAndControlWords_words :
    after (.controlWord 0 (wordBytes plainWord)) (linkAs fun k => { k with state := .peerCheck }) (fun t => t.get .flinkStatusPeerId 0 == 2) = true ∧
    after (.controlWord 0 (wordBytes plainWord)) (linkAs fun k => { k with credits := [(2, 5)], replay := [mkFlit 1 2 0, { mkFlit 1 2 0 with seq := 5 }] })
      (fun t => (t.link 0).replay.map Flit.seq == [5] && (t.link 0).credit 2 == 7 && (t.link 0).credit 1 == 384) = true ∧
    after (.controlWord 0 (wordBytes { plainWord with nak := true })) (linkAs fun k => { k with replay := [{ mkFlit 1 2 0 with seq := 5 }] })
      (fun t => (t.link 0).resend.map Flit.seq == [5]) = true ∧
    after (.controlWord 0 (wordBytes { plainWord with nak := true })) (linkAs fun k => { k with nakCount := 2, nakSeq := 5 }) (fun t => (t.link 0).state == .retrain) = true ∧
    after (.controlWord 0 (wordBytes { plainWord with goingDark := true })) (linkAs id) (fun t => (t.link 0).state == .notPresent) = true ∧
    after (.controlWord 0 (wordBytes { plainWord with retrainReq := true })) (linkAs id) (fun t => (t.link 0).state == .retrain && t.frames.isEmpty) = true := by
  decide +kernel

/-! ### Witnesses of LinksComeUp -/

theorem wit_LinksComeUp :
    after (.lightArrive 0) (linkAs fun k => { k with state := .notPresent, light := false }) (fun t => (t.link 0).state == .train && (t.link 0).light) = true ∧
    after (.lightArrive 0) on (fun t => (t.link 0).state == .off && (t.link 0).light) = true ∧
    after (.trainDone 0) (linkAs fun k => { k with state := .train }) (fun t => (t.link 0).state == .peerCheck) = true ∧
    after (.trainDone 0) (linkAs fun k => { k with state := .retrain }) (fun t => (t.link 0).checked) = true ∧
    after (.trainTimeout 0) (linkAs fun k => { k with state := .train, tries := 2 }) (fun t => (t.link 0).tries == 3) = true ∧
    after (.trainTimeout 0) (linkAs fun k => { k with state := .train, tries := 3 }) (fun t => (t.link 0).state == .failed) = true ∧
    after (.peerCheckDone 0 2 0 true) (linkAs fun k => { k with state := .peerCheck }) (fun t => (t.link 0).state == .up && (t.link 0).tokens == 4096000) = true ∧
    after (.peerCheckDone 0 2 1 true) (linkAs fun k => { k with state := .peerCheck }) (fun t => (t.link 0).state == .mismatch) = true ∧
    after (.linkRestart 0) (linkAs fun k => { k with state := .failed }) (fun t => (t.link 0).state == .train) = true ∧
    after (.linkRestart 0) (linkAs id) (fun t => t.get .flinkStatusCode 0 == Code.flinkCmdState) = true := by decide +kernel

/-! ### Witnesses of LinksLeaveUp -/

theorem wit_LinksLeaveUp :
    let r : Req := ⟨7, .write, 0, 0, 5, 0, 2, 0, sramBase, 4⟩
    let s : State := { runningState with blend := { inForce := some twoBlend }, links := [(0, { state := .up, light := true })], requests := [r] }
    after (.lossOfLight 0) s (fun t => (t.link 0).state == .notPresent && t.requests.isEmpty && t.get .flinkLosEvents 0 == 1 &&
      (t.op 0 0).map Op.phase == some (.failed Code.xferRemoteLost (2 * 2 ^ 32))) = true ∧
    ([.frameLockLost 0, .fecUeLimit 0 17, .flinkPeerSilent 0, .linkRetrain 0] : List Instr).all (fun c => after c s fun t =>
      (t.link 0).state == .retrain && t.get .flinkStatusCause 0 == 4 && t.get .flinkRetrains 0 == 1 && t.frames.length == 1) = true ∧
    after (.lossOfLight 0) (linkAs fun k => { k with state := .peerCheck }) (fun t => (t.link 0).state == .notPresent) = true ∧
    after (.linkRetrain 0) on (fun t => t.get .flinkStatusCode 0 == Code.flinkCmdState) = true := by decide +kernel

/-! ### Witnesses of EnginesAndLasers -/

/-- `linked on` with engine 0 as given. -/
def engineAs (x : Engine) : State := { linked on with engines := [(0, x)] }

theorem wit_EnginesAndLasers :
    after (.laserWaitDone 0) (engineAs { state := .laserWait }) (fun t => (t.engine 0).state == .ringTune) = true ∧
    after (.ringTuneDone 0) ({ engineAs { state := .ringTune } with links := [] }) (fun t => (t.link 0).state == .notPresent && (t.link 1).state == .off) = true ∧
    ([.flinkLaserFault 0, .laserRemove 0, .flinkRingTuneFail 0] : List Instr).all (fun c => after c (engineAs { state := .ringTune }) fun t =>
      (t.engine 0).state == .fault && (t.link 0).state == .off && t.get .flinkStatusCause 0 == 3) = true ∧
    after (.laserInsert 0) (engineAs { service := true, source := false }) (fun t => (t.engine 0).state == .laserWait) = true ∧
    after (.laserInsert 0) (engineAs { source := false }) (fun t => (t.engine 0).source) = true ∧
    after (.laserRemove 0) (engineAs { service := true }) (fun t => !(t.engine 0).source) = true ∧
    after (.engineServiceOff 0) (engineAs { state := .ready, service := true }) (fun t => (t.engine 0).state == .off) = true ∧
    after (.engineRestart 0) (engineAs { state := .fault }) (fun t => (t.engine 0).state == .laserWait) = true ∧
    after (.engineRestart 0) (engineAs { state := .ready }) (fun t => t.get .flinkStatusCode 0 == Code.flinkCmdState) = true ∧
    after (.engineService 0) (engineAs { state := .ready }) (fun t => (t.engine 0).service && (t.link 0).state == .off && t.frames.length == 2) = true ∧
    after (.engineService 0) (engineAs { service := true }) (fun t => t.get .flinkStatusCode 0 == Code.flinkCmdState) = true := by decide +kernel

/-! ### Witnesses of HeartbeatsAndAge -/

theorem wit_HeartbeatsAndAge :
    after (.heartbeatSend 0) (linkAs id) (fun t => ((t.link 0).queue 0).map Flit.dest == [2]) = true ∧
    after (.heartbeat 0) (delivered msgHeartbeat [5, 0, 3, 0]) (fun t => (t.link 0).peerBeat == 5 && (t.link 0).peerState == 3 && t.delivered.isEmpty) = true ∧
    after (.flinkAgedOut 0 1) (linkAs fun k => { k with queues := [(1, [mkFlit 3 2 0])] }) (fun t => ((t.link 0).queue 1).isEmpty) = true ∧
    after (.flinkAgedOut 0 1) (linkAs fun k => { k with queues := [(1, [mkFlit 1 2 1])] }) (fun t => ((t.link 0).queue 1).map Flit.type == [3]) = true ∧
    (on.link 0).next 1 = none := by decide +kernel

/-! ### Witnesses of ChainsKeepTheirSums -/

theorem wit_ChainsKeepTheirSums :
    (∀ y ∈ ([[3, -128], [5, 7], [-127, 2]] : List (List Int)), y.length = 2 ∧ ∀ c ∈ y, -128 ≤ c ∧ c ≤ 127) ∧
    ((chainFrom (firstPartial [3, -128]) 1 [[5, 7], [-127, 2]]).map fun q => (q.codes, q.shift, (q.chk + q.res) % 2 ^ 32)) = some ([-30, -128], 2, 2 ^ 32 - 119) ∧
    addChunk { g := 0, phase := 0, id := 0, seq := 0, codes := [2], chk := 1 } [5] [] 1 0 0 true = .incoming := by decide +kernel

/-! ### Witnesses of BucketOperations -/

/-- A blend of which this module is device 1, with group 3 over the ring `members`. -/
def groupBlend (mode : Nat) (members : List Nat) : Blend :=
  { twoBlend with rings := [⟨0, members⟩], groups := [⟨3, mode, 2, 0, 4, 1⟩] }

/-- A bucket of group 3 on 32 elements, its regions in SRAM, opened by the operation in slot 5. -/
def bucket3 : Bucket :=
  { g := 3, id := 7, seq := 0, elems := 32, fmt := 1, flags := 0, ctx := 5, gen := 0, opened := true, stage := sramBase, result := sramBase + 4096,
    scale := sramBase + 8192, tile := 0, slot := 5 }

/-- `s` with the group's blend in force, link 0 UP, context 5 open, an operation in slot 5, and the buckets given. -/
def grouped (mode : Nat) (members : List Nat) (bs : List Bucket) (s : State) : State :=
  { ((linked s).setCtx 5 { state := .open, flags := 1 }).setOp 0 5 (some { queue := 1, seq := 0, order := 0, desc := 5, phase := .running }) with
    blend := { inForce := some (groupBlend mode members) }, buckets := bs, openSeqs := [(3 * 65536 + 7, bs.length)] }

/-- A BUCKET descriptor of group 3, identifier 7, at the head of queue 0. -/
def bucketHead (fs : List (Nat × Nat)) : State := headOf (mkDesc ([(0, 5), (25, 3), (26, 7)] ++ fs))

/-- The phase of the operation in slot 0 of tile 0. -/
def phase0 (t : State) : Option OpPhase := (t.op 0 0).map Op.phase

theorem wit_BucketOperations_open :
    after (.bucketOpen 0 0) (grouped 0 [1, 2] [] (bucketHead [(37, 1)])) (fun t => t.buckets.isEmpty && phase0 t == some .done) = true ∧
    after (.bucketOpen 0 0) (grouped 0 [1, 2] [] (bucketHead [(32, 32), (37, 1)])) (fun t => t.buckets.length == 1 && t.nextSeq 3 7 == 1 && phase0 t == some .running) = true ∧
    after (.bucketOpen 0 0) (grouped 0 [1, 2] [bucket3] (bucketHead [(32, 32), (37, 1)])) (fun t => phase0 t == some (.failed Code.rdcIdBusy 7)) = true ∧
    after (.bucketOpen 0 0) (grouped 0 [1, 2] ([1, 2, 4, 5].map fun i => { bucket3 with id := i }) (bucketHead [(32, 32), (37, 1)]))
      (fun t => phase0 t == some (.failed Code.rdcTooMany 3)) = true := by decide +kernel
theorem wit_BucketOperations_contribute :
    let h := bucketHead [(24, 1), (32, 1), (36, 1), (40, sramBase + 64)]
    after (.bucketContribute 0 0 {}) (grouped 0 [1, 2] [] h) (fun t => phase0 t == some (.failed Code.rdcNotOpen 7)) = true ∧
    after (.bucketContribute 0 0 {}) (grouped 0 [1, 2] [{ bucket3 with chunks := [0] }] h) (fun t => phase0 t == some (.failed Code.rdcOverlap 0)) = true ∧
    after (.bucketContribute 0 0 {}) (grouped 0 [1, 2] [{ bucket3 with started := true }] h) (fun t => phase0 t == some (.failed Code.rdcStarted 7)) = true ∧
    after (.bucketContribute 0 0 {}) (grouped 0 [1, 2] [{ bucket3 with elems := 8192 }] (h.writeBytes (sramBase + 64) [0x80, 0x3F]))
      (fun t => phase0 t == some .done && t.readBytes sramBase 2 == [0x80, 0x3F] && t.buckets.map Bucket.chunks == [[0]]) = true := by decide +kernel
theorem wit_BucketOperations_flush :
    let h := bucketHead [(24, 2)]
    ((grouped 0 [2, 1] [bucket3] h).place 3).chain 32 0 ≠ 0 ∧ ((grouped 0 [1, 2] [bucket3] h).place 3).chain 32 0 = 0 ∧
    after (.bucketFlush 0 0) (grouped 0 [2, 1] [bucket3] h) (fun t => phase0 t == some .done && t.buckets.map Bucket.started == [true]) = true ∧
    after (.bucketFlush 0 0) (grouped 0 [1, 2] [bucket3] h) (fun t => ((t.link 0).queue 0).map Flit.type == [msgScale]) = true := by decide +kernel

/-! ### Witnesses of ReductionMessages -/

/-- A reduction message of device 2 for `bucket3`, delivered by link 0. -/
def rdcMsg (mode : Nat) (members : List Nat) (bs : List Bucket) (scale : Bool) (m : RMsg) : State :=
  { grouped mode members bs on with
    delivered := [(0, { dest := 1, src := 2, cls := 1, type := if scale then msgScale else msgReduce, ctx := 5, gen := 0, payload := m.payload scale })] }

/-- A message of `bucket3`, cut short after its header or with its bytes alone. -/
def zeroMsg (phase : Nat) : RMsg := { bucket3.msg phase 0 with maxexp := List.replicate 128 3 }

/-- The header of `zeroMsg` and some codes. -/
def shortMsg (mode phase : Nat) (m : RMsg) (codes : List Byte) : State :=
  { rdcMsg mode [3, 1, 2] [] false m with
    delivered := [(0, { dest := 1, src := 2, cls := 1, type := msgReduce, ctx := 5, gen := 0, payload := { m with phase := phase }.header ++ codes })] }

theorem wit_ReductionMessages_drop :
    after (.reduce 0) ({ shortMsg 0 0 (zeroMsg 0) [] with ctxs := [] }) (fun t => t.delivered.isEmpty && t.get .xferLateDrops 0 == 1) = true ∧
    after (.reduce 0) (shortMsg 0 0 { zeroMsg 0 with seq := 40000 } []) (fun t => t.get .rdcStaleDrops 0 == 1) = true ∧
    after (.scale 0) ((rdcMsg 0 [1, 2] [] true (zeroMsg 0)).set .rdcParkSizeLog2 0 0 20) (fun t => t.parked.length == 1 && t.get .rdcParked 0 == 1) = true := by decide +kernel
/-- `bucket3` started, its exponent bytes agreed, with CHECKSUM. -/
def started3 : Bucket := { bucket3 with started := true, flags := rfChecksum, agreed := [(0, some (List.replicate 128 3))] }

theorem wit_ReductionMessages_scale :
    ((rdcMsg 0 [3, 1, 2] [] true (zeroMsg 0)).place 3).chain 32 0 = 1 ∧
    after (.scale 0) (rdcMsg 0 [3, 1, 2] [{ bucket3 with started := true }] true (zeroMsg 0)) (fun t => ((t.link 0).queue 0).length == 1) = true ∧
    after (.scale 0) (rdcMsg 0 [3, 1, 2] [{ bucket3 with started := true }] true (zeroMsg 1))
      (fun t => (t.buckets.map fun b => b.agreedAt 0) == [some (List.replicate 128 3)]) = true := by decide +kernel
theorem wit_ReductionMessages_chunk :
    after (.reduce 0) { shortMsg 0 0 (zeroMsg 0) [] with buckets := [{ started3 with flags := 0 }] } (fun t => ((t.link 0).queue 1).length == 1) = true := by decide +kernel
theorem wit_ReductionMessages_bad :
    after (.reduce 0) { shortMsg 1 0 { zeroMsg 0 with flags := rfChecksum } [1] with buckets := [started3] }
      (fun t => (t.op 0 5).map Op.phase == some (.failed Code.rdcChecksum (failDetail 1 1 1 0)) && t.buckets.isEmpty) = true := by decide +kernel
theorem wit_ReductionMessages_final :
    after (.reduce 0) { shortMsg 0 1 (zeroMsg 1) [64] with buckets := [{ started3 with flags := 0 }] }
      (fun t => t.readBytes (sramBase + 4096) 2 != [0, 0] && t.buckets.map (fun b => b.finals.length) == [1]) = true := by decide +kernel

/-! ### Witnesses of BucketsEnd -/

theorem wit_BucketsEnd :
    let fin : Final := { chunk := 0, flags := 1, late := 2, clamps := 0, maxexp := [9] }
    after (.bucketComplete 3 7) (grouped 0 [1, 2] [{ started3 with finals := [fin] }] on)
      (fun t => t.buckets.isEmpty && t.readBytes (sramBase + 8192) 1 == [9] && t.get .rdcBuckets 0 == 1 && (t.op 0 5).map Op.detail == some (3 + 2 * 2 ^ 16)) = true ∧
    after (.bucketComplete 3 7) (grouped 0 [1, 2] [started3] on) (fun t => t.buckets.length == 1) = true ∧
    after (.reduceAbort 0) (rdcMsg 0 [2, 1, 3] [bucket3] false { zeroMsg 3 with code := Code.rdcMemberLost, fpos := 2, fdev := 3 })
      (fun t => t.buckets.isEmpty && (t.op 0 5).map Op.phase == some (.failed Code.rdcMemberLost (failDetail 2 0 3 0xFF))) = true ∧
    after (.reduceAbort 0) (rdcMsg 0 [2, 1, 2] [bucket3] false { zeroMsg 3 with code := Code.rdcMemberLost })
      (fun t => ((t.link 0).queue 0).length == 1) = true ∧
    after (.reduceAbort 0) (rdcMsg 0 [1, 2] [] false { zeroMsg 3 with code := Code.rdcMemberLost }) (fun t => t.earlyAborts.length == 1) = true := by decide +kernel
theorem wit_BucketsEnd_late :
    let m : Msg := { dest := 1, src := 2, cls := 0, type := msgScale, ctx := 5, gen := 0, payload := (zeroMsg 0).payload true }
    let s := { grouped 4 [3, 1, 2] [] on with parked := [⟨0, m, false⟩] }
    (s.waitedLate 3 7).isSome = true ∧
    after (.rdcLate 3 7) s (fun t => t.parked.isEmpty && t.buckets.map Bucket.late == [true] && ((t.link 0).queue 0).length == 1) = true := by decide +kernel

/-! ### Witnesses of SessionsServeCommands -/

/-- `s` with an open session 0. -/
def inSession (s : State) : State :=
  { s with sessions := [(0, { live := true, opened := true, slot := 0 })], rel := { s.rel with mode := .ready } }

/-- The outputs of a state but for their bodies: a reply's opcode and status. -/
def replies (t : State) : List (Nat × Nat) := t.out.filterMap fun o => match o with
  | .reply _ op _ st _ => some (op, st)
  | _ => none

theorem wit_SessionsServeCommands :
    sessionCommand (.memRead 0 9 sramBase 4 {}) = some (0, 9, 0x12) ∧
    after (.memRead 0 9 sramBase 4 {}) on (fun t => t.out.isEmpty) = true ∧
    after (.memRead 0 9 sramBase 4 {}) { on with sessions := [(0, { live := true })] }
      (fun t => replies t == [(0x12, Code.sesNotOpen)] && t.sessions.isEmpty) = true ∧
    after (.stepPause 0 9) { inSession on with rel := {} } (fun t => replies t == [(0x21, Code.bootNotReady)] && t.get .sesCommands == 1) = true := by decide +kernel

/-! ### Witnesses of SessionsOpenAndClose -/

/-- A connection 0 that has said hello in slot 0 under a key of one byte. -/
def hello0 (s : State) : State :=
  { s with sessions := [(0, { live := true, hello := some [1], slot := 0, key := some [7], nonceM := [2] })] }

/-- A module whose server listens to one session at a time. -/
def listening1 : State := { on with boot := { ether := true }, pins := { ethLink := true } }.set .ethCtlEnable 0 0 1 |>.set .sesCtlMax 0 0 1

theorem wit_SessionsOpenAndClose_open :
    listening1.listening = true ∧
    after (.tcpConnect 5) listening1 (fun t => (t.session 0).live && (t.session 0).source == 5) = true ∧
    after (.tcpConnect 5) (inSession listening1) (fun t => replies t == [(0, Code.sesTooMany)] && t.sessions.length == 1) = true ∧
    after (.sessionOpenTimeout 0) (hello0 on) (fun t => t.sessions.isEmpty) = true ∧
    after (.openHello 0 1 3 [9]) { (hello0 on).setSession 0 { live := true } with journal := { keys := [(3, some [5])] } }
      (fun t => (t.session 0).hello == some [9]) = true ∧
    after (.openProof 0 1 (hmac256 [7] (label ['L', 'V', 'R', 'C'] ++ [2] ++ [1]))) (hello0 on) (fun t => (t.session 0).opened && replies t == [(2, 0)]) = true := by
  decide +kernel
theorem wit_SessionsOpenAndClose_close :
    after (.openProof 0 1 [0]) { hello0 on with slotLocked := [0] } (fun t => replies t == [(2, Code.sesLocked)] && t.sessions.isEmpty) = true ∧
    after (.openProof 0 1 [0]) (hello0 on) (fun t => replies t == [(2, Code.sesAuthFail)] && t.sessions.isEmpty && t.get .sesAuthFails == 1) = true ∧
    after (.sesLockEnd 3) { on with slotLocked := [3, 4] } (fun t => t.slotLocked == [4]) = true ∧
    after (.close 0 1) (inSession on) (fun t => replies t == [(3, 0)] && t.sessions.isEmpty) = true ∧
    after (.sesTimeout 0) ((inSession on).set .sesCtlIdleS 0 0 5) (fun t => t.sessions.isEmpty && t.get .sesTimeouts == 1) = true ∧
    after (.keepaliveProbe 0) (inSession on) (fun t => (t.session 0).probes == 1) = true ∧
    after (.keepaliveProbe 0) (on.setSession 0 { live := true, opened := true, probes := 3 }) (fun t => t.sessions.isEmpty) = true ∧
    after (.sesOpcode 0 1 0x99 0x4C53 8) (inSession on) (fun t => replies t == [(0x99, Code.sesOpcode)] && t.sessions.length == 1) = true ∧
    after (.sesOpcode 0 1 0x10 0x4C54 8) (inSession on) (fun t => replies t == [(0x10, Code.sesLength)] && t.sessions.isEmpty) = true := by decide +kernel

/-! ### Witnesses of SessionsReadAndWrite -/

theorem wit_SessionsReadAndWrite :
    ((inSession on).notServed 0x10 || (inSession on).notServed 0x13) = false ∧
    after (.ctlRead 0 1 0x1000 1) (inSession on) (fun t => t.out == [.reply 0 0x10 1 0 (leBytes 8 0x1B6A009601000001)]) = true ∧
    after (.ctlRead 0 1 0x1000 513) (inSession on) (fun t => replies t == [(0x10, Code.sesLength)]) = true ∧
    after (.ctlRead 0 1 0x1001 2) (inSession on) (fun t => (replies t).map Prod.fst == [0x10] && t.get .blendCtlErrAddress == 0x1001) = true ∧
    after (.ctlWrite 0 1 (Fld.blendQuiesceTimeoutMs.addr 0 0) 77) (inSession on) (fun t => t.get .blendQuiesceTimeoutMs == 77 && replies t == [(0x11, 0)]) = true ∧
    after (.memWrite 0 1 sramBase [5, 6] {}) (inSession on) (fun t => t.readBytes sramBase 2 == [5, 6]) = true ∧
    after (.memRead 0 1 sramBase 2 {}) (inSession (on.writeBytes sramBase [5, 6])) (fun t => t.out == [.reply 0 0x12 1 0 [5, 6]]) = true ∧
    after (.memRead 0 1 (2 ^ 47) 2 {}) (inSession on) (fun t => replies t == [(0x12, Code.xferUnmapped)]) = true ∧
    after (.memRead 0 1 0 2 {}) { inSession on with rel := {} } (fun t => replies t == [(0x12, Code.bootNotReady)]) = true ∧
    after (.eventSubscribe 0 1 35) (inSession on) (fun t => (t.session 0).mask == 3) = true ∧
    after (.logRead 0 1 0 4) (inSession on) (fun t => t.out == [.reply 0 0x62 1 0 []]) = true := by decide +kernel

/-! ### Witnesses of EthernetPort -/

/-- A module whose port is on with its link up, priority 3 lossless, queue pair 5 open at 400 Gbit/s. -/
def port : State :=
  (({ on with pins := { ethLink := true }, qps := [(5, { opened := true, rateMbps := 400000 })] }.set .ethCtlEnable 0 0 1).set .ethCtlPfcMask 0 0 8).set .ethCtlEcn 0 0 1

/-- A frame of VLAN 0. -/
def frameOf (k : EthKind) (pcp share : Nat) : EthFrame := { vid := 0, pcp := pcp, supported := true, kind := k, share := share }

/-- `port` with an IPv4 prefix, so that it answers on IPv4. -/
def port4 : State := port.set .ethIpv4Prefix 0 0 24

theorem wit_EthernetPort :
    port.portOn = true ∧ on.portOn = false ∧ port4.acceptsFrame (frameOf .arp 0 0) = true ∧ port.acceptsFrame (frameOf .arp 0 0) = false ∧
    after (.ethFrame (frameOf .arp 0 0)) port4 (fun t => t.out == [.echo] && t.get .ethRxFrames == 1) = true ∧
    after (.ethFrame (frameOf .synOther 0 0)) port4 (fun t => t.out == [.rst]) = true ∧
    after (.ethFrame (frameOf .mgmt 0 0)) port4 (fun t => t.out.isEmpty) = true ∧
    after (.ethFrame (frameOf (.pfc 3 true) 0 0)) port (fun t => t.pausedPrio == [3]) = true ∧
    after (.ethFrame (frameOf (.pfc 4 true) 0 0)) port (fun t => t.pausedPrio.isEmpty) = true ∧
    after (.ethFrame (frameOf (.cnp 0x105) 0 0)) port4 (fun t => (t.qp 5).rateMbps == 200000) = true ∧
    after (.ethFrame (frameOf (.cnp 5) 0 0)) port4 (fun t => (t.qp 5).rateMbps == 400000) = true ∧
    after (.ethFrame (frameOf (.roce 0x105 true) 0 0)) port4 (fun t => t.get .ethCeReceived == 1 && t.out.length == 1) = true ∧
    after (.ethFrame (frameOf (.roceAbsent 0x105 0 false) 0 0)) port4 (fun t => t.out.length == 1) = true := by decide +kernel
theorem wit_EthernetPort_share :
    after (.ethFrame (frameOf .other 3 786433)) port (fun t => t.out == [.pfcFrame 3 true] && t.get .ethRxDrops == 1) = true ∧
    after (.ethFrame (frameOf .other 3 524287)) { port with pauseSent := [3] } (fun t => t.out == [.pfcFrame 3 false]) = true ∧
    after (.ethFrame (frameOf .other 3 524288)) { port with pauseSent := [3] } (fun t => t.out.isEmpty) = true ∧
    after (.ethFrame (frameOf .other 3 786432)) port (fun t => t.out.isEmpty) = true := by decide +kernel
theorem wit_EthernetPort_line :
    after (.roceRateStep 5) port (fun t => (t.qp 5).rateMbps == 500000) = true ∧
    after .ethLinkDown port (fun t => !t.pins.ethLink && t.rel.alert && t.get .ethLinkDowns == 1) = true ∧
    after (.ethLinkUp 9) on (fun t => t.pins.ethLink) = true ∧
    (let s := { port with out := [.pfcFrame 3 true, .echo] }
     s.portSend.out.isEmpty && s.portSend.sent.map EthSent.tag == [none, some (s.get .ethCtlVid, s.get .ethCtlPcpMgmt)]) = true := by decide +kernel

/-! ### Witnesses of RdmaRequests -/

/-- A QP_OPEN body for queue pair 5 on context 9 of GEN 0, packet sequence 100, 3 retries and 1 for a receiver not
ready, with a ring of 4 entries at the start of SRAM and service counter 2. -/
def qpBody : List Byte :=
  leBytes 2 5 ++ leBytes 2 9 ++ leBytes 1 0 ++ leBytes 1 1 ++ leBytes 1 8 ++ leBytes 1 11 ++ leBytes 16 0 ++ leBytes 4 7 ++ leBytes 4 100 ++
  leBytes 8 sramBase ++ leBytes 2 4 ++ leBytes 2 2 ++ leBytes 4 0

/-- `port` with context 9 open on the SRAM and queue pair 5 on it, in a session, with the requests given. -/
def onQp (rs : List RoceReq) : State :=
  { (inSession port).setCtx 9 { state := .open, flags := 1, windows := [(sramBase / 65536, 1024), (0, 0), (0, 0), (0, 0)] } with
    qps := [(5, { Qp.ofBody qpBody with out := rs })] }

theorem wit_RdmaRequests_open :
    after (.qpOpen 0 1 qpBody) { onQp [] with qps := [] } (fun t => (t.qp 5).opened && replies t == [(0x30, 0)]) = true ∧
    after (.qpOpen 0 1 qpBody) (onQp []) (fun t => replies t == [(0x30, Code.roceQpRange)]) = true ∧
    after (.qpOpen 0 1 []) (onQp []) (fun t => replies t == [(0x30, Code.sesLength)]) = true ∧
    after (.qpOpen 0 1 qpBody) { onQp [] with qps := [], ctxs := [] } (fun t => replies t == [(0x30, Code.roceCtx)]) = true ∧
    after (.qpClose 0 1 5) (onQp []) (fun t => !(t.qp 5).opened && replies t == [(0x31, 0)]) = true ∧
    after (.qpClose 0 1 6) (onQp []) (fun t => replies t == [(0x31, Code.roceQpRange)]) = true := by decide +kernel
/-- Where packet `psn` of queue pair 5 goes. -/
def dst5 (psn : Nat) : RoceDst := (Qp.ofBody qpBody).dst psn

theorem wit_RdmaRequests_responder :
    qpOfWire 0x105 = some 5 ∧ qpOfWire 5 = none ∧ (onQp []).rkeyOk ((onQp []).qp 5) (9 * 65536) sramBase 2 = true ∧
    after (.rdmaWrite 0x105 100 (9 * 65536) sramBase [1, 2]) (onQp []) (fun t => t.readBytes sramBase 2 == [1, 2] && t.out == [.roceAck 5 (dst5 100)] && (t.qp 5).recvPsn == 101) = true ∧
    after (.rdmaRead 0x105 100 (9 * 65536) sramBase 1) ((onQp []).writeBytes sramBase [7]) (fun t => t.out == [.roceData 5 (dst5 100) [7]]) = true ∧
    after (.rdmaRead 0x105 100 (9 * 65536 + 1) sramBase 1) (onQp []) (fun t => t.out == [.roceNak 5 (dst5 100) .remoteAccess]) = true ∧
    after (.rdmaWrite 0x105 101 (9 * 65536) sramBase [1]) (onQp []) (fun t => t.out == [.roceNak 5 (dst5 100) .outOfSequence] && (t.qp 5).seqNaked) = true ∧
    after (.rdmaWrite 0x105 99 (9 * 65536) sramBase [1]) (onQp []) (fun t => t.out == [.roceAck 5 (dst5 99)]) = true ∧
    after (.rdmaWrite 5 100 (9 * 65536) sramBase [1]) (onQp []) (fun t => t.out.isEmpty && t.get .ethRxDrops == 1) = true := by decide +kernel
theorem wit_RdmaRequests_sends :
    after (.send 0x105 100 [3]) (onQp []) (fun t => t.readBytes sramBase 1 == [3] && (t.ctr (64 * 256 + 2)).value == 1 && (t.qp 5).recvCount == 1) = true ∧
    after (.send 0x105 100 [3]) ((onQp []).setCtr (64 * 256 + 2) { value := 4 }) (fun t => t.out == [.roceNak 5 (dst5 100) .notReady]) = true ∧
    after (.send 0x105 100 (List.replicate 4097 0)) (onQp []) (fun t => t.out == [.roceNak 5 (dst5 100) .invalidRequest]) = true := by decide +kernel
/-- A WRITE and a READ that await their replies. -/
def writeReq : RoceReq := { read := false, place := 0, len := 0, psn := 100 }
def readReq : RoceReq := { read := true, sync := some 3, place := sramBase, len := 1, idx := 6, psn := 100 }
theorem wit_RdmaRequests_requester :
    after (.roceAck 0x105 (.ack 100)) (onQp [writeReq]) (fun t => (t.qp 5).out.isEmpty) = true ∧
    after (.roceAck 0x105 (.ack 99)) (onQp [writeReq]) (fun t => (t.qp 5).out.length == 1) = true ∧
    after (.roceAck 0x105 (.data 100 [8])) ({ onQp [readReq] with svc := { asked := [6] } })
      (fun t => t.readBytes sramBase 1 == [8] && t.svc.inputs == [6] && (t.ctr (64 * 256 + 3)).value == 1) = true ∧
    after (.roceAck 0x105 (.data 100 [8])) ({ onQp [{ readReq with place := 2 ^ 47 }] with svc := { asked := [6] } }) (fun t => t.svc.asked.isEmpty && t.svc.inputs.isEmpty) = true ∧
    after (.roceAck 0x105 (.nak 100)) (onQp [writeReq]) (fun t => t.get .ethErrCode == Code.roceRemoteAccess) = true ∧
    after (.roceAck 0x105 (.rnr 100)) (onQp [writeReq]) (fun t => (t.qp 5).rnrRetries == 1 && t.out.length == 1) = true ∧
    after (.roceAck 0x105 (.rnr 100)) ({ onQp [] with qps := [(5, { Qp.ofBody qpBody with rnrRetries := 1, out := [writeReq] })] }) (fun t => (t.qp 5).error) = true ∧
    after (.roceRetryTimeout 5) (onQp [writeReq]) (fun t => (t.qp 5).retries == 1 && t.out.length == 1) = true ∧
    after (.roceRetryTimeout 5) ({ onQp [] with qps := [(5, { Qp.ofBody qpBody with retries := 3, out := [writeReq] })] })
      (fun t => (t.qp 5).error && t.get .ethErrCode == Code.roceRetryExceeded) = true := by decide +kernel

/-! ### Witnesses of StepDriverCommands -/

/-- A plan of one layer of kind 0 and two micro-batches, at the start of SRAM, its group 3. -/
def planBytes : List Byte :=
  leBytes 4 1 ++ leBytes 2 2 ++ leBytes 1 1 ++ leBytes 1 1 ++ leBytes 4 1 ++ leBytes 1 0 ++ leBytes 1 1 ++ leBytes 2 100 ++ leBytes 1 3 ++ leBytes 7 0 ++
  leBytes 8 77 ++ leBytes 8 40 ++ leBytes 24 0 ++
  leBytes 4 5 ++ leBytes 1 0 ++ leBytes 1 0 ++ leBytes 1 0 ++ leBytes 1 1 ++ leBytes 4 0xFFFFFFFF ++ leBytes 2 0 ++ leBytes 2 0 ++ leBytes 8 0 ++
  leBytes 4 1 ++ leBytes 4 0

/-- The plan as PLAN_LOAD takes it. -/
def plan1 : Plan := { bytes := planBytes, addr := sramBase, report := sramBase + 4096, depth := 2 }

/-- A served session, the plan's group in the blend, the plan's bytes in memory and the step driver as given. -/
def driver (v : Svc) : State :=
  { (inSession on).writeBytes sramBase planBytes with svc := v, blend := { inForce := some (groupBlend 0 [1, 2]) } }

/-- A service configuration record without queue pairs, with a lease of 30 s. -/
def cfgBytes : List Byte :=
  leBytes 2 0xFFFF ++ leBytes 1 1 ++ leBytes 1 0 ++ leBytes 4 5 ++ leBytes 8 0 ++ leBytes 4 0 ++ leBytes 4 64 ++ leBytes 8 1 ++ leBytes 8 0 ++
  leBytes 2 0xFFFF ++ leBytes 2 30 ++ leBytes 4 0 ++ leBytes 16 0 ++ leBytes 2 0 ++ leBytes 2 100 ++ leBytes 4 0 ++ leBytes 8 0 ++ leBytes 8 0 ++ leBytes 8 0

theorem wit_StepDriverCommands_plan :
    ((driver {}).accept 0).planCode plan1 = 0 ∧
    after (.planLoad 0 1 sramBase (sramBase + 4096) 2 {}) (driver {}) (fun t => t.svc.plan.isSome && t.svc.state == 3 && t.svc.step == 40 &&
      t.word (Fld.tileNumSeed.addr 1 0) == 77) = true ∧
    after (.planLoad 0 1 sramBase (sramBase + 4096) 2 {}) (driver { inStep := true }) (fun t => t.svc.waiting.isSome && t.svc.plan.isNone) = true ∧
    after (.planLoad 0 1 sramBase (sramBase + 4096) 17 {}) (driver {}) (fun t => t.svc.plan.isNone && replies t == [(0x20, Code.svcPlanRange)]) = true := by decide +kernel
theorem wit_StepDriverCommands_ctl :
    after (.stepRun 0 1 5) (driver {}) (fun t => t.svc.state == 0 && replies t == [(0x21, 0)]) = true ∧
    after (.stepRun 0 1 5) (driver { plan := some plan1, state := 3 }) (fun t => t.svc.state == 1 && t.svc.stepsLeft == some 5) = true ∧
    after (.stepPause 0 1) (driver { plan := some plan1, state := 1, inStep := true }) (fun t => t.svc.state == 2 && t.svc.pauseWanted) = true ∧
    after (.stepPause 0 1) (driver { plan := some plan1, state := 1 }) (fun t => t.svc.state == 3) = true ∧
    after (.stepPause 0 1) (driver { plan := some plan1, state := 3 }) (fun t => t.svc.state == 3) = true ∧
    after (.stepStop 0 1) (driver { plan := some plan1, state := 1, inStep := true }) (fun t => t.svc.state == 2 && t.svc.stopWanted) = true ∧
    after (.stepStop 0 1) (driver { plan := some plan1, state := 3 }) (fun t => t.svc.state == 4 && t.svc.plan.isNone) = true := by decide +kernel
theorem wit_StepDriverCommands_others :
    configOk cfgBytes = true ∧ cfgBytes.length = 96 ∧
    after (.stepStatus 0 1) (driver {}) (fun t => replies t == [(0x22, 0)]) = true ∧
    after (.lease 0 1) (driver { config := some cfgBytes }) (fun t => t.svc.leaseRunning && replies t == [(0x23, 0)]) = true ∧
    after (.svcConfig 0 1 []) (driver {}) (fun t => replies t == [(0x24, Code.sesLength)]) = true ∧
    after (.svcConfig 0 1 (List.replicate 96 0)) (driver {}) (fun t => replies t == [(0x24, Code.svcConfigRange)]) = true ∧
    after (.svcConfig 0 1 cfgBytes) (driver { inStep := true }) (fun t => t.svc.newConfig == some cfgBytes && t.svc.config.isNone) = true ∧
    after (.svcConfig 0 1 cfgBytes) (driver {}) (fun t => t.svc.config == some cfgBytes && t.svc.leaseRunning) = true := by decide +kernel

/-! ### Witnesses of StepDriverEvents -/

theorem wit_StepDriverEvents_release :
    after (.microBatchRelease false 0) (driver { plan := some plan1, state := 1, step := 9 }) (fun t => t.svc.inStep && t.svc.fReleased == 1 && t.get .tileNumEpochEpoch 2 == 9) = true ∧
    after (.microBatchRelease false 1) (driver { plan := some plan1, state := 1 }) (fun t => t.svc.fReleased == 0) = true ∧
    after (.microBatchRelease true 0) (driver { plan := some plan1, state := 1, inStep := true, fReleased := 1 }) (fun t => t.svc.bReleased == 1) = true ∧
    after (.microBatchRelease true 1) (driver { plan := some plan1, state := 1, inStep := true, fReleased := 1, bReleased := 1 }) (fun t => t.svc.bReleased == 1) = true ∧
    after .svcInputStall (driver { plan := some plan1, state := 1, config := some (List.replicate 96 0) }) (fun t => t.svc.state == 3 && t.rel.alert) = true ∧
    after .svcInputStall (driver { plan := some plan1, state := 1, inStep := true, fReleased := 1, config := some (List.replicate 96 0) }) (fun t => t.svc.state == 2 && t.svc.stall) = true := by
  decide +kernel
/-- plan1 with its layer masked: one macro layer, its mask behind the report. -/
def maskedPlan : Plan := { plan1 with bytes := plan1.bytes.take 64 ++ [0, 0, 0, 0, 1, 1, 8, 1] ++ [255, 255, 255, 255, 0, 0, 0, 0] ++ leBytes 8 (sramBase + 8192) ++ leBytes 4 1 ++ leBytes 4 0 }
theorem wit_StepDriverEvents_mask :
    after (.microBatchRelease false 0) ((driver { plan := some maskedPlan, state := 1 }).writeBytes (sramBase + 8192) [0xFE, 1]) (fun t => t.svc.masks == [[0x1FE]]) = true ∧
    (let s := driver { masks := [[0x1FE]] }
     let t : FlushTarget := { share := 0, entry := 0, word := 0, die := 0, mac := 3, layer := 1, residual := 0x100000, source := 0, levelmap := 0, scales := 0, errmap := 0, record := 0 }
     !s.blockOn 0 (0, 0) && s.blockOn 0 (0, 1) && s.blockOn 0 (0, 8) && t.word == 0) = true := by decide +kernel
theorem wit_StepDriverEvents_end :
    let v : Svc := { plan := some plan1, state := 1, inStep := true, fReleased := 2, bReleased := 2, step := 9 }
    after (.stepEnd) (driver v) (fun t => t.svc.last == 9 && t.svc.step == 10 && t.svc.state == 1) = true ∧
    after (.stepEnd) (driver { v with stopWanted := true }) (fun t => t.svc.state == 4) = true ∧
    after (.stepEnd) (driver { v with stepsLeft := some 1, nonfinite := [(3, 0)] }) (fun t => t.svc.state == 3 && t.svc.skipped == 1) = true ∧
    after .svcLeaseLapsed (driver { v with leaseRunning := true }) (fun t => t.svc.lapse && t.svc.state == 2) = true ∧
    after .svcLeaseLapsed (driver { v with leaseRunning := true, inStep := false }) (fun t => t.svc.state == 3 && t.rel.alert) = true ∧
    after (.checkpointDone false) (driver { v with checkpoint := true }) (fun t => t.svc.state == 3 && t.svc.reason == Code.svcCkptFail) = true ∧
    after .healthDatagram { port with svc := { config := some (List.replicate 96 1) } } (fun t => t.out.length == 1 && t.svc.healthSeq == 1) = true := by decide +kernel

/-! ### Witnesses of SecurityCommands -/

/-- A served session 0 in slot 0 under a key of one byte, with a journal of plain values. -/
def secure (j : Journal) : State :=
  { on with sessions := [(0, { live := true, opened := true, slot := 0, key := some [7], nonceM := [2] })], rel := { mode := .ready }, journal := j }

theorem wit_SecurityCommands_attest :
    after (.attReport 0 1 [9]) (secure {}) (fun t => replies t == [(0x50, 0)] && t.get .attReports == 1) = true ∧
    after (.attReport 0 1 [9]) (secure { identity := { first := .missing, second := .missing } }) (fun t => replies t == [(0x50, Code.attIdentityFail)]) = true ∧
    after (.attIdentity 0 1) (secure {}) (fun t => replies t == [(0x51, 0)]) = true ∧
    after (.attIdentity 0 1) (secure { deviceKey := { first := .badSig, second := .badSig } }) (fun t => replies t == [(0x51, Code.attIdentityFail)]) = true := by decide +kernel
theorem wit_SecurityCommands_keys :
    after (.keyRotate 0 1 8 [] []) (secure {}) (fun t => replies t == [(0x52, Code.keySlotRange)]) = true ∧
    after (.keyRotate 0 1 3 [] []) ((secure {}).setSession 0 { live := true, opened := true, rotated := [3] }) (fun t => replies t == [(0x52, Code.keyReuse)]) = true ∧
    after (.keyRotate 0 1 3 [] []) (secure {}) (fun t => replies t == [(0x52, Code.keyTag)]) = true ∧
    after (.keyClear 0 1 8) (secure {}) (fun t => replies t == [(0x53, Code.keySlotRange)]) = true ∧
    after (.keyClear 0 1 0) (secure {}) (fun t => replies t == [(0x53, Code.keyLast)]) = true ∧
    after (.keyClear 0 1 0) (secure { keys := [(3, some [5])] }) (fun t => replies t == [(0x53, 0)] && (t.sessionKey 0).isNone) = true := by decide +kernel
theorem wit_SecurityCommands_rotate :
    after (.keyRotate 0 1 3 [1] (let x := (secure {}).session 0; hmac256 (x.offered 3 [1]) (x.binding ['L', 'V', 'R', 'T'] 3))) (secure {})
      (fun t => replies t == [(0x52, 0)] && (t.sessionKey 3).isSome) = true := by decide +kernel
theorem wit_SecurityCommands_records :
    after (.fwStage 0 1 0) (secure { trial := true }) (fun t => replies t == [(0x54, Code.fwTrial)]) = true ∧
    after (.fwStage 0 1 0) (secure {}) (fun t => replies t == [(0x54, Code.bootImageSig)]) = true ∧
    after (.fwStageDone 0 1) (secure { staging := some (1, { svn := 4 }, 0, 1) }) (fun t => replies t == [(0x54, 0)] && (t.bank 1).svn == 4) = true ∧
    after (.fwActivate 0 1 1) (secure {}) (fun t => replies t == [(0x55, 0)] && t.journal.bank == 1 && t.journal.trial) = true ∧
    after (.fwActivate 0 1 2) (secure {}) (fun t => replies t == [(0x55, Code.fwBankInvalid)]) = true ∧
    ((secure {}).memRefusal [] sramBase (recordLen 64) false).2 = 0 ∧
    after (.netSet 0 1 sramBase) (secure {}) (fun t => replies t == [(0x56, Code.netRecord)]) = true ∧
    after (.netSet 0 1 (2 ^ 47)) (secure {}) (fun t => replies t == [(0x56, Code.xferUnmapped)]) = true ∧
    after (.vkeySet 0 1 (2 ^ 47)) (secure {}) (fun t => replies t == [(0x58, Code.xferUnmapped)]) = true ∧
    after (.bootClear 0 1) (secure { count := 3 }) (fun t => t.journal.count == 0 && t.boot.running) = true ∧
    after (.vkeySet 0 1 sramBase) (secure {}) (fun t => replies t == [(0x58, Code.vkeyRecord)]) = true := by decide +kernel

/-! ### Witnesses of InputAndHolds -/

/-- `on` in READY. -/
def ready : State := { on with rel := { mode := .ready } }

theorem wit_InputAndHolds :
    (ready.power.hold == .none && ready.powered && unitValid (unitPress 2)) = true ∧
    after (.inputSag true) { ready with links := [(0, { state := .up, light := true })], svc := { step := 4 } }
      (fun t => t.power.hold == .input && (t.journal.save.map fun i => (i.complete, i.reason, i.step)) == some (true, 0, 4) && (t.link 0).state == .off) = true ∧
    after (.inputSag true) on (fun t => t.journal.save.isNone) = true ∧
    after (.pwrThermalTrip (unitPress 2) false) ready (fun t => t.power.hold == .thermalTrip && (t.journal.save.map fun i => (i.complete, i.reason)) == some (false, 1)) = true ∧
    after .resetInLow ready (fun t => t.power.hold == .resetIn && t.pins.resetLow && t.journal.save.isNone) = true ∧
    after .inputStable State.reset (fun t => t.boot.running && t.boot.stage == 1 && t.journal.startSeq == 1) = true ∧
    after .inputStable { State.reset with pins := { resetLow := true } } (fun t => t.power.hold == .resetIn) = true ∧
    after .resetInRise { State.reset with power := { hold := .resetIn } } (fun t => t.boot.running) = true ∧
    after .pwrOvervoltage ready (fun t => t.rel.alert && t.get .pwrErrCode == Code.pwrOvervoltage) = true := by decide +kernel

/-! ### Witnesses of PowerCap -/

theorem wit_PowerCap_loop :
    (ready.index, ready.capInForce, (profileRange (ready.get .pwrCtlProfile))) = (0, 2200, (0, 22)) ∧
    after (.capLoop 2201) ready (fun t => t.power.index == 1) = true ∧
    after (.capLoop 2201) { ready with power := { ready.power with index := 22 } } (fun t => t.power.index == 22 && t.power.unmet) = true ∧
    after (.capLoop 2000) { ready with power := { ready.power with index := 5, unmet := true, under := 99 } } (fun t => t.power.index == 4 && !t.power.unmet) = true ∧
    after (.capLoop 2156) { ready with power := { ready.power with index := 5 } } (fun t => t.power.index == 5) = true ∧
    after (.capLoop 2000) { ready with power := { ready.power with index := 5, thermal := [(1, 6)] } } (fun t => t.power.index == 5) = true := by decide +kernel
theorem wit_PowerCap_others :
    ready.get .capPowerCapMin = 600 ∧
    after (.envelopePeriod 600) ready (fun t => t.power.envSideband == 1406) = true ∧ after (.envelopePeriod 250) ready (fun t => t.get .pwrErrCode == Code.capInfeasible) = true ∧
    after (.envelopePeriod 1024) ready (fun t => t.power.envSideband == ready.power.envSideband) = true ∧
    after (.pwrEnvelopeWrite 600) ready (fun t => t.get .pwrEnvelopeW == 600) = true ∧ after (.pwrEnvelopeWrite 599) ready (fun t => t.get .pwrErrCode == Code.capInfeasible) = true ∧
    after (.insertedDutySlot 3) { ready with power := { ready.power with index := 9 } } (fun t => (t.tile 2).dutyStopped && (t.die 3).dutyStopped && !(t.tile 1).dutyStopped) = true ∧
    after (.pwrThermalThrottle (unitPress 1)) ready (fun t => t.power.thermal == [(1, 1)]) = true ∧
    after (.pwrThermalThrottle (unitCask 1)) ready (fun t => (t.die 1).limit == 32) = true := by decide +kernel
theorem wit_PowerCap_state :
    let m : Msg := { dest := 1, src := 3, cls := 0, type := msgCapState, ctx := 0, gen := 0, payload := leBytes 2 2000 ++ leBytes 2 1900 ++ leBytes 2 1 ++ leBytes 2 5 }
    let s := { grouped 0 [2, 1, 3] [] ready with delivered := [(1, m)] }
    after (.capState 1) (s.set .pwrPeerCfgEnable 0 0 1) (fun t => t.power.capSeen == [(3, (2000, 1))] && t.readBytes (sramBase + 24) 2 == leBytes 2 2000) = true ∧
    s.capOnward 1 3 = [2] ∧ after (.capState 1) s (fun t => ((t.link 0).queue 0).length == 1) = true ∧
    after (.capState 1) { s with power := { s.power with peerCaps := [(3, some 5)] } } (fun t => ((t.link 0).queue 0).isEmpty) = true := by
  decide +kernel

/-! ### Witnesses of EnergyAndDroop -/

theorem wit_EnergyAndDroop :
    let s := { ready with power := { ready.power with wasAbove := true } }
    after (.ballastUpdate 0 500 9) ((s.set .pwrBallastFloorW 0 0 300).set .pwrBallastRampMs 0 0 10) (fun t => t.word (Fld.pwrBallastUj.addr 0 0) == 30000 && t.power.fellAt == some 9) = true ∧
    after (.droopTrip false 3) ready (fun t => (t.tile 3).halfClock && t.get .pwrDroopEvents == 1) = true ∧
    after (.droopTrip true 3) ready (fun t => (t.die 3).droopHold) = true ∧
    after (.droopRecover true 3) (ready.setDie 3 { droopHold := true }) (fun t => !(t.die 3).droopHold) = true ∧
    after (.pwrAttrDrift 100 94) ready (fun t => t.get .pwrErrCode == Code.pwrAttrDrift) = true ∧ after (.pwrAttrDrift 100 95) ready (fun t => t.rel.logSeq == 0) = true := by decide +kernel
theorem wit_EnergyAndDroop_attr :
    let xs : List AttrShare := [⟨5, 1, 30⟩, ⟨0xFFFF, 0, 10⟩]
    let s := ready.set .pwrAttrCfgSizeLog2 0 0 12
    after (.attrInterval xs 81) ready (fun t => t.power.interval == 1 && t.word (Fld.pwrEnergyModelUj.addr 0 0) == 40) = true ∧
    after (.pwrAttrMark xs 81) s (fun t => t.get .pwrAttrPtrWptr == 48 && t.readBytes (sramBase + 8) 4 == leBytes 4 60 && t.readBytes (sramBase + 24) 4 == leBytes 4 21) = true := by
  decide +kernel

/-! ### Witnesses of HousekeepingConverter -/

theorem wit_HousekeepingConverter :
    after (.hkcScan (List.replicate 63 3000 ++ [1024]) 7) ready (fun t => t.word (Fld.hkcLastCode.addr 0 9) == 3000 && t.hkc.scan == 1 && (t.die 2).temp == 1235) = true ∧
    (let s := (ready.set .hkcRingCfgSizeLog2 0 0 8).set .hkcRingMask 0 0 4
     (s.hkcRing { ch := 2, code := 5 }).get .hkcRingPtrWptr == 4 && ((s.set .hkcRingPtrWptr 0 0 256).hkcRing { ch := 2, code := 5 }).word (Fld.hkcRingDrops.addr 0 0) == 1) = true ∧
    after (.hkcTest 1) ready (fun t => t.get .hkcTestStatusState == 1) = true ∧
    after (.hkcTestDone [⟨56, 10, 40⟩, ⟨58, 10, 60⟩]) (ready.set .hkcTestStatusState 0 0 1) (fun t => t.get .hkcTestStatusState == 3 && t.get .hkcTestStatusFailed == 4 && t.rel.alert) = true ∧
    after (.hkcTestDone []) (ready.set .hkcTestStatusState 0 0 1) (fun t => t.get .hkcTestStatusState == 2) = true ∧
    after (.hkcRingRptrWrite (BitVec.ofNat 64 (4 * 2 ^ 32))) ready (fun t => t.get .pwrErrCode == Code.hkcRingPtr && t.get .hkcRingPtrRptr == 0) = true ∧
    after (.hkcRingRptrWrite (BitVec.ofNat 64 (4 * 2 ^ 32))) (ready.set .hkcRingPtrWptr 0 0 4) (fun t => t.get .hkcRingPtrRptr == 4) = true ∧
    after (.hkcTest 1) { ready with power := {} } (fun t => t.get .blendCtlErrCode == Code.ctlDomainOff) = true ∧
    after (.pwrExtTherm 1) (ready.set .pwrThermLimitExt 0 0 (60 * 256)) (fun t => t.rel.alert && t.get .pwrErrUnit == 60) = true ∧
    after (.pwrExtTherm 1) (ready.set .pwrThermLimitExt 0 0 0) (fun t => !t.rel.alert) = true := by decide +kernel

/-! ### Witnesses of DomainsAndDeepIdle -/

theorem wit_DomainsAndDeepIdle_cmd :
    let off := { ready with power := { ready.power with domains := BitVec.allOnes 112 &&& ~~~(3#112) } }
    ready.quiesced 5 = true ∧ ready.domainOn 5 = true ∧ (headOf 0).quiesced 0 = false ∧
    after (.pwrDomainCmd 109) ready (fun t => t.get .pwrErrCode == Code.pwrDomainFixed) = true ∧
    after (.pwrDomainCmd 104) ready (fun t => t.get .pwrErrCode == Code.pwrDomainOrder) = true ∧
    after (.pwrDomainCmd 129) { ready with power := { ready.power with domains := 0 } } (fun t => t.get .pwrErrCode == Code.pwrDomainOrder) = true ∧
    after (.pwrDomainCmd 0) (headOf 0) (fun t => t.get .pwrErrCode == Code.pwrDomainBusy) = true ∧
    after (.pwrDomainCmd 129) off (fun t => t.switchingOn 1 && !t.domainOn 1) = true ∧
    after (.domainSwitchDone 1) { off with power := { off.power with switching := [(1, some true)] } } (fun t => t.domainOn 1 && !t.domainOn 0) = true := by decide +kernel
theorem wit_DomainsAndDeepIdle_idle :
    after .idleDeep on (fun t => t.get .pwrIdleStatusCode == Code.pwrIdleState) = true ∧
    after .idleDeep { headOf 0 with rel := { mode := .ready } } (fun t => t.get .pwrIdleStatusCode == Code.pwrIdleNotQuiesced) = true ∧
    after .idleDeep ready (fun t => t.rel.mode == .deepIdle && t.power.idle == 1) = true ∧
    after .idleResume ready (fun t => t.get .pwrIdleStatusCode == Code.pwrIdleState) = true ∧
    after .idleResume { ready with power := { idle := 2 } } (fun t => t.power.idle == 3 && t.switchingOn 7) = true ∧
    after .resumeDone { ready with power := { idle := 3 } } (fun t => t.rel.mode == .ready && t.power.idle == 0) = true := by decide +kernel
theorem wit_DomainsAndDeepIdle_entry :
    let s : State := { linked ready with power := { ready.power with idle := 1 } }
    s.power.idle = 1 ∧ s.power.rampOn = false ∧ after .deepIdleEntry ({ s with power := { s.power with rampOn := true } }.set .pwrBallastFloorW 0 0 300) (fun t => t.power.idle == 1) = true ∧
    after .deepIdleEntry ready (fun t => t.power.idle == 0) = true := by decide +kernel

/-! ### Witnesses of DeadlinesAndSelfTest -/

/-- `ready` with the schedule of tile 3 and a visit's slice as given. -/
def testing (x : Option Slice) : State :=
  { ready with blend := { inForce := some { bist := [⟨unitTile 3, 2⟩] } }, rel := { mode := .ready, slice := x } }.set .bistCtlEnable 0 0 1

theorem wit_DeadlinesAndSelfTest_hang :
    let s := (headOf (launchDesc 3)).modOp 0 0 fun o => { o with phase := .running }
    (s.op 0 0).isSome = true ∧ ((s.op 0 0).elim false Op.canHang) = true ∧ s.absorbed 0 (unitTile 0 3) = false ∧
    after (.hangDeadline 0 0 [] {}) s (fun t => (t.op 0 0).isNone && t.get .rstHangCode == Code.hangDeadline && t.get .rstHangUnitUnit == unitTile 0 3) = true ∧
    after (.hangDeadline 0 0 [] {}) s (fun t => t.rel.resets.any fun r => r.unit == unitTile 0 3 && r.level == 0) = true ∧
    after (.hangDeadline 0 1 [] {}) s (fun t => t.rel.resets.isEmpty && (t.op 0 0).isSome) = true ∧
    after (.hangDeadline 0 1 [0] {}) (s.setOp 0 1 (s.op 0 0)) (fun t => (t.op 0 0).isNone && (t.op 0 1).isNone && t.get .rstHangSlot == 0 &&
      (t.rel.resets.filter fun r => r.unit == unitTile 0 3).length == 1) = true := by decide +kernel
theorem wit_DeadlinesAndSelfTest_wait :
    let s := (headOf (mkDesc [(0, 6), (8, 7), (10, 5)])).set .opqCfgSizeLog2 0 0 4
    ((s.tile 0).head 0).isSome = true ∧ s.queueState 0 0 = 3 ∧
    after (.hangWait 0 0) s (fun t => t.rel.waitsLogged == [(0, 0, 0)] && t.rel.logSeq == 1) = true ∧
    after (.hangWait 0 0) { s with rel := { waitsLogged := [(0, 0, 0)] } } (fun t => t.rel.logSeq == 0) = true := by decide +kernel
theorem wit_DeadlinesAndSelfTest_visit :
    (testing none).bistPlan = [(0, unitTile 3, 2)] ∧ (testing none).bistEligible (unitTile 3) = true ∧
    after .bistVisit (testing none) (fun t => (t.rel.slice.map fun x => (x.unit, x.left)) == some (unitTile 3, 2) && (t.tile 3).bistQuiesce) = true ∧
    after .bistVisit { testing none with power := { (testing none).power with domains := 0 } } (fun t => t.rel.slice.isNone && t.word (Fld.bistSkips.addr 0 0) == 1) = true ∧
    after .bistQuiesced (testing (some ⟨unitTile 3, 1, 2, true, none⟩)) (fun t => (t.rel.slice.map Slice.stage) == some 2) = true ∧
    after .bistQuiesceTimeout (testing (some ⟨unitTile 3, 1, 2, true, none⟩)) (fun t => t.rel.slice.isNone && smGet (fun _ => 0) t.rel.defers (unitTile 3) == 1) = true ∧
    (let s := testing (some ⟨unitTile 3, 1, 2, true, none⟩)
     after .bistQuiesceTimeout { s with rel := { s.rel with defers := [(unitTile 3, 7)] } } (fun t => t.get .bistStatusCode == Code.bistDeferred && t.rel.alert)) = true := by decide +kernel
theorem wit_DeadlinesAndSelfTest_done :
    let s := testing (some ⟨unitTile 3, 2, 2, true, none⟩)
    s.rel.slice = some ⟨unitTile 3, 2, 2, true, none⟩ ∧ unitValid (unitTile 3) = true ∧ s.rel.mode = .ready ∧
    (∃ a, a = Config.bistSignature (unitTile 3) (s.segment (unitTile 3))) ∧ ∃ b, b ≠ Config.bistSignature (unitTile 3) (s.segment (unitTile 3)) := by
  refine ⟨rfl, by decide +kernel, rfl, ⟨_, rfl⟩, ⟨Config.bistSignature (unitTile 3) ((testing (some ⟨unitTile 3, 2, 2, true, none⟩)).segment (unitTile 3)) + 1, ?_⟩⟩
  intro h
  bv_omega
theorem wit_DeadlinesAndSelfTest_asked :
    after (.bistCmd (BitVec.ofNat 64 (unitTile 3 * 2 ^ 16 + 2 * 2 ^ 8 + 1))) (testing none) (fun t => (t.rel.slice.map Slice.left) == some 2) = true ∧
    after (.bistCmd (BitVec.ofNat 64 (unitTile 3 * 2 ^ 16 + 1))) (testing none) (fun t => t.word (Fld.bistSkips.addr 0 0) == 1) = true ∧
    after (.bistCmd 1) (testing (some ⟨unitTile 3, 2, 2, true, none⟩)) (fun t => t.get .bistStatusCode == Code.bistBusy) = true ∧
    (inSession ready).notServed 0x63 = false ∧
    after (.bistRun 0 1 (unitTile 3) 1) (inSession ready) (fun t => t.rel.slice.isSome && t.out.isEmpty) = true ∧
    after (.bistRun 0 1 (unitTile 3) 0) (inSession ready) (fun t => replies t == [(0x63, 0)]) = true ∧
    after (.bistRun 0 1 (unitTile 3) 1) (inSession (testing (some ⟨unitTile 3, 2, 2, true, none⟩))) (fun t => replies t == [(0x63, 0)] && t.get .bistStatusCode == Code.bistBusy) = true := by
  decide +kernel

/-! ### Witnesses of ResetsRun -/

/-- `ready` with resets that run. -/
def resetting (rs : List ResetRun) : State := { ready with rel := { mode := .resetting, resets := rs } }

theorem wit_ResetsRun_refused :
    after (.resetTile (unitTile 3 1)) ready (fun t => t.get .rstStatusCode == Code.rstCmdRange) = true ∧
    (levelOk 1 (unitTile 3) && levelOk 0 (unitTile 3 4) && levelOk 2 (unitEngine 1) && levelOk 3 (unitPress 1) && levelOk 4 unitModule && levelOk 5 unitModule) = true ∧
    (resetting [⟨unitPress 0, 3, 0, 3, 0, false, false, []⟩]).absorbed 1 (unitTile 3) = true ∧
    after (.resetTile (unitTile 3)) (resetting [⟨unitPress 0, 3, 0, 3, 0, false, false, []⟩]) (fun t => t.get .rstStatusCode == Code.rstBusy) = true ∧
    after (.resetTile (unitTile 3)) { ready with power := {} } (fun t => t.rel.resets.isEmpty) = true := by decide +kernel
theorem wit_ResetsRun_taken :
    ready.absorbed 1 (unitTile 3) = false ∧
    after (.resetEngine (unitTile 3 4) {}) ready (fun t => t.rel.resets.any fun r => r.unit == unitTile 3 4) = true ∧
    after (.resetEngine (unitTile 0) {}) runningState (fun t => (t.op 0 0).isNone) = true ∧
    after (.resetEngine (unitLink 0) {}) (linked ready) (fun t => (t.link 0).state == .retrain) = true ∧
    after (.resetTile (unitTile 0)) (headOf 0) (fun t => t.tile 0 == {} && t.get .rstLastUnit == unitTile 0) = true ∧
    after (.resetOptical (unitEngine 0)) (linked ready) (fun t => (t.engine 0).state == .laserWait && (t.link 0).state == .off) = true ∧
    after (.resetPress (unitPress 0)) (linked ready) (fun t => t.rel.mode == .resetting && (t.link 0).state == .off) = true ∧
    after .resetWarm ready (fun t => t.boot == { stage := 1, running := true, warm := true } && !t.domainOn 3) = true ∧
    after .resetCold ready (fun t => t.boot == { stage := 1, running := true } && t.journal.startSeq == 1) = true := by decide +kernel
theorem wit_ResetsRun_after :
    let r : ResetRun := ⟨unitTile 3 4, 0, 0, 0, 0, false, false, [(0, 9)]⟩
    let p : ResetRun := ⟨unitPress 0, 3, 0, 3, 0, false, false, []⟩
    after (.reset 0 1 1 (unitTile 3 1)) (inSession ready) (fun t => replies t == [(0x61, Code.rstCmdRange)]) = true ∧
    after (.reset 0 1 1 (unitTile 3)) (inSession ready) (fun t => (t.rel.resets.map ResetRun.sessions) == [[(0, 1)]] && t.out.isEmpty) = true ∧
    after (.reset 0 1 5 unitModule) (inSession ready) (fun t => t.boot.running && replies t == [(0x61, 0)]) = true ∧
    after (.resetDone (unitTile 3 4)) (inSession (resetting [r])) (fun t => t.rel.resets.isEmpty && t.rel.mode == .ready && replies t == [(0x61, 0)]) = true ∧
    (nextLevel 0 (unitTile 3 4), (resetting []).absorbed 1 (unitTile 3)) = ((1, unitTile 3), false) ∧
    after (.rstEscalated (unitTile 3 4)) ((resetting [r]).set .rstCtlEscMax 0 0 5) (fun t => (t.rel.resets.map fun x => (x.level, x.unit, x.escalations)) == [(1, unitTile 3, 1)]) = true ∧
    after (.rstEscalated (unitPress 0)) ((resetting [p]).set .rstCtlEscMax 0 0 5) (fun t => t.boot.warm && t.boot.stage == 1) = true ∧
    after (.rstEscalated (unitPress 0)) ((resetting [p]).set .rstCtlEscMax 0 0 3) (fun t => t.rel.safeDrain && t.rel.resets.isEmpty) = true ∧
    after .safeStateDrain ready (fun t => t.rel.mode == .ready) = true ∧ ({ ready with rel := { mode := .ready, safeDrain := true } } : State).rel.safeDrain = true := by decide +kernel

/-! ### Witnesses of RacksAndTheLog -/

/-- `linked ready` with a rack as given, and a RACK flit of an ID delivered by link 0. -/
def racked (x : Option Rack) (id : Nat) : State :=
  let m : Msg := { dest := 1, src := 2, cls := 0, type := msgRack, ctx := 0, gen := 0, payload := leBytes 2 id ++ leBytes 2 2 }
  { linked ready with rel := { mode := .ready, rack := x }, delivered := [(0, m)] }

theorem wit_RacksAndTheLog_start :
    after (.snapCmd 0) ready (fun t => t.get .snapStatusCode == Code.snapId) = true ∧
    after (.snapCmd 7) ready (fun t => t.rackId == 7) = true ∧ after (.snapCmd 7) (racked (some ⟨5, 1, 255, false, [], [], [], [], 0, false, none⟩) 0) (fun t => t.get .snapStatusCode == Code.snapBusy) = true ∧
    after (.rack 0 1 0) (inSession ready) (fun t => replies t == [(0x60, Code.snapId)]) = true ∧
    after (.rack 0 1 7) (inSession ready) (fun t => t.rackId == 7 && t.out.isEmpty) = true ∧
    (racked (some ⟨5, 1, 255, false, [], [], [], [], 0, false, none⟩) 5).isUp 0 = true := by decide +kernel
theorem wit_RacksAndTheLog_flits :
    let x : Rack := ⟨5, 1, 255, true, [], [], [0], [], 0, false, none⟩
    ((racked none 5).takeDelivered 0 msgRack).isSome = true ∧
    after (.rackFlit 0) (racked none 5) (fun t => t.rackId == 5 && (t.rel.rack.map Rack.link) == some 0) = true ∧
    after (.rackFlit 0) (racked (some x) 5) (fun t => (t.rel.rack.map Rack.waiting) == some []) = true ∧
    after (.rackFlit 0) (racked (some { x with latched := false }) 5) (fun t => (t.rel.rack.map Rack.early) == some [0]) = true ∧
    after (.rackFlit 0) (racked (some x) 6) (fun t => t.word (Fld.snapRefused.addr 0 0) == 1) = true ∧
    after (.rackFlit 0) ((racked none 6).set .snapStatusLastId 0 0 6) (fun t => t.rel.rack.isNone && t.word (Fld.snapDuplicates.addr 0 0) == 1) = true ∧
    after .snapIncomplete (racked (some x) 5) (fun t => (t.rel.rack.map Rack.incomplete) == some true && t.rel.logSeq == 1) = true := by decide +kernel
theorem wit_RacksAndTheLog_image :
    let x : Rack := ⟨5, 1, 255, true, [(64, 3)], [], [], [], 0, false, none⟩
    after .rackImageWritten (racked (some x) 5) (fun t => t.rel.rack.isNone && t.get .snapStatusLastId == 5 && t.readBytes (sramBase + (racked none 5).get .snapCfgOffset) 2 == [5, 0]) = true ∧
    after .rackImageWritten (racked (some { x with session := some (0, 3) }) 5 |> inSession) (fun t => t.out.length == 1) = true ∧
    after .rackImageWritten (racked (some { x with waiting := [0], incomplete := true }) 5) (fun t => t.rel.rack.isNone) = true := by decide +kernel
theorem wit_RacksAndTheLog_log :
    after .logJournalCopy { ready with rel := { mode := .ready, logSeq := 1 } } (fun t => t.journal.logCopy.length == 1) = true ∧
    after .logJournalCopy State.reset (fun t => t.journal.logCopy.isEmpty) = true ∧
    after (.logRptrWrite (BitVec.ofNat 64 (4 * 2 ^ 32))) { ready with rel := { mode := .ready, alert := true, alertSeq := 3 } } (fun t => !t.rel.alert && t.get .rstLogPtrRptr == 4) = true ∧
    after (.logRptrWrite (BitVec.ofNat 64 (3 * 2 ^ 32))) { ready with rel := { mode := .ready, alert := true, alertSeq := 3 } } (fun t => t.rel.alert) = true := by decide +kernel

/-! ### Witnesses of StartStages -/

/-- A start in a stage, all domains on. -/
def inBoot (b : Boot) : State := { on with boot := { b with running := true } }

theorem wit_StartStages_first :
    (inBoot { stage := 1 }).inStage 1 = true ∧
    after .bootStageRom (inBoot { stage := 1 }) (fun t => t.boot.stage == 2 && t.word 0x1010 == gradeWord 0x1010) = true ∧
    (let s := inBoot { stage := 1 }
     after .bootStageRom { s with journal := { s.journal with trim := { first := .badSig, second := .missing } } } (fun t => t.power.hold == .failedStart && t.journal.count == 1)) = true ∧
    after (.bootStagePower true true 48000 48000) (inBoot { stage := 2 }) (fun t => t.boot.stage == 3) = true ∧
    after (.bootStagePower true false 48000 48000) (inBoot { stage := 2 }) (fun t => (t.journal.reasons.map fun r => (r.outcome, r.stage, r.code)) == [(2, 2, Code.hkcTestFail)]) = true ∧
    (holdupBad 48000 39999 && !holdupBad 41500 40000) = true := by decide +kernel
theorem wit_StartStages_image :
    let s := inBoot { stage := 3 }
    let bad : Bank := { sigOk := false, digest := [] }
    s.bankRefusal 0 = none ∧ after .bootStageImage s (fun t => t.boot.stage == 4 && t.boot.bank == 0) = true ∧
    after .bootStageImage { s with journal := { s.journal with banks := [(0, bad)] } } (fun t => t.boot.stage == 4 && t.boot.bank == 1 && t.rel.logSeq == 1) = true ∧
    after .bootStageImage { s with journal := { s.journal with banks := [(0, bad), (1, bad)] } } (fun t => t.power.hold == .failedStart) = true ∧
    after .bootStageImage { s with journal := { s.journal with bank := 1, trial := true, trialFailed := true } }
      (fun t => t.boot.bank == 0 && t.journal.bank == 0 && !t.journal.trial && t.rel.logSeq == 1) = true := by decide +kernel
theorem wit_StartStages_middle :
    after (.bootStageUncore none) (inBoot { stage := 4 }) (fun t => t.boot.stage == 5) = true ∧
    after (.bootStageUncore (some 5)) (inBoot { stage := 4 }) (fun t => t.power.hold == .failedStart) = true ∧
    after (.bootStageSelftest none) (inBoot { stage := 5 }) (fun t => t.boot.stage == 7) = true ∧
    after (.bootStageSelftest (some (unitTile 1, 2))) (inBoot { stage := 5 }) (fun t => t.power.hold == .failedStart) = true ∧
    after (.bootStageCask [3] []) (inBoot { stage := 7 }) (fun t => t.power.hold == .failedStart && (t.journal.reasons.map fun r => (r.stage, r.code)) == [(6, Code.calNoSet)]) = true := by
  decide +kernel
theorem wit_StartStages_cask :
    after (.bootStageCask [] []) (inBoot { stage := 7 }) (fun t => t.boot.cask && t.boot.stage == 7) = true ∧
    (let s := inBoot { stage := 1 }
     after .bootStageRom { s with journal := { s.journal with count := 3 } } (fun t => t.boot.stage != 1)) = true := by decide +kernel
theorem wit_StartStages_last :
    after (.bootStageOptical [1]) { inBoot { stage := 7, cask := true } with engines := [(0, { state := .laserWait, source := true }), (1, { state := .laserWait, source := true })] }
      (fun t => t.boot.stage == 8 && (t.engine 0).state == .ready && (t.engine 1).state == .fault) = true ∧
    after .bootStageReady (inBoot { stage := 8, ether := true }) (fun t => t.rel.mode == .ready && t.boot.outcome == 1) = true ∧
    after .bootStageReady (inBoot { stage := 8 }) (fun t => t.boot.running && t.boot.last) = true ∧
    (inBoot { stage := 4 }).inEther = true ∧
    after (.bootStageEthernet none) (inBoot { stage := 8, last := true }) (fun t => t.rel.mode == .ready) = true ∧
    after (.bootStageEthernet none) (inBoot { stage := 0x0E, tinRun := true }) (fun t => t.rel.mode == .tin) = true ∧
    after (.bootStageEthernet none) (inBoot { stage := 4 }) (fun t => t.boot.ether && t.get .ethMacAddress == 0x020000000001) = true ∧
    after (.bootStageEthernet (some 3)) (inBoot { stage := 4 }) (fun t => t.power.hold == .failedStart) = true ∧
    after .bootStageTimeout (inBoot { stage := 2 }) (fun t => (t.journal.reasons.map fun r => (r.stage, r.code)) == [(2, Code.bootStageTimeout)]) = true ∧
    after .bootStageTimeout ((inBoot { stage := 2, warm := true }).set .rstCtlEscMax 0 0 5) (fun t => t.boot == { stage := 1, running := true }) = true := by decide +kernel

/-! ### Witnesses of ResetState -/

theorem test_reset_reads :
    (State.reset.get .sesCtlPort == 6210 && State.reset.get .capPowerCapMin == 0 && (State.reset.link 5).state == .off) = true := by decide +kernel

/-! ### Witnesses of StepKeepsMemoryForm -/

theorem wit_StepKeepsMemoryForm :
    (on.writeBytes (tileBase 0) [1, 2]).mem.wf ∧ (on.writeBytes (tileBase 0) [1, 0, 2]).mem.cells = [(tileBase 0, 1), (tileBase 0 + 2, 2)] := by decide +kernel

/-! ### Ill-formed commands: one for each check of WellFormed.lean -/

/-- A custom-0 instruction's operands, all in range. -/
def va : VArgs := ⟨1, 2, 3, false, 0⟩

/-- A custom-2 instruction's operands, all in range. -/
def vm : VMem := ⟨1, 2, 3, 4, 0, false⟩

theorem test_wf_access :
    ([Instr.registerWrite (.session 4) 0 8 0 0, .registerWrite (.core 16) 0 8 0 0, .registerWrite (.core 0) (2 ^ 48) 8 0 0, .registerWrite (.core 0) 0 0 0 0,
      .rcRegisterRead (.session 4) 0 8 0, .rcRegisterRead (.core 0) 0 9 0, .commitGo .flink 96, .commitCheckDone .ses 1].any Instr.wf) = false ∧
    ([Instr.registerWrite (.session 3) 0 8 0 0, .rcRegisterRead (.core 15) 0 8 0, .commitGo .sync 64, .commitCheckDone .ses 0].all Instr.wf) = true := by
  decide +kernel
theorem test_wf_tiles :
    ([Instr.caskPass 64 0 {}, .matrixOp 0 16 {}, .dma 0 16 {}, .bucketContribute 0 16 {}, .vectorKernel 64 0, .opqTailWrite 0 16 0, .hangWait 64 0,
      .caskPassDone 0 64 {}, .hangDeadline 64 0 [] {}, .hangDeadline 0 0 [64] {}, .opComplete 0 64 {}, .kernelStart 0 64, .descriptorFetch 64 {}, .opqPreemptGo 64, .tileCringRptrWrite 0 4 0,
      .tileCringRptrWrite 64 0 0, .quadrantFault 0 8 0, .quadrantFault 0 0 4, .scratchScrub 64 0 .clean, .scratchScrub 0 (2 ^ 26) .clean, .scalarInstruction 0 8 {},
      .signalArrive (65 * 256) 1, .signalArrive 0 (2 ^ 16), .syncCtrValueWrite 65 0 0, .syncCtrValueWrite 0 256 0, .syncRearm 65 0, .waiterWake (.queue 0 16) {},
      .waiterWake (.core 0 8) {}, .waiterWake (.service 16) {}, .insertedDutySlot 16].any Instr.wf) = false ∧
    ([Instr.caskPass 63 15 {}, .hangDeadline 63 63 [62] {}, .tileCringRptrWrite 63 3 0, .quadrantFault 63 7 3, .scalarInstruction 63 7 {}, .syncCtrValueWrite 64 255 0,
      .waiterWake (.core 63 7) {}].all Instr.wf) = true := by decide +kernel
theorem test_wf_vector :
    ([Instr.vadd 64 0 va, .vadd 0 8 va, .vadd 0 0 { va with vd := 32 }, .vadd 0 0 { va with vs1 := 32 }, .vadd 0 0 { va with vs2 := 32 }, .vadd 0 0 { va with rc := 4 },
      .vfma 0 8 va 0, .vfma 0 0 va 32, .vst 0 8 vm, .vst 0 0 { vm with v := 32 }, .vst 0 0 { vm with rs1 := 32 }, .vst 0 0 { vm with rs2 := 32 }, .vst 0 0 { vm with fmt := 8 },
      .vld 0 0 { vm with rc := 4 } {}, .tsetvl 0 8 0 0, .tsetvl 0 0 32 0, .tsetvl 0 0 0 32, .tsetblk 0 0 32, .tvfence 0 8, .tsig 64 16 0 0, .tsig 65 0 0 0, .tsig 0 0 32 0,
      .twait 0 8 0 0 0, .twait 0 0 32 0 0, .twait 0 0 0 0 32].any Instr.wf) = false ∧
    ([Instr.vadd 63 7 va, .vfma 0 0 va 31, .vst 0 0 vm, .vld 0 0 vm {}, .tsetvl 0 0 31 31, .tsig 64 15 0 0, .twait 64 15 1 2 3].all Instr.wf) = true := by decide +kernel
theorem test_wf_cask :
    ([Instr.caskOlt 32 0, .calRunEnd 32, .cwrTokenTick 32, .caskPassFire 0 2048, .caskPassFire 32 0, .calVisit 32 0 [], .cwrAdmit 0 0 8 {}, .cwrRow 0 2048 0 [] 0,
      .caskOltDone 32 [], .caskOltDone 0 [⟨8, true, 0, 0, 0⟩], .caskOltDone 0 [⟨0, true, 1032, 0, 0⟩], .caskOltDone 0 [⟨0, true, 0, 4096, 0⟩],
      .caskOltDone 0 [⟨0, true, 0, 0, 4096⟩]].any Instr.wf) = false ∧
    ([Instr.caskOlt 31 0, .caskPassFire 31 2047, .cwrAdmit 31 2047 7 {}, .caskOltDone 0 [⟨7, false, 1023, 4095, 0⟩]].all Instr.wf) = true := by decide +kernel
theorem test_wf_links :
    ([Instr.write 96 {}, .syncAdd 96, .frameTransmit 96, .flitReceive 96 (List.replicate 256 0) { decoded := true }, .flitReceive 0 (List.replicate 255 0) { decoded := true },
      .controlWord 96 (List.replicate 64 0), .controlWord 0 (List.replicate 63 0),
      .peerCheckDone 96 0 0 true, .peerCheckDone 0 (2 ^ 14) 0 true, .peerCheckDone 0 0 96 true, .fecUeLimit 96 0, .flinkAgedOut 0 4, .flinkAgedOut 96 0,
      .laserWaitDone 8, .ctxOpen 4 0, .ctxEdge 4, .ctxDrained 40960, .memScrub (2 ^ 48) .clean, .rdcLate 256 0, .bucketComplete 0 (2 ^ 16)].any Instr.wf) = false ∧
    ([Instr.write 95 {}, .flitReceive 95 (List.replicate 256 0) { decoded := true }, .controlWord 95 (List.replicate 64 0), .peerCheckDone 95 1 2 true, .flinkAgedOut 0 3, .laserWaitDone 7, .ctxDrained 40959].all
      Instr.wf) = true := by decide +kernel
theorem test_wf_sessions :
    ([Instr.ethFrame { frameOf .arp 0 0 with vid := 4096 }, .ethFrame (frameOf .arp 8 0), .ethFrame { frameOf .arp 0 0 with bytes := 65536 }, .send (2 ^ 24) 0 [],
      .send 0 (2 ^ 24) [], .rdmaWrite (2 ^ 24) 0 0 0 [], .rdmaWrite 0 (2 ^ 24) 0 0 [], .rdmaRead 0 0 (2 ^ 32) 0 1, .rdmaRead 0 0 0 (2 ^ 64) 1, .roceAck (2 ^ 24) (.ack 0),
      .roceRateStep 1024, .tcpConnect (2 ^ 128), .sesTimeout 4, .openHello 4 0 0 (List.replicate 32 0),
      .openHello 0 (2 ^ 32) 0 (List.replicate 32 0), .openHello 0 0 256 (List.replicate 32 0), .openHello 0 0 0 [], .openProof 0 0 [], .sesLockEnd 8, .close 4 0,
      .ctlRead 0 0 (2 ^ 64) 1, .ctlRead 0 0 0 (2 ^ 32), .ctlWrite 0 0 (2 ^ 64) 0, .memRead 0 0 (2 ^ 64) 1 {}, .memWrite 4 0 0 [] {}, .planLoad 0 0 (2 ^ 64) 0 0 {},
      .planLoad 0 0 0 (2 ^ 64) 0 {}, .planLoad 0 0 0 0 256 {}, .planLoad 0 0 0 0 1 { nodes := [⟨0, 0, 0, false, .forward, 0, 16, 0, none, 0, [], [], none⟩] }, .stepRun 0 0 (2 ^ 32), .svcConfig 4 0 [], .attReport 0 0 [], .qpClose 0 0 (2 ^ 16),
      .eventSubscribe 0 0 (2 ^ 32), .sesOpcode 0 0 (2 ^ 16) 0 0, .keyClear 0 0 256, .netSet 0 0 (2 ^ 64), .fwActivate 0 0 256, .rack 0 0 (2 ^ 16), .reset 0 0 256 0,
      .reset 0 0 0 (2 ^ 16), .logRead 0 0 (2 ^ 32) 1, .bistRun 0 0 (2 ^ 16) 1, .bistRun 0 0 0 256].any Instr.wf) = false ∧
    ([Instr.openHello 3 5 7 (List.replicate 32 0), .ctlRead 0 0 0 512, .planLoad 0 0 0 0 255 {}, .rdmaRead 0x105 7 9 11 1, .rack 3 0 65535, .bistRun 0 0 4096 255].all Instr.wf) = true := by
  decide +kernel
theorem test_wf_module :
    ([Instr.cwrRow 0 0 0 [] 9, .envelopePeriod 1025, .resetTile (2 ^ 16), .pwrThermalTrip (2 ^ 16) true, .pwrExtTherm 4, .droopTrip true 32,
      .droopRecover false 64, .hkcScan [] 0, .domainSwitchDone 112, .bootStageSelftest (some (2 ^ 16, 0)), .bootStageUncore (some (2 ^ 16)), .bootStageCask [32] [],
      .bootStageCask [] [(2 ^ 17, ⟨0, true, 0, 0, 0⟩)], .bootStageOptical [8]].any Instr.wf) = false ∧
    ([Instr.stepEnd, .cwrRow 0 0 0 [] 8, .envelopePeriod 1024, .resetTile 65535, .pwrExtTherm 3, .droopTrip true 31, .droopTrip false 63, .hkcScan (List.replicate 64 0) 0, .domainSwitchDone 111,
      .bootStageSelftest none, .bootStageOptical [7], .insertedDutySlot 15].all Instr.wf) = true := by decide +kernel

end Sys2Proof.Tests
end

/-!
PROOFS. Scope and conventions (00_scope.md): accesses to the control space by access type (R13, R14), refused accesses (R38), and the
module at power-on (R16).
-/

namespace Sys2Proof

/-! ### The bits of a field -/

theorem testBit_fieldOf (w : W64) (hi lo i : Nat) :
    (fieldOf w hi lo).testBit i = (decide (i < hi + 1 - lo) && w.getLsbD (lo + i)) := by
  rw [fieldOf, Nat.testBit_mod_two_pow, Nat.testBit_div_two_pow, Nat.add_comm i lo, BitVec.testBit_toNat]

namespace Machine

variable (s : State)

/-! ### Words merged under a mask -/

/-- The mask of all bits in the form to which `simp` evaluates `~~~0`. -/
@[simp] theorem and_ones (w : W64) : w &&& 0xFFFFFFFFFFFFFFFF#64 = w := BitVec.and_allOnes

@[simp] theorem mergeBits_zero (old new : W64) : mergeBits 0#64 old new = old := by simp [mergeBits]

/-- A field that the mask covers whole is that of the new word. -/
theorem fieldOf_mergeBits {mask : W64} {hi lo : Nat} (h : fieldOf mask hi lo = 2 ^ (hi + 1 - lo) - 1) (old new : W64) :
    fieldOf (mergeBits mask old new) hi lo = fieldOf new hi lo := by
  refine Nat.eq_of_testBit_eq fun i => ?_
  have hbit := congrArg (·.testBit i) h
  simp only [testBit_fieldOf, Nat.testBit_two_pow_sub_one] at hbit ⊢
  by_cases hi' : i < hi + 1 - lo
  · have hm : mask.getLsbD (lo + i) = true := by simpa [hi'] using hbit
    simp [mergeBits, hm, BitVec.lt_of_getLsbD hm, -BitVec.getLsbD_eq_getElem]
  · simp [hi']

/-! ### Writes by access type (R13, R14) -/

@[simp] theorem State.word_setStaged (a x : Nat) (v : W64) : (s.setStaged a v).word x = s.word x := rfl

/-- A word in force replaced by itself changes no word in force. -/
theorem State.word_setWord_self (a x : Nat) : (s.setWord a (s.word a)).word x = s.word x := by
  by_cases h : x = a <;> simp [h]

/-- A word in force replaced by itself changes no staged copy. -/
theorem State.stagedWord_setWord_self (a x : Nat) : (s.setWord a (s.word a)).stagedWord x = s.stagedWord x :=
  smGet_congr _ _ _ _ (s.word_setWord_self a x)

section
variable {a : Nat} (hw1c : bitsOf a [.w1c] = 0) (hctr : bitsOf a [.ctr] = 0) (v ev : W64)
include hw1c hctr

/-- A write to a register of RW fields alone puts them in force. -/
theorem State.writeFields_rw (hst : bitsOf a [.st] = 0) :
    s.writeFields a v ev = s.setWord a (mergeBits (bitsOf a [.rw]) (s.word a) v) := by
  simp [State.writeFields, hw1c, hctr, hst]

/-- A write to a register of ST fields alone reaches the staged copy and leaves the word in force. -/
theorem State.writeFields_st (hrw : bitsOf a [.rw] = 0) (hst : bitsOf a [.st] ≠ 0) :
    s.writeFields a v ev = (s.setWord a (s.word a)).setStaged a (mergeBits (bitsOf a [.st]) (s.stagedWord a) v) := by
  simp [State.writeFields, hw1c, hctr, hrw, show bitsOf a [.st] ≠ 0#64 from hst]

end

/-! ### Accesses that R38 lets pass -/

section
variable {s} {a : Nat} {b : Block} {i : Nat} (hb : blockAt a = some (b, i)) (ha : a % 8 = 0)
  (hd : ∀ d, blockDomain b.pfx i = some d → s.domainOn d = true)
include hb ha hd

/-- An aligned access of 8 bytes to a mapped register whose domain is on is not refused. -/
theorem State.accessRefusal_eq_none : s.accessRefusal a 8 = none := by
  have hoff : ((blockDomain b.pfx i).elim false fun d => !s.domainOn d) = false := by
    cases hdom : blockDomain b.pfx i with
    | none => rfl
    | some d => simp [hd d hdom]
  simp [State.accessRefusal, ha, hb, hoff]

/-- A write to a register that is no COMMIT and no command goes by access type. -/
theorem State.registerWrite_eq_writePlain {v : W64} (ho : (a - b.base) % 0x1000 ≠ 0xFF0)
    (hcmd : s.writeOf b.pfx i ((a - b.base) % 0x1000) v = none) (g : Agent) (ev : W64) :
    s.registerWrite g a 8 v ev = s.writePlain a v ev := by
  simp [State.registerWrite, State.accessRefusal_eq_none hb ha hd, State.writeWord, hb, ho, hcmd]

theorem State.readAccess_eq_readClears (g : Agent) (ev : W64) : s.readAccess g a 8 ev = s.readClears a ev := by
  simp [State.readAccess, State.accessRefusal_eq_none hb ha hd]

end

/-- A read of a word whose bits are all RC leaves what an event set in that cycle. -/
theorem State.readClears_all {a : Nat} (h : bitsOf a [.rc] = BitVec.allOnes 64) (ev : W64) : s.readClears a ev = s.setWord a ev := by
  simp [State.readClears, h]

/-! ### Refused accesses (R38) -/

theorem State.ctlRefuse_frame (code addr : Nat) : ∃ c, s.ctlRefuse code addr = { s with ctl := c } := by
  obtain ⟨c, hc⟩ := s.set_frame .blendCtlErrCode 0 0 code
  obtain ⟨d, hd⟩ := (s.set .blendCtlErrCode 0 0 code).set_frame .blendCtlErrAddress 0 0 addr
  exact ⟨d, by rw [State.ctlRefuse, hd, hc]⟩

theorem State.get_code_ctlRefuse (code addr : Nat) : (s.ctlRefuse code addr).get .blendCtlErrCode = code % 2 ^ 16 := by
  rw [State.ctlRefuse, State.get_set_apart _ .blendCtlErrAddress .blendCtlErrCode _ _ _ _ _ rfl (by decide) (by decide) (by decide)
    (by decide), State.get_set_self _ _ _ _ _ (by decide) (by decide)]
  rfl

theorem State.get_address_ctlRefuse (code addr : Nat) : (s.ctlRefuse code addr).get .blendCtlErrAddress = addr % 2 ^ 48 :=
  State.get_set_self _ _ _ _ _ (by decide) (by decide)

theorem State.word_ctlRefuse_ne (code addr : Nat) {x : Nat} (h : x ≠ Fld.blendCtlErrCode.addr 0 0) :
    (s.ctlRefuse code addr).word x = s.word x := by
  rw [State.ctlRefuse, State.word_set, if_neg (show ¬ x = Fld.blendCtlErrAddress.addr 0 0 from h), State.word_set, if_neg h]

@[simp] theorem State.refuseAccess_ctl (g : Agent) (code addr : Nat) : (s.refuseAccess g code addr).ctl = (s.ctlRefuse code addr).ctl := by
  cases g <;> rfl

theorem State.word_refuseAccess (g : Agent) (code addr x : Nat) :
    (s.refuseAccess g code addr).word x = (s.ctlRefuse code addr).word x := by
  rw [State.word, State.refuseAccess_ctl, State.word]

theorem State.get_refuseAccess (g : Agent) (code addr : Nat) (f : Fld) (i j : Nat) :
    (s.refuseAccess g code addr).get f i j = (s.ctlRefuse code addr).get f i j := by
  rw [State.get, State.word_refuseAccess, State.get]

/-- A refused access touches the registers, and what is handed out for a core's access fault. -/
theorem State.refuseAccess_frame (g : Agent) (code addr : Nat) :
    s.refuseAccess g code addr = { s with ctl := (s.refuseAccess g code addr).ctl, out := (s.refuseAccess g code addr).out } := by
  obtain ⟨c, hc⟩ := s.ctlRefuse_frame code addr
  cases g <;> simp only [State.refuseAccess, hc]

theorem State.accessRefusal_size {n : Nat} (h : n ≠ 8) (addr : Nat) : s.accessRefusal addr n = some Code.ctlAccessSize := by
  simp [State.accessRefusal, h]

/-! ### Register commands, as the dispatch gives them -/

theorem exec_registerWrite {t : State} {g : Agent} {a n : Nat} {v ev : W64} (h : s.registerWrite g a n v ev = t) :
    exec (.registerWrite g a n v ev) s = .next t := congrArg _ h

theorem exec_rcRegisterRead {t : State} {g : Agent} {a n : Nat} {ev : W64} (h : s.readAccess g a n ev = t) :
    exec (.rcRegisterRead g a n ev) s = .next t := congrArg _ h

/-! ### Reset words (R16) -/

theorem mem_fields_of_mem_fieldsAt {a : Nat} {e : Fld × Nat × Nat} (he : e ∈ fieldsAt a) {b : Block} {i : Nat}
    (hb : blockAt a = some (b, i)) : e.1 ∈ b.fields := by
  simp only [fieldsAt, hb, List.mem_filterMap] at he
  obtain ⟨f, hf, hfe⟩ := he
  split_ifs at hfe <;> cases hfe <;> exact hf

theorem resetWord_eq_zero {a : Nat} (h : ∀ e ∈ fieldsAt a, e.1.reset = 0) : resetWord a = 0 := by
  have hsum : (fieldsAt a).foldl (fun w e => w + e.1.reset * 2 ^ e.1.lo) 0 = 0 :=
    List.foldlRecOn (motive := (· = 0)) _ _ rfl fun w hw e he => by simp [hw, h e he]
  rw [resetWord, hsum]
  rfl

theorem blockAt_cap {a : Nat} (hlo : 0x1000 ≤ a) (hhi : a < 0x2000) : blockAt a = some (blockOf .cap, 0) := by
  have hblend : ¬ a < 0x1000 := by omega
  have hinst : (a - 0x1000) / 0x1000 = 0 := by omega
  simp [blockAt, allPfx, blockOf, hblend, hlo, hhi, hinst]

theorem capAddrs_bounds {a : Nat} (ha : a ∈ capAddrs) : 0x1000 ≤ a ∧ a < 0x2000 := by
  simp only [capAddrs, List.mem_append, List.mem_map, List.mem_range] at ha
  obtain (⟨i, hi, rfl⟩ | ⟨t, ht, rfl⟩) | ⟨d, hd, rfl⟩ := ha <;> omega

theorem fieldsCap_reset : ∀ f ∈ fieldsCap, f.reset = 0 := by decide

/-- Every CAP word reads 0 at reset (R45). -/
theorem resetWord_capAddrs {a : Nat} (ha : a ∈ capAddrs) : resetWord a = 0 := by
  obtain ⟨hlo, hhi⟩ := capAddrs_bounds ha
  exact resetWord_eq_zero fun e he => fieldsCap_reset e.1 (mem_fields_of_mem_fieldsAt he (blockAt_cap hlo hhi))

/-! ### One register of each access type -/

theorem blockAt_quiesceTimeout : blockAt (Fld.blendQuiesceTimeoutMs.addr 0 0) = some (blockOf .blend, 0) := by decide
theorem blockAt_ctlErr : blockAt (Fld.blendCtlErrCode.addr 0 0) = some (blockOf .blend, 0) := by decide
theorem blockAt_sesCtl : blockAt (Fld.sesCtlPort.addr 0 0) = some (blockOf .ses, 0) := by decide

/-- BLEND_QUIESCE_TIMEOUT takes a value of its range at once (R53). -/
theorem State.registerWrite_quiesceTimeout (g : Agent) (v : W64) (hlo : 1 ≤ fieldOf v 13 0) (hhi : fieldOf v 13 0 ≤ 10000) :
    s.registerWrite g (Fld.blendQuiesceTimeoutMs.addr 0 0) 8 v 0 =
      s.setWord (Fld.blendQuiesceTimeoutMs.addr 0 0)
        (mergeBits (bitsOf (Fld.blendQuiesceTimeoutMs.addr 0 0) [.rw]) (s.word (Fld.blendQuiesceTimeoutMs.addr 0 0)) v) := by
  have hrange : ¬ (fieldOf v 13 0 = 0 ∨ 10000 < fieldOf v 13 0) := by omega
  have hsync : ¬ 0x180000 ≤ Fld.blendQuiesceTimeoutMs.addr 0 0 := by decide
  rw [State.registerWrite_eq_writePlain blockAt_quiesceTimeout (by decide) (by simp [blockDomain, blockOf]) (by decide) rfl,
    State.writePlain, if_neg fun h => hrange h.2, if_neg fun h => hsync h.1]
  exact s.writeFields_rw (by decide) (by decide) v 0 (by decide)

/-- SES_CTL takes a write in its staged copy alone while the service domain is on (R13, R38). -/
theorem State.registerWrite_sesCtl (g : Agent) (v : W64) (hon : s.domainOn domService = true) :
    s.registerWrite g (Fld.sesCtlPort.addr 0 0) 8 v 0 =
      (s.setWord (Fld.sesCtlPort.addr 0 0) (s.word (Fld.sesCtlPort.addr 0 0))).setStaged (Fld.sesCtlPort.addr 0 0)
        (mergeBits (bitsOf (Fld.sesCtlPort.addr 0 0) [.st]) (s.stagedWord (Fld.sesCtlPort.addr 0 0)) v) := by
  have hquiesce : Fld.sesCtlPort.addr 0 0 ≠ Fld.blendQuiesceTimeoutMs.addr 0 0 := by decide
  have hsync : ¬ 0x180000 ≤ Fld.sesCtlPort.addr 0 0 := by decide
  rw [State.registerWrite_eq_writePlain blockAt_sesCtl (by decide) (by simpa [blockDomain, blockOf] using hon) (by decide) rfl,
    State.writePlain, if_neg fun h => hquiesce h.1, if_neg fun h => hsync h.1]
  exact s.writeFields_st (by decide) (by decide) v 0 (by decide) (by decide)

/-- A read of BLEND_CTL_ERR leaves the bits that an event sets in that cycle (R14). -/
theorem State.readAccess_ctlErr (g : Agent) (ev : W64) :
    s.readAccess g (Fld.blendCtlErrCode.addr 0 0) 8 ev = s.setWord (Fld.blendCtlErrCode.addr 0 0) ev := by
  rw [State.readAccess_eq_readClears blockAt_ctlErr (by decide) (by simp [blockDomain, blockOf])]
  exact s.readClears_all (by decide) ev

end Machine

end Sys2Proof

section

open Sys2Proof Sys2Proof.Machine

/-- Settles O2: each access is reduced to the one word it replaces, by the rules above for RW, ST and RC registers and for refusals. -/
theorem registerAccesses : Obligations.RegisterAccesses := by
  refine ⟨fun s a v hlo hhi => ?_, fun s a v hon => ?_, fun s a ev => ?_, fun s a x n v ev hn => ?_⟩
  · refine ⟨_, exec_registerWrite s (s.registerWrite_quiesceTimeout a v hlo hhi), rfl, ?_, fun x hx => ?_⟩
    · rw [State.get, State.word_setWord, if_pos rfl]
      exact fieldOf_mergeBits (by decide) _ _
    · rw [State.word_setWord, if_neg hx]
  · refine ⟨_, exec_registerWrite s (s.registerWrite_sesCtl a v hon), rfl, fun x => ?_, ?_, fun x hx => ?_⟩
    · rw [State.word_setStaged, State.word_setWord_self]
    · rw [State.stagedWord_setStaged, if_pos rfl]
      exact fieldOf_mergeBits (by decide) _ _
    · rw [State.stagedWord_setStaged, if_neg hx, State.stagedWord_setWord_self]
  · refine ⟨_, exec_rcRegisterRead s (s.readAccess_ctlErr a ev), rfl, ?_, fun x hx => ?_⟩
    · rw [State.word_setWord, if_pos rfl]
    · rw [State.word_setWord, if_neg hx]
  · have hsize := s.accessRefusal_size hn x
    have hwrite : s.registerWrite a x n v ev = s.refuseAccess a Code.ctlAccessSize x := by simp only [State.registerWrite, hsize]
    have hread : s.readAccess a x n ev = s.refuseAccess a Code.ctlAccessSize x := by simp only [State.readAccess, hsize]
    refine ⟨_, _, exec_registerWrite s hwrite, exec_rcRegisterRead s hread, rfl, s.refuseAccess_frame a _ x, ?_, ?_, fun y hy => ?_⟩
    · rw [State.get_refuseAccess, State.get_code_ctlRefuse]
      rfl
    · rw [State.get_refuseAccess, State.get_address_ctlRefuse]
    · rw [State.word_refuseAccess, State.word_ctlRefuse_ne _ _ _ hy]

/-- Settles O59: the stores of the reset state list nothing, so each word is its default, and no CAP field has a Reset value but 0. -/
theorem resetState : Obligations.ResetState := by
  have hcap : ∀ a ∈ capAddrs, State.reset.word a = 0 := fun a ha => resetWord_capAddrs ha
  exact ⟨rfl, rfl, rfl, rfl, rfl, fun a => ⟨rfl, rfl⟩, hcap, rfl, rfl, fun l => rfl, rfl, State.reset_mem_wf⟩

end

section
/-!
PROOFS. O60: no operation of the model touches the queue, and every one of them that writes memory keeps its form. A lemma `Kept.f` for
each operation `f`, in the model's order, each from those of the operations that `f` is made of; then the commands, and the step.
-/

namespace Sys2Proof.Machine

/-- `Keeps`, read as a fact about `t` that the next operation on `t` carries on: `Kept.f` says so of the operation `f`. -/
@[irreducible] def Kept (s t : State) : Prop := Keeps s t

section
variable {s₀ s : State}

theorem Kept.refl (s : State) : Kept s s := by
  unfold Kept
  exact .refl s

theorem Kept.then {u : State} (hs : Kept s₀ s) (k : Keeps s u) : Kept s₀ u := by
  unfold Kept at *
  exact hs.trans k

theorem Kept.ite {a b : State} {c : Prop} [Decidable c] (ha : Kept s₀ a) (hb : Kept s₀ b) : Kept s₀ (if c then a else b) := by
  split <;> assumption

theorem Kept.elim {α : Type} {o : Option α} {f : α → State} (hs : Kept s₀ s) (hf : ∀ x, Kept s₀ (f x)) : Kept s₀ (o.elim s f) := by
  cases o with
  | none => exact hs
  | some x => exact hf x

theorem Kept.foldl {α : Type} {f : State → α → State} {xs : List α} (hs : Kept s₀ s) (k : ∀ u x, Kept s₀ u → Kept s₀ (f u x)) :
    Kept s₀ (xs.foldl f s) := by
  induction xs generalizing s with
  | nil => exact hs
  | cons x xs ih => exact ih (k _ _ hs)

theorem Kept.foldl_fst {α β : Type} {f : State × β → α → State × β} {xs : List α} {a : State × β} (h : Kept s₀ a.1)
    (k : ∀ u x, Kept s₀ u.1 → Kept s₀ (f u x).1) : Kept s₀ (xs.foldl f a).1 := by
  induction xs generalizing a with
  | nil => exact h
  | cons x xs ih => exact ih (k _ _ h)

theorem Kept.ite_fst {β : Type} {a b : State × β} {c : Prop} [Decidable c] (ha : Kept s₀ a.1) (hb : Kept s₀ b.1) :
    Kept s₀ (if c then a else b).1 := by
  split <;> assumption

theorem Kept.pair {β : Type} {b : β} (hs : Kept s₀ s) : Kept s₀ (s, b).1 := hs

/-- An update of any fields but the queue and memory. -/
theorem Kept.upd {free ctl staged captured checking blend ctxs ctxCmds requests abandoned nextTag tiles cores ctrs transit dies layers cells
    scales passSeq ringSeq links engines delivered frames buckets openSeqs parked earlyAborts abortsSent digests qps prioShare pausedPrio
    pauseSent sessions slotFails slotLocked turns out sent svc power hkc rel journal boot pins} (hs : Kept s₀ s) :
    Kept s₀ ⟨s.pending, free, ctl, staged, captured, checking, blend, s.mem, ctxs, ctxCmds, requests, abandoned, nextTag, tiles, cores,
      ctrs, transit, dies, layers, cells, scales, passSeq, ringSeq, links, engines, delivered, frames, buckets, openSeqs, parked,
      earlyAborts, abortsSent, digests, qps, prioShare, pausedPrio, pauseSent, sessions, slotFails, slotLocked, turns, out, sent, svc,
      power, hkc, rel, journal, boot, pins⟩ := hs.then (.of_eq rfl rfl)

/-- Poison marked or cleared: memory keeps its entries. -/
theorem Kept.marked {bs} (hs : Kept s₀ s) : Kept s₀ { s with mem := { s.mem with poisoned := bs } } := hs.then ⟨rfl, id⟩

theorem Kept.keeps (hs : Kept s₀ s) : Keeps s₀ s := by
  unfold Kept at hs
  exact hs

theorem Kept.after {u : State} (k : Kept s u) (hs : Kept s₀ s) : Kept s₀ u := hs.then k.keeps

/-! ### Registers -/

theorem Kept.setWord {a v} (hs : Kept s₀ s) : Kept s₀ (s.setWord a v) := .upd hs
theorem Kept.set {f i j v} (hs : Kept s₀ s) : Kept s₀ (s.set f i j v) := .setWord hs
theorem Kept.bump {f i j n} (hs : Kept s₀ s) : Kept s₀ (s.bump f i j n) := .setWord hs
theorem Kept.setStaged {a v} (hs : Kept s₀ s) : Kept s₀ (s.setStaged a v) := .upd hs
theorem Kept.clearCounters {base} (hs : Kept s₀ s) : Kept s₀ (s.clearCounters base) := .upd hs
theorem Kept.resetFields {base} (hs : Kept s₀ s) : Kept s₀ (s.resetFields base) := .upd hs
theorem Kept.resetBlock {base} (hs : Kept s₀ s) : Kept s₀ (s.resetBlock base) := .upd hs
theorem Kept.tick (hs : Kept s₀ s) : Kept s₀ s.tick := .upd hs
theorem Kept.setTile {t x} (hs : Kept s₀ s) : Kept s₀ (s.setTile t x) := .upd hs
theorem Kept.setCore {t c x} (hs : Kept s₀ s) : Kept s₀ (s.setCore t c x) := .upd hs
theorem Kept.setCtr {id x} (hs : Kept s₀ s) : Kept s₀ (s.setCtr id x) := .upd hs
theorem Kept.setDie {d x} (hs : Kept s₀ s) : Kept s₀ (s.setDie d x) := .upd hs
theorem Kept.setLink {l x} (hs : Kept s₀ s) : Kept s₀ (s.setLink l x) := .upd hs
theorem Kept.setEngine {e x} (hs : Kept s₀ s) : Kept s₀ (s.setEngine e x) := .upd hs
theorem Kept.setCtx {c x} (hs : Kept s₀ s) : Kept s₀ (s.setCtx c x) := .upd hs
theorem Kept.setSession {n x} (hs : Kept s₀ s) : Kept s₀ (s.setSession n x) := .upd hs
theorem Kept.setQp {n x} (hs : Kept s₀ s) : Kept s₀ (s.setQp n x) := .upd hs
theorem Kept.setLayer {k x} (hs : Kept s₀ s) : Kept s₀ (s.setLayer k x) := .upd hs
theorem Kept.setOp {t slot o} (hs : Kept s₀ s) : Kept s₀ (s.setOp t slot o) := .setTile hs

/-! ### Memory -/

theorem Kept.writeBytes {a bs} (hs : Kept s₀ s) : Kept s₀ (s.writeBytes a bs) := hs.then (.writeBytes s a bs)
theorem Kept.lose {k} (hs : Kept s₀ s) : Kept s₀ (s.lose k) := hs.then (.lose s k)

theorem Kept.noteMemErr {code a} (hs : Kept s₀ s) : Kept s₀ (s.noteMemErr code a) := by
  unfold State.noteMemErr
  split
  · exact hs
  · exact .set (.set (.set (.bump hs)))

theorem Kept.noteErr {e} (hs : Kept s₀ s) : Kept s₀ (s.noteErr e) := hs.then (.noteErr s e)

theorem Kept.noteCe {a} (hs : Kept s₀ s) : Kept s₀ (s.noteCe a) := by
  unfold State.noteCe
  split
  · exact .bump hs
  · exact .bump hs
  · split
    · exact .bump hs
    · exact hs
  · exact hs

theorem Kept.corrected {ce} (hs : Kept s₀ s) : Kept s₀ (s.corrected ce) := .foldl hs fun _ _ h => .noteCe h

theorem Kept.store {t c a n v} (hs : Kept s₀ s) : Kept s₀ (s.store t c a n v) := by
  unfold State.store
  extract_lets s1
  have hs1 : Kept s₀ s1 := .writeBytes hs
  exact .upd hs1

/-! ### What an operation reads and leaves -/

theorem Kept.event {kind code arg0 arg1} (hs : Kept s₀ s) : Kept s₀ (s.event kind code arg0 arg1) := .upd hs
theorem Kept.alertOut (hs : Kept s₀ s) : Kept s₀ s.alertOut := .upd hs
theorem Kept.logCode {code unit a} (hs : Kept s₀ s) : Kept s₀ (s.logCode code unit a) := hs.then (.logCode s code unit a)
theorem Kept.alarm {code unit a} (hs : Kept s₀ s) : Kept s₀ (s.alarm code unit a) := .logCode hs
theorem Kept.signalTo {id delta} (hs : Kept s₀ s) : Kept s₀ (s.signalTo id delta).1 := hs.then (.signalTo s id delta)
theorem Kept.signalService {n} (hs : Kept s₀ s) : Kept s₀ (s.signalService n) := hs.then (.signalService s n)
theorem Kept.sendSignals {d} (hs : Kept s₀ s) : Kept s₀ (s.sendSignals d).1 := hs.then (.sendSignals s d)

theorem Kept.misuse {id device unit code} (hs : Kept s₀ s) : Kept s₀ (s.misuse id device unit code) :=
  .ite hs (.set (.set (.set (.set (.setCtr hs)))))

theorem Kept.consume {id thresh c} (hs : Kept s₀ s) : Kept s₀ (s.consume id thresh c) := .ite (.setCtr hs) hs
theorem Kept.haltQueue {t q code seq h} (hs : Kept s₀ s) : Kept s₀ (s.haltQueue t q code seq h) := hs.then (.haltQueue s t q code seq h)
theorem Kept.haltSignal {t q} (hs : Kept s₀ s) : Kept s₀ (s.haltSignal t q) := hs.then (.haltSignal s t q)
theorem Kept.raiseFlags {t fl} (hs : Kept s₀ s) : Kept s₀ (s.raiseFlags t fl) := .setWord hs

theorem Kept.failOp {ue t slot code detail keep} (hs : Kept s₀ s) : Kept s₀ (s.failOp ue t slot code detail keep) :=
  hs.then (.failOp s ue t slot code detail keep)

theorem Kept.completeOp {ue t slot} (hs : Kept s₀ s) : Kept s₀ (s.completeOp ue t slot) := hs.then (.completeOp s ue t slot)
theorem Kept.leave {t q slot o u} (hs : Kept s₀ s) : Kept s₀ (s.leave t q slot o u).1 := hs.then (.leave s t q slot o u)
theorem Kept.modOp {t slot f} (hs : Kept s₀ s) : Kept s₀ (s.modOp t slot f) := hs.then (.modOp s t slot f)

theorem Kept.tileFault {t code slot d array quads lanes pc} (hs : Kept s₀ s) : Kept s₀ (s.tileFault t code slot d array quads lanes pc) :=
  .setWord (.setWord hs)

/-! ### Operation queues -/

theorem Kept.ctlRefuse {code addr} (hs : Kept s₀ s) : Kept s₀ (s.ctlRefuse code addr) := .set (.set hs)
theorem Kept.pushErr {t q code v} (hs : Kept s₀ s) : Kept s₀ (s.pushErr t q code v) := .set (.set (.set hs))

theorem Kept.tailWrite {t q v} (hs : Kept s₀ s) : Kept s₀ (s.tailWrite t q v) := by
  unfold State.tailWrite
  split
  · exact .ctlRefuse hs
  · split
    · exact .bump (.pushErr hs)
    · exact .set hs

theorem Kept.noteMisuse {t code detail} (hs : Kept s₀ s) : Kept s₀ (s.noteMisuse t code detail) := .ite (.misuse hs) hs

theorem Kept.fetchInto {ue t q slot d r} (hs : Kept s₀ s) : Kept s₀ (s.fetchInto ue t q slot d r) := by
  unfold State.fetchInto
  extract_lets _ _ _ _ s1 s2
  have hs1 : Kept s₀ s1 := .setTile hs
  have hs2 : Kept s₀ s2 := .set hs1
  split
  · exact hs2
  · exact .failOp (.noteMisuse hs2)

theorem Kept.fetch {t ue} (hs : Kept s₀ s) : Kept s₀ (s.fetch t ue) := by
  unfold State.fetch
  split
  · extract_lets
    split
    · exact .fetchInto (.noteErr hs)
    · exact .fetchInto hs
  · exact hs

theorem Kept.countDone {t o} (hs : Kept s₀ s) : Kept s₀ (s.countDone t o) := by
  unfold State.countDone
  split
  · exact .bump hs
  · exact .bump hs
  · exact .bump hs
  · exact hs

theorem Kept.detach {t slot} (hs : Kept s₀ s) : Kept s₀ (s.detach t slot) := .upd hs

theorem Kept.opComplete {t slot ue} (hs : Kept s₀ s) : Kept s₀ (s.opComplete t slot ue) := by
  unfold State.opComplete
  split
  · exact hs
  · split
    · exact hs
    · split
      · exact .ite hs (.countDone (.completeOp hs))
      · exact .ite hs (.detach (.failOp hs))
      · exact hs

theorem Kept.unhalt {t q} (hs : Kept s₀ s) : Kept s₀ (s.unhalt t q) := .setTile hs

theorem Kept.resumeQueue {t q} (hs : Kept s₀ s) : Kept s₀ (s.resumeQueue t q) := by
  unfold State.resumeQueue
  split
  · exact .unhalt (.set (.setOp hs))
  · exact .unhalt hs
  · exact hs

theorem Kept.skipQueue {t q signal} (hs : Kept s₀ s) : Kept s₀ (s.skipQueue t q signal) := by
  unfold State.skipQueue
  split
  · extract_lets _ s1
    have hs1 : Kept s₀ s1 := .set (.setOp hs)
    exact .unhalt (.ite (.sendSignals hs1) hs1)
  · exact .unhalt (.ite (.sendSignals hs) hs)
  · exact hs

theorem Kept.discardQueue {t q} (hs : Kept s₀ s) : Kept s₀ (s.discardQueue t q) := .set (.set (.setTile hs))
theorem Kept.flushQueue {t q} (hs : Kept s₀ s) : Kept s₀ (s.flushQueue t q) := .ite hs (.unhalt (.discardQueue hs))

theorem Kept.queueCmd {t q cmd} (hs : Kept s₀ s) : Kept s₀ (s.queueCmd t q cmd) := by
  unfold State.queueCmd
  split
  · exact hs
  · split
    · exact .flushQueue hs
    · split
      · exact .pushErr hs
      · split
        · exact .pushErr hs
        · exact .ite (.resumeQueue hs) (.skipQueue hs)

theorem Kept.opqCmdOn {t o f} (hs : Kept s₀ s) (hf : ∀ u, Kept s₀ u → Kept s₀ (f u)) : Kept s₀ (s.opqCmdOn t o f) :=
  .ite (hf _ hs) (.ctlRefuse hs)

theorem Kept.queueCmdOn {t q cmd} (hs : Kept s₀ s) : Kept s₀ (s.queueCmdOn t q cmd) := .opqCmdOn hs (fun _ h => .queueCmd h)
theorem Kept.poisonCounters {t clear} (hs : Kept s₀ s) : Kept s₀ (s.poisonCounters t clear) := .foldl hs fun _ _ h => .setCtr h

theorem Kept.stopCores {t only} (hs : Kept s₀ s) : Kept s₀ (s.stopCores t only) := by
  unfold State.stopCores
  extract_lets _ s1
  have hs1 : Kept s₀ s1 := .foldl hs fun _ _ h => .ite (.setCore h) h
  exact .ite (.setTile hs1) hs1

theorem Kept.dropPasses {t} (hs : Kept s₀ s) : Kept s₀ (s.dropPasses t) := .upd hs
theorem Kept.orphanBuckets {t} (hs : Kept s₀ s) : Kept s₀ (s.orphanBuckets t) := .upd hs

theorem Kept.preemptGo {t} (hs : Kept s₀ s) : Kept s₀ (s.preemptGo t) :=
  .ite hs (.poisonCounters (.orphanBuckets (.dropPasses (.stopCores (.foldl (.setTile hs) fun _ _ h => .set (.unhalt (.discardQueue h)))))))

theorem Kept.preemptDone {t} (hs : Kept s₀ s) : Kept s₀ (s.preemptDone t) := .ite (.set (.setTile hs)) hs
theorem Kept.preemptRelease {t} (hs : Kept s₀ s) : Kept s₀ (s.preemptRelease t) := .ite (.set (.setTile hs)) hs

/-! ### Matrix operations -/

theorem Kept.faultInfo {t addr core cause} (hs : Kept s₀ s) : Kept s₀ (s.faultInfo t addr core cause) := .set (.set (.set hs))

theorem Kept.opErr {t slot e} (hs : Kept s₀ s) : Kept s₀ (s.opErr t slot e) := by
  unfold State.opErr
  extract_lets s1 s2
  have hs1 : Kept s₀ s1 := .noteErr hs
  have hs2 : Kept s₀ s2 := by
    dsimp only [s2]
    split
    · exact .tileFault (.faultInfo hs1)
    · exact hs1
  exact .modOp hs2

theorem Kept.storeRow {t o md i xs} (hs : Kept s₀ s) : Kept s₀ (s.storeRow t o md i xs).1 := .writeBytes (.writeBytes hs)
theorem Kept.storeSlots {t b i xs} (hs : Kept s₀ s) : Kept s₀ (s.storeSlots t b i xs) := .foldl hs fun _ _ h => .writeBytes h

theorem Kept.deliverRow {t o md acc i xs} (hs : Kept s₀ acc.1) : Kept s₀ (s.deliverRow t o md acc i xs).1 := by
  unfold State.deliverRow
  extract_lets _ s1
  have hs1 : Kept s₀ s1 := .ite (.storeSlots hs) (.ite (.storeSlots hs) hs)
  exact .ite_fst (.storeRow hs1) hs1

theorem Kept.matrixRun {t slot o} (hs : Kept s₀ s) : Kept s₀ (s.matrixRun t slot o) := by
  unfold State.matrixRun
  extract_lets _ _ _ r
  have hr : Kept s₀ r.1 := .foldl_fst hs fun _ _ h => .deliverRow h
  exact .modOp (.bump (.raiseFlags (.upd hr)))

theorem Kept.matrixOp {t q ue} (hs : Kept s₀ s) : Kept s₀ (s.matrixOp t q ue) := by
  unfold State.matrixOp
  split
  · exact hs
  · extract_lets r _ _ s1
    have hr : Kept s₀ r.1 := .leave hs
    have hs1 : Kept s₀ s1 := .setOp hr
    split
    · exact .modOp hs1
    · split
      · exact .opErr hs1
      · exact .matrixRun hs1

theorem Kept.poisonElem {t b i j} (hs : Kept s₀ s) : Kept s₀ (s.poisonElem t b i j) := by
  unfold State.poisonElem
  split
  · exact hs
  · exact .ite (.writeBytes hs) (.writeBytes hs)

theorem Kept.poisonOutputs {t b cols} (hs : Kept s₀ s) : Kept s₀ (s.poisonOutputs t b cols) := by
  unfold State.poisonOutputs
  refine .foldl hs fun u x h => ?_
  refine .foldl h fun u x h => ?_
  extract_lets s1
  have hs1 : Kept s₀ s1 := .ite (.poisonElem h) h
  exact .ite (.writeBytes hs1) hs1

theorem Kept.countArrayFault {t array} (hs : Kept s₀ s) : Kept s₀ (s.countArrayFault t array) := by
  unfold State.countArrayFault
  extract_lets _ _ s1
  have hs1 : Kept s₀ s1 := .ite (.set hs) hs
  exact .ite (.logCode (.set hs1)) hs1

theorem Kept.faultOutputs {t array quad} (hs : Kept s₀ s) : Kept s₀ (s.faultOutputs t array quad) := by
  unfold State.faultOutputs
  split
  · exact hs
  · exact .tileFault (.modOp (.poisonOutputs hs))

theorem Kept.quadrantFault {t array quad} (hs : Kept s₀ s) : Kept s₀ (s.quadrantFault t array quad) :=
  .ite (.countArrayFault (.bump (.faultOutputs hs))) hs

theorem Kept.scratchScrub {t addr o} (hs : Kept s₀ s) : Kept s₀ (s.scratchScrub t addr o) := by
  unfold State.scratchScrub
  split
  · exact hs
  · extract_lets
    split
    · exact hs
    · exact .bump hs
    · exact .faultInfo (.bump hs)

/-! ### Cask passes -/

theorem Kept.caskErr {d code mac layer row line} (hs : Kept s₀ s) : Kept s₀ (s.caskErr d code mac layer row line) :=
  .set (.set (.set (.set (.set hs))))

theorem Kept.putPass {p} (hs : Kept s₀ s) : Kept s₀ (s.putPass p) := .setDie hs
theorem Kept.dropPass {p} (hs : Kept s₀ s) : Kept s₀ (s.dropPass p) := .setDie hs
theorem Kept.failPass {p code detail} (hs : Kept s₀ s) : Kept s₀ (s.failPass p code detail) := .modOp (.dropPass hs)
theorem Kept.passInfo {p info} (hs : Kept s₀ s) : Kept s₀ (s.passInfo p info) := .modOp hs
theorem Kept.passFlags {p fl} (hs : Kept s₀ s) : Kept s₀ (s.passFlags p fl) := .modOp (.raiseFlags hs)
theorem Kept.drainPass {p} (hs : Kept s₀ s) : Kept s₀ (s.drainPass p) := .ite (.putPass hs) (.putPass (.passFlags hs))
theorem Kept.fallbackDrain {p a} (hs : Kept s₀ s) : Kept s₀ (s.fallbackDrain p a) := .ite (.putPass hs) (.putPass (.passFlags hs))

/-- The number of bytes stays a variable: with the number itself the kernel would list them to compare two states. -/
theorem Kept.fallbackPass {p ue} (hs : Kept s₀ s) : Kept s₀ (s.fallbackPass p ue) := by
  unfold State.fallbackPass
  obtain ⟨n, hn⟩ : ∃ n, n = 0x100000 := ⟨_, rfl⟩
  rw [← hn]
  split
  · exact .failPass hs
  · split
    · exact .modOp (.dropPass (.noteErr hs))
    · exact .fallbackDrain hs

theorem Kept.settlePass {p ue} (hs : Kept s₀ s) : Kept s₀ (s.settlePass p ue) := by
  unfold State.settlePass
  split
  · exact .failPass hs
  · exact .ite hs <|
      .ite (.fallbackPass hs) <|
      .ite (.putPass hs) (.ite (.fallbackPass hs) (.ite (.ite (.fallbackPass (.passInfo (.bump hs))) (.ite hs (.putPass (.bump hs)))) hs))

theorem Kept.requestPass {t slot v ue} (hs : Kept s₀ s) : Kept s₀ (s.requestPass t slot v ue) := by
  unfold State.requestPass
  split
  · exact hs
  · extract_lets _ _ _ s1 s2 _ _ r8 s3
    have hs1 : Kept s₀ s1 := .bump (.raiseFlags hs)
    have hs2 : Kept s₀ s2 := .modOp hs1
    have hr8 : Kept s₀ r8 := .setDie hs2
    have hs3 : Kept s₀ s3 := .upd hr8
    split
    · exact .modOp (.noteErr hs)
    · exact .settlePass hs3

theorem Kept.caskPass {t q ue} (hs : Kept s₀ s) : Kept s₀ (s.caskPass t q ue) := by
  unfold State.caskPass
  split
  · exact hs
  · extract_lets s1
    have hs1 : Kept s₀ s1 := .leave hs
    exact .ite (.modOp hs1) (.requestPass hs1)

theorem Kept.layerSwitch {d m} (hs : Kept s₀ s) : Kept s₀ (s.layerSwitch d m) := by
  unfold State.layerSwitch
  extract_lets
  split
  · exact hs
  · exact .ite (.setDie hs) hs

theorem Kept.passFire {d m} (hs : Kept s₀ s) : Kept s₀ (s.passFire d m) := by
  unfold State.passFire
  extract_lets
  split
  · exact hs
  · extract_lets
    split
    · exact hs
    · split
      · exact .failPass hs
      · exact .ite (.settlePass hs) (.ite (.putPass (.setDie hs)) hs)

theorem Kept.settleDie {d ue} (hs : Kept s₀ s) : Kept s₀ (s.settleDie d ue) := .foldl hs fun _ _ h => .settlePass h

theorem Kept.attemptEnd {p ue} (hs : Kept s₀ s) : Kept s₀ (s.attemptEnd p ue) :=
  .ite (.dropPass (.bump hs)) <|
    .ite (.drainPass hs) (.ite (.putPass (.passInfo (.bump hs))) (.ite (.fallbackPass (.passInfo (.bump hs))) (.drainPass hs)))

theorem Kept.phaseEnd {d m ue} (hs : Kept s₀ s) : Kept s₀ (s.phaseEnd d m ue) := by
  unfold State.phaseEnd
  split
  · exact hs
  · extract_lets s₂
    have hs₂ : Kept s₀ s₂ := .setDie hs
    split
    · exact .attemptEnd hs₂
    · extract_lets _ r2 s1
      have hr2 : Kept s₀ r2 := .putPass hs₂
      have hs1 : Kept s₀ s1 := .upd hr2
      exact .ite hs1 (.attemptEnd hs1)

theorem Kept.abortPass {d m} (hs : Kept s₀ s) : Kept s₀ (s.abortPass d m) := by
  unfold State.abortPass
  split
  · exact hs
  · extract_lets _ s1 _ s2
    have hs1 : Kept s₀ s1 := .bump hs
    have hs2 : Kept s₀ s2 := .ite (.bump hs1) hs1
    exact .ite (.ite (.dropPass hs1) (.putPass hs2)) hs

theorem Kept.writeRing {ring size o bs} (hs : Kept s₀ s) : Kept s₀ (s.writeRing ring size o bs) := .writeBytes (.writeBytes hs)
theorem Kept.watermark {t r old len} (hs : Kept s₀ s) : Kept s₀ (s.watermark t r old len) := .ite hs (.foldl hs fun _ _ h => .signalTo h)

theorem Kept.passRecord {p} (hs : Kept s₀ s) : Kept s₀ (s.passRecord p) := by
  unfold State.passRecord
  extract_lets _ _ _ _ _ _ _ _ _ s1 s2
  have hs1 : Kept s₀ s1 := .set (.passFlags (.writeRing (.tick hs)))
  have hs2 : Kept s₀ s2 := .upd hs1
  exact .bump (.watermark hs2)

theorem Kept.count {entry field n} (hs : Kept s₀ s) : Kept s₀ (s.count entry field n) := .upd hs

theorem Kept.meet {entry batch key cells} (hs : Kept s₀ s) : Kept s₀ (s.meet entry batch key cells) := by
  unfold State.meet
  extract_lets _ _ s1
  have hs1 : Kept s₀ s1 := .count hs
  split
  · exact .upd hs
  · exact .ite hs (.upd hs1)

theorem Kept.notePass {p} (hs : Kept s₀ s) : Kept s₀ (s.notePass p) := by
  unfold State.notePass
  split
  · exact hs
  · extract_lets e one s1
    have hone : ∀ c f u, Kept s₀ u → Kept s₀ (one c f u) := fun _ _ _ h => .ite (.count h) h
    exact .meet (hone _ _ _ (hone _ _ _ (hone _ _ _ (hone _ _ _ hs))))

theorem Kept.passDone {t slot ue} (hs : Kept s₀ s) : Kept s₀ (s.passDone t slot ue) := by
  unfold State.passDone
  split
  · exact hs
  · split
    · exact .dropPass (.bump hs)
    · split
      · exact hs
      · extract_lets s1
        have hs1 : Kept s₀ s1 := .dropPass (.notePass (.passRecord hs))
        exact .ite (.requestPass hs1) (.modOp hs1)

theorem Kept.ringRptrWrite {t r v} (hs : Kept s₀ s) : Kept s₀ (s.ringRptrWrite t r v) := .ite (.ctlRefuse hs) (.ite (.caskErr hs) (.set hs))
theorem Kept.referencePhase {d m} (hs : Kept s₀ s) : Kept s₀ (s.referencePhase d m) := .ite (.setDie hs) hs

theorem Kept.startCaskTest {d mac test} (hs : Kept s₀ s) : Kept s₀ (s.startCaskTest d mac test) :=
  .ite (.ctlRefuse hs) (.ite (.caskErr hs) (.ite (.caskErr hs) (.setWord (.setDie hs))))

theorem Kept.caskOlt {d w} (hs : Kept s₀ s) : Kept s₀ (s.caskOlt d w) := .ite hs (.startCaskTest hs)
theorem Kept.testStatus {d count row first} (hs : Kept s₀ s) : Kept s₀ (s.testStatus d count row first) := .setWord hs

theorem Kept.oltFindings {d mac layers rs} (hs : Kept s₀ s) : Kept s₀ (s.oltFindings d mac layers rs) := by
  unfold State.oltFindings
  extract_lets found s1 key
  have hs1 : Kept s₀ s1 := .foldl hs fun _ _ h => .setLayer h
  clear_value found s1
  split
  · exact .testStatus hs1
  · exact .caskErr (.testStatus hs1)

theorem Kept.oltDone {d rs} (hs : Kept s₀ s) : Kept s₀ (s.oltDone d rs) := by
  unfold State.oltDone
  split
  · exact .oltFindings (.setDie hs)
  · exact hs

theorem Kept.caskDac {d w} (hs : Kept s₀ s) : Kept s₀ (s.caskDac d w) := .ite hs (.startCaskTest hs)

theorem Kept.retireUnit {d mac u} (hs : Kept s₀ s) : Kept s₀ (s.retireUnit d mac u) := by
  unfold State.retireUnit
  extract_lets _ _ _ s1 _ _ _ _ _ _ _ s1₂
  have hs1 : Kept s₀ s1 := .setDie hs
  have hs1₂ : Kept s₀ s1₂ := .setDie hs
  exact .ite (.setLayer hs1) (.ite (.set hs1₂) hs1₂)

theorem Kept.dacDone {d rs} (hs : Kept s₀ s) : Kept s₀ (s.dacDone d rs) := by
  unfold State.dacDone
  split
  · extract_lets _ s0 us s1
    have hs1 : Kept s₀ s1 := .foldl (.setDie hs) fun _ _ h => .retireUnit h
    clear_value s1 us
    split
    · exact .testStatus hs1
    · exact .caskErr (.testStatus hs1)
  · exact hs

/-! ### Calibration -/

theorem Kept.calStart {d} (hs : Kept s₀ s) : Kept s₀ (s.calStart d) := .ite (.set hs) (.set (.set (.setDie hs)))

theorem Kept.calLoad {d bad} (hs : Kept s₀ s) : Kept s₀ (s.calLoad d bad) := by
  unfold State.calLoad
  extract_lets _ _ _ _ s1
  have hs1 : Kept s₀ s1 := .setDie hs
  exact .ite hs (.ite (.calStart hs1) hs1)

theorem Kept.calTemp {d t} (hs : Kept s₀ s) : Kept s₀ (s.calTemp d t) := by
  unfold State.calTemp
  extract_lets _ s1
  have hs1 : Kept s₀ s1 := .setDie hs
  exact .ite (.calStart hs1) hs1

theorem Kept.calReq {d w} (hs : Kept s₀ s) : Kept s₀ (s.calReq d w) := .ite (.ctlRefuse hs) (.ite (.calStart hs) hs)
theorem Kept.calRetry {d} (hs : Kept s₀ s) : Kept s₀ (s.calRetry d) := .ite (.calStart hs) hs

theorem Kept.calVisit {d first vs} (hs : Kept s₀ s) : Kept s₀ (s.calVisit d first vs) := by
  unfold State.calVisit
  extract_lets
  split
  · exact hs
  · exact .ite (.setDie hs) hs

theorem Kept.retireConverter {d u} (hs : Kept s₀ s) : Kept s₀ (s.retireConverter d u) := .ite hs (.set (.setDie hs))

theorem Kept.calFail {d bad} (hs : Kept s₀ s) : Kept s₀ (s.calFail d bad) := by
  unfold State.calFail
  extract_lets _ _ _ s1 s2 s3
  have hs1 : Kept s₀ s1 := .setDie hs
  have hs2 : Kept s₀ s2 := .bump (.set (.set (.set hs1)))
  have hs3 : Kept s₀ s3 := .ite (.alarm hs2) hs2
  exact .settleDie (.foldl hs3 fun _ _ h => .retireConverter h)

theorem Kept.calPass {d t set} (hs : Kept s₀ s) : Kept s₀ (s.calPass d t set) := by
  unfold State.calPass
  extract_lets _ _ s1 _ _ s2
  have hs1 : Kept s₀ s1 := .upd hs
  have hs2 : Kept s₀ s2 := .setDie hs1
  exact .set (.set (.set hs2))

theorem Kept.calRunEnd {d} (hs : Kept s₀ s) : Kept s₀ (s.calRunEnd d) := by
  unfold State.calRunEnd
  extract_lets _ s1
  have hs1 : Kept s₀ s1 := .bump hs
  split
  · exact hs
  · split
    · exact hs
    · extract_lets _ _ s2
      have hs2 : Kept s₀ s2 := .ite (.calPass hs1) (.calFail hs1)
      exact .ite (.calStart (.set hs2)) hs2

theorem Kept.calReinterpolate {d t} (hs : Kept s₀ s) : Kept s₀ (s.calReinterpolate d t) := .ite (.setDie hs) (.setDie hs)
theorem Kept.calTake {d m} (hs : Kept s₀ s) : Kept s₀ (s.calTake d m) := .ite (.setDie hs) hs

/-! ### Writing the cask -/

theorem Kept.setTokens {d k n} (hs : Kept s₀ s) : Kept s₀ (s.setTokens d k n) := .setLayer hs

theorem Kept.mapTokens {d f} (hs : Kept s₀ s) : Kept s₀ (s.mapTokens d f) := by
  unfold State.mapTokens
  extract_lets _ _ r3
  have hr3 : Kept s₀ r3 := .setDie hs
  exact .upd hr3

theorem Kept.depthCommitted {old d} (hs : Kept s₀ s) : Kept s₀ (s.depthCommitted old d) := .mapTokens hs
theorem Kept.pushStatus {d r code} (hs : Kept s₀ s) : Kept s₀ (s.pushStatus d r code) := .set (.set hs)

theorem Kept.cwrPush {d} (hs : Kept s₀ s) : Kept s₀ (s.cwrPush d) := by
  unfold State.cwrPush
  extract_lets _ _ _ s1
  have hs1 : Kept s₀ s1 := .ite (.setTokens hs) hs
  split
  · exact .ctlRefuse hs
  · split
    · exact .pushStatus (.ite (.bump hs) hs)
    · exact .pushStatus (.setDie hs1)

theorem Kept.cwrPushKind {d kind} (hs : Kept s₀ s) : Kept s₀ (s.cwrPushKind d kind) := .ite (.cwrPush hs) hs

theorem Kept.cwrFinish {d r code taken ue} (hs : Kept s₀ s) : Kept s₀ (s.cwrFinish d r code taken ue) := by
  unfold State.cwrFinish
  extract_lets _ _ s1
  have hs1 : Kept s₀ s1 := by
    dsimp only [s1]
    split
    · exact .writeBytes (.tick hs)
    · exact .noteErr hs
  exact .ite (.signalService hs1) hs1

theorem Kept.putReq {d r} (hs : Kept s₀ s) : Kept s₀ (s.putReq d r) := .setDie hs
theorem Kept.dropReq {d r} (hs : Kept s₀ s) : Kept s₀ (s.dropReq d r) := .setDie hs
theorem Kept.cwrEnd {d r code ue} (hs : Kept s₀ s) : Kept s₀ (s.cwrEnd d r code ue) := .cwrFinish (.dropReq (.ite (.setTokens hs) hs))

theorem Kept.cwrAdmit {d m l ue} (hs : Kept s₀ s) : Kept s₀ (s.cwrAdmit d m l ue) := by
  unfold State.cwrAdmit
  extract_lets
  split
  · exact hs
  · split
    · exact hs
    · split
      · exact .cwrEnd (.noteErr hs)
      · exact .ite (.cwrEnd hs) (.ite (.cwrEnd hs) (.putReq hs))

theorem Kept.setWj {k e} (hs : Kept s₀ s) : Kept s₀ (s.setWj k e) := .upd hs

theorem Kept.cwrTake {d m l ue} (hs : Kept s₀ s) : Kept s₀ (s.cwrTake d m l ue) := by
  unfold State.cwrTake
  extract_lets
  split
  · exact hs
  · split
    · exact hs
    · extract_lets _ _ s1 s2
      have hs1 : Kept s₀ s1 := .foldl hs fun _ _ h => .setWj h
      have hs2 : Kept s₀ s2 := .putReq hs1
      exact .settleDie (.setDie hs2)

theorem Kept.cwrCell {d r cells verify col} (hs : Kept s₀ s) : Kept s₀ (s.cwrCell d r cells verify col).1 := .ite hs (.upd hs)

theorem Kept.cwrMark {d r done} (hs : Kept s₀ s) : Kept s₀ (s.cwrMark d r done) := by
  unfold State.cwrMark
  split
  · split
    · exact .setWj hs
    · exact hs
  · exact hs

theorem Kept.cwrRow {d m l cells iters} (hs : Kept s₀ s) : Kept s₀ (s.cwrRow d m l cells iters) := by
  unfold State.cwrRow
  split
  · exact hs
  · split
    · exact hs
    · extract_lets _ _ x _ _ _ _ _ s1
      have hx : Kept s₀ x.1 := .foldl_fst hs fun _ _ h => .cwrCell h
      have hs1 : Kept s₀ s1 := .putReq (.cwrMark hx)
      exact .setDie hs1

theorem Kept.writeErrs {r} (hs : Kept s₀ s) : Kept s₀ (s.writeErrs r) :=
  .ite (.writeBytes hs) (.ite (.foldl hs fun _ _ h => .writeBytes h) hs)

theorem Kept.writeMap {r} (hs : Kept s₀ s) : Kept s₀ (s.writeMap r) := .foldl hs fun _ _ h => .writeBytes h
theorem Kept.loadScales {k a} (hs : Kept s₀ s) : Kept s₀ (s.loadScales k a) := .upd hs
theorem Kept.writeScales {d r} (hs : Kept s₀ s) : Kept s₀ (s.writeScales d r) := .ite (.foldl hs fun _ _ h => .loadScales h) hs

theorem Kept.applyRepair {d r} (hs : Kept s₀ s) : Kept s₀ (s.applyRepair d r) := by
  unfold State.applyRepair
  extract_lets k x note
  have hnote : ∀ u, Kept s₀ u → Kept s₀ (note u) := fun _ h => .upd (.bump h)
  clear_value note
  split
  · exact hnote _ (.setLayer hs)
  · exact hnote _ (.setDie (.foldl hs fun _ _ h => .setLayer h))
  · exact hnote _ (.setLayer (.setDie hs))
  · exact hs

theorem Kept.wearLayer {d r y} (hs : Kept s₀ s) : Kept s₀ (s.wearLayer d r y) := .setLayer hs

theorem Kept.cwrRelease {d m l ue} (hs : Kept s₀ s) : Kept s₀ (s.cwrRelease d m l ue) := by
  unfold State.cwrRelease
  split
  · exact hs
  · refine .ite hs ?_
    extract_lets err bad s1 s2 s3
    have hs1 : Kept s₀ s1 := by
      dsimp only [s1]
      clear_value err
      split
      · exact .noteErr hs
      · exact .writeMap (.writeErrs hs)
    have hs2 : Kept s₀ s2 := .applyRepair (.writeScales hs1)
    have hs3 : Kept s₀ s3 := .foldl hs2 fun _ _ h => .setWj (.wearLayer h)
    exact .cwrFinish (.bump (.bump (.dropReq hs3)))

theorem Kept.tokenTick {d} (hs : Kept s₀ s) : Kept s₀ (s.tokenTick d) := .ite hs (.mapTokens hs)
theorem Kept.governorSave (hs : Kept s₀ s) : Kept s₀ s.governorSave := .upd hs

/-! ### Links and messages -/

theorem Kept.enqueue {l fs} (hs : Kept s₀ s) : Kept s₀ (s.enqueue l fs) := .foldl hs fun _ _ h => .setLink h

theorem Kept.moveTo {dest l} (hs : Kept s₀ s) : Kept s₀ (s.moveTo dest l) := by
  unfold State.moveTo
  split
  · exact hs
  · exact .ite (.setLink hs) (.ite (.setLink hs) hs)

theorem Kept.sendOn {l m} (hs : Kept s₀ s) : Kept s₀ (s.sendOn l m) := .enqueue hs
theorem Kept.sendBy {l m} (hs : Kept s₀ s) : Kept s₀ (s.sendBy l m) := .sendOn (.moveTo hs)

theorem Kept.sendMsg {m} (hs : Kept s₀ s) : Kept s₀ (s.sendMsg m) := by
  unfold State.sendMsg
  split
  · exact .sendBy hs
  · exact hs

theorem Kept.answerTo {l dest cls ctx gen tag code data} (hs : Kept s₀ s) : Kept s₀ (s.answerTo l dest cls ctx gen tag code data) :=
  .ite (.upd hs) (.sendMsg hs)

theorem Kept.discardFlit {l f code} (hs : Kept s₀ s) : Kept s₀ (s.discardFlit l f code) := .ite (.answerTo hs) hs
theorem Kept.putDigest {l d} (hs : Kept s₀ s) : Kept s₀ (s.putDigest l d) := .upd hs
theorem Kept.markRerouted {l d far} (hs : Kept s₀ s) : Kept s₀ (s.markRerouted l d far) := .ite (.upd hs) hs

theorem Kept.digestChunk {l rx far head trailer} (hs : Kept s₀ s) : Kept s₀ (s.digestChunk l rx far head trailer) :=
  .markRerouted (.putDigest hs)

theorem Kept.digestFlit {l rx f} (hs : Kept s₀ s) : Kept s₀ (s.digestFlit l rx f) := by
  unfold State.digestFlit
  extract_lets _ _ _ _ _ s1
  have hs1 : Kept s₀ s1 := .setLink hs
  exact .ite hs (.ite (.digestChunk hs1) hs1)

theorem Kept.deliverFlit {l f} (hs : Kept s₀ s) : Kept s₀ (s.deliverFlit l f) := by
  unfold State.deliverFlit
  extract_lets _ _ _ s1
  have hs1 : Kept s₀ s1 := .setLink hs
  exact .ite (.setLink hs) (.ite (.upd hs1) (.setLink hs))

theorem Kept.forwardFlit {l f} (hs : Kept s₀ s) : Kept s₀ (s.forwardFlit l f) := by
  unfold State.forwardFlit
  extract_lets s1
  have hs1 : Kept s₀ s1 := .setLink hs
  split
  · exact .bump hs1
  · split
    · exact .discardFlit (.bump hs1)
    · split
      · exact .discardFlit (.bump hs1)
      · exact .bump (.enqueue (.moveTo (.setLink hs1)))

theorem Kept.rackArrives {l f} (hs : Kept s₀ s) : Kept s₀ (s.rackArrives l f) := by
  unfold State.rackArrives
  extract_lets s1
  have hs1 : Kept s₀ s1 := .setLink hs
  exact .upd hs1

theorem Kept.flitReceive {l bs fec} (hs : Kept s₀ s) : Kept s₀ (s.flitReceive l bs fec) := by
  unfold State.flitReceive
  extract_lets _ _ s1 _ s0 s2
  have hs1 : Kept s₀ s1 := .bump (.bump hs)
  have hs0 : Kept s₀ s0 := .setLink hs1
  have hs2 : Kept s₀ s2 := .bump hs0
  exact .ite hs <|
    .ite (.setLink hs1) <|
    .ite (.setLink (.bump hs1)) <|
    .ite hs1 <|
    .ite (.setLink hs1) <|
    .ite (.rackArrives hs2) (.ite (.bump (.setLink hs2)) (.ite (.deliverFlit (.digestFlit hs2)) (.forwardFlit (.digestFlit hs2))))

theorem Kept.takeDelivered {l type m u} (hs : Kept s₀ s) (h : s.takeDelivered l type = some (m, u)) : Kept s₀ u := by
  unfold State.takeDelivered at h
  split at h
  · cases h
  · cases h
    exact .upd hs

theorem Kept.sendFlit {l c k f} (hs : Kept s₀ s) : Kept s₀ (s.sendFlit l c k f).1 := .bump (.digestFlit (.setLink hs))

theorem Kept.slotLow {l b k} (hs : Kept s₀ s) : Kept s₀ (s.slotLow l b k).1 := by
  unfold State.slotLow
  extract_lets
  split
  · exact .setLink hs
  · split
    · exact .sendFlit hs
    · exact .setLink hs

theorem Kept.txSlot {l b} (hs : Kept s₀ s) : Kept s₀ (s.txSlot l b).1 := by
  unfold State.txSlot
  extract_lets k short s1 k1
  have hs1 : Kept s₀ s1 := .ite (.bump hs) hs
  clear_value s1
  split
  · exact .bump (.setLink hs)
  · refine .ite_fst hs ?_
    split
    · exact .ite_fst hs (.sendFlit hs)
    · split
      · exact .slotLow hs1
      · exact .ite_fst (.sendFlit hs1) (.sendFlit hs1)

theorem Kept.txSlots {l b n fs} (hs : Kept s₀ s) : Kept s₀ (State.txSlots l b n s fs).1 := by
  induction n generalizing s fs with
  | zero => exact hs
  | succ n ih => exact ih (.setLink (.txSlot hs))

theorem Kept.ageOut {l c} (hs : Kept s₀ s) : Kept s₀ (s.ageOut l c) := by
  unfold State.ageOut
  extract_lets
  split
  · exact hs
  · exact .discardFlit (.bump (.setLink hs))

/-! ### Reduction -/

theorem Kept.arrivalDrop {p c} (hs : Kept s₀ s) : Kept s₀ (s.arrivalDrop p c) := by
  unfold State.arrivalDrop
  extract_lets s1
  have hs1 : Kept s₀ s1 := .bump hs
  exact .ite (.setCtx hs1) hs1

theorem Kept.putBucket {b} (hs : Kept s₀ s) : Kept s₀ (s.putBucket b) := .upd hs
theorem Kept.freeBuffers {l m} (hs : Kept s₀ s) : Kept s₀ (s.freeBuffers l m) := .ite (.foldl hs fun _ _ h => .setLink h) hs
theorem Kept.intoPark {l m} (hs : Kept s₀ s) : Kept s₀ (s.intoPark l m) := .bump (.lose (.freeBuffers hs))
theorem Kept.fillPark {p} (hs : Kept s₀ s) : Kept s₀ (s.fillPark p) := .foldl hs fun _ _ h => .ite (.intoPark (.upd h)) h

theorem Kept.unparkOne {p} (hs : Kept s₀ s) : Kept s₀ (s.unparkOne p) := by
  unfold State.unparkOne
  split
  · exact hs
  · extract_lets s1
    have hs1 : Kept s₀ s1 := .upd hs
    exact .ite (.freeBuffers hs1) (.fillPark hs1)

theorem Kept.dropParked {pick count} (hs : Kept s₀ s) (hcount : ∀ u v, Kept s₀ u → Kept s₀ (count u v)) :
    Kept s₀ (s.dropParked pick count) :=
  .foldl hs fun _ _ h => hcount _ _ (.unparkOne h)

theorem Kept.sendAbort {m ctx gen dest fwd} (hs : Kept s₀ s) : Kept s₀ (s.sendAbort m ctx gen dest fwd) := by
  unfold State.sendAbort
  extract_lets s1
  have hs1 : Kept s₀ s1 := .upd hs
  split
  · exact .bump (.sendBy hs1)
  · exact hs1

theorem Kept.noteRdcErr {b code dev link} (hs : Kept s₀ s) : Kept s₀ (s.noteRdcErr b code dev link) := by
  unfold State.noteRdcErr
  extract_lets _ s1 s2
  have hs1 : Kept s₀ s1 := .set (.set (.set (.set hs)))
  have hs2 : Kept s₀ s2 := .set hs1
  exact .ite (.bump hs2) hs2

theorem Kept.loseRegions {b} (hs : Kept s₀ s) : Kept s₀ (s.loseRegions b) := by
  unfold State.loseRegions
  split
  · extract_lets s1 s2
    have hs1 : Kept s₀ s1 := .lose hs
    have hs2 : Kept s₀ s2 := .ite hs1 (.lose hs1)
    exact .lose hs2
  · exact hs

theorem Kept.sendAborts {b code pos dev} (hs : Kept s₀ s) : Kept s₀ (s.sendAborts b code pos dev) := by
  unfold State.sendAborts
  extract_lets _ _ s1
  have hs1 : Kept s₀ s1 := .sendAbort hs
  exact .ite (.upd hs1) (.sendAbort hs1)

theorem Kept.dropUse {b code pos dev} (hs : Kept s₀ s) : Kept s₀ (s.dropUse b code pos dev) := by
  unfold State.dropUse
  extract_lets _ s1
  have hs1 : Kept s₀ s1 := .upd hs
  exact .ite hs1 (.upd hs1)

theorem Kept.failUseWith {b code pos dev link detail abort} (hs : Kept s₀ s) :
    Kept s₀ (s.failUseWith b code pos dev link detail abort) := by
  unfold State.failUseWith
  extract_lets s3 s4 s5
  have hs3 : Kept s₀ s3 := .loseRegions (.noteRdcErr (.dropUse hs))
  have hs4 : Kept s₀ s4 := .dropParked hs3 (fun _ _ h => .bump h)
  have hs5 : Kept s₀ s5 := .ite (.modOp hs4) hs4
  exact .ite (.sendAborts hs5) hs5

theorem Kept.failUse {b code pos dev link check abort} (hs : Kept s₀ s) : Kept s₀ (s.failUse b code pos dev link check abort) :=
  .failUseWith hs

theorem Kept.failFrom {b code m l} (hs : Kept s₀ s) : Kept s₀ (s.failFrom b code m l) := .failUse hs

theorem Kept.sendUse {b dest m isScale} (hs : Kept s₀ s) : Kept s₀ (s.sendUse b dest m isScale) := by
  unfold State.sendUse
  split
  · exact .sendBy hs
  · exact .failUse hs

theorem Kept.formCodes {b i eb} (hs : Kept s₀ s) : Kept s₀ (s.formCodes b i eb).1 := by
  unfold State.formCodes
  extract_lets _ _ _ _ _ _ s1
  have hs1 : Kept s₀ s1 := .ite hs (.writeBytes hs)
  exact .pair (.ite hs1 (.bump hs1))

theorem Kept.writeFinal {b f} (hs : Kept s₀ s) : Kept s₀ (s.writeFinal b f) := by
  unfold State.writeFinal
  split
  · exact hs
  · split
    · exact .ite hs (.writeBytes (.putBucket hs))
    · exact hs

theorem Kept.gotFinal {b f} (hs : Kept s₀ s) : Kept s₀ (s.gotFinal b f) := by
  unfold State.gotFinal
  split
  · exact hs
  · exact .ite hs (.writeFinal (.putBucket hs))

theorem Kept.sendAll {b dests m isScale} (hs : Kept s₀ s) : Kept s₀ (s.sendAll b dests m isScale) := by
  unfold State.sendAll
  refine .foldl hs fun u x h => ?_
  split
  · exact .sendUse h
  · exact h

theorem Kept.finalOwner {b i x hop} (hs : Kept s₀ s) : Kept s₀ (s.finalOwner b i x hop) := .gotFinal (.sendAll hs)

theorem Kept.passPartial {b i k x} (hs : Kept s₀ s) : Kept s₀ (s.passPartial b i k x) :=
  .ite (.sendUse hs) (.ite (.finalOwner hs) (.ite (.sendUse hs) (.putBucket hs)))

theorem Kept.agree {b i mx late fromOwner hop} (hs : Kept s₀ s) : Kept s₀ (s.agree b i mx late fromOwner hop) := .sendAll (.putBucket hs)

theorem Kept.passScale {b i k mx before} (hs : Kept s₀ s) : Kept s₀ (s.passScale b i k mx before) :=
  .ite (.sendUse hs) (.ite (.agree hs) (.ite (.sendUse hs) (.putBucket hs)))

theorem Kept.emitFirst {b i} (hs : Kept s₀ s) : Kept s₀ (s.emitFirst b i) := by
  unfold State.emitFirst
  split
  · exact hs
  · split
    · exact hs
    · split
      · exact .passPartial (.putBucket hs)
      · split
        · exact hs
        · extract_lets r
          have hr : Kept s₀ r.1 := .formCodes hs
          exact .passPartial (.putBucket hr)

theorem Kept.setOut {b} (hs : Kept s₀ s) : Kept s₀ (s.setOut b) := by
  unfold State.setOut
  extract_lets
  refine .foldl hs fun u x h => ?_
  split
  · exact h
  · extract_lets s1
    have hs1 : Kept s₀ s1 := .ite h (.passScale h)
    exact .ite (.emitFirst hs1) hs1

theorem Kept.takeScale {b src m} (hs : Kept s₀ s) : Kept s₀ (s.takeScale b src m) := by
  unfold State.takeScale
  extract_lets _ _ _ s1
  have hs1 : Kept s₀ s1 := .agree hs
  exact .ite (.ite hs (.ite (.emitFirst hs1) hs1)) (.ite (.ite (.agree (.putBucket hs)) (.sendUse (.putBucket hs))) (.passScale hs))

theorem Kept.takePartial {b l m} (hs : Kept s₀ s) : Kept s₀ (s.takePartial b l m) := by
  unfold State.takePartial
  extract_lets _ _ _ r _ _ s1
  have hr : Kept s₀ r.1 := by
    dsimp only [r]
    split
    · exact .formCodes hs
    · exact hs
  have hs1 : Kept s₀ s1 := .bump (.putBucket hr)
  split
  · exact hs
  · split
    · exact .failUse hr
    · exact .failUse hr
    · exact .passPartial (.ite hs1 (.bump hs1))

theorem Kept.takeTier {b m} (hs : Kept s₀ s) : Kept s₀ (s.takeTier b m) := by
  unfold State.takeTier
  extract_lets
  split
  · exact hs
  · exact .ite (.finalOwner (.putBucket hs)) (.sendUse (.putBucket hs))

theorem Kept.takeFinal {b src l m} (hs : Kept s₀ s) : Kept s₀ (s.takeFinal b src l m) :=
  .ite hs (.ite (.failUse hs) (.gotFinal (.sendAll hs)))

theorem Kept.takeMsg {b l msg m} (hs : Kept s₀ s) : Kept s₀ (s.takeMsg b l msg m) :=
  .ite (.takeScale hs) (.ite (.ite (.takeTier hs) (.takePartial hs)) (.takeFinal hs))

theorem Kept.actOn {l msg keep} (hs : Kept s₀ s) (hkeep : ∀ u, Kept s₀ u → Kept s₀ (keep u)) : Kept s₀ (s.actOn l msg keep) := by
  unfold State.actOn
  extract_lets
  split
  · exact .bump hs
  · exact hkeep _ hs
  · exact .failFrom hs
  · exact .takeMsg hs

theorem Kept.unparkMsg {p} (hs : Kept s₀ s) : Kept s₀ (s.unparkMsg p) := by
  unfold State.unparkMsg
  extract_lets s1 s2
  have hs1 : Kept s₀ s1 := .unparkOne hs
  have hs2 : Kept s₀ s2 := .bump (.arrivalDrop hs1)
  split
  · split
    · exact .failFrom hs2
    · exact hs2
  · exact .actOn hs1 (fun _ h => h)

theorem Kept.settle {n} (hs : Kept s₀ s) : Kept s₀ (State.settle n s) := by
  induction n generalizing s with
  | zero => exact hs
  | succ n ih =>
    unfold State.settle
    split
    · exact ih (.unparkMsg hs)
    · exact hs

theorem Kept.settleAll (hs : Kept s₀ s) : Kept s₀ s.settleAll := .settle hs

theorem Kept.park {l msg} (hs : Kept s₀ s) : Kept s₀ (s.park l msg) := by
  unfold State.park
  extract_lets _ s1
  have hs1 : Kept s₀ s1 := .upd hs
  exact .ite (.intoPark hs1) hs1

theorem Kept.reduceArrive {l msg} (hs : Kept s₀ s) : Kept s₀ (s.reduceArrive l msg) := by
  unfold State.reduceArrive
  split
  · extract_lets s1
    have hs1 : Kept s₀ s1 := .arrivalDrop (.freeBuffers hs)
    split
    · exact .failFrom hs1
    · exact hs1
  · split
    · exact .park hs
    · exact .settleAll (.actOn (.freeBuffers hs) (fun _ h => h))

theorem Kept.takeRdc {l pick m u} (hs : Kept s₀ s) (h : s.takeRdc l pick = some (m, u)) : Kept s₀ u := by
  unfold State.takeRdc at h
  split at h
  · cases h
  · cases h
    exact .upd hs

theorem Kept.reduce {l} (hs : Kept s₀ s) : Kept s₀ (s.reduce l) := by
  unfold State.reduce
  split
  next h => exact .reduceArrive (.takeRdc hs h)
  next => exact hs

theorem Kept.scaleMsg {l} (hs : Kept s₀ s) : Kept s₀ (s.scaleMsg l) := by
  unfold State.scaleMsg
  split
  next h => exact .reduceArrive (.takeRdc hs h)
  next => exact hs

theorem Kept.forwardAbort {msg m} (hs : Kept s₀ s) : Kept s₀ (s.forwardAbort msg m) := .ite hs (.sendAbort hs)

theorem Kept.abortArrive {l msg} (hs : Kept s₀ s) : Kept s₀ (s.abortArrive l msg) := by
  unfold State.abortArrive
  extract_lets _ s0 s1 s1₂
  have hs0 : Kept s₀ s0 := .freeBuffers hs
  have hs1 : Kept s₀ s1 := .arrivalDrop hs0
  have hs1₂ : Kept s₀ s1₂ := by
    dsimp only [s1₂]
    split
    · exact .failUse hs0
    · exact .ite (.upd hs0) hs0
  split
  · split
    · exact .failFrom hs1
    · exact hs1
  · exact .settleAll (.forwardAbort hs1₂)

theorem Kept.reduceAbort {l} (hs : Kept s₀ s) : Kept s₀ (s.reduceAbort l) := by
  unfold State.reduceAbort
  split
  next h => exact .abortArrive (.takeRdc hs h)
  next => exact hs

theorem Kept.writeFinals {b} (hs : Kept s₀ s) : Kept s₀ (s.writeFinals b) := by
  unfold State.writeFinals
  split
  · exact .foldl hs fun _ _ h => .writeFinal h
  · exact hs

theorem Kept.openUse {t slot o} (hs : Kept s₀ s) : Kept s₀ (s.openUse t slot o) := by
  unfold State.openUse
  extract_lets u s1 mine aborted s2 fail s3
  have hs2 : Kept s₀ s2 := .upd (.upd hs)
  have hs3 : Kept s₀ s3 := .upd hs2
  clear_value aborted s3 s2
  split
  · extract_lets u' s4
    have hs4 : Kept s₀ s4 := .putBucket hs2
    split
    · exact .failUse hs4
    · exact .ite (.failUse hs4) (.writeFinals hs4)
  · split
    · exact .failUse hs3
    · exact hs3

theorem Kept.opDone {t slot} (hs : Kept s₀ s) : Kept s₀ (s.opDone t slot) := .modOp hs

theorem Kept.bucketOpen {t q} (hs : Kept s₀ s) : Kept s₀ (s.bucketOpen t q) := by
  unfold State.bucketOpen
  split
  · exact hs
  · extract_lets r
    have hr : Kept s₀ r.1 := .leave hs
    exact .ite (.opDone hr) (.ite (.modOp hr) (.ite (.modOp hr) (.settleAll (.openUse hr))))

theorem Kept.storeOwnBytes {b} (hs : Kept s₀ s) : Kept s₀ (s.storeOwnBytes b) := .writeBytes hs
theorem Kept.foldLate {b} (hs : Kept s₀ s) : Kept s₀ (s.foldLate b) := .writeBytes hs

theorem Kept.startUse {b} (hs : Kept s₀ s) : Kept s₀ (s.startUse b) := by
  unfold State.startUse
  split
  · exact .failUseWith (.noteErr hs)
  · extract_lets s1 s2 _ s3
    have hs1 : Kept s₀ s1 := .storeOwnBytes hs
    have hs2 : Kept s₀ s2 := .ite (.foldLate hs1) hs1
    have hs3 : Kept s₀ s3 := .putBucket hs2
    exact .settleAll (.ite hs3 (.setOut hs3))

theorem Kept.contribute {t slot o ue u b} (hs : Kept s₀ s) : Kept s₀ (s.contribute t slot o ue u b) := by
  unfold State.contribute
  extract_lets r err s1 u' s2
  have hs2 : Kept s₀ s2 := .opDone (.putBucket (.writeBytes hs))
  clear_value err
  split
  · exact .opErr hs
  · exact .ite (.startUse hs2) hs2

theorem Kept.bucketContribute {t q ue} (hs : Kept s₀ s) : Kept s₀ (s.bucketContribute t q ue) := by
  unfold State.bucketContribute
  split
  · exact hs
  · extract_lets r
    have hr : Kept s₀ r.1 := .leave hs
    split
    · exact .ite (.opDone hr) (.modOp hr)
    · split
      · exact .opDone hr
      · split
        · exact .modOp hr
        · exact .ite (.modOp hr) (.contribute hr)

theorem Kept.bucketFlush {t q} (hs : Kept s₀ s) : Kept s₀ (s.bucketFlush t q) := by
  unfold State.bucketFlush
  split
  · exact hs
  · extract_lets r _ s1
    have hr : Kept s₀ r.1 := .leave hs
    have hs1 : Kept s₀ s1 := .opDone hr
    split
    · exact .modOp hr
    · exact .ite hs1 (.startUse hs1)

theorem Kept.becomeLate {g id} (hs : Kept s₀ s) : Kept s₀ (s.becomeLate g id) := by
  unfold State.becomeLate
  split
  · exact hs
  · exact .ite hs (.settleAll (.setOut (.bump (.ite (.putBucket hs) (.upd hs)))))

theorem Kept.bucketComplete {g id} (hs : Kept s₀ s) : Kept s₀ (s.bucketComplete g id) := by
  unfold State.bucketComplete
  split
  · exact hs
  · split
    · exact hs
    · extract_lets _ _ _ _ _ s1 _ s2 s3 r10 _ s4
      have hs1 : Kept s₀ s1 := .writeBytes hs
      have hs2 : Kept s₀ s2 := .upd hs1
      have hs3 : Kept s₀ s3 := .bump hs2
      have hr10 : Kept s₀ r10 := .bump hs3
      have hs4 : Kept s₀ s4 := .ite (.upd hr10) hs3
      exact .ite hs4 (.modOp hs4)

theorem Kept.ctxLeavesOpen {c} (hs : Kept s₀ s) : Kept s₀ (s.ctxLeavesOpen c) := by
  unfold State.ctxLeavesOpen
  extract_lets
  refine .foldl hs fun u x h => ?_
  split
  · exact h
  · extract_lets s1
    have hs1 : Kept s₀ s1 := .bump (.bump (.unparkOne h))
    split
    · exact .failFrom hs1
    · exact hs1

theorem Kept.rdcLinkDown {l lost} (hs : Kept s₀ s) : Kept s₀ (s.rdcLinkDown l lost) := by
  unfold State.rdcLinkDown
  refine .foldl hs fun u x h => ?_
  split
  · exact .failUse h
  · exact h

theorem Kept.rdcRestart {reached} (hs : Kept s₀ s) : Kept s₀ (s.rdcRestart reached) := .upd hs

/-! ### Link states -/

theorem Kept.linkTo {l st} (hs : Kept s₀ s) : Kept s₀ (s.linkTo l st) := .setLink hs
theorem Kept.attempt {l} (hs : Kept s₀ s) : Kept s₀ (s.attempt l) := .setLink (.set hs)
theorem Kept.maybeTrain {l} (hs : Kept s₀ s) : Kept s₀ (s.maybeTrain l) := .ite (.attempt (.setLink hs)) hs
theorem Kept.bring {l} (hs : Kept s₀ s) : Kept s₀ (s.bring l) := .ite (.maybeTrain (.linkTo hs)) hs
theorem Kept.abandonRequests {pick why} (hs : Kept s₀ s) : Kept s₀ (s.abandonRequests pick why) := .foldl (.upd hs) fun _ _ h => .modOp h

theorem Kept.leaveUp {l st cause} (hs : Kept s₀ s) : Kept s₀ (s.leaveUp l st cause) := by
  unfold State.leaveUp
  split
  · exact hs
  · extract_lets _ _ _ s1 s2 s3 s4 s5 s6 s7 s8
    have hs1 : Kept s₀ s1 := .setLink hs
    have hs2 : Kept s₀ s2 := .abandonRequests hs1
    have hs3 : Kept s₀ s3 := .rdcLinkDown hs2
    have hs4 : Kept s₀ s4 := .set hs3
    have hs5 : Kept s₀ s5 := by
      dsimp only [s5]
      split
      · exact .set hs4
      · exact hs4
    have hs6 : Kept s₀ s6 := .ite (.bump hs5) (.ite (.bump hs5) hs5)
    have hs7 : Kept s₀ s7 := .alarm hs6
    have hs8 : Kept s₀ s8 := .ite (.signalService hs7) hs7
    exact .event hs8

theorem Kept.wordSent {l} (hs : Kept s₀ s) : Kept s₀ (s.wordSent l) := by
  unfold State.wordSent
  extract_lets _ s1
  have hs1 : Kept s₀ s1 := .setLink hs
  exact .ite (.bump hs1) hs1

theorem Kept.bareFrame {l dark retrain} (hs : Kept s₀ s) : Kept s₀ (s.bareFrame l dark retrain) := by
  unfold State.bareFrame
  extract_lets r1
  have hr1 : Kept s₀ r1 := .wordSent hs
  exact .upd hr1

theorem Kept.darken {ls cause} (hs : Kept s₀ s) : Kept s₀ (s.darken ls cause) :=
  .foldl hs fun _ _ h => .ite h (.linkTo (.leaveUp (.bareFrame (.bareFrame h))))

theorem Kept.retrain {l ask} (hs : Kept s₀ s) : Kept s₀ (s.retrain l ask) := by
  unfold State.retrain
  split
  · exact hs
  · extract_lets s1
    have hs1 : Kept s₀ s1 := .leaveUp hs
    exact .attempt (.ite (.bareFrame hs1) hs1)

theorem Kept.nakked {l w} (hs : Kept s₀ s) : Kept s₀ (s.nakked l w) := by
  unfold State.nakked
  extract_lets _ _ s1
  have hs1 : Kept s₀ s1 := .setLink hs
  exact .ite (.retrain (.logCode hs1)) hs1

theorem Kept.controlWord {l bs} (hs : Kept s₀ s) : Kept s₀ (s.controlWord l bs) := by
  unfold State.controlWord
  extract_lets _ _ s1 s2
  have hs1 : Kept s₀ s1 := .set (.set hs)
  have hs2 : Kept s₀ s2 := .setLink hs1
  exact .ite hs (.ite (.ite hs1 (.ite (.leaveUp hs1) (.ite (.retrain hs1) (.ite (.nakked hs2) (.setLink hs2))))) hs)

theorem Kept.frameTransmit {l} (hs : Kept s₀ s) : Kept s₀ (s.frameTransmit l) := by
  unfold State.frameTransmit
  extract_lets _ _ s2
  have hs2 : Kept s₀ s2 := .wordSent hs
  split
  · exact hs
  · split
    · extract_lets r s3
      have hr : Kept s₀ r.1 := .txSlots (.setLink hs2)
      have hs3 : Kept s₀ s3 := .setLink hr
      exact .upd hs3
    · exact .upd hs2

theorem Kept.loseLight {l} (hs : Kept s₀ s) : Kept s₀ (s.loseLight l) := by
  unfold State.loseLight
  extract_lets _ s1
  have hs1 : Kept s₀ s1 := .setLink hs
  split
  · exact .leaveUp hs1
  · exact .linkTo hs1
  · exact .linkTo hs1
  · exact .linkTo hs1
  · exact hs1

theorem Kept.lightArrive {l} (hs : Kept s₀ s) : Kept s₀ (s.lightArrive l) := .maybeTrain (.setLink hs)

theorem Kept.trainDone {l} (hs : Kept s₀ s) : Kept s₀ (s.trainDone l) := by
  unfold State.trainDone
  extract_lets
  split
  · exact .setLink hs
  · exact .setLink hs
  · exact hs

theorem Kept.trainTimeout {l} (hs : Kept s₀ s) : Kept s₀ (s.trainTimeout l) := .ite (.ite (.attempt hs) (.logCode (.set (.linkTo hs)))) hs

theorem Kept.peerCheckDone {l id pl passed} (hs : Kept s₀ s) : Kept s₀ (s.peerCheckDone l id pl passed) := by
  unfold State.peerCheckDone
  extract_lets _ s1
  have hs1 : Kept s₀ s1 := .set (.set hs)
  exact .ite (.ite (.set (.setLink hs1)) (.logCode (.set (.linkTo hs1)))) hs

theorem Kept.fecUeLimit {l n} (hs : Kept s₀ s) : Kept s₀ (s.fecUeLimit l n) := .ite (.retrain hs) hs
theorem Kept.heartbeatSend {l} (hs : Kept s₀ s) : Kept s₀ (s.heartbeatSend l) := .ite hs (.sendOn (.setLink hs))
theorem Kept.heartbeatAll (hs : Kept s₀ s) : Kept s₀ s.heartbeatAll := .foldl hs fun _ _ h => .heartbeatSend h
theorem Kept.setMode {m} (hs : Kept s₀ s) : Kept s₀ (s.setMode m) := .ite hs (.heartbeatAll (.upd hs))

theorem Kept.heartbeatArrive {l} (hs : Kept s₀ s) : Kept s₀ (s.heartbeatArrive l) := by
  unfold State.heartbeatArrive
  split
  next h => exact .setLink (.takeDelivered hs h)
  next => exact hs

theorem Kept.peerSilent {l} (hs : Kept s₀ s) : Kept s₀ (s.peerSilent l) := .ite hs (.retrain (.logCode hs))
theorem Kept.showService {e v} (hs : Kept s₀ s) : Kept s₀ (s.showService e v) := .foldl hs fun _ _ h => .set h
theorem Kept.engineStart {e} (hs : Kept s₀ s) : Kept s₀ (s.engineStart e) := .showService (.setEngine hs)

theorem Kept.engineFault {e code} (hs : Kept s₀ s) : Kept s₀ (s.engineFault e code) := by
  unfold State.engineFault
  exact .logCode (.foldl (.setEngine hs) fun _ _ h => .set (.linkTo (.leaveUp h)))

theorem Kept.laserWaitDone {e} (hs : Kept s₀ s) : Kept s₀ (s.laserWaitDone e) := .ite (.setEngine hs) hs
theorem Kept.laserFault {e} (hs : Kept s₀ s) : Kept s₀ (s.laserFault e) := .ite (.engineFault hs) hs
theorem Kept.ringTuneDone {e} (hs : Kept s₀ s) : Kept s₀ (s.ringTuneDone e) := .ite (.foldl (.setEngine hs) fun _ _ h => .bring h) hs
theorem Kept.ringTuneFail {e} (hs : Kept s₀ s) : Kept s₀ (s.ringTuneFail e) := .ite (.engineFault hs) hs

theorem Kept.laserInsert {e} (hs : Kept s₀ s) : Kept s₀ (s.laserInsert e) := by
  unfold State.laserInsert
  extract_lets _ _ s1
  have hs1 : Kept s₀ s1 := .setEngine hs
  exact .ite (.engineStart hs1) hs1

theorem Kept.laserRemove {e} (hs : Kept s₀ s) : Kept s₀ (s.laserRemove e) := by
  unfold State.laserRemove
  extract_lets _ _ s1
  have hs1 : Kept s₀ s1 := .setEngine hs
  exact .ite (.engineFault hs1) hs1

theorem Kept.linkCmdState {l} (hs : Kept s₀ s) : Kept s₀ (s.linkCmdState l) := .set hs
theorem Kept.linkRetrain {l} (hs : Kept s₀ s) : Kept s₀ (s.linkRetrain l) := .ite (.retrain hs) (.linkCmdState hs)

theorem Kept.flinkCmdOn {l o f} (hs : Kept s₀ s) (hf : ∀ u, Kept s₀ u → Kept s₀ (f u)) : Kept s₀ (s.flinkCmdOn l o f) :=
  .ite (hf _ hs) (.ctlRefuse hs)

theorem Kept.linkRestart {l} (hs : Kept s₀ s) : Kept s₀ (s.linkRestart l) := .ite (.maybeTrain (.linkTo hs)) (.linkCmdState hs)
theorem Kept.engineRestart {l} (hs : Kept s₀ s) : Kept s₀ (s.engineRestart l) := .ite (.engineStart hs) (.linkCmdState hs)

theorem Kept.engineService {l} (hs : Kept s₀ s) : Kept s₀ (s.engineService l) :=
  .ite (.linkCmdState hs) (.showService (.setEngine (.darken hs)))

theorem Kept.engineServiceOff {e} (hs : Kept s₀ s) : Kept s₀ (s.engineServiceOff e) := .ite (.setEngine hs) hs
theorem Kept.linkCmd {l cmd} (hs : Kept s₀ s) : Kept s₀ (s.linkCmd l cmd) := .ite (.linkRetrain hs) (.ite (.linkRestart hs) hs)
theorem Kept.engineCmd {l cmd} (hs : Kept s₀ s) : Kept s₀ (s.engineCmd l cmd) := .ite (.engineRestart hs) (.ite (.engineService hs) hs)
theorem Kept.flinkCommitted {l} (hs : Kept s₀ s) : Kept s₀ (s.flinkCommitted l) := .ite (.darken hs) (.maybeTrain (.bring hs))

theorem Kept.linksOnBlend (hs : Kept s₀ s) : Kept s₀ s.linksOnBlend := by
  unfold State.linksOnBlend
  refine .foldl hs fun u x h => ?_
  extract_lets _ s₂
  have hs₂ : Kept s₀ s₂ := .setLink h
  exact .ite (.darken hs₂) (.ite (.maybeTrain (.linkTo hs₂)) (.bring hs₂))

theorem Kept.startEngines {es} (hs : Kept s₀ s) : Kept s₀ (s.startEngines es) := .foldl hs fun _ _ h => .ite (.engineStart h) h

/-! ### Contexts -/

theorem Kept.ctxStatus {inst code c} (hs : Kept s₀ s) : Kept s₀ (s.ctxStatus inst code c) := .set (.set hs)

theorem Kept.ctxCommand {inst cmd w} (hs : Kept s₀ s) : Kept s₀ (s.ctxCommand inst cmd w) := by
  unfold State.ctxCommand
  extract_lets _ s1
  have hs1 : Kept s₀ s1 := .ctxStatus hs
  split
  · exact hs
  · split
    · exact .ctxStatus hs
    · exact .ite (.ctxStatus (.foldl hs fun _ _ h => .setWord h)) (.upd hs1)

theorem Kept.ctxCommandOn {inst cmd w} (hs : Kept s₀ s) : Kept s₀ (s.ctxCommandOn inst cmd w) := .ite (.ctxCommand hs) (.ctlRefuse hs)

theorem Kept.staleDmas {c oldGen newGen} (hs : Kept s₀ s) : Kept s₀ (s.staleDmas c oldGen newGen) :=
  .foldl hs fun _ _ h => .ite (.modOp h) h

theorem Kept.ethErr {code qp} (hs : Kept s₀ s) : Kept s₀ (s.ethErr code qp) := .set (.set hs)

theorem Kept.failRoce {n code} (hs : Kept s₀ s) : Kept s₀ (s.failRoce n code) := by
  unfold State.failRoce
  extract_lets _ _ s1 s2
  have hs1 : Kept s₀ s1 := .ite hs (.ethErr hs)
  have hs2 : Kept s₀ s2 := .setQp hs1
  exact .upd hs2

theorem Kept.qpError {n code} (hs : Kept s₀ s) : Kept s₀ (s.qpError n code) := by
  unfold State.qpError
  extract_lets s1
  have hs1 : Kept s₀ s1 := .failRoce hs
  exact .setQp hs1

theorem Kept.ctxOpenAt {c} (hs : Kept s₀ s) : Kept s₀ (s.ctxOpenAt c) := .setCtx hs

theorem Kept.ctxRetireAt {c} (hs : Kept s₀ s) : Kept s₀ (s.ctxRetireAt c) :=
  .foldl (.ctxLeavesOpen (.staleDmas (.setCtx hs))) fun _ _ h => .qpError h

theorem Kept.ctxEdge {inst} (hs : Kept s₀ s) : Kept s₀ (s.ctxEdge inst) := by
  unfold State.ctxEdge
  split
  · exact hs
  · extract_lets s1 s2
    have hs1 : Kept s₀ s1 := .upd hs
    have hs2 : Kept s₀ s2 := .ite (.ctxRetireAt hs1) (.ctxOpenAt hs1)
    exact .ctxStatus hs2

theorem Kept.ctxDrained {c} (hs : Kept s₀ s) : Kept s₀ (s.ctxDrained c) := .ite (.setCtx hs) hs

theorem Kept.ctxDrainTimeout {c} (hs : Kept s₀ s) : Kept s₀ (s.ctxDrainTimeout c) := by
  unfold State.ctxDrainTimeout
  split
  · extract_lets s1
    have hs1 : Kept s₀ s1 := .abandonRequests hs
    exact .setCtx hs1
  · exact hs

theorem Kept.ctxQuarantineEnd {c} (hs : Kept s₀ s) : Kept s₀ (s.ctxQuarantineEnd c) := by
  unfold State.ctxQuarantineEnd
  extract_lets _ s1
  have hs1 : Kept s₀ s1 := .bump (.setCtx hs)
  split
  · split
    · exact .signalService hs1
    · exact hs1
  · exact hs

theorem Kept.xferProbe {inst v} (hs : Kept s₀ s) : Kept s₀ (s.xferProbe inst v) := .ite (.set hs) (.ctlRefuse hs)

/-! ### Counters and waits -/

theorem Kept.signalArrive {id n} (hs : Kept s₀ s) : Kept s₀ (s.signalArrive id n) := .foldl (.upd hs) fun _ _ h => .signalTo h
theorem Kept.ctrWrite {unit idx v} (hs : Kept s₀ s) : Kept s₀ (s.ctrWrite unit idx v) := .ite (.ctlRefuse hs) (.ite hs (.setCtr hs))
theorem Kept.rearmOne {id v} (hs : Kept s₀ s) : Kept s₀ (s.rearmOne id v) := .setCtr hs

theorem Kept.rearm {unit w} (hs : Kept s₀ s) : Kept s₀ (s.rearm unit w) :=
  .ite (.ctlRefuse hs) (.ite (.foldl hs fun _ _ h => .rearmOne h) (.ite (.rearmOne hs) hs))

theorem Kept.failHead {t q slot o which ue} (hs : Kept s₀ s) : Kept s₀ (s.failHead t q slot o which ue) := by
  unfold State.failHead
  extract_lets _ s1
  have hs1 : Kept s₀ s1 := .failOp hs
  exact .set hs1

theorem Kept.wakeHead {t q ue} (hs : Kept s₀ s) : Kept s₀ (s.wakeHead t q ue) := by
  unfold State.wakeHead
  split
  · exact hs
  · split
    · exact hs
    · split
      · exact .failHead hs
      · exact hs

theorem Kept.wakeCore {t c} (hs : Kept s₀ s) : Kept s₀ (s.wakeCore t c) := by
  unfold State.wakeCore
  extract_lets
  split
  · split
    · exact .setCore hs
    · exact .setCore hs
    · exact hs
  · exact hs

theorem Kept.wake {w ue} (hs : Kept s₀ s) : Kept s₀ (s.wake w ue) := by
  unfold State.wake
  split
  · exact .wakeHead hs
  · exact .wakeCore hs
  · exact .wakeCore hs

theorem Kept.failWaitersOn {t} (hs : Kept s₀ s) : Kept s₀ (s.failWaitersOn t) := by
  unfold State.failWaitersOn
  extract_lets s1
  have hs1 : Kept s₀ s1 := by
    dsimp only [s1]
    refine .foldl hs fun u x h => ?_
    split
    · exact h
    · refine .foldl h fun u x h => ?_
      split
      · exact h
      · exact .ite h (.ite (.failHead h) (.ite (.failHead h) h))
  exact .upd hs1

theorem Kept.syncNop {t q} (hs : Kept s₀ s) : Kept s₀ (s.syncNop t q) := by
  unfold State.syncNop
  split
  · exact .ite (.modOp (.leave hs)) hs
  · exact hs

theorem Kept.syncSet {t q} (hs : Kept s₀ s) : Kept s₀ (s.syncSet t q) := by
  unfold State.syncSet
  split
  · extract_lets _ s1
    have hs1 : Kept s₀ s1 := .leave hs
    exact .ite (.ite (.modOp hs1) (.modOp (.setCtr hs1))) hs
  · exact hs

theorem Kept.fenceOp {t q} (hs : Kept s₀ s) : Kept s₀ (s.fenceOp t q) := by
  unfold State.fenceOp
  split
  · exact .modOp (.leave hs)
  · exact hs

/-! ### Power domains -/

theorem Kept.resetPfx {p i} (hs : Kept s₀ s) : Kept s₀ (s.resetPfx p i) := .resetBlock hs

theorem Kept.resetDuring {p i during} (hs : Kept s₀ s) (hduring : ∀ u, Kept s₀ u → Kept s₀ (during u)) :
    Kept s₀ (s.resetDuring p i during) :=
  .resetFields (hduring _ (.clearCounters hs))

theorem Kept.resetRequests {pick} (hs : Kept s₀ s) : Kept s₀ (s.resetRequests pick) := .upd hs
theorem Kept.dropCores {t} (hs : Kept s₀ s) : Kept s₀ (s.dropCores t) := .upd hs
theorem Kept.freshCounters {t} (hs : Kept s₀ s) : Kept s₀ (s.freshCounters t) := .upd hs

theorem Kept.wipeTile {t} (hs : Kept s₀ s) : Kept s₀ (s.wipeTile t) :=
  .lose (.dropCores (.setTile (.resetPfx (.resetPfx (.resetPfx (.resetRequests (.orphanBuckets (.dropPasses hs))))))))

theorem Kept.tileOff {t} (hs : Kept s₀ s) : Kept s₀ (s.tileOff t) := .freshCounters (.wipeTile (.failWaitersOn hs))
theorem Kept.tileReset {t} (hs : Kept s₀ s) : Kept s₀ (s.tileReset t) := .poisonCounters (.freshCounters (.wipeTile hs))
theorem Kept.dieReset {d off} (hs : Kept s₀ s) : Kept s₀ (s.dieReset d off) := .setDie (.resetPfx (.resetPfx (.resetPfx hs)))
theorem Kept.engineOff {e} (hs : Kept s₀ s) : Kept s₀ (s.engineOff e) := .showService (.setEngine (.darken hs))

theorem Kept.rdcReset {p} (hs : Kept s₀ s) : Kept s₀ (s.rdcReset p) := by
  unfold State.rdcReset
  extract_lets mine uses s1 s2
  have hs1 : Kept s₀ s1 := .foldl hs fun _ _ h => .ite (.loseRegions h) (.modOp (.loseRegions h))
  exact .upd (.rdcRestart hs1)

theorem Kept.clearUncore {p} (hs : Kept s₀ s) : Kept s₀ (s.clearUncore p) :=
  .foldl (.clearCounters (.clearCounters hs)) fun _ _ h => .clearCounters h

theorem Kept.uncoreReset {p} (hs : Kept s₀ s) : Kept s₀ (s.uncoreReset p) := by
  unfold State.uncoreReset
  extract_lets s1 s2
  have hs1 : Kept s₀ s1 := .resetFields (.resetFields (.rdcReset hs))
  have hs2 : Kept s₀ s2 := .foldl hs1 fun _ _ h => .setLink (.resetFields h)
  exact .upd hs2

theorem Kept.setGens {gen} (hs : Kept s₀ s) : Kept s₀ (s.setGens gen) := .upd hs

theorem Kept.uncoreOff {p} (hs : Kept s₀ s) : Kept s₀ (s.uncoreOff p) := by
  unfold State.uncoreOff
  extract_lets s1 s2
  have hs1 : Kept s₀ s1 := .clearUncore (.uncoreReset (.darken hs))
  have hs2 : Kept s₀ s2 := .lose hs1
  exact .ite (.upd hs2) hs2

theorem Kept.uncoreOn (hs : Kept s₀ s) : Kept s₀ s.uncoreOn := by
  unfold State.uncoreOn
  split
  · extract_lets s1
    have hs1 : Kept s₀ s1 := .setGens hs
    exact .upd hs1
  · exact hs

theorem Kept.setDomain {d on} (hs : Kept s₀ s) : Kept s₀ (s.setDomain d on) := .upd hs

theorem Kept.switchOff {d} (hs : Kept s₀ s) : Kept s₀ (s.switchOff d) :=
  .ite (.setDomain hs) (.setDomain (.ite (.tileOff hs) (.ite (.dieReset hs) (.ite (.engineOff hs) (.ite (.uncoreOff hs) hs)))))

theorem Kept.switchOn {d} (hs : Kept s₀ s) : Kept s₀ (s.switchOn d) := by
  unfold State.switchOn
  split
  · exact .setDomain hs
  · extract_lets s1
    have hs1 : Kept s₀ s1 := .setDomain hs
    exact .ite (.uncoreOn hs1) (.ite (.startEngines hs1) hs1)

theorem Kept.switchBegin {d} (hs : Kept s₀ s) : Kept s₀ (s.switchBegin d) := .ite hs (.upd hs)

/-! ### Blends -/

theorem Kept.blendStatus {st code} (hs : Kept s₀ s) : Kept s₀ (s.blendStatus st code) := .set (.set hs)

theorem Kept.blendCopy (hs : Kept s₀ s) : Kept s₀ s.blendCopy := by
  unfold State.blendCopy
  extract_lets _ r2
  have hr2 : Kept s₀ r2 := .set hs
  exact .upd hr2

theorem Kept.blendCtrl {check apply} (hs : Kept s₀ s) : Kept s₀ (s.blendCtrl check apply) :=
  .ite (.set hs) (.ite hs (.ite (.set hs) (.ite (.blendCopy hs) (.ite (.set hs) (.set hs)))))

theorem Kept.blendCheckDone (hs : Kept s₀ s) : Kept s₀ s.blendCheckDone := by
  unfold State.blendCheckDone
  split
  · exact hs
  · split
    · extract_lets r1
      have hr1 : Kept s₀ r1 := .blendStatus hs
      exact .upd hr1
    · exact .set (.set (.blendStatus hs))

theorem Kept.blendQuiesce (hs : Kept s₀ s) : Kept s₀ s.blendQuiesce := .ite (.set hs) hs
theorem Kept.blendTimeout (hs : Kept s₀ s) : Kept s₀ s.blendTimeout := .ite (.blendStatus hs) hs

theorem Kept.discardStaged {p i} (hs : Kept s₀ s) : Kept s₀ (s.discardStaged p i) := by
  unfold State.discardStaged
  extract_lets _ _ _ s1
  have hs1 : Kept s₀ s1 := .ite (.setWord hs) hs
  exact .upd hs1

theorem Kept.powerPlan {b} (hs : Kept s₀ s) : Kept s₀ (s.powerPlan b) := .discardStaged (.set (.set (.set (.set hs))))

theorem Kept.planDomains {mask} (hs : Kept s₀ s) : Kept s₀ (s.planDomains mask) :=
  .foldl (.foldl hs fun _ _ h => .ite h (.switchOff h)) fun _ _ h => .ite (.switchBegin h) h

theorem Kept.rdcFresh (hs : Kept s₀ s) : Kept s₀ s.rdcFresh := .rdcRestart (.dropParked hs (fun _ _ h => .bump h))

theorem Kept.enforce {b} (hs : Kept s₀ s) : Kept s₀ (s.enforce b) := by
  unfold State.enforce
  extract_lets _ _ _ s1 s2 s3 s4
  have hs1 : Kept s₀ s1 := .upd hs
  have hs2 : Kept s₀ s2 := .ite hs1 (.lose hs1)
  have hs3 : Kept s₀ s3 := .set (.blendStatus hs2)
  have hs4 : Kept s₀ s4 := .foldl hs3 fun _ _ h => .set h
  exact .linksOnBlend (.rdcFresh (.planDomains (.powerPlan hs4)))

theorem Kept.blendCommit (hs : Kept s₀ s) : Kept s₀ s.blendCommit := by
  unfold State.blendCommit
  split
  · exact .enforce hs
  · exact hs

/-! ### Loss of input -/

theorem Kept.copyLog (hs : Kept s₀ s) : Kept s₀ s.copyLog := by
  unfold State.copyLog
  extract_lets _ _ s1
  have hs1 : Kept s₀ s1 := .foldl hs fun _ _ h => .writeBytes h
  exact .upd hs1

theorem Kept.placeLog {tail} (hs : Kept s₀ s) : Kept s₀ (s.placeLog tail) := by
  unfold State.placeLog
  extract_lets _ _ s1 s2
  have hs1 : Kept s₀ s1 := .foldl hs fun _ _ h => .writeBytes h
  have hs2 : Kept s₀ s2 := .foldl hs1 fun _ _ h => .writeBytes h
  exact .upd hs2

theorem Kept.save {reason complete} (hs : Kept s₀ s) : Kept s₀ (s.save reason complete) := .upd hs

theorem Kept.loseUnits (hs : Kept s₀ s) : Kept s₀ s.loseUnits := by
  unfold State.loseUnits
  extract_lets s1
  have hs1 : Kept s₀ s1 := .resetRequests (.darken hs)
  exact .upd hs1

theorem Kept.loseService (hs : Kept s₀ s) : Kept s₀ s.loseService := .upd hs
theorem Kept.loseMemory (hs : Kept s₀ s) : Kept s₀ s.loseMemory := .lose (.lose (.lose hs))
theorem Kept.loseRegs {cold} (hs : Kept s₀ s) : Kept s₀ (s.loseRegs cold) := .upd hs

theorem Kept.loseAll {cold} (hs : Kept s₀ s) : Kept s₀ (s.loseAll cold) := by
  unfold State.loseAll
  extract_lets s₂ r2
  have hs₂ : Kept s₀ s₂ := .upd hs
  have hr2 : Kept s₀ r2 := .tick (.loseRegs (.loseService (.loseMemory (.loseUnits hs₂))))
  exact .upd hr2

theorem Kept.startEnds {outcome code unit} (hs : Kept s₀ s) : Kept s₀ (s.startEnds outcome code unit) := by
  unfold State.startEnds
  extract_lets s1 r2
  have hs1 : Kept s₀ s1 := .tick hs
  have hr2 : Kept s₀ r2 := .tick hs1
  exact .upd hr2

theorem Kept.startCut (hs : Kept s₀ s) : Kept s₀ s.startCut := .ite (.startEnds hs) hs

theorem Kept.holdIn {h} (hs : Kept s₀ s) : Kept s₀ (s.holdIn h) := by
  unfold State.holdIn
  extract_lets s1
  have hs1 : Kept s₀ s1 := .loseAll hs
  exact .upd hs1

theorem Kept.startBegins {warm} (hs : Kept s₀ s) : Kept s₀ (s.startBegins warm) := by
  unfold State.startBegins
  extract_lets s1 s2 _ s3
  have hs1 : Kept s₀ s1 := .loseAll (.startCut hs)
  have hs2 : Kept s₀ s2 := .setMode (.setDomain (.setDomain hs1))
  have hs3 : Kept s₀ s3 := .placeLog hs2
  exact .upd hs3

/-! ### Resets -/

theorem Kept.reply {n seq opcode status body} (hs : Kept s₀ s) : Kept s₀ (s.reply n seq opcode status body) := .ite (.upd hs) hs

theorem Kept.sampleTile {t} (hs : Kept s₀ s) : Kept s₀ (s.sampleTile t) := by
  unfold State.sampleTile
  extract_lets _ s1
  have hs1 : Kept s₀ s1 := .writeBytes hs
  exact .upd hs1

theorem Kept.abandonOp {t slot ue} (hs : Kept s₀ s) : Kept s₀ (s.abandonOp t slot ue) := .resetRequests (.failOp hs)
theorem Kept.abandonOps {t ue pick} (hs : Kept s₀ s) : Kept s₀ (s.abandonOps t ue pick) := .ite hs (.foldl hs fun _ _ h => .abandonOp h)

theorem Kept.resetPart {t p ue} (hs : Kept s₀ s) : Kept s₀ (s.resetPart t p ue) := by
  unfold State.resetPart
  refine .ite hs ?_
  extract_lets s1 s2
  have hs1 : Kept s₀ s1 := .abandonOps hs
  have hs2 : Kept s₀ s2 := by
    dsimp only [s2]
    split
    · exact .stopCores hs1
    · exact hs1
  clear_value s2 s1
  split
  · exact .setTile hs2
  · exact .setTile (.dropCores hs1)
  · exact .dropPasses hs1
  · exact hs1

theorem Kept.abandonPasses {d ue} (hs : Kept s₀ s) : Kept s₀ (s.abandonPasses d ue) := by
  unfold State.abandonPasses
  extract_lets _ s1
  have hs1 : Kept s₀ s1 := .foldl hs fun _ _ h => .abandonOp h
  exact .setDie hs1

theorem Kept.resetCask {d ue} (hs : Kept s₀ s) : Kept s₀ (s.resetCask d ue) := by
  unfold State.resetCask
  extract_lets s1
  have hs1 : Kept s₀ s1 := .resetDuring hs (fun _ h => .abandonPasses h)
  exact .setDie hs1

theorem Kept.logIncomplete {d m l} (hs : Kept s₀ s) : Kept s₀ (s.logIncomplete d m l) := .logCode hs

theorem Kept.resetWrites {d} (hs : Kept s₀ s) : Kept s₀ (s.resetWrites d) := by
  unfold State.resetWrites
  refine .resetDuring hs fun _ h => ?_
  exact .foldl (.foldl (.upd h) fun _ _ h => .logIncomplete h) fun _ _ h => .cwrFinish h

theorem Kept.resetCal {d} (hs : Kept s₀ s) : Kept s₀ (s.resetCal d) := by
  unfold State.resetCal
  extract_lets s1
  have hs1 : Kept s₀ s1 := .resetPfx hs
  exact .setDie hs1

theorem Kept.resetDiePart {d p ue} (hs : Kept s₀ s) : Kept s₀ (s.resetDiePart d p ue) := by
  unfold State.resetDiePart
  split
  · exact hs
  · split
    · exact .resetCask hs
    · exact .resetWrites hs
    · exact .resetCal hs
    · exact hs

theorem Kept.resetLink {l} (hs : Kept s₀ s) : Kept s₀ (s.resetLink l) := by
  unfold State.resetLink
  split
  · exact hs
  · extract_lets s1
    have hs1 : Kept s₀ s1 := .resetDuring hs (fun _ h => .leaveUp h)
    exact .ite (.attempt (.bareFrame hs1)) (.maybeTrain (.bring hs1))

theorem Kept.resetEngine {e} (hs : Kept s₀ s) : Kept s₀ (s.resetEngine e) := by
  unfold State.resetEngine
  split
  · exact hs
  · extract_lets s1
    have hs1 : Kept s₀ s1 := .darken hs
    exact .engineStart (.setEngine hs1)

theorem Kept.resetPress {p} (hs : Kept s₀ s) : Kept s₀ (s.resetPress p) := by
  unfold State.resetPress
  extract_lets s1 s2 s3
  have hs1 : Kept s₀ s1 := .darken (.ite (.clearUncore hs) hs)
  have hs2 : Kept s₀ s2 := .foldl hs1 fun _ _ h => .ite (.tileReset h) h
  have hs3 : Kept s₀ s3 := .foldl hs2 fun _ _ h => .ite (.dieReset h) h
  exact .ite (.uncoreReset hs3) hs3

theorem Kept.countReset {level} (hs : Kept s₀ s) : Kept s₀ (s.countReset level) := by
  unfold State.countReset
  split
  · exact .bump hs
  · exact .bump hs
  · exact .bump hs
  · exact .bump hs
  · exact .bump hs
  · exact hs

theorem Kept.resetEffect {level u ue} (hs : Kept s₀ s) : Kept s₀ (s.resetEffect level u ue) := by
  unfold State.resetEffect
  extract_lets
  split
  · exact .ite (.resetPart hs) (.ite (.resetDiePart hs) (.resetLink hs))
  · exact .ite (.tileReset hs) hs
  · exact .resetEngine hs
  · exact .resetPress hs
  · exact hs

theorem Kept.noteLast {r} (hs : Kept s₀ s) : Kept s₀ (s.noteLast r) := .ite hs (.set (.set (.set (.set (.set hs)))))
theorem Kept.liftQuiesce {u} (hs : Kept s₀ s) : Kept s₀ (s.liftQuiesce u) := .ite (.setTile hs) (.ite (.setDie hs) hs)

theorem Kept.bistAnswer {req st code seg} (hs : Kept s₀ s) : Kept s₀ (s.bistAnswer req st code seg) := by
  unfold State.bistAnswer
  split
  · exact .reply hs
  · exact hs

theorem Kept.sliceCut {level u} (hs : Kept s₀ s) : Kept s₀ (s.sliceCut level u) := by
  unfold State.sliceCut
  split
  · exact hs
  · exact .ite (.bistAnswer (.bump (.liftQuiesce (.upd hs)))) hs

theorem Kept.dropLower {r} (hs : Kept s₀ s) : Kept s₀ (s.dropLower r).1 := .upd hs
theorem Kept.resetMode (hs : Kept s₀ s) : Kept s₀ s.resetMode := .ite (.setMode hs) (.ite (.setMode hs) hs)

theorem Kept.beginReset {r0 ue} (hs : Kept s₀ s) : Kept s₀ (s.beginReset r0 ue) := by
  unfold State.beginReset
  extract_lets d _ _ _ _ _ s1 s2 s3 s4
  have hd : Kept s₀ d.1 := .dropLower hs
  have hs1 : Kept s₀ s1 := .countReset (.noteLast (.foldl hd fun _ _ h => .sampleTile h))
  have hs2 : Kept s₀ s2 := .sliceCut hs1
  have hs3 : Kept s₀ s3 := .ite hs2 (.logCode hs2)
  have hs4 : Kept s₀ s4 := .resetEffect hs3
  exact .ite (.startBegins (.copyLog hs3)) (.ite (.startBegins hs3) (.resetMode (.upd hs4)))

theorem Kept.rstCmd {level u ue} (hs : Kept s₀ s) : Kept s₀ (s.rstCmd level u ue) := by
  unfold State.rstCmd
  split
  · exact hs
  · extract_lets _ s1
    have hs1 : Kept s₀ s1 := .set hs
    exact .ite (.beginReset hs1) hs1

theorem Kept.resetDone {u} (hs : Kept s₀ s) : Kept s₀ (s.resetDone u) := by
  unfold State.resetDone
  split
  · exact hs
  · extract_lets _ s1 s2
    have hs1 : Kept s₀ s1 := .upd hs
    have hs2 : Kept s₀ s2 := .ite (.foldl hs1 fun _ _ h => .bring h) hs1
    exact .resetMode (.foldl hs2 fun _ _ h => .reply h)

theorem Kept.safeEntry {cause u} (hs : Kept s₀ s) : Kept s₀ (s.safeEntry cause u) := by
  unfold State.safeEntry
  split
  · exact hs
  · extract_lets s1 s2 s3
    have hs1 : Kept s₀ s1 := .foldl (.startCut hs) fun _ _ h => .setTile h
    have hs2 : Kept s₀ s2 := .foldl hs1 fun _ _ h => .setDie h
    have hs3 : Kept s₀ s3 := .darken hs2
    exact .upd hs3

theorem Kept.safeDrained (hs : Kept s₀ s) : Kept s₀ s.safeDrained := by
  unfold State.safeDrained
  split
  · exact hs
  · extract_lets _ s1 s2 _ s3
    have hs1 : Kept s₀ s1 := .save hs
    have hs2 : Kept s₀ s2 := .foldl hs1 fun _ _ h => .switchOff h
    have hs3 : Kept s₀ s3 := .bump (.setMode (.upd hs2))
    exact .copyLog (.alarm hs3)

theorem Kept.noteEscalation {level u} (hs : Kept s₀ s) : Kept s₀ (s.noteEscalation level u) := .bump (.logCode hs)

theorem Kept.warmEscalate (hs : Kept s₀ s) : Kept s₀ s.warmEscalate := by
  unfold State.warmEscalate
  extract_lets s1
  have hs1 : Kept s₀ s1 := .noteEscalation hs
  exact .ite (.safeEntry hs1) (.beginReset hs1)

theorem Kept.escalate {u} (hs : Kept s₀ s) : Kept s₀ (s.escalate u) := by
  unfold State.escalate
  split
  · extract_lets _ s1
    have hs1 : Kept s₀ s1 := .noteEscalation (.upd hs)
    exact .ite (.safeEntry hs1) (.ite (.resetMode hs1) (.resetMode (.beginReset hs1)))
  · exact .ite (.warmEscalate hs) hs

theorem Kept.hangUse {o h} (hs : Kept s₀ s) : Kept s₀ (s.hangUse o h) := by
  unfold State.hangUse
  split
  · exact hs
  · extract_lets
    split
    · exact hs
    · exact .ite (.failUseWith hs) (.failUse hs)

theorem Kept.latchHang {slot o h} (hs : Kept s₀ s) : Kept s₀ (s.latchHang slot o h) :=
  .ite hs (.set (.setWord (.set (.set (.set (.set (.set (.set (.set (.set (.set hs)))))))))))

theorem Kept.hangReset {u second ue} (hs : Kept s₀ s) : Kept s₀ (s.hangReset u second ue) := by
  unfold State.hangReset
  split
  · exact .ite hs (.beginReset hs)
  · exact hs

theorem Kept.logHang {o h} (hs : Kept s₀ s) : Kept s₀ (s.logHang o h) := .logCode hs

theorem Kept.expire {t slot o h ue} (hs : Kept s₀ s) : Kept s₀ (s.expire t slot o h ue) :=
  .logHang (.bump (.latchHang (.resetRequests (.failOp (.hangUse hs)))))

theorem Kept.deadline {t slots ue} (hs : Kept s₀ s) : Kept s₀ (s.deadline t slots ue) :=
  .ite hs (.foldl (.foldl (.upd hs) fun _ _ h => .expire h) fun _ _ h => .hangReset (.hangReset h))

theorem Kept.longWait {t q} (hs : Kept s₀ s) : Kept s₀ (s.longWait t q) := by
  unfold State.longWait
  split
  · exact hs
  · exact .ite hs (.bump (.logCode (.upd hs)))

/-! ### Self-test -/

theorem Kept.askQuiesce {u} (hs : Kept s₀ s) : Kept s₀ (s.askQuiesce u) := .ite (.setTile hs) (.ite (.setDie hs) hs)
theorem Kept.sliceStart {x} (hs : Kept s₀ s) : Kept s₀ (s.sliceStart x) := .askQuiesce (.upd hs)

theorem Kept.bistVisit (hs : Kept s₀ s) : Kept s₀ s.bistVisit := by
  unfold State.bistVisit
  extract_lets _ _ _ _ _ s1
  have hs1 : Kept s₀ s1 := .ite hs (.bump hs)
  split
  · exact hs
  · split
    · exact .sliceStart (.upd hs1)
    · exact hs1

theorem Kept.bistQuiesced (hs : Kept s₀ s) : Kept s₀ s.bistQuiesced := by
  unfold State.bistQuiesced
  split
  · exact hs
  · split
    · extract_lets _ s1
      have hs1 : Kept s₀ s1 := .upd hs
      exact .ite (.settleDie hs1) hs1
    · exact hs

theorem Kept.bistTimeout (hs : Kept s₀ s) : Kept s₀ s.bistTimeout := by
  unfold State.bistTimeout
  split
  · exact hs
  · split
    · exact hs
    · extract_lets _ _ s1 s2 s3
      have hs1 : Kept s₀ s1 := .upd hs
      have hs2 : Kept s₀ s2 := .bump (.liftQuiesce hs1)
      have hs3 : Kept s₀ s3 := .ite (.alarm (.set hs2)) hs2
      exact .bistAnswer hs3

theorem Kept.slicePass {x} (hs : Kept s₀ s) : Kept s₀ (s.slicePass x) := by
  unfold State.slicePass
  extract_lets _ _ _ _ s1 s2
  have hs1 : Kept s₀ s1 := .bump (.upd hs)
  have hs2 : Kept s₀ s2 := .ite (.bump hs1) hs1
  exact .ite (.sliceStart hs2) (.bistAnswer (.liftQuiesce hs2))

theorem Kept.sliceFail {x diff} (hs : Kept s₀ s) : Kept s₀ (s.sliceFail x diff) :=
  .safeEntry (.bistAnswer (.logCode (.set (.set (.set (.set hs))))))

theorem Kept.sliceDone {sig} (hs : Kept s₀ s) : Kept s₀ (s.sliceDone sig) := by
  unfold State.sliceDone
  split
  · exact hs
  · exact .ite hs (.ite (.slicePass hs) (.sliceFail hs))

theorem Kept.bistAsk {u slices session} (hs : Kept s₀ s) : Kept s₀ (s.bistAsk u slices session) :=
  .ite (.bistAnswer (.set hs)) (.ite (.sliceStart hs) (.bistAnswer (.bump hs)))

theorem Kept.bistCmd {w} (hs : Kept s₀ s) : Kept s₀ (s.bistCmd w) := .ite hs (.bistAsk hs)

/-! ### The rack record -/

theorem Kept.rackBegin {x} (hs : Kept s₀ s) : Kept s₀ (s.rackBegin x) := .upd hs

theorem Kept.rackAsk {id session} (hs : Kept s₀ s) : Kept s₀ (s.rackAsk id session) := by
  unfold State.rackAsk
  split
  · exact .set hs
  · exact .rackBegin (.set hs)

theorem Kept.rackLink {x l} (hs : Kept s₀ s) : Kept s₀ (s.rackLink x l) := .setLink hs

theorem Kept.rackLatch (hs : Kept s₀ s) : Kept s₀ s.rackLatch := by
  unfold State.rackLatch
  split
  · exact hs
  · exact .ite hs (.rackBegin (.tick (.foldl hs fun _ _ h => .rackLink h)))

theorem Kept.rackIgnored {l} (hs : Kept s₀ s) : Kept s₀ (s.rackIgnored l) := .setLink hs

theorem Kept.rackMatch {x l} (hs : Kept s₀ s) : Kept s₀ (s.rackMatch x l) := by
  unfold State.rackMatch
  extract_lets s1
  have hs1 : Kept s₀ s1 := .bump hs
  exact .ite (.rackBegin hs1) (.rackBegin hs1)

theorem Kept.rackFlit {l} (hs : Kept s₀ s) : Kept s₀ (s.rackFlit l) := by
  unfold State.rackFlit
  split
  next => exact hs
  next h =>
    have hs1 := Kept.takeDelivered hs h
    extract_lets id
    split
    · exact .ite (.rackMatch hs1) (.rackIgnored (.bump hs1))
    · exact .ite (.rackIgnored (.bump hs1)) (.rackBegin hs1)

theorem Kept.rackTimeout (hs : Kept s₀ s) : Kept s₀ s.rackTimeout := by
  unfold State.rackTimeout
  split
  · exact hs
  · exact .ite hs (.rackBegin (.logCode (.set hs)))

theorem Kept.rackForget (hs : Kept s₀ s) : Kept s₀ s.rackForget := .foldl hs fun _ _ h => .setLink h

theorem Kept.rackWritten (hs : Kept s₀ s) : Kept s₀ s.rackWritten := by
  unfold State.rackWritten
  split
  · exact hs
  · extract_lets _ _ _ s1 s2 s3 r7 _ s4 s5
    have hs1 : Kept s₀ s1 := .ite (.rackTimeout hs) hs
    have hs2 : Kept s₀ s2 := .writeBytes (.rackForget hs1)
    have hs3 : Kept s₀ s3 := .bump (.set (.set (.set hs2)))
    have hr7 : Kept s₀ r7 := .set hs3
    have hs4 : Kept s₀ s4 := .upd hr7
    have hs5 : Kept s₀ s5 := .ite (.signalService hs4) hs4
    split
    · exact hs
    · split
      · exact .reply hs5
      · exact hs5

theorem Kept.logRptr {rptr} (hs : Kept s₀ s) : Kept s₀ (s.logRptr rptr) := by
  unfold State.logRptr
  extract_lets s1
  have hs1 : Kept s₀ s1 := .set hs
  exact .ite (.upd hs1) hs1

/-! ### Housekeeping -/

theorem Kept.pwrErr {code part} (hs : Kept s₀ s) : Kept s₀ (s.pwrErr code part) := .set (.set hs)

theorem Kept.pwrEvent {code part unit alert a} (hs : Kept s₀ s) : Kept s₀ (s.pwrEvent code part unit alert a) := by
  unfold State.pwrEvent
  extract_lets s1
  have hs1 : Kept s₀ s1 := .pwrErr hs
  exact .ite (.alarm hs1) (.logCode hs1)

theorem Kept.hkcRequest {chs} (hs : Kept s₀ s) : Kept s₀ (s.hkcRequest chs) := by
  unfold State.hkcRequest
  split
  · exact hs
  · extract_lets _ _ r3
    have hr3 : Kept s₀ r3 := .tick hs
    exact .ite (.bump (.upd hr3)) (.upd hs)

theorem Kept.hkcWrite {a bs} (hs : Kept s₀ s) : Kept s₀ (s.hkcWrite a bs) := .upd hs

theorem Kept.hkcRing {x} (hs : Kept s₀ s) : Kept s₀ (s.hkcRing x) := by
  unfold State.hkcRing
  extract_lets _ _ _ s1 s2
  have hs1 : Kept s₀ s1 := .hkcWrite hs
  have hs2 : Kept s₀ s2 := .set hs1
  exact .ite hs (.ite (.bump hs) (.ite (.signalService hs2) hs2))

theorem Kept.hkcResult {x} (hs : Kept s₀ s) : Kept s₀ (s.hkcResult x) := .bump (.hkcRing (.setWord hs))

theorem Kept.checkTherm {i} (hs : Kept s₀ s) : Kept s₀ (s.checkTherm i) := by
  unfold State.checkTherm
  extract_lets _ _ _ s1
  have hs1 : Kept s₀ s1 := .upd hs
  exact .ite hs (.ite (.pwrEvent hs1) hs1)

theorem Kept.checkRef (hs : Kept s₀ s) : Kept s₀ s.checkRef := by
  unfold State.checkRef
  extract_lets _ _ _ _ _ s1
  have hs1 : Kept s₀ s1 := .upd hs
  exact .ite hs (.ite (.pwrEvent hs1) hs1)

theorem Kept.scanTemps (hs : Kept s₀ s) : Kept s₀ s.scanTemps := .foldl (.upd hs) fun _ _ h => .setDie h

theorem Kept.hkcScan {codes uj} (hs : Kept s₀ s) : Kept s₀ (s.hkcScan codes uj) := by
  unfold State.hkcScan
  extract_lets _ _ _ s1 _ s2 s3
  have hs1 : Kept s₀ s1 := .foldl hs fun _ _ h => .hkcResult h
  have hs2 : Kept s₀ s2 := .setWord hs1
  have hs3 : Kept s₀ s3 := .scanTemps (.checkRef (.foldl hs2 fun _ _ h => .checkTherm h))
  exact .ite hs (.upd hs3)

theorem Kept.hkcTest {w} (hs : Kept s₀ s) : Kept s₀ (s.hkcTest w) := .ite (.ctlRefuse hs) (.ite hs (.set (.set hs)))

theorem Kept.hkcTestDone {rs} (hs : Kept s₀ s) : Kept s₀ (s.hkcTestDone rs) := by
  unfold State.hkcTestDone
  split
  · exact hs
  · extract_lets _ _ s1
    have hs1 : Kept s₀ s1 := .set (.set hs)
    exact .ite hs1 (.pwrEvent hs1)

theorem Kept.hkcRptr {rptr} (hs : Kept s₀ s) : Kept s₀ (s.hkcRptr rptr) := .ite (.ctlRefuse hs) (.ite (.pwrErr hs) (.set hs))

/-! ### Power -/

theorem Kept.saveIfReady {reason complete} (hs : Kept s₀ s) : Kept s₀ (s.saveIfReady reason complete) := .ite (.save hs) hs

theorem Kept.sag {complete} (hs : Kept s₀ s) : Kept s₀ (s.sag complete) :=
  .ite (.holdIn (.saveIfReady (.startCut (.darken (.hkcRequest (.alertOut hs)))))) (.ite hs (.upd hs))

theorem Kept.inputStable (hs : Kept s₀ s) : Kept s₀ s.inputStable := .ite hs (.ite (.upd hs) (.startBegins hs))
theorem Kept.overvoltage (hs : Kept s₀ s) : Kept s₀ s.overvoltage := .ite (.pwrEvent hs) hs
theorem Kept.holdupAbsent (hs : Kept s₀ s) : Kept s₀ s.holdupAbsent := .ite (.pwrEvent hs) hs
theorem Kept.envelopePeriod {duty} (hs : Kept s₀ s) : Kept s₀ (s.envelopePeriod duty) := .ite hs (.ite (.pwrErr hs) (.upd hs))
theorem Kept.envelopeLost (hs : Kept s₀ s) : Kept s₀ s.envelopeLost := .ite (.pwrEvent hs) hs
theorem Kept.envelopeWrite {w} (hs : Kept s₀ s) : Kept s₀ (s.envelopeWrite w) := .ite (.pwrErr hs) (.set hs)
theorem Kept.capSend (hs : Kept s₀ s) : Kept s₀ s.capSend := .ite hs (.foldl (.upd hs) fun _ _ h => .sendMsg h)

theorem Kept.capState {l} (hs : Kept s₀ s) : Kept s₀ (s.capState l) := by
  unfold State.capState
  split
  next => exact hs
  next h =>
    have hs1 := Kept.takeDelivered hs h
    extract_lets a s2 seq r s3 r' s4
    have hs3 : Kept s₀ s3 := .upd (.ite (.writeBytes hs1) hs1)
    exact .ite hs3 (.foldl (.upd hs3) fun _ _ h => .sendMsg h)

theorem Kept.capMove {w} (hs : Kept s₀ s) : Kept s₀ (s.capMove w) := by
  unfold State.capMove
  extract_lets _ _ _ _ _ r6
  have hr6 : Kept s₀ r6 := .upd hs
  exact .ite (.ite (.upd hs) (.ite (.upd hs) (.pwrEvent (.upd hr6)))) (.ite (.upd hs) (.upd hs))

theorem Kept.capUnder {w} (hs : Kept s₀ s) : Kept s₀ (s.capUnder w) := .upd hs

theorem Kept.capCount (hs : Kept s₀ s) : Kept s₀ s.capCount := by
  unfold State.capCount
  extract_lets _ _ s1 s2
  have hs1 : Kept s₀ s1 := .upd hs
  have hs2 : Kept s₀ s2 := .ite (.bump hs1) hs1
  exact .ite hs1 (.ite hs2 (.bump hs2))

theorem Kept.capLoop {w} (hs : Kept s₀ s) : Kept s₀ (s.capLoop w) := .ite hs (.capSend (.capCount (.capUnder (.capMove (.upd hs)))))

theorem Kept.dutySlot {slot} (hs : Kept s₀ s) : Kept s₀ (s.dutySlot slot) :=
  .foldl (.foldl hs fun _ _ h => .setTile h) fun _ _ h => .setDie h

theorem Kept.thermalThrottle {u} (hs : Kept s₀ s) : Kept s₀ (s.thermalThrottle u) := by
  unfold State.thermalThrottle
  extract_lets _ _ _ _ _ s1
  have hs1 : Kept s₀ s1 := .upd hs
  exact .ite hs (.ite (.ite (.pwrEvent hs1) hs1) (.ite (.setDie hs) hs))

theorem Kept.thermalTrip {u complete} (hs : Kept s₀ s) : Kept s₀ (s.thermalTrip u complete) :=
  .ite hs (.holdIn (.saveIfReady (.startCut (.darken (.hkcRequest (.pwrEvent hs))))))

theorem Kept.extTherm {i} (hs : Kept s₀ s) : Kept s₀ (s.extTherm i) := .ite (.pwrEvent hs) hs

theorem Kept.ballast {w bmax t} (hs : Kept s₀ s) : Kept s₀ (s.ballast w bmax t) := by
  unfold State.ballast
  split
  · exact hs
  · extract_lets _ _ _ _ _ _ _ _ _ r10
    have hr10 : Kept s₀ r10 := .setWord hs
    exact .upd hr10

theorem Kept.droopTrip {isCask u} (hs : Kept s₀ s) : Kept s₀ (s.droopTrip isCask u) :=
  .ite (.ite (.hkcRequest (.bump (.setDie hs))) hs) (.ite (.hkcRequest (.bump (.setTile hs))) hs)

theorem Kept.droopRecover {isCask u} (hs : Kept s₀ s) : Kept s₀ (s.droopRecover isCask u) := .ite (.setDie hs) (.setTile hs)
theorem Kept.attrPut {bs} (hs : Kept s₀ s) : Kept s₀ (s.attrPut bs).1 := .ite_fst hs (.set (.writeBytes hs))

theorem Kept.attrClose {shares measured mark} (hs : Kept s₀ s) : Kept s₀ (s.attrClose shares measured mark) := by
  unfold State.attrClose
  split
  · exact hs
  · extract_lets xs total n a s1 pw s2 recs x s3
    have hs2 : Kept s₀ s2 := .upd (.setWord hs)
    have hx : Kept s₀ x.1 := .foldl_fst hs2 fun _ _ h => .pair (.attrPut h)
    split
    · exact hs2
    · exact .signalService (.ite hx (.pwrEvent hx))

theorem Kept.attrMark (hs : Kept s₀ s) : Kept s₀ s.attrMark := .attrClose (.tick hs)
theorem Kept.attrDrift {measured model} (hs : Kept s₀ s) : Kept s₀ (s.attrDrift measured model) := .ite (.pwrEvent hs) hs

theorem Kept.domainCmd {w} (hs : Kept s₀ s) : Kept s₀ (s.domainCmd w) := by
  unfold State.domainCmd
  extract_lets _ _ _ s1
  have hs1 : Kept s₀ s1 := .set hs
  exact .ite (.pwrErr hs1) (.ite (.switchBegin hs1) (.switchOff hs1))

theorem Kept.domainDone {d} (hs : Kept s₀ s) : Kept s₀ (s.domainDone d) := .ite (.switchOn hs) hs

theorem Kept.idleStatus {code} (hs : Kept s₀ s) : Kept s₀ (s.idleStatus code) := by
  unfold State.idleStatus
  extract_lets s1
  have hs1 : Kept s₀ s1 := .set hs
  exact .ite hs1 (.pwrErr hs1)

theorem Kept.idleDeep (hs : Kept s₀ s) : Kept s₀ s.idleDeep := by
  unfold State.idleDeep
  split
  · exact .idleStatus hs
  · split
    · exact .idleStatus hs
    · refine .setMode ?_
      extract_lets r1
      have hr1 : Kept s₀ r1 := .idleStatus hs
      exact .upd hr1

theorem Kept.deepIdle (hs : Kept s₀ s) : Kept s₀ s.deepIdle := by
  unfold State.deepIdle
  split
  · exact hs
  · extract_lets s1 s2
    have hs1 : Kept s₀ s1 := .darken hs
    have hs2 : Kept s₀ s2 := .foldl hs1 fun _ _ h => .switchOff h
    exact .upd hs2

theorem Kept.idleResume (hs : Kept s₀ s) : Kept s₀ s.idleResume := by
  unfold State.idleResume
  split
  · exact .idleStatus hs
  · extract_lets r1 _ s1
    have hr1 : Kept s₀ r1 := .idleStatus hs
    have hs1 : Kept s₀ s1 := .upd hr1
    exact .foldl hs1 fun _ _ h => .ite (.switchBegin h) h

theorem Kept.resumed (hs : Kept s₀ s) : Kept s₀ s.resumed := .ite hs (.startEngines (.setMode (.upd hs)))

/-! ### Boot -/

theorem Kept.resetInLow (hs : Kept s₀ s) : Kept s₀ s.resetInLow := by
  unfold State.resetInLow
  extract_lets _ s1 s2
  have hs1 : Kept s₀ s1 := .upd hs
  have hs2 : Kept s₀ s2 := .loseAll (.startCut (.darken hs1))
  split
  · exact hs1
  · exact hs1
  · exact .upd hs2

theorem Kept.resetInRise (hs : Kept s₀ s) : Kept s₀ s.resetInRise := by
  unfold State.resetInRise
  extract_lets _ s1
  have hs1 : Kept s₀ s1 := .upd hs
  exact .ite (.startBegins hs1) hs1

theorem Kept.stageTime {stage} (hs : Kept s₀ s) : Kept s₀ (s.stageTime stage) := by
  unfold State.stageTime
  extract_lets r1
  have hr1 : Kept s₀ r1 := .tick hs
  exact .upd hr1

theorem Kept.toStage {stage} (hs : Kept s₀ s) : Kept s₀ (s.toStage stage) := .upd hs
theorem Kept.countFailure (hs : Kept s₀ s) : Kept s₀ s.countFailure := .upd hs

theorem Kept.startFails {stage code unit} (hs : Kept s₀ s) : Kept s₀ (s.startFails stage code unit) := by
  unfold State.startFails
  extract_lets s0 s1
  have hs0 : Kept s₀ s0 := .toStage hs
  have hs1 : Kept s₀ s1 := .ite (.logCode hs0) (.alarm hs0)
  exact .ite (.warmEscalate (.startEnds hs1)) (.holdIn (.startEnds (.countFailure hs1)))

theorem Kept.loadCap (hs : Kept s₀ s) : Kept s₀ s.loadCap := .foldl hs fun _ _ h => .setWord h

theorem Kept.chooseTin (hs : Kept s₀ s) : Kept s₀ s.chooseTin := by
  unfold State.chooseTin
  extract_lets _ _ _ s1
  have hs1 : Kept s₀ s1 := .upd hs
  exact .ite (.logCode hs1) hs1

theorem Kept.stageRom (hs : Kept s₀ s) : Kept s₀ s.stageRom := by
  unfold State.stageRom
  split
  · exact hs
  · extract_lets s1
    have hs1 : Kept s₀ s1 := .chooseTin (.stageTime hs)
    split
    · exact .startFails hs1
    · exact .toStage (.setDomain (.ite (.loadCap hs1) hs1))

theorem Kept.copySections (hs : Kept s₀ s) : Kept s₀ s.copySections := by
  unfold State.copySections
  split
  · exact .ite (.lose hs) hs
  · exact hs

theorem Kept.stagePower {refsOk testOk vinMv vholdMv} (hs : Kept s₀ s) : Kept s₀ (s.stagePower refsOk testOk vinMv vholdMv) := by
  unfold State.stagePower
  split
  · exact hs
  · extract_lets s1
    have hs1 : Kept s₀ s1 := .stageTime hs
    exact .ite (.startFails hs1) (.ite (.startFails hs1) (.ite (.startFails hs1) (.toStage (.copySections (.set hs1)))))

theorem Kept.trialRevert (hs : Kept s₀ s) : Kept s₀ s.trialRevert := .ite (.logCode (.upd hs)) hs
theorem Kept.loadBank {b} (hs : Kept s₀ s) : Kept s₀ (s.loadBank b) := .upd hs
theorem Kept.logBanks {bs} (hs : Kept s₀ s) : Kept s₀ (s.logBanks bs) := .foldl hs fun _ _ h => .logCode h

theorem Kept.stageImage (hs : Kept s₀ s) : Kept s₀ s.stageImage := by
  unfold State.stageImage
  split
  · exact hs
  · extract_lets s1 _ s2
    have hs1 : Kept s₀ s1 := .trialRevert (.stageTime hs)
    have hs2 : Kept s₀ s2 := .logBanks hs1
    split
    · exact .startFails hs2
    · exact .toStage (.setDomain (.loadBank hs2))

theorem Kept.loadNetwork (hs : Kept s₀ s) : Kept s₀ s.loadNetwork := by
  unfold State.loadNetwork
  extract_lets _ _ s1 _ _ _ s2 s3
  have hs1 : Kept s₀ s1 := .upd hs
  have hs2 : Kept s₀ s2 := .ite (.logCode (.upd hs1)) hs1
  have hs3 : Kept s₀ s3 := .foldl hs2 fun _ _ h => .setWord h
  exact .set hs3

theorem Kept.reachReady (hs : Kept s₀ s) : Kept s₀ s.reachReady := .startEnds (.setMode (.upd hs))
theorem Kept.maybeReady (hs : Kept s₀ s) : Kept s₀ s.maybeReady := .ite (.reachReady hs) hs

theorem Kept.coverFails {stage unit seg} (hs : Kept s₀ s) : Kept s₀ (s.coverFails stage unit seg) :=
  .startFails (.set (.tick (.set (.set (.set hs)))))

theorem Kept.covered {slices blocks} (hs : Kept s₀ s) : Kept s₀ (s.covered slices blocks) := .bump (.bump hs)

theorem Kept.stageEther {fail} (hs : Kept s₀ s) : Kept s₀ (s.stageEther fail) := by
  unfold State.stageEther
  split
  · exact hs
  · split
    · exact .coverFails hs
    · extract_lets s1 _ s2
      have hs1 : Kept s₀ s1 := .loadNetwork (.covered hs)
      have hs2 : Kept s₀ s2 := .upd hs1
      exact .ite (.startEnds (.setMode hs2)) (.maybeReady hs2)

theorem Kept.switchAll {ds} (hs : Kept s₀ s) : Kept s₀ (s.switchAll ds) := .foldl hs fun _ _ h => .switchOn h
theorem Kept.beginBoth (hs : Kept s₀ s) : Kept s₀ s.beginBoth := .toStage (.startEngines (.ite (.switchAll hs) hs))

theorem Kept.stageUncore {trainFail} (hs : Kept s₀ s) : Kept s₀ (s.stageUncore trainFail) := by
  unfold State.stageUncore
  split
  · exact hs
  · extract_lets s1
    have hs1 : Kept s₀ s1 := .switchAll (.stageTime hs)
    split
    · exact .startFails hs1
    · exact .ite (.beginBoth hs1) (.toStage hs1)

theorem Kept.stageSelftest {fail} (hs : Kept s₀ s) : Kept s₀ (s.stageSelftest fail) := by
  unfold State.stageSelftest
  split
  · exact hs
  · extract_lets s1
    have hs1 : Kept s₀ s1 := .switchAll (.stageTime hs)
    split
    · exact .coverFails hs1
    · exact .beginBoth (.covered hs1)

theorem Kept.joinBoth (hs : Kept s₀ s) : Kept s₀ s.joinBoth := .ite (.toStage hs) hs
theorem Kept.loadSets (hs : Kept s₀ s) : Kept s₀ s.loadSets := .foldl hs fun _ _ h => .calLoad h
theorem Kept.startOlt {rs} (hs : Kept s₀ s) : Kept s₀ (s.startOlt rs) := .foldl hs fun _ _ h => .oltFindings h

theorem Kept.stageCask {noSet lines} (hs : Kept s₀ s) : Kept s₀ (s.stageCask noSet lines) := by
  unfold State.stageCask
  split
  · exact hs
  · extract_lets s1 s2
    have hs1 : Kept s₀ s1 := .loadSets hs
    have hs2 : Kept s₀ s2 := .ite (.stageTime hs1) (.startOlt (.stageTime hs1))
    split
    · exact .startFails (.stageTime hs1)
    · exact .ite (.joinBoth (.upd hs2)) hs1

theorem Kept.engineEnd {fault e} (hs : Kept s₀ s) : Kept s₀ (s.engineEnd fault e) :=
  .ite (.ite (.ringTuneFail hs) (.laserFault hs)) (.ringTuneDone (.laserWaitDone hs))

theorem Kept.stageOptical {faults} (hs : Kept s₀ s) : Kept s₀ (s.stageOptical faults) := by
  unfold State.stageOptical
  split
  · exact hs
  · extract_lets s1
    have hs1 : Kept s₀ s1 := .foldl (.stageTime hs) fun _ _ h => .engineEnd h
    exact .joinBoth (.upd hs1)

theorem Kept.restoreCal {regs d} (hs : Kept s₀ s) : Kept s₀ (s.restoreCal regs d) := .foldl (.set (.set hs)) fun _ _ h => .setWord h

theorem Kept.restoreRows {rows} (hs : Kept s₀ s) : Kept s₀ (s.restoreRows rows) := by
  unfold State.restoreRows
  refine .foldl hs fun u x h => ?_
  split
  · exact .setWj h
  · exact h

theorem Kept.restoreImage {i} (hs : Kept s₀ s) : Kept s₀ (s.restoreImage i) := by
  unfold State.restoreImage
  extract_lets s1 s2 s3
  have hs1 : Kept s₀ s1 := .setGens hs
  have hs2 : Kept s₀ s2 := .upd hs1
  have hs3 : Kept s₀ s3 := .foldl (.restoreRows hs2) fun _ _ h => .restoreCal h
  exact .upd hs3

theorem Kept.restore (hs : Kept s₀ s) : Kept s₀ s.restore := by
  unfold State.restore
  split
  · exact hs
  · split
    · exact hs
    · extract_lets r1 _ s1
      have hr1 : Kept s₀ r1 := .bump hs
      have hs1 : Kept s₀ s1 := .upd hr1
      exact .ite (.pwrEvent (.restoreImage hs1)) (.pwrEvent hs1)

theorem Kept.logInterrupted (hs : Kept s₀ s) : Kept s₀ s.logInterrupted := .foldl hs fun _ _ h => .logIncomplete h

theorem Kept.stageReady (hs : Kept s₀ s) : Kept s₀ s.stageReady := by
  unfold State.stageReady
  split
  · exact hs
  · extract_lets s1 s2 s3
    have hs1 : Kept s₀ s1 := .stageTime hs
    have hs2 : Kept s₀ s2 := .ite (.switchAll hs1) hs1
    have hs3 : Kept s₀ s3 := .logInterrupted (.restore hs2)
    exact .maybeReady (.upd hs3)

theorem Kept.stageTimeout (hs : Kept s₀ s) : Kept s₀ s.stageTimeout := .ite (.startFails hs) hs

/-! ### Register accesses -/

theorem Kept.refuseAccess {a code addr} (hs : Kept s₀ s) : Kept s₀ (s.refuseAccess a code addr) := by
  unfold State.refuseAccess
  extract_lets s1
  have hs1 : Kept s₀ s1 := .ctlRefuse hs
  split
  · exact .upd hs1
  · exact hs1

theorem Kept.readClears {addr ev} (hs : Kept s₀ s) : Kept s₀ (s.readClears addr ev) := .ite hs (.setWord hs)

theorem Kept.readAccess {a addr size ev} (hs : Kept s₀ s) : Kept s₀ (s.readAccess a addr size ev) := by
  unfold State.readAccess
  split
  · exact .refuseAccess hs
  · exact .readClears hs

/-! ### Commits -/

theorem Kept.commitStatus {p i state code off} (hs : Kept s₀ s) : Kept s₀ (s.commitStatus p i state code off) := .setWord hs
theorem Kept.commitBusy {p i} (hs : Kept s₀ s) : Kept s₀ (s.commitBusy p i) := .setWord hs
theorem Kept.capture {base} (hs : Kept s₀ s) : Kept s₀ (s.capture base) := .upd hs

theorem Kept.commitGo {p i} (hs : Kept s₀ s) : Kept s₀ (s.commitGo p i) :=
  .ite hs (.ite (.ctlRefuse hs) (.ite (.commitBusy hs) (.commitStatus (.capture hs))))

theorem Kept.takeWord {a} (hs : Kept s₀ s) : Kept s₀ (s.takeWord a) := .setWord hs

theorem Kept.commitEffects {old p i} (hs : Kept s₀ s) : Kept s₀ (s.commitEffects old p i) := by
  unfold State.commitEffects
  split
  · refine .foldl hs fun u x h => ?_
    split
    · extract_lets s1
      have hs1 : Kept s₀ s1 := .set (.set h)
      exact .upd hs1
    · exact h
  · exact .foldl hs fun _ _ h => .ite (.set (.set (.set (.set (.set h))))) h
  · exact .ite (.set (.set hs)) hs
  · exact .flinkCommitted hs
  · exact .depthCommitted hs
  · exact hs

theorem Kept.endCapture {base} (hs : Kept s₀ s) : Kept s₀ (s.endCapture base) := .upd hs
theorem Kept.settleStaged (hs : Kept s₀ s) : Kept s₀ s.settleStaged := .upd hs

theorem Kept.takeCaptured {base} (hs : Kept s₀ s) : Kept s₀ (s.takeCaptured base) :=
  .foldl (.foldl hs fun _ _ h => .takeWord h) fun _ _ h => .setStaged h

theorem Kept.commitAccept {p i} (hs : Kept s₀ s) : Kept s₀ (s.commitAccept p i) := by
  unfold State.commitAccept
  extract_lets _ s1 s2
  have hs1 : Kept s₀ s1 := .takeCaptured hs
  have hs2 : Kept s₀ s2 := .commitStatus (.commitEffects hs1)
  exact .settleStaged (.endCapture (.setWord hs2))

theorem Kept.commitRefuse {p i code off} (hs : Kept s₀ s) : Kept s₀ (s.commitRefuse p i code off) := by
  unfold State.commitRefuse
  extract_lets s1
  have hs1 : Kept s₀ s1 := .endCapture (.commitStatus hs)
  exact .ite (.pwrErr hs1) hs1

theorem Kept.commitCheckDone {p i} (hs : Kept s₀ s) : Kept s₀ (s.commitCheckDone p i) := by
  unfold State.commitCheckDone
  split
  · split
    · exact .commitRefuse hs
    · exact .commitAccept hs
  · exact hs

theorem Kept.writeFields {addr v ev} (hs : Kept s₀ s) : Kept s₀ (s.writeFields addr v ev) := by
  unfold State.writeFields
  extract_lets _ _ _ _ _ s1
  have hs1 : Kept s₀ s1 := .setWord hs
  exact .ite hs1 (.setStaged hs1)

theorem Kept.writeCtr {addr v ev} (hs : Kept s₀ s) : Kept s₀ (s.writeCtr addr v ev) := by
  unfold State.writeCtr
  extract_lets _ _ s1
  have hs1 : Kept s₀ s1 := .ctrWrite hs
  split
  · exact .setCtr hs1
  · exact hs

theorem Kept.writePlain {addr v ev} (hs : Kept s₀ s) : Kept s₀ (s.writePlain addr v ev) := .ite hs (.ite (.writeCtr hs) (.writeFields hs))

theorem Kept.writeTile {t o v u} (hs : Kept s₀ s) (h : s.writeTile t o v = some u) : Kept s₀ u := by
  unfold State.writeTile at h
  split at h <;> cases h
  exact .ringRptrWrite hs

theorem Kept.writeOpq {t o v u} (hs : Kept s₀ s) (h : s.writeOpq t o v = some u) : Kept s₀ u := by
  unfold State.writeOpq at h
  split_ifs at h <;> cases h
  · exact .tailWrite hs
  · exact .queueCmd hs
  · exact .preemptRelease (.preemptGo hs)
  · exact .preemptGo hs
  · exact .preemptRelease hs
  · exact hs

theorem Kept.writePwr {o v u} (hs : Kept s₀ s) (h : s.writePwr o v = some u) : Kept s₀ u := by
  unfold State.writePwr at h
  split at h <;> cases h
  · exact .envelopeWrite hs
  · exact .domainCmd hs
  · exact .ite (.idleDeep hs) (.ite (.idleResume hs) hs)
  · exact .ite (.attrMark hs) hs

theorem Kept.writeOf {p i o v u} (hs : Kept s₀ s) (h : s.writeOf p i o v = some u) : Kept s₀ u := by
  unfold State.writeOf at h
  split at h
  · split_ifs at h
    cases h
    exact .blendCtrl hs
  · exact .writeTile hs h
  · exact .writeOpq hs h
  · split_ifs at h
    cases h
    exact .rearm hs
  · split_ifs at h <;> cases h
    · exact .ctxCommand hs
    · exact .xferProbe hs
  · split_ifs at h <;> cases h
    · exact .linkCmd hs
    · exact .engineCmd hs
  · split_ifs at h
    cases h
    exact .caskDac (.caskOlt hs)
  · split_ifs at h
    cases h
    exact .calReq hs
  · split_ifs at h <;> cases h
    · exact .cwrPush hs
    · exact hs
  · exact .writePwr hs h
  · split_ifs at h <;> cases h
    · exact .hkcTest hs
    · exact .hkcRptr hs
  · split_ifs at h <;> cases h
    · exact .rstCmd hs
    · exact .logRptr hs
  · split_ifs at h
    cases h
    exact .rackAsk hs
  · split_ifs at h
    cases h
    exact .bistCmd hs
  all_goals cases h

theorem Kept.writeWord {addr v ev} (hs : Kept s₀ s) : Kept s₀ (s.writeWord addr v ev) := by
  unfold State.writeWord
  split
  · exact hs
  · extract_lets o
    refine .ite (.ite (.commitGo hs) hs) ?_
    split
    next h => exact .writeOf hs h
    next => exact .writePlain hs

theorem Kept.registerWrite {a addr size v ev} (hs : Kept s₀ s) : Kept s₀ (s.registerWrite a addr size v ev) := by
  unfold State.registerWrite
  split
  · exact .refuseAccess hs
  · exact .writeWord hs

/-! ### Sessions -/

theorem Kept.forgetSession {n} (hs : Kept s₀ s) : Kept s₀ (s.forgetSession n) := .upd hs

theorem Kept.closeSession {n code} (hs : Kept s₀ s) : Kept s₀ (s.closeSession n code) := by
  unfold State.closeSession
  extract_lets _ s1 s2
  have hs1 : Kept s₀ s1 := .ite hs (.set (.set (.set hs)))
  have hs2 : Kept s₀ s2 := .setSession (.forgetSession hs1)
  exact .upd hs2

theorem Kept.failSession {n seq opcode code} (hs : Kept s₀ s) : Kept s₀ (s.failSession n seq opcode code) := .closeSession (.reply hs)

theorem Kept.connect {source} (hs : Kept s₀ s) : Kept s₀ (s.connect source) := by
  unfold State.connect
  split
  · exact hs
  · extract_lets _ s1
    have hs1 : Kept s₀ s1 := .setSession hs
    exact .ite (.failSession hs1) hs1

theorem Kept.openTimeout {n} (hs : Kept s₀ s) : Kept s₀ (s.openTimeout n) := .ite (.closeSession hs) hs
theorem Kept.timeOut {n} (hs : Kept s₀ s) : Kept s₀ (s.timeOut n) := .closeSession (.bump hs)
theorem Kept.idleClose {n} (hs : Kept s₀ s) : Kept s₀ (s.idleClose n) := .ite (.timeOut hs) hs

theorem Kept.keepalive {n} (hs : Kept s₀ s) : Kept s₀ (s.keepalive n) := by
  unfold State.keepalive
  extract_lets _ s1
  have hs1 : Kept s₀ s1 := .setSession hs
  exact .ite hs (.ite (.timeOut hs) (.upd hs1))

theorem Kept.inTurn {n c f} (hs : Kept s₀ s) (hf : ∀ u, Kept s₀ u → Kept s₀ (f u)) : Kept s₀ (s.inTurn n c f) := by
  unfold State.inTurn
  extract_lets _ s1
  have hs1 : Kept s₀ s1 := .setSession hs
  exact .ite (hf _ hs) (.ite hs (.upd hs1))

theorem Kept.hello {n seq slot nonce} (hs : Kept s₀ s) : Kept s₀ (s.hello n seq slot nonce) := .reply (.setSession (.tick (.tick hs)))

theorem Kept.openHello {n seq slot nonce} (hs : Kept s₀ s) : Kept s₀ (s.openHello n seq slot nonce) :=
  .ite hs (.ite (.failSession hs) (.hello hs))

theorem Kept.noteFail {slot} (hs : Kept s₀ s) : Kept s₀ (s.noteFail slot) := by
  unfold State.noteFail
  extract_lets _ _ _ r4
  have hr4 : Kept s₀ r4 := .tick hs
  exact .ite (.upd hr4) (.upd hr4)

theorem Kept.openProof {n seq proof} (hs : Kept s₀ s) : Kept s₀ (s.openProof n seq proof) :=
  .ite hs <|
    .ite (.failSession hs) (.ite (.failSession (.bump hs)) (.ite (.reply (.bump (.setSession hs))) (.failSession (.bump (.noteFail hs)))))

theorem Kept.serve {n seq opcode f} (hs : Kept s₀ s) (hf : ∀ u, Kept s₀ u → Kept s₀ (f u)) : Kept s₀ (s.serve n seq opcode f) := by
  unfold State.serve
  extract_lets _ s1
  have hs1 : Kept s₀ s1 := .bump (.setSession hs)
  exact .ite hs (.ite (.failSession hs) (.ite (.reply hs1) (hf _ hs1)))

theorem Kept.command {c n seq opcode f} (hs : Kept s₀ s) (hf : ∀ u, Kept s₀ u → Kept s₀ (f u)) : Kept s₀ (s.command c n seq opcode f) :=
  .inTurn hs (fun _ h => .serve h (fun _ h => hf _ h))

theorem Kept.oddMessage {n seq opcode magic len} (hs : Kept s₀ s) : Kept s₀ (s.oddMessage n seq opcode magic len) :=
  .ite hs (.ite (.failSession hs) (.ite (.failSession hs) (.ite hs (.reply (.bump (.setSession hs))))))

theorem Kept.readNext {n addr x i} (hs : Kept s₀ x.1) : Kept s₀ (readNext n addr x i).1 := by
  unfold Sys2Proof.Machine.readNext
  refine .ite_fst hs ?_
  extract_lets a
  split
  · exact .pair (.refuseAccess hs)
  · exact .pair (.readClears hs)

theorem Kept.ctlRead {n seq addr count} (hs : Kept s₀ s) : Kept s₀ (s.ctlRead n seq addr count) :=
  .ite (.reply hs) (.reply (.foldl_fst (a := (s, _)) hs fun _ _ h => .readNext h))

theorem Kept.ctlWrite {n seq addr v} (hs : Kept s₀ s) : Kept s₀ (s.ctlWrite n seq addr v) := .reply (.registerWrite hs)

theorem Kept.memRefusal {ue a n isWrite} (hs : Kept s₀ s) : Kept s₀ (s.memRefusal ue a n isWrite).1 := by
  unfold State.memRefusal
  split
  · exact hs
  · split
    · exact hs
    · split
      · exact hs
      · split
        · exact hs
        · exact .noteErr hs
        · exact hs

theorem Kept.memRead {n seq a len ue} (hs : Kept s₀ s) : Kept s₀ (s.memRead n seq a len ue) := by
  unfold State.memRead
  extract_lets r
  have hr : Kept s₀ r.1 := .memRefusal hs
  exact .ite (.reply hs) (.reply hr)

theorem Kept.memWrite {n seq a data ue} (hs : Kept s₀ s) : Kept s₀ (s.memWrite n seq a data ue) := by
  unfold State.memWrite
  extract_lets r
  have hr : Kept s₀ r.1 := .memRefusal hs
  exact .ite (.reply (.writeBytes hs)) (.reply hr)

theorem Kept.subscribe {n seq mask} (hs : Kept s₀ s) : Kept s₀ (s.subscribe n seq mask) := .reply (.setSession hs)

theorem Kept.rackCommand {n seq id} (hs : Kept s₀ s) : Kept s₀ (s.rackCommand n seq id) := by
  unfold State.rackCommand
  extract_lets s1
  have hs1 : Kept s₀ s1 := .rackAsk hs
  split
  · exact .reply hs1
  · exact hs1

theorem Kept.resetCommand {n seq level u} (hs : Kept s₀ s) : Kept s₀ (s.resetCommand n seq level u) :=
  .ite (.reply hs) (.ite (.beginReset hs) (.beginReset (.reply hs)))

theorem Kept.logRead {n seq fromSeq count} (hs : Kept s₀ s) : Kept s₀ (s.logRead n seq fromSeq count) := .ite (.reply hs) (.reply hs)

/-! ### Attestation, keys and images -/

theorem Kept.attReply {n seq opcode code body} (hs : Kept s₀ s) : Kept s₀ (s.attReply n seq opcode code body) := .reply (.set hs)

theorem Kept.attReport {n seq nonce} (hs : Kept s₀ s) : Kept s₀ (s.attReport n seq nonce) :=
  .ite (.attReply (.bump (.tick hs))) (.attReply hs)

theorem Kept.attIdentity {n seq} (hs : Kept s₀ s) : Kept s₀ (s.attIdentity n seq) := .ite (.attReply hs) (.attReply hs)
theorem Kept.setKey {slot k} (hs : Kept s₀ s) : Kept s₀ (s.setKey slot k) := .upd hs

theorem Kept.keyRotate {n seq slot masked tag} (hs : Kept s₀ s) : Kept s₀ (s.keyRotate n seq slot masked tag) := by
  unfold State.keyRotate
  extract_lets _ _ s1
  have hs1 : Kept s₀ s1 := .setSession hs
  exact .ite (.attReply hs) (.ite (.attReply hs) (.ite (.attReply (.setKey hs1)) (.attReply hs1)))

theorem Kept.keyClear {n seq slot} (hs : Kept s₀ s) : Kept s₀ (s.keyClear n seq slot) :=
  .ite (.attReply hs) (.ite (.attReply hs) (.attReply (.setKey hs)))

theorem Kept.setBank {b x} (hs : Kept s₀ s) : Kept s₀ (s.setBank b x) := .upd hs

theorem Kept.fwStage {n seq a} (hs : Kept s₀ s) : Kept s₀ (s.fwStage n seq a) := by
  unfold State.fwStage
  extract_lets _ _ s1
  have hs1 : Kept s₀ s1 := .setBank hs
  split
  · exact .attReply hs
  · split
    · exact .attReply hs
    · exact .upd hs1

theorem Kept.fwStageDone (hs : Kept s₀ s) : Kept s₀ s.fwStageDone := by
  unfold State.fwStageDone
  split
  · exact hs
  · extract_lets s1 _ s2
    have hs1 : Kept s₀ s1 := .setBank hs
    have hs2 : Kept s₀ s2 := .upd hs1
    exact .attReply hs2

theorem Kept.fwActivate {n seq b} (hs : Kept s₀ s) : Kept s₀ (s.fwActivate n seq b) := .ite (.attReply hs) (.attReply (.upd hs))

theorem Kept.netSet {n seq a} (hs : Kept s₀ s) : Kept s₀ (s.netSet n seq a) := by
  unfold State.netSet
  extract_lets _ _ r _ s1
  have hr : Kept s₀ r.1 := .memRefusal hs
  have hs1 : Kept s₀ s1 := .upd hs
  exact .ite (.attReply hr) (.ite (.attReply hs1) (.attReply hs))

theorem Kept.bootClear {n seq} (hs : Kept s₀ s) : Kept s₀ (s.bootClear n seq) := .startBegins (.attReply (.upd hs))

theorem Kept.vkeySet {n seq a} (hs : Kept s₀ s) : Kept s₀ (s.vkeySet n seq a) := by
  unfold State.vkeySet
  extract_lets _ _ m _ _ _ s1
  have hm : Kept s₀ m.1 := .memRefusal hs
  have hs1 : Kept s₀ s1 := .upd hs
  split
  · exact .attReply hm
  · split
    · exact .attReply hs
    · exact .attReply hs1

/-! ### Ethernet -/

theorem Kept.sendFrame {o} (hs : Kept s₀ s) : Kept s₀ (s.sendFrame o) := .upd hs

theorem Kept.portSend (hs : Kept s₀ s) : Kept s₀ s.portSend := by
  unfold State.portSend
  extract_lets _ s1
  have hs1 : Kept s₀ s1 := .bump hs
  exact .ite hs (.upd hs1)

theorem Kept.sendPfc {prio pause} (hs : Kept s₀ s) : Kept s₀ (s.sendPfc prio pause) := .sendFrame (.bump (.upd hs))

theorem Kept.bufferShare {prio share} (hs : Kept s₀ s) : Kept s₀ (s.bufferShare prio share) := by
  unfold State.bufferShare
  extract_lets s1
  have hs1 : Kept s₀ s1 := .upd hs
  exact .ite hs1 (.ite (.sendPfc hs1) (.ite (.sendPfc hs1) hs1))

theorem Kept.pfcArrives {prio pause} (hs : Kept s₀ s) : Kept s₀ (s.pfcArrives prio pause) := by
  unfold State.pfcArrives
  extract_lets s1
  have hs1 : Kept s₀ s1 := .bump hs
  exact .ite (.upd hs1) hs1

theorem Kept.ceArrives {n} (hs : Kept s₀ s) : Kept s₀ (s.ceArrives n) := by
  unfold State.ceArrives
  extract_lets s1
  have hs1 : Kept s₀ s1 := .bump hs
  exact .ite hs1 (.sendFrame (.bump (.setQp (.tick hs1))))

theorem Kept.cnpArrives {n} (hs : Kept s₀ s) : Kept s₀ (s.cnpArrives n) := .ite (.setQp hs) hs
theorem Kept.rateStep {n} (hs : Kept s₀ s) : Kept s₀ (s.rateStep n) := .ite (.setQp hs) hs
theorem Kept.nak {n psn why} (hs : Kept s₀ s) : Kept s₀ (s.nak n psn why) := .sendFrame hs
theorem Kept.nakAccess {n psn} (hs : Kept s₀ s) : Kept s₀ (s.nakAccess n psn) := .nak (.ethErr (.bump hs))

theorem Kept.roceTaken {n k ack} (hs : Kept s₀ s) : Kept s₀ (s.roceTaken n k ack) := by
  unfold State.roceTaken
  extract_lets _ s1
  have hs1 : Kept s₀ s1 := .setQp hs
  exact .ite (.sendFrame hs1) hs1

theorem Kept.nakGap {n} (hs : Kept s₀ s) : Kept s₀ (s.nakGap n) := .ite hs (.nak (.setQp hs))

theorem Kept.inSequence {n psn dup run} (hs : Kept s₀ s) (hdup : ∀ u, Kept s₀ u → Kept s₀ (dup u))
    (hrun : ∀ u, Kept s₀ u → Kept s₀ (run u)) : Kept s₀ (s.inSequence n psn dup run) :=
  .ite (hrun _ hs) (.ite (.nakGap hs) (hdup _ hs))

theorem Kept.ackAgain {n} (hs : Kept s₀ s) : Kept s₀ (s.ackAgain n) := .sendFrame hs

theorem Kept.onQp {qpn f} (hs : Kept s₀ s) (hf : ∀ u, Kept s₀ (f u)) : Kept s₀ (s.onQp qpn f) := by
  unfold State.onQp
  split
  · exact hs
  · split
    · exact .ite (hf _) (.bump hs)
    · exact .bump hs

theorem Kept.respond {n psn rkey va len isWrite dup run} (hs : Kept s₀ s) (hdup : ∀ u, Kept s₀ u → Kept s₀ (dup u))
    (hrun : ∀ u, Kept s₀ u → Kept s₀ (run u)) : Kept s₀ (s.respond n psn rkey va len isWrite dup run) := by
  unfold State.respond
  refine .ite (.nakAccess hs) (.ite (.bump hs) (.inSequence hs hdup fun u h => ?_))
  split
  · exact .nakAccess (.noteErr h)
  · exact hrun _ h

theorem Kept.rdmaWrite {qpn psn rkey va data} (hs : Kept s₀ s) : Kept s₀ (s.rdmaWrite qpn psn rkey va data) :=
  .onQp hs (fun _ => .respond hs (fun _ h => .ackAgain h) (fun _ h => .roceTaken (.writeBytes h)))

theorem Kept.readOut {n psn va len} (hs : Kept s₀ s) : Kept s₀ (s.readOut n psn va len) := .sendFrame hs

theorem Kept.rdmaRead {qpn psn rkey va len} (hs : Kept s₀ s) : Kept s₀ (s.rdmaRead qpn psn rkey va len) :=
  .onQp hs (fun _ => .respond hs (fun _ h => .readOut h) (fun _ h => .roceTaken (.readOut h)))

theorem Kept.takeSend {n psn data} (hs : Kept s₀ s) : Kept s₀ (s.takeSend n psn data) := by
  unfold State.takeSend
  extract_lets _ _ s1 s2
  have hs1 : Kept s₀ s1 := .setQp (.writeBytes hs)
  have hs2 : Kept s₀ s2 := .ite hs1 (.signalService hs1)
  split
  · exact .nakAccess (.noteErr hs)
  · exact .roceTaken hs2

theorem Kept.sendRuns {n psn data} (hs : Kept s₀ s) : Kept s₀ (s.sendRuns n psn data) :=
  .ite (.nak hs) (.ite (.nak (.tick hs)) (.takeSend (.tick hs)))

theorem Kept.sendArrives {qpn psn data} (hs : Kept s₀ s) : Kept s₀ (s.sendArrives qpn psn data) :=
  .onQp hs (fun _ => .ite (.bump hs) (.inSequence hs (fun _ h => .ackAgain h) (fun _ h => .sendRuns h)))

theorem Kept.absentArrives {qpn psn} (hs : Kept s₀ s) : Kept s₀ (s.absentArrives qpn psn) :=
  .onQp hs (fun _ => .ite (.bump hs) (.inSequence hs (fun _ h => .nak h) (fun _ h => .nak h)))

theorem Kept.ceMark {qpn ce} (hs : Kept s₀ s) : Kept s₀ (s.ceMark qpn ce) := .ite (.elim hs fun _ => .ceArrives hs) hs

theorem Kept.frameActs {f} (hs : Kept s₀ s) : Kept s₀ (s.frameActs f) := by
  unfold State.frameActs
  split
  · exact .sendFrame hs
  · exact .sendFrame hs
  · exact .sendFrame hs
  · exact .sendFrame hs
  · exact .pfcArrives hs
  · exact .ceMark hs
  · exact .absentArrives (.ceMark hs)
  · exact .elim hs fun _ => .cnpArrives hs
  all_goals exact hs

theorem Kept.ethFrame {f} (hs : Kept s₀ s) : Kept s₀ (s.ethFrame f) := by
  unfold State.ethFrame
  split
  · exact hs
  · extract_lets s1
    have hs1 : Kept s₀ s1 := .bufferShare (.bump hs)
    exact .ite (.frameActs hs1) (.bump hs1)

theorem Kept.originate {n r0} (hs : Kept s₀ s) : Kept s₀ (s.originate n r0) := .sendFrame (.setQp hs)
theorem Kept.roceDone {n} (hs : Kept s₀ s) : Kept s₀ (s.roceDone n) := .setQp hs
theorem Kept.roceSignal {r} (hs : Kept s₀ s) : Kept s₀ (s.roceSignal r) := .elim hs fun _ => .signalService hs
theorem Kept.loaderGot {r ok} (hs : Kept s₀ s) : Kept s₀ (s.loaderGot r ok) := .ite (.upd hs) hs
theorem Kept.roceAcked {n psn} (hs : Kept s₀ s) : Kept s₀ (s.roceAcked n psn) := .foldl hs fun _ _ h => .roceSignal (.roceDone h)
theorem Kept.resend {n} (hs : Kept s₀ s) : Kept s₀ (s.resend n) := .foldl hs fun _ _ h => .sendFrame h
theorem Kept.roceRetry {n} (hs : Kept s₀ s) : Kept s₀ (s.roceRetry n) := .ite hs (.ite (.resend (.bump (.setQp hs))) (.qpError hs))
theorem Kept.roceNotReady {n} (hs : Kept s₀ s) : Kept s₀ (s.roceNotReady n) := .ite hs (.ite (.resend (.bump (.setQp hs))) (.qpError hs))

theorem Kept.readLands {n r bytes} (hs : Kept s₀ s) : Kept s₀ (s.readLands n r bytes) := by
  unfold State.readLands
  split
  · exact .loaderGot (.roceDone (.noteErr hs))
  · exact .roceSignal (.loaderGot (.roceDone (.writeBytes hs)))

theorem Kept.roceNaked {n r} (hs : Kept s₀ s) : Kept s₀ (s.roceNaked n r) := .ethErr (.loaderGot (.roceDone hs))

theorem Kept.roceReply {n reply} (hs : Kept s₀ s) : Kept s₀ (s.roceReply n reply) := by
  unfold State.roceReply
  split
  · exact .roceAcked hs
  · extract_lets s1
    have hs1 : Kept s₀ s1 := .roceAcked hs
    split
    · exact .ite (.roceNaked hs1) hs1
    · exact hs1
  · exact .roceNotReady (.roceAcked hs)
  · exact .roceRetry (.roceAcked hs)
  · extract_lets s1
    have hs1 : Kept s₀ s1 := .roceAcked hs
    split
    · exact .ite (.readLands hs1) hs1
    · exact hs1

theorem Kept.qpOpen {n seq b} (hs : Kept s₀ s) : Kept s₀ (s.qpOpen n seq b) :=
  .ite (.reply hs) (.ite (.reply hs) (.ite (.reply hs) (.reply (.setQp hs))))

theorem Kept.qpClose {n seq q} (hs : Kept s₀ s) : Kept s₀ (s.qpClose n seq q) := .ite (.reply hs) (.reply (.setQp (.failRoce hs)))
theorem Kept.ethDown (hs : Kept s₀ s) : Kept s₀ s.ethDown := .ite hs (.alarm (.ethErr (.bump (.upd hs))))

theorem Kept.ethUp {ms} (hs : Kept s₀ s) : Kept s₀ (s.ethUp ms) := by
  unfold State.ethUp
  split
  · exact hs
  · extract_lets _ s1
    have hs1 : Kept s₀ s1 := .upd hs
    exact .event hs1

/-! ### Kernels -/

theorem Kept.kernelOp {t q kind} (hs : Kept s₀ s) : Kept s₀ (s.kernelOp t q kind) := by
  unfold State.kernelOp
  split
  · exact hs
  · extract_lets s1
    have hs1 : Kept s₀ s1 := .leave hs
    exact .ite (.modOp hs1) hs1

theorem Kept.kernelStart {t slot} (hs : Kept s₀ s) : Kept s₀ (s.kernelStart t slot) := by
  unfold State.kernelStart
  split
  · exact hs
  · extract_lets _ s1 _ s2
    have hs1 : Kept s₀ s1 := .foldl hs fun _ _ h => .setCore h
    have hs2 : Kept s₀ s2 := .ite (.setTile hs1) hs1
    exact .ite (.modOp hs2) hs

theorem Kept.drainStores {t c n} (hs : Kept s₀ s) : Kept s₀ (s.drainStores t c n) := by
  unfold State.drainStores
  extract_lets _ s1
  have hs1 : Kept s₀ s1 := .foldl hs fun _ _ h => .store h
  exact .setCore hs1

theorem Kept.drainAll {t c} (hs : Kept s₀ s) : Kept s₀ (s.drainAll t c) := .ite hs (.drainStores hs)
theorem Kept.idleTick (hs : Kept s₀ s) : Kept s₀ s.idleTick := .foldl hs fun _ _ h => .drainAll h

theorem Kept.bufferStore {t c a n v} (hs : Kept s₀ s) : Kept s₀ (s.bufferStore t c a n v) := by
  unfold State.bufferStore
  extract_lets s1
  have hs1 : Kept s₀ s1 := .ite (.drainStores hs) hs
  exact .setCore hs1

theorem Kept.drainSome {t c} (hs : Kept s₀ s) : Kept s₀ (s.drainSome t c) := .ite hs (.drainStores (.tick hs))
theorem Kept.drainKernel {t slot} (hs : Kept s₀ s) : Kept s₀ (s.drainKernel t slot) := .foldl hs fun _ _ h => .ite (.drainAll h) h

theorem Kept.kernelFail {t c code detail} (hs : Kept s₀ s) : Kept s₀ (s.kernelFail t c code detail) := by
  unfold State.kernelFail
  exact .modOp (.stopCores (.drainKernel hs))

theorem Kept.coreTrap {t c cause tval} (hs : Kept s₀ s) : Kept s₀ (s.coreTrap t c cause tval) := by
  unfold State.coreTrap
  extract_lets _ s1
  have hs1 : Kept s₀ s1 := .setCore hs
  exact .ite hs1 (.kernelFail (.faultInfo (.tileFault hs1)))

theorem Kept.coreEnd {t c code detail} (hs : Kept s₀ s) : Kept s₀ (s.coreEnd t c code detail) := by
  unfold State.coreEnd
  exact .kernelFail (.faultInfo (.tileFault hs))

theorem Kept.coreUe {t c e} (hs : Kept s₀ s) : Kept s₀ (s.coreUe t c e) := by
  unfold State.coreUe
  exact .kernelFail (.faultInfo (.tileFault (.noteErr hs)))

theorem Kept.coreExit {t c v} (hs : Kept s₀ s) : Kept s₀ (s.coreExit t c v) := by
  unfold State.coreExit
  extract_lets s₂ _ s1
  have hs₂ : Kept s₀ s₂ := .drainAll hs
  have hs1 : Kept s₀ s1 := .setCore hs₂
  exact .ite (.ite (.modOp (.stopCores hs1)) hs1) (.kernelFail (.faultInfo (.tileFault hs₂)))

/-! ### The plan and its steps -/

theorem Kept.writeF32s {a xs} (hs : Kept s₀ s) : Kept s₀ (s.writeF32s a xs) := .writeBytes hs

theorem Kept.vecWork {p x w} (hs : Kept s₀ s) : Kept s₀ (s.vecWork p x w) := by
  unfold State.vecWork
  extract_lets
  split
  · exact .raiseFlags (.writeF32s hs)
  · exact .raiseFlags (.writeBytes hs)
  · exact .raiseFlags (.writeBytes hs)
  · extract_lets _ _ s1
    have hs1 : Kept s₀ s1 := .writeBytes hs
    exact .upd hs1

theorem Kept.dropItem {id} (hs : Kept s₀ s) : Kept s₀ (s.dropItem id) := .upd hs

theorem Kept.issue {p x} (hs : Kept s₀ s) : Kept s₀ (s.issue p x) := by
  unfold State.issue
  extract_lets _ _ _ _ _ s1
  have hs1 : Kept s₀ s1 := .set (.writeBytes hs)
  split
  · exact .dropItem hs
  · split
    · exact .dropItem (.sendSignals (.vecWork hs))
    · exact .ite hs (.upd hs1)

theorem Kept.issueAll {p} (hs : Kept s₀ s) : Kept s₀ (s.issueAll p) := .foldl hs fun _ _ h => .ite (.issue h) h

theorem Kept.countRecord {x bs} (hs : Kept s₀ s) : Kept s₀ (s.countRecord x bs) := by
  unfold State.countRecord
  extract_lets _ _ _ s1 _ s2
  have hs1 : Kept s₀ s1 := .ite (.count hs) hs
  have hs2 : Kept s₀ s2 := .ite (.count hs1) hs1
  exact .ite hs1 (.ite (.count hs2) hs2)

theorem Kept.collectRing {p t q} (hs : Kept s₀ s) : Kept s₀ (s.collectRing p t q) := by
  unfold State.collectRing
  extract_lets _ _ _ s1
  have hs1 : Kept s₀ s1 := by
    dsimp only [s1]
    refine .foldl hs fun u x h => ?_
    extract_lets
    split
    · exact .countRecord h
    · exact h
  exact .ite hs1 (.set hs1)

theorem Kept.freeSaves {ended} (hs : Kept s₀ s) : Kept s₀ (s.freeSaves ended) := .upd hs

theorem Kept.collect {p} (hs : Kept s₀ s) : Kept s₀ (s.collect p) := by
  unfold State.collect
  extract_lets _ s1 _ _ s2
  have hs1 : Kept s₀ s1 := .foldl hs fun _ _ h => .collectRing h
  have hs2 : Kept s₀ s2 := .upd hs1
  exact .freeSaves hs2

theorem Kept.addWork {p f} (hs : Kept s₀ s) : Kept s₀ (s.addWork p f) := .upd hs
theorem Kept.clearOrders {p} (hs : Kept s₀ s) : Kept s₀ (s.clearOrders p) := .foldl hs fun _ _ h => .setCtr h

/-! ### The end of a step -/

theorem Kept.putMoments {p a n o draws xs} (hs : Kept s₀ s) : Kept s₀ (s.putMoments p a n o draws xs).1 :=
  .ite_fst (.writeBytes (.writeBytes hs)) (.writeBytes hs)

theorem Kept.optBlock {p t place o} (hs : Kept s₀ s) : Kept s₀ (s.optBlock p t place o) := by
  unfold State.optBlock
  extract_lets _ _ _ m v _ r7
  have hm : Kept s₀ m.1 := .putMoments hs
  have hv : Kept s₀ v.1 := .putMoments hm
  have hr7 : Kept s₀ r7 := .writeBytes hv
  exact .upd hr7

theorem Kept.optimise {p t place on} (hs : Kept s₀ s) : Kept s₀ (s.optimise p t place on) := .foldl hs fun _ _ h => .optBlock h

theorem Kept.optimiser {p} (hs : Kept s₀ s) : Kept s₀ (s.optimiser p) :=
  .foldl (.foldl hs fun _ _ h => .optimise h) fun _ _ h => .optimise h

theorem Kept.shareErrs {p t done} (hs : Kept s₀ s) : Kept s₀ (s.shareErrs p t done) := .addWork (.writeF32s hs)

theorem Kept.pushFlush {p t} (hs : Kept s₀ s) : Kept s₀ (s.pushFlush p t) := by
  unfold State.pushFlush
  extract_lets _ s1 s2 s3 s4 _ s5 _ s5₂ r10
  have hs1 : Kept s₀ s1 := .set (.set (.set hs))
  have hs2 : Kept s₀ s2 := .set (.set (.set hs1))
  have hs3 : Kept s₀ s3 := .set (.set (.set hs2))
  have hs4 : Kept s₀ s4 := .cwrPush hs3
  have hs5 : Kept s₀ s5 := .count hs4
  have hs5₂ : Kept s₀ s5₂ := .count hs4
  have hr10 : Kept s₀ r10 := .shareErrs hs5₂
  exact .ite (.upd hs5) (.ite hs5₂ (.upd hr10))

theorem Kept.ownFlush {p t} (hs : Kept s₀ s) : Kept s₀ (s.ownFlush p t) := by
  unfold State.ownFlush
  extract_lets _ _ s1
  have hs1 : Kept s₀ s1 := .writeBytes hs
  exact .ite hs (.pushFlush (.ite (.addWork hs1) hs1))

theorem Kept.memberFlush {p t} (hs : Kept s₀ s) : Kept s₀ (s.memberFlush p t) := .pushFlush (.writeBytes hs)
theorem Kept.flushOne {p t} (hs : Kept s₀ s) : Kept s₀ (s.flushOne p t) := .ite hs (.ownFlush hs)
theorem Kept.memberFlushes {p} (hs : Kept s₀ s) : Kept s₀ (s.memberFlushes p) := .foldl hs fun _ _ h => .ite h (.memberFlush (.consume h))
theorem Kept.foldWeight {t e o} (hs : Kept s₀ s) : Kept s₀ (State.foldWeight t e s o) := .ite hs (.writeBytes (.tick hs))
theorem Kept.countAt {step entry field n} (hs : Kept s₀ s) : Kept s₀ (s.countAt step entry field n) := .ite (.upd hs) (.count hs)
theorem Kept.endFold {t} (hs : Kept s₀ s) : Kept s₀ (s.endFold t) := .upd hs

theorem Kept.foldWeights {t e} {xs : List Nat} (hs : Kept s₀ s) : Kept s₀ (xs.foldl (State.foldWeight t e) s) :=
  .foldl hs fun _ _ h => .foldWeight h

theorem Kept.foldOne {p f} (hs : Kept s₀ s) : Kept s₀ (s.foldOne p f) := by
  unfold State.foldOne
  extract_lets t c done s1 s2
  have hs1 : Kept s₀ s1 := .ite (.countAt (.countAt hs)) (.countAt hs)
  have hs2 : Kept s₀ s2 := .shareErrs hs1
  refine .ite (.ite hs (.endFold (.ite (.foldWeights hs) hs))) ?_
  exact .ite hs (.ite (.endFold (.ite (.foldWeights hs1) hs1)) (.upd hs2))

theorem Kept.foldAll {p} (hs : Kept s₀ s) : Kept s₀ (s.foldAll p) := .foldl hs fun _ _ h => .foldOne h
theorem Kept.reportLayer {r e} (hs : Kept s₀ s) : Kept s₀ (reportLayer r s e) := .ite (.writeBytes hs) hs

theorem Kept.publish {r} (hs : Kept s₀ s) : Kept s₀ (s.publish r) := by
  unfold State.publish
  split
  · exact hs
  · extract_lets s1 _ s2
    have hs1 : Kept s₀ s1 := .foldl hs fun _ _ h => .reportLayer h
    have hs2 : Kept s₀ s2 := .upd hs1
    exact .event hs2

theorem Kept.publishAll (hs : Kept s₀ s) : Kept s₀ s.publishAll := .foldl hs fun _ _ h => .publish h

theorem Kept.drive (hs : Kept s₀ s) : Kept s₀ s.drive := by
  unfold State.drive
  split
  · exact hs
  · exact .publishAll (.issueAll (.memberFlushes (.foldAll (.collect hs))))

theorem Kept.stepWork {p} (hs : Kept s₀ s) : Kept s₀ (s.stepWork p) := by
  unfold State.stepWork
  extract_lets _ _ s1 s2
  have hs1 : Kept s₀ s1 := .foldl hs fun _ _ h => .count h
  have hs2 : Kept s₀ s2 := .ite (.foldl hs1 fun _ _ h => .count h) (.foldl (.optimiser hs1) fun _ _ h => .flushOne h)
  exact .upd hs2

/-! ### Services -/

theorem Kept.askInput {i} (hs : Kept s₀ s) : Kept s₀ (s.askInput i) := .originate (.upd hs)
theorem Kept.loaderFetch (hs : Kept s₀ s) : Kept s₀ s.loaderFetch := .ite hs (.foldl (.upd hs) fun _ _ h => .askInput h)

theorem Kept.staleReads (hs : Kept s₀ s) : Kept s₀ s.staleReads := by
  unfold State.staleReads
  extract_lets _ _ _ s1
  have hs1 : Kept s₀ s1 := .ite (.setQp hs) hs
  exact .upd hs1

theorem Kept.pauseWith {st reason} (hs : Kept s₀ s) : Kept s₀ (s.pauseWith st reason) := by
  unfold State.pauseWith
  extract_lets _ s1
  have hs1 : Kept s₀ s1 := .upd hs
  exact .ite hs1 (.event hs1)

theorem Kept.takePlan {p} (hs : Kept s₀ s) : Kept s₀ (s.takePlan p) := by
  unfold State.takePlan
  extract_lets _ s2
  have hs2 : Kept s₀ s2 := .upd hs
  exact .loaderFetch (.ite (.pauseWith hs2) hs2)

theorem Kept.leaseRestart (hs : Kept s₀ s) : Kept s₀ s.leaseRestart := .upd hs

theorem Kept.takeConfig {b} (hs : Kept s₀ s) : Kept s₀ (s.takeConfig b) := by
  unfold State.takeConfig
  extract_lets s1 _ s2
  have hs1 : Kept s₀ s1 := .staleReads hs
  have hs2 : Kept s₀ s2 := .upd hs1
  exact .loaderFetch (.leaseRestart hs2)

theorem Kept.takeWaiting (hs : Kept s₀ s) : Kept s₀ s.takeWaiting := by
  have hs1 : Kept s₀ (s.svc.newConfig.elim s s.takeConfig) := .elim hs fun _ => .takeConfig hs
  exact .elim hs1 fun _ => .takePlan hs1

theorem Kept.pauseLapsed (hs : Kept s₀ s) : Kept s₀ s.pauseLapsed := .alarm (.pauseWith hs)

theorem Kept.startCheckpoint {lapsed} (hs : Kept s₀ s) : Kept s₀ (s.startCheckpoint lapsed) := by
  unfold State.startCheckpoint
  extract_lets _ _ _ s₂ s1 _ s1₂
  have hs₂ : Kept s₀ s₂ := .tick hs
  have hs1 : Kept s₀ s1 := .pauseWith hs₂
  have hs1₂ : Kept s₀ s1₂ := .upd hs₂
  exact .ite (.ite (.alarm hs1) hs1) (.originate hs1₂)

theorem Kept.stopNow (hs : Kept s₀ s) : Kept s₀ s.stopNow := .pauseWith (.upd hs)

theorem Kept.lapseNow (hs : Kept s₀ s) : Kept s₀ s.lapseNow := by
  unfold State.lapseNow
  extract_lets _ s1
  have hs1 : Kept s₀ s1 := .upd hs
  exact .ite (.pauseLapsed hs) (.ite (.upd hs1) (.startCheckpoint hs1))

theorem Kept.boundary {n} (hs : Kept s₀ s) : Kept s₀ (s.boundary n) := by
  unfold State.boundary
  extract_lets _ s1 s2
  have hs1 : Kept s₀ s1 := .ite (.startCheckpoint hs) hs
  have hs2 : Kept s₀ s2 := .ite (.lapseNow hs1) (.ite (.stopNow hs1) (.ite (.pauseWith hs1) hs1))
  exact .loaderFetch (.takeWaiting hs2)

theorem Kept.seedTiles {p} (hs : Kept s₀ s) : Kept s₀ (s.seedTiles p) := .foldl hs fun _ _ h => .setWord h

theorem Kept.acceptPlan {p} (hs : Kept s₀ s) : Kept s₀ (s.acceptPlan p) := by
  unfold State.acceptPlan
  extract_lets s₂
  have hs₂ : Kept s₀ s₂ := .seedTiles hs
  exact .ite (.upd hs₂) (.takePlan hs₂)

theorem Kept.planRead {a n} (hs : Kept s₀ s) : Kept s₀ (s.planRead a n).1 := by
  unfold State.planRead
  split
  · exact hs
  · exact .noteErr hs
  · exact hs

theorem Kept.planLoad {n seq addr report depth g} (hs : Kept s₀ s) : Kept s₀ (s.planLoad n seq addr report depth g) := by
  unfold State.planLoad
  extract_lets r _ _ r₂
  have hr : Kept s₀ r.1 := .planRead hs
  have hr₂ : Kept s₀ r₂.1 := .planRead hs
  exact .ite (.reply hr) (.ite (.reply hr₂) (.reply (.ite (.acceptPlan hs) hs)))

theorem Kept.run {steps} (hs : Kept s₀ s) : Kept s₀ (s.run steps) := .ite hs (.loaderFetch (.upd hs))
theorem Kept.pause (hs : Kept s₀ s) : Kept s₀ s.pause := .ite hs (.ite (.upd hs) (.pauseWith hs))
theorem Kept.stop (hs : Kept s₀ s) : Kept s₀ s.stop := .ite hs (.ite (.upd hs) (.takeWaiting (.stopNow hs)))
theorem Kept.stepStatus {n seq} (hs : Kept s₀ s) : Kept s₀ (s.stepStatus n seq) := .reply (.tick hs)

theorem Kept.svcConfig {n seq b} (hs : Kept s₀ s) : Kept s₀ (s.svcConfig n seq b) :=
  .ite (.reply hs) (.ite (.reply hs) (.ite (.reply (.leaseRestart (.upd hs))) (.reply (.takeConfig hs))))

theorem Kept.leaseLapsed (hs : Kept s₀ s) : Kept s₀ s.leaseLapsed := by
  unfold State.leaseLapsed
  extract_lets _ s1
  have hs1 : Kept s₀ s1 := .upd hs
  exact .ite hs (.ite hs1 (.ite (.upd hs1) (.lapseNow hs1)))

theorem Kept.health (hs : Kept s₀ s) : Kept s₀ s.health := by
  unfold State.health
  split
  · exact hs
  · extract_lets s1
    have hs1 : Kept s₀ s1 := .sendFrame hs
    exact .upd hs1

theorem Kept.stepStarts {p} (hs : Kept s₀ s) : Kept s₀ (s.stepStarts p) := by
  unfold State.stepStarts
  extract_lets _ s1 s2
  have hs1 : Kept s₀ s1 := .foldl hs fun _ _ h => .set h
  have hs2 : Kept s₀ s2 := .clearOrders hs1
  exact .upd hs2

theorem Kept.stallPause (hs : Kept s₀ s) : Kept s₀ s.stallPause := by
  unfold State.stallPause
  extract_lets _ s1
  have hs1 : Kept s₀ s1 := .alarm (.pauseWith hs)
  exact .ite (.ite (.alarm hs1) hs1) hs

theorem Kept.release {backward k} (hs : Kept s₀ s) : Kept s₀ (s.release backward k) := by
  unfold State.release
  extract_lets _ s1
  have hs1 : Kept s₀ s1 := .upd hs
  split
  · exact hs
  · split
    · exact .ite (.stallPause (.addWork hs1)) hs
    · split
      · extract_lets s1₂ _ s2
        have hs1₂ : Kept s₀ s1₂ := .ite hs (.stepStarts hs)
        have hs2 : Kept s₀ s2 := .upd hs1₂
        exact .loaderFetch (.addWork hs2)
      · exact hs

theorem Kept.microBatch {backward k} (hs : Kept s₀ s) : Kept s₀ (s.microBatch backward k) := .drive (.release (.drive hs))

theorem Kept.inputStall (hs : Kept s₀ s) : Kept s₀ s.inputStall := by
  unfold State.inputStall
  extract_lets _ s1
  have hs1 : Kept s₀ s1 := .upd hs
  split
  · exact hs
  · exact .ite (.stallPause hs1) hs

theorem Kept.stepEnds (hs : Kept s₀ s) : Kept s₀ s.stepEnds := by
  unfold State.stepEnds
  extract_lets s₂
  have hs₂ : Kept s₀ s₂ := .drive hs
  split
  · exact hs₂
  · exact .ite (.boundary (.drive (.attrMark (.stepWork hs₂)))) hs₂

theorem Kept.checkpointDone {ok} (hs : Kept s₀ s) : Kept s₀ (s.checkpointDone ok) := by
  unfold State.checkpointDone
  extract_lets _ _ _ s1 s2 paused
  have hs1 : Kept s₀ s1 := .setQp hs
  have hs2 : Kept s₀ s2 := .upd hs1
  have hpaused : Kept s₀ paused := .ite hs2 (.ite (.pauseWith hs2) (.ite (.pauseWith hs2) hs2))
  exact .ite hs (.ite (.alarm hpaused) hpaused)

theorem Kept.idle (hs : Kept s₀ s) : Kept s₀ s.idle := .portSend (.drive (.idleTick hs))

/-! ### Transfers -/

theorem Kept.request {t slot o kind type dev place len payload} (hs : Kept s₀ s) :
    Kept s₀ (s.request t slot o kind type dev place len payload) := by
  unfold State.request
  extract_lets _ s1
  have hs1 : Kept s₀ s1 := .upd hs
  split
  · exact .modOp hs
  · exact .sendBy hs1

theorem Kept.unlessFailed {t slot f} (hs : Kept s₀ s) (hf : ∀ u, Kept s₀ u → Kept s₀ (f u)) : Kept s₀ (s.unlessFailed t slot f) :=
  .ite hs (hf _ hs)

theorem Kept.copyRow {t slot ue src dst len} (hs : Kept s₀ s) : Kept s₀ (s.copyRow t slot ue src dst len) := by
  unfold State.copyRow
  split
  · exact .opErr hs
  · exact .writeBytes hs

theorem Kept.sendRow {t slot o ue src dst len dev} (hs : Kept s₀ s) : Kept s₀ (s.sendRow t slot o ue src dst len dev) := by
  unfold State.sendRow
  refine .foldl hs fun u x h => .unlessFailed h fun v h => ?_
  split
  · exact .opErr h
  · exact .request h

theorem Kept.fetchRow {t slot o src dst len dev} (hs : Kept s₀ s) : Kept s₀ (s.fetchRow t slot o src dst len dev) :=
  .foldl hs fun _ _ h => .unlessFailed h (fun _ h => .request h)

theorem Kept.dmaRun {t slot o ue} (hs : Kept s₀ s) : Kept s₀ (s.dmaRun t slot o ue) :=
  .unlessFailed (.foldl hs fun _ _ h => .unlessFailed h (fun _ h => .ite (.sendRow h) (.ite (.fetchRow h) (.copyRow h)))) (fun _ h => .opDone h)

theorem Kept.dma {t q ue} (hs : Kept s₀ s) : Kept s₀ (s.dma t q ue) := by
  unfold State.dma
  split
  · exact hs
  · extract_lets r
    have hr : Kept s₀ r.1 := .leave hs
    split
    · exact .opDone hr
    · split
      · exact .modOp hr
      · exact .dmaRun hr

theorem Kept.remoteAdd {t q} (hs : Kept s₀ s) : Kept s₀ (s.remoteAdd t q) := by
  unfold State.remoteAdd
  split
  · exact hs
  · extract_lets _ r
    have hr : Kept s₀ r.1 := .leave hs
    exact .ite hs (.ite (.opDone hr) (.request hr))

theorem Kept.refuseRemote {l ue m code addr len tag isWrite} (hs : Kept s₀ s) :
    Kept s₀ (s.refuseRemote l ue m code addr len tag isWrite) := by
  unfold State.refuseRemote
  extract_lets s1 s2
  have hs1 : Kept s₀ s1 := .ite (.arrivalDrop hs) hs
  have hs2 : Kept s₀ s2 := by
    refine .ite ?_ hs1
    cases s1.accessErr ue addr len isWrite with
    | none => exact hs1
    | some e => exact .noteErr hs1
  exact .answerTo (.bump hs2)

theorem Kept.writeArrive {l ue} (hs : Kept s₀ s) : Kept s₀ (s.writeArrive l ue) := by
  unfold State.writeArrive
  split
  next => exact hs
  next h =>
    have hs1 := Kept.takeDelivered hs h
    extract_lets addr len
    split
    · exact .refuseRemote hs1
    · exact .answerTo (.writeBytes hs1)

theorem Kept.readArrive {l ue} (hs : Kept s₀ s) : Kept s₀ (s.readArrive l ue) := by
  unfold State.readArrive
  split
  next => exact hs
  next h =>
    have hs1 := Kept.takeDelivered hs h
    extract_lets addr len
    split
    · exact .refuseRemote hs1
    · exact .answerTo hs1

theorem Kept.peerSignal {src target delta} (hs : Kept s₀ s) : Kept s₀ (s.peerSignal src target delta).1 :=
  .ite_fst hs (.ite_fst (.bump hs) (.ite_fst (.misuse hs) (.signalTo hs)))

theorem Kept.syncAddArrive {l} (hs : Kept s₀ s) : Kept s₀ (s.syncAddArrive l) := by
  unfold State.syncAddArrive
  split
  next => exact hs
  next h =>
    have hs1 := Kept.takeDelivered hs h
    extract_lets ans r
    split
    · exact .answerTo (.arrivalDrop hs1)
    · exact .answerTo (.peerSignal hs1)

theorem Kept.answerAdd {r code} (hs : Kept s₀ s) : Kept s₀ (s.answerAdd r code) := .modOp hs

theorem Kept.answerDma {l ue r m} (hs : Kept s₀ s) : Kept s₀ (s.answerDma l ue r m) := by
  unfold State.answerDma
  extract_lets
  split
  · exact .modOp (.bump hs)
  · split
    · split
      · exact .opErr hs
      · exact .writeBytes hs
    · exact hs

theorem Kept.answerReq {l ue r m} (hs : Kept s₀ s) : Kept s₀ (s.answerReq l ue r m) := by
  unfold State.answerReq
  extract_lets s1 _ s2
  have hs1 : Kept s₀ s1 := .upd hs
  have hs2 : Kept s₀ s2 := .ite (.arrivalDrop hs1) hs1
  exact .ite (.answerAdd hs2) (.ite hs2 (.answerDma hs2))

theorem Kept.answerArrive {l ue} (hs : Kept s₀ s) : Kept s₀ (s.answerArrive l ue) := by
  unfold State.answerArrive
  split
  next => exact hs
  next h =>
    have hs1 := Kept.takeDelivered hs h
    extract_lets tag
    split
    · exact .answerReq hs1
    · exact .ite (.bump (.upd hs1)) (.arrivalDrop (.upd hs1))

theorem Kept.memScrub {addr o} (hs : Kept s₀ s) : Kept s₀ (s.memScrub addr o) := by
  unfold State.memScrub
  extract_lets b
  split
  · exact hs
  · refine .ite hs ?_
    split
    · exact hs
    · exact .bump hs
    · exact .ite (.noteMemErr hs) (.marked (.noteMemErr hs))

/-! ### Scalar instructions -/

theorem Kept.apply {t c e} (hs : Kept s₀ s) : Kept s₀ (s.apply t c e) := by
  unfold State.apply
  split
  · exact .setCore hs
  · exact .bufferStore (.setCore hs)
  · exact .setCore (.store hs)
  · exact .coreTrap hs
  · exact .coreUe hs
  · extract_lets s1
    have hs1 : Kept s₀ s1 := .setCore hs
    exact .setTile hs1
  · exact .setCore (.tick hs)

theorem Kept.standard {t c ue w len} (hs : Kept s₀ s) : Kept s₀ (s.standard t c ue w len) := by
  unfold State.standard
  extract_lets s1
  have hs1 : Kept s₀ s1 := .ite (.drainAll hs) hs
  exact .drainSome (.apply hs1)

/-! ### Vector instructions -/

theorem Kept.vDone {t c v fl} (hs : Kept s₀ s) : Kept s₀ (s.vDone t c v fl) := by
  unfold State.vDone
  extract_lets _ _ s1 s2
  have hs1 : Kept s₀ s1 := .setTile hs
  have hs2 : Kept s₀ s2 := .modOp (.bump (.raiseFlags hs1))
  exact .setCore hs2

theorem Kept.run0 {t c f7 a} (hs : Kept s₀ s) : Kept s₀ (s.run0 t c f7 a) := by
  unfold State.run0
  split
  case h_7 => exact .ite (.coreTrap hs) (.ite (.vDone hs) (.vDone (.setCore hs)))
  all_goals exact .vDone hs

theorem Kept.run1 {t c op a vs3} (hs : Kept s₀ s) : Kept s₀ (s.run1 t c op a vs3) := by
  unfold State.run1
  exact .vDone hs

theorem Kept.orErr {t c e go} (hs : Kept s₀ s) (hgo : Kept s₀ go) : Kept s₀ (s.orErr t c e go) := by
  unfold State.orErr
  split
  · exact .coreTrap hs
  · exact .coreUe hs
  · exact hgo

theorem Kept.runVld {t c m ue} (hs : Kept s₀ s) : Kept s₀ (s.runVld t c m ue) := by
  unfold State.runVld
  exact .orErr hs (.vDone hs)

theorem Kept.runVst {t c m} (hs : Kept s₀ s) : Kept s₀ (s.runVst t c m) := by
  unfold State.runVst
  dsimp only
  split
  · exact .coreTrap hs
  · exact .vDone (.foldl_fst (a := (s, 0)) hs fun _ _ h => .store h)

theorem Kept.runVldq {t c m ue} (hs : Kept s₀ s) : Kept s₀ (s.runVldq t c m ue) := by
  unfold State.runVldq
  exact .orErr hs (.vDone hs)

theorem Kept.runVstq {t c m} (hs : Kept s₀ s) : Kept s₀ (s.runVstq t c m) := by
  unfold State.runVstq
  extract_lets v md k n ea sa nb spots dr put r
  have hput : ∀ u l code, Kept s₀ u → Kept s₀ (put u l code) := fun _ _ _ h => .ite (.store h) (.store h)
  split
  · exact .coreTrap hs
  · refine .vDone (.foldl_fst hs fun x i h => ?_)
    extract_lets ls act xs e s1 s2
    have hs2 : Kept s₀ s2 := .foldl (.foldl h fun _ _ h => hput _ _ _ h) fun _ _ h => hput _ _ _ h
    exact .pair (.ite hs2 (.store hs2))

theorem Kept.runVgath {t c m ue} (hs : Kept s₀ s) : Kept s₀ (s.runVgath t c m ue) := by
  unfold State.runVgath
  exact .orErr hs (.vDone hs)

theorem Kept.runVscat {t c m} (hs : Kept s₀ s) : Kept s₀ (s.runVscat t c m) := by
  unfold State.runVscat
  extract_lets
  split
  · exact .coreTrap hs
  · exact .vDone (.foldl hs fun _ _ h => .store h)

theorem Kept.ctlDone {t c rd v} (hs : Kept s₀ s) : Kept s₀ (s.ctlDone t c rd v) := .setCore hs
theorem Kept.runTsig {t c rs1 rs2} (hs : Kept s₀ s) : Kept s₀ (s.runTsig t c rs1 rs2) := .ite (.coreEnd hs) (.setCore (.ite hs (.upd hs)))

theorem Kept.runTwait {t c rd rs1 rs2} (hs : Kept s₀ s) : Kept s₀ (s.runTwait t c rd rs1 rs2) := by
  unfold State.runTwait
  extract_lets
  split
  · exact .coreEnd hs
  · split
    · exact .ctlDone hs
    · split
      · exact .ctlDone hs
      · split
        · exact .ctlDone hs
        · exact .ctlDone hs
        · exact .setCore hs

theorem Kept.run3 {t c f7 rd rs1 rs2} (hs : Kept s₀ s) : Kept s₀ (s.run3 t c f7 rd rs1 rs2) := by
  unfold State.run3
  extract_lets
  split
  · exact .ctlDone (.setTile hs)
  · exact .setCore (.setTile hs)
  · exact .runTsig hs
  · exact .runTwait hs
  · exact .setCore hs
  · exact .coreExit hs
  · exact .ctlDone hs

theorem Kept.runCustom {t c ue i} (hs : Kept s₀ s) : Kept s₀ (s.runCustom t c ue i) := by
  unfold State.runCustom
  extract_lets
  split
  · exact .coreEnd hs
  · split
    · exact .coreEnd hs
    · split
      · exact .coreEnd hs
      · split
        · exact .run0 hs
        · exact .run1 hs
        · split
          · exact .runVld hs
          · exact .runVst hs
          · exact .runVldq hs
          · exact .runVstq hs
          · exact .runVgath hs
          · exact .runVscat hs
        · exact .run3 hs

theorem Kept.custom {t c ue i} (hs : Kept s₀ s) : Kept s₀ (s.custom t c ue i) := by
  unfold State.custom
  split
  · split
    · exact .runCustom (.drainAll hs)
    · exact .runCustom hs
  · exact hs

theorem Kept.scalarInst {t c ue} (hs : Kept s₀ s) : Kept s₀ (s.scalarInst t c ue) := by
  unfold State.scalarInst
  split
  · exact hs
  · split
    · exact .coreTrap hs
    · exact .coreUe hs
    · exact .coreTrap hs
    · exact .ite (.ite hs (.coreEnd hs)) (.standard hs)

theorem Kept.ctlInst {t c f7 rd rs1 rs2} (hs : Kept s₀ s) : Kept s₀ (s.ctlInst t c f7 rd rs1 rs2) := by
  unfold State.ctlInst
  split
  · exact .ite (.run3 hs) hs
  · split
    · exact .ite (.runCustom hs) hs
    · exact hs

end

/-! ### The commands and the step -/

/-- Every command of every state has a next state, with the queue as it was and memory's form kept. -/
theorem exec_kept (c : Instr) (s : State) : ∃ t, exec c s = .next t ∧ Kept s t := by
  have hs := Kept.refl s
  cases c with
  | registerWrite => exact ⟨_, rfl, .registerWrite hs⟩
  | rcRegisterRead => exact ⟨_, rfl, .readAccess hs⟩
  | commitGo => exact ⟨_, rfl, .commitGo hs⟩
  | commitCheckDone => exact ⟨_, rfl, .commitCheckDone hs⟩
  | blendCheck | blendApply => exact ⟨_, rfl, .blendCtrl hs⟩
  | blendCheckDone => exact ⟨_, rfl, .blendCheckDone hs⟩
  | blendQuiescePoint => exact ⟨_, rfl, .blendQuiesce hs⟩
  | blendNotQuiesced => exact ⟨_, rfl, .blendTimeout hs⟩
  | blendCommitPoint => exact ⟨_, rfl, .blendCommit hs⟩
  | caskPass => exact ⟨_, rfl, .caskPass (.corrected hs)⟩
  | caskLayerSwitchDone => exact ⟨_, rfl, .layerSwitch hs⟩
  | caskPassFire => exact ⟨_, rfl, .passFire hs⟩
  | caskPhaseEnd => exact ⟨_, rfl, .phaseEnd (.corrected hs)⟩
  | caskAbort => exact ⟨_, rfl, .abortPass hs⟩
  | caskPassDone => exact ⟨_, rfl, .passDone (.corrected hs)⟩
  | referencePhase => exact ⟨_, rfl, .referencePhase hs⟩
  | caskOlt => exact ⟨_, rfl, .caskOlt hs⟩
  | caskOltDone => exact ⟨_, rfl, .oltDone hs⟩
  | caskDacTest => exact ⟨_, rfl, .caskDac hs⟩
  | caskDacTestDone => exact ⟨_, rfl, .dacDone hs⟩
  | tileCringRptrWrite => exact ⟨_, rfl, .ringRptrWrite hs⟩
  | calLoadDone => exact ⟨_, rfl, .calLoad hs⟩
  | calTempTrigger => exact ⟨_, rfl, .calTemp hs⟩
  | calReqRun => exact ⟨_, rfl, .calReq hs⟩
  | calRetry => exact ⟨_, rfl, .calRetry hs⟩
  | calVisit => exact ⟨_, rfl, .calVisit hs⟩
  | calRunEnd => exact ⟨_, rfl, .calRunEnd hs⟩
  | calReinterpolate => exact ⟨_, rfl, .calReinterpolate hs⟩
  | calValuesTakeEffect => exact ⟨_, rfl, .calTake hs⟩
  | cwrFlush | cwrLoad | cwrResume | cwrRepairColumn | cwrRepairMacro | cwrRepairReference => exact ⟨_, rfl, .cwrPushKind hs⟩
  | cwrAdmit => exact ⟨_, rfl, .cwrAdmit (.corrected hs)⟩
  | cwrTakeLayer => exact ⟨_, rfl, .cwrTake (.corrected hs)⟩
  | cwrRow => exact ⟨_, rfl, .cwrRow hs⟩
  | cwrRelease => exact ⟨_, rfl, .cwrRelease (.corrected hs)⟩
  | cwrTokenTick => exact ⟨_, rfl, .tokenTick hs⟩
  | cwrGovernorSave => exact ⟨_, rfl, .governorSave hs⟩
  | matrixOp => exact ⟨_, rfl, .matrixOp (.corrected hs)⟩
  | quadrantFault => exact ⟨_, rfl, .quadrantFault hs⟩
  | scratchScrub => exact ⟨_, rfl, .scratchScrub hs⟩
  | vectorKernel | scalarKernel => exact ⟨_, rfl, .kernelOp hs⟩
  | kernelStart => exact ⟨_, rfl, .kernelStart hs⟩
  | scalarInstruction => exact ⟨_, rfl, .scalarInst (.corrected hs)⟩
  | vadd | vsub | vmul | vdiv | vmin | vmax | vsqrt | vsgnj | vcvtif | vcvtfi | vand | vor | vxor | vsll | vsrl | vsra | viadd
  | vimul | vcmpeq | vcmplt | vcmple | vsel | vmov | vexp2 | vexp | vlog2 | vln | vrcp | vrsqrt | vtanh | vsigm | vgelu | vsilu
  | vsin | vcos | vrsum | vrmax | vbcast | vextr | vfma | vfms | vfnma | vst | vstq | vscat => exact ⟨_, rfl, .custom hs⟩
  | vld | vldq | vgath => exact ⟨_, rfl, .custom (.corrected hs)⟩
  | tsetvl | tsetblk | tsig | twait | tvfence | texit | tcore => exact ⟨_, rfl, .ctlInst hs⟩
  | opqTailWrite => exact ⟨_, rfl, .tailWrite hs⟩
  | descriptorFetch => exact ⟨_, rfl, .fetch (.corrected hs)⟩
  | opComplete => exact ⟨_, rfl, .opComplete (.corrected hs)⟩
  | opqResume | opqSkip | opqSkipSignal | opqFlush => exact ⟨_, rfl, .queueCmdOn hs⟩
  | opqPreemptGo => exact ⟨_, rfl, .opqCmdOn hs (fun _ h => .preemptGo h)⟩
  | opqPreemptDone => exact ⟨_, rfl, .preemptDone hs⟩
  | opqPreemptRelease => exact ⟨_, rfl, .opqCmdOn hs (fun _ h => .preemptRelease h)⟩
  | signalArrive => exact ⟨_, rfl, .signalArrive hs⟩
  | syncCtrValueWrite => exact ⟨_, rfl, .ctrWrite hs⟩
  | syncRearm => exact ⟨_, rfl, .rearm hs⟩
  | waiterWake => exact ⟨_, rfl, .wake (.corrected hs)⟩
  | syncNop => exact ⟨_, rfl, .syncNop hs⟩
  | syncSet => exact ⟨_, rfl, .syncSet hs⟩
  | remoteAdd => exact ⟨_, rfl, .remoteAdd hs⟩
  | fence => exact ⟨_, rfl, .fenceOp hs⟩
  | ctxOpen | ctxRetire | ctxQuery => exact ⟨_, rfl, .ctxCommandOn hs⟩
  | ctxEdge => exact ⟨_, rfl, .ctxEdge hs⟩
  | ctxDrained => exact ⟨_, rfl, .ctxDrained hs⟩
  | ctxDrainTimeout => exact ⟨_, rfl, .ctxDrainTimeout hs⟩
  | ctxQuarantineEnd => exact ⟨_, rfl, .ctxQuarantineEnd hs⟩
  | xferProbe => exact ⟨_, rfl, .xferProbe hs⟩
  | dma => exact ⟨_, rfl, .dma (.corrected hs)⟩
  | memScrub => exact ⟨_, rfl, .memScrub hs⟩
  | write => exact ⟨_, rfl, .writeArrive (.corrected hs)⟩
  | read => exact ⟨_, rfl, .readArrive (.corrected hs)⟩
  | answer => exact ⟨_, rfl, .answerArrive (.corrected hs)⟩
  | syncAdd => exact ⟨_, rfl, .syncAddArrive hs⟩
  | flitReceive => exact ⟨_, rfl, .flitReceive hs⟩
  | controlWord => exact ⟨_, rfl, .controlWord hs⟩
  | lossOfLight => exact ⟨_, rfl, .loseLight hs⟩
  | lightArrive => exact ⟨_, rfl, .lightArrive hs⟩
  | trainDone => exact ⟨_, rfl, .trainDone hs⟩
  | trainTimeout => exact ⟨_, rfl, .trainTimeout hs⟩
  | peerCheckDone => exact ⟨_, rfl, .peerCheckDone hs⟩
  | frameLockLost => exact ⟨_, rfl, .retrain hs⟩
  | fecUeLimit => exact ⟨_, rfl, .fecUeLimit hs⟩
  | heartbeatSend => exact ⟨_, rfl, .heartbeatSend hs⟩
  | heartbeat => exact ⟨_, rfl, .heartbeatArrive hs⟩
  | flinkPeerSilent => exact ⟨_, rfl, .peerSilent hs⟩
  | flinkAgedOut => exact ⟨_, rfl, .ageOut hs⟩
  | laserWaitDone => exact ⟨_, rfl, .laserWaitDone hs⟩
  | flinkLaserFault => exact ⟨_, rfl, .laserFault hs⟩
  | ringTuneDone => exact ⟨_, rfl, .ringTuneDone hs⟩
  | flinkRingTuneFail => exact ⟨_, rfl, .ringTuneFail hs⟩
  | laserInsert => exact ⟨_, rfl, .laserInsert hs⟩
  | laserRemove => exact ⟨_, rfl, .laserRemove hs⟩
  | linkRetrain => exact ⟨_, rfl, .flinkCmdOn hs (fun _ h => .linkRetrain h)⟩
  | linkRestart => exact ⟨_, rfl, .flinkCmdOn hs (fun _ h => .linkRestart h)⟩
  | engineRestart => exact ⟨_, rfl, .flinkCmdOn hs (fun _ h => .engineRestart h)⟩
  | engineService => exact ⟨_, rfl, .flinkCmdOn hs (fun _ h => .engineService h)⟩
  | engineServiceOff => exact ⟨_, rfl, .engineServiceOff hs⟩
  | bucketOpen => exact ⟨_, rfl, .bucketOpen hs⟩
  | bucketContribute => exact ⟨_, rfl, .bucketContribute (.corrected hs)⟩
  | bucketFlush => exact ⟨_, rfl, .bucketFlush hs⟩
  | reduce => exact ⟨_, rfl, .reduce hs⟩
  | reduceAbort => exact ⟨_, rfl, .reduceAbort hs⟩
  | scale => exact ⟨_, rfl, .scaleMsg hs⟩
  | rdcLate => exact ⟨_, rfl, .becomeLate hs⟩
  | bucketComplete => exact ⟨_, rfl, .bucketComplete hs⟩
  | ethFrame => exact ⟨_, rfl, .ethFrame hs⟩
  | roceRateStep => exact ⟨_, rfl, .rateStep hs⟩
  | rdmaWrite => exact ⟨_, rfl, .rdmaWrite hs⟩
  | rdmaRead => exact ⟨_, rfl, .rdmaRead hs⟩
  | send => exact ⟨_, rfl, .sendArrives hs⟩
  | roceAck => exact ⟨_, rfl, .onQp hs (fun _ => .roceReply hs)⟩
  | roceRetryTimeout => exact ⟨_, rfl, .roceRetry hs⟩
  | ethLinkDown => exact ⟨_, rfl, .ethDown hs⟩
  | ethLinkUp => exact ⟨_, rfl, .ethUp hs⟩
  | tcpConnect => exact ⟨_, rfl, .connect hs⟩
  | sessionOpenTimeout => exact ⟨_, rfl, .openTimeout hs⟩
  | openHello => exact ⟨_, rfl, .inTurn hs (fun _ h => .openHello h)⟩
  | openProof => exact ⟨_, rfl, .inTurn hs (fun _ h => .openProof h)⟩
  | sesLockEnd => exact ⟨_, rfl, .upd hs⟩
  | close => exact ⟨_, rfl, .command hs (fun _ h => .closeSession (.reply h))⟩
  | ctlRead => exact ⟨_, rfl, .command hs (fun _ h => .ctlRead h)⟩
  | ctlWrite => exact ⟨_, rfl, .command hs (fun _ h => .ctlWrite h)⟩
  | memRead => exact ⟨_, rfl, .command hs (fun _ h => .memRead (.corrected h))⟩
  | memWrite => exact ⟨_, rfl, .command hs (fun _ h => .memWrite (.corrected h))⟩
  | planLoad => exact ⟨_, rfl, .command hs (fun _ h => .planLoad h)⟩
  | stepRun => exact ⟨_, rfl, .command hs (fun _ h => .reply (.run h))⟩
  | stepPause => exact ⟨_, rfl, .command hs (fun _ h => .reply (.pause h))⟩
  | stepStop => exact ⟨_, rfl, .command hs (fun _ h => .reply (.stop h))⟩
  | stepStatus => exact ⟨_, rfl, .command hs (fun _ h => .stepStatus h)⟩
  | lease => exact ⟨_, rfl, .command hs (fun _ h => .reply (.leaseRestart h))⟩
  | svcConfig => exact ⟨_, rfl, .command hs (fun _ h => .svcConfig h)⟩
  | qpOpen => exact ⟨_, rfl, .command hs (fun _ h => .qpOpen h)⟩
  | qpClose => exact ⟨_, rfl, .command hs (fun _ h => .qpClose h)⟩
  | eventSubscribe => exact ⟨_, rfl, .command hs (fun _ h => .subscribe h)⟩
  | sesOpcode => exact ⟨_, rfl, .inTurn hs (fun _ h => .oddMessage h)⟩
  | sesTimeout => exact ⟨_, rfl, .idleClose hs⟩
  | keepaliveProbe => exact ⟨_, rfl, .keepalive hs⟩
  | svcLeaseLapsed => exact ⟨_, rfl, .leaseLapsed hs⟩
  | healthDatagram => exact ⟨_, rfl, .health hs⟩
  | microBatchRelease => exact ⟨_, rfl, .microBatch hs⟩
  | svcInputStall => exact ⟨_, rfl, .inputStall hs⟩
  | stepEnd => exact ⟨_, rfl, .stepEnds hs⟩
  | checkpointDone => exact ⟨_, rfl, .checkpointDone hs⟩
  | rack => exact ⟨_, rfl, .command hs (fun _ h => .rackCommand h)⟩
  | reset => exact ⟨_, rfl, .command hs (fun _ h => .resetCommand h)⟩
  | logRead => exact ⟨_, rfl, .command hs (fun _ h => .logRead h)⟩
  | bistRun => exact ⟨_, rfl, .command hs (fun _ h => .bistAsk h)⟩
  | attReport => exact ⟨_, rfl, .command hs (fun _ h => .attReport h)⟩
  | attIdentity => exact ⟨_, rfl, .command hs (fun _ h => .attIdentity h)⟩
  | keyRotate => exact ⟨_, rfl, .command hs (fun _ h => .keyRotate h)⟩
  | keyClear => exact ⟨_, rfl, .command hs (fun _ h => .keyClear h)⟩
  | fwStage => exact ⟨_, rfl, .command hs (fun _ h => .fwStage h)⟩
  | fwActivate => exact ⟨_, rfl, .command hs (fun _ h => .fwActivate h)⟩
  | netSet => exact ⟨_, rfl, .command hs (fun _ h => .netSet h)⟩
  | bootClear => exact ⟨_, rfl, .command hs (fun _ h => .bootClear h)⟩
  | vkeySet => exact ⟨_, rfl, .command hs (fun _ h => .vkeySet h)⟩
  | inputSag => exact ⟨_, rfl, .sag hs⟩
  | inputStable => exact ⟨_, rfl, .inputStable hs⟩
  | pwrOvervoltage => exact ⟨_, rfl, .overvoltage hs⟩
  | pwrHoldupAbsent => exact ⟨_, rfl, .holdupAbsent hs⟩
  | capLoop => exact ⟨_, rfl, .capLoop hs⟩
  | capState => exact ⟨_, rfl, .capState hs⟩
  | envelopePeriod => exact ⟨_, rfl, .envelopePeriod hs⟩
  | pwrEnvelopeLost => exact ⟨_, rfl, .envelopeLost hs⟩
  | pwrEnvelopeWrite => exact ⟨_, rfl, .envelopeWrite hs⟩
  | pwrThermalThrottle => exact ⟨_, rfl, .thermalThrottle hs⟩
  | pwrThermalTrip => exact ⟨_, rfl, .thermalTrip hs⟩
  | pwrExtTherm => exact ⟨_, rfl, .extTherm hs⟩
  | ballastUpdate => exact ⟨_, rfl, .ballast hs⟩
  | droopTrip => exact ⟨_, rfl, .droopTrip hs⟩
  | droopRecover => exact ⟨_, rfl, .droopRecover hs⟩
  | hkcScan => exact ⟨_, rfl, .hkcScan hs⟩
  | hkcTest => exact ⟨_, rfl, .hkcTest hs⟩
  | hkcTestDone => exact ⟨_, rfl, .hkcTestDone hs⟩
  | hkcRingRptrWrite => exact ⟨_, rfl, .hkcRptr hs⟩
  | attrInterval | pwrAttrMark => exact ⟨_, rfl, .attrClose hs⟩
  | pwrAttrDrift => exact ⟨_, rfl, .attrDrift hs⟩
  | pwrDomainCmd => exact ⟨_, rfl, .domainCmd hs⟩
  | domainSwitchDone => exact ⟨_, rfl, .domainDone hs⟩
  | idleDeep => exact ⟨_, rfl, .idleDeep hs⟩
  | deepIdleEntry => exact ⟨_, rfl, .deepIdle hs⟩
  | idleResume => exact ⟨_, rfl, .idleResume hs⟩
  | resumeDone => exact ⟨_, rfl, .resumed hs⟩
  | hangDeadline => exact ⟨_, rfl, .deadline (.corrected hs)⟩
  | hangWait => exact ⟨_, rfl, .longWait hs⟩
  | resetEngine => exact ⟨_, rfl, .rstCmd (.corrected hs)⟩
  | resetTile | resetOptical | resetPress | resetWarm | resetCold => exact ⟨_, rfl, .rstCmd hs⟩
  | resetDone => exact ⟨_, rfl, .resetDone hs⟩
  | rstEscalated => exact ⟨_, rfl, .escalate hs⟩
  | safeStateDrain => exact ⟨_, rfl, .safeDrained hs⟩
  | bistVisit => exact ⟨_, rfl, .bistVisit hs⟩
  | bistQuiesced => exact ⟨_, rfl, .bistQuiesced hs⟩
  | bistQuiesceTimeout => exact ⟨_, rfl, .bistTimeout hs⟩
  | bistSliceDone => exact ⟨_, rfl, .sliceDone hs⟩
  | bistCmd => exact ⟨_, rfl, .bistCmd hs⟩
  | snapCmd => exact ⟨_, rfl, .rackAsk hs⟩
  | rackLatch => exact ⟨_, rfl, .rackLatch hs⟩
  | rackFlit => exact ⟨_, rfl, .rackFlit hs⟩
  | snapIncomplete => exact ⟨_, rfl, .rackTimeout hs⟩
  | rackImageWritten => exact ⟨_, rfl, .rackWritten hs⟩
  | logJournalCopy => exact ⟨_, rfl, .ite hs (.copyLog hs)⟩
  | logRptrWrite => exact ⟨_, rfl, .logRptr hs⟩
  | resetInLow => exact ⟨_, rfl, .resetInLow hs⟩
  | resetInRise => exact ⟨_, rfl, .resetInRise hs⟩
  | bootStageRom => exact ⟨_, rfl, .stageRom hs⟩
  | bootStagePower => exact ⟨_, rfl, .stagePower hs⟩
  | bootStageImage => exact ⟨_, rfl, .stageImage hs⟩
  | bootStageEthernet => exact ⟨_, rfl, .stageEther hs⟩
  | bootStageUncore => exact ⟨_, rfl, .stageUncore hs⟩
  | bootStageSelftest => exact ⟨_, rfl, .stageSelftest hs⟩
  | bootStageCask => exact ⟨_, rfl, .stageCask hs⟩
  | bootStageOptical => exact ⟨_, rfl, .stageOptical hs⟩
  | bootStageReady => exact ⟨_, rfl, .stageReady hs⟩
  | bootStageTimeout => exact ⟨_, rfl, .stageTimeout hs⟩
  | fwStageDone => exact ⟨_, rfl, .ite (.fwStageDone hs) hs⟩
  | frameTransmit => exact ⟨_, rfl, .frameTransmit hs⟩
  | insertedDutySlot => exact ⟨_, rfl, .dutySlot hs⟩

/-- With nothing at the front of the queue: a session's command whose turn it is runs, or time passes. -/
theorem between_kept (s : State) : ∃ t, s.between exec = .next t ∧ Kept s t := by
  unfold State.between
  split
  · exact ⟨_, rfl, .idle (.refl s)⟩
  next e rest he =>
    split
    · exact ⟨_, rfl, .idle (.refl s)⟩
    · obtain ⟨t, ht, hk⟩ := exec_kept e.2 { s with turns := [] }
      simp only [ht]
      exact ⟨_, rfl, .upd (hk.after (.upd (.refl s)))⟩

/-- A command taken from the queue runs on the state without it. -/
theorem step_keeps (s : State) : ∃ t, step s = .next t ∧ t.pending = s.pending.tail ∧ (s.mem.wf → t.mem.wf) := by
  unfold step
  split
  next hq =>
    obtain ⟨t, ht, hk⟩ := between_kept s
    obtain ⟨hp, hm⟩ := hk.keeps
    exact ⟨t, ht, by simp [hp, hq], hm⟩
  next c rest hq =>
    obtain ⟨t, ht, hk⟩ := exec_kept c { s with pending := rest }
    obtain ⟨hp, hm⟩ := hk.keeps
    exact ⟨t, ht, by simp [hp, hq], hm⟩

end Sys2Proof.Machine
end

section
open Sys2Proof Sys2Proof.Machine

/-- Settles O60, from the lemma of every operation through the commands to the step. -/
theorem stepKeepsMemoryForm : Obligations.StepKeepsMemoryForm := step_keeps
end

section
/-!
PROOFS. O54: what switching a domain off does beside it. A lemma `Dark.f` for each operation `f` of which the switch-offs are made: it
changes no domain and lights no link.
-/

namespace Sys2Proof.Machine

/-- Every domain is on in `t` as in `s`, and every link that is off in `s` is off in `t`. -/
@[irreducible] def Dark (s t : State) : Prop :=
  t.power.domains = s.power.domains ∧ ∀ l, (s.link l).state = .off → (t.link l).state = .off

theorem Dark.domainOn {s t : State} (h : Dark s t) (d : Nat) : t.domainOn d = s.domainOn d := by
  unfold Dark at h
  rw [State.domainOn, State.domainOn, h.1]

theorem Dark.off {s t : State} (h : Dark s t) {l : Nat} (hl : (s.link l).state = .off) : (t.link l).state = .off := by
  unfold Dark at h
  exact h.2 l hl

section
variable {s₀ s t : State}

theorem Dark.refl (s : State) : Dark s s := by
  unfold Dark
  exact ⟨rfl, fun _ => id⟩

theorem Dark.then (hs : Dark s₀ s) (hd : t.power.domains = s.power.domains) (hl : ∀ l, (s.link l).state = .off → (t.link l).state = .off) :
    Dark s₀ t := by
  unfold Dark at *
  exact ⟨hd.trans hs.1, fun l h => hl l (hs.2 l h)⟩

theorem Dark.trans (hs : Dark s₀ s) (ht : Dark s t) : Dark s₀ t := by
  unfold Dark at ht
  exact hs.then ht.1 ht.2

theorem Dark.ite {a b : State} {c : Prop} [Decidable c] (ha : Dark s₀ a) (hb : Dark s₀ b) : Dark s₀ (if c then a else b) := by
  split <;> assumption

theorem Dark.foldl {α : Type} {f : State → α → State} {xs : List α} (hs : Dark s₀ s) (k : ∀ u x, Dark s₀ u → Dark s₀ (f u x)) :
    Dark s₀ (xs.foldl f s) := by
  induction xs generalizing s with
  | nil => exact hs
  | cons x xs ih => exact ih (k _ _ hs)

/-- An update of any fields but the domains' and the links'. -/
theorem Dark.upd {pending free ctl staged captured checking blend mem ctxs ctxCmds requests abandoned nextTag tiles cores ctrs transit dies
    layers cells scales passSeq ringSeq engines delivered frames buckets openSeqs parked earlyAborts abortsSent digests qps prioShare
    pausedPrio pauseSent sessions slotFails slotLocked turns out sent svc hkc rel journal boot pins} (hs : Dark s₀ s) :
    Dark s₀ ⟨pending, free, ctl, staged, captured, checking, blend, mem, ctxs, ctxCmds, requests, abandoned, nextTag, tiles, cores, ctrs,
      transit, dies, layers, cells, scales, passSeq, ringSeq, s.links, engines, delivered, frames, buckets, openSeqs, parked, earlyAborts,
      abortsSent, digests, qps, prioShare, pausedPrio, pauseSent, sessions, slotFails, slotLocked, turns, out, sent, svc, s.power, hkc, rel,
      journal, boot, pins⟩ := hs.then rfl fun _ => id

/-- A link that was off stays off. -/
theorem Dark.setLink {l x} (hs : Dark s₀ s) (hx : (s.link l).state = .off → x.state = .off) : Dark s₀ (s.setLink l x) := by
  refine hs.then rfl fun k hk => ?_
  rw [State.link_setLink]
  split
  next h => exact hx (h ▸ hk)
  · exact hk

theorem Dark.gensKept {b} (hs : Dark s₀ s) : Dark s₀ { s with power := { s.power with gensKept := b } } := hs.then rfl fun _ => id

theorem Dark.failOp {ue t slot code detail keep} (hs : Dark s₀ s) : Dark s₀ (s.failOp ue t slot code detail keep) := by
  obtain ⟨_, _, _, _, _, h⟩ := s.failOp_frame ue t slot code detail keep
  exact h ▸ hs.upd

theorem Dark.signalService {n} (hs : Dark s₀ s) : Dark s₀ (s.signalService n) := by
  obtain ⟨_, _, h⟩ := s.signalService_frame n
  exact h ▸ hs.upd

theorem Dark.alarm {code unit a} (hs : Dark s₀ s) : Dark s₀ (s.alarm code unit a) := by
  unfold State.alarm
  obtain ⟨_, _, _, h⟩ := s.logCode_frame code unit { a with flags := a.flags / 2 * 2 + 1 }
  exact h ▸ hs.upd

theorem Dark.modOp {t slot f} (hs : Dark s₀ s) : Dark s₀ (s.modOp t slot f) := by
  obtain ⟨_, h⟩ := s.modOp_frame t slot f
  exact h ▸ hs.upd

theorem Dark.setWord {a v} (hs : Dark s₀ s) : Dark s₀ (s.setWord a v) := .upd hs
theorem Dark.set {f i j v} (hs : Dark s₀ s) : Dark s₀ (s.set f i j v) := .setWord hs
theorem Dark.bump {f i j n} (hs : Dark s₀ s) : Dark s₀ (s.bump f i j n) := .setWord hs
theorem Dark.clearCounters {base} (hs : Dark s₀ s) : Dark s₀ (s.clearCounters base) := .upd hs
theorem Dark.resetFields {base} (hs : Dark s₀ s) : Dark s₀ (s.resetFields base) := .upd hs
theorem Dark.resetBlock {base} (hs : Dark s₀ s) : Dark s₀ (s.resetBlock base) := .upd hs
theorem Dark.tick (hs : Dark s₀ s) : Dark s₀ s.tick := .upd hs
theorem Dark.setTile {t x} (hs : Dark s₀ s) : Dark s₀ (s.setTile t x) := .upd hs
theorem Dark.setDie {d x} (hs : Dark s₀ s) : Dark s₀ (s.setDie d x) := .upd hs
theorem Dark.setEngine {e x} (hs : Dark s₀ s) : Dark s₀ (s.setEngine e x) := .upd hs
theorem Dark.lose {k} (hs : Dark s₀ s) : Dark s₀ (s.lose k) := .upd (.tick hs)
theorem Dark.event {kind code arg0 arg1} (hs : Dark s₀ s) : Dark s₀ (s.event kind code arg0 arg1) := .upd hs
theorem Dark.dropPasses {t} (hs : Dark s₀ s) : Dark s₀ (s.dropPasses t) := .upd hs
theorem Dark.orphanBuckets {t} (hs : Dark s₀ s) : Dark s₀ (s.orphanBuckets t) := .upd hs
theorem Dark.enqueue {l fs} (hs : Dark s₀ s) : Dark s₀ (s.enqueue l fs) := .foldl hs fun _ _ h => .setLink h id

theorem Dark.moveTo {dest l} (hs : Dark s₀ s) : Dark s₀ (s.moveTo dest l) := by
  unfold State.moveTo
  split
  · exact hs
  · exact .ite (.setLink hs id) (.ite (.setLink hs id) hs)

theorem Dark.sendOn {l m} (hs : Dark s₀ s) : Dark s₀ (s.sendOn l m) := .enqueue hs
theorem Dark.sendBy {l m} (hs : Dark s₀ s) : Dark s₀ (s.sendBy l m) := .sendOn (.moveTo hs)
theorem Dark.freeBuffers {l m} (hs : Dark s₀ s) : Dark s₀ (s.freeBuffers l m) := .ite (.foldl hs fun _ _ h => .setLink h id) hs
theorem Dark.intoPark {l m} (hs : Dark s₀ s) : Dark s₀ (s.intoPark l m) := .bump (.lose (.freeBuffers hs))
theorem Dark.fillPark {p} (hs : Dark s₀ s) : Dark s₀ (s.fillPark p) := .foldl hs fun _ _ h => .ite (.intoPark (.upd h)) h

theorem Dark.unparkOne {p} (hs : Dark s₀ s) : Dark s₀ (s.unparkOne p) := by
  unfold State.unparkOne
  split
  · exact hs
  · extract_lets s1
    have hs1 : Dark s₀ s1 := .upd hs
    exact .ite (.freeBuffers hs1) (.fillPark hs1)

theorem Dark.dropParked {pick count} (hs : Dark s₀ s) (hcount : ∀ u v, Dark s₀ u → Dark s₀ (count u v)) :
    Dark s₀ (s.dropParked pick count) :=
  .foldl hs fun _ _ h => hcount _ _ (.unparkOne h)

theorem Dark.sendAbort {m ctx gen dest fwd} (hs : Dark s₀ s) : Dark s₀ (s.sendAbort m ctx gen dest fwd) := by
  unfold State.sendAbort
  extract_lets s1
  have hs1 : Dark s₀ s1 := .upd hs
  split
  · exact .bump (.sendBy hs1)
  · exact hs1

theorem Dark.noteRdcErr {b code dev link} (hs : Dark s₀ s) : Dark s₀ (s.noteRdcErr b code dev link) := by
  unfold State.noteRdcErr
  extract_lets _ s1 s2
  have hs1 : Dark s₀ s1 := .set (.set (.set (.set hs)))
  have hs2 : Dark s₀ s2 := .set hs1
  exact .ite (.bump hs2) hs2

theorem Dark.loseRegions {b} (hs : Dark s₀ s) : Dark s₀ (s.loseRegions b) := by
  unfold State.loseRegions
  split
  · extract_lets s1 s2
    have hs1 : Dark s₀ s1 := .lose hs
    have hs2 : Dark s₀ s2 := .ite hs1 (.lose hs1)
    exact .lose hs2
  · exact hs

theorem Dark.sendAborts {b code pos dev} (hs : Dark s₀ s) : Dark s₀ (s.sendAborts b code pos dev) := by
  unfold State.sendAborts
  extract_lets _ _ s1
  have hs1 : Dark s₀ s1 := .sendAbort hs
  exact .ite (.upd hs1) (.sendAbort hs1)

theorem Dark.dropUse {b code pos dev} (hs : Dark s₀ s) : Dark s₀ (s.dropUse b code pos dev) := by
  unfold State.dropUse
  extract_lets _ s1
  have hs1 : Dark s₀ s1 := .upd hs
  exact .ite hs1 (.upd hs1)

theorem Dark.failUseWith {b code pos dev link detail abort} (hs : Dark s₀ s) :
    Dark s₀ (s.failUseWith b code pos dev link detail abort) := by
  unfold State.failUseWith
  extract_lets s3 s4 s5
  have hs3 : Dark s₀ s3 := .loseRegions (.noteRdcErr (.dropUse hs))
  have hs4 : Dark s₀ s4 := .dropParked hs3 (fun _ _ h => .bump h)
  have hs5 : Dark s₀ s5 := .ite (.modOp hs4) hs4
  exact .ite (.sendAborts hs5) hs5

theorem Dark.failUse {b code pos dev link check abort} (hs : Dark s₀ s) : Dark s₀ (s.failUse b code pos dev link check abort) :=
  .failUseWith hs

theorem Dark.rdcLinkDown {l lost} (hs : Dark s₀ s) : Dark s₀ (s.rdcLinkDown l lost) := by
  unfold State.rdcLinkDown
  refine .foldl hs fun u e h => ?_
  split
  · exact .failUse h
  · exact h

theorem Dark.rdcRestart {reached} (hs : Dark s₀ s) : Dark s₀ (s.rdcRestart reached) := .upd hs

/-- A link that goes off. -/
theorem Dark.linkTo {l} (hs : Dark s₀ s) : Dark s₀ (s.linkTo l .off) :=
  .setLink hs fun _ => rfl

theorem Dark.abandonRequests {pick why} (hs : Dark s₀ s) : Dark s₀ (s.abandonRequests pick why) := .foldl (.upd hs) fun _ _ h => .modOp h

theorem Dark.leaveUp {l st cause} (hs : Dark s₀ s) : Dark s₀ (s.leaveUp l st cause) := by
  unfold State.leaveUp
  split
  · exact hs
  next hup =>
    extract_lets lost peer _ s1 s2 s3 s4 s5 s6 s7 s8
    have hs1 : Dark s₀ s1 := .setLink hs fun h => absurd (h ▸ (by decide)) hup
    have hs4 : Dark s₀ s4 := .set (.rdcLinkDown (.abandonRequests hs1))
    have hs5 : Dark s₀ s5 := by
      dsimp only [s5]
      split
      · exact .set hs4
      · exact hs4
    have hs7 : Dark s₀ s7 := .alarm (.ite (.bump hs5) (.ite (.bump hs5) hs5))
    exact .event (.ite (.signalService hs7) hs7)

theorem Dark.wordSent {l} (hs : Dark s₀ s) : Dark s₀ (s.wordSent l) := by
  unfold State.wordSent
  extract_lets _ s1
  have hs1 : Dark s₀ s1 := .setLink hs id
  exact .ite (.bump hs1) hs1

theorem Dark.bareFrame {l dark retrain} (hs : Dark s₀ s) : Dark s₀ (s.bareFrame l dark retrain) := .upd (.wordSent hs)

theorem Dark.darken {ls cause} (hs : Dark s₀ s) : Dark s₀ (s.darken ls cause) :=
  .foldl hs fun _ _ h => .ite h (.linkTo (.leaveUp (.bareFrame (.bareFrame h))))

theorem Dark.showService {e v} (hs : Dark s₀ s) : Dark s₀ (s.showService e v) := .foldl hs fun _ _ h => .set h

theorem Dark.failHead {t q slot o which ue} (hs : Dark s₀ s) : Dark s₀ (s.failHead t q slot o which ue) := by
  unfold State.failHead
  extract_lets _ s1
  have hs1 : Dark s₀ s1 := .failOp hs
  exact .set hs1

theorem Dark.failWaitersOn {t} (hs : Dark s₀ s) : Dark s₀ (s.failWaitersOn t) := by
  unfold State.failWaitersOn
  refine .upd (.foldl hs fun _ _ h => .ite h (.foldl h fun u q h => ?_))
  split
  · exact h
  · exact .ite h (.ite (.failHead h) (.ite (.failHead h) h))

theorem Dark.resetPfx {p i} (hs : Dark s₀ s) : Dark s₀ (s.resetPfx p i) := .resetBlock hs
theorem Dark.resetRequests {pick} (hs : Dark s₀ s) : Dark s₀ (s.resetRequests pick) := .upd hs
theorem Dark.dropCores {t} (hs : Dark s₀ s) : Dark s₀ (s.dropCores t) := .upd hs
theorem Dark.freshCounters {t} (hs : Dark s₀ s) : Dark s₀ (s.freshCounters t) := .upd hs

theorem Dark.wipeTile {t} (hs : Dark s₀ s) : Dark s₀ (s.wipeTile t) :=
  .lose (.dropCores (.setTile (.resetPfx (.resetPfx (.resetPfx (.resetRequests (.orphanBuckets (.dropPasses hs))))))))

theorem Dark.tileOff {t} (hs : Dark s₀ s) : Dark s₀ (s.tileOff t) := .freshCounters (.wipeTile (.failWaitersOn hs))
theorem Dark.dieReset {d off} (hs : Dark s₀ s) : Dark s₀ (s.dieReset d off) := .setDie (.resetPfx (.resetPfx (.resetPfx hs)))
theorem Dark.engineOff {e} (hs : Dark s₀ s) : Dark s₀ (s.engineOff e) := .showService (.setEngine (.darken hs))

theorem Dark.rdcReset {p} (hs : Dark s₀ s) : Dark s₀ (s.rdcReset p) :=
  .upd (.rdcRestart (.foldl hs fun _ _ h => .ite (.loseRegions h) (.modOp (.loseRegions h))))

theorem Dark.clearUncore {p} (hs : Dark s₀ s) : Dark s₀ (s.clearUncore p) :=
  .foldl (.clearCounters (.clearCounters hs)) fun _ _ h => .clearCounters h

theorem Dark.uncoreReset {p} (hs : Dark s₀ s) : Dark s₀ (s.uncoreReset p) := by
  unfold State.uncoreReset
  extract_lets s1 s2
  have hs1 : Dark s₀ s1 := .resetFields (.resetFields (.rdcReset hs))
  have hs2 : Dark s₀ s2 := .foldl hs1 fun _ _ h => .setLink (.resetFields h) fun _ => rfl
  exact .upd hs2

theorem Dark.uncoreOff {p} (hs : Dark s₀ s) : Dark s₀ (s.uncoreOff p) := by
  unfold State.uncoreOff
  extract_lets s1 s2 last
  have hs2 : Dark s₀ s2 := .lose (.clearUncore (.uncoreReset (.darken hs)))
  exact .ite (.gensKept hs2) hs2

end

end Sys2Proof.Machine
end

section
/-!
PROOFS. Domains switched, and the refusals and results of domain and idle commands.
-/

namespace Sys2Proof.Machine

variable {s : State}

/-! ### A domain's bit and its switch-on -/

theorem getLsbD_domain_bit (d x : Nat) (hx : x < 112) : (BitVec.ofNat 112 (2 ^ d)).getLsbD x = decide (x = d) := by
  rw [BitVec.getLsbD_ofNat, Nat.testBit_two_pow, decide_eq_true hx, Bool.true_and]
  exact decide_eq_decide.2 eq_comm

theorem State.domainOn_setDomain {d x : Nat} (on : Bool) (hx : x < 112) :
    (s.setDomain d on).domainOn x = if x = d then on else s.domainOn x := by
  have hb := getLsbD_domain_bit d x hx
  cases on with
  | true =>
    change (s.power.domains ||| _).getLsbD x = _
    rw [BitVec.getLsbD_or, hb]
    by_cases h : x = d <;> simp [h, State.domainOn]
  | false =>
    change (s.power.domains &&& ~~~_).getLsbD x = _
    rw [BitVec.getLsbD_and, BitVec.getLsbD_not, hb]
    by_cases h : x = d <;> simp [h, hx, State.domainOn]

@[simp] theorem State.switchingOn_setDomain_self (d : Nat) (on : Bool) : (s.setDomain d on).switchingOn d = false := by
  simp [State.setDomain, State.switchingOn]

theorem State.switchBegin_of_on {d : Nat} (h : s.domainOn d = true) : s.switchBegin d = s := by
  simp [State.switchBegin, h]

theorem State.switchBegin_of_off {d : Nat} (h : s.domainOn d = false) :
    s.switchBegin d = { s with power := { s.power with switching := smPut (fun _ => none) d (some true) s.power.switching } } := by
  simp [State.switchBegin, h]

theorem State.switchBegin_frame (d : Nat) : ∃ w, s.switchBegin d = { s with power := { s.power with switching := w } } := by
  unfold State.switchBegin
  split
  · exact ⟨_, rfl⟩
  · exact ⟨_, rfl⟩

theorem State.switchingOn_switchBegin {d : Nat} (x : Nat) (h : s.domainOn d = false) :
    (s.switchBegin d).switchingOn x = (decide (x = d) || s.switchingOn x) := by
  rw [s.switchBegin_of_off h]
  by_cases hx : x = d <;> simp [State.switchingOn, smGet_smPut, hx]

/-! ### Switch-offs -/

/-- A domain switched off goes off last: before it, no domain changes and no link is lit. -/
theorem State.switchOff_eq (d : Nat) : ∃ u, Dark s u ∧ s.switchOff d = u.setDomain d false := by
  unfold State.switchOff
  split
  · exact ⟨s, .refl s, rfl⟩
  · exact ⟨_, .ite (.tileOff (.refl s)) (.ite (.dieReset (.refl s)) (.ite (.engineOff (.refl s)) (.ite (.uncoreOff (.refl s)) (.refl s)))), rfl⟩

theorem State.domainOn_switchOff {d x : Nat} (hx : x < 112) : (s.switchOff d).domainOn x = if x = d then false else s.domainOn x := by
  obtain ⟨u, hu, h⟩ := s.switchOff_eq d
  rw [h, State.domainOn_setDomain _ hx, hu.domainOn]

theorem State.switchingOn_switchOff_self (d : Nat) : (s.switchOff d).switchingOn d = false := by
  obtain ⟨u, _, h⟩ := s.switchOff_eq d
  rw [h, State.switchingOn_setDomain_self]

theorem State.link_off_switchOff {d l : Nat} (h : (s.link l).state = .off) : ((s.switchOff d).link l).state = .off := by
  obtain ⟨u, hu, e⟩ := s.switchOff_eq d
  rw [e]
  exact hu.off h

/-- Domains switched off one after another. -/
theorem State.domainOn_switchOffs (ds : List Nat) {x : Nat} (hx : x < 112) :
    (ds.foldl (fun s d => s.switchOff d) s).domainOn x = (!ds.contains x && s.domainOn x) := by
  induction ds generalizing s with
  | nil => simp
  | cons d ds ih =>
    rw [List.foldl_cons, ih, State.domainOn_switchOff hx]
    by_cases h : x = d <;> simp [h]

theorem State.link_off_switchOffs (ds : List Nat) {l : Nat} (h : (s.link l).state = .off) :
    ((ds.foldl (fun s d => s.switchOff d) s).link l).state = .off := by
  induction ds generalizing s with
  | nil => exact h
  | cons d ds ih => exact ih (State.link_off_switchOff h)

/-- Each of the links darkened is off. -/
theorem State.link_off_darken {ls : List Nat} {l : Nat} (c : Nat) (h : l ∈ ls) : ((s.darken ls c).link l).state = .off := by
  induction ls generalizing s with
  | nil => cases h
  | cons k ls ih =>
    rw [State.darken, List.foldl_cons, ← State.darken]
    by_cases hl : l ∈ ls
    · exact ih hl
    · obtain rfl : l = k := by simpa [hl] using h
      refine Dark.off (.darken (.refl _)) ?_
      split
      next h => exact h
      · simp [State.linkTo]

/-! ### A tile switched off -/

theorem State.freshCounters_tiles (t : Nat) : (s.freshCounters t).tiles = s.tiles := rfl
theorem State.dropCores_tiles (t : Nat) : (s.dropCores t).tiles = s.tiles := rfl

/-- A tile with no operations, no cores and fresh counters, its memory cleared. -/
theorem State.cleared_contents (t : Nat) :
    let u := (((s.setTile t {}).dropCores t).lose (.cleared (tileBase t) 0x4000000)).freshCounters t
    u.tile t = {} ∧ (∀ i, i < 256 → u.ctr (256 * t + i) = {}) ∧ (∀ c, c < 8 → u.core t c = {}) ∧
      ∀ a, tileBase t ≤ a → a < tileBase t + 0x4000000 → u.readByte a = freshByte a := by
  intro u
  refine ⟨?_, fun i hi => ?_, fun c hc => ?_, fun a hlo hhi => ?_⟩
  · rw [State.tile, State.freshCounters_tiles, State.lose_tiles, State.dropCores_tiles, ← State.tile, State.tile_setTile, if_pos rfl]
  · have hk : (256 * t + i) / 256 = t := by omega
    exact (smGet_filter_key _ (fun k => k / 256 != t) _ _).trans (by simp [hk])
  · have hk : (8 * t + c) / 8 = t := by omega
    exact (smGet_filter_key _ (fun k => k / 8 != t) _ _).trans (by simp [hk])
  · have hc : (LossKind.cleared (tileBase t) 0x4000000).covers a = true := decide_eq_true ⟨hlo, hhi⟩
    exact (Memory.read_lose _ _ _ _).trans (if_pos hc)

/-- What is left of a tile switched off. -/
theorem State.tileOff_eq (t : Nat) :
    ∃ u, s.tileOff t = (((State.setTile u t {}).dropCores t).lose (.cleared (tileBase t) 0x4000000)).freshCounters t := ⟨_, rfl⟩

theorem State.tileOff_contents (t : Nat) :
    (s.tileOff t).tile t = {} ∧ (∀ i, i < 256 → (s.tileOff t).ctr (256 * t + i) = {}) ∧ (∀ c, c < 8 → (s.tileOff t).core t c = {}) ∧
      ∀ a, tileBase t ≤ a → a < tileBase t + 0x4000000 → (s.tileOff t).readByte a = freshByte a := by
  obtain ⟨u, hu⟩ := s.tileOff_eq t
  rw [hu]
  exact u.cleared_contents t

end Sys2Proof.Machine
end

section
/-!
PROOFS. Switch-ons, module states and the results of power commands: what they change.
-/

namespace Sys2Proof.Machine

variable {s : State}

theorem State.switchOff_tile {t : Nat} (ht : t < 64) (hon : s.domainOn t = true) : s.switchOff t = (s.tileOff t).setDomain t false := by
  simp [State.switchOff, hon, ht]

/-! ### Links and engines that a switch-on or a mode starts -/

theorem State.enqueue_frame (l : Nat) (fs : List Flit) : ∃ k, s.enqueue l fs = { s with links := k } := by
  unfold State.enqueue
  induction fs generalizing s with
  | nil => exact ⟨_, rfl⟩
  | cons f fs ih => exact ih

/-- A heartbeat changes its link alone. -/
theorem State.heartbeatSend_frame (l : Nat) : ∃ k, s.heartbeatSend l = { s with links := k } := by
  unfold State.heartbeatSend
  dsimp only
  split
  · exact ⟨_, rfl⟩
  · exact State.enqueue_frame l _

theorem State.setMode_frame (m : ModState) : ∃ k, s.setMode m = { s with links := k, rel := { s.rel with mode := m } } := by
  have hbeats : ∀ (ls : List Nat) (u : State), ∃ k, ls.foldl (fun s l => s.heartbeatSend l) u = { u with links := k } := by
    intro ls
    induction ls with
    | nil => exact fun u => ⟨_, rfl⟩
    | cons l ls ih =>
      intro u
      obtain ⟨k, hk⟩ := u.heartbeatSend_frame l
      rw [List.foldl_cons, hk]
      exact ih { u with links := k }
  unfold State.setMode
  split
  next h => exact ⟨_, by rw [← h]⟩
  · exact hbeats _ _

theorem State.showService_frame (e v : Nat) : ∃ c, s.showService e v = { s with ctl := c } := by
  unfold State.showService
  generalize linksOf e = ls
  induction ls generalizing s with
  | nil => exact ⟨_, rfl⟩
  | cons l ls ih => exact ih

theorem State.startEngines_frame (es : List Nat) : ∃ c g, s.startEngines es = { s with ctl := c, engines := g } := by
  unfold State.startEngines
  induction es generalizing s with
  | nil => exact ⟨_, _, rfl⟩
  | cons e es ih =>
    rw [List.foldl_cons]
    split
    · obtain ⟨c, hc⟩ := State.showService_frame (s := s.setEngine e { s.engine e with state := .laserWait, service := false }) e 0
      rw [State.engineStart, hc]
      exact ih
    · exact ih

/-! ### Switch-ons -/

theorem State.uncoreOn_frame : ∃ c b, s.uncoreOn = { s with ctxs := c, power := { s.power with gensKept := b } } := by
  unfold State.uncoreOn
  split
  · exact ⟨_, _, rfl⟩
  · exact ⟨_, _, rfl⟩

/-- Once its domain is on, a switch-on starts an engine or loads the contexts, and changes no domain. -/
theorem State.switchOn_eq (d : Nat) : (s.switchOn d).power.domains = (s.setDomain d true).power.domains ∧
    (s.switchOn d).power.switching = (s.setDomain d true).power.switching := by
  unfold State.switchOn
  split
  · exact ⟨rfl, rfl⟩
  · extract_lets s1
    split
    · obtain ⟨_, _, h⟩ := s1.uncoreOn_frame
      rw [h]
      exact ⟨rfl, rfl⟩
    · split
      · obtain ⟨_, _, h⟩ := s1.startEngines_frame [d - 96]
        rw [h]
        exact ⟨rfl, rfl⟩
      · exact ⟨rfl, rfl⟩

theorem State.domainOn_switchOn {d x : Nat} (hx : x < 112) : (s.switchOn d).domainOn x = if x = d then true else s.domainOn x := by
  rw [State.domainOn, (s.switchOn_eq d).1]
  exact s.domainOn_setDomain true hx

theorem State.switchingOn_switchOn_self (d : Nat) : (s.switchOn d).switchingOn d = false := by
  rw [State.switchingOn, (s.switchOn_eq d).2]
  exact s.switchingOn_setDomain_self d true

/-- A tile or a cask die that comes on is on, and nothing else happens. -/
theorem State.switchOn_of_lt {d : Nat} (h : d < 96) : s.switchOn d = s.setDomain d true := by
  unfold State.switchOn
  rw [if_neg (by omega : ¬ (104 ≤ d ∧ d < 108)), if_neg (by omega : ¬ (96 ≤ d ∧ d < 104 ∧ _)), ite_self]

/-! ### Results of commands -/

/-- A field is read from the words in force alone. -/
theorem State.get_of_ctl {t : State} (h : t.ctl = s.ctl) (f : Fld) (i j : Nat) : t.get f i j = s.get f i j := by
  rw [State.get, State.word, h, ← State.word, ← State.get]

theorem State.switchBegin_ctl (d : Nat) : (s.switchBegin d).ctl = s.ctl := by
  obtain ⟨w, hw⟩ := s.switchBegin_frame d
  rw [hw]

theorem State.pwrErr_frame (c part : Nat) : ∃ w, s.pwrErr c part = { s with ctl := w } := by
  obtain ⟨v, hv⟩ := s.set_frame .pwrErrCode 0 0 c
  obtain ⟨w, hw⟩ := (s.set .pwrErrCode 0 0 c).set_frame .pwrErrUnit 0 0 part
  exact ⟨w, by rw [State.pwrErr, hw, hv]⟩

theorem State.get_code_pwrErr (c part : Nat) : (s.pwrErr c part).get .pwrErrCode = c % 2 ^ 16 := by
  rw [State.pwrErr, State.get_set_apart _ .pwrErrUnit .pwrErrCode _ _ _ _ _ rfl (by decide) (by decide) (by decide) (by decide),
    State.get_set_self _ _ _ _ _ (by decide) (by decide)]
  rfl

theorem State.get_unit_pwrErr (c part : Nat) : (s.pwrErr c part).get .pwrErrUnit = part % 2 ^ 8 :=
  State.get_set_self _ _ _ _ _ (by decide) (by decide)

theorem State.get_pwrErr_ne (c part : Nat) {f : Fld} (h : f.addr 0 0 ≠ Fld.pwrErrCode.addr 0 0) : (s.pwrErr c part).get f = s.get f := by
  rw [State.pwrErr, State.get_set_ne _ .pwrErrUnit _ _ _ _ _ _ h, State.get_set_ne _ _ _ _ _ _ _ _ h]

theorem State.get_domainStatus (c : Nat) : (s.set .pwrDomainStatusCode 0 0 c).get .pwrDomainStatusCode = c % 2 ^ 16 :=
  State.get_set_self _ _ _ _ _ (by decide) (by decide)

theorem State.get_idleStatus (c : Nat) : (s.idleStatus c).get .pwrIdleStatusCode = c % 2 ^ 16 := by
  have h : (s.set .pwrIdleStatusCode 0 0 c).get .pwrIdleStatusCode = c % 2 ^ 16 := State.get_set_self _ _ _ _ _ (by decide) (by decide)
  unfold State.idleStatus
  split
  · exact h
  · rw [State.get_pwrErr_ne _ _ (by decide), h]

theorem State.idleStatus_frame (c : Nat) : ∃ w, s.idleStatus c = { s with ctl := w } := by
  obtain ⟨v, hv⟩ := s.set_frame .pwrIdleStatusCode 0 0 c
  unfold State.idleStatus
  rw [hv]
  split
  · exact ⟨v, rfl⟩
  · exact State.pwrErr_frame c 0xFF

end Sys2Proof.Machine
end

section
/-!
PROOFS. O54: domain commands, deep idle and the return from it.
-/

namespace Sys2Proof.Machine

variable {s : State}

/-! ### Domain commands (R371) -/

theorem State.domainOn_domainStatus (s : State) (c d : Nat) : (s.set .pwrDomainStatusCode 0 0 c).domainOn d = s.domainOn d := by
  rw [State.domainOn, State.set_power, State.domainOn]

/-- A refused command shows its code, and switches nothing. -/
theorem exec_pwrDomainCmd_refused {w : W64} {c : Nat} (hc : s.domainRefusal (fieldOf w 6 0) (fieldOf w 7 7 == 1) = c) (h0 : c ≠ 0)
    (hlt : c < 2 ^ 16) : ∃ u, exec (.pwrDomainCmd w) s = .next u ∧ u = { s with ctl := u.ctl } ∧ u.get .pwrDomainStatusCode = c ∧
      u.get .pwrErrCode = c ∧ u.get .pwrErrUnit = fieldOf w 6 0 := by
  have he : s.domainCmd w = (s.set .pwrDomainStatusCode 0 0 c).pwrErr c (fieldOf w 6 0) := by
    simp only [State.domainCmd, hc, if_pos h0]
  have hd : fieldOf w 6 0 < 2 ^ 7 := fieldOf_lt w 6 0
  refine ⟨_, congrArg Host.Outcome.next he, ?_, ?_, ?_, ?_⟩
  · obtain ⟨v, hv⟩ := s.set_frame .pwrDomainStatusCode 0 0 c
    obtain ⟨x, hx⟩ := State.pwrErr_frame (s := { s with ctl := v }) c (fieldOf w 6 0)
    rw [hv, hx]
  · rw [State.get_pwrErr_ne _ _ (by decide), State.get_domainStatus, Nat.mod_eq_of_lt hlt]
  · rw [State.get_code_pwrErr, Nat.mod_eq_of_lt hlt]
  · rw [State.get_unit_pwrErr, Nat.mod_eq_of_lt (by omega)]

theorem exec_pwrDomainCmd_on {w : W64} (h : fieldOf w 7 7 = 1) (hc : s.domainRefusal (fieldOf w 6 0) true = 0) :
    exec (.pwrDomainCmd w) s = .next ((s.set .pwrDomainStatusCode 0 0 0).switchBegin (fieldOf w 6 0)) := by
  refine congrArg Host.Outcome.next ?_
  simp [State.domainCmd, h, hc]

theorem exec_pwrDomainCmd_off {w : W64} (h : fieldOf w 7 7 = 0) (hc : s.domainRefusal (fieldOf w 6 0) false = 0) :
    exec (.pwrDomainCmd w) s = .next ((s.set .pwrDomainStatusCode 0 0 0).switchOff (fieldOf w 6 0)) := by
  refine congrArg Host.Outcome.next ?_
  simp [State.domainCmd, h, hc]

/-- A command ON passes its checks where the press uncore above the domain is on. -/
theorem State.domainRefusal_on {d : Nat} (h : d < 108) (hp : d < 104 → s.domainOn (domPress (pressOf d)) = true) :
    s.domainRefusal d true = 0 := by
  have hc : ¬ (d < 104 ∧ s.domainOn (domPress (pressOf d)) = false) := fun ⟨hd, hoff⟩ => by simp [hp hd] at hoff
  simp [State.domainRefusal, hc, Nat.not_le.2 h]

/-- A command OFF passes its checks where a tile or cask die is quiesced, and the children of an uncore are off. -/
theorem State.domainRefusal_off {d : Nat} (h : d < 108) (hq : d < 96 → s.domainOn d = true → s.quiesced d = true)
    (hch : 104 ≤ d → ∀ x ∈ childrenOf (d - 104), s.domainOn x = false ∧ s.switchingOn x = false) : s.domainRefusal d false = 0 := by
  have hbusy : ¬ (d < 96 ∧ s.domainOn d = true ∧ s.quiesced d = false) := fun ⟨hd, hon, hno⟩ => by simp [hq hd hon] at hno
  have hany : ¬ (104 ≤ d ∧ ((childrenOf (d - 104)).any fun x => s.domainOn x || s.switchingOn x) = true) := by
    rintro ⟨hd, hx⟩
    obtain ⟨x, hx, hon⟩ := List.any_eq_true.1 hx
    obtain ⟨h1, h2⟩ := hch hd x hx
    simp [h1, h2] at hon
  simp only [State.domainRefusal, if_neg (Nat.not_le.2 h), Bool.false_eq_true, false_and, true_and, if_false, if_neg hany, if_neg hbusy]

/-- The first failing check refuses a domain command. -/
theorem domainCmd_refusals (s : State) (w : W64) :
    let d := fieldOf w 6 0
    let sw := fieldOf w 7 7
    let no := fun (c : Nat) => ∃ u, exec (.pwrDomainCmd w) s = .next u ∧ u = { s with ctl := u.ctl } ∧ u.get .pwrDomainStatusCode = c ∧
      u.get .pwrErrCode = c ∧ u.get .pwrErrUnit = d
    (108 ≤ d → no Code.pwrDomainFixed) ∧
    (d < 104 → sw = 1 → s.domainOn (domPress (pressOf d)) = false → no Code.pwrDomainOrder) ∧
    (104 ≤ d → d < 108 → sw = 0 → (∃ x ∈ childrenOf (d - 104), s.domainOn x = true ∨ s.switchingOn x = true) →
      no Code.pwrDomainOrder) ∧
    (d < 96 → sw = 0 → s.domainOn d = true → s.quiesced d = false → no Code.pwrDomainBusy) := by
  intro d sw no
  refine ⟨fun hd => ?_, fun hd hsw hp => ?_, fun hlo hhi hsw hx => ?_, fun hd hsw hon hq => ?_⟩
  · exact exec_pwrDomainCmd_refused (if_pos hd) (by decide) (by decide)
  · refine exec_pwrDomainCmd_refused ?_ (by decide) (by decide)
    rw [State.domainRefusal, if_neg (by omega), if_pos ⟨by simpa using hsw, hd, hp⟩]
  · refine exec_pwrDomainCmd_refused ?_ (by decide) (by decide)
    obtain ⟨x, hx, hon⟩ := hx
    have hoff : (fieldOf w 7 7 == 1) = false := by simp [show fieldOf w 7 7 = 0 from hsw]
    have hany : ((childrenOf (d - 104)).any fun x => s.domainOn x || s.switchingOn x) = true :=
      List.any_eq_true.2 ⟨x, hx, by simpa using hon⟩
    rw [State.domainRefusal, if_neg (by omega), if_neg (by simp [hoff]), if_pos ⟨hoff, hlo, hany⟩]
  · refine exec_pwrDomainCmd_refused ?_ (by decide) (by decide)
    have hoff : (fieldOf w 7 7 == 1) = false := by simp [show fieldOf w 7 7 = 0 from hsw]
    rw [State.domainRefusal, if_neg (by omega), if_neg (by simp [hoff]), if_neg fun h => by omega, if_pos ⟨hoff, hd, hon, hq⟩]

/-- A domain switched off, alone; a tile leaves nothing behind. -/
theorem domainCmd_off (s : State) (w : W64) :
    let d := fieldOf w 6 0
    let sw := fieldOf w 7 7
    (d < 108 → sw = 0 → (d < 96 → s.domainOn d = true → s.quiesced d = true) →
      (104 ≤ d → ∀ x ∈ childrenOf (d - 104), s.domainOn x = false ∧ s.switchingOn x = false) →
      ∃ u, exec (.pwrDomainCmd w) s = .next u ∧ u.domainOn d = false ∧ u.switchingOn d = false ∧
        ∀ x, x < 112 → x ≠ d → u.domainOn x = s.domainOn x) ∧
    (d < 64 → sw = 0 → s.domainOn d = true → s.quiesced d = true → ∃ u, exec (.pwrDomainCmd w) s = .next u ∧ u.domainOn d = false ∧
      (∀ x, x < 112 → x ≠ d → u.domainOn x = s.domainOn x) ∧ u.tile d = {} ∧ (∀ i, i < 256 → u.ctr (256 * d + i) = {}) ∧
      (∀ c, c < 8 → u.core d c = {}) ∧ ∀ a, tileBase d ≤ a → a < tileBase d + 0x4000000 → u.readByte a = freshByte a) := by
  intro d sw
  have hexec := fun (hsw : sw = 0) (hc : s.domainRefusal d false = 0) => exec_pwrDomainCmd_off hsw hc
  have hdom := s.domainOn_domainStatus 0
  generalize s.set .pwrDomainStatusCode 0 0 0 = u at hexec hdom
  have hrest : ∀ x, x < 112 → x ≠ d → (u.switchOff d).domainOn x = s.domainOn x := fun x hx hne => by
    rw [State.domainOn_switchOff hx, if_neg hne, hdom]
  have hself : d < 112 → (u.switchOff d).domainOn d = false := fun hd => by
    rw [State.domainOn_switchOff hd, if_pos rfl]
  refine ⟨fun hd hsw hq hch => ?_, fun hd hsw hon hq => ?_⟩
  · exact ⟨_, hexec hsw (State.domainRefusal_off hd hq hch), hself (by omega), State.switchingOn_switchOff_self d, hrest⟩
  · have hc : s.domainRefusal d false = 0 := State.domainRefusal_off (by omega) (fun _ _ => hq) fun h => by omega
    refine ⟨_, hexec hsw hc, hself (by omega), hrest, ?_⟩
    have hgone := u.tileOff_contents d
    rw [State.switchOff_tile hd ((hdom d).trans hon)]
    generalize u.tileOff d = x at hgone ⊢
    exact hgone

/-- ON begins the switch-on, and of a domain that is on changes CODE alone. -/
theorem domainCmd_on (s : State) (w : W64) :
    let d := fieldOf w 6 0
    let sw := fieldOf w 7 7
    (d < 108 → sw = 1 → (d < 104 → s.domainOn (domPress (pressOf d)) = true) → s.domainOn d = true →
      exec (.pwrDomainCmd w) s = .next (s.set .pwrDomainStatusCode 0 0 0)) ∧
    (d < 108 → sw = 1 → (d < 104 → s.domainOn (domPress (pressOf d)) = true) → s.domainOn d = false →
      ∃ u, exec (.pwrDomainCmd w) s = .next u ∧ u = { s with ctl := u.ctl, power := { s.power with switching := u.power.switching } } ∧
        u.switchingOn d = true ∧ u.get .pwrDomainStatusCode = 0) := by
  intro d sw
  have hexec := fun (hd : d < 108) (hsw : sw = 1) (hp : d < 104 → s.domainOn (domPress (pressOf d)) = true) =>
    exec_pwrDomainCmd_on hsw (State.domainRefusal_on hd hp)
  obtain ⟨v, hv⟩ := s.set_frame .pwrDomainStatusCode 0 0 0
  refine ⟨fun hd hsw hp hon => ?_, fun hd hsw hp hoff => ?_⟩
  · rw [hexec hd hsw hp, State.switchBegin_of_on ((s.domainOn_domainStatus 0 d).trans hon)]
  · have hoff' := (s.domainOn_domainStatus 0 d).trans hoff
    refine ⟨_, hexec hd hsw hp, ?_, ?_, ?_⟩
    · rw [State.switchBegin_of_off hoff', hv]
    · rw [State.switchingOn_switchBegin d hoff']
      simp
    · rw [State.get_of_ctl (State.switchBegin_ctl d), s.get_domainStatus 0, Nat.zero_mod]

/-! ### The end of a switch-on -/

theorem exec_domainSwitchDone_on {d : Nat} (hsw : s.switchingOn d = true) (hp : d < 104 → s.domainOn (domPress (pressOf d)) = true) :
    exec (.domainSwitchDone d) s = .next (s.switchOn d) := by
  refine congrArg Host.Outcome.next (if_pos ?_)
  by_cases h : d < 104
  · simp [hsw, hp h]
  · simp [hsw, Nat.not_lt.1 h]

theorem exec_domainSwitchDone_waits {d : Nat} (h : s.switchingOn d = false ∨ d < 104 ∧ s.domainOn (domPress (pressOf d)) = false) :
    exec (.domainSwitchDone d) s = .next s := by
  refine congrArg Host.Outcome.next (if_neg ?_)
  obtain hsw | ⟨hd, hp⟩ := h
  · simp [hsw]
  · simp [hp, Nat.not_le.2 hd]

/-! ### Deep idle (R393, R394) -/

theorem exec_idleDeep_answers (c : Nat) (hc : c < 2 ^ 16) (h : s.idleDeep = s.idleStatus c) :
    ∃ u, exec .idleDeep s = .next u ∧ u = { s with ctl := u.ctl } ∧ u.get .pwrIdleStatusCode = c := by
  refine ⟨_, congrArg Host.Outcome.next h, ?_, by rw [State.get_idleStatus, Nat.mod_eq_of_lt hc]⟩
  obtain ⟨w, hw⟩ := s.idleStatus_frame c
  rw [hw]

theorem idleDeep_quiet (hi : s.power.idle = 0) (hm : s.rel.mode = .ready) :
    s.idleDeep = if !(List.range 96).all s.workless || s.buckets.any (fun b => b.opened) then s.idleStatus Code.pwrIdleNotQuiesced
      else { s.idleStatus 0 with power := { (s.idleStatus 0).power with idle := 1 } }.setMode .deepIdle := by
  rw [State.idleDeep, if_neg (by simp [hi, hm])]

/-- IDLE_DEEP is entered in READY with nothing at work. -/
theorem idleDeep_results (s : State) :
    (s.power.idle ≠ 0 ∨ s.rel.mode ≠ .ready →
      ∃ u, exec .idleDeep s = .next u ∧ u = { s with ctl := u.ctl } ∧ u.get .pwrIdleStatusCode = Code.pwrIdleState) ∧
    (s.power.idle = 0 → s.rel.mode = .ready → (∃ d, d < 96 ∧ s.workless d = false) ∨ (∃ b ∈ s.buckets, b.opened = true) →
      ∃ u, exec .idleDeep s = .next u ∧ u = { s with ctl := u.ctl } ∧ u.get .pwrIdleStatusCode = Code.pwrIdleNotQuiesced) ∧
    (s.power.idle = 0 → s.rel.mode = .ready → (∀ d, d < 96 → s.workless d = true) → (∀ b ∈ s.buckets, b.opened = false) →
      ∃ u, exec .idleDeep s = .next u ∧
        u = { s with ctl := u.ctl, links := u.links, power := { s.power with idle := 1 }, rel := { s.rel with mode := .deepIdle } } ∧
        u.get .pwrIdleStatusCode = 0) := by
  refine ⟨fun h => ?_, fun hi hm hwork => ?_, fun hi hm hwork hb => ?_⟩
  · exact exec_idleDeep_answers _ (by decide) (if_pos h)
  · refine exec_idleDeep_answers _ (by decide) ((idleDeep_quiet hi hm).trans (if_pos ?_))
    rw [Bool.or_eq_true]
    obtain ⟨d, hd, hw⟩ | ⟨b, hb, ho⟩ := hwork
    · left
      simpa using ⟨d, hd, hw⟩
    · exact .inr (List.any_eq_true.2 ⟨b, hb, ho⟩)
  · have hquiet : (!(List.range 96).all s.workless || s.buckets.any fun b => b.opened) = false := by
      rw [Bool.or_eq_false_iff]
      exact ⟨by simpa using hwork, by simpa using hb⟩
    have he := (idleDeep_quiet hi hm).trans (if_neg (by simp [hquiet]))
    obtain ⟨w, hw⟩ := s.idleStatus_frame 0
    have hcode := s.get_idleStatus 0
    obtain ⟨k, hk⟩ := State.setMode_frame (s := { s with ctl := w, power := { s.power with idle := 1 } }) .deepIdle
    rw [hw] at he hcode
    exact ⟨_, congrArg Host.Outcome.next (he.trans hk), rfl, hcode⟩

/-- DEEP_IDLE_ENTRY waits for the ballast, then darkens every link and switches off every tile, die and engine. -/
theorem deepIdleEntry_results (s : State) :
    (s.power.idle ≠ 1 → exec .deepIdleEntry s = .next s) ∧
    (s.power.idle = 1 → s.power.rampOn = true → s.get .pwrBallastFloorW ≠ 0 → exec .deepIdleEntry s = .next s) ∧
    (s.power.idle = 1 → s.power.rampOn = false ∨ s.get .pwrBallastFloorW = 0 → ∃ u, exec .deepIdleEntry s = .next u ∧ u.power.idle = 2 ∧
      (∀ d, d < 104 → u.domainOn d = false) ∧ (∀ d, 104 ≤ d → d < 112 → u.domainOn d = s.domainOn d) ∧
      ∀ l, l < 96 → (u.link l).state = .off) := by
  refine ⟨fun h => congrArg _ (if_pos (.inl h)), fun _ hr hf => congrArg _ (if_pos (.inr ⟨hr, hf⟩)), fun hi hr => ?_⟩
  have hc : ¬ (s.power.idle ≠ 1 ∨ s.power.rampOn = true ∧ s.get .pwrBallastFloorW ≠ 0) := by
    rintro (h | ⟨h1, h2⟩)
    · exact h hi
    · obtain h | h := hr
      · simp [h] at h1
      · exact h2 h
  have hdark : Dark s (s.darken (List.range 96) 1) := .darken (.refl s)
  have hoffs := fun {d : Nat} (hd : d < 112) => State.domainOn_switchOffs (s := s.darken (List.range 96) 1) (List.range 104) hd
  refine ⟨_, congrArg Host.Outcome.next (if_neg hc), rfl, fun d hd => ?_, fun d hlo hhi => ?_, fun l hl => ?_⟩
  · exact (hoffs (by omega)).trans (by simp [hd])
  · refine (hoffs hhi).trans ?_
    rw [hdark.domainOn]
    simp [Nat.not_lt.2 hlo]
  · exact State.link_off_switchOffs (List.range 104) (State.link_off_darken 1 (List.mem_range.2 hl))

/-- The planned domains switched on, one after another. -/
def switchPlanned (s : State) (d : Nat) : State := if s.plannedOn.testBit d then s.switchBegin d else s

theorem switchPlanned_frame (ds : List Nat) : ∃ w, ds.foldl switchPlanned s = { s with power := { s.power with switching := w } } := by
  induction ds generalizing s with
  | nil => exact ⟨_, rfl⟩
  | cons d ds ih =>
    rw [List.foldl_cons, switchPlanned]
    split
    · obtain ⟨w, hw⟩ := s.switchBegin_frame d
      rw [hw]
      exact ih
    · exact ih

/-- Once under way, a switch-on stays so, and that of a planned domain that is off begins. -/
theorem switchingOn_switchPlanned (ds : List Nat) {x : Nat} (hoff : s.domainOn x = false)
    (h : s.switchingOn x = true ∨ x ∈ ds ∧ s.plannedOn.testBit x = true) : (ds.foldl switchPlanned s).switchingOn x = true := by
  induction ds generalizing s with
  | nil => simpa using h
  | cons d ds ih =>
    obtain ⟨w, hw⟩ := switchPlanned_frame (s := s) [d]
    rw [List.foldl_cons, List.foldl_nil] at hw
    have hon : (switchPlanned s d).domainOn x = false := by
      rw [hw]
      exact hoff
    have hplan : (switchPlanned s d).plannedOn = s.plannedOn := by
      rw [hw]
      rfl
    refine ih hon ?_
    rw [hplan, switchPlanned]
    obtain h | ⟨hx, hp⟩ := h
    · left
      split
      · cases hd : s.domainOn d with
        | true => rwa [State.switchBegin_of_on hd]
        | false => rw [State.switchingOn_switchBegin x hd, h, Bool.or_true]
      · exact h
    · obtain rfl | hx := List.mem_cons.1 hx
      · left
        rw [if_pos hp, State.switchingOn_switchBegin x hoff]
        simp
      · exact .inr ⟨hx, hp⟩

/-- RESUME begins to switch on the blend's domains. -/
theorem idleResume_results (s : State) :
    (s.power.idle ≠ 2 → ∃ u, exec .idleResume s = .next u ∧ u = { s with ctl := u.ctl } ∧ u.get .pwrIdleStatusCode = Code.pwrIdleState) ∧
    (s.power.idle = 2 → ∃ u, exec .idleResume s = .next u ∧
      u = { s with ctl := u.ctl, power := { s.power with idle := 3, switching := u.power.switching } } ∧
      ∀ d, d < 104 → s.domainOn d = false → s.plannedOn.testBit d = true → u.switchingOn d = true) := by
  refine ⟨fun hi => ?_, fun hi => ?_⟩
  · refine ⟨_, congrArg Host.Outcome.next (if_pos hi), ?_, s.get_idleStatus _⟩
    obtain ⟨w, hw⟩ := s.idleStatus_frame Code.pwrIdleState
    rw [hw]
  · have he : s.idleResume =
        (List.range 104).foldl switchPlanned { s.idleStatus 0 with power := { (s.idleStatus 0).power with idle := 3 } } := if_neg (by simp [hi])
    obtain ⟨v, hv⟩ := s.idleStatus_frame 0
    rw [hv] at he
    obtain ⟨w, hw⟩ := switchPlanned_frame (s := { s with ctl := v, power := { s.power with idle := 3 } }) (List.range 104)
    refine ⟨_, congrArg Host.Outcome.next he, by rw [hw], fun d hd hoff hp => ?_⟩
    exact switchingOn_switchPlanned _ hoff (.inr ⟨List.mem_range.2 hd, hp⟩)

/-- The module is READY again. -/
theorem resumeDone_results (s : State) :
    (s.power.idle ≠ 3 → exec .resumeDone s = .next s) ∧
    (s.power.idle = 3 → ∃ u, exec .resumeDone s = .next u ∧
      u = { s with ctl := u.ctl, links := u.links, engines := u.engines, power := { s.power with idle := 0 },
                   rel := { s.rel with mode := .ready } }) := by
  refine ⟨fun hi => congrArg _ (if_pos hi), fun hi => ?_⟩
  obtain ⟨k, hk⟩ := State.setMode_frame (s := { s with power := { s.power with idle := 0 } }) .ready
  obtain ⟨c, g, hg⟩ := State.startEngines_frame (s := { s with power := { s.power with idle := 0 } }.setMode .ready) (List.range 8)
  refine ⟨_, congrArg Host.Outcome.next (if_neg (by simp [hi])), ?_⟩
  rw [hg, hk]

end Sys2Proof.Machine
end

section
open Sys2Proof Sys2Proof.Machine

/-- Settles O54, clause by clause: the refusals and results of the commands, each from what it does to domains, links and registers. -/
theorem domainsAndDeepIdle : Obligations.DomainsAndDeepIdle := by
  refine ⟨fun s w => ?_, fun s d hlo hhi hsw hp => ?_, fun s d hd hp => ?_, fun s d hd => ⟨fun hsw hp hoff => ?_, fun hsw => ?_⟩, fun s => ?_⟩
  · obtain ⟨hfixed, hup, hdown, hbusy⟩ := domainCmd_refusals s w
    obtain ⟨hoff, htile⟩ := domainCmd_off s w
    obtain ⟨hon, hbegin⟩ := domainCmd_on s w
    exact ⟨hfixed, hup, hdown, hbusy, hon, hoff, hbegin, htile⟩
  · refine ⟨_, exec_domainSwitchDone_on hsw hp, ?_, State.switchingOn_switchOn_self d, fun x hx hne => ?_⟩
    · rw [State.domainOn_switchOn (by omega), if_pos rfl]
    · rw [State.domainOn_switchOn hx, if_neg hne]
  · exact exec_domainSwitchDone_waits (.inr ⟨hd, hp⟩)
  · refine ⟨_, exec_domainSwitchDone_on hsw fun _ => hp, ?_, ?_, State.switchingOn_switchOn_self d, fun x hx hne => ?_⟩
    · rw [State.switchOn_of_lt hd]
      rfl
    · rw [State.domainOn_switchOn (by omega), if_pos rfl]
    · rw [State.domainOn_switchOn hx, if_neg hne]
  · exact exec_domainSwitchDone_waits (.inl hsw)
  · obtain ⟨hstate, hwork, hquiet⟩ := idleDeep_results s
    obtain ⟨hnot, hramp, henter⟩ := deepIdleEntry_results s
    obtain ⟨hno, hresume⟩ := idleResume_results s
    obtain ⟨hwait, hready⟩ := resumeDone_results s
    exact ⟨hstate, hwork, hquiet, hnot, hramp, henter, hno, hresume, hwait, hready⟩
end

section
/-!
PROOFS. O8: what the passes of a die and a failed run's alarm leave of its calibration. A lemma `SameRun.f` for each operation `f` that
settles a die's passes.
-/

namespace Sys2Proof.Machine

@[simp] theorem State.die_set (s : State) (f : Fld) (i j v k : Nat) : (s.set f i j v).die k = s.die k := by
  rw [State.die, State.set_dies, State.die]

/-- The fields of CAL_STATUS that tell of runs. -/
def runFields : List Fld := [Fld.calStatusConsec, Fld.calStatusPending, Fld.calStatusState]

theorem runField_addr {f : Fld} (hf : f ∈ runFields) (d : Nat) : f.addr d 0 = Fld.calStatusState.addr d 0 := by
  simp only [runFields, List.mem_cons, List.not_mem_nil, or_false] at hf
  obtain rfl | rfl | rfl := hf <;> rfl

/-- The place of a register within its block. -/
theorem Fld.addr_mod (f : Fld) (i : Nat) : f.addr i 0 % 0x1000 = (f.base + f.off) % 0x1000 := by
  unfold Fld.addr
  omega

theorem calStatus_addr_mod (d : Nat) : Fld.calStatusState.addr d 0 % 0x1000 = 0x10 := by
  rw [Fld.addr_mod]
  rfl

/-- A field of another word of a block is no field of CAL_STATUS. -/
theorem runField_addr_ne {f : Fld} (hf : f ∈ runFields) (d : Nat) {a : Nat} (ha : a % 0x1000 ≠ 0x10) : f.addr d 0 ≠ a := fun h => by
  rw [← h, runField_addr hf, calStatus_addr_mod] at ha
  exact ha rfl

/-- The runs of die `d` stand in `t` as in `s`. -/
structure SameRun (d : Nat) (s t : State) : Prop where
  journal : t.journal = s.journal
  run : (t.die d).run = (s.die d).run
  failed : (t.die d).failed = (s.die d).failed
  ready : (t.die d).ready = (s.die d).ready
  temp : (t.die d).temp = (s.die d).temp
  status : ∀ f ∈ runFields, t.get f d = s.get f d

section
variable {d : Nat} {s₀ s t : State}

theorem SameRun.refl (d : Nat) (s : State) : SameRun d s s := ⟨rfl, rfl, rfl, rfl, rfl, fun _ _ => rfl⟩

theorem SameRun.trans (hs : SameRun d s₀ s) (ht : SameRun d s t) : SameRun d s₀ t :=
  ⟨ht.journal.trans hs.journal, ht.run.trans hs.run, ht.failed.trans hs.failed, ht.ready.trans hs.ready, ht.temp.trans hs.temp,
    fun f hf => (ht.status f hf).trans (hs.status f hf)⟩

/-- An update of neither the dies, the registers nor the journal. -/
theorem SameRun.upd (hs : SameRun d s₀ s) (hd : t.dies = s.dies) (hc : t.ctl = s.ctl) (hj : t.journal = s.journal) : SameRun d s₀ t := by
  have hdie : t.die d = s.die d := by rw [State.die, hd, State.die]
  have hget : ∀ f, t.get f d = s.get f d := fun f => by rw [State.get, State.word, hc, State.get, State.word]
  exact hs.trans ⟨hj, by rw [hdie], by rw [hdie], by rw [hdie], by rw [hdie], fun f _ => hget f⟩

theorem SameRun.setWord {a v} (hs : SameRun d s₀ s) (ha : a % 0x1000 ≠ 0x10) : SameRun d s₀ (s.setWord a v) := by
  refine hs.trans ⟨rfl, rfl, rfl, rfl, rfl, fun f hf => ?_⟩
  rw [State.get, State.word_setWord, if_neg (runField_addr_ne hf d ha), State.get]

theorem SameRun.set {f i j v} (hs : SameRun d s₀ s) (ha : f.addr i j % 0x1000 ≠ 0x10) : SameRun d s₀ (s.set f i j v) := hs.setWord ha
theorem SameRun.bump {f i j n} (hs : SameRun d s₀ s) (ha : f.addr i j % 0x1000 ≠ 0x10) : SameRun d s₀ (s.bump f i j n) := hs.setWord ha

/-- A die replaced by one with the same run. -/
theorem SameRun.setDie {k x} (hs : SameRun d s₀ s) (hrun : x.run = (s.die k).run) (hfailed : x.failed = (s.die k).failed)
    (hready : x.ready = (s.die k).ready) (htemp : x.temp = (s.die k).temp) : SameRun d s₀ (s.setDie k x) := by
  have hdie : ((s.setDie k x).die d).run = (s.die d).run ∧ ((s.setDie k x).die d).failed = (s.die d).failed ∧
      ((s.setDie k x).die d).ready = (s.die d).ready ∧ ((s.setDie k x).die d).temp = (s.die d).temp := by
    rw [State.die_setDie]
    split
    next h => exact h ▸ ⟨hrun, hfailed, hready, htemp⟩
    · exact ⟨rfl, rfl, rfl, rfl⟩
  obtain ⟨h1, h2, h3, h4⟩ := hdie
  exact hs.trans ⟨rfl, h1, h2, h3, h4, fun _ _ => rfl⟩

theorem SameRun.ite {a b : State} {c : Prop} [Decidable c] (ha : SameRun d s₀ a) (hb : SameRun d s₀ b) : SameRun d s₀ (if c then a else b) := by
  split <;> assumption

theorem SameRun.foldl {α : Type} {f : State → α → State} {xs : List α} (hs : SameRun d s₀ s)
    (k : ∀ u x, SameRun d s₀ u → SameRun d s₀ (f u x)) : SameRun d s₀ (xs.foldl f s) := by
  induction xs generalizing s with
  | nil => exact hs
  | cons x xs ih => exact ih (k _ _ hs)

theorem SameRun.modOp {t slot f} (hs : SameRun d s₀ s) : SameRun d s₀ (s.modOp t slot f) := by
  obtain ⟨_, h⟩ := s.modOp_frame t slot f
  rw [h]
  exact hs.upd rfl rfl rfl

theorem SameRun.alarm {code unit a} (hs : SameRun d s₀ s) : SameRun d s₀ (s.alarm code unit a) := by
  unfold State.alarm
  obtain ⟨_, _, _, h⟩ := s.logCode_frame code unit { a with flags := a.flags / 2 * 2 + 1 }
  rw [h]
  exact hs.upd rfl rfl rfl

/-! ### The passes of a die settled -/

theorem SameRun.putPass {p} (hs : SameRun d s₀ s) : SameRun d s₀ (s.putPass p) := hs.setDie rfl rfl rfl rfl
theorem SameRun.dropPass {p} (hs : SameRun d s₀ s) : SameRun d s₀ (s.dropPass p) := hs.setDie rfl rfl rfl rfl
theorem SameRun.failPass {p code detail} (hs : SameRun d s₀ s) : SameRun d s₀ (s.failPass p code detail) := hs.dropPass.modOp
theorem SameRun.passInfo {p info} (hs : SameRun d s₀ s) : SameRun d s₀ (s.passInfo p info) := hs.modOp

theorem SameRun.passFlags {p fl} (hs : SameRun d s₀ s) : SameRun d s₀ (s.passFlags p fl) := by
  have ha : Fld.tileNumFlagsFlushed.addr p.tile 0 % 0x1000 ≠ 0x10 := by rw [Fld.addr_mod]; decide
  have hr : SameRun d s₀ (s.raiseFlags p.tile (fl % 2)) := hs.setWord ha
  exact hr.modOp

theorem SameRun.noteMemErr {code a} (hs : SameRun d s₀ s) : SameRun d s₀ (s.noteMemErr code a) := by
  unfold State.noteMemErr
  split
  · exact hs
  next x l _ =>
    have hx : x % 5 < 5 := Nat.mod_lt _ (by decide)
    have hue : Fld.xferMemUe.addr (x / 5) (x % 5) % 0x1000 ≠ 0x10 := by
      simp only [Fld.addr, Fld.xferMemUe]
      omega
    have hcode : Fld.xferMemErrCode.addr (x / 5) 0 % 0x1000 ≠ 0x10 := by rw [Fld.addr_mod]; decide
    have hstack : Fld.xferMemErrStack.addr (x / 5) 0 % 0x1000 ≠ 0x10 := by rw [Fld.addr_mod]; decide
    have hlocal : Fld.xferMemErrLocal.addr (x / 5) 0 % 0x1000 ≠ 0x10 := by rw [Fld.addr_mod]; decide
    exact (((hs.bump hue).set hcode).set hstack).set hlocal

theorem SameRun.noteErr {e} (hs : SameRun d s₀ s) : SameRun d s₀ (s.noteErr e) := by
  cases e with
  | unmapped => exact hs
  | ue => exact hs.noteMemErr
  | scratchUe t => exact hs.bump (by rw [Fld.addr_mod]; decide)
  | accumUe t => exact hs.bump (by rw [Fld.addr_mod]; decide)

theorem SameRun.fallbackDrain {p a} (hs : SameRun d s₀ s) : SameRun d s₀ (s.fallbackDrain p a) :=
  .ite hs.putPass hs.passFlags.putPass

/-- The number of bytes stays a variable: with the number itself the kernel would list them to compare two states. -/
theorem SameRun.fallbackPass {p ue} (hs : SameRun d s₀ s) : SameRun d s₀ (s.fallbackPass p ue) := by
  unfold State.fallbackPass
  obtain ⟨n, hn⟩ : ∃ n, n = 0x100000 := ⟨_, rfl⟩
  rw [← hn]
  split
  · exact hs.failPass
  · split
    · exact hs.noteErr.dropPass.modOp
    · exact hs.fallbackDrain

theorem SameRun.settlePass {p ue} (hs : SameRun d s₀ s) : SameRun d s₀ (s.settlePass p ue) := by
  have hfall : Fld.caskRewriteFallbacks.addr p.die 0 % 0x1000 ≠ 0x10 := by rw [Fld.addr_mod]; decide
  have hwait : Fld.caskRewriteWaits.addr p.die 0 % 0x1000 ≠ 0x10 := by rw [Fld.addr_mod]; decide
  have hback : SameRun d s₀ (((s.bump .caskRewriteFallbacks p.die).passInfo p 8).fallbackPass { p with how := 8 } ue) :=
    (hs.bump hfall).passInfo.fallbackPass
  unfold State.settlePass
  split
  · exact hs.failPass
  · exact .ite hs <| .ite hs.fallbackPass <| .ite hs.putPass <| .ite hs.fallbackPass <|
      .ite (.ite hback <| .ite hs (hs.bump hwait).putPass) hs

theorem SameRun.settleDie {k ue} (hs : SameRun d s₀ s) : SameRun d s₀ (s.settleDie k ue) :=
  .foldl hs fun _ _ h => h.settlePass

/-! ### Converters retired -/

theorem Die.replaceUnit_frame (x : Die) (m : Nat) (col : Bool) (u : Nat) : ∃ ms, x.replaceUnit m col u = { x with macs := ms } := by
  unfold Die.replaceUnit
  dsimp only
  split
  · exact ⟨_, rfl⟩
  · exact ⟨_, rfl⟩

theorem SameRun.setCode {v} (hs : SameRun d s₀ s) : SameRun d s₀ (s.set .calStatusCode d 0 v) := by
  have hd : (s.set .calStatusCode d 0 v).die d = s.die d := s.die_set _ _ _ _ _
  refine hs.trans ⟨s.set_journal _ _ _ _, by rw [hd], by rw [hd], by rw [hd], by rw [hd], fun f hf => ?_⟩
  simp only [runFields, List.mem_cons, List.not_mem_nil, or_false] at hf
  obtain rfl | rfl | rfl := hf <;> exact State.get_set_apart _ _ _ _ _ _ _ _ rfl (by decide) (by decide) (by decide) (by decide)

theorem SameRun.retireConverter {u} (hs : SameRun d s₀ s) : SameRun d s₀ (s.retireConverter d u) := by
  unfold State.retireConverter
  refine .ite hs (.setCode ?_)
  obtain ⟨ms, h⟩ := Die.replaceUnit_frame { s.die d with retired := (s.die d).retired ++ [u] } u.2.1 (u.1 == .colGain) u.2.2
  rw [h]
  exact hs.setDie rfl rfl rfl rfl

end

end Sys2Proof.Machine
end

section
/-!
PROOFS. O8: the start of a run, the values in force and the visits: what each changes.
-/

namespace Sys2Proof.Machine

variable {s : State} {d : Nat}

@[simp] theorem State.get_setDie (k : Nat) (x : Die) (f : Fld) (i j : Nat) : (s.setDie k x).get f i j = s.get f i j := rfl

/-! ### The start of a run (R131, R133) -/

/-- A die whose run begins. -/
def Die.begin (x : Die) : Die := { x with run := some { startTemp := x.temp }, lastTemp := x.temp }

theorem State.calStart_of_busy (h : (s.die d).run.isSome = true) : s.calStart d = s.set .calStatusPending d 0 1 := if_pos h

theorem State.calStart_of_idle (h : (s.die d).run = none) : s.calStart d =
    ((s.setDie d (s.die d).begin).set .calTempLast d 0 (unsigned 16 (s.die d).temp)).set .calStatusState d 0 1 := if_neg (by simp [h])

/-- A start changes registers and dies alone. -/
theorem State.calStart_frame (s : State) (d : Nat) : ∃ c k, s.calStart d = { s with ctl := c, dies := k } := by
  cases hrun : (s.die d).run with
  | some r =>
    obtain ⟨c, hc⟩ := s.set_frame .calStatusPending d 0 1
    exact ⟨c, s.dies, by rw [State.calStart_of_busy (by simp [hrun]), hc]⟩
  | none =>
    obtain ⟨c, hc⟩ := (s.setDie d (s.die d).begin).set_frame .calTempLast d 0 (unsigned 16 (s.die d).temp)
    obtain ⟨c', hc'⟩ := State.set_frame { s.setDie d (s.die d).begin with ctl := c } .calStatusState d 0 1
    rw [State.calStart_of_idle hrun, hc, hc']
    exact ⟨c', _, rfl⟩

theorem State.die_calStart_of_idle (h : (s.die d).run = none) : (s.calStart d).die d = (s.die d).begin := by
  rw [State.calStart_of_idle h]
  simp

theorem State.get_state_calStart (h : (s.die d).run = none) : (s.calStart d).get .calStatusState d = 1 := by
  rw [State.calStart_of_idle h]
  exact State.get_set_self _ _ _ _ _ (by decide) (by decide)

theorem State.get_pending_calStart (h : (s.die d).run.isSome = true) : (s.calStart d).get .calStatusPending d = 1 := by
  rw [State.calStart_of_busy h]
  exact State.get_set_self _ _ _ _ _ (by decide) (by decide)

theorem State.get_consec_calStart (h : (s.die d).run = none) : (s.calStart d).get .calStatusConsec d = s.get .calStatusConsec d := by
  have hlast : Fld.calStatusConsec.addr d 0 ≠ Fld.calTempLast.addr d 0 := by
    simp only [Fld.addr, Fld.calStatusConsec, Fld.calTempLast]
    omega
  rw [State.calStart_of_idle h, State.get_set_apart _ .calStatusState .calStatusConsec _ _ _ _ _ rfl (by decide) (by decide) (by decide)
    (by decide), State.get_set_ne _ _ _ _ _ _ _ _ hlast, State.get_setDie]

/-- A start leaves a run in progress. -/
theorem State.run_calStart (s : State) (d : Nat) : ((s.calStart d).die d).run.isSome = true := by
  cases hrun : (s.die d).run with
  | some r => rw [State.calStart_of_busy (by simp [hrun]), State.die_set, hrun, Option.isSome_some]
  | none => rw [State.die_calStart_of_idle hrun, Die.begin, Option.isSome_some]

/-- What a start leaves of a die, whether a run is in progress or not. -/
theorem State.die_calStart_frame (s : State) (d : Nat) : ∃ r t, (s.calStart d).die d = { s.die d with run := r, lastTemp := t } := by
  cases hrun : (s.die d).run with
  | some r => exact ⟨(s.die d).run, (s.die d).lastTemp, by rw [State.calStart_of_busy (by simp [hrun]), State.die_set]⟩
  | none => exact ⟨_, _, State.die_calStart_of_idle hrun⟩

/-! ### Values in force (R33, R136) -/

theorem smGet_of_unlisted {α : Type} (f : Nat → α) {m : SMap α} {k : Nat} (h : k ∉ m.map Prod.fst) : smGet f m k = f k := by
  induction m with
  | nil => rfl
  | cons e m ih =>
    rw [List.map_cons, List.mem_cons, not_or] at h
    simp [smGet, h.1, ih h.2]

theorem Die.mac_setMac (x : Die) (m n : Nat) (y : Mac) : (x.setMac m y).mac n = if n = m then y else x.mac n := smGet_smPut _ _ _ _ _

/-- The values of a list put in force on one of the die's arrays. -/
def takeMac (vs : List CalValue) (x : Die) (m : Nat) : Die := x.setMac m { x.mac m with vals := vs.filter fun v => v.mac == m }

theorem takeMacs_frame (vs : List CalValue) (ms : List Nat) (x : Die) : ∃ k, ms.foldl (takeMac vs) x = { x with macs := k } := by
  induction ms generalizing x with
  | nil => exact ⟨_, rfl⟩
  | cons m ms ih => exact ih (takeMac vs x m)

theorem vals_takeMacs (vs : List CalValue) (ms : List Nat) (x : Die) (m : Nat) :
    ((ms.foldl (takeMac vs) x).mac m).vals = if m ∈ ms then vs.filter fun v => v.mac == m else (x.mac m).vals := by
  induction ms generalizing x with
  | nil => rfl
  | cons n ms ih =>
    rw [List.foldl_cons, ih, takeMac, Die.mac_setMac]
    by_cases hn : m = n
    · subst hn
      simp
    · simp [hn]

theorem Die.takeAll_frame (x : Die) (vs : List CalValue) : ∃ k, x.takeAll vs = { x with macs := k } := takeMacs_frame vs _ x

/-- Each array then holds its values of the list, and one that the list does not name none. -/
theorem Die.vals_takeAll (x : Die) (vs : List CalValue) (m : Nat) : ((x.takeAll vs).mac m).vals = vs.filter fun v => v.mac == m := by
  refine (vals_takeMacs vs _ x m).trans ?_
  split
  · rfl
  next hm =>
    rw [List.mem_eraseDups, List.mem_append, not_or] at hm
    obtain ⟨hvs, hx⟩ := hm
    have hnone : (vs.filter fun v => v.mac == m) = [] := List.filter_eq_nil_iff.2 fun v hv => by
      simpa using fun h : v.mac = m => hvs (h ▸ List.mem_map_of_mem hv)
    rw [hnone, Die.mac, smGet_of_unlisted _ hx]

/-! ### Visits (R133 to R135) -/

theorem visitsEnd_frame (first : Nat) (is : List Nat) (x : Die) :
    ∃ k, is.foldl (fun (x : Die) i => x.visitEnds (first + i)) x = { x with macs := k } := by
  induction is generalizing x with
  | nil => exact ⟨_, rfl⟩
  | cons i is ih => exact ih (x.visitEnds (first + i))

/-- An array whose visit has ended is in no reference phase. -/
theorem refPhase_visitsEnd (first : Nat) (is : List Nat) (x : Die) {m : Nat} (h : (x.mac m).refPhase = false ∨ ∃ i ∈ is, m = first + i) :
    ((is.foldl (fun (x : Die) i => x.visitEnds (first + i)) x).mac m).refPhase = false := by
  induction is generalizing x with
  | nil => simpa using h
  | cons i is ih =>
    refine ih (x.visitEnds (first + i)) ?_
    rw [Die.visitEnds, Die.mac_setMac]
    split
    · exact .inl rfl
    next hm =>
      obtain h | ⟨j, hj, rfl⟩ := h
      · exact .inl h
      · obtain rfl | hj := List.mem_cons.1 hj
        · exact absurd rfl hm
        · exact .inr ⟨j, hj, rfl⟩

end Sys2Proof.Machine
end

section
/-!
PROOFS. O8: the fate of a run (R136 to R139).
-/

namespace Sys2Proof.Machine

variable {s u : State} {d : Nat}

/-! ### CAL_STATUS at the end of a run -/

/-- STATE and CONSEC written, PENDING as before. -/
theorem State.get_runStatus (s : State) (d st n : Nat) :
    let u := (s.set .calStatusState d 0 st).set .calStatusConsec d 0 n
    u.get .calStatusState d = st % 2 ^ 2 ∧ u.get .calStatusConsec d = n % 2 ^ 8 ∧ u.get .calStatusPending d = s.get .calStatusPending d := by
  refine ⟨?_, State.get_set_self _ _ _ _ _ (by decide) (by decide), ?_⟩
  · rw [State.get_set_apart _ .calStatusConsec .calStatusState _ _ _ _ _ rfl (by decide) (by decide) (by decide) (by decide),
      State.get_set_self _ _ _ _ _ (by decide) (by decide)]
    rfl
  · rw [State.get_set_apart _ .calStatusConsec .calStatusPending _ _ _ _ _ rfl (by decide) (by decide) (by decide) (by decide),
      State.get_set_apart _ .calStatusState .calStatusPending _ _ _ _ _ rfl (by decide) (by decide) (by decide) (by decide)]

/-- A run that failed: the die's flags, CAL_STATUS and the journal after it. -/
theorem State.calFail_results (s : State) (d : Nat) (bad : List (CalKind × Nat × Nat)) :
    (s.calFail d bad).journal = s.journal ∧ ((s.calFail d bad).die d).run = none ∧ ((s.calFail d bad).die d).failed = true ∧
      ((s.calFail d bad).die d).ready = (s.die d).ready ∧ ((s.calFail d bad).die d).temp = (s.die d).temp ∧
      (s.calFail d bad).get .calStatusState d = 3 ∧ (s.calFail d bad).get .calStatusConsec d = min 255 (s.get .calStatusConsec d + 1) ∧
      (s.calFail d bad).get .calStatusPending d = s.get .calStatusPending d := by
  unfold State.calFail
  extract_lets x n twice s1 s2 s3
  obtain ⟨hstate, hconsec, hpending⟩ := s1.get_runStatus d 3 n
  have hfails : Fld.calFails.addr d 0 % 0x1000 ≠ 0x10 := by rw [Fld.addr_mod]; decide
  have h2 : SameRun d ((s1.set .calStatusState d 0 3).set .calStatusConsec d 0 n) s2 := (SameRun.refl d _).setCode.bump hfails
  have h3 : SameRun d ((s1.set .calStatusState d 0 3).set .calStatusConsec d 0 n) s3 := .ite h2.alarm h2
  have hend : SameRun d _ ((twice.foldl (fun s u => s.retireConverter d u) s3).settleDie d []) :=
    .settleDie (.foldl h3 fun _ _ h => h.retireConverter)
  have hdie : ((s1.set .calStatusState d 0 3).set .calStatusConsec d 0 n).die d =
      { x with run := none, failed := true, badUnits := bad, noSet := x.noSet || !x.ready } := by simp [s1]
  have hn : n % 2 ^ 8 = n := Nat.mod_eq_of_lt (by omega)
  refine ⟨hend.journal.trans ?_, hend.run.trans ?_, hend.failed.trans ?_, hend.ready.trans ?_, hend.temp.trans ?_, ?_, ?_, ?_⟩
  · rw [State.set_journal, State.set_journal, State.setDie_journal]
  · rw [hdie]
  · rw [hdie]
  · rw [hdie]
  · rw [hdie]
  · exact (hend.status .calStatusState (by simp [runFields])).trans hstate
  · exact (hend.status .calStatusConsec (by simp [runFields])).trans (hconsec.trans hn)
  · exact (hend.status .calStatusPending (by simp [runFields])).trans (hpending.trans (State.get_setDie _ _ _ _ _))

/-- A run that passed: its set stored, the die's flags and CAL_STATUS after it, and nothing else changed. -/
theorem State.calPass_results (s : State) (d : Nat) (t : Int) (set : Nat × List CalValue) :
    (∃ c k j, s.calPass d t set = { s with ctl := c, dies := k, journal := j }) ∧
      (s.calPass d t set).calSet d set.1 = some (calRecord set.2) ∧ (s.calPass d t set).storedTemp d = t ∧
      ((s.calPass d t set).die d).run = none ∧ ((s.calPass d t set).die d).failed = false ∧ ((s.calPass d t set).die d).ready = true ∧
      ((s.calPass d t set).die d).temp = (s.die d).temp ∧ (s.calPass d t set).get .calStatusState d = 2 ∧
      (s.calPass d t set).get .calStatusConsec d = 0 ∧ (s.calPass d t set).get .calStatusPending d = s.get .calStatusPending d := by
  unfold State.calPass
  extract_lets x j s1 vs x1 s2
  obtain ⟨hstate, hconsec, hpending⟩ := s2.get_runStatus d 2 0
  have hend := (SameRun.refl d ((s2.set .calStatusState d 0 2).set .calStatusConsec d 0 0)).setCode (v := 0)
  have hdie : ∃ m, ((s2.set .calStatusState d 0 2).set .calStatusConsec d 0 0).die d = { x1 with macs := m } := by
    obtain ⟨m, hm⟩ := x1.takeAll_frame vs
    simp only [State.die_set, s2, State.die_setDie, if_true]
    split
    · exact ⟨_, rfl⟩
    · exact ⟨m, hm⟩
  obtain ⟨m, hdie⟩ := hdie
  refine ⟨?_, ?_, ?_, hend.run.trans ?_, hend.failed.trans ?_, hend.ready.trans ?_, hend.temp.trans ?_, ?_, ?_, ?_⟩
  · obtain ⟨c, hc⟩ := s2.set_frame .calStatusState d 0 2
    obtain ⟨c', hc'⟩ := State.set_frame { s2 with ctl := c } .calStatusConsec d 0 0
    obtain ⟨c'', hc''⟩ := State.set_frame { s2 with ctl := c' } .calStatusCode d 0 0
    rw [hc, hc', hc'']
    exact ⟨_, _, _, rfl⟩
  · simp [State.calSet, s2, s1]
  · simp [State.storedTemp, s2, s1]
  · rw [hdie]
  · rw [hdie]
  · rw [hdie]
  · rw [hdie]
  · exact (hend.status .calStatusState (by simp [runFields])).trans hstate
  · exact (hend.status .calStatusConsec (by simp [runFields])).trans hconsec
  · exact (hend.status .calStatusPending (by simp [runFields])).trans hpending

/-- What follows the end of a run: the next one, where it is pending. -/
theorem State.pendingRun_results (hrun : (u.die d).run = none) :
    let t := if u.get .calStatusPending d = 1 then (u.set .calStatusPending d 0 0).calStart d else u
    (∃ c k, t = { u with ctl := c, dies := k }) ∧ (t.die d).failed = (u.die d).failed ∧ (t.die d).ready = (u.die d).ready ∧
      t.get .calStatusConsec d = u.get .calStatusConsec d ∧
      (u.get .calStatusPending d = 0 → (t.die d).run = none ∧ t.get .calStatusState d = u.get .calStatusState d) ∧
      (u.get .calStatusPending d = 1 → (t.die d).run = some { startTemp := (u.die d).temp } ∧ t.get .calStatusState d = 1) := by
  by_cases hp : u.get .calStatusPending d = 1
  · rw [if_pos hp]
    have hidle : ((u.set .calStatusPending d 0 0).die d).run = none := by rw [State.die_set, hrun]
    have hdie : ((u.set .calStatusPending d 0 0).calStart d).die d = (u.die d).begin := by
      rw [State.die_calStart_of_idle hidle, State.die_set]
    have hconsec : (u.set .calStatusPending d 0 0).get .calStatusConsec d = u.get .calStatusConsec d :=
      State.get_set_apart _ .calStatusPending .calStatusConsec _ _ _ _ _ rfl (by decide) (by decide) (by decide) (by decide)
    obtain ⟨c, hc⟩ := u.set_frame .calStatusPending d 0 0
    obtain ⟨c', k, hk⟩ := State.calStart_frame { u with ctl := c } d
    refine ⟨⟨c', k, by rw [hc, hk]⟩, ?_, ?_, (State.get_consec_calStart hidle).trans hconsec, fun h => by omega,
      fun _ => ⟨?_, State.get_state_calStart hidle⟩⟩
    · rw [hdie, Die.begin]
    · rw [hdie, Die.begin]
    · rw [hdie, Die.begin]
  · rw [if_neg hp]
    exact ⟨⟨_, _, rfl⟩, rfl, rfl, rfl, fun _ => ⟨hrun, rfl⟩, fun h => absurd h hp⟩

end Sys2Proof.Machine
end

section
/-!
PROOFS. O8: what each calibration command answers.
-/

namespace Sys2Proof.Machine

variable {s : State} {d : Nat}

/-! ### The commands -/

theorem exec_calLoadDone (bad : List Nat) (hon : s.domainOn (domCask d) = true) (hl : (s.die d).loaded = false) :
    let ok := (List.range 5).all (s.setOk bad d)
    let vs := s.calAt d (s.die d).temp
    let x := { s.die d with loaded := true, ready := ok, target := vs, reTemp := (s.die d).temp }
    let u := s.setDie d (if ok then x.takeAll vs else x)
    exec (.calLoadDone d bad) s = .next (if !ok || s.beyond d (s.die d).temp (s.die d).passTemp then u.calStart d else u) :=
  congrArg Host.Outcome.next (if_neg (by simp [hon, hl]))

/-- Sets in order are in force at once; with one out of order a run starts instead. -/
theorem calLoad_results (s : State) (d : Nat) (bad : List Nat) (hon : s.domainOn (domCask d) = true) (hl : (s.die d).loaded = false) :
    ((List.range 5).all (s.setOk bad d) = true → s.beyond d (s.die d).temp (s.die d).passTemp = false →
      ∃ t, exec (.calLoadDone d bad) s = .next t ∧ t = { s with dies := t.dies } ∧ (t.die d).loaded = true ∧ (t.die d).ready = true ∧
        (t.die d).target = s.calAt d (s.die d).temp ∧ (∀ m, ((t.die d).mac m).vals = (t.die d).target.filter fun v => v.mac == m) ∧
        (t.die d).run = (s.die d).run ∧ (t.die d).passes = (s.die d).passes ∧ ∀ k, k ≠ d → t.die k = s.die k) ∧
    ((List.range 5).all (s.setOk bad d) = false →
      ∃ t, exec (.calLoadDone d bad) s = .next t ∧ t = { s with dies := t.dies, ctl := t.ctl } ∧ (t.die d).loaded = true ∧
        (t.die d).ready = false ∧ (t.die d).run.isSome = true) := by
  have hexec := exec_calLoadDone bad hon hl
  refine ⟨fun hok hnear => ?_, fun hok => ?_⟩
  · simp only [hok, hnear, Bool.not_true, Bool.or_self, Bool.false_eq_true, if_false, if_true] at hexec
    generalize hx : Die.mk .. = x at hexec
    have hvals := x.vals_takeAll (s.calAt d (s.die d).temp)
    obtain ⟨m, hm⟩ := x.takeAll_frame (s.calAt d (s.die d).temp)
    refine ⟨_, hexec, rfl, ?_⟩
    rw [State.die_setDie, if_pos rfl]
    have htarget : (x.takeAll (s.calAt d (s.die d).temp)).target = s.calAt d (s.die d).temp := by rw [hm, ← hx]
    refine ⟨?_, ?_, htarget, fun m => by rw [hvals, htarget], ?_, ?_, fun k hk => by rw [State.die_setDie, if_neg hk]⟩
    · rw [hm, ← hx]
    · rw [hm, ← hx]
    · rw [hm, ← hx]
    · rw [hm, ← hx]
  · simp only [hok, Bool.not_false, Bool.true_or, Bool.false_eq_true, if_false, if_true] at hexec
    generalize hx : Die.mk .. = x at hexec
    obtain ⟨c, k, hk⟩ := (s.setDie d x).calStart_frame d
    obtain ⟨r, t, hdie⟩ := (s.setDie d x).die_calStart_frame d
    refine ⟨_, hexec, by rw [hk]; rfl, ?_, ?_, State.run_calStart _ d⟩
    · rw [hdie, State.die_setDie, if_pos rfl, ← hx]
    · rw [hdie, State.die_setDie, if_pos rfl, ← hx]

/-- A temperature beyond the trigger starts a run; another is noted. -/
theorem calTemp_results (s : State) (d : Nat) (x : Int) :
    (s.domainOn (domCask d) = true → (s.die d).loaded = true → (s.die d).run = none → s.beyond d x (s.die d).lastTemp = true →
      ∃ t, exec (.calTempTrigger d x) s = .next t ∧ t = { s with dies := t.dies, ctl := t.ctl } ∧
        t.die d = { s.die d with temp := x, lastTemp := x, run := some { startTemp := x } } ∧ t.get .calStatusState d = 1) ∧
    (s.beyond d x (s.die d).lastTemp = false → exec (.calTempTrigger d x) s = .next (s.setDie d { s.die d with temp := x })) := by
  refine ⟨fun hon hl hr hb => ?_, fun hb => congrArg _ (if_neg (by simp [hb]))⟩
  have hidle : ((s.setDie d { s.die d with temp := x }).die d).run = none := by rw [State.die_setDie, if_pos rfl, hr]
  obtain ⟨c, k, hk⟩ := (s.setDie d { s.die d with temp := x }).calStart_frame d
  refine ⟨_, congrArg Host.Outcome.next (if_pos (by simp [hon, hl, hb])), by rw [hk]; rfl, ?_, State.get_state_calStart hidle⟩
  rw [State.die_calStart_of_idle hidle, State.die_setDie, if_pos rfl, Die.begin]

/-- A request, as a retry after a failed run, starts a run or leaves one pending. -/
theorem calReq_results (s : State) (d : Nat) (w : W64) (hon : s.domainOn (domCask d) = true) (hw : fieldOf w 0 0 = 1) :
    ∃ t, exec (.calReqRun d w) s = .next t ∧ t = { s with dies := t.dies, ctl := t.ctl } ∧
      ((s.die d).failed = true → exec (.calRetry d) s = .next t) ∧
      ((s.die d).run = none → t.die d = { s.die d with run := some { startTemp := (s.die d).temp }, lastTemp := (s.die d).temp } ∧
        t.get .calStatusState d = 1) ∧
      ((s.die d).run.isSome = true → t.die d = s.die d ∧ t.get .calStatusPending d = 1) := by
  have hreq : s.calReq d w = s.calStart d := by rw [State.calReq, if_neg (by simp [hon]), if_pos hw]
  obtain ⟨c, k, hk⟩ := s.calStart_frame d
  refine ⟨_, congrArg Host.Outcome.next hreq, by rw [hk], fun hf => congrArg _ (if_pos (by simp [hon, hf])),
    fun hr => ⟨State.die_calStart_of_idle hr, State.get_state_calStart hr⟩, fun hr => ⟨?_, State.get_pending_calStart hr⟩⟩
  rw [State.calStart_of_busy hr, State.die_set]

/-- A visit adds what it measured on its 8 arrays, and waits while one of them is held. -/
theorem calVisit_results (s : State) (d first : Nat) (vs : List CalValue) (r : CalRun) (hr : (s.die d).run = some r) (hn : r.next = first)
    (hg : first < s.good d) (hq : (s.die d).bistQuiesce = false) (hon : s.domainOn (domCask d) = true) :
    ((∀ q ∈ (s.die d).reqs, q.stage = .held → q.mac < first ∨ first + 8 ≤ q.mac) →
      ∃ t, exec (.calVisit d first vs) s = .next t ∧ t = { s with dies := t.dies } ∧
        (t.die d).run = some { r with next := first + 8, spares := (if first = 0 then vs.filter ofSpare else r.spares),
                                      values := r.values ++ vs.filter fun v => !ofSpare v && decide (first ≤ v.mac ∧ v.mac < first + 8) } ∧
        (t.die d).passes = (s.die d).passes ∧ (t.die d).reqs = (s.die d).reqs ∧
        (∀ m, first ≤ m → m < first + 8 → ((t.die d).mac m).refPhase = false) ∧ ∀ k, k ≠ d → t.die k = s.die k) ∧
    ((∃ q ∈ (s.die d).reqs, q.stage = .held ∧ first ≤ q.mac ∧ q.mac < first + 8) → exec (.calVisit d first vs) s = .next s) := by
  have hcond : ∀ held : Bool, (decide (r.next = first) && decide (first < s.good d) && !held && !(s.die d).bistQuiesce &&
      s.domainOn (domCask d)) = !held := fun held => by simp [hn, hg, hq, hon]
  refine ⟨fun hfree => ?_, fun hheld => ?_⟩
  · have hnone : ((s.die d).reqs.any fun q => q.stage == .held && decide (first ≤ q.mac ∧ q.mac < first + 8)) = false := by
      rw [List.any_eq_false]
      intro q hq
      have := hfree q hq
      simp only [Bool.and_eq_true, beq_iff_eq, decide_eq_true_eq, not_and]
      intro hs h1
      have := this hs
      omega
    obtain ⟨k, hk⟩ := visitsEnd_frame first (List.range 8) (s.die d)
    have hphase := fun m (hlo : first ≤ m) (hhi : m < first + 8) => refPhase_visitsEnd first (List.range 8) (s.die d) (m := m)
      (.inr ⟨m - first, by simp; omega, by omega⟩)
    have he : s.calVisit d first vs = s.setDie d { s.die d with
        macs := k
        run := some { r with next := first + 8, spares := (if first = 0 then vs.filter ofSpare else r.spares),
                             values := r.values ++ vs.filter fun v => !ofSpare v && decide (first ≤ v.mac ∧ v.mac < first + 8) } } := by
      rw [State.calVisit, hr]
      dsimp only
      rw [hnone, hcond false, if_pos Bool.not_false, hk]
    refine ⟨_, congrArg Host.Outcome.next he, rfl, ?_⟩
    rw [State.die_setDie, if_pos rfl]
    rw [hk] at hphase
    exact ⟨rfl, rfl, rfl, hphase, fun k hk => by rw [State.die_setDie, if_neg hk]⟩
  · have hany : ((s.die d).reqs.any fun q => q.stage == .held && decide (first ≤ q.mac ∧ q.mac < first + 8)) = true := by
      obtain ⟨q, hq, hs, hlo, hhi⟩ := hheld
      exact List.any_eq_true.2 ⟨q, hq, by simp [hs, hlo, hhi]⟩
    refine congrArg Host.Outcome.next ?_
    rw [State.calVisit, hr]
    dsimp only
    rw [hany, hcond true, if_neg (by decide)]

/-- A run whose visits are done passes or fails as a whole, and a pending one starts. -/
theorem calRunEnd_results (s : State) (d : Nat) (r : CalRun) (hr : (s.die d).run = some r) (hg : s.good d ≤ r.next)
    (hon : s.domainOn (domCask d) = true) :
    let vs := (s.die d).counted (r.spares ++ r.values)
    let set := s.runSet d r.startTemp vs
    ((vs.all calOk && set.2.all calOk) = true →
      ∃ t, exec (.calRunEnd d) s = .next t ∧ t = { s with dies := t.dies, ctl := t.ctl, journal := t.journal } ∧
        (t.die d).failed = false ∧ (t.die d).ready = true ∧ t.get .calStatusConsec d = 0 ∧ t.calSet d set.1 = some (calRecord set.2) ∧
        t.storedTemp d = r.startTemp ∧
        (s.get .calStatusPending d = 0 → (t.die d).run = none ∧ t.get .calStatusState d = 2) ∧
        (s.get .calStatusPending d = 1 → (t.die d).run = some { startTemp := (s.die d).temp } ∧ t.get .calStatusState d = 1)) ∧
    ((vs.all calOk && set.2.all calOk) = false →
      ∃ t, exec (.calRunEnd d) s = .next t ∧ t.journal = s.journal ∧ (t.die d).failed = true ∧ (t.die d).ready = (s.die d).ready ∧
        t.get .calStatusConsec d = min 255 (s.get .calStatusConsec d + 1) ∧
        (s.get .calStatusPending d = 0 → (t.die d).run = none ∧ t.get .calStatusState d = 3) ∧
        (s.get .calStatusPending d = 1 → (t.die d).run = some { startTemp := (s.die d).temp } ∧ t.get .calStatusState d = 1)) := by
  intro vs set
  have hruns : Fld.calRuns.addr d 0 % 0x1000 ≠ 0x10 := by rw [Fld.addr_mod]; decide
  have hsame : SameRun d s (s.bump .calRuns d) := (SameRun.refl d s).bump hruns
  have hpend := hsame.status .calStatusPending (by simp [runFields])
  have hexec : ∀ u, (if (vs.all calOk && set.2.all calOk) = true then (s.bump .calRuns d).calPass d r.startTemp set
      else (s.bump .calRuns d).calFail d ((vs.filter fun v => !calOk v).filterMap converterOf).eraseDups) = u →
      exec (.calRunEnd d) s = .next (if u.get .calStatusPending d = 1 then (u.set .calStatusPending d 0 0).calStart d else u) := by
    rintro u rfl
    refine congrArg Host.Outcome.next ?_
    rw [State.calRunEnd, hr]
    dsimp only
    rw [if_neg (Nat.not_lt.2 hg), hon]
    simp only [Bool.and_true, decide_eq_true_eq]
    rfl
  refine ⟨fun hok => ?_, fun hok => ?_⟩
  · have he := hexec _ (if_pos hok)
    obtain ⟨⟨c, k, j, hframe⟩, hset, htemp, hrun, hfailed, hready, hdtemp, hstate, hconsec, hpending⟩ :=
      (s.bump .calRuns d).calPass_results d r.startTemp set
    generalize (s.bump .calRuns d).calPass d r.startTemp set = u at *
    obtain ⟨⟨c', k', hframe'⟩, hfailed', hready', hconsec', hnone, hnext⟩ := State.pendingRun_results hrun
    generalize (if u.get .calStatusPending d = 1 then (u.set .calStatusPending d 0 0).calStart d else u) = t at *
    have hjournal : t.journal = u.journal := by rw [hframe']
    rw [hpending, hpend] at hnone hnext
    refine ⟨t, he, ?_, hfailed'.trans hfailed, hready'.trans hready, hconsec'.trans hconsec, ?_, ?_, fun h => ?_, fun h => ?_⟩
    · obtain ⟨b, hb⟩ := s.bump_frame .calRuns d 0 1
      rw [hframe', hframe, hb]
    · rw [State.calSet, hjournal]
      exact hset
    · rw [State.storedTemp, hjournal]
      exact htemp
    · obtain ⟨h1, h2⟩ := hnone h
      exact ⟨h1, h2.trans hstate⟩
    · rw [hdtemp, hsame.temp] at hnext
      exact hnext h
  · have he := hexec _ (if_neg (by simp [hok]))
    obtain ⟨hj, hrun, hfailed, hready, hdtemp, hstate, hconsec, hpending⟩ :=
      (s.bump .calRuns d).calFail_results d ((vs.filter fun v => !calOk v).filterMap converterOf).eraseDups
    generalize (s.bump .calRuns d).calFail d _ = u at *
    obtain ⟨⟨c', k', hframe'⟩, hfailed', hready', hconsec', hnone, hnext⟩ := State.pendingRun_results hrun
    generalize (if u.get .calStatusPending d = 1 then (u.set .calStatusPending d 0 0).calStart d else u) = t at *
    have hjournal : t.journal = u.journal := by rw [hframe']
    rw [hpending, hpend] at hnone hnext
    rw [hsame.status .calStatusConsec (by simp [runFields])] at hconsec
    refine ⟨t, he, (hjournal.trans hj).trans hsame.journal, hfailed'.trans hfailed, (hready'.trans hready).trans hsame.ready,
      hconsec'.trans hconsec, fun h => ?_, fun h => ?_⟩
    · obtain ⟨h1, h2⟩ := hnone h
      exact ⟨h1, h2.trans hstate⟩
    · rw [hdtemp, hsame.temp] at hnext
      exact hnext h

theorem exec_calReinterpolate (s : State) (d : Nat) (x : Int) (hon : s.domainOn (domCask d) = true) (hl : (s.die d).loaded = true) :
    exec (.calReinterpolate d x) s = .next (s.setDie d (if 25 ≤ 10 * (x - (s.die d).reTemp).natAbs
      then { s.die d with temp := x, target := s.calAt d x, reTemp := x } else { s.die d with temp := x })) := by
  refine congrArg Host.Outcome.next ?_
  by_cases hx : 25 ≤ 10 * (x - (s.die d).reTemp).natAbs
  · rw [if_pos hx, State.calReinterpolate, if_pos (by simp [hon, hl, hx])]
  · rw [if_neg hx, State.calReinterpolate, if_neg (by simp [hx])]

theorem exec_calValuesTakeEffect (s : State) (d m : Nat) (hr : (s.die d).running m = none) (hon : s.domainOn (domCask d) = true) :
    exec (.calValuesTakeEffect d m) s =
      .next (s.setDie d ((s.die d).setMac m { (s.die d).mac m with vals := (s.die d).target.filter fun v => v.mac == m })) :=
  congrArg Host.Outcome.next (if_pos (by simp [hr, hon]))

end Sys2Proof.Machine
end

section
open Sys2Proof Sys2Proof.Machine

/-- Settles O8, command by command. -/
theorem calibrationRuns : Obligations.CalibrationRuns :=
  ⟨calLoad_results, calTemp_results, calReq_results, calVisit_results, calRunEnd_results, exec_calReinterpolate, exec_calValuesTakeEffect⟩
end

section
/-!
PROOFS. Commits (02_blend_and_capability.md R40 to R44): COMMIT_STATUS, the captured copy, and what a commit that is accepted puts in force.
-/

namespace Sys2Proof.Machine

/-! ### Stores -/

/-- What a listed key holds does not turn on what an unlisted one holds. -/
theorem smGet_of_listed {α : Type} (f g : Nat → α) {m : SMap α} {k : Nat} (h : k ∈ m.map Prod.fst) : smGet f m k = smGet g m k := by
  induction m with
  | nil => simp at h
  | cons e m ih =>
    simp only [List.map_cons, List.mem_cons] at h
    simp only [smGet]
    split_ifs with hk
    · rfl
    · exact ih (h.resolve_left hk)

/-- Entries written one after another, each key once: a key that is written holds its entry, another what it held. -/
theorem smGet_foldl_smPut {α : Type} [DecidableEq α] (d : Nat → α) {l : SMap α}
    (hl : l.Pairwise fun a b => a.1 < b.1) (m : SMap α) (k : Nat) :
    smGet d (l.foldl (fun m e => smPut d e.1 e.2 m) m) k = smGet (smGet d m) l k := by
  induction l generalizing m with
  | nil => rfl
  | cons e l ih =>
    obtain ⟨hhead, htail⟩ := List.pairwise_cons.1 hl
    rw [List.foldl_cons, ih htail, smGet]
    split_ifs with hk
    · subst hk
      have hnone : e.1 ∉ l.map Prod.fst := fun h => by
        obtain ⟨x, hx, hxe⟩ := List.mem_map.1 h
        exact absurd (hhead x hx) (by omega)
      rw [smGet_of_unlisted _ hnone, smGet_smPut_self]
    · exact smGet_congr _ _ _ _ (smGet_smPut_ne d hk _ _)

theorem smPut_rising {α : Type} [DecidableEq α] {d : Nat → α} {m : SMap α} (h : m.Pairwise fun a b => a.1 < b.1) {k : Nat} {v : α} :
    (smPut d k v m).Pairwise fun a b => a.1 < b.1 := by
  unfold smPut
  split_ifs
  · exact smDel_rising h
  · exact smIns_rising h

/-- Entries that equal what their key holds unlisted may go, where each key is listed once. -/
theorem smGet_filter_default {α : Type} [DecidableEq α] (d : Nat → α) {m : SMap α} (hm : m.Pairwise fun a b => a.1 < b.1) (k : Nat) :
    smGet d (m.filter fun e => e.2 != d e.1) k = smGet d m k := by
  induction m with
  | nil => rfl
  | cons e m ih =>
    obtain ⟨hhead, htail⟩ := List.pairwise_cons.1 hm
    by_cases he : e.2 = d e.1
    · rw [List.filter_cons_of_neg (by simp [he]), ih htail, smGet]
      split_ifs with hk
      · subst hk
        have hnone : e.1 ∉ m.map Prod.fst := fun h => by
          obtain ⟨x, hx, hxe⟩ := List.mem_map.1 h
          exact absurd (hhead x hx) (by omega)
        rw [smGet_of_unlisted _ hnone, he]
      · rfl
    · rw [List.filter_cons_of_pos (by simp [he]), smGet, smGet, ih htail]

/-! ### The bits of an access type -/

theorem bitsOf_eq_zero {a : Nat} {accs : List Acc} (h : ∀ e ∈ fieldsAt a, e.1.acc ∉ accs) : bitsOf a accs = 0 :=
  List.foldlRecOn (motive := (· = 0)) _ _ rfl fun m hm e he => by simp [hm, h e he]

/-- Whether a field is one of the register at an offset of its block, or of one of its like registers. -/
def Fld.standsAt (f : Fld) (o : Nat) : Bool :=
  decide (f.off ≤ o) && if f.stride = 0 then o == f.off else (o - f.off) % f.stride == 0 && decide ((o - f.off) / f.stride < f.count)

/-- The fields of a register are fields of its block that stand at its offset. -/
theorem standsAt_of_mem_fieldsAt {a : Nat} {e : Fld × Nat × Nat} (he : e ∈ fieldsAt a) :
    ∃ p, (blockOf p).base ≤ a ∧ e.1 ∈ (blockOf p).fields ∧ e.1.standsAt ((a - (blockOf p).base) % 0x1000) = true := by
  cases hb : blockAt a with
  | none => simp [fieldsAt, hb] at he
  | some c =>
    obtain ⟨b, i⟩ := c
    obtain ⟨b', hb', hsome⟩ := List.exists_of_findSome?_eq_some hb
    obtain ⟨p, _, rfl⟩ := List.mem_map.1 hb'
    split_ifs at hsome with hin
    cases hsome
    refine ⟨p, hin.1, mem_fields_of_mem_fieldsAt he hb, ?_⟩
    simp only [fieldsAt, hb, List.mem_filterMap] at he
    obtain ⟨f, _, hfe⟩ := he
    split_ifs at hfe with hlt hstride heq hlike
    · cases hfe
      simp [Fld.standsAt, hstride, heq]
    · cases hfe
      simp [Fld.standsAt, hstride, hlike, Nat.not_lt.1 hlt]

/-! ### COMMIT_STATUS -/

/-- Every block begins at a multiple of its size. -/
theorem blockOf_base_mod (p : Pfx) : (blockOf p).base % 0x1000 = 0 := by cases p <;> rfl

theorem statusAddr_mod (p : Pfx) (i : Nat) : statusAddr p i % 0x1000 = 0xFF8 := by
  have := blockOf_base_mod p
  unfold statusAddr pfxBase
  omega

/-- No field at COMMIT_STATUS is staged, in any block. -/
theorem not_st_of_standsAt (p : Pfx) : ∀ f ∈ (blockOf p).fields, f.standsAt 0xFF8 = true → f.acc ≠ .st := by
  cases p <;> decide

/-- A commit takes nothing into COMMIT_STATUS. -/
theorem bitsOf_status {a : Nat} (ha : a % 0x1000 = 0xFF8) : bitsOf a [.st] = 0 := by
  refine bitsOf_eq_zero fun e he => ?_
  obtain ⟨p, hle, hf, hat⟩ := standsAt_of_mem_fieldsAt he
  have hbase := blockOf_base_mod p
  rw [show (a - (blockOf p).base) % 0x1000 = 0xFF8 by omega] at hat
  simpa using not_st_of_standsAt p e.1 hf hat

end Sys2Proof.Machine
end

section
/-!
PROOFS. O3, O4: a write of GO (R40, R42), and a commit that is refused (R41).
-/

namespace Sys2Proof.Machine

variable (s : State)

/-! ### COMMIT_STATUS written -/

theorem State.word_commitStatus_ne (p : Pfx) (i state code off : Nat) {x : Nat} (h : x ≠ statusAddr p i) :
    (s.commitStatus p i state code off).word x = s.word x := by
  rw [State.commitStatus, State.word_setWord, if_neg h]

/-- STATE, CODE and OFFSET are those written, and ACCEPTED is as before. -/
theorem State.fields_commitStatus (p : Pfx) (i state code off : Nat) :
    let w := (s.commitStatus p i state code off).word (statusAddr p i)
    fieldOf w 15 14 = state % 2 ^ 2 ∧ fieldOf w 31 16 = code % 2 ^ 16 ∧ fieldOf w 11 0 = off % 2 ^ 12 ∧
      fieldOf w 63 32 = fieldOf (s.word (statusAddr p i)) 63 32 := by
  dsimp only
  rw [State.commitStatus, State.word_setWord, if_pos rfl]
  simp (disch := decide) only [fieldOf_withField, fieldOf_withField_apart, and_self]

/-! ### GO -/

theorem exec_commitGo {t : State} {p : Pfx} {i : Nat} (h : s.commitGo p i = t) : exec (.commitGo p i) s = .next t :=
  congrArg Host.Outcome.next h

section
variable {s} {p : Pfx} {i : Nat} (hst : stages p = true) (hi : i < (blockOf p).insts)
  (hd : ((blockDomain p i).elim true fun d => s.domainOn d) = true)
include hst hi hd

/-- In a block with staged fields whose domain is on, GO captures unless the checks run or a blend is applied. -/
theorem State.commitGo_eq : s.commitGo p i =
    if s.checking.contains (pfxBase p i) || s.applying then s.commitBusy p i
    else (s.capture (pfxBase p i)).commitStatus p i 1 (fieldOf (s.word (statusAddr p i)) 31 16) (fieldOf (s.word (statusAddr p i)) 11 0) := by
  have hhas : (!stages p || decide ((blockOf p).insts ≤ i)) = false := by simp [hst, hi]
  have hoff : ((blockDomain p i).elim false fun d => !s.domainOn d) = false := by
    cases hdom : blockDomain p i with
    | none => rfl
    | some d => simpa [hdom] using hd
  rw [State.commitGo]
  dsimp only
  rw [hhas, hoff]
  rfl

end

theorem State.word_commitBusy (p : Pfx) (i x : Nat) : (s.commitBusy p i).word x =
    if x = statusAddr p i then withField (s.word (statusAddr p i)) 31 16 Code.commitBusy else s.word x := s.word_setWord _ _ _

/-- A word replaced touches the registers alone. -/
theorem State.setWord_eq (a : Nat) (v : W64) : s.setWord a v = { s with ctl := (s.setWord a v).ctl } := rfl

/-- Right after a capture, the captured copy of the block is its staged copy (R40). -/
theorem State.capturedWord_capture (base : Nat) (hwf : s.staged.Pairwise fun a b => a.1 < b.1) {x : Nat} (hlo : base ≤ x)
    (hhi : x < base + 0x1000) : (s.capture base).capturedWord x = s.stagedWord x := by
  have hin : (decide (base ≤ x ∧ x < base + 0x1000)) = true := by simp [hlo, hhi]
  have hold := smGet_filter_key s.word (fun k => !decide (base ≤ k ∧ k < base + 0x1000)) s.captured x
  have hnew := smGet_filter_key s.word (fun k => decide (base ≤ k ∧ k < base + 0x1000)) s.staged x
  simp only [hin, Bool.not_true, if_true, Bool.false_eq_true, if_false] at hold hnew
  rw [State.stagedWord, ← hnew]
  exact (smGet_foldl_smPut _ (hwf.filter _) _ _).trans (smGet_congr _ _ _ _ hold)

/-! ### A commit that is refused -/

theorem State.checking_endCapture (base : Nat) : (s.endCapture base).checking.contains base = false := by
  simp [State.endCapture]

/-- PWR_ERR is no COMMIT_STATUS. -/
theorem statusAddr_ne_pwrErr (p : Pfx) (i : Nat) : statusAddr p i ≠ Fld.pwrErrCode.addr 0 0 := fun h => by
  have hmod := statusAddr_mod p i
  rw [h] at hmod
  exact absurd hmod (by decide)

theorem State.word_pwrErr_ne (c part : Nat) {x : Nat} (h : x ≠ Fld.pwrErrCode.addr 0 0) : (s.pwrErr c part).word x = s.word x := by
  rw [State.pwrErr, State.word_set, if_neg (show ¬ x = Fld.pwrErrUnit.addr 0 0 from h), State.word_set, if_neg h]

@[simp] theorem State.word_endCapture (base x : Nat) : (s.endCapture base).word x = s.word x := rfl

theorem State.commitStatus_frame (p : Pfx) (i state code off : Nat) : ∃ c, s.commitStatus p i state code off = { s with ctl := c } := ⟨_, rfl⟩

/-- A refusal touches nothing in force but COMMIT_STATUS, and PWR_ERR where the cap is not feasible. -/
theorem State.word_commitRefuse (p : Pfx) (i code off : Nat) {x : Nat} (h : code = Code.capInfeasible → x ≠ Fld.pwrErrCode.addr 0 0) :
    (s.commitRefuse p i code off).word x = (s.commitStatus p i 0 code off).word x := by
  unfold State.commitRefuse
  extract_lets s1
  have hs1 : s1.word x = (s.commitStatus p i 0 code off).word x := State.word_endCapture _ _ _
  generalize s1 = u at *
  split_ifs with hc
  · rw [State.word_pwrErr_ne _ _ _ (h hc), hs1]
  · exact hs1

/-- A cap that is not feasible is recorded in PWR_ERR too (R41). -/
theorem State.get_pwrErr_commitRefuse (p : Pfx) (i off : Nat) {code : Nat} (hc : code = Code.capInfeasible) :
    (s.commitRefuse p i code off).get .pwrErrCode = code % 2 ^ 16 := by
  unfold State.commitRefuse
  extract_lets s1
  generalize s1 = u
  rw [if_pos hc, State.get_code_pwrErr]

theorem State.commitRefuse_frame (p : Pfx) (i code off : Nat) : ∃ c k h,
    s.commitRefuse p i code off = { s with ctl := c, captured := k, checking := h } := by
  obtain ⟨c, hs⟩ := s.commitStatus_frame p i 0 code off
  have hend : ∃ k h, (s.commitStatus p i 0 code off).endCapture (pfxBase p i) = { s with ctl := c, captured := k, checking := h } := by
    rw [hs]
    exact ⟨_, _, rfl⟩
  obtain ⟨k, h, hs1⟩ := hend
  unfold State.commitRefuse
  rw [hs1]
  split_ifs
  · obtain ⟨c', hc'⟩ := State.pwrErr_frame (s := { s with ctl := c, captured := k, checking := h }) code 0xFF
    exact ⟨c', k, h, hc'⟩
  · exact ⟨c, k, h, rfl⟩

theorem State.checking_commitRefuse (p : Pfx) (i code off : Nat) :
    (s.commitRefuse p i code off).checking.contains (pfxBase p i) = false := by
  have hend := State.checking_endCapture (s.commitStatus p i 0 code off) (pfxBase p i)
  unfold State.commitRefuse
  generalize (s.commitStatus p i 0 code off).endCapture (pfxBase p i) = u at *
  split_ifs
  · obtain ⟨c, hc⟩ := u.pwrErr_frame code 0xFF
    rw [hc]
    exact hend
  · exact hend

end Sys2Proof.Machine
end

section
open Sys2Proof Sys2Proof.Machine

/-- Settles O4: CODE is the one field that an ignored GO writes. -/
theorem commitBusyIgnored : Obligations.CommitBusyIgnored := by
  intro s p i hst hi hd hbusy
  have hcond : (s.checking.contains (pfxBase p i) || s.applying) = true := by
    rcases hbusy with h | h | h
    · rw [h, Bool.true_or]
    · rw [State.applying, ← State.blendState, h, Bool.or_eq_true]
      exact .inr rfl
    · rw [State.applying, ← State.blendState, h, Bool.or_eq_true]
      exact .inr rfl
  have hgo : s.commitGo p i = s.commitBusy p i := by rw [State.commitGo_eq hst hi hd, if_pos hcond]
  refine ⟨_, exec_commitGo s hgo, s.setWord_eq _ _, ?_, ?_, ?_, fun x hx => ?_⟩
  · rw [State.word_commitBusy, if_pos rfl, fieldOf_withField _ _ _ _ (by decide) (by decide)]
    decide
  · rw [State.word_commitBusy, if_pos rfl, fieldOf_withField_apart _ _ _ _ _ _ (by decide) (by decide) (by decide) (by decide)]
  · rw [State.word_commitBusy, if_pos rfl, fieldOf_withField_apart _ _ _ _ _ _ (by decide) (by decide) (by decide) (by decide)]
  · rw [State.word_commitBusy, if_neg hx]

end

section
/-!
PROOFS. O3: what a commit that is accepted puts in force (R41), the effects that rings, queues and links have beside it apart.
-/

namespace Sys2Proof.Machine

variable (s : State)

theorem mergeBits_mergeBits (m o n : W64) : mergeBits m (mergeBits m o n) n = mergeBits m o n := by
  unfold mergeBits
  ext i hi
  simp only [BitVec.getElem_or, BitVec.getElem_and, BitVec.getElem_not]
  cases m[i] <;> simp

/-! ### The captured words in force -/

theorem State.word_takeWord (a x : Nat) :
    (s.takeWord a).word x = if x = a then mergeBits (bitsOf a [.st]) (s.word a) (s.capturedWord a) else s.word x := s.word_setWord _ _ _

/-- Each captured word takes its ST fields from the captured copy, and no other word changes. -/
theorem State.word_takeWords {as : List Nat} (hcap : ∀ a ∈ as, a ∈ s.captured.map Prod.fst) (x : Nat) :
    (as.foldl (fun s a => s.takeWord a) s).word x =
      if x ∈ as then mergeBits (bitsOf x [.st]) (s.word x) (s.capturedWord x) else s.word x := by
  induction as generalizing s with
  | nil => simp
  | cons a as ih =>
    have hsame : x ∈ a :: as → (s.takeWord a).capturedWord x = s.capturedWord x := fun hx => smGet_of_listed _ _ (hcap x hx)
    rw [List.foldl_cons, ih (s.takeWord a) fun b hb => hcap b (List.mem_cons_of_mem _ hb), State.word_takeWord]
    by_cases hxa : x = a
    · subst hxa
      rw [hsame List.mem_cons_self]
      simp [mergeBits_mergeBits]
    · by_cases hx : x ∈ as
      · simp [hx, hxa, hsame (List.mem_cons_of_mem _ hx)]
      · simp [hx, hxa]

theorem State.takeWords_frame (as : List Nat) : ∃ c, as.foldl (fun s a => s.takeWord a) s = { s with ctl := c } := by
  induction as generalizing s with
  | nil => exact ⟨_, rfl⟩
  | cons a as ih =>
    obtain ⟨c, hc⟩ := ih (s.takeWord a)
    exact ⟨c, hc⟩

/-! ### The staged copy kept -/

/-- Staged copies set to given values: those hold them, the others what they held. -/
theorem State.stagedWord_setStageds (f : Nat → W64) (as : List Nat) (x : Nat) :
    (as.foldl (fun s a => s.setStaged a (f a)) s).stagedWord x = if x ∈ as then f x else s.stagedWord x := by
  induction as generalizing s with
  | nil => simp
  | cons a as ih =>
    rw [List.foldl_cons, ih, State.stagedWord_setStaged]
    by_cases hxa : x = a
    · simp [hxa]
    · simp [hxa]

theorem State.setStageds_frame (f : Nat → W64) (as : List Nat) : ∃ k,
    as.foldl (fun s a => s.setStaged a (f a)) s = { s with staged := k } := by
  induction as generalizing s with
  | nil => exact ⟨_, rfl⟩
  | cons a as ih =>
    obtain ⟨k, hk⟩ := ih (s.setStaged a (f a))
    exact ⟨k, hk⟩

theorem State.setStageds_rising (f : Nat → W64) (as : List Nat) (h : s.staged.Pairwise fun a b => a.1 < b.1) :
    (as.foldl (fun s a => s.setStaged a (f a)) s).staged.Pairwise fun a b => a.1 < b.1 := by
  induction as generalizing s with
  | nil => exact h
  | cons a as ih => exact ih _ (smPut_rising h)

/-! ### The capture taken -/

theorem State.takeCaptured_frame (base : Nat) : ∃ c k, s.takeCaptured base = { s with ctl := c, staged := k } := by
  obtain ⟨c, hc⟩ := s.takeWords_frame (s.capturedAddrs base)
  obtain ⟨k, hk⟩ := State.setStageds_frame { s with ctl := c } s.stagedWord (s.capturedAddrs base)
  exact ⟨c, k, by rw [State.takeCaptured, hc, hk]⟩

theorem State.mem_captured_of_capturedAddrs {base a : Nat} (h : a ∈ s.capturedAddrs base) : a ∈ s.captured.map Prod.fst := by
  obtain ⟨e, he, rfl⟩ := List.mem_map.1 h
  exact List.mem_map_of_mem (List.mem_of_mem_filter he)

theorem State.word_takeCaptured (base x : Nat) : (s.takeCaptured base).word x =
    if x ∈ s.capturedAddrs base then mergeBits (bitsOf x [.st]) (s.word x) (s.capturedWord x) else s.word x := by
  rw [← s.word_takeWords fun a => s.mem_captured_of_capturedAddrs]
  obtain ⟨k, hk⟩ := State.setStageds_frame ((s.capturedAddrs base).foldl (fun s a => s.takeWord a) s) s.stagedWord (s.capturedAddrs base)
  rw [State.takeCaptured, hk]
  rfl

/-- The staged copy of every register reads as before, whether its word changed in force or not (R40). -/
theorem State.stagedWord_takeCaptured (base x : Nat) : (s.takeCaptured base).stagedWord x = s.stagedWord x := by
  rw [State.takeCaptured, State.stagedWord_setStageds]
  split_ifs with hx
  · rfl
  · obtain ⟨c, hc⟩ := s.takeWords_frame (s.capturedAddrs base)
    have hw := s.word_takeWords (fun a => s.mem_captured_of_capturedAddrs (base := base)) x
    rw [if_neg hx] at hw
    rw [State.stagedWord, State.stagedWord, smGet_congr _ _ _ _ hw, hc]

theorem State.takeCaptured_rising (base : Nat) (h : s.staged.Pairwise fun a b => a.1 < b.1) :
    (s.takeCaptured base).staged.Pairwise fun a b => a.1 < b.1 := by
  obtain ⟨c, hc⟩ := s.takeWords_frame (s.capturedAddrs base)
  rw [State.takeCaptured, hc]
  exact State.setStageds_rising _ _ _ h

@[simp] theorem State.word_settleStaged (x : Nat) : s.settleStaged.word x = s.word x := rfl

@[simp] theorem State.stagedWord_endCapture (base x : Nat) : (s.endCapture base).stagedWord x = s.stagedWord x := rfl

theorem State.stagedWord_settleStaged (h : s.staged.Pairwise fun a b => a.1 < b.1) (x : Nat) :
    s.settleStaged.stagedWord x = s.stagedWord x := smGet_filter_default _ h x

/-! ### A commit that is accepted -/

/-- COMMIT_STATUS of an accepted commit: STATE, CODE and OFFSET are 0 and ACCEPTED counts it. -/
def State.countAccept (s : State) (p : Pfx) (i : Nat) : State :=
  let u := s.commitStatus p i 0 0 0
  u.setWord (statusAddr p i) (withField (u.word (statusAddr p i)) 63 32 (fieldOf (u.word (statusAddr p i)) 63 32 + 1))

theorem State.commitAccept_eq (p : Pfx) (i : Nat) : s.commitAccept p i =
    ((((s.takeCaptured (pfxBase p i)).commitEffects s p i).countAccept p i).endCapture (pfxBase p i)).settleStaged := rfl

theorem State.word_countAccept_ne (p : Pfx) (i : Nat) {x : Nat} (h : x ≠ statusAddr p i) : (s.countAccept p i).word x = s.word x := by
  rw [State.countAccept, State.word_setWord, if_neg h, State.word_commitStatus_ne _ _ _ _ _ _ h]

theorem State.countAccept_frame (p : Pfx) (i : Nat) : ∃ c, s.countAccept p i = { s with ctl := c } := by
  obtain ⟨c, hc⟩ := s.commitStatus_frame p i 0 0 0
  rw [State.countAccept, hc]
  exact ⟨_, rfl⟩

theorem State.fields_countAccept (p : Pfx) (i : Nat) :
    let w := (s.countAccept p i).word (statusAddr p i)
    fieldOf w 15 14 = 0 ∧ fieldOf w 31 16 = 0 ∧ fieldOf w 63 32 = (fieldOf (s.word (statusAddr p i)) 63 32 + 1) % 2 ^ 32 := by
  obtain ⟨hstate, hcode, _, hacc⟩ := s.fields_commitStatus p i 0 0 0
  dsimp only
  rw [State.countAccept, State.word_setWord, if_pos rfl]
  simp (disch := decide) only [fieldOf_withField, fieldOf_withField_apart, hstate, hcode, hacc]
  decide

/-- The end of a commit changes no word in force. -/
theorem State.word_commitAccept (p : Pfx) (i x : Nat) : (s.commitAccept p i).word x =
    (((s.takeCaptured (pfxBase p i)).commitEffects s p i).countAccept p i).word x := by
  rw [State.commitAccept_eq, State.word_settleStaged, State.word_endCapture]

theorem State.checking_commitAccept (p : Pfx) (i : Nat) : (s.commitAccept p i).checking.contains (pfxBase p i) = false :=
  State.checking_endCapture _ _

/-- ACCEPTED counts on from where it stood, if the effects of the commit leave COMMIT_STATUS alone. -/
theorem State.status_commitAccept (p : Pfx) (i : Nat)
    (heff : ∀ u : State, (u.commitEffects s p i).word (statusAddr p i) = u.word (statusAddr p i)) :
    let w := (s.commitAccept p i).word (statusAddr p i)
    fieldOf w 15 14 = 0 ∧ fieldOf w 31 16 = 0 ∧ fieldOf w 63 32 = (fieldOf (s.word (statusAddr p i)) 63 32 + 1) % 2 ^ 32 := by
  obtain ⟨hstate, hcode, hacc⟩ := State.fields_countAccept ((s.takeCaptured (pfxBase p i)).commitEffects s p i) p i
  have hword : (s.takeCaptured (pfxBase p i)).word (statusAddr p i) = s.word (statusAddr p i) := by
    rw [State.word_takeCaptured, bitsOf_status (statusAddr_mod p i)]
    simp
  rw [heff, hword] at hacc
  rw [State.word_commitAccept]
  exact ⟨hstate, hcode, hacc⟩

/-- The blocks whose commits do more than put their fields in force. -/
def effectful : List Pfx := [.tile, .opq, .hkc, .flink, .cwr]

section
variable {s} {p : Pfx} {i : Nat} (hp : p ∉ effectful)
include hp

theorem State.commitEffects_of_plain (u : State) : u.commitEffects s p i = u := by
  unfold State.commitEffects
  split
  · exact absurd hp (by decide)
  · exact absurd hp (by decide)
  · exact absurd hp (by decide)
  · exact absurd hp (by decide)
  · exact absurd hp (by decide)
  · rfl

theorem State.commitAccept_frame : ∃ c k h g, s.commitAccept p i = { s with ctl := c, staged := k, captured := h, checking := g } := by
  obtain ⟨c, k, hc⟩ := s.takeCaptured_frame (pfxBase p i)
  obtain ⟨c', hc'⟩ := State.countAccept_frame { s with ctl := c, staged := k } p i
  rw [State.commitAccept_eq, State.commitEffects_of_plain hp, hc, hc']
  exact ⟨_, _, _, _, rfl⟩

/-- Each captured word's ST fields are in force, and no other register but COMMIT_STATUS changes (R41). -/
theorem State.word_commitAccept_of_plain {x : Nat} (hx : x ≠ statusAddr p i) : (s.commitAccept p i).word x =
    if x ∈ s.capturedAddrs (pfxBase p i) then mergeBits (bitsOf x [.st]) (s.word x) (s.capturedWord x) else s.word x := by
  rw [State.word_commitAccept, State.word_countAccept_ne _ _ _ hx, State.commitEffects_of_plain hp, State.word_takeCaptured]

/-- The staged copy reads as before: a value written after GO included (R40). -/
theorem State.stagedWord_commitAccept (hwf : s.staged.Pairwise fun a b => a.1 < b.1) {x : Nat} (hx : x ≠ statusAddr p i) :
    (s.commitAccept p i).stagedWord x = s.stagedWord x := by
  have hrise := s.takeCaptured_rising (pfxBase p i) hwf
  have hstaged := s.stagedWord_takeCaptured (pfxBase p i) x
  rw [State.commitAccept_eq, State.commitEffects_of_plain hp]
  generalize s.takeCaptured (pfxBase p i) = u at *
  have hword := u.word_countAccept_ne p i hx
  obtain ⟨c, hc⟩ := u.countAccept_frame p i
  have hrise' : ((u.countAccept p i).endCapture (pfxBase p i)).staged.Pairwise fun a b => a.1 < b.1 := by
    rw [hc]
    exact hrise
  rw [State.stagedWord_settleStaged _ hrise', State.stagedWord_endCapture, ← hstaged]
  rw [hc] at hword ⊢
  exact smGet_congr _ _ _ _ hword

end

end Sys2Proof.Machine
end

section
/-!
PROOFS. O3, O5: what the operations of tiles, dies, links and domains leave alone: the registers of the blocks below HKC, COMMIT_STATUS where
no block is reset, the blend, and staged values. A lemma `Spares.f` for each operation `f` of which a blend's commit point and a commit of
the FLINK block are made.
-/

namespace Sys2Proof.Machine

/-- What `t` has of `s`: the registers of the blocks below HKC (Table 2.1), with `c` every COMMIT_STATUS, and the blend; nothing is staged,
open or parked in it that was not in `s`. -/
structure Spares (c : Bool) (s t : State) : Prop where
  low : ∀ x, x < 0x7000 → t.word x = s.word x
  status : c = true → ∀ x, x % 0x1000 = 0xFF8 → t.word x = s.word x
  blend : t.blend = s.blend
  staged : ∀ e ∈ t.staged, e ∈ s.staged
  buckets : s.buckets = [] → t.buckets = []
  parked : s.parked = [] → t.parked = []

/-- The fields of the state that `Spares` speaks of. -/
def State.spared (s : State) : SMap W64 × BlendState × SMap W64 × List Bucket × List Parked :=
  (s.ctl, s.blend, s.staged, s.buckets, s.parked)

/-- No register of the field is COMMIT_STATUS or lies below HKC, whatever the unit and the index. -/
def Fld.apart (f : Fld) : Bool :=
  decide (0x7000 ≤ f.base) && (f.base + f.off) % Nat.gcd f.stride 0x1000 != 0xFF8 % Nat.gcd f.stride 0x1000

/-- The registers of the block lie above those spared. -/
def Block.high (b : Block) : Bool := decide (0x7000 ≤ b.base)

theorem pfxBase_ge {p : Pfx} (hp : (blockOf p).high = true) (i : Nat) : 0x7000 ≤ pfxBase p i := by
  have := of_decide_eq_true hp
  unfold pfxBase
  omega

section
variable {f : Fld} (hf : f.apart = true) (i j : Nat)
include hf

theorem Fld.addr_ge_of_apart : 0x7000 ≤ f.addr i j := by
  have hbase : 0x7000 ≤ f.base := of_decide_eq_true (Bool.and_eq_true_iff.1 hf).1
  unfold Fld.addr
  omega

theorem Fld.addr_mod_of_apart : f.addr i j % 0x1000 ≠ 0xFF8 := fun h => by
  have hoff : (f.base + f.off) % Nat.gcd f.stride 0x1000 ≠ 0xFF8 % Nat.gcd f.stride 0x1000 := bne_iff_ne.1 (Bool.and_eq_true_iff.1 hf).2
  have hstride : Nat.gcd f.stride 0x1000 ∣ j * f.stride := (Nat.gcd_dvd_left _ _).mul_left j
  have hblock : Nat.gcd f.stride 0x1000 ∣ i * 0x1000 := (Nat.gcd_dvd_right _ _).mul_left i
  have haddr : f.addr i j = f.base + f.off + i * 0x1000 + j * f.stride := by unfold Fld.addr; omega
  refine hoff ?_
  calc (f.base + f.off) % Nat.gcd f.stride 0x1000
      = f.addr i j % Nat.gcd f.stride 0x1000 := by
        rw [haddr, Nat.add_mod _ (j * f.stride), Nat.mod_eq_zero_of_dvd hstride, Nat.add_zero, Nat.mod_mod, Nat.add_mod _ (i * 0x1000),
          Nat.mod_eq_zero_of_dvd hblock, Nat.add_zero, Nat.mod_mod]
    _ = f.addr i j % 0x1000 % Nat.gcd f.stride 0x1000 := (Nat.mod_mod_of_dvd _ (Nat.gcd_dvd_right _ _)).symm
    _ = 0xFF8 % Nat.gcd f.stride 0x1000 := by rw [h]

end

section
variable {c : Bool} {s₀ s t : State}

/-! ### What one update spares -/

theorem Spares.refl (s : State) : Spares c s s := ⟨fun _ _ => rfl, fun _ _ _ => rfl, rfl, fun _ => id, id, id⟩

theorem Spares.trans (hs : Spares c s₀ s) (ht : Spares c s t) : Spares c s₀ t :=
  ⟨fun x hx => (ht.low x hx).trans (hs.low x hx), fun hc x hx => (ht.status hc x hx).trans (hs.status hc x hx), ht.blend.trans hs.blend,
    fun e he => hs.staged e (ht.staged e he), fun h => ht.buckets (hs.buckets h), fun h => ht.parked (hs.parked h)⟩

theorem Spares.ite {a b : State} {p : Prop} [Decidable p] (ha : Spares c s₀ a) (hb : Spares c s₀ b) : Spares c s₀ (if p then a else b) := by
  split <;> assumption

theorem Spares.foldl {α : Type} {f : State → α → State} {xs : List α} (hs : Spares c s₀ s)
    (k : ∀ u x, Spares c s₀ u → Spares c s₀ (f u x)) : Spares c s₀ (xs.foldl f s) := by
  induction xs generalizing s with
  | nil => exact hs
  | cons x xs ih => exact ih (k _ _ hs)

/-- An update of none of the fields that are spared. -/
theorem Spares.upd (hs : Spares c s₀ s) (h : t.spared = s.spared) : Spares c s₀ t := by
  simp only [State.spared, Prod.mk.injEq] at h
  obtain ⟨hctl, hblend, hstaged, hbuckets, hparked⟩ := h
  have hw : ∀ x, t.word x = s.word x := fun x => by rw [State.word, hctl, State.word]
  exact hs.trans ⟨fun x _ => hw x, fun _ x _ => hw x, hblend, fun e he => hstaged ▸ he, fun h => hbuckets.trans h, fun h => hparked.trans h⟩

theorem Spares.setWord {a v} (hs : Spares c s₀ s) (hge : 0x7000 ≤ a) (hmod : a % 0x1000 ≠ 0xFF8) : Spares c s₀ (s.setWord a v) := by
  refine hs.trans ⟨fun x hx => ?_, fun _ x hx => ?_, rfl, fun _ => id, id, id⟩
  · rw [State.word_setWord, if_neg (by omega)]
  · rw [State.word_setWord, if_neg (by omega)]

theorem Spares.set {f i j v} (hf : f.apart = true) (hs : Spares c s₀ s) : Spares c s₀ (s.set f i j v) :=
  hs.setWord (Fld.addr_ge_of_apart hf i j) (Fld.addr_mod_of_apart hf i j)

theorem Spares.bump {f i j n} (hf : f.apart = true) (hs : Spares c s₀ s) : Spares c s₀ (s.bump f i j n) :=
  hs.setWord (Fld.addr_ge_of_apart hf i j) (Fld.addr_mod_of_apart hf i j)

theorem Spares.setBuckets {bs} (hs : Spares c s₀ s) (h : s.buckets = [] → bs = []) : Spares c s₀ { s with buckets := bs } :=
  hs.trans ⟨fun _ _ => rfl, fun _ _ _ => rfl, rfl, fun _ => id, h, id⟩

theorem Spares.setParked {ps} (hs : Spares c s₀ s) (h : s.parked = [] → ps = []) : Spares c s₀ { s with parked := ps } :=
  hs.trans ⟨fun _ _ => rfl, fun _ _ _ => rfl, rfl, fun _ => id, id, h⟩

/-- Registers above the spared ones back at their Reset values, and staged values dropped. -/
theorem Spares.dropWords {p : Nat → Bool} {q : Nat × W64 → Bool} (hs : Spares false s₀ s) (hp : ∀ x, x < 0x7000 → p x = true) :
    Spares false s₀ { s with ctl := s.ctl.filter fun e => p e.1, staged := s.staged.filter q } := by
  refine hs.trans ⟨fun x hx => ?_, fun h => absurd h (by decide), rfl, fun e he => List.mem_of_mem_filter he, id, id⟩
  exact (smGet_filter_key _ _ _ _).trans (if_pos (hp x hx))

theorem Spares.resetPfx {p i} (hp : (blockOf p).high = true) (hs : Spares false s₀ s) : Spares false s₀ (s.resetPfx p i) :=
  have hb := pfxBase_ge hp i
  (hs.dropWords (p := fun k => decide (k < pfxBase p i ∨ pfxBase p i + 0x1000 ≤ k)) fun x hx => by simp; omega).upd rfl

theorem Spares.resetFields {p i} (hp : (blockOf p).high = true) (hs : Spares false s₀ s) : Spares false s₀ (s.resetFields (pfxBase p i)) :=
  have hb := pfxBase_ge hp i
  (hs.dropWords (p := fun k => !inBlock (pfxBase p i) k || isCounter k) fun x hx => by
    have : ¬ pfxBase p i ≤ x := by omega
    simp [inBlock, this]).upd rfl

theorem Spares.clearCounters {p i} (hp : (blockOf p).high = true) (hs : Spares false s₀ s) :
    Spares false s₀ (s.clearCounters (pfxBase p i)) := by
  have hb := pfxBase_ge hp i
  have h := hs.dropWords (p := fun k => !(inBlock (pfxBase p i) k && isCounter k)) (q := fun _ => true) fun x hx => by
    have : ¬ pfxBase p i ≤ x := by omega
    simp [inBlock, this]
  rw [List.filter_true] at h
  exact h.upd rfl

/-! ### Units, memory and the log -/

theorem Spares.setTile {t x} (hs : Spares c s₀ s) : Spares c s₀ (s.setTile t x) := hs.upd rfl
theorem Spares.setDie {d x} (hs : Spares c s₀ s) : Spares c s₀ (s.setDie d x) := hs.upd rfl
theorem Spares.setLink {l x} (hs : Spares c s₀ s) : Spares c s₀ (s.setLink l x) := hs.upd rfl
theorem Spares.setEngine {e x} (hs : Spares c s₀ s) : Spares c s₀ (s.setEngine e x) := hs.upd rfl
theorem Spares.setCtr {id x} (hs : Spares c s₀ s) : Spares c s₀ (s.setCtr id x) := hs.upd rfl
theorem Spares.setOp {t k o} (hs : Spares c s₀ s) : Spares c s₀ (s.setOp t k o) := hs.upd rfl
theorem Spares.tick (hs : Spares c s₀ s) : Spares c s₀ s.tick := hs.upd rfl
theorem Spares.lose {k} (hs : Spares c s₀ s) : Spares c s₀ (s.lose k) := hs.upd rfl
theorem Spares.writeBytes {a bs} (hs : Spares c s₀ s) : Spares c s₀ (s.writeBytes a bs) := hs.upd rfl
theorem Spares.event {kind code arg0 arg1} (hs : Spares c s₀ s) : Spares c s₀ (s.event kind code arg0 arg1) := hs.upd rfl

theorem Spares.modOp {t slot f} (hs : Spares c s₀ s) : Spares c s₀ (s.modOp t slot f) := by
  obtain ⟨_, h⟩ := s.modOp_frame t slot f
  rw [h]
  exact hs.upd rfl

theorem Spares.alarm {code unit a} (hs : Spares c s₀ s) : Spares c s₀ (s.alarm code unit a) := by
  unfold State.alarm
  obtain ⟨_, _, _, h⟩ := s.logCode_frame code unit { a with flags := a.flags / 2 * 2 + 1 }
  rw [h]
  exact hs.upd rfl

/-! ### Operations that fail -/

theorem Spares.signalTo {id d} (hs : Spares c s₀ s) : Spares c s₀ (s.signalTo id d).1 := by
  unfold State.signalTo
  dsimp only
  split_ifs
  · exact hs
  · exact .bump rfl hs
  · exact .bump rfl hs
  · exact .bump rfl (.setCtr hs)
  · exact .setCtr hs

theorem Spares.signalService {n} (hs : Spares c s₀ s) : Spares c s₀ (s.signalService n) := .signalTo hs

theorem Spares.noteMemErr {code a} (hs : Spares c s₀ s) : Spares c s₀ (s.noteMemErr code a) := by
  unfold State.noteMemErr
  split
  · exact hs
  next x l _ =>
    have hx : x % 5 < 5 := Nat.mod_lt _ (by decide)
    have hge : 0x7000 ≤ Fld.xferMemUe.addr (x / 5) (x % 5) := by simp only [Fld.addr, Fld.xferMemUe]; omega
    have hmod : Fld.xferMemUe.addr (x / 5) (x % 5) % 0x1000 ≠ 0xFF8 := by simp only [Fld.addr, Fld.xferMemUe]; omega
    have hue : Spares c s₀ (s.bump .xferMemUe (x / 5) (x % 5)) := .setWord hs hge hmod
    exact .set rfl (.set rfl (.set rfl hue))

theorem Spares.noteErr {e} (hs : Spares c s₀ s) : Spares c s₀ (s.noteErr e) := by
  cases e with
  | unmapped => exact hs
  | ue => exact .noteMemErr hs
  | scratchUe => exact .bump rfl hs
  | accumUe => exact .bump rfl hs

theorem Spares.writeRecord {t q bs} (hs : Spares c s₀ s) : Spares c s₀ (s.writeRecord t q bs) := .set rfl (.writeBytes hs)

theorem Spares.haltQueue {t q code seq h} (hs : Spares c s₀ s) : Spares c s₀ (s.haltQueue t q code seq h) := by
  unfold State.haltQueue
  split
  · exact hs
  · exact .bump rfl (.set rfl (.set rfl (.setTile hs)))

theorem Spares.haltSignal {t q} (hs : Spares c s₀ s) : Spares c s₀ (s.haltSignal t q) := .ite (.signalService hs) hs

theorem Spares.failOp {ue t slot code detail keep} (hs : Spares c s₀ s) : Spares c s₀ (s.failOp ue t slot code detail keep) := by
  unfold State.failOp
  split
  · exact hs
  · extract_lets q s1 s2
    have hs1 : Spares c s₀ s1 := by
      dsimp only [s1]
      split
      · exact .writeRecord (.tick hs)
      · exact .noteErr hs
    exact .haltSignal (.setOp (.haltQueue hs1))

theorem Spares.failHead {t q slot o which ue} (hs : Spares c s₀ s) : Spares c s₀ (s.failHead t q slot o which ue) := .set rfl (.failOp hs)

theorem Spares.failCoreWaits {k} (hs : Spares c s₀ s) : Spares c s₀ { s with cores := k } := hs.upd rfl

theorem Spares.failWaitersOn {t} (hs : Spares c s₀ s) : Spares c s₀ (s.failWaitersOn t) := by
  unfold State.failWaitersOn
  refine .failCoreWaits (.foldl hs fun _ _ h => .ite h (.foldl h fun u q h => ?_))
  split
  · exact h
  · exact .ite h (.ite (.failHead h) (.ite (.failHead h) h))

/-! ### Messages on links -/

theorem Spares.enqueue {l fs} (hs : Spares c s₀ s) : Spares c s₀ (s.enqueue l fs) := .foldl hs fun _ _ h => .setLink h

theorem Spares.moveTo {dest l} (hs : Spares c s₀ s) : Spares c s₀ (s.moveTo dest l) := by
  unfold State.moveTo
  split
  · exact hs
  · exact .ite (.setLink hs) (.ite (.setLink hs) hs)

theorem Spares.sendBy {l m} (hs : Spares c s₀ s) : Spares c s₀ (s.sendBy l m) := .enqueue (.moveTo hs)
theorem Spares.freeBuffers {l m} (hs : Spares c s₀ s) : Spares c s₀ (s.freeBuffers l m) := .ite (.foldl hs fun _ _ h => .setLink h) hs
theorem Spares.intoPark {l m} (hs : Spares c s₀ s) : Spares c s₀ (s.intoPark l m) := .bump rfl (.lose (.freeBuffers hs))

theorem Spares.fillPark {p} (hs : Spares c s₀ s) : Spares c s₀ (s.fillPark p) :=
  .foldl hs fun _ _ h => .ite (.intoPark (.setParked h fun h0 => by rw [h0, List.map_nil])) h

theorem Spares.unparkOne {p} (hs : Spares c s₀ s) : Spares c s₀ (s.unparkOne p) := by
  unfold State.unparkOne
  split
  · exact hs
  next x _ =>
    extract_lets s1
    have hs1 : Spares c s₀ s1 := .setParked hs fun h => by rw [h, List.erase_nil]
    exact .ite (.freeBuffers hs1) (.fillPark hs1)

theorem Spares.dropParked {pick count} (hs : Spares c s₀ s) (hcount : ∀ u v, Spares c s₀ u → Spares c s₀ (count u v)) :
    Spares c s₀ (s.dropParked pick count) := .foldl hs fun _ _ h => hcount _ _ (.unparkOne h)

/-! ### Reduction -/

theorem Spares.sendAbort {m ctx gen dest fwd} (hs : Spares c s₀ s) : Spares c s₀ (s.sendAbort m ctx gen dest fwd) := by
  unfold State.sendAbort
  extract_lets s1
  have hs1 : Spares c s₀ s1 := hs.upd rfl
  split
  · exact .bump rfl (.sendBy hs1)
  · exact hs1

theorem Spares.noteRdcErr {b code dev link} (hs : Spares c s₀ s) : Spares c s₀ (s.noteRdcErr b code dev link) := by
  unfold State.noteRdcErr
  extract_lets _ s1 s2
  have hs1 : Spares c s₀ s1 := .set rfl (.set rfl (.set rfl (.set rfl hs)))
  have hs2 : Spares c s₀ s2 := .set rfl hs1
  exact .ite (.bump rfl hs2) hs2

theorem Spares.loseRegions {b} (hs : Spares c s₀ s) : Spares c s₀ (s.loseRegions b) :=
  .ite (.lose (.ite (.lose hs) (.lose (.lose hs)))) hs

theorem Spares.sendAborts {b code pos dev} (hs : Spares c s₀ s) : Spares c s₀ (s.sendAborts b code pos dev) := by
  unfold State.sendAborts
  extract_lets _ _ s1
  have hs1 : Spares c s₀ s1 := .sendAbort hs
  clear_value s1
  exact .ite (hs1.upd rfl) (.sendAbort hs1)

theorem Spares.dropUse {b code pos dev} (hs : Spares c s₀ s) : Spares c s₀ (s.dropUse b code pos dev) := by
  unfold State.dropUse
  extract_lets scaled s1
  have hs1 : Spares c s₀ s1 := Spares.upd (hs.setBuckets fun h => by rw [h, List.filter_nil]) rfl
  clear_value s1
  exact .ite hs1 (hs1.upd rfl)

theorem Spares.failUse {b code pos dev link check abort} (hs : Spares c s₀ s) : Spares c s₀ (s.failUse b code pos dev link check abort) := by
  unfold State.failUse State.failUseWith
  extract_lets s3 s4 s5
  have hs3 : Spares c s₀ s3 := .loseRegions (.noteRdcErr (.dropUse hs))
  have hs4 : Spares c s₀ s4 := .dropParked hs3 fun _ _ h => .bump rfl h
  have hs5 : Spares c s₀ s5 := .ite (.modOp hs4) hs4
  exact .ite (.sendAborts hs5) hs5

theorem Spares.rdcLinkDown {l lost} (hs : Spares c s₀ s) : Spares c s₀ (s.rdcLinkDown l lost) := by
  unfold State.rdcLinkDown
  refine .foldl hs fun u e h => ?_
  split
  · exact .failUse h
  · exact h

theorem Spares.rdcRestart {reached} (hs : Spares c s₀ s) : Spares c s₀ (s.rdcRestart reached) :=
  Spares.upd (hs.setBuckets (bs := s.buckets.filter fun b => !reached b.g) fun h => by rw [h, List.filter_nil]) rfl

/-! ### Links and engines -/

theorem Spares.linkTo {l st} (hs : Spares c s₀ s) : Spares c s₀ (s.linkTo l st) := .setLink hs

theorem Spares.abandonRequests {pick why} (hs : Spares c s₀ s) : Spares c s₀ (s.abandonRequests pick why) :=
  .foldl (hs.upd rfl) fun _ _ h => .modOp h

theorem Spares.leaveUp {l st cause} (hs : Spares c s₀ s) : Spares c s₀ (s.leaveUp l st cause) := by
  unfold State.leaveUp
  split
  · exact hs
  · extract_lets lost peer _ s1 s2 s3 s4 s5 s6 s7 s8
    have hs4 : Spares c s₀ s4 := .set rfl (.rdcLinkDown (.abandonRequests (.setLink hs)))
    have hs5 : Spares c s₀ s5 := by
      dsimp only [s5]
      split
      · exact .set rfl hs4
      · exact hs4
    have hs7 : Spares c s₀ s7 := .alarm (.ite (.bump rfl hs5) (.ite (.bump rfl hs5) hs5))
    exact .event (.ite (.signalService hs7) hs7)

theorem Spares.wordSent {l} (hs : Spares c s₀ s) : Spares c s₀ (s.wordSent l) := .ite (.bump rfl (.setLink hs)) (.setLink hs)
theorem Spares.bareFrame {l dark retrain} (hs : Spares c s₀ s) : Spares c s₀ (s.bareFrame l dark retrain) := (Spares.wordSent hs).upd rfl

theorem Spares.darken {ls cause} (hs : Spares c s₀ s) : Spares c s₀ (s.darken ls cause) :=
  .foldl hs fun _ _ h => .ite h (.linkTo (.leaveUp (.bareFrame (.bareFrame h))))

theorem Spares.showService {e v} (hs : Spares c s₀ s) : Spares c s₀ (s.showService e v) := .foldl hs fun _ _ h => .set rfl h
theorem Spares.attempt {l} (hs : Spares c s₀ s) : Spares c s₀ (s.attempt l) := .setLink (.set rfl hs)
theorem Spares.maybeTrain {l} (hs : Spares c s₀ s) : Spares c s₀ (s.maybeTrain l) := .ite (.attempt (.setLink hs)) hs
theorem Spares.bring {l} (hs : Spares c s₀ s) : Spares c s₀ (s.bring l) := .ite (.maybeTrain (.linkTo hs)) hs
theorem Spares.flinkCommitted {l} (hs : Spares c s₀ s) : Spares c s₀ (s.flinkCommitted l) := .ite (.darken hs) (.maybeTrain (.bring hs))

theorem Spares.linksOnBlend (hs : Spares c s₀ s) : Spares c s₀ s.linksOnBlend :=
  .foldl hs fun _ _ h => .ite (.darken (.setLink h)) (.ite (.maybeTrain (.linkTo (.setLink h))) (.bring (.setLink h)))

end

/-! ### Domains switched: their blocks are reset -/

section
variable {s₀ s : State}

theorem Spares.orphanBuckets {t} (hs : Spares false s₀ s) : Spares false s₀ (s.orphanBuckets t) :=
  .setBuckets hs fun h => by rw [h, List.map_nil]

theorem Spares.dropPasses {t} (hs : Spares false s₀ s) : Spares false s₀ (s.dropPasses t) := hs.upd rfl
theorem Spares.resetRequests {pick} (hs : Spares false s₀ s) : Spares false s₀ (s.resetRequests pick) := hs.upd rfl
theorem Spares.dropCores {t} (hs : Spares false s₀ s) : Spares false s₀ (s.dropCores t) := hs.upd rfl
theorem Spares.freshCounters {t} (hs : Spares false s₀ s) : Spares false s₀ (s.freshCounters t) := hs.upd rfl

theorem Spares.wipeTile {t} (hs : Spares false s₀ s) : Spares false s₀ (s.wipeTile t) :=
  .lose (.dropCores (.setTile (.resetPfx rfl (.resetPfx rfl (.resetPfx rfl (.resetRequests (.orphanBuckets (.dropPasses hs))))))))

theorem Spares.tileOff {t} (hs : Spares false s₀ s) : Spares false s₀ (s.tileOff t) := .freshCounters (.wipeTile (.failWaitersOn hs))

theorem Spares.dieReset {d off} (hs : Spares false s₀ s) : Spares false s₀ (s.dieReset d off) :=
  .setDie (.resetPfx rfl (.resetPfx rfl (.resetPfx rfl hs)))

theorem Spares.engineOff {e} (hs : Spares false s₀ s) : Spares false s₀ (s.engineOff e) := .showService (.setEngine (.darken hs))

theorem Spares.rdcReset {p} (hs : Spares false s₀ s) : Spares false s₀ (s.rdcReset p) :=
  .setParked (.rdcRestart (.foldl hs fun _ _ h => .ite (.loseRegions h) (.modOp (.loseRegions h)))) fun h => by rw [h, List.filter_nil]

theorem Spares.clearUncore {p} (hs : Spares false s₀ s) : Spares false s₀ (s.clearUncore p) :=
  .foldl (.clearCounters rfl (.clearCounters rfl hs)) fun _ _ h => .clearCounters rfl h

/-- What a link or a context command of a press die held is gone. -/
theorem Spares.setDigests {ds cs} (hs : Spares false s₀ s) : Spares false s₀ { s with digests := ds, ctxCmds := cs } := hs.upd rfl

theorem Spares.uncoreReset {p} (hs : Spares false s₀ s) : Spares false s₀ (s.uncoreReset p) :=
  .setDigests (.foldl (.resetFields rfl (.resetFields rfl (.rdcReset hs))) fun _ _ h => .setLink (.resetFields rfl h))

theorem Spares.setPower {w} (hs : Spares false s₀ s) : Spares false s₀ { s with power := w } := hs.upd rfl

theorem Spares.uncoreOff {p} (hs : Spares false s₀ s) : Spares false s₀ (s.uncoreOff p) := by
  unfold State.uncoreOff
  extract_lets s1 s2 last
  have hs2 : Spares false s₀ s2 := .lose (.clearUncore (.uncoreReset (.darken hs)))
  exact .ite (.setPower hs2) hs2

theorem Spares.setDomain {d on} (hs : Spares false s₀ s) : Spares false s₀ (s.setDomain d on) := .setPower hs

theorem Spares.switchOff {d} (hs : Spares false s₀ s) : Spares false s₀ (s.switchOff d) :=
  .ite (.setDomain hs) (.setDomain (.ite (.tileOff hs) (.ite (.dieReset hs) (.ite (.engineOff hs) (.ite (.uncoreOff hs) hs)))))

theorem Spares.switchBegin {d} (hs : Spares false s₀ s) : Spares false s₀ (s.switchBegin d) := .ite hs (.setPower hs)

theorem Spares.planDomains {mask} (hs : Spares false s₀ s) : Spares false s₀ (s.planDomains mask) :=
  .foldl (.foldl hs fun _ _ h => .ite h (.switchOff h)) fun _ _ h => .ite (.switchBegin h) h

end

end Sys2Proof.Machine
end

section
/-!
PROOFS. O3: the effects of a commit leave COMMIT_STATUS alone, and the three results of a commit.
-/

namespace Sys2Proof.Machine

theorem Spares.mapTokens {c : Bool} {s₀ s : State} {d f} (hs : Spares c s₀ s) : Spares c s₀ (s.mapTokens d f) := hs.upd rfl

theorem Spares.commitEffects {c : Bool} {s₀ s old : State} {p i} (hs : Spares c s₀ s) : Spares c s₀ (s.commitEffects old p i) := by
  have hseq : ∀ {u : State} {k}, Spares c s₀ u → Spares c s₀ { u with ringSeq := k } := fun hu => hu.upd rfl
  unfold State.commitEffects
  split
  · exact .foldl hs fun _ _ h => .ite (hseq (.set rfl (.set rfl h))) h
  · exact .foldl hs fun _ _ h => .ite (.set rfl (.set rfl (.set rfl (.set rfl (.set rfl h))))) h
  · exact .ite (.set rfl (.set rfl hs)) hs
  · exact .flinkCommitted hs
  · exact .mapTokens hs
  · exact hs

theorem State.word_status_commitEffects (s u : State) (p : Pfx) (i : Nat) :
    (u.commitEffects s p i).word (statusAddr p i) = u.word (statusAddr p i) :=
  (Spares.commitEffects (.refl (c := true) u)).status rfl _ (statusAddr_mod p i)

/-! ### The three results -/

/-- GO captures the staged copy and starts the checks (R40). -/
theorem commitGo_results (s : State) (p : Pfx) (i : Nat) (hst : stages p = true) (hi : i < (blockOf p).insts)
    (hd : ((blockDomain p i).elim true fun d => s.domainOn d) = true) (hc : s.checking.contains (pfxBase p i) = false)
    (ha : s.applying = false) (hwf : smWf s.word s.staged) :
    ∃ t, exec (.commitGo p i) s = .next t ∧ t = { s with ctl := t.ctl, captured := t.captured, checking := s.checking ++ [pfxBase p i] } ∧
      fieldOf (t.word (statusAddr p i)) 15 14 = 1 ∧ (∀ x, x ≠ statusAddr p i → t.word x = s.word x) ∧
      ∀ x, pfxBase p i ≤ x → x < pfxBase p i + 0x1000 → x ≠ statusAddr p i → t.capturedWord x = s.stagedWord x := by
  have hgo := State.commitGo_eq hst hi hd
  rw [hc, ha, Bool.or_self, if_neg Bool.false_ne_true] at hgo
  have hcap : ∀ x, pfxBase p i ≤ x → x < pfxBase p i + 0x1000 → (s.capture (pfxBase p i)).capturedWord x = s.stagedWord x :=
    fun x hlo hhi => s.capturedWord_capture _ hwf.1 hlo hhi
  have hword : ∀ x, (s.capture (pfxBase p i)).word x = s.word x := fun _ => rfl
  have hframe : ∃ k, s.capture (pfxBase p i) = { s with captured := k, checking := s.checking ++ [pfxBase p i] } := ⟨_, rfl⟩
  refine ⟨_, exec_commitGo s hgo, ?_⟩
  generalize fieldOf (s.word (statusAddr p i)) 31 16 = code
  generalize fieldOf (s.word (statusAddr p i)) 11 0 = off
  generalize s.capture (pfxBase p i) = u at *
  obtain ⟨hstate, _, _, _⟩ := u.fields_commitStatus p i 1 code off
  have hne := fun x (hx : x ≠ statusAddr p i) => u.word_commitStatus_ne p i 1 code off hx
  obtain ⟨k, rfl⟩ := hframe
  obtain ⟨c, hc'⟩ := State.commitStatus_frame { s with captured := k, checking := s.checking ++ [pfxBase p i] } p i 1 code off
  rw [hc'] at hstate hne ⊢
  exact ⟨rfl, hstate, fun x hx => (hne x hx).trans (hword x), fun x hlo hhi hx => (smGet_congr _ _ _ _ (hne x hx)).trans (hcap x hlo hhi)⟩

theorem exec_commitCheckDone {s t : State} {p : Pfx} {i : Nat} (h : s.commitCheckDone p i = t) : exec (.commitCheckDone p i) s = .next t :=
  congrArg Host.Outcome.next h

section
variable {s : State} {p : Pfx} {i : Nat} (hc : s.checking.contains (pfxBase p i) = true)
include hc

theorem State.commitCheckDone_accept (h : (s.checksOf p i).find? (fun c => !c.1) = none) : s.commitCheckDone p i = s.commitAccept p i := by
  rw [State.commitCheckDone, if_pos hc, h]

theorem State.commitCheckDone_refuse {code off : Nat} (h : (s.checksOf p i).find? (fun c => !c.1) = some (false, code, off)) :
    s.commitCheckDone p i = s.commitRefuse p i code off := by
  rw [State.commitCheckDone, if_pos hc, h]

end

/-- Where every check holds, the commit is accepted (R41). -/
theorem commitAccept_results (s : State) (p : Pfx) (i : Nat) (hc : s.checking.contains (pfxBase p i) = true)
    (hall : (s.checksOf p i).all (fun c => c.1) = true) :
    ∃ t, exec (.commitCheckDone p i) s = .next t ∧ t.checking.contains (pfxBase p i) = false ∧
      fieldOf (t.word (statusAddr p i)) 31 16 = 0 ∧ fieldOf (t.word (statusAddr p i)) 15 14 = 0 ∧
      fieldOf (t.word (statusAddr p i)) 63 32 = (fieldOf (s.word (statusAddr p i)) 63 32 + 1) % 2 ^ 32 ∧
      (p ∉ [.tile, .opq, .hkc, .flink, .cwr] →
        t = { s with ctl := t.ctl, staged := t.staged, captured := t.captured, checking := t.checking } ∧
        (∀ x ∈ s.capturedAddrs (pfxBase p i), x ≠ statusAddr p i → t.word x = mergeBits (bitsOf x [.st]) (s.word x) (s.capturedWord x)) ∧
        (∀ x, x ∉ s.capturedAddrs (pfxBase p i) → x ≠ statusAddr p i → t.word x = s.word x) ∧
        (s.staged.Pairwise (fun a b => a.1 < b.1) → ∀ x, x ≠ statusAddr p i → t.stagedWord x = s.stagedWord x)) := by
  have hnone : ((s.checksOf p i).find? fun c => !c.1) = none :=
    List.find?_eq_none.2 fun c hc => by simp [List.all_eq_true.1 hall c hc]
  obtain ⟨hstate, hcode, hacc⟩ := s.status_commitAccept p i fun u => s.word_status_commitEffects u p i
  refine ⟨_, exec_commitCheckDone (State.commitCheckDone_accept hc hnone),
    s.checking_commitAccept p i, hcode, hstate, hacc, fun hp => ⟨?_, fun x hin hx => ?_,
    fun x hin hx => ?_, fun hwf x hx => State.stagedWord_commitAccept hp hwf hx⟩⟩
  · obtain ⟨c, k, h, g, ht⟩ := State.commitAccept_frame (s := s) (i := i) hp
    rw [ht]
  · rw [State.word_commitAccept_of_plain hp hx, if_pos hin]
  · rw [State.word_commitAccept_of_plain hp hx, if_neg hin]

/-- Where a check fails, the commit is refused with the first that does (R41). -/
theorem commitRefuse_results (s : State) (p : Pfx) (i code off : Nat) (hc : s.checking.contains (pfxBase p i) = true)
    (hfind : ((s.checksOf p i).find? fun c => !c.1) = some (false, code, off)) :
    ∃ t, exec (.commitCheckDone p i) s = .next t ∧ t = { s with ctl := t.ctl, captured := t.captured, checking := t.checking } ∧
      t.checking.contains (pfxBase p i) = false ∧
      fieldOf (t.word (statusAddr p i)) 31 16 = code % 2 ^ 16 ∧ fieldOf (t.word (statusAddr p i)) 11 0 = off % 2 ^ 12 ∧
      (code = Code.capInfeasible → t.get .pwrErrCode = Code.capInfeasible) ∧
      ∀ x, x ≠ statusAddr p i → (code = Code.capInfeasible → x ≠ Fld.pwrErrCode.addr 0 0) → t.word x = s.word x := by
  obtain ⟨_, hcode, hoff, _⟩ := s.fields_commitStatus p i 0 code off
  have hstatus := s.word_commitRefuse p i code off fun _ => statusAddr_ne_pwrErr p i
  refine ⟨_, exec_commitCheckDone (State.commitCheckDone_refuse hc hfind),
    ?_, s.checking_commitRefuse p i code off, ?_, ?_, fun hcap => ?_, fun x hx hcap => ?_⟩
  · obtain ⟨c, k, h, ht⟩ := s.commitRefuse_frame p i code off
    rw [ht]
  · rw [hstatus, hcode]
  · rw [hstatus, hoff]
  · rw [s.get_pwrErr_commitRefuse p i off hcap, hcap]
    decide
  · rw [s.word_commitRefuse p i code off hcap, s.word_commitStatus_ne p i 0 code off hx]

end Sys2Proof.Machine
end

section
open Sys2Proof Sys2Proof.Machine

/-- Settles O3: what GO captures, and the two ends of the checks. -/
theorem commitsRun : Obligations.CommitsRun :=
  ⟨commitGo_results, fun s p i _ _ => commitAccept_results s p i, commitRefuse_results⟩

end

section
/-!
PROOFS. O5: parked messages are gone once reduction restarts everywhere (R319, R54).
-/

namespace Sys2Proof.Machine

variable (s : State)

/-- What tells parked messages apart: whether credits are withheld for one changes while it is parked. -/
def Parked.key (x : Parked) : Nat × Msg := (x.link, x.msg)

theorem Parked.same_iff (x y : Parked) : x.same y = true ↔ x.key = y.key := by
  simp [Parked.same, Parked.key]

/-- The messages parked. -/
def State.parkedKeys (s : State) : List (Nat × Msg) := s.parked.map Parked.key

theorem State.freeBuffers_parked (l : Nat) (m : Msg) : (s.freeBuffers l m).parked = s.parked := by
  unfold State.freeBuffers
  split
  · exact List.foldlRecOn (motive := fun u : State => u.parked = s.parked) _ _ rfl fun u h _ _ => h
  · rfl

theorem State.intoPark_parked (l : Nat) (m : Msg) : (s.intoPark l m).parked = s.parked := s.freeBuffers_parked l m

/-- Messages that enter the park stay the messages that they are. -/
theorem State.fillPark_keys (p : Nat) : (s.fillPark p).parkedKeys = s.parkedKeys := by
  unfold State.fillPark
  refine List.foldlRecOn (motive := fun u => State.parkedKeys u = s.parkedKeys) _ _ rfl fun u hu x _ => ?_
  split
  · rw [State.parkedKeys, State.intoPark_parked, ← hu, State.parkedKeys]
    dsimp only
    rw [List.map_map]
    refine List.map_congr_left fun y _ => ?_
    dsimp only [Function.comp_apply]
    split <;> rfl
  · exact hu

/-- A parked message taken away: that one, and no other. -/
theorem State.unparkOne_keys {p : Parked} {ks : List (Nat × Msg)} (h : s.parkedKeys.Perm (p.key :: ks)) :
    (s.unparkOne p).parkedKeys.Perm ks := by
  have hmem : p.key ∈ s.parkedKeys := h.mem_iff.2 List.mem_cons_self
  obtain ⟨y, hy, hkey⟩ := List.mem_map.1 hmem
  unfold State.unparkOne
  split
  next hnone => exact absurd ((Parked.same_iff p y).2 hkey.symm) (by simpa using List.find?_eq_none.1 hnone y hy)
  next x hx =>
    have hkx : p.key = x.key := (Parked.same_iff p x).1 (List.find?_some hx)
    have herase : s.parkedKeys.Perm (x.key :: (s.parked.erase x).map Parked.key) :=
      (List.perm_cons_erase (List.mem_of_find?_eq_some hx)).map Parked.key
    have hrest : ((s.parked.erase x).map Parked.key).Perm ks := (List.perm_cons x.key).1 ((herase.symm.trans h).trans (by rw [hkx]))
    extract_lets s1
    split
    · rw [State.parkedKeys, State.freeBuffers_parked]
      exact hrest
    · rw [State.fillPark_keys]
      exact hrest

theorem unparkAll_keys {count : State → Parked → State} (hcount : ∀ u p, (count u p).parked = u.parked) {ps : List Parked} {u : State}
    (h : u.parkedKeys.Perm (ps.map Parked.key)) : (ps.foldl (fun s p => count (s.unparkOne p) p) u).parked = [] := by
  induction ps generalizing u with
  | nil => exact List.map_eq_nil_iff.1 h.eq_nil
  | cons p ps ih =>
    refine ih ?_
    rw [State.parkedKeys, hcount]
    exact u.unparkOne_keys h

/-- Every parked message dropped leaves none. -/
theorem State.dropParked_all {count : State → Parked → State} (hcount : ∀ u p, (count u p).parked = u.parked) :
    (s.dropParked (fun _ => true) count).parked = [] := by
  rw [State.dropParked, List.filter_true]
  exact unparkAll_keys hcount (.refl _)

theorem Spares.rdcFresh {c : Bool} {s₀ s : State} (hs : Spares c s₀ s) : Spares c s₀ s.rdcFresh :=
  .rdcRestart (.dropParked hs fun _ _ h => .bump rfl h)

theorem State.rdcFresh_parked : s.rdcFresh.parked = [] := s.dropParked_all fun u _ => u.bump_parked _ _ _ _

theorem State.rdcFresh_buckets : s.rdcFresh.buckets = [] := List.filter_eq_nil_iff.2 fun _ _ => by simp

end Sys2Proof.Machine
end

section
/-!
PROOFS. O5: the commands and events of a blend (R52 to R54).
-/

namespace Sys2Proof.Machine

variable (s : State)

/-! ### BLEND_STATUS written -/

theorem State.get_of_word {s t : State} {f : Fld} {i j : Nat} (h : t.word (f.addr i j) = s.word (f.addr i j)) : t.get f i j = s.get f i j := by
  rw [State.get, h, State.get]

/-- A field replaced touches the registers alone. -/
theorem State.set_eq (f : Fld) (i j v : Nat) : s.set f i j v = { s with ctl := (s.set f i j v).ctl } := rfl

theorem State.word_setBlend (b : BlendState) (x : Nat) : State.word { s with blend := b } x = s.word x := rfl

theorem State.get_setBlend (b : BlendState) (f : Fld) (i j : Nat) : State.get { s with blend := b } f i j = s.get f i j := rfl

/-- What touches the registers alone, after what touches the registers alone. -/
theorem State.ctl_only_trans {s t u : State} (h : t = { s with ctl := t.ctl }) (k : u = { t with ctl := u.ctl }) : u = { s with ctl := u.ctl } := by
  rw [h] at k
  exact k

/-- STATE and CODE stand in one word. -/
theorem State.word_setCode_ne (v : Nat) {x : Nat} (h : x ≠ Fld.blendStatusState.addr 0 0) :
    (s.set .blendStatusCode 0 0 v).word x = s.word x := by
  rw [State.word_set, if_neg (show ¬ x = Fld.blendStatusCode.addr 0 0 from h)]

theorem State.word_setState_ne (v : Nat) {x : Nat} (h : x ≠ Fld.blendStatusState.addr 0 0) :
    (s.set .blendStatusState 0 0 v).word x = s.word x := by
  rw [State.word_set, if_neg h]

/-- CODE written: STATE and every other register are as before. -/
theorem State.setCode_results {v : Nat} (hv : v < 2 ^ 16) :
    let t := s.set .blendStatusCode 0 0 v
    t = { s with ctl := t.ctl } ∧ t.blendState = s.blendState ∧ t.get .blendStatusCode = v ∧
      ∀ x, x ≠ Fld.blendStatusState.addr 0 0 → t.word x = s.word x :=
  ⟨s.set_eq _ _ _ _, s.get_set_apart _ _ _ _ _ _ _ rfl (by decide) (by decide) (by decide) (by decide),
    (s.get_set_self _ _ _ _ (by decide) (by decide)).trans (Nat.mod_eq_of_lt hv), fun _ hx => s.word_setCode_ne v hx⟩

/-- STATE written: CODE and every other register are as before. -/
theorem State.setState_results {v : Nat} (hv : v < 2 ^ 3) :
    let t := s.set .blendStatusState 0 0 v
    t = { s with ctl := t.ctl } ∧ t.blendState = v ∧ t.get .blendStatusCode = s.get .blendStatusCode ∧
      ∀ x, x ≠ Fld.blendStatusState.addr 0 0 → t.word x = s.word x :=
  ⟨s.set_eq _ _ _ _, (s.get_set_self _ _ _ _ (by decide) (by decide)).trans (Nat.mod_eq_of_lt hv),
    s.get_set_apart _ _ _ _ _ _ _ rfl (by decide) (by decide) (by decide) (by decide), fun _ hx => s.word_setState_ne v hx⟩

/-- STATE and CODE written. -/
theorem State.blendStatus_results {st : Nat} (hst : st < 2 ^ 3) (code : Nat) :
    let t := s.blendStatus st code
    t = { s with ctl := t.ctl } ∧ t.blendState = st ∧ t.get .blendStatusCode = code % 2 ^ 16 ∧
      ∀ x, x ≠ Fld.blendStatusState.addr 0 0 → t.word x = s.word x := by
  obtain ⟨hframe, hstate, _, hword⟩ := s.setState_results hst
  unfold State.blendStatus
  generalize s.set .blendStatusState 0 0 st = u at *
  refine ⟨State.ctl_only_trans hframe (u.set_eq _ _ _ _), ?_, State.get_set_self u _ _ _ _ (by decide) (by decide), fun x hx => ?_⟩
  · rw [State.blendState, State.get_set_apart _ .blendStatusCode .blendStatusState _ _ _ _ _ rfl (by decide) (by decide) (by decide)
      (by decide), ← State.blendState, hstate]
  · rw [State.word_setCode_ne _ _ hx, hword x hx]

/-- The place of a failure written to BLEND_ERR_LOC. -/
theorem State.setErrLoc_results (sec off : Nat) :
    let t := (s.set .blendErrLocSection 0 0 sec).set .blendErrLocOffset 0 0 off
    t = { s with ctl := t.ctl } ∧ t.get .blendErrLocSection = sec % 2 ^ 16 ∧ t.get .blendErrLocOffset = off % 2 ^ 32 ∧
      ∀ x, x ≠ Fld.blendErrLocSection.addr 0 0 → t.word x = s.word x := by
  refine ⟨State.ctl_only_trans (s.set_eq _ _ _ _) (State.set_eq _ _ _ _ _), ?_, State.get_set_self _ _ _ _ _ (by decide) (by decide),
    fun x hx => ?_⟩
  · rw [State.get_set_apart _ .blendErrLocOffset .blendErrLocSection _ _ _ _ _ rfl (by decide) (by decide) (by decide) (by decide),
      State.get_set_self _ _ _ _ _ (by decide) (by decide)]
    rfl
  · rw [State.word_set, if_neg (show ¬ x = Fld.blendErrLocOffset.addr 0 0 from hx), State.word_set, if_neg hx]

/-! ### A write of BLEND_CTRL, in the order of R52 -/

/-- A blend is being checked, waited for or applied. -/
abbrev State.blendBusy (s : State) : Prop := s.blendState = bsChecking ∨ s.blendState = bsWaiting ∨ s.blendState = bsApplying

theorem State.blendCtrl_both : s.blendCtrl true true = s.set .blendStatusCode 0 0 Code.blendCtrlInvalid := by
  rw [State.blendCtrl, if_pos (by decide)]

/-- One command alone, while a blend is being checked, waited for or applied. -/
theorem State.blendCtrl_busy {check : Bool} (h : s.blendBusy) :
    s.blendCtrl check (!check) = s.set .blendStatusCode 0 0 Code.blendApplyBusy := by
  rw [State.blendCtrl, if_neg (by simp), if_neg (by simp), if_pos h]

theorem State.blendCtrl_check (h : ¬ s.blendBusy) : s.blendCtrl true false = s.blendCopy := by
  rw [State.blendCtrl, if_neg (by decide), if_neg (by decide), if_neg h, if_pos rfl]

theorem State.blendCtrl_apply (h : ¬ s.blendBusy) : s.blendCtrl false true =
    if s.blendState ≠ bsChecked then s.set .blendStatusCode 0 0 Code.blendNotChecked else s.set .blendStatusState 0 0 bsWaiting := by
  rw [State.blendCtrl, if_neg (by decide), if_neg (by decide), if_neg h, if_neg Bool.false_ne_true]

/-- A state that none of the three is. -/
theorem State.not_blendBusy {st : Nat} (h : s.blendState = st) (h1 : st ≠ bsChecking) (h2 : st ≠ bsWaiting) (h3 : st ≠ bsApplying) :
    ¬ s.blendBusy := by
  unfold State.blendBusy
  rw [h]
  exact fun hb => hb.elim h1 fun hb => hb.elim h2 h3

theorem exec_blendCheck {t : State} {apply : Bool} (h : s.blendCtrl true apply = t) : exec (.blendCheck apply) s = .next t :=
  congrArg Host.Outcome.next h

theorem exec_blendApply {t : State} {check : Bool} (h : s.blendCtrl check true = t) : exec (.blendApply check) s = .next t :=
  congrArg Host.Outcome.next h

theorem blendBoth_results (s : State) : ∃ t, exec (.blendCheck true) s = .next t ∧ exec (.blendApply true) s = .next t ∧
    t = { s with ctl := t.ctl } ∧ t.blendState = s.blendState ∧ t.get .blendStatusCode = Code.blendCtrlInvalid ∧
    ∀ x, x ≠ Fld.blendStatusState.addr 0 0 → t.word x = s.word x :=
  ⟨_, exec_blendCheck s s.blendCtrl_both, exec_blendApply s s.blendCtrl_both, s.setCode_results (by decide)⟩

theorem blendBusy_results (s : State) (h : s.blendBusy) :
    ∃ t, exec (.blendCheck false) s = .next t ∧ exec (.blendApply false) s = .next t ∧ t = { s with ctl := t.ctl } ∧
      t.blendState = s.blendState ∧ t.get .blendStatusCode = Code.blendApplyBusy ∧
      ∀ x, x ≠ Fld.blendStatusState.addr 0 0 → t.word x = s.word x :=
  ⟨_, exec_blendCheck s (s.blendCtrl_busy (check := true) h), exec_blendApply s (s.blendCtrl_busy (check := false) h),
    s.setCode_results (by decide)⟩

theorem blendCheck_results (s : State) (h1 : s.blendState ≠ bsChecking) (h2 : s.blendState ≠ bsWaiting) (h3 : s.blendState ≠ bsApplying) :
    ∃ t, exec (.blendCheck false) s = .next t ∧ t = { s with ctl := t.ctl, blend := t.blend } ∧ t.blendState = bsChecking ∧
      t.blend = { s.blend with store := s.readBytes (sramBase + s.get .blendSrcOffset) (s.get .blendLenBytes), checked := none } ∧
      t.get .blendStatusCode = s.get .blendStatusCode ∧ ∀ x, x ≠ Fld.blendStatusState.addr 0 0 → t.word x = s.word x := by
  obtain ⟨hframe, hstate, hcode, hword⟩ := s.setState_results (v := bsChecking) (by decide)
  refine ⟨_, exec_blendCheck s (s.blendCtrl_check (s.not_blendBusy rfl h1 h2 h3)), ?_⟩
  unfold State.blendCopy
  generalize s.readBytes _ _ = img
  generalize s.set .blendStatusState 0 0 bsChecking = u at *
  exact ⟨by rw [hframe], hstate, rfl, hcode, hword⟩

theorem blendNotChecked_results (s : State) (h : s.blendState = bsEmpty ∨ s.blendState = bsRefused) :
    ∃ t, exec (.blendApply false) s = .next t ∧ t = { s with ctl := t.ctl } ∧ t.blendState = s.blendState ∧
      t.get .blendStatusCode = Code.blendNotChecked ∧ ∀ x, x ≠ Fld.blendStatusState.addr 0 0 → t.word x = s.word x := by
  have hfree : ¬ s.blendBusy ∧ s.blendState ≠ bsChecked := by
    rcases h with h | h
    · exact ⟨s.not_blendBusy h (by decide) (by decide) (by decide), by rw [h]; decide⟩
    · exact ⟨s.not_blendBusy h (by decide) (by decide) (by decide), by rw [h]; decide⟩
  exact ⟨_, exec_blendApply s ((s.blendCtrl_apply hfree.1).trans (if_pos hfree.2)), s.setCode_results (by decide)⟩

theorem blendApply_results (s : State) (h : s.blendState = bsChecked) :
    ∃ t, exec (.blendApply false) s = .next t ∧ t = { s with ctl := t.ctl } ∧ t.blendState = bsWaiting ∧
      t.get .blendStatusCode = s.get .blendStatusCode ∧ ∀ x, x ≠ Fld.blendStatusState.addr 0 0 → t.word x = s.word x := by
  have hfree := s.not_blendBusy h (by decide) (by decide) (by decide)
  exact ⟨_, exec_blendApply s ((s.blendCtrl_apply hfree).trans (if_neg (by simp [h]))), s.setState_results (by decide)⟩

/-! ### The events of a blend -/

theorem exec_blendCheckDone {t : State} (h : s.blendCheckDone = t) : exec .blendCheckDone s = .next t := congrArg Host.Outcome.next h

theorem State.blendCheckDone_ok {b : Blend} (h : s.blendState = bsChecking) (hv : blendVerdict s s.blend.store = .ok b) :
    s.blendCheckDone = { s.blendStatus bsChecked 0 with blend := { s.blend with checked := some b } } := by
  rw [State.blendCheckDone, if_neg (not_not.2 h), hv]

theorem State.blendCheckDone_error {e : ImgFail} (h : s.blendState = bsChecking) (hv : blendVerdict s s.blend.store = .error e) :
    s.blendCheckDone =
      ((s.blendStatus bsRefused e.code).set .blendErrLocSection 0 0 e.sec).set .blendErrLocOffset 0 0 e.off := by
  rw [State.blendCheckDone, if_neg (not_not.2 h), hv]

/-- A blend without a fault is CHECKED (R52). -/
theorem blendCheckDone_ok_results (s : State) {b : Blend} (h : s.blendState = bsChecking) (hv : blendVerdict s s.blend.store = .ok b) :
    ∃ t, exec .blendCheckDone s = .next t ∧ t = { s with ctl := t.ctl, blend := { s.blend with checked := some b } } ∧
      t.blendState = bsChecked ∧ t.get .blendStatusCode = 0 ∧ ∀ x, x ≠ Fld.blendStatusState.addr 0 0 → t.word x = s.word x := by
  obtain ⟨hframe, hstate, hcode, hword⟩ := s.blendStatus_results (st := bsChecked) (by decide) 0
  refine ⟨_, exec_blendCheckDone s (s.blendCheckDone_ok h hv), ?_⟩
  generalize s.blendStatus bsChecked 0 = u at *
  exact ⟨by rw [hframe], (u.get_setBlend _ _ _ _).trans hstate, (u.get_setBlend _ _ _ _).trans hcode,
    fun x hx => (u.word_setBlend _ x).trans (hword x hx)⟩

/-- One with a fault is REFUSED, and its first fault's code and place are shown (R52). -/
theorem blendCheckDone_error_results (s : State) {e : ImgFail} (h : s.blendState = bsChecking)
    (hv : blendVerdict s s.blend.store = .error e) :
    ∃ t, exec .blendCheckDone s = .next t ∧ t = { s with ctl := t.ctl } ∧ t.blendState = bsRefused ∧
      t.get .blendStatusCode = e.code % 2 ^ 16 ∧ t.get .blendErrLocSection = e.sec % 2 ^ 16 ∧ t.get .blendErrLocOffset = e.off % 2 ^ 32 ∧
      ∀ x, x ≠ Fld.blendStatusState.addr 0 0 → x ≠ Fld.blendErrLocSection.addr 0 0 → t.word x = s.word x := by
  obtain ⟨hframe, hstate, hcode, hword⟩ := s.blendStatus_results (st := bsRefused) (by decide) e.code
  refine ⟨_, exec_blendCheckDone s (s.blendCheckDone_error h hv), ?_⟩
  generalize s.blendStatus bsRefused e.code = u at *
  obtain ⟨hloc, hsec, hoff, hother⟩ := u.setErrLoc_results e.sec e.off
  exact ⟨State.ctl_only_trans hframe hloc, (State.get_of_word (hother _ (by decide))).trans hstate,
    (State.get_of_word (hother _ (by decide))).trans hcode, hsec, hoff, fun x hx hne => (hother x hne).trans (hword x hx)⟩

theorem blendQuiesce_results (s : State) (h : s.blendState = bsWaiting) (hq : s.quiesceMet = true) :
    ∃ t, exec .blendQuiescePoint s = .next t ∧ t = { s with ctl := t.ctl } ∧ t.blendState = bsApplying ∧
      t.get .blendStatusCode = s.get .blendStatusCode ∧ ∀ x, x ≠ Fld.blendStatusState.addr 0 0 → t.word x = s.word x :=
  ⟨_, congrArg Host.Outcome.next (if_pos ⟨h, hq⟩), s.setState_results (by decide)⟩

theorem blendTimeout_results (s : State) (h : s.blendState = bsWaiting) :
    ∃ t, exec .blendNotQuiesced s = .next t ∧ t = { s with ctl := t.ctl } ∧ t.blendState = bsChecked ∧
      t.get .blendStatusCode = Code.blendNotQuiesced ∧ ∀ x, x ≠ Fld.blendStatusState.addr 0 0 → t.word x = s.word x := by
  obtain ⟨hframe, hstate, hcode, hword⟩ := s.blendStatus_results (st := bsChecked) (by decide) Code.blendNotQuiesced
  exact ⟨_, congrArg Host.Outcome.next (if_pos h), hframe, hstate, hcode.trans (by decide), hword⟩

end Sys2Proof.Machine
end

section
/-!
PROOFS. O5: the commit point (R54).
-/

namespace Sys2Proof.Machine

variable (s : State)

theorem State.word_set_below {f : Fld} {i j v x : Nat} (h : x < f.addr i j) : (s.set f i j v).word x = s.word x := by
  rw [State.word_set, if_neg h.ne]

/-! ### The PWR block takes POWER_PLAN -/

section
variable (p : Pfx) (i : Nat)

theorem State.word_discardStaged_ne {x : Nat} (h : x ≠ statusAddr p i) : (s.discardStaged p i).word x = s.word x := by
  change (if s.checking.contains (pfxBase p i) then s.setWord (statusAddr p i) _ else s).word x = s.word x
  split
  · rw [State.word_setWord, if_neg h]
  · rfl

theorem State.blend_discardStaged : (s.discardStaged p i).blend = s.blend := by
  change (if s.checking.contains (pfxBase p i) then s.setWord (statusAddr p i) _ else s).blend = s.blend
  split
  · exact s.setWord_blend _ _
  · rfl

theorem State.staged_discardStaged : ∀ e ∈ (s.discardStaged p i).staged, e.1 < pfxBase p i ∨ pfxBase p i + 0x1000 ≤ e.1 :=
  fun _ he => of_decide_eq_true (List.mem_filter.1 he).2

end

/-- The fields of POWER_PLAN in force. -/
def State.planFields (s : State) (b : Blend) : State :=
  (((s.set .pwrCtlProfile 0 0 b.profile).set .pwrCapCapW 0 0 b.capW).set .pwrBallastRampMs 0 0 b.rampMs).set .pwrBallastFloorW 0 0 b.floorW

theorem State.powerPlan_eq (b : Blend) : s.powerPlan b = (s.planFields b).discardStaged .pwr 0 := rfl

theorem State.planFields_results (b : Blend) :
    let u := s.planFields b
    u.blend = s.blend ∧ (∀ x, x < 0x6000 → u.word x = s.word x) ∧ u.get .pwrCapCapW = b.capW % 2 ^ 16 ∧
      u.get .pwrCtlProfile = b.profile % 4 := by
  dsimp only
  unfold State.planFields
  refine ⟨?_, fun x hx => ?_, ?_, ?_⟩
  · rw [State.set_blend, State.set_blend, State.set_blend, State.set_blend]
  · rw [State.word_set_below _ (hx.trans_le (by decide)), State.word_set_below _ (hx.trans_le (by decide)),
      State.word_set_below _ (hx.trans_le (by decide)), State.word_set_below _ (hx.trans_le (by decide))]
  · rw [State.get_set_ne _ _ _ _ _ _ _ _ (by decide), State.get_set_ne _ _ _ _ _ _ _ _ (by decide),
      State.get_set_self _ _ _ _ _ (by decide) (by decide)]
    rfl
  · rw [State.get_set_ne _ _ _ _ _ _ _ _ (by decide), State.get_set_ne _ _ _ _ _ _ _ _ (by decide), State.get_set_ne _ _ _ _ _ _ _ _ (by decide),
      State.get_set_self _ _ _ _ _ (by decide) (by decide)]
    rfl

/-- The cap and the profile are the blend's, nothing of the PWR block is staged, and the blocks before it are as before (R395). -/
theorem State.powerPlan_results (b : Blend) :
    let u := s.powerPlan b
    u.blend = s.blend ∧ (∀ x, x < 0x6000 → u.word x = s.word x) ∧ u.get .pwrCapCapW = b.capW % 2 ^ 16 ∧
      u.get .pwrCtlProfile = b.profile % 4 ∧ ∀ e ∈ u.staged, e.1 < 0x6000 ∨ 0x7000 ≤ e.1 := by
  obtain ⟨hblend, hlow, hcap, hprofile⟩ := s.planFields_results b
  rw [State.powerPlan_eq]
  generalize s.planFields b = v at *
  have hbelow : ∀ x, x < 0x6000 → x ≠ statusAddr .pwr 0 := fun x hx => (hx.trans_le (by decide)).ne
  exact ⟨(v.blend_discardStaged _ _).trans hblend, fun x hx => (v.word_discardStaged_ne _ _ (hbelow x hx)).trans (hlow x hx),
    (State.get_of_word (v.word_discardStaged_ne _ _ (by decide))).trans hcap,
    (State.get_of_word (v.word_discardStaged_ne _ _ (by decide))).trans hprofile, v.staged_discardStaged .pwr 0⟩

/-! ### The blend in force -/

/-- BLEND_ACTIVE and BLEND_STATUS as a blend comes into force. -/
def State.showActive (s : State) (b : Blend) : State :=
  (List.range 4).foldl (fun s i => s.set .blendActiveDigest 0 i (leNat ((b.digest.drop (8 * i)).take 8)))
    ((s.blendStatus bsEmpty 0).set .blendActiveSerial 0 0 b.serial)

theorem State.setDigests_results (g : Nat → Nat) (is : List Nat) :
    let u := is.foldl (fun s i => s.set .blendActiveDigest 0 i (g i)) s
    u.blend = s.blend ∧ ∀ x, x < 0x40 → u.word x = s.word x := by
  refine List.foldlRecOn (motive := fun u : State => u.blend = s.blend ∧ ∀ x, x < 0x40 → u.word x = s.word x) _ _ ⟨rfl, fun _ _ => rfl⟩ ?_
  rintro u ⟨hblend, hword⟩ i _
  refine ⟨(u.set_blend _ _ _ _).trans hblend, fun x hx => ?_⟩
  rw [State.word_set_below _ (show x < Fld.blendActiveDigest.addr 0 i by simp only [Fld.addr, Fld.blendActiveDigest]; omega), hword x hx]

theorem State.showActive_results (b : Blend) :
    let u := s.showActive b
    u.blend = s.blend ∧ u.blendState = bsEmpty ∧ u.get .blendStatusCode = 0 ∧ u.get .blendActiveSerial = b.serial % 2 ^ 64 := by
  obtain ⟨hframe, hstate, hcode, _⟩ := s.blendStatus_results (st := bsEmpty) (by decide) 0
  unfold State.showActive
  generalize s.blendStatus bsEmpty 0 = u at *
  obtain ⟨hblend, hword⟩ := (u.set .blendActiveSerial 0 0 b.serial).setDigests_results
    (fun i => leNat ((b.digest.drop (8 * i)).take 8)) (List.range 4)
  refine ⟨?_, ?_, ?_, ?_⟩
  · rw [hblend, State.set_blend, hframe]
  · rw [State.blendState, State.get_of_word (hword _ (by decide)), State.get_set_ne _ _ _ _ _ _ _ _ (by decide)]
    exact hstate
  · rw [State.get_of_word (hword _ (by decide)), State.get_set_ne _ _ _ _ _ _ _ _ (by decide)]
    exact hcode
  · rw [State.get_of_word (hword _ (by decide)), State.get_set_self _ _ _ _ _ (by decide) (by decide)]
    rfl

/-- The blend is in force before domains switch and links follow it. -/
theorem State.enforce_eq (b : Blend) : ∃ u : State, u.blend = { s.blend with inForce := some b, checked := none } ∧
    s.enforce b = ((((u.showActive b).powerPlan b).planDomains b.domainOn).rdcFresh).linksOnBlend := by
  unfold State.enforce
  extract_lets old blend rel s1 s2 s3 s4
  refine ⟨s2, ?_, rfl⟩
  dsimp only [s2]
  split <;> rfl

/-- The commit point puts the checked blend in force (R54). -/
theorem blendCommit_results (s : State) (b : Blend) (hst : s.blendState = bsApplying) (hb : s.blend.checked = some b) :
    ∃ t, exec .blendCommitPoint s = .next t ∧ t.blend = { s.blend with inForce := some b, checked := none } ∧ t.blendState = bsEmpty ∧
      t.get .blendStatusCode = 0 ∧ t.get .blendActiveSerial = b.serial % 2 ^ 64 ∧ t.get .pwrCapCapW = b.capW % 2 ^ 16 ∧
      t.get .pwrCtlProfile = b.profile % 4 ∧ t.buckets = [] ∧ t.parked = [] ∧ (∀ e ∈ t.staged, e.1 < 0x6000 ∨ 0x7000 ≤ e.1) := by
  have hcommit : s.blendCommit = s.enforce b := by
    rw [State.blendCommit, hst, hb]
    rfl
  obtain ⟨u, hu, he⟩ := s.enforce_eq b
  obtain ⟨hblend, hstate, hcode, hserial⟩ := u.showActive_results b
  obtain ⟨hblend', hlow, hcap, hprofile, hstaged⟩ := (u.showActive b).powerPlan_results b
  generalize u.showActive b = v at *
  generalize v.powerPlan b = w at *
  have hfresh : Spares false w (w.planDomains b.domainOn).rdcFresh := .rdcFresh (.planDomains (.refl w))
  have hlinks : Spares false (w.planDomains b.domainOn).rdcFresh (w.planDomains b.domainOn).rdcFresh.linksOnBlend := .linksOnBlend (.refl _)
  have hall := hfresh.trans hlinks
  have hget : ∀ {f : Fld}, f.addr 0 0 < 0x6000 → (s.enforce b).get f = v.get f := fun {f} hf =>
    State.get_of_word (by rw [he, hall.low _ (hf.trans (by decide)), hlow _ hf])
  refine ⟨_, congrArg Host.Outcome.next hcommit, ?_, (hget (by decide)).trans hstate, (hget (by decide)).trans hcode,
    (hget (by decide)).trans hserial, ?_, ?_, ?_, ?_, fun e hmem => ?_⟩
  · rw [he, hall.blend, hblend', hblend, hu]
  · rw [he, State.get_of_word (hall.low _ (by decide)), hcap]
  · rw [he, State.get_of_word (hall.low _ (by decide)), hprofile]
  · rw [he]
    exact hlinks.buckets (State.rdcFresh_buckets _)
  · rw [he]
    exact hlinks.parked (State.rdcFresh_parked _)
  · rw [he] at hmem
    exact hstaged e (hall.staged e hmem)

end Sys2Proof.Machine
end

section
open Sys2Proof Sys2Proof.Machine

/-- Settles O5, command by command and event by event; a check that ends, by its verdict. -/
theorem blendSteps : Obligations.BlendSteps := by
  refine ⟨blendBoth_results, blendBusy_results, blendCheck_results, fun s h => ?_, blendNotChecked_results, blendApply_results,
    blendQuiesce_results, blendTimeout_results, blendCommit_results⟩
  cases hv : blendVerdict s s.blend.store with
  | ok b => exact blendCheckDone_ok_results s h hv
  | error e => exact blendCheckDone_error_results s h hv

end

section
/-!
PROOFS. O7: the start of the open-line and DAC tests, and what their findings leave in CASK_TEST_STATUS, CASK_ERR, the layers and the arrays.
-/

namespace Sys2Proof.Machine

variable {s : State} {d : Nat}

@[simp] theorem State.die_setWord (s : State) (a k : Nat) (v : W64) : (s.setWord a v).die k = s.die k := by
  rw [State.die, State.setWord_dies, State.die]

/-! ### CASK_ERR and CASK_TEST_STATUS (Tables 4.10, 4.12) -/

theorem State.caskErr_frame (s : State) (d code mac layer : Nat) (row : Bool) (line : Nat) :
    ∃ c, s.caskErr d code mac layer row line = { s with ctl := c } := by
  obtain ⟨c1, h1⟩ := s.set_frame .caskErrCode d 0 code
  obtain ⟨c2, h2⟩ := State.set_frame { s with ctl := c1 } .caskErrMacro d 0 mac
  obtain ⟨c3, h3⟩ := State.set_frame { s with ctl := c2 } .caskErrLayer d 0 layer
  obtain ⟨c4, h4⟩ := State.set_frame { s with ctl := c3 } .caskErrRow d 0 (if row then 1 else 0)
  obtain ⟨c5, h5⟩ := State.set_frame { s with ctl := c4 } .caskErrLine d 0 line
  exact ⟨c5, by rw [State.caskErr, h1, h2, h3, h4, h5]⟩

/-- All the fields of CASK_ERR lie in the word of CODE. -/
theorem State.word_caskErr {code mac layer line x : Nat} {row : Bool} (h : x ≠ Fld.caskErrCode.addr d 0) :
    (s.caskErr d code mac layer row line).word x = s.word x := by
  rw [State.caskErr, State.word_set, if_neg (show ¬ x = Fld.caskErrLine.addr d 0 from h), State.word_set,
    if_neg (show ¬ x = Fld.caskErrRow.addr d 0 from h), State.word_set, if_neg (show ¬ x = Fld.caskErrLayer.addr d 0 from h),
    State.word_set, if_neg (show ¬ x = Fld.caskErrMacro.addr d 0 from h), State.word_set, if_neg h]

theorem State.get_code_caskErr {code mac layer line : Nat} {row : Bool} :
    (s.caskErr d code mac layer row line).get .caskErrCode d = code % 2 ^ 16 := by
  rw [State.caskErr]
  rw [State.get_set_apart _ .caskErrLine .caskErrCode _ _ _ _ _ rfl (by decide) (by decide) (by decide) (by decide),
    State.get_set_apart _ .caskErrRow .caskErrCode _ _ _ _ _ rfl (by decide) (by decide) (by decide) (by decide),
    State.get_set_apart _ .caskErrLayer .caskErrCode _ _ _ _ _ rfl (by decide) (by decide) (by decide) (by decide),
    State.get_set_apart _ .caskErrMacro .caskErrCode _ _ _ _ _ rfl (by decide) (by decide) (by decide) (by decide)]
  exact State.get_set_self _ _ _ _ _ (by decide) (by decide)

theorem State.get_testState_caskErr {code mac layer line : Nat} {row : Bool} :
    (s.caskErr d code mac layer row line).get .caskTestStatusState d = s.get .caskTestStatusState d := by
  refine State.get_of_word (State.word_caskErr ?_)
  simp only [Fld.addr, Fld.caskTestStatusState, Fld.caskErrCode]
  omega

theorem State.testStatus_frame (s : State) (d count : Nat) (row : Bool) (first : Nat) :
    ∃ c, s.testStatus d count row first = { s with ctl := c } := ⟨_, rfl⟩

theorem State.get_testState_testStatus (count : Nat) (row : Bool) (first : Nat) :
    (s.testStatus d count row first).get .caskTestStatusState d = if count = 0 then 2 else 3 := by
  have hrow : (if row then 2 ^ 11 else 0) ≤ 2 ^ 11 := by split <;> omega
  rw [State.testStatus, State.get, State.word_setWord, if_pos rfl, fieldOf, BitVec.toNat_ofNat]
  generalize (if row then 2 ^ 11 else 0) = r at hrow
  simp only [Fld.caskTestStatusState]
  split <;> omega

/-- A test that ends with findings: its status, and CASK_ERR after it. -/
theorem State.testFailed_results (s : State) (d count code : Nat) :
    (∀ row first mac layer row' line, ∃ c, (s.testStatus d count row first).caskErr d code mac layer row' line = { s with ctl := c }) ∧
    ∀ row first mac layer row' line, ((s.testStatus d count row first).caskErr d code mac layer row' line).get .caskTestStatusState d =
      if count = 0 then 2 else 3 := by
  refine ⟨fun row first mac layer row' line => ?_, fun row first mac layer row' line => ?_⟩
  · obtain ⟨c, hc⟩ := s.testStatus_frame d count row first
    obtain ⟨c', hc'⟩ := State.caskErr_frame { s with ctl := c } d code mac layer row' line
    exact ⟨c', by rw [hc, hc']⟩
  · rw [State.get_testState_caskErr, State.get_testState_testStatus]

/-! ### The start of a test (R123, R124) -/

theorem State.startCaskTest_of_free {mac : Nat} (test : CaskTest) (hon : s.domainOn (domCask d) = true) (hfree : (s.die d).test = none)
    (hmac : mac < s.good d) : s.startCaskTest d mac test =
      (s.setDie d { s.die d with test := some test }).setWord (Fld.caskTestStatusState.addr d 0) (BitVec.ofNat 64 (2 ^ 30)) := by
  simp [State.startCaskTest, hon, hfree, Nat.not_le.2 hmac]

theorem State.startCaskTest_of_refused {mac : Nat} (test : CaskTest) (hon : s.domainOn (domCask d) = true)
    (h : (s.die d).test.isSome = true ∨ s.good d ≤ mac) : s.startCaskTest d mac test =
      s.caskErr d (if (s.die d).test.isSome then Code.caskTestBusy else Code.caskMacroRange) mac 0 false 0 := by
  by_cases hbusy : (s.die d).test.isSome = true
  · simp [State.startCaskTest, hon, hbusy]
  · simp [State.startCaskTest, hon, hbusy, h.resolve_left hbusy]

/-- A command that asks for a test: the test begins, or the first failing check is recorded. -/
theorem startCaskTest_results {c : Instr} {mac : Nat} {test : CaskTest} (hc : exec c s = .next (s.startCaskTest d mac test))
    (hon : s.domainOn (domCask d) = true) :
    ((s.die d).test = none → mac < s.good d →
      ∃ t, exec c s = .next t ∧ t = { s with dies := t.dies, ctl := t.ctl } ∧ t.die d = { s.die d with test := some test } ∧
        (∀ k, k ≠ d → t.die k = s.die k) ∧ t.get .caskTestStatusState d = 1 ∧
        ∀ x, x ≠ Fld.caskTestStatusState.addr d 0 → t.word x = s.word x) ∧
    ((s.die d).test.isSome = true ∨ s.good d ≤ mac →
      ∃ t, exec c s = .next t ∧ t = { s with ctl := t.ctl } ∧
        t.get .caskErrCode d = (if (s.die d).test.isSome then Code.caskTestBusy else Code.caskMacroRange) ∧
        ∀ x, x ≠ Fld.caskErrCode.addr d 0 → t.word x = s.word x) := by
  refine ⟨fun hfree hmac => ?_, fun h => ?_⟩
  · rw [hc, State.startCaskTest_of_free test hon hfree hmac]
    generalize hv : BitVec.ofNat 64 (2 ^ 30) = v
    refine ⟨_, rfl, rfl, ?_, fun k hk => ?_, ?_, fun x hx => ?_⟩
    · rw [State.die_setWord, State.die_setDie, if_pos rfl]
    · rw [State.die_setWord, State.die_setDie, if_neg hk]
    · rw [State.get, State.word_setWord, if_pos rfl, ← hv]
      decide
    · rw [State.word_setWord, if_neg hx, State.word, State.setDie_ctl, State.word]
  · rw [hc, State.startCaskTest_of_refused test hon h]
    refine ⟨_, rfl, ?_, ?_, fun x hx => State.word_caskErr hx⟩
    · obtain ⟨c, hframe⟩ := s.caskErr_frame d (if (s.die d).test.isSome then Code.caskTestBusy else Code.caskMacroRange) mac 0 false 0
      rw [hframe]
    · rw [State.get_code_caskErr]
      split <;> decide

theorem exec_caskOlt {w : W64} (hw : fieldOf w 0 0 = 1) :
    exec (.caskOlt d w) s = .next (s.startCaskTest d (fieldOf w 27 16) (.olt (fieldOf w 27 16) (fieldOf w 35 28))) :=
  congrArg Host.Outcome.next (if_neg (by omega))

theorem exec_caskDacTest {w : W64} (hw : fieldOf w 1 1 = 1) :
    exec (.caskDacTest d w) s = .next (s.startCaskTest d (fieldOf w 27 16) (.dac (fieldOf w 27 16))) :=
  congrArg Host.Outcome.next (if_neg (by omega))

/-! ### The end of the open-line test (R123) -/

theorem Layer.mem_addOpen (x : Layer) (row : Bool) (line : Nat) : (row, line) ∈ (x.addOpen row line).openLines := by
  unfold Layer.addOpen
  split
  next h => simpa using h
  · simp

theorem Layer.openLines_addOpen_of_mem {x : Layer} {o : Bool × Nat} (h : o ∈ x.openLines) (row : Bool) (line : Nat) :
    o ∈ (x.addOpen row line).openLines := by
  unfold Layer.addOpen
  split
  · exact h
  · exact List.mem_append_left _ h

/-- An open line recorded in its layer of array `mac` of die `d`. -/
def State.markOpen (d mac : Nat) (s : State) (r : OltReading) : State :=
  s.setLayer (layerKey d mac r.layer) ((s.layer (layerKey d mac r.layer)).addOpen r.row r.line)

theorem State.markOpen_keeps {mac k : Nat} {o : Bool × Nat} (r : OltReading) (h : o ∈ (s.layer k).openLines) :
    o ∈ ((s.markOpen d mac r).layer k).openLines := by
  rw [State.markOpen, State.layer_setLayer]
  split
  next hk => exact Layer.openLines_addOpen_of_mem (hk ▸ h) _ _
  · exact h

/-- Lines recorded: they stand in their layers beside those that stood there. -/
theorem State.markOpens_results (d mac : Nat) (rs : List OltReading) (s : State) :
    (∃ l, rs.foldl (State.markOpen d mac) s = { s with layers := l }) ∧
    (∀ k, ∀ o ∈ (s.layer k).openLines, o ∈ ((rs.foldl (State.markOpen d mac) s).layer k).openLines) ∧
    ∀ r ∈ rs, (r.row, r.line) ∈ ((rs.foldl (State.markOpen d mac) s).layer (layerKey d mac r.layer)).openLines := by
  induction rs generalizing s with
  | nil => exact ⟨⟨_, rfl⟩, fun _ _ h => h, fun _ h => absurd h List.not_mem_nil⟩
  | cons r rs ih =>
    obtain ⟨⟨l, hl⟩, hkeep, hmark⟩ := ih (s.markOpen d mac r)
    refine ⟨⟨l, hl⟩, fun k o ho => hkeep k o (State.markOpen_keeps r ho), fun q hq => ?_⟩
    obtain rfl | hq := List.mem_cons.1 hq
    · refine hkeep _ _ ?_
      rw [State.markOpen, State.layer_setLayer, if_pos rfl]
      exact Layer.mem_addOpen _ _ _
    · exact hmark q hq

/-- The findings of the test: the layers, and what CASK_TEST_STATUS says. -/
theorem State.oltFindings_results (s : State) (d mac layers : Nat) (rs : List OltReading) :
    let found := rs.filter fun r => layers / 2 ^ r.layer % 2 == 1 && oltOpen r
    (∃ c, s.oltFindings d mac layers rs = { found.foldl (State.markOpen d mac) s with ctl := c }) ∧
    (s.oltFindings d mac layers rs).get .caskTestStatusState d = if found = [] then 2 else 3 := by
  unfold State.oltFindings
  dsimp only
  cases rs.filter fun r => layers / 2 ^ r.layer % 2 == 1 && oltOpen r with
  | nil => exact ⟨s.testStatus_frame d 0 false 0, State.get_testState_testStatus 0 false 0⟩
  | cons r rest =>
    obtain ⟨hframe, hstate⟩ := ((r :: rest).foldl (State.markOpen d mac) s).testFailed_results d (r :: rest).length Code.caskOltFound
    exact ⟨hframe _ _ _ _ _ _, hstate _ _ _ _ _ _⟩

theorem caskOltDone_results (s : State) (d mac layers : Nat) (rs : List OltReading) (h : (s.die d).test = some (.olt mac layers)) :
    ∃ t, exec (.caskOltDone d rs) s = .next t ∧ t = { s with dies := t.dies, ctl := t.ctl, layers := t.layers } ∧
      t.die d = { s.die d with test := none } ∧ (∀ k, k ≠ d → t.die k = s.die k) ∧
      t.get .caskTestStatusState d = (if rs.any (fun r => layers / 2 ^ r.layer % 2 == 1 && oltOpen r) then 3 else 2) ∧
      ∀ r ∈ rs, layers / 2 ^ r.layer % 2 = 1 → oltOpen r = true → (r.row, r.line) ∈ (t.layer (layerKey d mac r.layer)).openLines := by
  have he : s.oltDone d rs = (s.setDie d { s.die d with test := none }).oltFindings d mac layers rs := by rw [State.oltDone, h]
  obtain ⟨⟨c, hc⟩, hstate⟩ := (s.setDie d { s.die d with test := none }).oltFindings_results d mac layers rs
  obtain ⟨⟨l, hl⟩, -, hmark⟩ := State.markOpens_results d mac (rs.filter fun r => layers / 2 ^ r.layer % 2 == 1 && oltOpen r)
    (s.setDie d { s.die d with test := none })
  have ht : s.oltDone d rs = { s.setDie d { s.die d with test := none } with layers := l, ctl := c } := by rw [he, hc, hl]
  refine ⟨_, rfl, ?_, ?_, fun k hk => ?_, ?_, fun r hr hlayer hopen => ?_⟩
  · rw [ht]
    rfl
  · rw [ht]
    exact (State.die_setDie _ _ _ _).trans (if_pos rfl)
  · rw [ht]
    exact (State.die_setDie _ _ _ _).trans (if_neg hk)
  · rw [he, hstate]
    have hnil : (rs.filter fun r => layers / 2 ^ r.layer % 2 == 1 && oltOpen r) = [] ↔
        (rs.any fun r => layers / 2 ^ r.layer % 2 == 1 && oltOpen r) = false := List.filter_eq_nil_iff.trans List.any_eq_false.symm
    simp only [hnil]
    cases rs.any _ <;> rfl
  · rw [he, hc]
    exact hmark r (List.mem_filter.2 ⟨hr, by simp [hlayer, hopen]⟩)

/-! ### The end of the DAC test (R124) -/

/-- The units `us` of array `mac` of die `d` are retired in `t` beside those of `s`. Of its fields `s` has changed dies, layers and
registers, and of its dies the arrays of `d`. -/
structure RetiresUnits (d mac : Nat) (us : List Nat) (s t : State) : Prop where
  frame : t = { s with dies := t.dies, ctl := t.ctl, layers := t.layers }
  retired : ((t.die d).mac mac).retired = ((s.die d).mac mac).retired ++ us
  test : (t.die d).test = (s.die d).test
  passes : (t.die d).passes = (s.die d).passes
  others : ∀ k, k ≠ d → t.die k = s.die k

section
variable {mac : Nat} {us vs : List Nat} {t u : State}

theorem RetiresUnits.refl (d mac : Nat) (s : State) : RetiresUnits d mac [] s s := ⟨rfl, by simp, rfl, rfl, fun _ _ => rfl⟩

theorem RetiresUnits.trans (h : RetiresUnits d mac us s t) (k : RetiresUnits d mac vs t u) : RetiresUnits d mac (us ++ vs) s u :=
  ⟨by rw [k.frame, h.frame], by rw [k.retired, h.retired, List.append_assoc], k.test.trans h.test, k.passes.trans h.passes,
    fun i hi => (k.others i hi).trans (h.others i hi)⟩

/-- What changes registers and layers alone retires nothing. -/
theorem RetiresUnits.upd {c : SMap W64} {l : SMap Layer} (h : RetiresUnits d mac us s t) :
    RetiresUnits d mac us s { t with ctl := c, layers := l } :=
  ⟨by rw [h.frame], h.retired, h.test, h.passes, h.others⟩

theorem RetiresUnits.setDie {x : Die} {m : SMap Mac} {unit : Nat} (hx : x = { s.die d with macs := m })
    (hr : (x.mac mac).retired = ((s.die d).mac mac).retired ++ [unit]) : RetiresUnits d mac [unit] s (s.setDie d x) := by
  have hself : (s.setDie d x).die d = x := (State.die_setDie s d d x).trans (if_pos rfl)
  refine ⟨rfl, by rw [hself, hr], by rw [hself, hx], by rw [hself, hx], fun k hk => ?_⟩
  rw [State.die_setDie, if_neg hk]

end

/-- A channel given to another spare converter retires no unit. -/
theorem Die.retired_replaceUnit (x : Die) (m : Nat) (col : Bool) (u : Nat) : ((x.replaceUnit m col u).mac m).retired = (x.mac m).retired := by
  unfold Die.replaceUnit
  dsimp only
  split
  · rw [Die.mac_setMac, if_pos rfl]
  · rfl

theorem State.retireUnit_retires (s : State) (d mac u : Nat) : RetiresUnits d mac [u] s (s.retireUnit d mac u) := by
  have hx1 : (((s.die d).setMac mac { (s.die d).mac mac with retired := ((s.die d).mac mac).retired ++ [u] }).mac mac).retired =
      ((s.die d).mac mac).retired ++ [u] := by rw [Die.mac_setMac, if_pos rfl]
  unfold State.retireUnit
  extract_lets x m x1 s1 k due l l' col unit x2 s2
  have hx2 : (x2.mac mac).retired = (x1.mac mac).retired ∧ ∃ ms, x2 = { s.die d with macs := ms } := by
    dsimp only [x2]
    split
    · obtain ⟨ms, hms⟩ := x1.replaceUnit_frame mac col unit
      exact ⟨x1.retired_replaceUnit mac col unit, ms, hms⟩
    · exact ⟨rfl, _, rfl⟩
  obtain ⟨hr, ms, hms⟩ := hx2
  split
  · exact (RetiresUnits.setDie rfl hx1).upd
  · have h2 : RetiresUnits d mac [u] s s2 := .setDie hms (hr.trans hx1)
    split
    · obtain ⟨c, hc⟩ := s2.set_frame .calStatusCode d 0 Code.calNoSpare
      rw [hc]
      exact h2.upd
    · exact h2

theorem State.retireUnits_retires (d mac : Nat) (us : List Nat) (s : State) :
    RetiresUnits d mac us s (us.foldl (fun s u => s.retireUnit d mac u) s) := by
  induction us generalizing s with
  | nil => exact .refl d mac s
  | cons u us ih => exact (s.retireUnit_retires d mac u).trans (ih _)

/-- The end of the test: the units retired, and what CASK_TEST_STATUS says. -/
theorem State.dacDone_results {mac : Nat} {rs : List DacReading} {us : List Nat} (h : (s.die d).test = some (.dac mac))
    (hus : ((List.range 76).filter fun u => rs.any (fun r => r.unit == u && dacBad r) && !((s.die d).mac mac).retired.contains u) = us) :
    (∃ c, s.dacDone d rs =
      { us.foldl (fun s u => s.retireUnit d mac u) (s.setDie d { s.die d with test := none }) with ctl := c }) ∧
    (s.dacDone d rs).get .caskTestStatusState d = if us = [] then 2 else 3 := by
  unfold State.dacDone
  rw [h]
  dsimp only
  rw [hus]
  generalize us.foldl (fun s u => s.retireUnit d mac u) (s.setDie d { s.die d with test := none }) = v
  cases us with
  | nil => exact ⟨v.testStatus_frame d 0 false 0, State.get_testState_testStatus 0 false 0⟩
  | cons u rest =>
    obtain ⟨hframe, hstate⟩ := v.testFailed_results d (u :: rest).length Code.caskDacFail
    exact ⟨hframe _ _ _ _ _ _, hstate _ _ _ _ _ _⟩

theorem caskDacTestDone_results (s : State) (d mac : Nat) (rs : List DacReading) (h : (s.die d).test = some (.dac mac)) :
    let us := (List.range 76).filter fun u => rs.any (fun r => r.unit == u && dacBad r) && !((s.die d).mac mac).retired.contains u
    ∃ t, exec (.caskDacTestDone d rs) s = .next t ∧ t = { s with dies := t.dies, ctl := t.ctl, layers := t.layers } ∧ (t.die d).test = none ∧
      ((t.die d).mac mac).retired = ((s.die d).mac mac).retired ++ us ∧ (t.die d).passes = (s.die d).passes ∧
      (∀ k, k ≠ d → t.die k = s.die k) ∧ t.get .caskTestStatusState d = (if us = [] then 2 else 3) := by
  intro us
  obtain ⟨⟨c, hc⟩, hstate⟩ := State.dacDone_results (us := us) h rfl
  have hself : (s.setDie d { s.die d with test := none }).die d = { s.die d with test := none } :=
    (State.die_setDie _ _ _ _).trans (if_pos rfl)
  have hret : RetiresUnits d mac us (s.setDie d { s.die d with test := none }) (s.dacDone d rs) :=
    hc ▸ (State.retireUnits_retires d mac us _).upd
  refine ⟨_, rfl, hret.frame, ?_, ?_, ?_, fun k hk => ?_, hstate⟩
  · rw [hret.test, hself]
  · rw [hret.retired, hself, Die.mac, Die.mac]
  · rw [hret.passes, hself]
  · rw [hret.others k hk, State.die_setDie, if_neg hk]

end Sys2Proof.Machine
end

section
open Sys2Proof Sys2Proof.Machine

/-- Settles O7: both commands start their test alike, and each test ends with its findings. -/
theorem caskTestsRun : Obligations.CaskTestsRun := by
  refine ⟨fun e he s d w hw hon => ?_, caskOltDone_results, caskDacTestDone_results⟩
  simp only [List.mem_cons, List.not_mem_nil, or_false] at he
  obtain rfl | rfl := he
  · exact startCaskTest_results (exec_caskOlt hw) hon
  · exact startCaskTest_results (exec_caskDacTest hw) hon

end

section
/-!
PROOFS. O6: what stands of a descriptor that has left its queue, and the pass that CASK_PASS requests: read, prepared, settled.
-/

namespace Sys2Proof.Machine

variable {s u v : State} {t q slot : Nat} {o : Op}

/-! ### A descriptor that has left its queue (R230, R237) -/

theorem State.consume_tick (s : State) (id th : Nat) (c : Bool) : s.tick.consume id th c = (s.consume id th c).tick := by
  unfold State.consume
  split <;> rfl

theorem State.consumeWaits_tick (s : State) (d : BitVec 512) : s.tick.consumeWaits d = (s.consumeWaits d).tick := by
  rw [State.consumeWaits, State.consume_tick, State.consume_tick, State.consumeWaits]

/-- The place of OPQ_POS_q among the words of a queue. -/
theorem issued_addr_mod (t q : Nat) : Fld.opqPosIssued.addr t q % 0x40 = 0x20 := by
  simp only [Fld.addr, Fld.opqPosIssued]
  omega

theorem State.get_issued_setWord {a : Nat} (w : W64) (ha : a % 0x40 ≠ 0x20) :
    (s.setWord a w).get .opqPosIssued t q = s.get .opqPosIssued t q := by
  refine State.get_of_word ?_
  rw [State.word_setWord, if_neg fun h : Fld.opqPosIssued.addr t q = a => ha (h ▸ issued_addr_mod t q)]

theorem State.leave_hasLeft (s : State) (t q slot : Nat) (o : Op) (u : OpUnit) : s.HasLeft (s.leave t q slot o u).1 t q slot o := by
  obtain ⟨hop, -⟩ := s.leave_op t q slot o u
  refine ⟨⟨_, hop, rfl, rfl, rfl⟩, ?_, ?_⟩
  · unfold State.leave
    rw [State.consumeWaits_tick]
    rfl
  · obtain ⟨k, hk⟩ := s.tick.consumeWaits_frame o.desc
    have hcount : Fld.opqIssuedOps.addr t 0 % 0x40 ≠ 0x20 := by
      simp only [Fld.addr, Fld.opqIssuedOps]
      omega
    unfold State.leave
    rw [hk]
    refine (State.get_issued_setWord _ hcount).trans ?_
    rw [State.get_set_self _ _ _ _ _ (by decide) (by decide)]
    exact Nat.mod_mod _ _

/-- What leaves the tiles, the counters and ISSUED alone. -/
theorem State.HasLeft.upd (h : s.HasLeft u t q slot o) (htiles : v.tiles = u.tiles) (hctrs : v.ctrs = u.ctrs)
    (hissued : v.get .opqPosIssued t q = u.get .opqPosIssued t q) : s.HasLeft v t q slot o := by
  obtain ⟨hop, hc, hi⟩ := h
  refine ⟨?_, hctrs.trans hc, hissued.trans hi⟩
  rw [State.op, State.tile, htiles]
  exact hop

/-- A change of the operation that keeps its descriptor, queue and sequence number. -/
theorem State.HasLeft.modOp {f : Op → Op} (h : s.HasLeft u t q slot o)
    (hf : ∀ p, (f p).desc = p.desc ∧ (f p).queue = p.queue ∧ (f p).seq = p.seq) : s.HasLeft (u.modOp t slot f) t q slot o := by
  obtain ⟨⟨p, hp, hdesc, hqueue, hseq⟩, hc, hi⟩ := h
  obtain ⟨hd, hq, hs⟩ := hf p
  obtain ⟨n, hn⟩ := u.modOp_frame t slot f
  refine ⟨⟨f p, ?_, hd.trans hdesc, hq.trans hqueue, hs.trans hseq⟩, ?_, ?_⟩
  · rw [State.op_modOp, if_pos ⟨rfl, rfl⟩, hp]
    rfl
  · rw [hn]
    exact hc
  · rw [hn]
    exact hi

theorem Op.fail_keeps (p : Op) (code detail : Nat) :
    (p.fail code detail).desc = p.desc ∧ (p.fail code detail).queue = p.queue ∧ (p.fail code detail).seq = p.seq := by
  unfold Op.fail
  split <;> exact ⟨rfl, rfl, rfl⟩

theorem Op.fail_of_running (h : o.phase = .running) (code detail : Nat) : o.fail code detail = { o with phase := .failed code detail } := by
  rw [Op.fail, h]

theorem State.get_issued_noteMemErr (code a : Nat) : (s.noteMemErr code a).get .opqPosIssued t q = s.get .opqPosIssued t q := by
  unfold State.noteMemErr
  split
  · rfl
  next x l _ =>
    have hx : x % 5 < 5 := Nat.mod_lt _ (by decide)
    have hue : Fld.xferMemUe.addr (x / 5) (x % 5) % 0x40 ≠ 0x20 := by
      simp only [Fld.addr, Fld.xferMemUe]
      omega
    have herr : Fld.xferMemErrCode.addr (x / 5) 0 % 0x40 ≠ 0x20 := by
      simp only [Fld.addr, Fld.xferMemErrCode]
      omega
    exact (State.get_issued_setWord _ herr).trans <| (State.get_issued_setWord _ herr).trans <| (State.get_issued_setWord _ herr).trans <|
      State.get_issued_setWord _ hue

theorem State.get_issued_noteErr (e : MemErr) : (s.noteErr e).get .opqPosIssued t q = s.get .opqPosIssued t q := by
  cases e with
  | unmapped => rfl
  | ue => exact State.get_issued_noteMemErr _ _
  | scratchUe => exact State.get_issued_setWord _ (by simp only [Fld.addr, Fld.tileScratchUe]; omega)
  | accumUe => exact State.get_issued_setWord _ (by simp only [Fld.addr, Fld.tileAccumUe]; omega)

theorem State.HasLeft.noteErr (h : s.HasLeft u t q slot o) (e : MemErr) : s.HasLeft (u.noteErr e) t q slot o := by
  obtain ⟨c, hc⟩ := u.noteErr_frame e
  exact h.upd (by rw [hc]) (by rw [hc]) (State.get_issued_noteErr e)

theorem State.op_noteErr (s : State) (e : MemErr) (t slot : Nat) : (s.noteErr e).op t slot = s.op t slot := by
  obtain ⟨_, h⟩ := s.noteErr_frame e
  rw [h]
  rfl

/-! ### The passes of a die -/

/-- A pass replaced stands among the passes of its die. -/
theorem State.mem_putPass {p r : Pass} (hr : r ∈ (s.die p.die).passes) (hseq : r.seq = p.seq) :
    p ∈ ((s.putPass p).die p.die).passes := by
  rw [State.putPass, State.die_setDie, if_pos rfl]
  exact List.mem_map.2 ⟨r, hr, if_pos hseq⟩

/-! ### A pass joins its die (R93, R125) -/

/-- The pass of vector `k` of the operation `o` in a slot. -/
def State.passOf (s : State) (t slot k : Nat) (o : Op) : Pass :=
  let b := caskBody o.desc
  { tile := t, slot := slot, desc := o.desc, vec := k, die := b.die, mac := b.mac, layer := b.layer, cls := dClass o.desc,
    seq := s.passSeq, input := (s.caskPrep t b k).input }

/-- In `w` the pass `p` waits on its die behind the passes of `s`, and what has left its queue for that slot in `s` stands there in `w`. -/
structure State.Joins (s w : State) (p : Pass) : Prop where
  frame : w = { s with ctl := w.ctl, tiles := w.tiles, dies := w.dies, passSeq := s.passSeq + 1 }
  die : w.die p.die = { s.die p.die with passes := (s.die p.die).passes ++ [p], macs := (w.die p.die).macs }
  left : ∀ {r : State} {q : Nat} {o : Op}, r.HasLeft s p.tile q p.slot o → r.HasLeft w p.tile q p.slot o

/-- The flags and repeats of its input counted, what its operation shows of them noted, and a reference phase of its array ended. -/
theorem State.Joins.requested {p : Pass} {f : Op → Op} (fl n : Nat)
    (hf : ∀ o, (f o).desc = o.desc ∧ (f o).queue = o.queue ∧ (f o).seq = o.seq) :
    let w := ((s.raiseFlags p.tile fl).bump .tileNumRepeatsCount p.tile 0 n).modOp p.tile p.slot f
    let x := w.die p.die
    s.Joins { w.setDie p.die ({ x with passes := x.passes ++ [p] }.setMac p.mac { x.mac p.mac with refPhase := false }) with
      passSeq := s.passSeq + 1 } p := by
  intro w x
  have hflags : Fld.tileNumFlagsFlushed.addr p.tile 0 % 0x40 ≠ 0x20 := by
    simp only [Fld.addr, Fld.tileNumFlagsFlushed]
    omega
  have hrepeats : ∀ q, Fld.opqPosIssued.addr p.tile q ≠ Fld.tileNumRepeatsCount.addr p.tile 0 := fun q => by
    simp only [Fld.addr, Fld.opqPosIssued, Fld.tileNumRepeatsCount]
    omega
  have hx : x = s.die p.die := by
    obtain ⟨_, hw⟩ := ((s.raiseFlags p.tile fl).bump .tileNumRepeatsCount p.tile 0 n).modOp_frame p.tile p.slot f
    dsimp only [x, w]
    rw [hw]
    rfl
  refine ⟨?_, ?_, fun {r q o} h => ?_⟩
  · obtain ⟨_, hw⟩ := ((s.raiseFlags p.tile fl).bump .tileNumRepeatsCount p.tile 0 n).modOp_frame p.tile p.slot f
    dsimp only [w]
    rw [hw]
    rfl
  · have hdie : ∀ y : Die, State.die { w.setDie p.die y with passSeq := s.passSeq + 1 } p.die = y := fun y =>
      (State.die_setDie _ _ _ _).trans (if_pos rfl)
    rw [hdie, hx]
    rfl
  · have hw : r.HasLeft w p.tile q p.slot o := by
      refine State.HasLeft.modOp (h.upd rfl rfl ?_) hf
      exact (State.get_bump_ne _ _ _ _ _ _ _ _ (hrepeats q)).trans (State.get_issued_setWord _ hflags)
    exact hw.upd rfl rfl rfl

/-- Whether the reads of vector `k` meet an error, and which. -/
def State.passErr (s : State) (t k : Nat) (b : CaskBody) (ue : List Nat) : Option MemErr :=
  (b.reads k (s.get .tileNumCtlOutlier t == 1)).findSome? fun r => s.accessErr ue r.1 r.2 false

theorem State.requestPass_of_err {k : Nat} {ue : List Nat} {e : MemErr} (ho : s.op t slot = some o)
    (he : s.passErr t k (caskBody o.desc) ue = some e) :
    s.requestPass t slot k ue = (s.noteErr e).modOp t slot fun o => o.fail e.code.1 e.code.2 := by
  unfold State.passErr at he
  unfold State.requestPass
  simp only [ho, he]

/-- What a request notes of its input in the operation. -/
def Prep.note (pr : Prep) (o : Op) : Op :=
  { o with fmt := pr.fmt, flags := o.flags ||| pr.flags, info := o.info ||| (if pr.repeats = 0 then 0 else 1) }

theorem Prep.note_keeps (pr : Prep) (o : Op) :
    (pr.note o).desc = o.desc ∧ (pr.note o).queue = o.queue ∧ (pr.note o).seq = o.seq := ⟨rfl, rfl, rfl⟩

/-- A request whose reads are clean: the pass joins its die and is settled there. -/
theorem State.requestPass_joins {k : Nat} {ue : List Nat} (ho : s.op t slot = some o) (he : s.passErr t k (caskBody o.desc) ue = none) :
    ∃ w, s.Joins w (s.passOf t slot k o) ∧ s.requestPass t slot k ue = w.settlePass (s.passOf t slot k o) ue := by
  refine ⟨_, .requested (s.caskPrep t (caskBody o.desc) k).flags (s.caskPrep t (caskBody o.desc) k).repeats
    (s.caskPrep t (caskBody o.desc) k).note_keeps, ?_⟩
  unfold State.passErr at he
  unfold State.requestPass
  simp only [ho, he]
  rfl

/-! ### A waiting pass settled (R93, R99, R114, R212) -/

section
variable {p : Pass} (hbar : s.passBar p = none) (hready : (s.die p.die).ready = true) (hflush : s.flushHolds p.die p.mac p.layer = false)
include hbar hready hflush

theorem State.settlePass_of_undriven (hk : p.input.kind = .zero ∨ p.input.kind = .nonfinite) (ue : List Nat) : s.settlePass p ue =
    s.putPass { p with stage := .drained, vals := List.replicate 1024 (if p.input.kind = .zero then 0 else 0x7FC00000) } := by
  have hfires : p.fires = false := by obtain hk | hk := hk <;> simp [Pass.fires, hk]
  have hplain : p.input.kind ≠ .bf16 := by obtain hk | hk := hk <;> simp [hk]
  simp only [State.settlePass, hbar, hready, hflush, hplain, hfires, Bool.not_true, Bool.not_false, Bool.or_self, Bool.false_eq_true,
    if_true, if_false, -List.reduceReplicate]

/-- A driven pass whose layer can be used waits as it stands. -/
theorem State.settlePass_of_usable (hfires : p.fires = true) (hlayer : s.unavailable p.die p.mac p.layer = false)
    (htest : s.dieTested p.die = false) (ue : List Nat) : s.settlePass p ue = s := by
  have hplain : p.input.kind ≠ .bf16 := fun h => by simp [Pass.fires, h] at hfires
  simp [State.settlePass, hbar, hready, hflush, hplain, hfires, hlayer, htest]

end

/-! ### A joined pass settled -/

section
variable {w : State} {p : Pass} (h : s.Joins w p)
include h

theorem State.Joins.mem : p ∈ (w.die p.die).passes := by
  rw [h.die]
  simp

theorem State.Joins.ready : (w.die p.die).ready = (s.die p.die).ready := by rw [h.die]

theorem State.Joins.passBar (hset : (s.die p.die).noSet = false) (hlines : (s.layer (layerKey p.die p.mac p.layer)).openLines = []) :
    w.passBar p = none := by
  have hnone : (w.die p.die).noSet = false := by rw [h.die, hset]
  have hlayer : w.layer (layerKey p.die p.mac p.layer) = s.layer (layerKey p.die p.mac p.layer) := by
    rw [h.frame, State.layer, State.layer]
  simp [State.passBar, hnone, hlayer, hlines]

theorem State.Joins.flushHolds : w.flushHolds p.die p.mac p.layer = s.flushHolds p.die p.mac p.layer := by
  have hsvc : w.svc = s.svc := by rw [h.frame]
  rw [State.flushHolds, hsvc, h.die, State.flushHolds]

theorem State.Joins.unavailable : w.unavailable p.die p.mac p.layer = s.unavailable p.die p.mac p.layer := by
  have hjournal : w.journal = s.journal := by rw [h.frame]
  rw [State.unavailable, State.layerHeld, State.wjEntry, hjournal, h.die, State.unavailable, State.layerHeld, State.wjEntry]

theorem State.Joins.dieTested : w.dieTested p.die = s.dieTested p.die := by
  have hrel : w.rel = s.rel := by rw [h.frame]
  rw [State.dieTested, hrel, State.dieTested]

/-- A joined pass, on a ready die with a set and with nothing that holds its layer, drains at once where it has nothing to drive, and waits
where its layer can be used. -/
theorem State.Joins.settled (hset : (s.die p.die).noSet = false) (hlines : (s.layer (layerKey p.die p.mac p.layer)).openLines = [])
    (hready : (s.die p.die).ready = true) (hflush : s.flushHolds p.die p.mac p.layer = false) (hplain : p.input.kind ≠ .bf16)
    (hstage : p.stage = .waiting)
    (huse : s.unavailable p.die p.mac p.layer = false ∧ s.dieTested p.die = false ∨ p.input.kind = .zero ∨ p.input.kind = .nonfinite)
    (ue : List Nat) :
    ∃ p' v, w.settlePass p ue = { w with dies := (w.settlePass p ue).dies } ∧ p' ∈ ((w.settlePass p ue).die p.die).passes ∧
      p' = { p with stage := (if p.input.kind = .zero ∨ p.input.kind = .nonfinite then .drained else .waiting), vals := v } ∧
      (p.input.kind = .zero → v = List.replicate 1024 0) ∧ (p.input.kind = .nonfinite → v = List.replicate 1024 0x7FC00000) := by
  have hbar := h.passBar hset hlines
  rw [← h.ready] at hready
  rw [← h.flushHolds] at hflush
  by_cases hk : p.input.kind = .zero ∨ p.input.kind = .nonfinite
  · rw [State.settlePass_of_undriven hbar hready hflush hk, if_pos hk]
    refine ⟨_, _, rfl, State.mem_putPass h.mem rfl, rfl, fun hz => ?_, fun hn => ?_⟩
    · rw [if_pos hz]
    · rw [if_neg (by simp [hn])]
  · obtain ⟨hlayer, htest⟩ := huse.resolve_right hk
    have hfires : p.fires = true := by
      rw [not_or] at hk
      obtain ⟨hz, hn⟩ := hk
      unfold Pass.fires
      cases hkind : p.input.kind <;> simp_all
    rw [State.settlePass_of_usable hbar hready hflush hfires (h.unavailable.trans hlayer) (h.dieTested.trans htest), if_neg hk]
    exact ⟨_, p.vals, rfl, h.mem, by rw [← hstage], fun hz => absurd (.inl hz) hk, fun hn => absurd (.inr hn) hk⟩

end

/-! ### CASK_PASS (R125) -/

section
variable {r : State} {k : Nat} {ue : List Nat} (hleft : r.HasLeft s t q slot o) {p : Op} (hop : s.op t slot = some p)
include hleft hop

/-- The request of a vector whose reads meet an error. -/
theorem State.HasLeft.request_fails (hrun : p.phase = .running) {m : MemErr} (herr : s.passErr t k (caskBody p.desc) ue = some m) :
    let u := s.requestPass t slot k ue
    r.HasLeft u t q slot o ∧ (∃ p', u.op t slot = some p' ∧ p'.phase = .failed m.code.1 m.code.2) ∧ u.dies = s.dies := by
  rw [State.requestPass_of_err hop herr]
  refine ⟨(hleft.noteErr m).modOp fun _ => Op.fail_keeps _ _ _, ⟨p.fail m.code.1 m.code.2, ?_, ?_⟩, ?_⟩
  · rw [State.op_modOp, if_pos ⟨rfl, rfl⟩, State.op_noteErr, hop]
    rfl
  · rw [Op.fail_of_running hrun]
  · obtain ⟨_, hnote⟩ := s.noteErr_frame m
    obtain ⟨_, hmod⟩ := (s.noteErr m).modOp_frame t slot fun o => o.fail m.code.1 m.code.2
    rw [hmod, hnote]

/-- The request of a vector, on a ready die with a set and with nothing that holds the layer. -/
theorem State.HasLeft.request_joins (herr : s.passErr t k (caskBody p.desc) ue = none) :
    let b := caskBody p.desc
    let i := (s.caskPrep t b k).input
    let u := s.requestPass t slot k ue
    (s.die b.die).noSet = false → (s.layer (layerKey b.die b.mac b.layer)).openLines = [] → (s.die b.die).ready = true →
    s.flushHolds b.die b.mac b.layer = false → i.kind ≠ .bf16 →
    (s.unavailable b.die b.mac b.layer = false ∧ s.dieTested b.die = false ∨ i.kind = .zero ∨ i.kind = .nonfinite) →
    r.HasLeft u t q slot o ∧ u = { s with ctl := u.ctl, tiles := u.tiles, dies := u.dies, passSeq := s.passSeq + 1 } ∧
      ∃ p', p' ∈ (u.die b.die).passes ∧ p'.tile = t ∧ p'.slot = slot ∧ p'.vec = k ∧ p'.seq = s.passSeq ∧ p'.input = i ∧
        p'.stage = (if i.kind = .zero ∨ i.kind = .nonfinite then .drained else .waiting) ∧
        (i.kind = .zero → p'.vals = List.replicate 1024 0) ∧ (i.kind = .nonfinite → p'.vals = List.replicate 1024 0x7FC00000) := by
  intro b i u hset hlines hready hflush hplain huse
  obtain ⟨w, hw, hsettle⟩ := State.requestPass_joins hop herr
  obtain ⟨p', v, hsame, hmem, rfl, hzero, hnonfinite⟩ := hw.settled hset hlines hready hflush hplain rfl huse ue
  rw [← hsettle] at hsame hmem
  refine ⟨?_, ?_, _, hmem, rfl, rfl, rfl, rfl, rfl, rfl, hzero, hnonfinite⟩
  · have hwleft := hw.left hleft
    dsimp only [u]
    rw [hsame]
    exact hwleft.upd rfl rfl rfl
  · dsimp only [u]
    rw [hsame, hw.frame]

end

theorem exec_caskPass {e : Ecc} (h : (s.corrected e.ce).taking t q .cask [1] = some (slot, o)) :
    let r := ((s.corrected e.ce).leave t q slot o .cask).1
    exec (.caskPass t q e) s = .next (if (caskBody o.desc).rows = 0 ∨ (caskBody o.desc).vectors = 0 then
      r.modOp t slot fun o => { o with phase := .done } else r.requestPass t slot 0 e.ue) := by
  refine congrArg Host.Outcome.next ?_
  rw [State.caskPass, h]

theorem caskPass_results (s0 : State) (t q slot : Nat) (e : Ecc) (o : Op) : let s := s0.corrected e.ce
    s.taking t q .cask [1] = some (slot, o) →
    let s1 := (s.leave t q slot o .cask).1
    let b := caskBody o.desc
    let pr := s1.caskPrep t b 0
    let err := (b.reads 0 (s1.get .tileNumCtlOutlier t == 1)).findSome? fun r => s1.accessErr e.ue r.1 r.2 false
    (b.rows = 0 ∨ b.vectors = 0 → ∃ u p, exec (.caskPass t q e) s0 = .next u ∧ s.HasLeft u t q slot o ∧ u.op t slot = some p ∧ p.phase = .done ∧
      u = { s with free := u.free, ctl := u.ctl, ctrs := u.ctrs, tiles := u.tiles }) ∧
    (∀ m, b.rows ≠ 0 → b.vectors ≠ 0 → err = some m →
      ∃ u p, exec (.caskPass t q e) s0 = .next u ∧ s.HasLeft u t q slot o ∧ u.op t slot = some p ∧ p.phase = .failed m.code.1 m.code.2 ∧
        u.dies = s.dies) ∧
    (b.rows ≠ 0 → b.vectors ≠ 0 → err = none → (s1.die b.die).noSet = false → (s1.layer (layerKey b.die b.mac b.layer)).openLines = [] →
      (s1.die b.die).ready = true → s1.flushHolds b.die b.mac b.layer = false → pr.input.kind ≠ .bf16 →
      (s1.unavailable b.die b.mac b.layer = false ∧ s1.dieTested b.die = false ∨ pr.input.kind = .zero ∨ pr.input.kind = .nonfinite) →
      ∃ u p, exec (.caskPass t q e) s0 = .next u ∧ s.HasLeft u t q slot o ∧
        u = { s with free := u.free, ctl := u.ctl, ctrs := u.ctrs, tiles := u.tiles, dies := u.dies, passSeq := s.passSeq + 1 } ∧
        p ∈ (u.die b.die).passes ∧ p.tile = t ∧ p.slot = slot ∧ p.vec = 0 ∧ p.seq = s.passSeq ∧ p.input = pr.input ∧
        p.stage = (if pr.input.kind = .zero ∨ pr.input.kind = .nonfinite then .drained else .waiting) ∧
        (pr.input.kind = .zero → p.vals = List.replicate 1024 0) ∧ (pr.input.kind = .nonfinite → p.vals = List.replicate 1024 0x7FC00000)) := by
  intro s htake
  have hexec := exec_caskPass htake
  obtain ⟨c, k, n, hframe⟩ := s.leave_frame t q slot o .cask
  obtain ⟨hop, hrun⟩ := s.leave_op t q slot o .cask
  have hleft := s.leave_hasLeft t q slot o .cask
  obtain ⟨o', ho', hdesc⟩ : ∃ o', o' = (s.leave t q slot o .cask).2 ∧ o'.desc = o.desc := ⟨_, rfl, rfl⟩
  rw [← ho'] at hop hrun
  generalize (s.leave t q slot o .cask).1 = s1 at *
  dsimp only
  rw [← hdesc] at hexec ⊢
  refine ⟨fun hnone => ?_, fun m hrows hvectors herr => ?_, fun hrows hvectors herr hset hlines hready hflush hplain huse => ?_⟩
  · rw [hexec, if_pos hnone]
    obtain ⟨_, hmod⟩ := s1.modOp_frame t slot fun o => { o with phase := .done }
    refine ⟨_, { o' with phase := .done }, rfl, hleft.modOp fun _ => ⟨rfl, rfl, rfl⟩, ?_, rfl, ?_⟩
    · rw [State.op_modOp, if_pos ⟨rfl, rfl⟩, hop]
      rfl
    · rw [hmod, hframe]
  · obtain ⟨hu, ⟨p, hp, hphase⟩, hdies⟩ := hleft.request_fails hop hrun herr
    rw [hexec, if_neg (not_or.2 ⟨hrows, hvectors⟩)]
    exact ⟨_, p, rfl, hu, hp, hphase, hdies.trans (by rw [hframe])⟩
  · obtain ⟨hu, hchanges, p, hmem, htile, hslot, hvec, hseq, hp⟩ :=
      hleft.request_joins hop herr hset hlines hready hflush hplain huse
    rw [hexec, if_neg (not_or.2 ⟨hrows, hvectors⟩)]
    refine ⟨_, p, rfl, hu, ?_, hmem, htile, hslot, hvec, hseq.trans (by rw [hframe]), hp⟩
    rw [hchanges, hframe]

end Sys2Proof.Machine
end

section
/-!
PROOFS. O6: a pass from its array's queue to its record: layer switch, firing, phases, drain, abort and completion; reference phases and the
read pointers of result rings.
-/

namespace Sys2Proof.Machine

variable {s : State} {d m : Nat}

/-! ### The head pass of an array (R91, R92, R110, R115, R212) -/

/-- With every waiting pass of an array held for a flush, none is next. -/
theorem State.headPass_of_held (h : ∀ p ∈ (s.die d).passes, p.mac = m → p.stage = .waiting → s.flushHolds d m p.layer = true) :
    s.headPass d m = none := by
  have hnone : ((s.die d).passes.filter fun p => p.mac == m && p.stage == .waiting && !s.unavailable d m p.layer &&
      !s.flushHolds d m p.layer) = [] := List.filter_eq_nil_iff.2 fun p hp => by
    simp only [Bool.and_eq_true, beq_iff_eq, Bool.not_eq_true', not_and, Bool.not_eq_false]
    exact fun ⟨⟨hm, hw⟩, _⟩ => h p hp hm hw
  rw [State.headPass, hnone]
  rfl

theorem exec_caskLayerSwitchDone {p : Pass} (hp : s.headPass d m = some p) (hfree : (s.die d).macFree m = true)
    (hfires : s.dieFires d = true) :
    exec (.caskLayerSwitchDone d m) s = .next (s.setDie d ((s.die d).setMac m { (s.die d).mac m with layer := p.layer })) := by
  refine congrArg Host.Outcome.next ?_
  simp only [State.layerSwitch, hp, hfree, hfires, Bool.and_self, if_true]

/-- A driven pass on a free array with its layer current, the gap open and room in its ring: a slot decides. -/
theorem exec_caskPassFire {p0 p : Pass} (hp : s.headPass d m = some p0) (hfires : s.dieFires d = true) (hfree : (s.die d).macFree m = true)
    (hfold : s.refold p0 = p) (hbar : s.passBar p = none) (hdriven : p.fires = true) (hlayer : ((s.die d).mac m).layer = p.layer)
    (hgap : (s.die d).gapOpen p = true) (hroom : s.ringRoom p = true) :
    exec (.caskPassFire d m) s = .next (if s.slotFree p then (s.setDie d ((s.die d).takeGap p)).putPass
      { p.choose with stage := .fired, reserved := true, phase := 0, codes := [], cells := (s.layer (layerKey d m p.layer)).wear } else s) := by
  refine congrArg Host.Outcome.next ?_
  unfold State.passFire
  simp only [hp, hfires, hfree, hfold, hbar, hdriven, hlayer, hgap, hroom, Bool.not_true, Bool.or_self, Bool.false_eq_true, if_false,
    decide_true, Bool.true_and]

theorem exec_caskPassFire_of_held (s : State) (d m : Nat) (h : ∀ p ∈ (s.die d).passes, p.mac = m → p.stage = .waiting →
      layerKey d m p.layer ∈ s.svc.holds ∧ ∃ q ∈ (s.die d).reqs, q.mac = m ∧ q.layer = p.layer) :
    exec (.caskPassFire d m) s = .next s := by
  have hnone : s.headPass d m = none := State.headPass_of_held fun p hp hm hw => by
    obtain ⟨hhold, q, hq, hmac, hlayer⟩ := h p hp hm hw
    simp only [State.flushHolds, Bool.and_eq_true, List.contains_iff_mem, List.any_eq_true, beq_iff_eq]
    exact ⟨hhold, q, hq, hmac, hlayer⟩
  refine congrArg Host.Outcome.next ?_
  rw [State.passFire, hnone]

/-! ### The phases and the drain (R100, R105, R109, R134) -/

theorem Die.passes_rotate (x : Die) (m : Nat) : (x.rotate m).passes = x.passes := by
  unfold Die.rotate
  dsimp only
  split
  · rfl
  · split <;> rfl

/-- A phase ends: its codes are taken, and the attempt ends with the last. -/
theorem exec_caskPhaseEnd {s0 : State} {e : Ecc} {p : Pass} {ph : PassPart × List (Nat × Int)} (hs : s0.corrected e.ce = s)
    (hrun : (s.die d).running m = some p) (hph : p.phases[p.phase]? = some ph) :
    let r := s.setDie d ((s.die d).rotate m)
    let p1 := { p with codes := p.codes ++ [r.phaseCodes p ph], phase := p.phase + 1 }
    let s1 := { r.putPass p1 with free := r.free + 2048 }
    exec (.caskPhaseEnd d m e) s0 = .next (if p.phase + 1 < p.phases.length then s1 else s1.attemptEnd p1 e.ue) := by
  subst hs
  refine congrArg Host.Outcome.next ?_
  unfold State.phaseEnd
  simp only [hrun, hph]

theorem State.passFlags_frame (s : State) (p : Pass) (fl : Nat) : ∃ c n, s.passFlags p fl = { s with ctl := c, tiles := n } := by
  obtain ⟨n, hn⟩ := (s.raiseFlags p.tile (fl % 2)).modOp_frame p.tile p.slot fun o => { o with flags := o.flags ||| fl % 2 }
  exact ⟨_, n, hn⟩

/-- A pass goes to the drain with its values or its sums. -/
theorem State.drainPass_eq (s : State) (p : Pass) : ∃ c n v x,
    s.drainPass p = State.putPass { s with ctl := c, tiles := n } { p with stage := .drained, vals := v, sums := x } := by
  unfold State.drainPass
  extract_lets b key ftz vp row hasOut rs fl
  split
  · exact ⟨_, _, _, _, rfl⟩
  · obtain ⟨c, n, hflags⟩ := s.passFlags_frame p fl
    rw [hflags]
    exact ⟨_, _, _, _, rfl⟩

/-- An attempt with no output at full code drains: the pass keeps its place among those of its die, and its codes. -/
theorem State.attemptEnd_drains {p r : Pass} (hr : r ∈ (s.die p.die).passes) (hseq : r.seq = p.seq) (hkept : p.discarded = false)
    (hsat : satOutputs p.codes = []) (ue : List Nat) :
    (∃ c n k, s.attemptEnd p ue = { s with ctl := c, tiles := n, dies := k }) ∧
    ∃ p', p' ∈ ((s.attemptEnd p ue).die p.die).passes ∧ p'.seq = p.seq ∧ p'.stage = .drained ∧ p'.codes = p.codes := by
  obtain ⟨p1, hdie, hseq1, hcodes, hdrain⟩ : ∃ p1 : Pass, p1.die = p.die ∧ p1.seq = p.seq ∧ p1.codes = p.codes ∧
      s.attemptEnd p ue = s.drainPass p1 := by
    refine ⟨if p.rerun then p else { p with satColumns := 0 }, by split <;> rfl, by split <;> rfl, by split <;> rfl, ?_⟩
    simp only [State.attemptEnd, hkept, hsat, List.isEmpty_nil, List.length_nil, Bool.true_or, Bool.false_eq_true, if_false, if_true]
  obtain ⟨c, n, v, x, hu⟩ := s.drainPass_eq p1
  rw [hdrain, hu, ← hdie]
  rw [← hdie] at hr
  exact ⟨⟨c, n, _, rfl⟩, _, State.mem_putPass (p := { p1 with stage := .drained, vals := v, sums := x }) hr (hseq.trans hseq1.symm), hseq1,
    rfl, hcodes⟩

theorem caskPhaseEnd_results (s0 : State) (d m : Nat) (e : Ecc) (p : Pass) (ph : PassPart × List (Nat × Int)) : let s := s0.corrected e.ce
    (s.die d).running m = some p → p.phases[p.phase]? = some ph → p.die = d →
    let r := s.setDie d ((s.die d).rotate m)
    let cs := p.codes ++ [r.phaseCodes p ph]
    (p.phase + 1 < p.phases.length →
      exec (.caskPhaseEnd d m e) s0 = .next { (r.putPass { p with codes := cs, phase := p.phase + 1 }) with free := s.free + 2048 }) ∧
    (p.phase + 1 = p.phases.length → p.discarded = false → satOutputs cs = [] →
      ∃ u p', exec (.caskPhaseEnd d m e) s0 = .next u ∧ u = { s with free := u.free, ctl := u.ctl, tiles := u.tiles, dies := u.dies } ∧
        p' ∈ (u.die d).passes ∧ p'.seq = p.seq ∧ p'.stage = .drained ∧ p'.codes = cs) := by
  intro s hrun hph hdie
  have hexec := exec_caskPhaseEnd (s := s) rfl hrun hph
  clear_value s
  intro r cs
  refine ⟨fun hmore => hexec.trans (congrArg _ (if_pos hmore)), fun hlast hkept hsat => ?_⟩
  obtain ⟨f, hexec⟩ : ∃ f, exec (.caskPhaseEnd d m e) s0 =
      .next (State.attemptEnd { r.putPass { p with codes := cs, phase := p.phase + 1 } with free := f }
        { p with codes := cs, phase := p.phase + 1 } e.ue) := ⟨_, hexec.trans (congrArg _ (if_neg hlast.not_lt))⟩
  have hmem : p ∈ (r.die d).passes := by
    rw [State.die_setDie, if_pos rfl, Die.passes_rotate]
    exact List.mem_of_find?_eq_some hrun
  subst hdie
  have hput := State.mem_putPass (p := { p with codes := cs, phase := p.phase + 1 }) hmem rfl
  obtain ⟨⟨_, _, _, hu⟩, p', hp'⟩ := State.attemptEnd_drains
    (s := { r.putPass { p with codes := cs, phase := p.phase + 1 } with free := f }) hput rfl hkept hsat e.ue
  refine ⟨_, p', hexec, ?_, hp'⟩
  obtain ⟨k, hframe⟩ : ∃ k, State.putPass r { p with codes := cs, phase := p.phase + 1 } = { s with dies := k } := ⟨_, rfl⟩
  rw [hu, hframe]

/-! ### Aborts (R116, R117) -/

theorem exec_caskAbort {p q : Pass} (hrun : (s.die d).running m = some p) (hen : s.get .caskCtlAbortEnable d = 1) (hcls : 2 ≤ p.cls)
    (hpro : p.promoted = false) (hq : q ∈ (s.die d).passes) (hm : q.mac = m) (hw : q.stage = .waiting) (hq0 : q.cls = 0)
    (hlayer : s.unavailable d m q.layer = false) (hflush : s.flushHolds d m q.layer = false) :
    exec (.caskAbort d m) s = .next (if p.discarded then (s.bump .caskAborts d).dropPass p
      else (if p.aborts + 1 = 4 then (s.bump .caskAborts d).bump .caskPromoted d else s.bump .caskAborts d).putPass
        { p with stage := .waiting, reserved := false, aborts := p.aborts + 1, promoted := decide (4 ≤ p.aborts + 1), phase := 0, codes := [] }) := by
  have hwanted : ((s.die d).passes.any fun q =>
      q.mac == m && q.stage == .waiting && q.cls == 0 && !s.unavailable d m q.layer && !s.flushHolds d m q.layer) = true :=
    List.any_eq_true.2 ⟨q, hq, by simp [hm, hw, hq0, hlayer, hflush]⟩
  refine congrArg Host.Outcome.next ?_
  unfold State.abortPass
  simp only [hrun, hen, hcls, hpro, hwanted, decide_true, Bool.not_false, Bool.and_self, if_true]

/-! ### Records (R111, R112, R125) -/

/-- A drained pass completes: a discarded one is counted, of another the record is written and the next vector requested. -/
theorem caskPassDone_results (s0 : State) (t slot : Nat) (e : Ecc) (p : Pass) : let s := s0.corrected e.ce
    s.dies.findSome? (fun e => e.2.passes.find? fun p => p.tile == t && p.slot == slot && p.stage == .drained) = some p →
    let r := ((s.passRecord p).notePass p).dropPass p
    (p.discarded = true → exec (.caskPassDone t slot e) s0 = .next ((s.bump .caskPasses p.die).dropPass p)) ∧
    (p.discarded = false → p.reserved = true ∨ ((s.die p.die).ready = true ∧ s.domainOn (domCask p.die) = true ∧ s.ringRoom p = true) →
      ((caskBody p.desc).vectors ≤ p.vec + 1 → exec (.caskPassDone t slot e) s0 = .next (r.modOp t slot fun o => { o with phase := .done })) ∧
      (p.vec + 1 < (caskBody p.desc).vectors → exec (.caskPassDone t slot e) s0 = .next (r.requestPass t slot (p.vec + 1) e.ue))) := by
  intro s hp r
  have hexec : exec (.caskPassDone t slot e) s0 = .next (s.passDone t slot e.ue) := rfl
  rw [hexec, State.passDone, hp]
  refine ⟨fun hgone => congrArg _ (if_pos hgone), fun hkept hroom => ?_⟩
  have hmay : ¬ (!p.reserved && !((s.die p.die).ready && s.domainOn (domCask p.die) && s.ringRoom p)) = true := by
    obtain hres | ⟨hready, hon, hring⟩ := hroom
    · simp [hres]
    · simp [hready, hon, hring]
  dsimp only
  rw [if_neg (by simp [hkept]), if_neg hmay]
  exact ⟨fun hlast => congrArg _ (if_neg hlast.not_gt), fun hmore => congrArg _ (if_pos hmore)⟩

/-! ### Reference phases and read pointers (R129, R135) -/

theorem exec_referencePhase (s : State) (d m : Nat) (hvisit : (s.die d).visited m = true) (hon : s.domainOn (domCask d) = true)
    (hidle : ∀ p ∈ (s.die d).passes, p.mac = m → p.stage = .drained) :
    exec (.referencePhase d m) s = .next (s.setDie d ((s.die d).setMac m { (s.die d).mac m with refPhase := true })) := by
  have hnone : ((s.die d).passes.any fun p => p.mac == m && p.stage != .drained) = false :=
    List.any_eq_false.2 fun p hp => by simpa using hidle p hp
  refine congrArg Host.Outcome.next (if_pos ?_)
  simp only [hvisit, hon, hnone, Bool.not_false, Bool.and_self]

theorem tileCringRptrWrite_results (s : State) (t r : Nat) (v : W64) (hon : s.domainOn (domTile t) = true) :
    ((s.get .tileCringWptrWptr t r + 2 ^ 32 - v.toNat % 2 ^ 32) % 2 ^ 32 ≤ 2 ^ s.get .tileCringSizeSizeLog2 t r →
      exec (.tileCringRptrWrite t r v) s = .next (s.set .tileCringRptrRptr t r (v.toNat % 2 ^ 32))) ∧
    (2 ^ s.get .tileCringSizeSizeLog2 t r < (s.get .tileCringWptrWptr t r + 2 ^ 32 - v.toNat % 2 ^ 32) % 2 ^ 32 →
      exec (.tileCringRptrWrite t r v) s = .next (s.caskErr (8 * (t / 16)) Code.caskRingPtr t r false 0)) := by
  have hexec : exec (.tileCringRptrWrite t r v) s = .next (s.ringRptrWrite t r v.toNat) := rfl
  rw [hexec, State.ringRptrWrite, if_neg (by simp [hon])]
  exact ⟨fun hin => congrArg _ (if_neg hin.not_gt), fun hout => congrArg _ (if_pos hout)⟩

end Sys2Proof.Machine
end

section
open Sys2Proof Sys2Proof.Machine

/-- Settles O6, command by command. -/
theorem caskPassesRun : Obligations.CaskPassesRun := by
  refine ⟨caskPass_results, fun s d m p hp hfree hfires => exec_caskLayerSwitchDone hp hfree hfires,
    fun s d m p0 hp hfires hfree hbar hdriven hlayer hgap hroom => ?_, exec_caskPassFire_of_held, caskPhaseEnd_results,
    fun s d m p q => exec_caskAbort, caskPassDone_results, exec_referencePhase, tileCringRptrWrite_results⟩
  have hexec := exec_caskPassFire hp hfires hfree rfl hbar hdriven hlayer hgap hroom
  exact ⟨fun hslot => hexec.trans (congrArg _ (if_pos hslot)), fun hslot => hexec.trans (congrArg _ (if_neg (by simp [hslot])))⟩

end

section
/-!
PROOFS. O9: a push of a write request: what it queues where no check of R144 fails, and what a refusal shows.
-/

namespace Sys2Proof.Machine

variable {s : State} {d : Nat}

/-! ### Tokens (R151) -/

/-- A layer's tokens, once replaced, read back under the same bucket. -/
@[simp] theorem Layer.getD_withTokens (x : Layer) (bucket n : Nat) : (x.withTokens bucket n).tokens.getD bucket = n := by
  unfold Layer.withTokens
  split
  next h => exact h.symm
  · rfl

@[simp] theorem Layer.withTokens_wear (x : Layer) (bucket n : Nat) : (x.withTokens bucket n).wear = x.wear := rfl

/-- A layer's tokens rest on its own record, its die's bucket and DEPTH. -/
theorem State.tokens_congr {t : State} {k : Nat} (hlayer : t.layer k = s.layer k) (hbucket : (t.die d).bucket = (s.die d).bucket)
    (hdepth : t.get .cwrCtlDepth d = s.get .cwrCtlDepth d) : t.tokens d k = s.tokens d k := by
  rw [State.tokens, hlayer, hbucket, hdepth, State.tokens]

/-- Tokens replaced are read back, DEPTH at most. -/
theorem State.tokens_setTokens (s : State) (d k n : Nat) : (s.setTokens d k n).tokens d k = min n (s.get .cwrCtlDepth d) := by
  have hlayer : (s.setTokens d k n).layer k = (s.layer k).withTokens (s.die d).bucket n := by simp [State.setTokens]
  have hbucket : ((s.setTokens d k n).die d).bucket = (s.die d).bucket := rfl
  have hdepth : (s.setTokens d k n).get .cwrCtlDepth d = s.get .cwrCtlDepth d := rfl
  rw [State.tokens, hlayer, hbucket, hdepth, Layer.getD_withTokens]

theorem State.tokens_le_depth (s : State) (d k : Nat) : s.tokens d k ≤ s.get .cwrCtlDepth d := min_le_right _ _

/-- Tokens replaced that do not exceed DEPTH are read back as they are. -/
theorem State.tokens_setTokens_of_le {k n : Nat} (h : n ≤ s.get .cwrCtlDepth d) : (s.setTokens d k n).tokens d k = n := by
  rw [State.tokens_setTokens, min_eq_left h]

/-! ### CWR_REQ_STATUS -/

/-- The word that a push writes. -/
theorem State.word_pushStatus_ne (r : WReq) (code : Nat) {x : Nat} (h : x ≠ Fld.cwrReqStatusCode.addr d 0) :
    (s.pushStatus d r code).word x = s.word x := by
  have htokens : Fld.cwrReqStatusTokens.addr d 0 = Fld.cwrReqStatusCode.addr d 0 := rfl
  rw [State.pushStatus, State.word_set, htokens, if_neg h, State.word_set, if_neg h]

theorem State.get_code_pushStatus (s : State) (d : Nat) (r : WReq) (code : Nat) :
    (s.pushStatus d r code).get .cwrReqStatusCode d = code % 2 ^ 16 := by
  rw [State.pushStatus, State.get_set_apart _ .cwrReqStatusTokens .cwrReqStatusCode _ _ _ _ _ rfl (by decide) (by decide) (by decide)
    (by decide)]
  exact State.get_set_self _ _ _ _ _ (by decide) (by decide)

theorem State.get_depth_pushStatus (r : WReq) (code : Nat) : (s.pushStatus d r code).get .cwrCtlDepth d = s.get .cwrCtlDepth d := by
  refine State.get_of_word (State.word_pushStatus_ne r code ?_)
  simp only [Fld.addr, Fld.cwrCtlDepth, Fld.cwrReqStatusCode]
  omega

/-! ### The push (R142, R144, R158) -/

/-- The request that a push queues: what the registers describe, with the kind of the write journal entry that its layer has. -/
def State.pushed (s : State) (d : Nat) : WReq :=
  { s.cwrReq d with origKind := ((s.wjEntry (layerKey d (s.cwrReq d).mac (s.cwrReq d).layer)).map WJEntry.kind).getD 0, row := 0 }

/-- Each of the six commands pushes where CWR_REQ_TARGET names its kind. -/
theorem exec_push {kind : Nat} {c : Instr} (hc : (kind, c) ∈ [(0, Instr.cwrFlush d), (1, .cwrLoad d), (2, .cwrResume d),
      (3, .cwrRepairColumn d), (4, .cwrRepairMacro d), (5, .cwrRepairReference d)]) (hkind : s.get .cwrReqTargetKind d = kind) :
    exec c s = .next (s.cwrPush d) := by
  have hpush : exec c s = .next (s.cwrPushKind d kind) := by
    simp only [List.mem_cons, Prod.mk.injEq, List.not_mem_nil, or_false] at hc
    obtain ⟨rfl, rfl⟩ | ⟨rfl, rfl⟩ | ⟨rfl, rfl⟩ | ⟨rfl, rfl⟩ | ⟨rfl, rfl⟩ | ⟨rfl, rfl⟩ := hc <;> rfl
  rw [hpush, State.cwrPushKind, if_pos hkind]

theorem State.cwrPush_of_refused (hon : s.domainOn (domCask d) = true) {code : Nat} (hcode : s.pushCode d (s.pushed d) = some code) :
    s.cwrPush d = (if code = Code.cwrNoToken then s.bump .cwrNoTokens d else s).pushStatus d (s.pushed d) code := by
  unfold State.pushed at hcode
  unfold State.cwrPush
  simp only [hon, hcode, Bool.not_true, Bool.false_eq_true, if_false]
  rfl

/-- The layers once a request is pushed: a FLUSH takes a token of its own. -/
def State.layersPushed (s : State) (d : Nat) (r : WReq) : SMap Layer :=
  let k := layerKey d r.mac r.layer
  if r.kind = 0 then (s.setTokens d k (s.tokens d k - 1)).layers else s.layers

theorem State.cwrPush_of_accepted (hon : s.domainOn (domCask d) = true) (hcode : s.pushCode d (s.pushed d) = none) :
    s.cwrPush d = State.pushStatus { s.setDie d { s.die d with reqs := (s.die d).reqs ++ [s.pushed d] } with
      layers := s.layersPushed d (s.pushed d) } d (s.pushed d) 0 := by
  unfold State.pushed at hcode
  unfold State.cwrPush
  simp only [hon, hcode, Bool.not_true, Bool.false_eq_true, if_false]
  by_cases hflush : (s.cwrReq d).kind = 0
  · rw [show s.layersPushed d (s.pushed d) = _ from if_pos hflush, if_pos hflush]
    rfl
  · rw [show s.layersPushed d (s.pushed d) = _ from if_neg hflush, if_neg hflush]
    rfl

/-- A refused push: its code, and of the registers CWR_REQ_STATUS and, for want of a token, the count of that. -/
theorem cwrPush_refused (hon : s.domainOn (domCask d) = true) {code : Nat} (hcode : s.pushCode d (s.pushed d) = some code) :
    let t := s.cwrPush d
    t = { s with ctl := t.ctl } ∧ t.get .cwrReqStatusCode d = code % 2 ^ 16 ∧
    (code ≠ Code.cwrNoToken → ∀ x, x ≠ Fld.cwrReqStatusCode.addr d 0 → t.word x = s.word x) ∧
    (code = Code.cwrNoToken → t.word (Fld.cwrNoTokens.addr d 0) = bumpWord (s.word (Fld.cwrNoTokens.addr d 0)) 1) := by
  rw [State.cwrPush_of_refused hon hcode]
  refine ⟨?_, State.get_code_pushStatus _ _ _ _, fun hother x hx => ?_, fun hnone => ?_⟩
  · split <;> rfl
  · rw [if_neg hother, State.word_pushStatus_ne _ _ hx]
  · have hne : Fld.cwrNoTokens.addr d 0 ≠ Fld.cwrReqStatusCode.addr d 0 := by
      simp only [Fld.addr, Fld.cwrNoTokens, Fld.cwrReqStatusCode]
      omega
    rw [if_pos hnone, State.word_pushStatus_ne _ _ hne, State.word_bump, if_pos rfl]

/-- A push that no check refuses. -/
theorem cwrPush_accepted (hon : s.domainOn (domCask d) = true) (hcode : s.pushCode d (s.pushed d) = none) :
    let t := s.cwrPush d
    let k := layerKey d (s.pushed d).mac (s.pushed d).layer
    t = { s with dies := t.dies, layers := t.layers, ctl := t.ctl } ∧ (t.die d).reqs = (s.die d).reqs ++ [s.pushed d] ∧
    t.get .cwrReqStatusCode d = 0 ∧ ((s.pushed d).kind ≠ 0 → t.layers = s.layers) ∧
    ((s.pushed d).kind = 0 → t.tokens d k = s.tokens d k - 1) ∧ ∀ x, x ≠ d → t.die x = s.die x := by
  rw [State.cwrPush_of_accepted hon hcode]
  generalize s.pushed d = r
  intro t k
  have hdie : ∀ x, t.die x = if x = d then { s.die d with reqs := (s.die d).reqs ++ [r] } else s.die x := fun x => s.die_setDie d x _
  have hdepth : t.get .cwrCtlDepth d = s.get .cwrCtlDepth d := State.get_depth_pushStatus r 0
  refine ⟨rfl, by rw [hdie, if_pos rfl], State.get_code_pushStatus _ _ _ _, fun hother => if_neg hother, fun hflush => ?_,
    fun x hx => by rw [hdie, if_neg hx]⟩
  have hlayers : t.layers = (s.setTokens d k (s.tokens d k - 1)).layers := if_pos hflush
  have htoken : t.tokens d k = (s.setTokens d k (s.tokens d k - 1)).tokens d k := by
    refine State.tokens_congr (by rw [State.layer, hlayers, State.layer]) ?_ hdepth
    rw [hdie, if_pos rfl]
    rfl
  rw [htoken, State.tokens_setTokens_of_le ((Nat.sub_le _ _).trans (s.tokens_le_depth d k))]

end Sys2Proof.Machine
end

section
open Sys2Proof Sys2Proof.Machine

/-- Settles O9: the six commands push alike, and the checks of R144 decide. -/
theorem writePushes : Obligations.WritePushes := by
  intro s d kind c hc hkind hon
  rw [exec_push hc hkind]
  subst hkind
  exact ⟨fun hcode => ⟨_, rfl, cwrPush_accepted hon hcode⟩, fun code hcode => ⟨_, rfl, cwrPush_refused hon hcode⟩⟩

end

section
/-!
PROOFS. O10: the rules of the write path: its requests, the write journal, the registers at the head of a block, and tokens that return
with time.
-/

namespace Sys2Proof.Machine

variable {s : State} {d m l : Nat}

/-! ### Requests and layers -/

theorem layerKey_inj {y z : Nat} : layerKey d m y = layerKey d m z ↔ y = z := by
  unfold layerKey
  omega

theorem WReq.layers_nodup (r : WReq) : r.layers.Nodup := by
  unfold WReq.layers
  split
  · exact List.nodup_range
  · exact List.nodup_singleton _

/-- A request found is one with the array, the layer and the stage asked for. -/
theorem State.findReq_spec {st : ReqStage} {r : WReq} (h : s.findReq d m l st = some r) : r.mac = m ∧ r.layer = l ∧ r.stage = st := by
  have hp := List.find?_some h
  simpa [and_assoc] using hp

theorem State.findReq_congr {t : State} (h : (t.die d).reqs = (s.die d).reqs) (st : ReqStage) : t.findReq d m l st = s.findReq d m l st := by
  rw [State.findReq, h, State.findReq]

theorem State.die_putReq (s : State) (d : Nat) (r : WReq) (x : Nat) : (s.putReq d r).die x =
    if x = d then { s.die d with reqs := (s.die d).reqs.map fun q => if q.mac = r.mac ∧ q.layer = r.layer then r else q } else s.die x :=
  s.die_setDie _ _ _

theorem State.die_dropReq (s : State) (d : Nat) (r : WReq) (x : Nat) : (s.dropReq d r).die x =
    if x = d then { s.die d with reqs := (s.die d).reqs.filter fun q => !(q.mac == r.mac && q.layer == r.layer) } else s.die x :=
  s.die_setDie _ _ _

/-- A request replaced by one of its array, layer and stage is found in its place. -/
theorem State.findReq_putReq {st : ReqStage} {r q : WReq} (h : s.findReq d m l st = some r) (hmac : q.mac = m) (hlayer : q.layer = l)
    (hstage : q.stage = st) : (s.putReq d q).findReq d m l st = some q := by
  obtain ⟨hr, hl, -⟩ := State.findReq_spec h
  rw [State.findReq, State.die_putReq, if_pos rfl, List.find?_map]
  have hsome : ((s.die d).reqs.find? ((fun x : WReq => x.mac == m && x.layer == l && x.stage == st) ∘
      fun x => if x.mac = q.mac ∧ x.layer = q.layer then q else x)).isSome = true := by
    rw [List.find?_isSome]
    refine ⟨r, List.mem_of_find?_eq_some h, ?_⟩
    simp [hr, hl, hmac, hlayer, hstage]
  obtain ⟨x, hx⟩ := Option.isSome_iff_exists.1 hsome
  have hp := List.find?_some hx
  rw [hx, Option.map_some]
  by_cases hq : x.mac = q.mac ∧ x.layer = q.layer
  · rw [if_pos hq]
  · simp only [Function.comp_apply, if_neg hq, Bool.and_eq_true, beq_iff_eq] at hp
    obtain ⟨⟨hxm, hxl⟩, -⟩ := hp
    exact absurd ⟨hxm.trans hmac.symm, hxl.trans hlayer.symm⟩ hq

/-- A request taken away is found no more. -/
theorem State.findReq_dropReq (s : State) (d : Nat) (r : WReq) (st : ReqStage) : (s.dropReq d r).findReq d r.mac r.layer st = none := by
  rw [State.findReq, State.die_dropReq, if_pos rfl, List.find?_eq_none]
  intro q hq
  have hout := (List.mem_filter.1 hq).2
  simp only [Bool.not_eq_true', Bool.and_eq_false_iff] at hout
  obtain h | h := hout <;> simp [h]

/-! ### The write journal (R156) -/

theorem State.wjEntry_setWj (s : State) (k y : Nat) (e : Option WJEntry) : (s.setWj k e).wjEntry y = if y = k then e else s.wjEntry y :=
  smGet_smPut _ _ _ _ _

theorem State.wjEntry_congr {t : State} (h : t.journal.writes = s.journal.writes) (k : Nat) : t.wjEntry k = s.wjEntry k := by
  rw [State.wjEntry, h, State.wjEntry]

/-- One layer's entry of a write journal. -/
def State.journalLayer (d m : Nat) (f : Nat → WJEntry) (s : State) (y : Nat × Nat) : State := s.setWj (layerKey d m y.1) (some (f y.2))

theorem journalLayers_frame (f : Nat → WJEntry) (ys : List (Nat × Nat)) (s : State) :
    ∃ w, ys.foldl (State.journalLayer d m f) s = { s with journal := { s.journal with writes := w } } := by
  induction ys generalizing s with
  | nil => exact ⟨_, rfl⟩
  | cons y ys ih => exact ih (s.journalLayer d m f y)

/-- Each of a list of layers has its entry, by its place in the list. -/
theorem wjEntry_journalLayers (f : Nat → WJEntry) {ys : List Nat} (hys : ys.Nodup) (s : State) (n z : Nat) :
    ((ys.zipIdx n).foldl (State.journalLayer d m f) s).wjEntry (layerKey d m z) =
      if z ∈ ys then some (f (n + ys.idxOf z)) else s.wjEntry (layerKey d m z) := by
  induction ys generalizing s n with
  | nil => rfl
  | cons y ys ih =>
    obtain ⟨hy, hys⟩ := List.nodup_cons.1 hys
    rw [List.zipIdx_cons, List.foldl_cons, ih hys, State.journalLayer, State.wjEntry_setWj]
    by_cases hz : z = y
    · subst hz
      simp [hy]
    · simp [layerKey_inj, hz, List.idxOf_cons_ne _ (Ne.symm hz), Nat.add_assoc, Nat.add_comm 1]

/-! ### Registers at the head of a block -/

section
variable {x : Nat} (hx : x % 0x1000 = 0)
include hx

theorem State.word_head_setWord {a : Nat} (v : W64) (ha : a % 0x1000 ≠ 0) : (s.setWord a v).word x = s.word x := by
  rw [State.word_setWord, if_neg fun h : x = a => ha (h ▸ hx)]

theorem State.word_head_noteErr (s : State) (e : MemErr) : (s.noteErr e).word x = s.word x := by
  cases e with
  | unmapped => rfl
  | scratchUe t => exact State.word_head_setWord hx _ (by rw [Fld.addr_mod]; decide)
  | accumUe t => exact State.word_head_setWord hx _ (by rw [Fld.addr_mod]; decide)
  | ue a =>
    show (s.noteMemErr _ a).word x = s.word x
    unfold State.noteMemErr
    split
    · rfl
    next k j _ =>
      have hk : k % 5 < 5 := Nat.mod_lt _ (by decide)
      have hue : Fld.xferMemUe.addr (k / 5) (k % 5) % 0x1000 ≠ 0 := by
        simp only [Fld.addr, Fld.xferMemUe]
        omega
      have herr : Fld.xferMemErrCode.addr (k / 5) 0 % 0x1000 ≠ 0 := by rw [Fld.addr_mod]; decide
      exact (State.word_head_setWord hx _ herr).trans <| (State.word_head_setWord hx _ herr).trans <|
        (State.word_head_setWord hx _ herr).trans <| State.word_head_setWord hx _ hue

theorem State.word_head_signalService (s : State) (n : Nat) : (s.signalService n).word x = s.word x := by
  have hdropped : ∀ u, Fld.syncDropped.addr u 0 % 0x1000 ≠ 0 := fun u => by rw [Fld.addr_mod]; decide
  have hsat : ∀ u, Fld.syncSaturations.addr u 0 % 0x1000 ≠ 0 := fun u => by rw [Fld.addr_mod]; decide
  unfold State.signalService State.signalTo
  dsimp only
  split_ifs
  · rfl
  · exact State.word_head_setWord hx _ (hdropped _)
  · exact State.word_head_setWord hx _ (hdropped _)
  · exact State.word_head_setWord hx _ (hsat _)
  · rfl

end

theorem cwrCtl_addr_mod (d : Nat) : Fld.cwrCtlDepth.addr d 0 % 0x1000 = 0 := by
  rw [Fld.addr_mod]
  rfl

/-! ### The end of a request (R149, Table 5.2) -/

theorem State.writeBytes_frame (s : State) (a : Nat) (bs : List Byte) : ∃ m, s.writeBytes a bs = { s with mem := m } := ⟨_, rfl⟩

/-- A record written and its counter signalled: what that can change. -/
theorem State.cwrFinish_frame (s : State) (d : Nat) (r : WReq) (code : Nat) (taken : Bool) (ue : List Nat) :
    ∃ f c m k, s.cwrFinish d r code taken ue = { s with free := f, ctl := c, mem := m, ctrs := k } := by
  unfold State.cwrFinish
  extract_lets k bs s1
  obtain ⟨f, c, m, h1⟩ : ∃ f c m, s1 = { s with free := f, ctl := c, mem := m } := by
    dsimp only [s1]
    clear_value bs
    split
    · obtain ⟨m, hm⟩ := s.tick.writeBytes_frame r.record bs
      exact ⟨_, _, m, hm⟩
    · obtain ⟨c, hc⟩ := s.noteErr_frame ‹_›
      exact ⟨_, c, _, hc⟩
  clear_value s1
  split
  · obtain ⟨c', k, h2⟩ := s1.signalService_frame r.sync
    rw [h2, h1]
    exact ⟨_, _, _, _, rfl⟩
  · rw [h1]
    exact ⟨_, _, _, _, rfl⟩

theorem State.get_depth_cwrFinish (s : State) (d : Nat) (r : WReq) (code : Nat) (taken : Bool) (ue : List Nat) :
    (s.cwrFinish d r code taken ue).get .cwrCtlDepth d = s.get .cwrCtlDepth d := by
  refine State.get_of_word ?_
  have hx := cwrCtl_addr_mod d
  unfold State.cwrFinish
  extract_lets k bs s1
  have h1 : s1.word (Fld.cwrCtlDepth.addr d 0) = s.word (Fld.cwrCtlDepth.addr d 0) := by
    dsimp only [s1]
    clear_value bs
    split
    · rfl
    · exact State.word_head_noteErr hx s _
  clear_value s1
  split
  · exact (State.word_head_signalService hx s1 _).trans h1
  · exact h1

/-! ### Every bucket of a die (R151) -/

/-- A change of every listed value that leaves what an unlisted key holds as it is changes the value of every key. -/
theorem smGet_smMapV {α : Type} [DecidableEq α] (f : Nat → α) (g : Nat → α → α) (hg : ∀ k, g k (f k) = f k) {n : SMap α}
    (hn : n.Pairwise fun a b => a.1 < b.1) (k : Nat) : smGet f (smMapV f g n) k = g k (smGet f n k) := by
  induction n with
  | nil => exact (hg k).symm
  | cons e n ih =>
    obtain ⟨j, v⟩ := e
    obtain ⟨hj, htail⟩ := List.pairwise_cons.1 hn
    replace ih := ih htail
    have hrest : smMapV f g ((j, v) :: n) = if g j v = f j then smMapV f g n else (j, g j v) :: smMapV f g n := by
      by_cases h : g j v = f j <;> simp [smMapV, h]
    rw [hrest]
    by_cases hkj : k = j
    · subst hkj
      have hk : smGet f n k = f k := smGet_of_unlisted f fun h => by
        obtain ⟨e, he, rfl⟩ := List.mem_map.1 h
        exact absurd (hj e he) (lt_irrefl _)
      split
      next h => rw [ih, hk, hg, smGet, if_pos rfl, h]
      · simp [smGet]
    · split
      · rw [ih, smGet, if_neg hkj]
      · rw [smGet, if_neg hkj, ih, smGet, if_neg hkj]

/-- A layer of any die when the buckets of die `d` change from `b`. -/
def Layer.mapTokens (d b : Nat) (f : Nat → Nat) (k : Nat) (x : Layer) : Layer :=
  if k / 32768 = d then x.withTokens (f b) (f (x.tokens.getD b)) else x

theorem State.layer_mapTokens (hwf : smWf (fun _ => {}) s.layers) (d : Nat) (f : Nat → Nat) (k : Nat) :
    (s.mapTokens d f).layer k = if k / 32768 = d then
      (s.layer k).withTokens (f (s.die d).bucket) (f ((s.layer k).tokens.getD (s.die d).bucket)) else s.layer k := by
  refine smGet_smMapV (fun _ => {}) (Layer.mapTokens d (s.die d).bucket f) (fun j => ?_) hwf.1 k
  unfold Layer.mapTokens
  split
  · simp [Layer.withTokens]
  · rfl

theorem State.die_mapTokens (s : State) (d : Nat) (f : Nat → Nat) (x : Nat) :
    (s.mapTokens d f).die x = if x = d then { s.die d with bucket := f (s.die d).bucket } else s.die x := s.die_setDie d x _

theorem cwrTokenTick_results (s : State) (d : Nat) (hon : s.domainOn (domCask d) = true) (hwf : smWf (fun _ => {}) s.layers) :
    ∃ t, exec (.cwrTokenTick d) s = .next t ∧ t = { s with layers := t.layers, dies := t.dies } ∧
      (∀ k, k / 32768 = d → t.tokens d k = min (s.tokens d k + 1) (s.get .cwrCtlDepth d) ∧
        { (t.layer k) with tokens := none } = { (s.layer k) with tokens := none }) ∧
      (∀ k, k / 32768 ≠ d → t.layer k = s.layer k) ∧ t.die d = { s.die d with bucket := (t.die d).bucket } ∧
      ∀ x, x ≠ d → t.die x = s.die x := by
  have hexec : exec (.cwrTokenTick d) s = .next (s.mapTokens d fun n => min (n + 1) (s.get .cwrCtlDepth d)) :=
    congrArg Host.Outcome.next (if_neg (by simp [hon]))
  refine ⟨_, hexec, rfl, fun k hk => ⟨?_, ?_⟩, fun k hk => ?_, ?_, fun x hx => ?_⟩
  · have hdepth : (s.mapTokens d fun n => min (n + 1) (s.get .cwrCtlDepth d)).get .cwrCtlDepth d = s.get .cwrCtlDepth d := rfl
    rw [State.tokens, State.layer_mapTokens hwf, if_pos hk, State.die_mapTokens, if_pos rfl, Layer.getD_withTokens, hdepth, State.tokens]
    omega
  · rw [State.layer_mapTokens hwf, if_pos hk]
    rfl
  · rw [State.layer_mapTokens hwf, if_neg hk]
  · rw [State.die_mapTokens, if_pos rfl]
  · rw [State.die_mapTokens, if_neg hx]

end Sys2Proof.Machine
end

section
/-!
PROOFS. O10: a request admitted, or ended before any cell is programmed (R145, R154, R158).
-/

namespace Sys2Proof.Machine

variable {s : State} {d : Nat}

/-- The first error that the reads of a request's buffers meet. -/
def State.inputErr (s : State) (r : WReq) (ue : List Nat) : Option MemErr := r.inputs.findSome? fun b => s.accessErr ue b.1 b.2 false

/-- Whether a request may have its digests: any but a RESUME, and a RESUME that finds them in its layer's entry (R158). -/
def State.resumeOk (s : State) (d : Nat) (r : WReq) : Bool :=
  r.kind != 2 || ((s.wjEntry (layerKey d r.mac r.layer)).map fun e => decide (e.digests = s.cwrDigests r)).getD false

/-- Whether what a request reads admits it (R145, R158). -/
def State.inputsOk (s : State) (d : Nat) (r : WReq) (ue : List Nat) : Bool :=
  (s.inputErr r ue).isNone && s.resumeOk d r && s.targetsOk r && s.scalesOk r

section
variable {r : WReq} (hr : ((s.die d).reqs.find? fun r => r.stage == .queued) = some r) (hpar : s.parallelOk d r = true)
  (hcap : s.capAdmits d = true) (hready : (s.die d).ready = true) (hbist : (s.die d).bistQuiesce = false)
  (hon : s.domainOn (domCask d) = true)
include hr hpar hcap hready hbist hon

theorem State.cwrAdmit_of_err {ue : List Nat} {e : MemErr} (he : s.inputErr r ue = some e) :
    s.cwrAdmit d r.mac r.layer ue = (s.noteErr e).cwrEnd d r Code.cwrMemory ue := by
  unfold State.inputErr at he
  simp [State.cwrAdmit, hr, hpar, hcap, hready, hbist, hon, he]

theorem State.cwrAdmit_of_clean {ue : List Nat} (he : s.inputErr r ue = none) : s.cwrAdmit d r.mac r.layer ue =
    if s.resumeOk d r = false then s.cwrEnd d r Code.cwrResumeDigest ue
    else if s.targetsOk r = false ∨ s.scalesOk r = false then s.cwrEnd d r Code.cwrLevelRange ue
    else s.putReq d { r with stage := .admitted, digests := s.cwrDigests r } := by
  unfold State.inputErr at he
  simp [State.cwrAdmit, State.resumeOk, hr, hpar, hcap, hready, hbist, hon, he]

theorem State.cwrAdmit_of_ok {ue : List Nat} (hok : s.inputsOk d r ue = true) :
    s.cwrAdmit d r.mac r.layer ue = s.putReq d { r with stage := .admitted, digests := s.cwrDigests r } := by
  simp only [State.inputsOk, Bool.and_eq_true, Option.isNone_iff_eq_none] at hok
  obtain ⟨⟨⟨hclean, hresume⟩, htargets⟩, hscales⟩ := hok
  rw [State.cwrAdmit_of_clean hr hpar hcap hready hbist hon hclean, if_neg (by simp [hresume]), if_neg (by simp [htargets, hscales])]

/-- An input that fails ends the request, an access error once it is noted. -/
theorem State.cwrAdmit_of_not_ok {ue : List Nat} (hok : s.inputsOk d r ue = false) : ∃ u code,
    s.cwrAdmit d r.mac r.layer ue = u.cwrEnd d r code ue ∧ (u = s ∨ ∃ e, u = s.noteErr e) := by
  cases he : s.inputErr r ue with
  | some e => exact ⟨_, _, State.cwrAdmit_of_err hr hpar hcap hready hbist hon he, .inr ⟨e, rfl⟩⟩
  | none =>
    rw [State.cwrAdmit_of_clean hr hpar hcap hready hbist hon he]
    by_cases hresume : s.resumeOk d r = false
    · exact ⟨s, _, if_pos hresume, .inl rfl⟩
    · have hrange : s.targetsOk r = false ∨ s.scalesOk r = false := by
        simpa only [State.inputsOk, he, Bool.eq_true_of_not_eq_false hresume, Option.isNone_none, Bool.true_and, Bool.and_eq_false_iff]
          using hok
      exact ⟨s, _, by rw [if_neg hresume, if_pos hrange], .inl rfl⟩

end

/-- A request that ends before any cell is programmed is gone, with a FLUSH's token back, and nothing of the layers, the cells or the journal
has changed besides. -/
theorem cwrEnd_results (s : State) (d : Nat) (r : WReq) (code : Nat) (ue : List Nat) :
    let k := layerKey d r.mac r.layer
    let t := s.cwrEnd d r code ue
    t.die d = { s.die d with reqs := (s.die d).reqs.filter fun q => !(q.mac == r.mac && q.layer == r.layer) } ∧
    t.tokens d k = (if r.kind = 0 then min (s.get .cwrCtlDepth d) (s.tokens d k + 1) else s.tokens d k) ∧
    (t.layer k).wear = (s.layer k).wear ∧ t.cells = s.cells ∧ t.journal = s.journal ∧ ∀ x, x ≠ d → t.die x = s.die x := by
  intro k t
  obtain ⟨s1, hs1⟩ : ∃ s1, s1 = if r.kind = 0 then s.setTokens d k (min (s.get .cwrCtlDepth d) (s.tokens d k + 1)) else s := ⟨_, rfl⟩
  obtain ⟨y, hy⟩ : ∃ y, s1 = { s with layers := y } := by
    rw [hs1]
    split <;> exact ⟨_, rfl⟩
  have ht : t = (s1.dropReq d r).cwrFinish d r code false ue := by
    rw [hs1]
    rfl
  obtain ⟨_, _, _, _, hframe⟩ := (s1.dropReq d r).cwrFinish_frame d r code false ue
  have hdie : ∀ x, t.die x = (s.dropReq d r).die x := fun x => by
    rw [ht, hframe, hy]
    rfl
  have hdepth : t.get .cwrCtlDepth d = s1.get .cwrCtlDepth d := by
    rw [ht, State.get_depth_cwrFinish]
    rfl
  have hlayer : t.layer k = s1.layer k := by
    rw [ht, hframe]
    rfl
  have hbucket : (t.die d).bucket = (s1.die d).bucket := by
    rw [hdie, State.die_dropReq, if_pos rfl, hy]
    rfl
  refine ⟨?_, ?_, ?_, ?_, ?_, fun x hx => ?_⟩
  · rw [hdie, State.die_dropReq, if_pos rfl]
  · rw [State.tokens_congr hlayer hbucket hdepth, hs1]
    split
    · exact State.tokens_setTokens_of_le (min_le_left _ _)
    · rfl
  · rw [hlayer, hs1]
    split
    · rw [State.setTokens, State.layer_setLayer, if_pos rfl, Layer.withTokens_wear]
    · rfl
  · rw [ht, hframe, hy]
    rfl
  · rw [ht, hframe, hy]
    rfl
  · rw [hdie, State.die_dropReq, if_neg hx]

theorem State.tokens_noteErr (s : State) (e : MemErr) (d k : Nat) : (s.noteErr e).tokens d k = s.tokens d k := by
  obtain ⟨_, h⟩ := s.noteErr_frame e
  exact State.tokens_congr (by rw [h]; rfl) (by rw [h]; rfl) (State.get_of_word (State.word_head_noteErr (cwrCtl_addr_mod d) s e))

theorem cwrAdmit_results (s0 : State) (d : Nat) (e : Ecc) (r : WReq) : let s := s0.corrected e.ce
    ((s.die d).reqs.find? fun r => r.stage == .queued) = some r →
    s.parallelOk d r = true → s.capAdmits d = true → (s.die d).ready = true → (s.die d).bistQuiesce = false → s.domainOn (domCask d) = true →
    let k := layerKey d r.mac r.layer
    (s.inputsOk d r e.ue = true →
      exec (.cwrAdmit d r.mac r.layer e) s0 = .next (s.putReq d { r with stage := .admitted, digests := s.cwrDigests r })) ∧
    (s.inputsOk d r e.ue = false → ∃ t, exec (.cwrAdmit d r.mac r.layer e) s0 = .next t ∧
      t.die d = { s.die d with reqs := (s.die d).reqs.filter fun q => !(q.mac == r.mac && q.layer == r.layer) } ∧
      t.tokens d k = (if r.kind = 0 then min (s.get .cwrCtlDepth d) (s.tokens d k + 1) else s.tokens d k) ∧
      (t.layer k).wear = (s.layer k).wear ∧ t.cells = s.cells ∧ t.journal = s.journal ∧ ∀ x, x ≠ d → t.die x = s.die x) := by
  intro s hr hpar hcap hready hbist hon k
  refine ⟨fun hok => congrArg Host.Outcome.next (State.cwrAdmit_of_ok hr hpar hcap hready hbist hon hok), fun hok => ?_⟩
  obtain ⟨u, code, hend, hu⟩ := State.cwrAdmit_of_not_ok hr hpar hcap hready hbist hon hok
  refine ⟨_, congrArg Host.Outcome.next hend, ?_⟩
  have hres := cwrEnd_results u d r code e.ue
  obtain rfl | ⟨m, rfl⟩ := hu
  · exact hres
  · obtain ⟨_, hnote⟩ := s.noteErr_frame m
    have hdepth : (s.noteErr m).get .cwrCtlDepth d = s.get .cwrCtlDepth d :=
      State.get_of_word (State.word_head_noteErr (cwrCtl_addr_mod d) s m)
    simp only [State.tokens_noteErr, hdepth] at hres
    generalize (s.noteErr m).cwrEnd d r code e.ue = t at hres ⊢
    rw [hnote] at hres
    exact hres

end Sys2Proof.Machine
end

section
/-!
PROOFS. O10: the take of a layer (R114, R145, R156).
-/

namespace Sys2Proof.Machine

variable {s : State} {d m l : Nat}

/-! ### What settling a die's passes can change -/

/-- What settling passes can change: registers, tiles, and of the dies their passes. -/
def PassChanges (s t : State) : Prop :=
  (∃ c n k, t = { s with ctl := c, tiles := n, dies := k }) ∧ ∀ d, ∃ ps, t.die d = { s.die d with passes := ps }

theorem PassChanges.refl (s : State) : PassChanges s s := ⟨⟨_, _, _, rfl⟩, fun _ => ⟨_, rfl⟩⟩

theorem PassChanges.trans {s t u : State} (h : PassChanges s t) (k : PassChanges t u) : PassChanges s u := by
  obtain ⟨⟨_, _, _, ht⟩, hdie⟩ := h
  obtain ⟨⟨_, _, _, hu⟩, kdie⟩ := k
  refine ⟨⟨_, _, _, by rw [hu, ht]⟩, fun d => ?_⟩
  obtain ⟨_, h1⟩ := hdie d
  obtain ⟨ps, h2⟩ := kdie d
  exact ⟨ps, by rw [h2, h1]⟩

theorem PassChanges.ite {s a b : State} {c : Prop} [Decidable c] (ha : PassChanges s a) (hb : PassChanges s b) :
    PassChanges s (if c then a else b) := by
  split <;> assumption

theorem PassChanges.foldl {α : Type} {f : State → α → State} (h : ∀ s x, PassChanges s (f s x)) (xs : List α) (s : State) :
    PassChanges s (xs.foldl f s) := by
  induction xs generalizing s with
  | nil => exact .refl s
  | cons x xs ih => exact (h s x).trans (ih (f s x))

/-- An update of registers and tiles alone. -/
theorem PassChanges.of_frame {s t : State} (h : ∃ c n, t = { s with ctl := c, tiles := n }) : PassChanges s t := by
  obtain ⟨_, _, rfl⟩ := h
  exact ⟨⟨_, _, _, rfl⟩, fun _ => ⟨_, rfl⟩⟩

theorem PassChanges.bump (s : State) (f : Fld) (i j n : Nat) : PassChanges s (s.bump f i j n) := .of_frame ⟨_, _, rfl⟩

theorem PassChanges.modOp (s : State) (t k : Nat) (f : Op → Op) : PassChanges s (s.modOp t k f) := by
  obtain ⟨_, h⟩ := s.modOp_frame t k f
  exact .of_frame ⟨_, _, h⟩

theorem PassChanges.noteErr (s : State) (e : MemErr) : PassChanges s (s.noteErr e) := by
  obtain ⟨_, h⟩ := s.noteErr_frame e
  exact .of_frame ⟨_, _, h⟩

theorem PassChanges.passFlags (s : State) (p : Pass) (fl : Nat) : PassChanges s (s.passFlags p fl) := .of_frame (s.passFlags_frame p fl)

/-- A die's passes replaced. -/
theorem PassChanges.setPasses (s : State) (d : Nat) (ps : List Pass) : PassChanges s (s.setDie d { s.die d with passes := ps }) := by
  refine ⟨⟨_, _, _, rfl⟩, fun k => ?_⟩
  rw [State.die_setDie]
  split
  next h => exact ⟨ps, by rw [h]⟩
  · exact ⟨_, rfl⟩

theorem PassChanges.putPass (s : State) (p : Pass) : PassChanges s (s.putPass p) := .setPasses s _ _
theorem PassChanges.dropPass (s : State) (p : Pass) : PassChanges s (s.dropPass p) := .setPasses s _ _

theorem PassChanges.failPass (s : State) (p : Pass) (code detail : Nat) : PassChanges s (s.failPass p code detail) :=
  (PassChanges.dropPass s p).trans (.modOp _ _ _ _)

theorem PassChanges.fallbackDrain (s : State) (p : Pass) (a : Nat) : PassChanges s (s.fallbackDrain p a) :=
  .ite (.putPass _ _) ((PassChanges.passFlags s p _).trans (.putPass _ _))

/-- The number of bytes stays a variable, so that no list of them is formed. -/
theorem PassChanges.fallbackPass (s : State) (p : Pass) (ue : List Nat) : PassChanges s (s.fallbackPass p ue) := by
  unfold State.fallbackPass
  obtain ⟨n, hn⟩ : ∃ n, n = 0x100000 := ⟨_, rfl⟩
  rw [← hn]
  split
  · exact .failPass _ _ _ _
  · split
    · exact ((PassChanges.noteErr s _).trans (.dropPass _ _)).trans (.modOp _ _ _ _)
    · exact .fallbackDrain _ _ _

theorem PassChanges.settlePass (s : State) (p : Pass) (ue : List Nat) : PassChanges s (s.settlePass p ue) := by
  have hback : PassChanges s (((s.bump .caskRewriteFallbacks p.die).passInfo p 8).fallbackPass { p with how := 8 } ue) :=
    ((PassChanges.bump s _ _ _ _).trans (.modOp _ _ _ _)).trans (.fallbackPass _ _ _)
  unfold State.settlePass
  split
  · exact .failPass _ _ _ _
  · exact .ite (.refl s) <| .ite (.fallbackPass _ _ _) <| .ite (.putPass _ _) <| .ite (.fallbackPass _ _ _) <|
      .ite (.ite hback <| .ite (.refl s) <| (PassChanges.bump s _ _ _ _).trans (.putPass _ _)) (.refl s)

theorem PassChanges.settleDie (s : State) (d : Nat) (ue : List Nat) : PassChanges s (s.settleDie d ue) :=
  .foldl (fun u p => .settlePass u p ue) _ s

/-! ### The take -/

/-- The row mark that a take finds: a RESUME goes on from its layer's entry (R158). -/
def State.takeMark (s : State) (d m l : Nat) (r : WReq) : Nat :=
  if r.kind = 2 then ((s.wjEntry (layerKey d m l)).map WJEntry.mark).getD 0 else 0

/-- The write journal entry of the `i`-th layer that a request takes (R156). -/
def WReq.entry (r : WReq) (mark i : Nat) : WJEntry :=
  { kind := r.doing, sourceDigest := r.digests.getD (3 * i) [], mapDigest := r.digests.getD (3 * i + 1) [],
    scalesDigest := r.digests.getD (3 * i + 2) [], mark := mark }

/-- The layer taken, before the die's waiting passes are settled anew. -/
def State.taken (s : State) (d m : Nat) (r : WReq) (mark : Nat) : State :=
  let s2 := (r.layers.zipIdx.foldl (State.journalLayer d m (r.entry mark)) s).putReq d { r with stage := .held, mark := mark }
  s2.setDie d ((s2.die d).toLayer m (r.layers.headD 0))

theorem exec_cwrTakeLayer {s0 : State} {e : Ecc} (hs : s0.corrected e.ce = s) {r : WReq} (hr : s.findReq d m l .admitted = some r)
    (hgap : ((s.die d).passes.any fun p => p.mac == m && p.stage == .fired) = false) (hvisit : (s.die d).visited m = false)
    (hpar : s.parallelOk d r = true) (hcap : s.capAdmits d = true) (hbist : (s.die d).bistQuiesce = false)
    (hsafe : s.rel.safeDrain = false) (hon : s.domainOn (domCask d) = true) :
    exec (.cwrTakeLayer d m l e) s0 = .next ((s.taken d m r (s.takeMark d m l r)).settleDie d e.ue) := by
  subst hs
  refine congrArg Host.Outcome.next ?_
  unfold State.cwrTake
  simp only [hr, hgap, hvisit, hpar, hcap, hbist, hsafe, hon, Bool.not_true, Bool.or_self, Bool.false_eq_true, if_false]
  rfl

theorem cwrTakeLayer_results (s0 : State) (d m l : Nat) (e : Ecc) (r : WReq) : let s := s0.corrected e.ce
    s.findReq d m l .admitted = some r →
    ((s.die d).passes.any fun p => p.mac == m && p.stage == .fired) = false → (s.die d).visited m = false → s.parallelOk d r = true →
    s.capAdmits d = true → (s.die d).bistQuiesce = false → s.rel.safeDrain = false → s.domainOn (domCask d) = true →
    let mark := s.takeMark d m l r
    ∃ t, exec (.cwrTakeLayer d m l e) s0 = .next t ∧ t.cells = s.cells ∧ ((t.die d).mac m).layer = r.layers.headD 0 ∧
      (t.die d).reqs = ((s.die d).reqs.map fun q => if q.mac = m ∧ q.layer = l then { r with stage := .held, mark := mark } else q) ∧
      ∀ i y, r.layers[i]? = some y → t.wjEntry (layerKey d m y) = some (r.entry mark i) := by
  intro s hr hgap hvisit hpar hcap hbist hsafe hon mark
  refine ⟨_, exec_cwrTakeLayer rfl hr hgap hvisit hpar hcap hbist hsafe hon, ?_⟩
  obtain ⟨rfl, rfl, -⟩ := State.findReq_spec hr
  obtain ⟨w, hw⟩ := journalLayers_frame (d := d) (m := r.mac) (r.entry mark) r.layers.zipIdx s
  have htaken : (s.taken d r.mac r mark).die d = Die.toLayer { s.die d with
      reqs := (s.die d).reqs.map fun q => if q.mac = r.mac ∧ q.layer = r.layer then { r with stage := .held, mark := mark } else q }
        r.mac (r.layers.headD 0) := by
    rw [State.taken, State.die_setDie, if_pos rfl, State.die_putReq, if_pos rfl, hw]
    rfl
  have hcells : (s.taken d r.mac r mark).cells = s.cells := by
    rw [State.taken, hw]
    rfl
  have hwj : ∀ y, (s.taken d r.mac r mark).wjEntry y = (r.layers.zipIdx.foldl (State.journalLayer d r.mac (r.entry mark)) s).wjEntry y :=
    fun _ => rfl
  obtain ⟨⟨_, _, _, hframe⟩, hdies⟩ := PassChanges.settleDie (s.taken d r.mac r mark) d e.ue
  obtain ⟨ps, hdie⟩ := hdies d
  refine ⟨?_, ?_, ?_, fun i y hy => ?_⟩
  · rw [hframe, ← hcells]
  · rw [hdie, htaken]
    exact congrArg Mac.layer ((Die.mac_setMac _ _ _ _).trans (if_pos rfl))
  · rw [hdie, htaken]
    rfl
  · obtain ⟨hi, rfl⟩ := List.getElem?_eq_some_iff.1 hy
    rw [State.wjEntry_congr (s := s.taken d r.mac r mark) (by rw [hframe]), hwj, wjEntry_journalLayers _ r.layers_nodup,
      if_pos (List.getElem_mem hi), r.layers_nodup.idxOf_getElem, Nat.zero_add]

end Sys2Proof.Machine
end

section
/-!
PROOFS. O10: one row of a held layer (R146, R148, R156).
-/

namespace Sys2Proof.Machine

variable {s : State} {d m l : Nat}

/-! ### The cells of a row -/

/-- Whether a request's row is verified only: a RESUME below its mark (R158). -/
def WReq.verifies (r : WReq) : Bool := r.kind == 2 && decide (r.row < r.mark)

/-- The columns that a request's row programs. -/
def State.rowCols (s : State) (r : WReq) : List Nat := (List.range 1024).filter fun j => s.cwrPrograms r r.row j

theorem State.mem_rowCols {r : WReq} {j : Nat} : j ∈ s.rowCols r ↔ j < 1024 ∧ s.cwrPrograms r r.row j = true := by
  rw [State.rowCols, List.mem_filter, List.mem_range]

/-- The cells of a row worked through, one column after the other. -/
def workCells (d : Nat) (cells : List CellReading) (verify : Bool) (cols : List Nat) (x : State × WReq) : State × WReq :=
  cols.foldl (fun x j => x.1.cwrCell d x.2 cells verify j) x

/-- `x` is a request of `s` at work on its row: of the state the cells alone differ, of the request its map, its errors and its counts. -/
structure AtWork (s : State) (r : WReq) (x : State × WReq) : Prop where
  state : ∃ c, x.1 = { s with cells := c }
  request : ∃ a b n k, x.2 = { r with map := a, errs := b, misses := n, cells := k }

/-- The key of a cell of the row that a request works on. -/
def WReq.cellKey (r : WReq) (d col : Nat) : Nat := (layerKey d r.mac r.layerNow * 1024 + r.row) * 1024 + col

section
variable {r : WReq} {x : State × WReq} {cells : List CellReading} {verify : Bool}

theorem AtWork.refl (s : State) (r : WReq) : AtWork s r (s, r) := ⟨⟨_, rfl⟩, _, _, _, _, rfl⟩

theorem AtWork.cwrCell (h : AtWork s r x) (j : Nat) : AtWork s r (x.1.cwrCell d x.2 cells verify j) := by
  obtain ⟨⟨c, hs⟩, _, _, _, _, hr⟩ := h
  refine ⟨?_, ?_⟩
  · unfold State.cwrCell
    dsimp only
    split
    · exact ⟨c, hs⟩
    · rw [hs]
      exact ⟨_, rfl⟩
  · unfold State.cwrCell
    rw [hr]
    exact ⟨_, _, _, _, rfl⟩

/-- The state and the request that a cell meets give it the target that the row began with. -/
theorem AtWork.cells_cwrCell (h : AtWork s r x) (j : Nat) : (x.1.cwrCell d x.2 cells verify j).1.cells =
    if verify then x.1.cells else smPut (fun _ => 0) (r.cellKey d j) (achievedOf cells j (s.cwrTarget r r.row j)) x.1.cells := by
  obtain ⟨⟨_, hs⟩, _, _, _, _, hr⟩ := h
  unfold State.cwrCell
  rw [hs, hr]
  cases verify <;> rfl

theorem AtWork.workCells {cols : List Nat} (h : AtWork s r x) : AtWork s r (workCells d cells verify cols x) := by
  induction cols generalizing x with
  | nil => exact h
  | cons j cols ih => exact ih (h.cwrCell j)

/-- A cell of another key than those of the columns worked on is as it was. -/
theorem AtWork.cell_apart {cols : List Nat} (h : AtWork s r x) {k : Nat} (hk : ∀ j ∈ cols, k ≠ r.cellKey d j) :
    smGet (fun _ => 0) (Machine.workCells d cells verify cols x).1.cells k = smGet (fun _ => 0) x.1.cells k := by
  induction cols generalizing x with
  | nil => rfl
  | cons j cols ih =>
    refine (ih (h.cwrCell j) fun i hi => hk i (List.mem_cons_of_mem _ hi)).trans ?_
    rw [h.cells_cwrCell]
    split
    · rfl
    · rw [smGet_smPut_ne _ (hk j List.mem_cons_self)]

/-- A programmed cell holds the level that the readings give. -/
theorem AtWork.cell_programmed {cols : List Nat} (h : AtWork s r x) {j : Nat} (hj : j ∈ cols) :
    smGet (fun _ => 0) (Machine.workCells d cells false cols x).1.cells (r.cellKey d j) = achievedOf cells j (s.cwrTarget r r.row j) := by
  induction cols generalizing x with
  | nil => cases hj
  | cons i cols ih =>
    by_cases hmore : j ∈ cols
    · exact ih (h.cwrCell i) hmore
    · obtain rfl : j = i := (List.mem_cons.1 hj).resolve_right hmore
      refine ((h.cwrCell j).cell_apart fun i hi hkey => ?_).trans ?_
      · exact hmore ((Nat.add_left_cancel hkey : j = i) ▸ hi)
      · rw [h.cells_cwrCell, if_neg Bool.false_ne_true, smGet_smPut_self]

end

/-! ### The end of a row -/

/-- Where a request goes on after its row: a REPAIR_MACRO after the last row of a layer with its next layer. -/
def WReq.nextRow (r q : WReq) : WReq :=
  if r.row = 1023 ∧ r.kind = 4 ∧ r.sub < 7 then { q with row := 0, sub := r.sub + 1 } else { q with row := r.row + 1 }

/-- The row mark rewritten, the request gone on as `q`, and the row's layer current. -/
def State.rowEnd (s : State) (d : Nat) (r q : WReq) : State :=
  let s1 := (s.cwrMark d r (r.row + 1)).putReq d q
  s1.setDie d ((s1.die d).toLayer r.mac r.layerNow)

theorem State.cwrMark_frame (s : State) (d : Nat) (r : WReq) (n : Nat) : ∃ j, s.cwrMark d r n = { s with journal := j } := by
  unfold State.cwrMark
  split
  · split <;> exact ⟨_, rfl⟩
  · exact ⟨_, rfl⟩

theorem State.rowEnd_frame (s : State) (d : Nat) (r q : WReq) :
    ∃ k j, s.rowEnd d r q = { s with dies := k, journal := j } := by
  obtain ⟨j, hj⟩ := s.cwrMark_frame d r (r.row + 1)
  rw [State.rowEnd, hj]
  exact ⟨_, _, rfl⟩

theorem State.die_rowEnd (s : State) (d : Nat) (r q : WReq) (x : Nat) : (s.rowEnd d r q).die x =
    if x = d then ((s.putReq d q).die d).toLayer r.mac r.layerNow else s.die x := by
  obtain ⟨_, hj⟩ := s.cwrMark_frame d r (r.row + 1)
  rw [State.rowEnd, State.die_setDie, hj]
  split
  · rfl
  next hx => exact (State.die_putReq _ _ _ _).trans (if_neg hx)

/-- What a row leaves in the state and of the request, its counts apart. -/
theorem State.cwrRow_of_held {r : WReq} (hr : s.findReq d m l .held = some r) (hrow : r.row < 1024) (hsafe : s.rel.safeDrain = false)
    (hidle : (s.die d).running m = none) (cells : List CellReading) (iters : Nat) :
    let x := workCells d cells r.verifies (s.rowCols r) (s, r)
    ∃ a b c, s.cwrRow d m l cells iters = x.1.rowEnd d r (r.nextRow { x.2 with rows := a, cells := b, iterMax := c, gap := false }) := by
  obtain ⟨rfl, -, -⟩ := State.findReq_spec hr
  unfold State.cwrRow
  split
  next h => exact absurd (hr.symm.trans h) (Option.some_ne_none r)
  next r' h =>
    obtain rfl := Option.some.inj (hr.symm.trans h)
    rw [if_neg (by simp [hsafe, hidle, hrow])]
    extract_lets x verify cols x' did q r1 last r2 s1
    have hx : x' = x := rfl
    clear_value x' x
    obtain ⟨a, b, c, hr1⟩ : ∃ a b c, r1 = { x'.2 with rows := a, cells := b, iterMax := c, gap := false } := ⟨_, _, _, rfl⟩
    have hlast : last = true ↔ r.row = 1023 ∧ r.kind = 4 ∧ r.sub < 7 := by simp [last, and_assoc]
    have hr2 : r2 = r.nextRow r1 := if_congr hlast rfl rfl
    refine ⟨a, b, c, ?_⟩
    show State.rowEnd x'.1 d r r2 = _
    rw [hr2, hr1, hx]

theorem WReq.nextRow_mac (r q : WReq) : (r.nextRow q).mac = q.mac := by
  unfold WReq.nextRow
  split <;> rfl

theorem WReq.nextRow_layer (r q : WReq) : (r.nextRow q).layer = q.layer := by
  unfold WReq.nextRow
  split <;> rfl

theorem WReq.nextRow_keeps (r q : WReq) : (r.nextRow q).kind = q.kind ∧ (r.nextRow q).levelmap = q.levelmap ∧
    (r.nextRow q).gap = q.gap ∧ (r.nextRow q).stage = q.stage := by
  unfold WReq.nextRow
  split <;> exact ⟨rfl, rfl, rfl, rfl⟩

/-- Where the next row lies. -/
theorem WReq.nextRow_place (r : WReq) {q : WReq} (hsub : q.sub = r.sub) :
    if r.row = 1023 ∧ r.kind = 4 ∧ r.sub < 7 then (r.nextRow q).row = 0 ∧ (r.nextRow q).sub = r.sub + 1
    else (r.nextRow q).row = r.row + 1 ∧ (r.nextRow q).sub = r.sub := by
  unfold WReq.nextRow
  split
  · exact ⟨rfl, rfl⟩
  · exact ⟨rfl, hsub⟩

theorem cwrRow_results (s : State) (d m l iters : Nat) (cells : List CellReading) (r : WReq) (hr : s.findReq d m l .held = some r)
    (hrow : r.row < 1024) (hsafe : s.rel.safeDrain = false) (hidle : (s.die d).running m = none) :
    ∃ t r', exec (.cwrRow d m l cells iters) s = .next t ∧ t = { s with cells := t.cells, dies := t.dies, journal := t.journal } ∧
      t.findReq d m l .held = some r' ∧ r'.kind = r.kind ∧ r'.levelmap = r.levelmap ∧ r'.gap = false ∧
      (if r.row = 1023 ∧ r.kind = 4 ∧ r.sub < 7 then r'.row = 0 ∧ r'.sub = r.sub + 1 else r'.row = r.row + 1 ∧ r'.sub = r.sub) ∧
      ((t.die d).mac m).layer = r.layerNow ∧ (t.die d).passes = (s.die d).passes ∧ (∀ x, x ≠ d → t.die x = s.die x) ∧
      ((r.kind = 2 → r.mark ≤ r.row) → ∀ col < 1024, s.cwrPrograms r r.row col = true →
        t.cellLevel (layerKey d m r.layerNow) r.row col = achievedOf cells col (s.cwrTarget r r.row col)) ∧
      ∀ x, x / 1024 ≠ layerKey d m r.layerNow * 1024 + r.row → smGet (fun _ => 0) t.cells x = smGet (fun _ => 0) s.cells x := by
  obtain ⟨a, b, c, heq⟩ := State.cwrRow_of_held hr hrow hsafe hidle cells iters
  have hexec : exec (.cwrRow d m l cells iters) s = .next (s.cwrRow d m l cells iters) := rfl
  rw [hexec, heq]
  clear heq hexec
  obtain ⟨rfl, rfl, hstage⟩ := State.findReq_spec hr
  have hwork : AtWork s r (workCells d cells r.verifies (s.rowCols r) (s, r)) := (AtWork.refl s r).workCells
  have hkept := fun k => (AtWork.refl s r).cell_apart (d := d) (cells := cells) (verify := r.verifies) (cols := s.rowCols r) (k := k)
  have hprog := fun j => (AtWork.refl s r).cell_programmed (d := d) (cells := cells) (cols := s.rowCols r) (j := j)
  generalize hx : workCells d cells r.verifies (s.rowCols r) (s, r) = x at *
  obtain ⟨⟨y, hy⟩, _, _, _, _, hq⟩ := hwork
  rw [hq]
  generalize hq' : r.nextRow _ = q
  have hmac : q.mac = r.mac := by rw [← hq', WReq.nextRow_mac]
  have hlayer : q.layer = r.layer := by rw [← hq', WReq.nextRow_layer]
  obtain ⟨hkind, hmap, hgap, hqstage⟩ : q.kind = r.kind ∧ q.levelmap = r.levelmap ∧ q.gap = false ∧ q.stage = r.stage :=
    hq' ▸ WReq.nextRow_keeps r _
  obtain ⟨k, j, hend⟩ := x.1.rowEnd_frame d r q
  have hdie : ∀ z, (x.1.rowEnd d r q).die z = if z = d then ((s.putReq d q).die d).toLayer r.mac r.layerNow else s.die z := fun z => by
    rw [State.die_rowEnd, hy]
    rfl
  have hcells : (x.1.rowEnd d r q).cells = x.1.cells := by rw [hend]
  refine ⟨_, q, rfl, by rw [hend, hy], ?_, hkind, hmap, hgap, hq' ▸ WReq.nextRow_place r rfl, ?_, ?_, fun z hz => ?_,
    fun hmark col hcol hcolp => ?_, fun z hz => ?_⟩
  · have hreqs : ((x.1.rowEnd d r q).die d).reqs = ((s.putReq d q).die d).reqs := by
      rw [hdie, if_pos rfl]
      rfl
    rw [State.findReq_congr hreqs, State.findReq_putReq hr hmac hlayer (hqstage.trans hstage)]
  · rw [hdie, if_pos rfl]
    exact congrArg Mac.layer ((Die.mac_setMac _ _ _ _).trans (if_pos rfl))
  · rw [hdie, if_pos rfl, State.die_putReq, if_pos rfl]
    rfl
  · rw [hdie, if_neg hz]
  · have hprogrammed : r.verifies = false := by
      by_cases h2 : r.kind = 2
      · simp [WReq.verifies, hmark h2]
      · simp [WReq.verifies, h2]
    rw [hprogrammed] at hx
    rw [State.cellLevel, hcells, ← hx]
    exact hprog col (State.mem_rowCols.2 ⟨hcol, hcolp⟩)
  · rw [hcells]
    refine hkept z fun col hcol hkey => hz ?_
    obtain ⟨hlt, -⟩ := State.mem_rowCols.1 hcol
    rw [hkey, WReq.cellKey]
    omega

end Sys2Proof.Machine
end

section
/-!
PROOFS. O10: the release of a layer (R149, R152 to R155).
-/

namespace Sys2Proof.Machine

variable {s : State} {d : Nat}

/-- What a fold over different layers leaves for a reader, each step of which changes what is read of its own layer. -/
theorem foldl_layers {α : Type} {f : State → Nat → State} (read : State → Nat → α) (g : Nat → α → α)
    (hf : ∀ s y z, read (f s y) z = if z = y then g z (read s z) else read s z) {ys : List Nat} (hys : ys.Nodup) (s : State) (z : Nat) :
    read (ys.foldl f s) z = if z ∈ ys then g z (read s z) else read s z := by
  induction ys generalizing s with
  | nil => rfl
  | cons y ys ih =>
    obtain ⟨hy, hys⟩ := List.nodup_cons.1 hys
    rw [List.foldl_cons, ih hys, hf]
    by_cases hz : z = y
    · subst hz
      simp [hy]
    · simp [hz]

/-! ### Repairs (R153, R154) -/

/-- A layer of the spare that a REPAIR_MACRO brings (log 97). -/
def State.freshLayer (d m : Nat) (s : State) (y : Nat) : State :=
  s.setLayer (layerKey d m y) ({ s.layer (layerKey d m y) with openLines := [], spareColumns := 16, references := 8, wear := 0 }.withTokens
    (s.die d).bucket (s.get .cwrCtlDepth d))

theorem freshLayers_frame (d m : Nat) (ys : List Nat) (s : State) : ∃ y, ys.foldl (State.freshLayer d m) s = { s with layers := y } := by
  induction ys generalizing s with
  | nil => exact ⟨_, rfl⟩
  | cons y ys ih => exact ih (s.freshLayer d m y)

theorem wear_freshLayers (d m : Nat) {ys : List Nat} (hys : ys.Nodup) (s : State) (z : Nat) :
    ((ys.foldl (State.freshLayer d m) s).layer (layerKey d m z)).wear = if z ∈ ys then 0 else (s.layer (layerKey d m z)).wear := by
  refine foldl_layers (fun s z => (s.layer (layerKey d m z)).wear) (fun _ _ => 0) (fun s y z => ?_) hys s z
  rw [State.freshLayer, State.layer_setLayer]
  by_cases h : z = y
  · rw [if_pos (layerKey_inj.2 h), if_pos h, Layer.withTokens_wear]
  · rw [if_neg (mt layerKey_inj.1 h), if_neg h]

/-- A repair counted, and its record written to the journal (R155). -/
def State.noteRepair (s : State) (d : Nat) (r : WReq) : State :=
  { s.bump .cwrRepairs d with journal := { s.journal with repairs := s.journal.repairs ++ [r.repairRec d] } }

theorem State.applyRepair_column {r : WReq} (h : r.kind = 3) : ∃ x, x.wear = (s.layer (layerKey d r.mac r.layer)).wear ∧
    s.applyRepair d r = (s.setLayer (layerKey d r.mac r.layer) x).noteRepair d r := by
  unfold State.applyRepair
  rw [h]
  refine ⟨_, ?_, rfl⟩
  rfl

theorem State.applyRepair_spare {r : WReq} (h : r.kind = 4) : ∃ x,
    s.applyRepair d r = (((List.range 8).foldl (State.freshLayer d r.mac) s).setDie d x).noteRepair d r := by
  unfold State.applyRepair
  rw [h]
  exact ⟨_, rfl⟩

theorem State.applyRepair_reference {r : WReq} (h : r.kind = 5) : ∃ y x, x.wear = (s.layer (layerKey d r.mac r.layer)).wear ∧
    s.applyRepair d r = ((s.setDie d y).setLayer (layerKey d r.mac r.layer) x).noteRepair d r := by
  unfold State.applyRepair
  rw [h]
  refine ⟨_, _, ?_, rfl⟩
  rfl

theorem State.applyRepair_none {r : WReq} (h3 : r.kind ≠ 3) (h4 : r.kind ≠ 4) (h5 : r.kind ≠ 5) : s.applyRepair d r = s := by
  unfold State.applyRepair
  split
  next h => exact absurd h h3
  next h => exact absurd h h4
  next h => exact absurd h h5
  · rfl

/-- `t` is `s` after a repair: registers, layers, the repair's own die and the journal's records of repairs may differ, and no wear but that
of the layers that a REPAIR_MACRO replaces. -/
structure Repaired (d : Nat) (r : WReq) (s t : State) : Prop where
  frame : ∃ c y k j, t = { s with ctl := c, layers := y, dies := k, journal := j }
  others : ∀ x, x ≠ d → t.die x = s.die x
  wear : ∀ z ∈ r.layers, (t.layer (layerKey d r.mac z)).wear = if r.kind = 4 then 0 else (s.layer (layerKey d r.mac z)).wear

theorem Repaired.noteRepair {t : State} {r : WReq} (h : Repaired d r s t) : Repaired d r s (t.noteRepair d r) := by
  obtain ⟨c, y, k, j, ht⟩ := h.frame
  exact ⟨⟨_, y, k, _, by rw [ht]; rfl⟩, h.others, h.wear⟩

/-- A repair of one layer that keeps its wear. -/
theorem Repaired.setLayer {t : State} {r : WReq} (hkind : r.kind ≠ 4) (hframe : ∃ k, t = { s with dies := k })
    (hothers : ∀ x, x ≠ d → t.die x = s.die x) {x : Layer} {k : Nat} (hx : x.wear = (s.layer k).wear) :
    Repaired d r s (t.setLayer k x) := by
  obtain ⟨n, ht⟩ := hframe
  refine ⟨⟨_, _, n, _, by rw [ht]; rfl⟩, hothers, fun z _ => ?_⟩
  rw [if_neg hkind, State.layer_setLayer]
  split
  next h => rw [h, hx]
  · rw [ht]
    rfl

theorem Repaired.applyRepair (s : State) (d : Nat) (r : WReq) : Repaired d r s (s.applyRepair d r) := by
  by_cases h3 : r.kind = 3
  · obtain ⟨x, hx, heq⟩ := State.applyRepair_column (s := s) (d := d) h3
    rw [heq]
    exact (Repaired.setLayer (by simp [h3]) ⟨_, rfl⟩ (fun _ _ => rfl) hx).noteRepair
  by_cases h5 : r.kind = 5
  · obtain ⟨y, x, hx, heq⟩ := State.applyRepair_reference (s := s) (d := d) h5
    rw [heq]
    exact (Repaired.setLayer (by simp [h5]) ⟨_, rfl⟩ (fun z hz => (s.die_setDie d z y).trans (if_neg hz)) hx).noteRepair
  by_cases h4 : r.kind = 4
  · obtain ⟨x, heq⟩ := State.applyRepair_spare (s := s) (d := d) h4
    obtain ⟨y, hy⟩ := freshLayers_frame d r.mac (List.range 8) s
    have hwear := wear_freshLayers d r.mac List.nodup_range s (ys := List.range 8)
    rw [heq]
    generalize (List.range 8).foldl (State.freshLayer d r.mac) s = u at hy hwear ⊢
    refine Repaired.noteRepair ⟨⟨_, y, _, _, by rw [hy]; rfl⟩, fun z hz => ?_, fun z hz => ?_⟩
    · rw [State.die_setDie, if_neg hz, hy]
      rfl
    · rw [WReq.layers, if_pos h4] at hz
      rw [if_pos h4]
      exact (hwear z).trans (if_pos hz)
  · rw [State.applyRepair_none h3 h4 h5]
    exact ⟨⟨_, _, _, _, rfl⟩, fun _ _ => rfl, fun _ _ => (if_neg h4).symm⟩

/-! ### ERRMAP, LEVELMAP and the scales (R148, R149) -/

/-- What buffers written and scales loaded can change. -/
def BufferChanges (s t : State) : Prop := ∃ c m k, t = { s with ctl := c, mem := m, scales := k }

theorem BufferChanges.refl (s : State) : BufferChanges s s := ⟨_, _, _, rfl⟩

theorem BufferChanges.trans {s t u : State} (h : BufferChanges s t) (k : BufferChanges t u) : BufferChanges s u := by
  obtain ⟨_, _, _, rfl⟩ := h
  obtain ⟨_, _, _, rfl⟩ := k
  exact ⟨_, _, _, rfl⟩

theorem BufferChanges.foldl {α : Type} {f : State → α → State} (h : ∀ s x, BufferChanges s (f s x)) (xs : List α) (s : State) :
    BufferChanges s (xs.foldl f s) := by
  induction xs generalizing s with
  | nil => exact .refl s
  | cons x xs ih => exact (h s x).trans (ih (f s x))

theorem BufferChanges.ite {s a b : State} {c : Prop} [Decidable c] (ha : BufferChanges s a) (hb : BufferChanges s b) :
    BufferChanges s (if c then a else b) := by
  split <;> assumption

theorem BufferChanges.writeBytes (s : State) (a : Nat) (bs : List Byte) : BufferChanges s (s.writeBytes a bs) := ⟨_, _, _, rfl⟩

theorem BufferChanges.noteErr (s : State) (e : MemErr) : BufferChanges s (s.noteErr e) := by
  obtain ⟨_, h⟩ := s.noteErr_frame e
  exact ⟨_, _, _, h⟩

theorem BufferChanges.writeErrs (s : State) (r : WReq) : BufferChanges s (s.writeErrs r) :=
  .ite (.writeBytes s _ _) (.ite (.foldl (fun u _ => .writeBytes u _ _) _ s) (.refl s))

theorem BufferChanges.writeMap (s : State) (r : WReq) : BufferChanges s (s.writeMap r) := .foldl (fun u _ => .writeBytes u _ _) _ s

theorem BufferChanges.loadScales (s : State) (k a : Nat) : BufferChanges s (s.loadScales k a) := ⟨_, _, _, rfl⟩

theorem BufferChanges.writeScales (s : State) (d : Nat) (r : WReq) : BufferChanges s (s.writeScales d r) :=
  .ite (.foldl (fun u _ => .loadScales u _ _) _ s) (.refl s)

/-! ### The layers released -/

/-- A layer as a completed request leaves it. -/
def WReq.worn (r : WReq) (y : Nat) (x : Layer) : Layer :=
  { x with wear := x.wear + (if r.cells = 0 then 0 else 1), levelmap := some (r.mapAt y) }

/-- One layer of a request released. -/
def State.releaseLayer (d : Nat) (r : WReq) (s : State) (y : Nat) : State := (s.wearLayer d r y).setWj (layerKey d r.mac y) none

theorem releaseLayers_frame (d : Nat) (r : WReq) (ys : List Nat) (s : State) :
    ∃ y j, ys.foldl (State.releaseLayer d r) s = { s with layers := y, journal := j } := by
  induction ys generalizing s with
  | nil => exact ⟨_, _, rfl⟩
  | cons y ys ih => exact ih (s.releaseLayer d r y)

theorem wjEntry_releaseLayers (d : Nat) (r : WReq) {ys : List Nat} (hys : ys.Nodup) (s : State) (z : Nat) :
    (ys.foldl (State.releaseLayer d r) s).wjEntry (layerKey d r.mac z) = if z ∈ ys then none else s.wjEntry (layerKey d r.mac z) := by
  refine foldl_layers (fun s z => s.wjEntry (layerKey d r.mac z)) (fun _ _ => none) (fun s y z => ?_) hys s z
  refine (State.wjEntry_setWj _ _ _ _).trans ?_
  simp only [layerKey_inj]
  rfl

theorem layer_releaseLayers (d : Nat) (r : WReq) {ys : List Nat} (hys : ys.Nodup) (s : State) (z : Nat) :
    (ys.foldl (State.releaseLayer d r) s).layer (layerKey d r.mac z) =
      if z ∈ ys then r.worn z (s.layer (layerKey d r.mac z)) else s.layer (layerKey d r.mac z) := by
  refine foldl_layers (fun s z => s.layer (layerKey d r.mac z)) r.worn (fun s y z => ?_) hys s z
  refine (State.layer_setLayer _ _ _ _).trans ?_
  by_cases h : z = y
  · rw [if_pos (layerKey_inj.2 h), if_pos h, h]
    rfl
  · rw [if_neg (mt layerKey_inj.1 h), if_neg h]

/-! ### The release -/

/-- A request released, once its maps are written. -/
def State.released (s : State) (d : Nat) (r : WReq) : State :=
  (((r.layers.foldl (State.releaseLayer d r) ((s.writeScales d r).applyRepair d r)).dropReq d r).bump .cwrRewrites d).bump
    .cwrVerifyMisses d 0 r.misses

/-- What the release of a request does to the cells, the dies, the write journal and the layers. -/
structure Released (s t : State) (d : Nat) (r : WReq) : Prop where
  cells : t.cells = s.cells
  gone : t.findReq d r.mac r.layer .held = none
  others : ∀ x, x ≠ d → t.die x = s.die x
  entry : ∀ y ∈ r.layers, t.wjEntry (layerKey d r.mac y) = none
  levelmap : ∀ y ∈ r.layers, (t.layer (layerKey d r.mac y)).levelmap = some (r.mapAt y)
  wear : ∀ y ∈ r.layers, (t.layer (layerKey d r.mac y)).wear =
    (if r.kind = 4 then 0 else (s.layer (layerKey d r.mac y)).wear) + (if r.cells = 0 then 0 else 1)

theorem State.released_spec (s : State) (d : Nat) (r : WReq) : Released s (s.released d r) d r := by
  have hrepair := Repaired.applyRepair (s.writeScales d r) d r
  obtain ⟨_, _, _, hscales⟩ := BufferChanges.writeScales s d r
  unfold State.released
  generalize (s.writeScales d r).applyRepair d r = v at hrepair ⊢
  rw [hscales] at hrepair
  obtain ⟨⟨_, _, _, _, hframe⟩, hothers, hwear⟩ := hrepair
  obtain ⟨_, _, hlayers⟩ := releaseLayers_frame d r r.layers v
  have hlayer := fun y hy => (layer_releaseLayers d r r.layers_nodup v y).trans (if_pos hy)
  refine ⟨?_, State.findReq_dropReq _ d r .held, fun x hx => ?_, fun y hy => ?_, fun y hy => ?_, fun y hy => ?_⟩
  · refine (congrArg State.cells hlayers).trans ?_
    rw [hframe]
  · refine (State.die_dropReq _ d r x).trans ?_
    rw [if_neg hx, hlayers]
    exact hothers x hx
  · exact (wjEntry_releaseLayers d r r.layers_nodup v y).trans (if_pos hy)
  · exact congrArg Layer.levelmap (hlayer y hy)
  · exact (congrArg Layer.wear (hlayer y hy)).trans (congrArg (· + _) (hwear y hy))

/-- A record written leaves what the release did. -/
theorem Released.cwrFinish {t : State} {r : WReq} (h : Released s t d r) (code : Nat) (ue : List Nat) :
    Released s (t.cwrFinish d r code true ue) d r := by
  obtain ⟨_, _, _, _, hframe⟩ := t.cwrFinish_frame d r code true ue
  rw [hframe]
  exact ⟨h.cells, h.gone, h.others, h.entry, h.levelmap, h.wear⟩

/-- The release: its maps are written or their error noted, its layers released, its record written. -/
theorem State.cwrRelease_of_done {m l : Nat} {r : WReq} (hr : s.findReq d m l .held = some r) (hrow : 1024 ≤ r.row) (ue : List Nat) :
    ∃ u code, BufferChanges s u ∧ s.cwrRelease d m l ue = (u.released d r).cwrFinish d r code true ue := by
  obtain ⟨rfl, rfl, -⟩ := State.findReq_spec hr
  unfold State.cwrRelease
  split
  next h => exact absurd (hr.symm.trans h) (Option.some_ne_none r)
  next r' h =>
    obtain rfl := Option.some.inj (hr.symm.trans h)
    rw [if_neg hrow.not_gt]
    extract_lets err bad s1
    have hs1 : BufferChanges s s1 := by
      dsimp only [s1]
      clear_value err
      split
      · exact .noteErr s _
      · exact (BufferChanges.writeErrs s r).trans (.writeMap _ r)
    exact ⟨s1, _, hs1, rfl⟩

theorem cwrRelease_results (s0 : State) (d m l : Nat) (e : Ecc) (r : WReq) : let s := s0.corrected e.ce
    s.findReq d m l .held = some r → 1024 ≤ r.row →
    ∃ t, exec (.cwrRelease d m l e) s0 = .next t ∧ t.findReq d m l .held = none ∧ t.cells = s.cells ∧ (∀ x, x ≠ d → t.die x = s.die x) ∧
      ∀ y ∈ r.layers, t.wjEntry (layerKey d m y) = none ∧ (t.layer (layerKey d m y)).levelmap = some (r.mapAt y) ∧
        (t.layer (layerKey d m y)).wear = (if r.kind = 4 then 0 else (s.layer (layerKey d m y)).wear) + (if r.cells = 0 then 0 else 1) := by
  intro s hr hrow
  obtain ⟨u, code, ⟨_, _, _, hu⟩, heq⟩ := State.cwrRelease_of_done hr hrow e.ue
  obtain ⟨rfl, rfl, -⟩ := State.findReq_spec hr
  have hrel := (u.released_spec d r).cwrFinish code e.ue
  generalize (u.released d r).cwrFinish d r code true e.ue = t at heq hrel
  rw [hu] at hrel
  obtain ⟨hcells, hgone, hothers, hentry, hmap, hwear⟩ := hrel
  exact ⟨t, congrArg Host.Outcome.next heq, hgone, hcells, hothers, fun y hy => ⟨hentry y hy, hmap y hy, hwear y hy⟩⟩

end Sys2Proof.Machine
end

section
open Sys2Proof Sys2Proof.Machine

/-- Settles O10, command by command. -/
theorem writesProceed : Obligations.WritesProceed :=
  ⟨cwrAdmit_results, cwrTakeLayer_results, cwrRow_results, cwrRelease_results, cwrTokenTick_results, fun _ => rfl⟩

end

section
/-!
PROOFS. What the press tiles' cores and vector units share: a core's registers and its store buffer, the end of a kernel, and the custom
instruction that a core carries out.
-/

namespace Sys2Proof.Machine

/-! ### Stores of like units -/

section
variable {α : Type} [DecidableEq α] {d : Nat → α} {m : SMap α} {k : Nat}

/-- A key that is not listed at all, or whose first entry differs from what it holds unlisted: no change of the other values uncovers a
later entry. -/
def smFirm (d : Nat → α) (m : SMap α) (k : Nat) : Prop := smGet d m k ≠ d k ∨ k ∉ m.map Prod.fst

theorem smFirm_smPut (d : Nat → α) (k : Nat) (v : α) (m : SMap α) : smFirm d (smPut d k v m) k := by
  by_cases hv : v = d k
  · refine .inr ?_
    rw [smPut, if_pos hv]
    intro hk
    induction m with
    | nil => cases hk
    | cons x m ih =>
      rw [smDel] at hk
      split at hk
      · exact ih hk
      next hne => exact (List.mem_cons.1 hk).elim hne ih
  · left
    rwa [smGet_smPut_self]

/-- A change of every listed value, at a key whose value it does not turn into the one that an unlisted key holds. -/
theorem smGet_smMapV_of_ne (f : Nat → α → α) (hf : f k (smGet d m k) ≠ d k) (hk : smGet d m k ≠ d k) :
    smGet d (smMapV d f m) k = f k (smGet d m k) := by
  induction m with
  | nil => exact absurd rfl hk
  | cons e m ih =>
    obtain ⟨j, v⟩ := e
    rw [smMapV, List.map_cons, List.filter_cons]
    by_cases hkj : k = j
    · subst hkj
      simp only [smGet, if_true] at hf hk ⊢
      simp [hf, smGet]
    · simp only [smGet, if_neg hkj] at hf hk ⊢
      have hrest := ih hf hk
      rw [smMapV] at hrest
      split <;> simpa [smGet, hkj] using hrest

/-- A firm key whose own value the change leaves keeps it. -/
theorem smGet_smMapV_of_firm (f : Nat → α → α) (h : smFirm d m k) (hf : f k (smGet d m k) = smGet d m k) :
    smGet d (smMapV d f m) k = smGet d m k := by
  obtain h | h := h
  · rw [smGet_smMapV_of_ne f (by rwa [hf]) h, hf]
  · have hlisted : k ∉ (smMapV d f m).map Prod.fst := fun hk => by
      obtain ⟨e, he, rfl⟩ := List.mem_map.1 hk
      obtain ⟨x, hx, rfl⟩ := List.mem_map.1 (List.mem_of_mem_filter he)
      exact h (List.mem_map.2 ⟨x, hx, rfl⟩)
    rw [smGet_of_unlisted d h, smGet_of_unlisted d hlisted]

theorem smFirm_smMapV (f : Nat → α → α) (h : smFirm d m k) (hf : f k (smGet d m k) = smGet d m k) : smFirm d (smMapV d f m) k := by
  have hget := smGet_smMapV_of_firm f h hf
  obtain h | h := h
  · exact .inl (hget ▸ h)
  · refine .inr fun hk => ?_
    obtain ⟨e, he, rfl⟩ := List.mem_map.1 hk
    obtain ⟨x, hx, rfl⟩ := List.mem_map.1 (List.mem_of_mem_filter he)
    exact h (List.mem_map.2 ⟨x, hx, rfl⟩)

end

/-! ### The registers of a core -/

theorem Core.setX_frame (k : Core) (r : Nat) (v : W64) : k.setX r v = { k with x := (k.setX r v).x } := by
  unfold Core.setX
  split <;> rfl

theorem Core.getX_setX (k : Core) (r j : Nat) (v : W64) : (k.setX r v).getX j = if j = r ∧ r ≠ 0 then v else k.getX j := by
  unfold Core.setX Core.getX
  by_cases hr : r = 0
  · simp [hr]
  · by_cases hj : j = 0
    · simp [hj, Ne.symm hr]
    · simp [hr, hj, smGet_smPut]

theorem Core.getF_setF (k : Core) (r j : Nat) (v : W64) : (k.setF r v).getF j = if j = r then v else k.getF j := smGet_smPut _ _ _ _ _

variable {s u w : State} {t c : Nat}

/-- Core `c` of tile `t` stays as it is when other cores change. -/
def State.Firm (s : State) (t c : Nat) : Prop := smFirm (fun _ => {}) s.cores (8 * t + c)

theorem State.firm_of_running (h : (s.core t c).state ≠ .idle) : s.Firm t c := .inl fun hk => h (congrArg Core.state hk)

theorem State.firm_setCore (s : State) (t c : Nat) (k : Core) : (s.setCore t c k).Firm t c := smFirm_smPut _ _ _ _

@[simp] theorem State.core_setCore_self (s : State) (t c : Nat) (k : Core) : (s.setCore t c k).core t c = k := smGet_smPut_self _ _ _ _

theorem State.core_setCore_ne {x y : Nat} (h : 8 * x + y ≠ 8 * t + c) (k : Core) : (s.setCore t c k).core x y = s.core x y :=
  smGet_smPut_ne _ h _ _

@[simp] theorem State.core_setTile (s : State) (t x c : Nat) (y : Tile) : (s.setTile t y).core x c = s.core x c := rfl
@[simp] theorem State.tile_setCore (s : State) (t c x : Nat) (k : Core) : (s.setCore t c k).tile x = s.tile x := rfl
@[simp] theorem State.op_setCore (s : State) (t c x y : Nat) (k : Core) : (s.setCore t c k).op x y = s.op x y := rfl
@[simp] theorem State.word_setCore (s : State) (t c x : Nat) (k : Core) : (s.setCore t c k).word x = s.word x := rfl
@[simp] theorem State.readByte_setCore (s : State) (t c x : Nat) (k : Core) : (s.setCore t c k).readByte x = s.readByte x := rfl

theorem State.setCore_setCore_eq (s : State) (t c : Nat) (k : Core) : s.setCore t c k = { s with cores := (s.setCore t c k).cores } := rfl

/-- Operations are read from the tiles alone. -/
theorem State.op_of_tiles (h : u.tiles = s.tiles) (x y : Nat) : u.op x y = s.op x y := by
  rw [State.op, State.tile, h, ← State.tile, ← State.op]

theorem State.word_of_ctl (h : u.ctl = s.ctl) (x : Nat) : u.word x = s.word x := by
  rw [State.word, h, ← State.word]

theorem State.core_of_cores (h : u.cores = s.cores) (x y : Nat) : u.core x y = s.core x y := by
  rw [State.core, h, ← State.core]

/-! ### Stores that become visible (R185) -/

/-- `u` is `s` after stores of core `c` of tile `t`: memory, and reservations of other cores. -/
structure State.Stores (s u : State) (t c : Nat) : Prop where
  frame : u = { s with cores := u.cores, mem := u.mem }
  own : s.Firm t c → u.Firm t c ∧ u.core t c = s.core t c
  others : ∀ x y, (s.core x y).state ≠ .idle → u.core x y = { s.core x y with reservation := (u.core x y).reservation }

theorem State.Stores.refl (s : State) (t c : Nat) : s.Stores s t c := ⟨rfl, fun h => ⟨h, rfl⟩, fun _ _ _ => rfl⟩

theorem State.Stores.trans (h : s.Stores u t c) (k : u.Stores w t c) : s.Stores w t c where
  frame := by
    have hk := k.frame
    rw [h.frame] at hk
    exact hk
  own hs := by
    obtain ⟨hu, hcu⟩ := h.own hs
    obtain ⟨hw, hcw⟩ := k.own hu
    exact ⟨hw, hcw.trans hcu⟩
  others x y hs := by
    have hu := h.others x y hs
    have hw := k.others x y (by rw [hu]; exact hs)
    rw [hu] at hw
    exact hw

/-- What a store of core `c` of tile `t` to the block of `a` does to the core at a key. -/
def Core.seesStore (t c a key : Nat) (k : Core) : Core :=
  if key / 8 = t && key != 8 * t + c && k.reservation == some (a / 64) then { k with reservation := none } else k

theorem Core.seesStore_self (t c a : Nat) (k : Core) : k.seesStore t c a (8 * t + c) = k := if_neg (by simp)

theorem Core.seesStore_frame (t c a key : Nat) (k : Core) :
    k.seesStore t c a key = { k with reservation := (k.seesStore t c a key).reservation } := by
  unfold Core.seesStore
  split <;> rfl

theorem State.store_cores (s : State) (t c a n v : Nat) :
    (s.store t c a n v).cores = smMapV (fun _ => {}) (Core.seesStore t c a) s.cores := rfl

theorem State.stores_store (s : State) (t c a n v : Nat) : s.Stores (s.store t c a n v) t c := by
  refine ⟨rfl, fun h => ?_, fun x y hs => ?_⟩
  · rw [State.Firm, State.core, State.store_cores]
    exact ⟨smFirm_smMapV _ h (Core.seesStore_self _ _ _ _), smGet_smMapV_of_firm _ h (Core.seesStore_self _ _ _ _)⟩
  · have hstate : ((s.core x y).seesStore t c a (8 * x + y)).state ≠ .idle := by
      rw [Core.seesStore_frame]
      exact hs
    have hcore : (s.store t c a n v).core x y = (s.core x y).seesStore t c a (8 * x + y) := by
      rw [State.core, State.store_cores]
      exact smGet_smMapV_of_ne _ (fun h => hstate (congrArg Core.state h)) fun h => hs (congrArg Core.state h)
    rw [hcore]
    exact Core.seesStore_frame _ _ _ _ _

theorem State.readByte_store (s : State) (t c a n v x : Nat) : (s.store t c a n v).readByte x =
    if tileAddr t a ≤ x ∧ x < tileAddr t a + n then (leBytes n v).getD (x - tileAddr t a) 0 else s.readByte x := by
  refine (s.readByte_writeBytes (tileAddr t a) x (leBytes n v)).trans ?_
  rw [leBytes_length]

/-- What a list of stores makes visible holds of the state, where each store keeps it. -/
theorem State.Stores.foldl {α : Type} {f : State → α → State} (hf : ∀ (w : State) x, w.Stores (f w x) t c) (xs : List α) (s : State) :
    s.Stores (xs.foldl f s) t c := by
  induction xs generalizing s with
  | nil => exact .refl s t c
  | cons x xs ih => exact (hf s x).trans (ih _)

/-! ### Store buffers that drain (R185, R244, log 90) -/

/-- `u` is `s` after store buffers have drained: a core that is not idle keeps everything but its buffer and its reservation. -/
structure State.Drains (s u : State) : Prop where
  frame : u = { s with cores := u.cores, mem := u.mem }
  cores : ∀ x y, (s.core x y).state ≠ .idle → u.core x y = { s.core x y with
    reservation := (u.core x y).reservation, stores := (u.core x y).stores, loadsWait := (u.core x y).loadsWait }

theorem State.Drains.refl (s : State) : s.Drains s := ⟨rfl, fun _ _ _ => rfl⟩

theorem State.Drains.trans (h : s.Drains u) (k : u.Drains w) : s.Drains w where
  frame := by
    have hk := k.frame
    rw [h.frame] at hk
    exact hk
  cores x y hs := by
    have hu := h.cores x y hs
    have hw := k.cores x y (by rw [hu]; exact hs)
    rw [hu] at hw
    exact hw

/-- The stores of a list, oldest first. -/
def State.storeAll (s : State) (t c : Nat) (xs : List BufStore) : State := xs.foldl (fun s x => s.store t c x.addr x.size x.value) s

theorem State.stores_storeAll (s : State) (t c : Nat) (xs : List BufStore) : s.Stores (s.storeAll t c xs) t c :=
  .foldl (f := fun s (x : BufStore) => s.store t c x.addr x.size x.value) (fun w x => w.stores_store t c x.addr x.size x.value) xs s

theorem State.drainStores_eq (s : State) (t c n : Nat) : s.drainStores t c n =
    let s1 := s.storeAll t c ((s.core t c).stores.take n)
    s1.setCore t c { s1.core t c with stores := (s.core t c).stores.drop n,
                                      loadsWait := (s.core t c).loadsWait && !((s.core t c).stores.drop n).isEmpty } := rfl

theorem State.drains_drainStores (s : State) (t c n : Nat) : s.Drains (s.drainStores t c n) := by
  rw [State.drainStores_eq]
  have h := s.stores_storeAll t c ((s.core t c).stores.take n)
  generalize s.storeAll t c ((s.core t c).stores.take n) = s1 at h
  refine ⟨?_, fun x y hs => ?_⟩
  · have hf := h.frame
    dsimp only
    rw [State.setCore_setCore_eq, hf]
  · dsimp only
    by_cases hxy : 8 * x + y = 8 * t + c
    · have hcore : ∀ v : State, v.core x y = v.core t c := fun v => by rw [State.core, hxy, State.core]
      have ho := h.others x y hs
      rw [hcore, hcore] at ho
      rw [hcore, hcore, State.core_setCore_self, ho]
    · rw [State.core_setCore_ne hxy]
      have ho := h.others x y hs
      generalize s1.core x y = k at ho
      rw [ho]

theorem State.firm_drainStores (s : State) (t c n : Nat) : (s.drainStores t c n).Firm t c := State.firm_setCore _ _ _ _

theorem State.core_drainStores (h : s.Firm t c) (n : Nat) : (s.drainStores t c n).core t c =
    { s.core t c with stores := (s.core t c).stores.drop n,
                      loadsWait := (s.core t c).loadsWait && !((s.core t c).stores.drop n).isEmpty } := by
  rw [State.drainStores_eq]
  dsimp only
  rw [State.core_setCore_self, ((s.stores_storeAll t c _).own h).2]

theorem State.drainAll_of_empty (h : (s.core t c).stores = []) : s.drainAll t c = s := by
  rw [State.drainAll, h]
  rfl

theorem State.drains_drainAll (s : State) (t c : Nat) : s.Drains (s.drainAll t c) := by
  unfold State.drainAll
  split
  · exact .refl s
  · exact s.drains_drainStores t c _

theorem State.firm_drainAll (h : s.Firm t c) : (s.drainAll t c).Firm t c := by
  unfold State.drainAll
  split
  · exact h
  · exact s.firm_drainStores t c _

/-- A core whose buffer has drained: the buffer is empty, and nothing else of it has changed. -/
theorem State.core_drainAll (h : s.Firm t c) : (s.drainAll t c).core t c =
    { s.core t c with stores := [], loadsWait := ((s.drainAll t c).core t c).loadsWait } := by
  unfold State.drainAll
  split
  next he => rw [← List.isEmpty_iff.1 he]
  · rw [State.core_drainStores h, List.drop_length]

theorem State.Drains.foldl {α : Type} {f : State → α → State} (hf : ∀ (w : State) x, w.Drains (f w x)) (xs : List α) (s : State) :
    s.Drains (xs.foldl f s) := by
  induction xs generalizing s with
  | nil => exact .refl s
  | cons x xs ih => exact (hf s x).trans (ih _)

theorem State.drains_drainKernel (s : State) (t slot : Nat) : s.Drains (s.drainKernel t slot) := by
  refine .foldl (fun w x => ?_) _ s
  split
  · exact w.drains_drainAll t x
  · exact .refl w

/-! ### Faults recorded (Table 6.12) -/

theorem State.tileFault_frame (s : State) (t code slot : Nat) (d : BitVec 512) (array quads lanes : Nat) (pc : W64) :
    s.tileFault t code slot d array quads lanes pc = { s with ctl := (s.tileFault t code slot d array quads lanes pc).ctl } := by
  unfold State.tileFault
  generalize BitVec.ofNat 64 _ = v
  exact State.ctl_only_trans (State.setWord_eq _ _ _) (State.setWord_eq _ _ _)

theorem State.faultInfo_frame (s : State) (t addr core cause : Nat) :
    s.faultInfo t addr core cause = { s with ctl := (s.faultInfo t addr core cause).ctl } := by
  unfold State.faultInfo
  generalize addr % 2 ^ 32 = a
  exact State.ctl_only_trans (State.ctl_only_trans (State.set_eq _ _ _ _ _) (State.set_eq _ _ _ _ _)) (State.set_eq _ _ _ _ _)

theorem State.word_faultInfo_ne (t addr core cause : Nat) {x : Nat} (h : x ≠ Fld.tileFaultInfoAddress.addr t 0) :
    (s.faultInfo t addr core cause).word x = s.word x := by
  have hset : ∀ (w : State) (f : Fld) (v : Nat), f.addr t 0 = Fld.tileFaultInfoAddress.addr t 0 → (w.set f t 0 v).word x = w.word x :=
    fun w f v hf => by rw [State.word_set, hf, if_neg h]
  rw [State.faultInfo, hset _ .tileFaultInfoCause _ rfl, hset _ .tileFaultInfoCore _ rfl, hset _ .tileFaultInfoAddress _ rfl]

theorem State.get_address_faultInfo (t addr core cause : Nat) : (s.faultInfo t addr core cause).get .tileFaultInfoAddress t = addr % 2 ^ 32 := by
  rw [State.faultInfo, State.get_set_apart _ .tileFaultInfoCause .tileFaultInfoAddress _ _ _ _ _ rfl (by decide) (by decide) (by decide) (by decide),
    State.get_set_apart _ .tileFaultInfoCore .tileFaultInfoAddress _ _ _ _ _ rfl (by decide) (by decide) (by decide) (by decide),
    State.get_set_self _ _ _ _ _ (by decide) (by decide)]
  exact Nat.mod_mod _ _

theorem State.get_cause_faultInfo (t addr core cause : Nat) : (s.faultInfo t addr core cause).get .tileFaultInfoCause t = cause % 256 :=
  State.get_set_self _ _ _ _ _ (by decide) (by decide)

theorem tileFaultPc_ne_info (t : Nat) : Fld.tileFaultPc.addr t 0 ≠ Fld.tileFaultInfoAddress.addr t 0 := by
  simp only [Fld.addr, Fld.tileFaultPc, Fld.tileFaultInfoAddress]
  omega

theorem tileFaultCode_ne_info (t : Nat) : Fld.tileFaultCode.addr t 0 ≠ Fld.tileFaultInfoAddress.addr t 0 := by
  simp only [Fld.addr, Fld.tileFaultCode, Fld.tileFaultInfoAddress]
  omega

theorem tileFaultCode_ne_pc (t : Nat) : Fld.tileFaultCode.addr t 0 ≠ Fld.tileFaultPc.addr t 0 := by
  simp only [Fld.addr, Fld.tileFaultCode, Fld.tileFaultPc]
  omega

theorem State.word_pc_tileFault (t code slot : Nat) (d : BitVec 512) (array quads lanes : Nat) (pc : W64) :
    (s.tileFault t code slot d array quads lanes pc).word (Fld.tileFaultPc.addr t 0) = pc := by
  rw [State.tileFault, State.word_setWord, if_pos rfl]

theorem State.word_tileFault_ne (t code slot : Nat) (d : BitVec 512) (array quads lanes : Nat) (pc : W64) {x : Nat}
    (h : x ≠ Fld.tileFaultCode.addr t 0) (hpc : x ≠ Fld.tileFaultPc.addr t 0) :
    (s.tileFault t code slot d array quads lanes pc).word x = s.word x := by
  rw [State.tileFault, State.word_setWord, if_neg hpc, State.word_setWord, if_neg h]

/-- CODE of the fault record of an operation in one of the 64 slots. -/
theorem State.get_code_tileFault {t code slot array quads lanes : Nat} (d : BitVec 512) (pc : W64) (hcode : code < 2 ^ 16) (hslot : slot < 64)
    (ha : array < 256) (hq : quads < 16) (hl : lanes < 16) :
    (s.tileFault t code slot d array quads lanes pc).get .tileFaultCode t = code := by
  have hctx : dField d 2 2 < 2 ^ 16 := Nat.mod_lt _ (by decide)
  have hgen : dField d 4 1 < 2 ^ 8 := Nat.mod_lt _ (by decide)
  rw [State.get, State.tileFault, State.word_setWord, if_neg (tileFaultCode_ne_pc t), State.word_setWord, if_pos rfl, fieldOf, BitVec.toNat_ofNat]
  simp only [Fld.tileFaultCode]
  omega

/-! ### The end of a kernel (R186, R188, R189, R244) -/

/-- `u` is `s` after the kernel of core `c` of tile `t` has failed with a code: the core stands still with an empty store buffer, and what
stood in the kernel's slot has failed. -/
structure State.Ends (s u : State) (t c code detail : Nat) : Prop where
  frame : u = { s with ctl := u.ctl, cores := u.cores, tiles := u.tiles, mem := u.mem }
  idle : (u.core t c).state = .idle
  stores : (u.core t c).stores = []
  op : u.op t (s.core t c).slot = (s.op t (s.core t c).slot).map fun o => o.fail code detail

theorem State.Ends.phase {code detail : Nat} {o : Op} (h : s.Ends u t c code detail) (ho : s.op t (s.core t c).slot = some o)
    (hrun : o.phase = .running) : (u.op t (s.core t c).slot).map Op.phase = some (.failed code detail) := by
  rw [h.op, ho, Option.map_some, Option.map_some, Op.fail_of_running hrun]

/-- A core that stops. -/
def Core.stopped (k : Core) : Core := { k with state := .idle, stores := [], loadsWait := false }

/-- Cores of a tile that stop, one after another. -/
def State.stopUpTo (s : State) (t n : Nat) (hit : Nat → Bool) : State :=
  (List.range n).foldl (fun s c => if hit c then s.setCore t c (s.core t c).stopped else s) s

theorem State.stopUpTo_succ (s : State) (t n : Nat) (hit : Nat → Bool) : s.stopUpTo t (n + 1) hit =
    if hit n then (s.stopUpTo t n hit).setCore t n ((s.stopUpTo t n hit).core t n).stopped else s.stopUpTo t n hit := by
  rw [State.stopUpTo, List.range_succ, List.foldl_append]
  rfl

theorem State.stopUpTo_frame (s : State) (t n : Nat) (hit : Nat → Bool) : s.stopUpTo t n hit = { s with cores := (s.stopUpTo t n hit).cores } := by
  induction n with
  | zero => rfl
  | succ n ih =>
    rw [State.stopUpTo_succ]
    generalize s.stopUpTo t n hit = w at ih
    split
    · rw [State.setCore_setCore_eq, ih]
    · exact ih

theorem State.core_stopUpTo (s : State) (t n : Nat) (hit : Nat → Bool) (c : Nat) :
    (s.stopUpTo t n hit).core t c = if c < n ∧ hit c then (s.core t c).stopped else s.core t c := by
  induction n with
  | zero => simp [State.stopUpTo]
  | succ n ih =>
    rw [State.stopUpTo_succ]
    by_cases hc : c = n
    · subst hc
      split
      next h => simp [ih, h]
      next h => simp [ih, h]
    · have hlt : c < n + 1 ↔ c < n := by omega
      simp only [hlt]
      split
      · rw [State.core_setCore_ne (by omega), ih]
      · exact ih

/-- Whether the cores that belong to the kernel of a slot. -/
def State.runsSlot (s : State) (t slot c : Nat) : Bool := (s.core t c).state != .idle && (s.core t c).slot == slot

theorem State.stopCores_some (s : State) (t slot : Nat) : s.stopCores t (some slot) =
    if (s.tile t).vec.core.elim false (s.runsSlot t slot) then
      (s.stopUpTo t 8 (s.runsSlot t slot)).setTile t { (s.stopUpTo t 8 (s.runsSlot t slot)).tile t with vec := { (s.tile t).vec with core := none } }
    else s.stopUpTo t 8 (s.runsSlot t slot) := rfl

theorem State.tile_stopUpTo (s : State) (t n x : Nat) (hit : Nat → Bool) : (s.stopUpTo t n hit).tile x = s.tile x := by
  rw [s.stopUpTo_frame]
  rfl

theorem State.stopCores_frame (s : State) (t slot : Nat) :
    s.stopCores t (some slot) = { s with cores := (s.stopCores t (some slot)).cores, tiles := (s.stopCores t (some slot)).tiles } := by
  have h := s.stopUpTo_frame t 8 (s.runsSlot t slot)
  rw [State.stopCores_some]
  generalize s.stopUpTo t 8 (s.runsSlot t slot) = w at h
  split
  · rw [State.setTile, h]
  · rw [h]

theorem State.op_stopCores (s : State) (t slot x y : Nat) : (s.stopCores t (some slot)).op x y = s.op x y := by
  rw [State.stopCores_some]
  split
  · rw [State.op, State.tile_setTile, State.tile_stopUpTo, State.op]
    split
    next h => rw [h]; rfl
    · rw [State.tile_stopUpTo]
  · rw [State.op, State.tile_stopUpTo, State.op]

theorem State.core_stopCores (s : State) (t slot c : Nat) : (s.stopCores t (some slot)).core t c =
    if c < 8 ∧ s.runsSlot t slot c then (s.core t c).stopped else s.core t c := by
  rw [← State.core_stopUpTo, State.stopCores_some]
  split
  · rw [State.core_setTile]
  · rfl

theorem State.kernelFail_ends (hc : c < 8) (hrun : (s.core t c).state ≠ .idle) (code detail : Nat) : s.Ends (s.kernelFail t c code detail) t c code detail := by
  have hd := s.drains_drainKernel t (s.core t c).slot
  rw [State.kernelFail]
  generalize s.drainKernel t (s.core t c).slot = d at hd
  have hcore := hd.cores t c hrun
  have hframe := hd.frame
  have hop : ∀ y, d.op t y = s.op t y := State.op_of_tiles (by rw [hframe]) t
  have hstop : d.runsSlot t (s.core t c).slot c = true := by
    rw [State.runsSlot, hcore]
    simpa using hrun
  have hidle : (d.stopCores t (some (s.core t c).slot)).core t c = (d.core t c).stopped := by
    rw [State.core_stopCores, if_pos ⟨hc, hstop⟩]
  have hstopped := d.stopCores_frame t (s.core t c).slot
  have hopstop := d.op_stopCores t (s.core t c).slot t
  generalize d.stopCores t (some (s.core t c).slot) = w at hidle hstopped hopstop
  obtain ⟨n, hn⟩ := w.modOp_frame t (s.core t c).slot fun o => o.fail code detail
  have hsame : (w.modOp t (s.core t c).slot fun o => o.fail code detail).core t c = w.core t c := by rw [hn]; rfl
  refine ⟨?_, ?_, ?_, ?_⟩
  · rw [hn, hstopped, hframe]
  · rw [hsame, hidle]
    rfl
  · rw [hsame, hidle]
    rfl
  · rw [State.op_modOp, if_pos ⟨rfl, rfl⟩, hopstop, hop]

theorem State.kernelFail_ctl (s : State) (t c code detail : Nat) : (s.kernelFail t c code detail).ctl = s.ctl := by
  have hd := (s.drains_drainKernel t (s.core t c).slot).frame
  rw [State.kernelFail]
  generalize s.drainKernel t (s.core t c).slot = d at hd
  have hstopped := d.stopCores_frame t (s.core t c).slot
  generalize d.stopCores t (some (s.core t c).slot) = w at hstopped
  obtain ⟨n, hn⟩ := w.modOp_frame t (s.core t c).slot fun o => o.fail code detail
  rw [hn, hstopped, hd]

/-- The end of a kernel as `s` sees it, where `w` differs from `s` in registers and in cores. -/
theorem State.Ends.of_frame {code detail : Nat} (h : w.Ends u t c code detail) (hw : w = { s with ctl := w.ctl, cores := w.cores })
    (hslot : (w.core t c).slot = (s.core t c).slot) : s.Ends u t c code detail where
  frame := by
    have hf := h.frame
    rw [hw] at hf
    exact hf
  idle := h.idle
  stores := h.stores
  op := by
    rw [← hslot, h.op]
    exact congrArg _ (State.op_of_tiles (by rw [hw]) _ _)

/-- The fault record of a code that ends a kernel. -/
def State.faulted (s : State) (t c code addr cause : Nat) (pc : W64) : State :=
  (s.tileFault t code (s.core t c).slot (s.descAt t (s.core t c).slot) 0xFF 0 0 pc).faultInfo t addr c cause

theorem State.faulted_frame (s : State) (t c code addr cause : Nat) (pc : W64) :
    s.faulted t c code addr cause pc = { s with ctl := (s.faulted t c code addr cause pc).ctl } :=
  State.ctl_only_trans (State.tileFault_frame _ _ _ _ _ _ _ _ _) (State.faultInfo_frame _ _ _ _ _)

theorem State.core_faulted (s : State) (t c code addr cause : Nat) (pc : W64) (x y : Nat) :
    (s.faulted t c code addr cause pc).core x y = s.core x y := State.core_of_cores (by rw [State.faulted_frame]) _ _

theorem State.get_code_faulted (s : State) (t c : Nat) {code : Nat} (addr cause : Nat) (pc : W64) (hcode : code < 2 ^ 16)
    (hslot : (s.core t c).slot < 64) : (s.faulted t c code addr cause pc).get .tileFaultCode t = code :=
  (State.get_of_word (State.word_faultInfo_ne _ _ _ _ (tileFaultCode_ne_info t))).trans
    (State.get_code_tileFault _ _ hcode hslot (by decide) (by decide) (by decide))

theorem State.word_pc_faulted (s : State) (t c code addr cause : Nat) (pc : W64) :
    (s.faulted t c code addr cause pc).word (Fld.tileFaultPc.addr t 0) = pc :=
  (State.word_faultInfo_ne _ _ _ _ (tileFaultPc_ne_info t)).trans (State.word_pc_tileFault _ _ _ _ _ _ _ _)

/-- A kernel that fails with its fault recorded. -/
theorem State.Ends.faulted {code detail addr cause : Nat} {pc : W64} (hc : c < 8) (hrun : (s.core t c).state ≠ .idle) :
    s.Ends ((s.faulted t c code addr cause pc).kernelFail t c code detail) t c code detail :=
  have hcore := s.core_faulted t c code addr cause pc t c
  .of_frame (State.kernelFail_ends hc (by rwa [hcore]) code detail) (by rw [State.faulted_frame]) (by rw [hcore])

theorem State.coreEnd_eq (s : State) (t c code detail : Nat) :
    s.coreEnd t c code detail = (s.faulted t c code 0 0 0).kernelFail t c code detail := rfl

theorem State.coreEnd_ends (hc : c < 8) (hrun : (s.core t c).state ≠ .idle) (code detail : Nat) :
    s.Ends (s.coreEnd t c code detail) t c code detail := by
  rw [State.coreEnd_eq]
  exact .faulted hc hrun

theorem State.coreUe_eq (s : State) (t c : Nat) (e : MemErr) : s.coreUe t c e =
    ((s.noteErr e).faulted t c e.code.1 ((e.tileAt.map Prod.snd).getD 0) 0 0).kernelFail t c e.code.1 0 := by
  obtain ⟨k, hk⟩ := s.noteErr_frame e
  unfold State.coreUe State.faulted
  rw [hk]
  rfl

theorem State.coreUe_ends (hc : c < 8) (hrun : (s.core t c).state ≠ .idle) (e : MemErr) : s.Ends (s.coreUe t c e) t c e.code.1 0 := by
  rw [State.coreUe_eq]
  obtain ⟨k, hk⟩ := s.noteErr_frame e
  have hcore : (s.noteErr e).core t c = s.core t c := State.core_of_cores (by rw [hk]) _ _
  exact .of_frame (.faulted hc (by rwa [hcore])) (by rw [hk]) (by rw [hcore])

theorem Core.trapped_frame (k : Core) (cause tval : Nat) : k.trapped cause tval =
    { k with csr := (k.trapped cause tval).csr, machine := true, pc := (k.trapped cause tval).pc } := rfl

theorem State.coreTrap_machine (hm : (s.core t c).machine = true) (cause tval : Nat) :
    s.coreTrap t c cause tval = s.setCore t c ((s.core t c).trapped cause tval) := if_pos hm

theorem State.coreTrap_user (hm : (s.core t c).machine = false) (cause tval : Nat) : s.coreTrap t c cause tval =
    ((s.setCore t c ((s.core t c).trapped cause tval)).faulted t c Code.tileScalarFault tval (cause % 256) (s.core t c).pc).kernelFail t c
      Code.tileScalarFault 0 := by
  have hslot : ((s.setCore t c ((s.core t c).trapped cause tval)).core t c).slot = (s.core t c).slot := by
    rw [State.core_setCore_self, Core.trapped_frame]
  rw [State.faulted, hslot, State.coreTrap]
  exact if_neg (by rw [hm]; decide)

theorem State.coreTrap_ends (hc : c < 8) (hrun : (s.core t c).state ≠ .idle) (hm : (s.core t c).machine = false) (cause tval : Nat) :
    s.Ends (s.coreTrap t c cause tval) t c Code.tileScalarFault 0 := by
  rw [State.coreTrap_user hm]
  have hcore : (s.setCore t c ((s.core t c).trapped cause tval)).core t c = (s.core t c).trapped cause tval := s.core_setCore_self t c _
  refine .of_frame (.faulted hc ?_) ?_ ?_
  · rw [hcore, Core.trapped_frame]
    exact hrun
  · rfl
  · rw [hcore, Core.trapped_frame]

end Sys2Proof.Machine
end

section
namespace Sys2Proof.Machine

variable {s u w : State} {t c : Nat}

/-! ### A custom instruction carried out (R188, R189) -/

theorem State.running_of_coreGoes (h : s.coreGoes t c = true) : (s.core t c).state = .running := by
  rw [State.coreGoes, Bool.and_eq_true] at h
  exact eq_of_beq h.1

theorem State.coreGoes_of_customAt {i : Custom} (h : s.customAt t c = some i) : s.coreGoes t c = true := by
  rw [State.customAt] at h
  split at h
  next hgo => exact hgo
  · cases h

theorem State.running_of_customAt {i : Custom} (h : s.customAt t c = some i) : (s.core t c).state = .running :=
  State.running_of_coreGoes (State.coreGoes_of_customAt h)

theorem State.not_idle_of_customAt {i : Custom} (h : s.customAt t c = some i) : (s.core t c).state ≠ .idle := by
  rw [State.running_of_customAt h]
  exact nofun

theorem State.firm_of_customAt {i : Custom} (h : s.customAt t c = some i) : s.Firm t c := State.firm_of_running (State.not_idle_of_customAt h)

/-- What a custom instruction that passes R188's and R189's checks does. -/
def State.customEffect (s : State) (t c : Nat) (ue : List Nat) (i : Custom) : State :=
  match i with
  | .v0 f7 a => s.run0 t c f7 a
  | .v1 op a vs3 => s.run1 t c op a vs3
  | .v2 op m =>
    match op with
    | 0 => s.runVld t c m ue
    | 1 => s.runVst t c m
    | 2 => s.runVldq t c m ue
    | 3 => s.runVstq t c m
    | 4 => s.runVgath t c m ue
    | _ => s.runVscat t c m
  | .v3 f7 rd rs1 rs2 => s.run3 t c f7 rd rs1 rs2

theorem State.runCustom_eq (s : State) (t c : Nat) (ue : List Nat) (i : Custom) : s.runCustom t c ue i =
    if (i.vector && (s.tile t).vec.core != some c) = true then s.coreEnd t c Code.tileVectorIllegal
    else if (decide (s.get .tileNumCtlNebex t = 1) && !nebexCapable i) = true then s.coreEnd t c Code.numNebexUnsupported
    else if i.badRc (s.get .tileNumCtlNebex t == 1) then s.coreEnd t c Code.numRoundCode
    else s.customEffect t c ue i := by
  cases i <;> rfl

theorem State.runCustom_of_checks {ue : List Nat} {i : Custom} (hcore : i.vector = true → (s.tile t).vec.core = some c)
    (hnebex : s.get .tileNumCtlNebex t = 1 → nebexCapable i = true) (hrc : i.badRc (s.get .tileNumCtlNebex t == 1) = false) :
    s.runCustom t c ue i = s.customEffect t c ue i := by
  have hbound : (i.vector && (s.tile t).vec.core != some c) = false := by
    cases hv : i.vector
    · rfl
    · rw [hcore hv, bne_self_eq_false]
      rfl
  have hcap : (decide (s.get .tileNumCtlNebex t = 1) && !nebexCapable i) = false := by
    by_cases hn : s.get .tileNumCtlNebex t = 1
    · rw [hnebex hn, Bool.not_true, Bool.and_false]
    · rw [decide_eq_false hn, Bool.false_and]
  rw [State.runCustom_eq, hbound, hcap, hrc]
  rfl

theorem State.Executes.run0 {f7 : Nat} {a : VArgs} (h : s.Executes t c (.v0 f7 a)) (ue : List Nat) :
    s.custom t c ue (.v0 f7 a) = s.run0 t c f7 a :=
  (if_pos h.1).trans (State.runCustom_of_checks h.2.1 h.2.2.1 h.2.2.2)

theorem State.Executes.run1 {op vs3 : Nat} {a : VArgs} (h : s.Executes t c (.v1 op a vs3)) (ue : List Nat) :
    s.custom t c ue (.v1 op a vs3) = s.run1 t c op a vs3 :=
  (if_pos h.1).trans (State.runCustom_of_checks h.2.1 h.2.2.1 h.2.2.2)

/-- A vector load or store runs behind the core's earlier stores (log 90). -/
theorem State.Executes.run2 {op : Nat} {m : VMem} (h : s.Executes t c (.v2 op m)) (ue : List Nat) :
    s.custom t c ue (.v2 op m) = (s.drainAll t c).customEffect t c ue (.v2 op m) := by
  refine (if_pos h.1).trans ?_
  have hd := (s.drains_drainAll t c).frame
  dsimp only
  generalize s.drainAll t c = d at hd
  have hnb : d.get .tileNumCtlNebex t = s.get .tileNumCtlNebex t := State.get_of_word (State.word_of_ctl (by rw [hd]) _)
  have htile : d.tile t = s.tile t := by
    rw [hd]
    rfl
  exact State.runCustom_of_checks (by rw [htile]; exact h.2.1) (by rw [hnb]; exact h.2.2.1) (by rw [hnb]; exact h.2.2.2)

/-! ### A vector instruction done -/

theorem State.tile_modOp_ne (s : State) {t x k : Nat} (f : Op → Op) (h : x ≠ t) : (s.modOp t k f).tile x = s.tile x := by
  unfold State.modOp
  split
  · rw [State.setOp, State.tile_setTile, if_neg h]
  · rfl

theorem State.tile_modOp_self (s : State) (t k : Nat) (f : Op → Op) :
    (s.modOp t k f).tile t = { s.tile t with slots := ((s.modOp t k f).tile t).slots } := by
  unfold State.modOp
  split
  · rw [State.setOp, State.tile_setTile, if_pos rfl]
    rfl
  · rfl

/-- The registers that a vector instruction raises its flags in and is counted in (R183). -/
def State.counted (s : State) (t fl : Nat) : State := (s.raiseFlags t fl).bump .tileVectorInsts t

theorem State.counted_frame (s : State) (t fl : Nat) : s.counted t fl = { s with ctl := (s.counted t fl).ctl } :=
  State.ctl_only_trans (State.setWord_eq _ _ _) (State.setWord_eq _ _ _)

theorem flags_ne_insts (t : Nat) : Fld.tileNumFlagsFlushed.addr t 0 ≠ Fld.tileVectorInsts.addr t 0 := by
  simp only [Fld.addr, Fld.tileNumFlagsFlushed, Fld.tileVectorInsts]
  omega

theorem State.word_counted (s : State) (t fl x : Nat) : (s.counted t fl).word x =
    if x = Fld.tileVectorInsts.addr t 0 then bumpWord (s.word x) 1
    else if x = Fld.tileNumFlagsFlushed.addr t 0 then s.word x ||| BitVec.ofNat 64 (fl % 8192) else s.word x := by
  rw [State.counted, State.word_bump]
  unfold State.raiseFlags
  split
  next h => rw [h, State.word_setWord, if_neg (flags_ne_insts t).symm]
  · rw [State.word_setWord]
    split
    next h => rw [h]
    · rfl

theorem State.vDone_eq (s : State) (t c : Nat) (v : Vec) (fl : Nat) : s.vDone t c v fl =
    let s2 := ((s.setTile t { s.tile t with vec := v }).counted t fl).modOp t (s.core t c).slot fun o => { o with flags := o.flags ||| fl }
    s2.setCore t c ((s2.core t c).advance 4) := rfl

/-- The vector unit of the tile holds what the instruction gives it. -/
theorem State.vec_vDone (s : State) (t c : Nat) (v : Vec) (fl : Nat) : ((s.vDone t c v fl).tile t).vec = v := by
  rw [State.vDone_eq]
  dsimp only
  rw [State.tile_setCore, State.tile_modOp_self, State.counted_frame]
  dsimp only
  generalize ((s.setTile t { s.tile t with vec := v }).counted t fl).ctl = n
  change ((s.setTile t { s.tile t with vec := v }).tile t).vec = v
  rw [State.tile_setTile, if_pos rfl]

theorem State.vectorOnly_vDone (s : State) (t c : Nat) (v : Vec) (fl : Nat) : s.VectorOnly (s.vDone t c v fl) t c fl := by
  have hvec := s.vec_vDone t c v fl
  rw [State.VectorOnly, State.VectorDone, hvec, State.vDone_eq]
  have hc := (s.setTile t { s.tile t with vec := v }).counted_frame t fl
  have hword := (s.setTile t { s.tile t with vec := v }).word_counted t fl
  generalize (s.setTile t { s.tile t with vec := v }).counted t fl = b at hc hword
  have htile : ∀ x, b.tile x = if x = t then { s.tile t with vec := v } else s.tile x := fun x => by
    rw [hc]
    exact s.tile_setTile t x _
  have hop : ∀ k, b.op t k = s.op t k := fun k => by
    rw [State.op, htile, if_pos rfl]
    rfl
  have hm := b.modOp_frame t (s.core t c).slot fun o => { o with flags := o.flags ||| fl }
  have hmop := fun k => b.op_modOp t (s.core t c).slot t k fun o => { o with flags := o.flags ||| fl }
  have hmself := b.tile_modOp_self t (s.core t c).slot fun o => { o with flags := o.flags ||| fl }
  have hmne := fun x => b.tile_modOp_ne (t := t) (x := x) (k := (s.core t c).slot) fun o => { o with flags := o.flags ||| fl }
  generalize b.modOp t (s.core t c).slot (fun o => { o with flags := o.flags ||| fl }) = d at hm hmop hmself hmne
  obtain ⟨n, hm⟩ := hm
  have hcore : ∀ k, smGet (fun _ => ({} : Core)) d.cores k = smGet (fun _ => {}) s.cores k := fun k => by
    rw [hm, hc]
    rfl
  have hdcore : d.core t c = s.core t c := hcore _
  have hdword : ∀ x, d.word x = b.word x := State.word_of_ctl (by rw [hm])
  dsimp only
  rw [State.core_setCore_self, hdcore]
  refine ⟨⟨?_, rfl, fun x hx => ?_, ?_, fun k => ?_, ?_, ?_, fun x hx hy => ?_⟩, ?_, rfl, fun k hk => ?_⟩
  · rw [State.setCore_setCore_eq, hm, hc]
    rfl
  · rw [State.tile_setCore, hmne x hx, htile, if_neg hx]
  · rw [State.tile_setCore, hmself, htile, if_pos rfl]
  · rw [State.op_setCore, hmop, hop, hop]
    simp only [true_and]
    split
    next h => rw [h]
    · rfl
  · rw [State.word_setCore, hdword, hword, if_neg (flags_ne_insts t), if_pos rfl]
    rfl
  · rw [State.word_setCore, hdword, hword, if_pos rfl]
    rfl
  · rw [State.word_setCore, hdword, hword, if_neg hy, if_neg hx]
    rfl
  · rw [State.setCore_setCore_eq, hm, hc]
    rfl
  · exact (smGet_smPut_ne _ hk _ _).trans (hcore k)

/-- An instruction done where `w` differs from `s` in memory, in other cores and in the core's f registers. -/
theorem State.VectorDone.of_frame {fl : Nat} (h : w.VectorDone u t c fl) (hw : w = { s with cores := w.cores, mem := w.mem })
    (hcore : w.core t c = { s.core t c with f := (w.core t c).f }) : s.VectorDone u t c fl := by
  obtain ⟨hframe, hk, hother, htile, hop, hfl, hcount, hword⟩ := h
  have hslot : (w.core t c).slot = (s.core t c).slot := by rw [hcore]
  have hct : ∀ x, w.word x = s.word x := State.word_of_ctl (by rw [hw])
  have hti : ∀ x, w.tile x = s.tile x := fun x => by
    rw [hw]
    rfl
  have ho : ∀ k, w.op t k = s.op t k := fun k => by rw [State.op, hti, State.op]
  simp only [hct, hti, ho, hslot] at hother htile hop hfl hcount hword
  refine ⟨?_, ?_, hother, htile, hop, hfl, hcount, hword⟩
  · rw [hw] at hframe
    exact hframe
  · rw [hcore] at hk
    exact hk

/-! ### Vector registers written lane by lane (R182) -/

variable {v : Vec} {masked : Bool} {vd : Nat}

theorem Vec.word_setLane (v : Vec) {vd r l j : Nat} (b : Nat) (hl : l < 512) (hj : j < 512) :
    (v.setLane vd j b).word r l = if r = vd ∧ l = j then BitVec.ofNat 32 b else v.word r l := by
  have hkey : r * 512 + l = vd * 512 + j ↔ r = vd ∧ l = j := by omega
  rw [Vec.word, Vec.setLane, smGet_smPut]
  exact if_congr hkey rfl rfl

/-- The first `n` lanes of `Vec.map`. -/
def Vec.mapTo (v : Vec) (masked : Bool) (vd : Nat) (f : Nat → Nat × Nat) (n : Nat) : Vec × Nat :=
  (List.range n).foldl (fun a l => if v.active masked l then
    let r := f l
    (a.1.setLane vd l r.1, a.2 ||| r.2) else a) (v, 0)

theorem Vec.map_eq_mapTo (v : Vec) (masked : Bool) (vd : Nat) (f : Nat → Nat × Nat) : v.map masked vd f = v.mapTo masked vd f 512 := rfl

theorem Vec.mapTo_succ (v : Vec) (masked : Bool) (vd : Nat) (f : Nat → Nat × Nat) (n : Nat) : v.mapTo masked vd f (n + 1) =
    if v.active masked n then ((v.mapTo masked vd f n).1.setLane vd n (f n).1, (v.mapTo masked vd f n).2 ||| (f n).2) else v.mapTo masked vd f n := by
  rw [Vec.mapTo, List.range_succ, List.foldl_append]
  rfl

theorem Vec.mapTo_frame (v : Vec) (masked : Bool) (vd : Nat) (f : Nat → Nat × Nat) (n : Nat) :
    (v.mapTo masked vd f n).1 = { v with regs := (v.mapTo masked vd f n).1.regs } := by
  induction n with
  | zero => rfl
  | succ n ih =>
    rw [Vec.mapTo_succ]
    generalize v.mapTo masked vd f n = p at ih
    split
    · rw [Vec.setLane, ih]
    · exact ih

theorem Vec.word_mapTo (v : Vec) (masked : Bool) (vd : Nat) (f : Nat → Nat × Nat) {n : Nat} (hn : n ≤ 512) (r : Nat) {l : Nat} (hl : l < 512) :
    (v.mapTo masked vd f n).1.word r l =
      if l < n ∧ r = vd ∧ v.active masked l = true then BitVec.ofNat 32 (f l).1 else v.word r l := by
  induction n with
  | zero => simp [Vec.mapTo]
  | succ n ih =>
    have ih := ih (by omega)
    have hlt : l < n + 1 ↔ l < n ∨ l = n := by omega
    rw [Vec.mapTo_succ]
    by_cases hact : v.active masked n = true
    · rw [if_pos hact, Vec.word_setLane _ _ hl (by omega), ih]
      by_cases hln : l = n
      · subst hln
        by_cases hr : r = vd <;> simp [hr, hact]
      · simp [hln, hlt]
    · rw [if_neg hact, ih]
      by_cases hln : l = n
      · subst hln
        simp [hact]
      · simp [hln, hlt]

theorem Vec.flags_mapTo (v : Vec) (masked : Bool) (vd : Nat) (f : Nat → Nat × Nat) (n : Nat) :
    (v.mapTo masked vd f n).2 = (List.range n).foldl (fun a l => if v.active masked l then a ||| (f l).2 else a) 0 := by
  induction n with
  | zero => rfl
  | succ n ih =>
    rw [Vec.mapTo_succ, List.range_succ, List.foldl_append, ← ih]
    by_cases hact : v.active masked n = true <;> simp [hact]

theorem Vec.flags_map (v : Vec) (masked : Bool) (vd : Nat) (f : Nat → Nat × Nat) :
    (v.map masked vd f).2 = v.orFlags masked fun l => (f l).2 := by
  rw [Vec.map_eq_mapTo]
  exact v.flags_mapTo masked vd f 512

theorem Vec.orFlags_zero (v : Vec) (masked : Bool) : v.orFlags masked (fun _ => 0) = 0 := by
  rw [Vec.orFlags]
  generalize List.range 512 = xs
  induction xs <;> simp

/-- An instruction that writes the lanes of `vd` with the results of `f`. -/
theorem State.lanesBecome_map (hvec : (u.tile t).vec = ((s.tile t).vec.map masked vd f).1) :
    s.LanesBecome u t masked vd fun l => BitVec.ofNat 32 (f l).1 := by
  rw [Vec.map_eq_mapTo] at hvec
  refine ⟨?_, fun r l hl => ?_⟩
  · rw [hvec]
    exact Vec.mapTo_frame _ masked vd f 512
  · rw [hvec]
    refine ((s.tile t).vec.word_mapTo masked vd f le_rfl r hl).trans ?_
    simp only [hl, true_and]

theorem State.LanesBecome.congr {f g : Nat → W32} (h : s.LanesBecome u t masked vd f) (hfg : ∀ l, f l = g l) :
    s.LanesBecome u t masked vd g := funext hfg ▸ h

end Sys2Proof.Machine
end

section
/-! PROOFS. The vector unit's instructions that work lane by lane (Table 6.9). -/

namespace Sys2Proof.Machine

variable {s : State} {t c : Nat}

/-- A custom-0 operation carried out lane by lane. -/
def State.runLanes (s : State) (t c f7 : Nat) (a : VArgs) : State :=
  let v := (s.tile t).vec
  let w := v.map a.masked a.vd fun l => vLane (s.vMode t c) f7 a.rc l (v.lane a.vs1 l) (v.lane a.vs2 l) (v.vm.getLsbD l)
  s.vDone t c w.1 w.2

/-- `mk` is the custom-0 operation `f7`, which works lane by lane. -/
def LaneOp (mk : Nat → Nat → VArgs → Instr) (f7 : Nat) : Prop :=
  ∀ (s : State) (t c : Nat) (a : VArgs), exec (mk t c a) s = .next (s.custom t c [] (.v0 f7 a)) ∧ s.run0 t c f7 a = s.runLanes t c f7 a

theorem LaneOp.results {mk : Nat → Nat → VArgs → Instr} {f7 : Nat} {a : VArgs} (hop : LaneOp mk f7) (h : s.Executes t c (.v0 f7 a)) :
    let v := (s.tile t).vec
    let r := fun l => vLane (s.vMode t c) f7 a.rc l (v.word a.vs1 l).toNat (v.word a.vs2 l).toNat (v.vm.getLsbD l)
    ∃ u, exec (mk t c a) s = .next u ∧ s.VectorOnly u t c (v.orFlags a.masked fun l => (r l).2) ∧
      s.LanesBecome u t a.masked a.vd fun l => BitVec.ofNat 32 (r l).1 := by
  obtain ⟨hexec, hrun⟩ := hop s t c a
  refine ⟨s.runLanes t c f7 a, ?_, ?_, State.lanesBecome_map (State.vec_vDone _ _ _ _ _)⟩
  · rw [hexec, h.run0, hrun]
  · have hdone := s.vectorOnly_vDone t c
    unfold State.runLanes
    dsimp only
    rw [Vec.flags_map]
    exact hdone _ _

/-! ### Operations on bits and integers -/

/-- `mk` gives each lane the 32-bit result of `f` and raises no flag. -/
theorem LaneOp.integer_results {mk : Nat → Nat → VArgs → Instr} {f7 : Nat} {f : W32 → W32 → Bool → W32} (hop : LaneOp mk f7)
    (hf : ∀ m rc l (x y : W32) b, vLane m f7 rc l x.toNat y.toNat b = ((f x y b).toNat, 0)) (s : State) (t c : Nat) (a : VArgs)
    (h : s.Executes t c (.v0 f7 a)) :
    let v := (s.tile t).vec
    ∃ u, exec (mk t c a) s = .next u ∧ s.VectorOnly u t c 0 ∧
      s.LanesBecome u t a.masked a.vd fun l => f (v.word a.vs1 l) (v.word a.vs2 l) (v.vm.getLsbD l) := by
  obtain ⟨u, hu, honly, hlanes⟩ := hop.results h
  simp only [hf, Vec.orFlags_zero, BitVec.ofNat_toNat, BitVec.setWidth_eq] at honly hlanes
  exact ⟨u, hu, honly, hlanes⟩

section
variable (m : VMode) (rc l : Nat) (x y : W32) (b : Bool)

theorem vLane_and : vLane m 0x0A rc l x.toNat y.toNat b = ((x &&& y).toNat, 0) := by rw [BitVec.toNat_and]; rfl
theorem vLane_or : vLane m 0x0B rc l x.toNat y.toNat b = ((x ||| y).toNat, 0) := by rw [BitVec.toNat_or]; rfl
theorem vLane_xor : vLane m 0x0C rc l x.toNat y.toNat b = ((x ^^^ y).toNat, 0) := by rw [BitVec.toNat_xor]; rfl

theorem vLane_shiftLeft : vLane m 0x0D rc l x.toNat y.toNat b = ((x <<< (y.toNat % 32)).toNat, 0) := by
  rw [BitVec.toNat_shiftLeft, Nat.shiftLeft_eq]
  rfl

theorem vLane_shiftRight : vLane m 0x0E rc l x.toNat y.toNat b = ((x >>> (y.toNat % 32)).toNat, 0) := by
  rw [BitVec.toNat_ushiftRight, Nat.shiftRight_eq_div_pow]
  rfl

theorem vLane_sshiftRight : vLane m 0x0F rc l x.toNat y.toNat b = ((x.sshiftRight (y.toNat % 32)).toNat, 0) := by
  have h : vLane m 0x0F rc l x.toNat y.toNat b = (((BitVec.ofNat 32 x.toNat).sshiftRight (y.toNat % 32)).toNat, 0) := rfl
  rw [h, BitVec.ofNat_toNat, BitVec.setWidth_eq]

theorem vLane_add : vLane m 0x10 rc l x.toNat y.toNat b = ((x + y).toNat, 0) := by rw [BitVec.toNat_add]; rfl
theorem vLane_mul : vLane m 0x11 rc l x.toNat y.toNat b = ((x * y).toNat, 0) := by rw [BitVec.toNat_mul]; rfl

/-- The magnitude of one operand beside the sign of the other. -/
theorem toNat_copySign (x y : W32) : ((x &&& 0x7FFFFFFF#32) ||| (y &&& 0x80000000#32)).toNat = x.toNat % 2 ^ 31 + y.toNat / 2 ^ 31 * 2 ^ 31 := by
  have hmag : (x &&& 0x7FFFFFFF#32).toNat = x.toNat % 2 ^ 31 := by
    rw [BitVec.toNat_and]
    exact Nat.and_two_pow_sub_one_eq_mod x.toNat 31
  have hsign : (y &&& 0x80000000#32).toNat = 2 ^ 31 * (y.toNat / 2 ^ 31) := by
    have hy : y.toNat / 2 ^ 31 = 0 ∨ y.toNat / 2 ^ 31 = 1 := by have := y.isLt; omega
    rw [BitVec.toNat_and]
    change y.toNat &&& 2 ^ 31 = _
    rw [Nat.and_two_pow, Nat.testBit_eq_decide_div_mod_eq]
    obtain h | h := hy <;> rw [h] <;> rfl
  rw [BitVec.toNat_or, hmag, hsign, Nat.or_comm, ← Nat.two_pow_add_eq_or_of_lt (Nat.mod_lt _ (by decide))]
  omega

theorem vLane_copySign :
    vLane m 0x07 rc l x.toNat y.toNat b = (((x &&& 0x7FFFFFFF#32) ||| (y &&& 0x80000000#32)).toNat, 0) := by
  rw [toNat_copySign]
  rfl

theorem vLane_select : vLane m 0x1B rc l x.toNat y.toNat b = ((if b then x else y).toNat, 0) := by cases b <;> rfl
theorem vLane_move : vLane m 0x1C rc l x.toNat y.toNat b = (x.toNat, 0) := rfl

end

end Sys2Proof.Machine

section
open Sys2Proof Sys2Proof.Machine

/-- Settles O15, operation by operation. -/
theorem vectorIntegerLanes : Obligations.VectorIntegerLanes := by
  intro e he
  simp only [List.mem_cons, List.not_mem_nil, or_false] at he
  obtain rfl | rfl | rfl | rfl | rfl | rfl | rfl | rfl | rfl | rfl | rfl := he
  · exact LaneOp.integer_results (fun _ _ _ _ => ⟨rfl, rfl⟩) vLane_and
  · exact LaneOp.integer_results (fun _ _ _ _ => ⟨rfl, rfl⟩) vLane_or
  · exact LaneOp.integer_results (fun _ _ _ _ => ⟨rfl, rfl⟩) vLane_xor
  · exact LaneOp.integer_results (fun _ _ _ _ => ⟨rfl, rfl⟩) vLane_shiftLeft
  · exact LaneOp.integer_results (fun _ _ _ _ => ⟨rfl, rfl⟩) vLane_shiftRight
  · exact LaneOp.integer_results (fun _ _ _ _ => ⟨rfl, rfl⟩) vLane_sshiftRight
  · exact LaneOp.integer_results (fun _ _ _ _ => ⟨rfl, rfl⟩) vLane_add
  · exact LaneOp.integer_results (fun _ _ _ _ => ⟨rfl, rfl⟩) vLane_mul
  · exact LaneOp.integer_results (fun _ _ _ _ => ⟨rfl, rfl⟩) vLane_copySign
  · exact LaneOp.integer_results (fun _ _ _ _ => ⟨rfl, rfl⟩) vLane_select
  · exact LaneOp.integer_results (fun _ _ _ _ => ⟨rfl, rfl⟩) vLane_move

end
end

section
/-! PROOFS. The vector unit's arithmetic, conversion and approximated instructions (Table 6.9, R184). -/

namespace Sys2Proof.Machine

variable {s : State} {t c : Nat}

/-! ### A lane's result rounded once (R62) -/

section
variable {m : VMode} (hnebex : m.md.nebex = false) (hftz : m.md.ftz = false)
include hnebex hftz

/-- Outside Nebex-exact mode and FTZ a lane is read as the FP32 value that it holds. -/
theorem VMode.read_plain (b : Nat) : m.read b = (FFmt.f32.decode b, 0) := by
  have h : m.read b = readOperand 0 m.md.ftz b := by
    unfold VMode.read
    rw [hnebex]
    rfl
  rw [h, hftz]
  rfl

theorem VMode.round_plain {rc : Nat} (hrc : rc ≤ 1) (lane : Nat) (key : List Nat) (x : FVal) :
    (m.round rc lane key x).1 = (FFmt.f32.round (if rc = 0 then .rne else .rtz) x).bits := by
  have hrm : m.rm rc lane key = if rc = 0 then .rne else .rtz := by
    unfold VMode.rm rmOfCode
    rw [hnebex]
    obtain rfl | rfl : rc = 0 ∨ rc = 1 := by omega
    · rfl
    · rfl
  unfold VMode.round
  rw [hnebex, hrm, hftz]
  rfl

theorem VMode.result_plain {rc : Nat} (hrc : rc ≤ 1) (lane op : Nat) (x : FVal) (ops : List Nat) (dz : Bool) :
    (m.result rc lane op x ops dz).1 = (FFmt.f32.round (if rc = 0 then .rne else .rtz) x).bits :=
  m.round_plain hnebex hftz hrc lane (op :: ops) x

/-- The four operations of arithmetic, each as the exact function that `f` is, rounded once. -/
theorem vLane_exact {rc : Nat} (hrc : rc ≤ 1) (l a b : Nat) (k : Bool) {f7 : Nat} {f : FVal → FVal → FVal}
    (hf : ∀ (m : VMode) rc l a b k, (vLane m f7 rc l a b k).1 = (m.result rc l f7 (f (m.read a).1 (m.read b).1) [a, b] false).1) :
    (vLane m f7 rc l a b k).1 = (FFmt.f32.round (if rc = 0 then .rne else .rtz) (f (FFmt.f32.decode a) (FFmt.f32.decode b))).bits := by
  rw [hf, m.result_plain hnebex hftz hrc, m.read_plain hnebex hftz, m.read_plain hnebex hftz]

end

theorem LaneOp.exact_results {mk : Nat → Nat → VArgs → Instr} {f7 : Nat} {f : FVal → FVal → FVal} (hop : LaneOp mk f7)
    (hf : ∀ (m : VMode) rc l a b k, (vLane m f7 rc l a b k).1 = (m.result rc l f7 (f (m.read a).1 (m.read b).1) [a, b] false).1)
    (s : State) (t c : Nat) (a : VArgs) (h : s.Executes t c (.v0 f7 a)) (hnebex : (s.numMode t).nebex = false) (hftz : (s.numMode t).ftz = false)
    (hrc : a.rc ≤ 1) :
    let v := (s.tile t).vec
    ∃ u, exec (mk t c a) s = .next u ∧ s.LanesBecome u t a.masked a.vd fun l =>
      BitVec.ofNat 32 (FFmt.f32.round (if a.rc = 0 then .rne else .rtz)
        (f (FFmt.f32.decode (v.word a.vs1 l).toNat) (FFmt.f32.decode (v.word a.vs2 l).toNat))).bits := by
  obtain ⟨u, hu, -, hlanes⟩ := hop.results h
  refine ⟨u, hu, hlanes.congr fun l => ?_⟩
  rw [vLane_exact (m := s.vMode t c) hnebex hftz hrc _ _ _ _ hf]

/-! ### A vector instruction that ends its kernel (R188, R189) -/

/-- A custom-0 instruction from a core that the vector unit does not serve, or with the reserved rounding code. -/
theorem State.custom_refused {f7 : Nat} {a : VArgs} {o : Op} (hc : c < 8) (hat : s.customAt t c = some (.v0 f7 a))
    (ho : s.op t (s.core t c).slot = some o) (hrun : o.phase = .running)
    (h : (s.tile t).vec.core ≠ some c ∨ (a.rc = 3 ∧ s.get .tileNumCtlNebex t = 0)) :
    let u := s.custom t c [] (.v0 f7 a)
    (u.core t c).state = .idle ∧ (u.op t (s.core t c).slot).map Op.phase =
      some (.failed (if (s.tile t).vec.core ≠ some c then Code.tileVectorIllegal else Code.numRoundCode) 0) := by
  have hends : ∀ code, s.custom t c [] (.v0 f7 a) = s.coreEnd t c code →
      ((s.custom t c [] (.v0 f7 a)).core t c).state = .idle ∧
        ((s.custom t c [] (.v0 f7 a)).op t (s.core t c).slot).map Op.phase = some (.failed code 0) := fun code hcode => by
    have hcore := State.coreEnd_ends hc (State.not_idle_of_customAt hat) code 0
    rw [hcode]
    exact ⟨hcore.idle, hcore.phase ho hrun⟩
  have heq : s.custom t c [] (.v0 f7 a) = s.runCustom t c [] (.v0 f7 a) := if_pos hat
  by_cases hbound : (s.tile t).vec.core = some c
  · obtain h | ⟨hrc, hnb⟩ := h
    · exact absurd hbound h
    · rw [if_neg (not_not.2 hbound)]
      refine hends _ (heq.trans ((s.runCustom_eq t c [] _).trans ?_))
      have hbad : ∀ nb, Custom.badRc nb (.v0 f7 a) = true := fun _ => beq_iff_eq.2 hrc
      simp [hbound, hnb, hbad]
  · rw [if_pos hbound]
    refine hends _ (heq.trans ((s.runCustom_eq t c [] _).trans (if_pos ?_)))
    rw [Bool.and_eq_true, bne_iff_ne]
    exact ⟨rfl, hbound⟩

end Sys2Proof.Machine

section
open Sys2Proof Sys2Proof.Machine

theorem floatLanes_results : ∀ e ∈ ([(.vadd, 0), (.vsub, 1), (.vmul, 2), (.vdiv, 3), (.vmin, 4), (.vmax, 5), (.vsqrt, 6), (.vcvtif, 8),
    (.vcvtfi, 9), (.vexp2, 0x20), (.vexp, 0x21), (.vlog2, 0x22), (.vln, 0x23), (.vrcp, 0x24), (.vrsqrt, 0x25), (.vtanh, 0x26), (.vsigm, 0x27),
    (.vgelu, 0x28), (.vsilu, 0x29), (.vsin, 0x2A), (.vcos, 0x2B)] : List ((Nat → Nat → VArgs → Instr) × Nat)), LaneOp e.1 e.2 := by
  simp only [List.forall_mem_cons, List.not_mem_nil, false_implies, implies_true, and_true]
  repeat' apply And.intro
  all_goals exact fun _ _ _ _ => ⟨rfl, rfl⟩

/-- Settles O16: the lanes, the exact operations, and what ends the kernel. -/
theorem vectorFloatLanes : Obligations.VectorFloatLanes := by
  refine ⟨fun e he s t c a h => (floatLanes_results e he).results h, ?_, ?_⟩
  · intro e he
    simp only [List.mem_cons, List.not_mem_nil, or_false] at he
    obtain rfl | rfl | rfl | rfl := he
    · exact LaneOp.exact_results (fun _ _ _ _ => ⟨rfl, rfl⟩) fun _ _ _ _ _ _ => rfl
    · exact LaneOp.exact_results (fun _ _ _ _ => ⟨rfl, rfl⟩) fun _ _ _ _ _ _ => rfl
    · exact LaneOp.exact_results (fun _ _ _ _ => ⟨rfl, rfl⟩) fun _ _ _ _ _ _ => rfl
    · exact LaneOp.exact_results (fun _ _ _ _ => ⟨rfl, rfl⟩) fun _ _ _ _ _ _ => rfl
  · intro e he s t c a o hc hat ho hrun h
    refine ⟨_, ?_, State.custom_refused hc hat ho hrun h⟩
    simp only [List.mem_cons, List.not_mem_nil, or_false] at he
    obtain rfl | rfl | rfl | rfl | rfl | rfl | rfl | rfl := he <;> rfl

end
end

section
/-! PROOFS. The approximated functions at the operands that R183 fixes. -/

namespace Sys2Proof.Machine

variable {m : VMode} {f rc lane a b bits : Nat}

/-- The funct7 values of the approximated functions (Table 6.9). -/
def approxCodes : List Nat := [0x20, 0x21, 0x22, 0x23, 0x24, 0x25, 0x26, 0x27, 0x28, 0x29, 0x2A, 0x2B]

theorem vLane_approx (hf : f ∈ approxCodes) (m : VMode) (rc lane a b : Nat) (k : Bool) : vLane m f rc lane a b k =
    if (m.read a).1.isNan then (FFmt.f32.nanCode, flagIf (FFmt.f32.isSnan a) Flag.nv)
    else
      let r := vApprox f (FFmt.f32.round .rne (m.read a).1).bits
      let z := flushWord m.md.ftz r.1
      (z.1, r.2 ||| z.2 ||| (m.read a).2) := by
  revert f
  simp only [approxCodes, List.forall_mem_cons, List.not_mem_nil, false_implies, implies_true, and_true]
  repeat' apply And.intro
  all_goals rfl

/-! ### The operands as they are read, in every mode (R70, R85) -/

/-- A code that the flush of subnormals leaves alone is read as it decodes, rounded to BF16 in Nebex-exact mode. -/
theorem VMode.read_of_normal (m : VMode) (ha : FFmt.f32.isSubnormal a = false) : ∃ rm, (m.read a).1 =
    if m.md.nebex then FFmt.bf16.decode (roundFtz .bf16 true rm (FFmt.f32.decode a)).1 else FFmt.f32.decode a := by
  have hread : readOperand 0 m.md.ftz a = (FFmt.f32.decode a, 0) := by
    unfold readOperand
    rw [fmtOfCode]
    dsimp only
    rw [ha, Bool.and_false]
    rfl
  refine ⟨.sr (Config.registerDraw m.seed m.epoch 0 [a] % 65536), ?_⟩
  unfold VMode.read
  rw [hread]
  dsimp only
  split <;> rfl

/-- BF16 holds the infinities and the zeros of FP32, however it is rounded. -/
theorem decode_roundFtz_inf (rm : Rm) (n : Bool) : FFmt.bf16.decode (roundFtz .bf16 true rm (.inf n)).1 = .inf n := by
  have h : (roundFtz .bf16 true rm (.inf n)).1 = FFmt.bf16.sign n + 0x7F80 := by simp [roundFtz, FFmt.round, FFmt.bf16]
  rw [h]
  cases n <;> decide

theorem decode_roundFtz_zero (rm : Rm) (e : Int) : FFmt.bf16.decode (roundFtz .bf16 true rm (.fin false 0 e)).1 = .fin false 0 (-133) := by
  have h : (roundFtz .bf16 true rm (.fin false 0 e)).1 = 0 := by simp [roundFtz, FFmt.round, FFmt.sign]
  rw [h]
  rfl

theorem FFmt.decode_nan (ha : 0x7F800000 < a % 2 ^ 31) : FFmt.f32.decode a = .nan := by
  unfold FFmt.decode
  rw [show FFmt.f32.width - 1 = 31 from rfl, if_neg (not_le.2 (lt_trans (by decide) ha)), if_neg]
  exact fun h => absurd h.2 (ne_of_gt ha)

theorem VMode.read_nan (m : VMode) (ha : 0x7F800000 < a % 2 ^ 31) : (m.read a).1 = .nan := by
  have hnormal : FFmt.f32.isSubnormal a = false := decide_eq_false fun h => absurd h.2 (not_lt.2 (le_trans (by decide) ha.le))
  obtain ⟨rm, hrm⟩ := m.read_of_normal hnormal
  rw [hrm, FFmt.decode_nan ha]
  split <;> rfl

theorem VMode.read_inf (m : VMode) : (m.read 0x7F800000).1 = .inf false := by
  obtain ⟨rm, hrm⟩ := m.read_of_normal (a := 0x7F800000) rfl
  rw [hrm, show FFmt.f32.decode 0x7F800000 = .inf false from rfl, decode_roundFtz_inf, ite_self]

theorem VMode.read_negInf (m : VMode) : (m.read 0xFF800000).1 = .inf true := by
  obtain ⟨rm, hrm⟩ := m.read_of_normal (a := 0xFF800000) rfl
  rw [hrm, show FFmt.f32.decode 0xFF800000 = .inf true from rfl, decode_roundFtz_inf, ite_self]

theorem VMode.read_zero (m : VMode) : ∃ e, (m.read 0).1 = .fin false 0 e := by
  obtain ⟨rm, hrm⟩ := m.read_of_normal (a := 0) rfl
  rw [hrm, show FFmt.f32.decode 0 = .fin false 0 (-149) from rfl, decode_roundFtz_zero]
  split <;> exact ⟨_, rfl⟩

/-! ### The results -/

theorem vLane_of_nan (hf : f ∈ approxCodes) (ha : 0x7F800000 < a % 2 ^ 31) : (vLane m f rc lane a b false).1 = 0x7FC00000 := by
  rw [vLane_approx hf, m.read_nan ha]
  rfl

/-- What a table of the model's values at the bits of an operand gives, where no value in it is subnormal. -/
theorem vLane_of_bits {tab : List (Nat × Nat)} (hx : (m.read a).1.isNan = false) (hbits : (FFmt.f32.round .rne (m.read a).1).bits = bits)
    (htab : ∀ p ∈ tab, p.1 ∈ approxCodes ∧ (vApprox p.1 bits).1 = p.2 ∧ FFmt.f32.isSubnormal p.2 = false) :
    ∀ p ∈ tab, (vLane m p.1 rc lane a b false).1 = p.2 := by
  intro p hp
  obtain ⟨hcode, hval, hnormal⟩ := htab p hp
  rw [vLane_approx hcode, hx, hbits, if_neg Bool.false_ne_true]
  dsimp only
  rw [hval, flushWord, hnormal, Bool.and_false]
  rfl

end Sys2Proof.Machine

section
open Sys2Proof Sys2Proof.Machine

/-- Settles O17, operand by operand. -/
theorem approximatedSpecialOperands : Obligations.ApproximatedSpecialOperands := by
  intro m rc lane b
  refine ⟨fun f hf a _ ha => vLane_of_nan hf ha, vLane_of_bits (bits := 0x7F800000) ?_ ?_ (by decide), vLane_of_bits (bits := 0) ?_ ?_ (by decide),
    vLane_of_bits (bits := 0xFF800000) ?_ ?_ (by decide)⟩
  · rw [m.read_inf]; rfl
  · rw [m.read_inf]; rfl
  · obtain ⟨e, he⟩ := m.read_zero
    rw [he]; rfl
  · obtain ⟨e, he⟩ := m.read_zero
    rw [he]; rfl
  · rw [m.read_negInf]; rfl
  · rw [m.read_negInf]; rfl

end
end

section
/-! PROOFS. Comparisons, reductions, VBCAST, VEXTR and the fused operations (Tables 6.9 and 6.10, R184). -/

namespace Sys2Proof.Machine

variable {s : State} {t c : Nat}

/-! ### Comparisons -/

theorem FFmt.nan_of_isNan {b : Nat} (h : (FFmt.f32.decode b).isNan = true) : 0x7F800000 < b % 2 ^ 31 := by
  by_contra hle
  unfold FFmt.decode at h
  rw [show FFmt.f32.width - 1 = 31 from rfl, show FFmt.f32.maxCode = 0x7F7FFFFF from rfl] at h
  dsimp only at h
  split at h
  · split at h <;> cases h
  · rw [if_pos ⟨rfl, by omega⟩] at h
    cases h

/-- A comparison with a NaN is false. -/
theorem vCompare_nan (m : VMode) (f7 a b : Nat) : (vCompare m f7 a b).1 =
    ((vCompare m f7 a b).1 && !(FFmt.f32.decode a).isNan && !(FFmt.f32.decode b).isNan) := by
  have hfalse : (m.read a).1 = .nan ∨ (m.read b).1 = .nan → (vCompare m f7 a b).1 = false := fun h => by
    have heq : (m.read a).1.eq (m.read b).1 = false := by obtain h | h := h <;> rw [h] <;> cases (m.read _).1 <;> rfl
    have hlt : (m.read a).1.lt (m.read b).1 = false := by obtain h | h := h <;> rw [h] <;> cases (m.read _).1 <;> rfl
    unfold vCompare
    dsimp only
    rw [heq, hlt]
    split <;> rfl
  by_cases ha : (FFmt.f32.decode a).isNan = true
  · rw [hfalse (.inl (m.read_nan (FFmt.nan_of_isNan ha)))]
    rfl
  · by_cases hb : (FFmt.f32.decode b).isNan = true
    · rw [hfalse (.inr (m.read_nan (FFmt.nan_of_isNan hb)))]
      rfl
    · simp [ha, hb]

/-- The mask bits and the flags of the first `n` lanes compared by `q`. -/
def Vec.compareTo (v : Vec) (masked : Bool) (q : Nat → Bool × Nat) (n : Nat) : BitVec 512 × Nat :=
  (List.range n).foldl (fun x l => if v.active masked l then
    ((x.1 &&& ~~~(1#512 <<< l)) ||| (if (q l).1 then 1#512 <<< l else 0#512), x.2 ||| (q l).2) else x) (v.vm, 0)

theorem Vec.compareTo_succ (v : Vec) (masked : Bool) (q : Nat → Bool × Nat) (n : Nat) : v.compareTo masked q (n + 1) =
    if v.active masked n then (((v.compareTo masked q n).1 &&& ~~~(1#512 <<< n)) ||| (if (q n).1 then 1#512 <<< n else 0#512),
      (v.compareTo masked q n).2 ||| (q n).2) else v.compareTo masked q n := by
  rw [Vec.compareTo, List.range_succ, List.foldl_append]
  rfl

theorem getLsbD_setBit (x : BitVec 512) (b : Bool) {l n : Nat} (hl : l < 512) :
    ((x &&& ~~~(1#512 <<< n)) ||| (if b then 1#512 <<< n else 0#512)).getLsbD l = if l = n then b else x.getLsbD l := by
  have hone : (1#512 <<< n).getLsbD l = decide (l = n) := by
    rw [BitVec.getLsbD_shiftLeft, BitVec.getLsbD_one]
    simp only [hl, decide_true, Bool.true_and]
    by_cases hln : l = n
    · simp [hln]
    · by_cases hlt : l < n
      · simp [hln, hlt]
      · simp [hln, hlt]
        omega
  have hset : (if b then 1#512 <<< n else 0#512).getLsbD l = (b && decide (l = n)) := by
    cases b
    · rw [Bool.false_and]
      exact BitVec.getLsbD_zero
    · exact hone.trans (Bool.true_and _).symm
  rw [BitVec.getLsbD_or, BitVec.getLsbD_and, BitVec.getLsbD_not, hone, hset]
  by_cases hln : l = n <;> simp [hl, hln]

theorem Vec.getLsbD_compareTo (v : Vec) (masked : Bool) (q : Nat → Bool × Nat) (n : Nat) {l : Nat} (hl : l < 512) :
    (v.compareTo masked q n).1.getLsbD l = if l < n ∧ v.active masked l = true then (q l).1 else v.vm.getLsbD l := by
  induction n with
  | zero => simp [Vec.compareTo]
  | succ n ih =>
    have hlt : l < n + 1 ↔ l < n ∨ l = n := by omega
    rw [Vec.compareTo_succ]
    by_cases hact : v.active masked n = true
    · rw [if_pos hact, getLsbD_setBit _ _ hl, ih]
      by_cases hln : l = n
      · subst hln
        simp [hact]
      · simp [hln, hlt]
    · rw [if_neg hact, ih]
      by_cases hln : l = n
      · subst hln
        simp [hact]
      · simp [hln, hlt]

theorem Vec.flags_compareTo (v : Vec) (masked : Bool) (q : Nat → Bool × Nat) (n : Nat) :
    (v.compareTo masked q n).2 = (List.range n).foldl (fun a l => if v.active masked l then a ||| (q l).2 else a) 0 := by
  induction n with
  | zero => rfl
  | succ n ih =>
    rw [Vec.compareTo_succ, List.range_succ, List.foldl_append, ← ih]
    by_cases hact : v.active masked n = true <;> simp [hact]

/-- A comparison carried out. -/
def State.runCompare (s : State) (t c f7 : Nat) (a : VArgs) : State :=
  let v := (s.tile t).vec
  let r := v.compareTo a.masked (fun l => vCompare (s.vMode t c) f7 (v.lane a.vs1 l) (v.lane a.vs2 l)) 512
  s.vDone t c { v with vm := r.1 } r.2

theorem compare_results {mk : Nat → Nat → VArgs → Instr} {f7 : Nat} (hexec : ∀ t c a s, exec (mk t c a) s = .next (s.custom t c [] (.v0 f7 a)))
    (hrun : ∀ (s : State) t c a, s.run0 t c f7 a = s.runCompare t c f7 a) (s : State) (t c : Nat) (a : VArgs) (h : s.Executes t c (.v0 f7 a)) :
    let v := (s.tile t).vec
    let r := fun l => vCompare (s.vMode t c) f7 (v.word a.vs1 l).toNat (v.word a.vs2 l).toNat
    ∃ u, exec (mk t c a) s = .next u ∧ s.VectorOnly u t c (v.orFlags a.masked fun l => (r l).2) ∧
      (u.tile t).vec = { v with vm := (u.tile t).vec.vm } ∧
      ∀ l < 512, (u.tile t).vec.vm.getLsbD l = (if v.active a.masked l = true then
        (r l).1 && !(FFmt.f32.decode (v.word a.vs1 l).toNat).isNan && !(FFmt.f32.decode (v.word a.vs2 l).toNat).isNan else v.vm.getLsbD l) := by
  refine ⟨s.runCompare t c f7 a, by rw [hexec, h.run0, hrun], ?_, ?_, fun l hl => ?_⟩
  · have hdone := s.vectorOnly_vDone t c
    unfold State.runCompare
    dsimp only
    rw [Vec.flags_compareTo]
    exact hdone _ _
  · rw [State.runCompare, State.vec_vDone]
  · rw [State.runCompare, State.vec_vDone]
    dsimp only
    rw [Vec.getLsbD_compareTo _ _ _ _ hl]
    simp only [hl, true_and]
    exact if_congr Iff.rfl (vCompare_nan _ _ _ _) rfl

/-! ### One value for every lane -/

theorem State.run0_reduce (s : State) (t c : Nat) (a : VArgs) (mx : Bool) : s.run0 t c (if mx then 0x31 else 0x30) a =
    let r := vReduce (s.tile t).vec (s.vMode t c) mx a.rc a.vs1
    s.vDone t c ((s.tile t).vec.map a.masked a.vd fun _ => (r.1, 0)).1 (if (s.tile t).vec.vl = 0 then 0 else r.2) := by
  cases mx <;> rfl

theorem State.run0_broadcast (s : State) (t c : Nat) (a : VArgs) : s.run0 t c 0x38 a =
    let r := vBroadcast (s.vMode t c) a.rc ((s.core t c).getF a.vs1).toNat
    s.vDone t c ((s.tile t).vec.map a.masked a.vd fun _ => r).1 ((s.tile t).vec.orFlags a.masked fun _ => r.2) :=
  congrArg (s.vDone t c _) (Vec.flags_map _ _ _ _)

/-- An instruction that writes one value into the lanes that it works on, and raises flags of its own. -/
theorem State.broadcast_results (s : State) (t c : Nat) (a : VArgs) (r : Nat × Nat) (fl : Nat) :
    s.VectorOnly (s.vDone t c ((s.tile t).vec.map a.masked a.vd fun _ => r).1 fl) t c fl ∧
      s.LanesBecome (s.vDone t c ((s.tile t).vec.map a.masked a.vd fun _ => r).1 fl) t a.masked a.vd fun _ => BitVec.ofNat 32 r.1 :=
  ⟨s.vectorOnly_vDone t c _ fl, State.lanesBecome_map (f := fun _ => r) (s.vec_vDone t c _ fl)⟩

theorem reduce_results {mk : Instr} {a : VArgs} {mx : Bool} (hexec : exec mk s = .next (s.custom t c [] (.v0 (if mx then 0x31 else 0x30) a)))
    (h : s.Executes t c (.v0 (if mx then 0x31 else 0x30) a)) :
    let v := (s.tile t).vec
    let r := vReduce v (s.vMode t c) mx a.rc a.vs1
    ∃ u, exec mk s = .next u ∧ s.VectorOnly u t c (if v.vl = 0 then 0 else r.2) ∧ s.LanesBecome u t a.masked a.vd fun _ => BitVec.ofNat 32 r.1 := by
  rw [h.run0, State.run0_reduce] at hexec
  dsimp only at hexec ⊢
  generalize vReduce (s.tile t).vec (s.vMode t c) mx a.rc a.vs1 = r at hexec ⊢
  exact ⟨_, hexec, s.broadcast_results t c a (r.1, 0) _⟩

/-- A boxed FP32 keeps its bits outside Nebex-exact mode. -/
theorem vBroadcast_boxed {m : VMode} {rc f : Nat} (hbox : f / 2 ^ 32 = 0xFFFFFFFF) (hnebex : m.md.nebex = false) :
    vBroadcast m rc f = (f % 2 ^ 32, 0) := by
  unfold vBroadcast
  rw [hbox, hnebex]
  rfl

/-- An FP64 is rounded to FP32 once. -/
theorem vBroadcast_double {m : VMode} {rc f : Nat} (hbox : f / 2 ^ 32 ≠ 0xFFFFFFFF) (hnebex : m.md.nebex = false) (hftz : m.md.ftz = false)
    (hrc : rc ≤ 1) : (vBroadcast m rc f).1 = (FFmt.f32.round (if rc = 0 then .rne else .rtz) (FFmt.f64.decode f)).bits := by
  have h : (f / 2 ^ 32 == 0xFFFFFFFF) = false := beq_eq_false_iff_ne.2 hbox
  rw [← m.round_plain hnebex hftz hrc 0 [0x38, f]]
  unfold vBroadcast
  dsimp only
  rw [h]
  rfl

/-! ### A lane of a register to a scalar register -/

/-- VEXTR of a lane: as the core sees it with its register written. -/
theorem extract_results {a : VArgs} (h : s.Executes t c (.v0 0x39 a)) (hl : ((s.core t c).getX a.vs2).toNat < 512) (hvl : (s.tile t).vec.vl ≠ 0) :
    ∃ u, exec (.vextr t c a) s = .next u ∧ s.VectorDone u t c 0 ∧ u.mem = s.mem ∧ (u.tile t).vec = (s.tile t).vec ∧
      (u.core t c).getF a.vd = box ((s.tile t).vec.word a.vs1 ((s.core t c).getX a.vs2).toNat).toNat ∧
      ∀ r, r ≠ a.vd → (u.core t c).getF r = (s.core t c).getF r := by
  let k := (s.core t c).setF a.vd (box ((s.tile t).vec.lane a.vs1 ((s.core t c).getX a.vs2).toNat))
  have hcore : (s.setCore t c k).core t c = k := s.core_setCore_self t c k
  obtain ⟨hdone, hmem, hf, -⟩ := (s.setCore t c k).vectorOnly_vDone t c (s.tile t).vec 0
  have hget : ∀ r, (((s.setCore t c k).vDone t c (s.tile t).vec 0).core t c).getF r = k.getF r := fun r => by
    rw [Core.getF, hf, hcore]
    rfl
  refine ⟨(s.setCore t c k).vDone t c (s.tile t).vec 0, ?_, hdone.of_frame rfl ?_, hmem, (s.setCore t c k).vec_vDone t c _ _, ?_, fun r hr => ?_⟩
  · have hrun : s.run0 t c 0x39 a = (s.setCore t c k).vDone t c (s.tile t).vec 0 :=
      (if_neg (not_le.2 hl)).trans (if_neg hvl)
    exact congrArg Host.Outcome.next ((h.run0 []).trans hrun)
  · rw [hcore]
    rfl
  · rw [hget, Core.getF_setF, if_pos rfl]
    rfl
  · rw [hget, Core.getF_setF, if_neg hr]

theorem extract_trap {a : VArgs} {o : Op} (hc : c < 8) (hm : (s.core t c).machine = false) (h : s.Executes t c (.v0 0x39 a))
    (hl : 512 ≤ ((s.core t c).getX a.vs2).toNat) (ho : s.op t (s.core t c).slot = some o) (hrun : o.phase = .running) :
    ∃ u, exec (.vextr t c a) s = .next u ∧ (u.core t c).state = .idle ∧
      (u.op t (s.core t c).slot).map Op.phase = some (.failed Code.tileScalarFault 0) := by
  have hends := State.coreTrap_ends hc (State.not_idle_of_customAt h.1) hm 5 ((s.core t c).getX a.vs2).toNat
  exact ⟨_, congrArg Host.Outcome.next ((h.run0 []).trans (if_pos hl)), hends.idle, hends.phase ho hrun⟩

/-! ### The fused operations (Table 6.10) -/

/-- A lane of a custom-1 instruction. -/
def fusedLane (m : VMode) (op rc l a b z : Nat) : Nat × Nat :=
  let x := m.read a
  let y := m.read b
  let u := m.read z
  let p := x.1.mul y.1
  let p' := if op = 2 then p.negate else p
  let u' := if op = 1 then u.1.negate else u.1
  let r := m.result rc l (0x80 + op) (p'.add u') [a, b, z] false
  let nv := p.isNan && !x.1.isNan && !y.1.isNan
  (r.1, r.2 ||| x.2 ||| y.2 ||| u.2 ||| flagIf nv Flag.nv)

theorem State.run1_eq (s : State) (t c op : Nat) (a : VArgs) (vs3 : Nat) : s.run1 t c op a vs3 =
    let v := (s.tile t).vec
    let w := v.map a.masked a.vd fun l => fusedLane (s.vMode t c) op a.rc l (v.lane a.vs1 l) (v.lane a.vs2 l) (v.lane vs3 l)
    s.vDone t c w.1 w.2 := rfl

theorem fusedLane_plain {m : VMode} (hnebex : m.md.nebex = false) (hftz : m.md.ftz = false) {rc : Nat} (hrc : rc ≤ 1) (op l a b z : Nat) :
    let p := (FFmt.f32.decode a).mul (FFmt.f32.decode b)
    let w := FFmt.f32.decode z
    (fusedLane m op rc l a b z).1 = (FFmt.f32.round (if rc = 0 then .rne else .rtz)
      ((if op = 2 then p.negate else p).add (if op = 1 then w.negate else w))).bits := by
  unfold fusedLane
  dsimp only
  rw [m.result_plain hnebex hftz hrc, m.read_plain hnebex hftz, m.read_plain hnebex hftz, m.read_plain hnebex hftz]

theorem fused_results {mk : Nat → Nat → VArgs → Nat → Instr} {op : Nat} {g : FVal → FVal → FVal}
    (hexec : ∀ t c a vs3 s, exec (mk t c a vs3) s = .next (s.custom t c [] (.v1 op a vs3)))
    (hg : ∀ p z : FVal, (if op = 2 then p.negate else p).add (if op = 1 then z.negate else z) = g p z)
    (s : State) (t c vs3 : Nat) (a : VArgs) (h : s.Executes t c (.v1 op a vs3)) (hnebex : (s.numMode t).nebex = false)
    (hftz : (s.numMode t).ftz = false) (hrc : a.rc ≤ 1) :
    let v := (s.tile t).vec
    ∃ u fl, exec (mk t c a vs3) s = .next u ∧ s.VectorOnly u t c fl ∧ s.LanesBecome u t a.masked a.vd fun l =>
      BitVec.ofNat 32 (FFmt.f32.round (if a.rc = 0 then .rne else .rtz) (g
        ((FFmt.f32.decode (v.word a.vs1 l).toNat).mul (FFmt.f32.decode (v.word a.vs2 l).toNat)) (FFmt.f32.decode (v.word vs3 l).toNat))).bits := by
  refine ⟨_, _, by rw [hexec, h.run1, State.run1_eq], s.vectorOnly_vDone t c _ _, ?_⟩
  refine (State.lanesBecome_map (s.vec_vDone t c _ _)).congr fun l => ?_
  have hlane := fusedLane_plain (m := s.vMode t c) hnebex hftz hrc op l
  simp only [hg] at hlane
  exact congrArg _ (hlane _ _ _)

end Sys2Proof.Machine

section
open Sys2Proof Sys2Proof.Machine

theorem vectorCompare_results : ∀ e ∈ ([(.vcmpeq, 0x18), (.vcmplt, 0x19), (.vcmple, 0x1A)] : List ((Nat → Nat → VArgs → Instr) × Nat)),
    (∀ t c a s, exec (e.1 t c a) s = .next (s.custom t c [] (.v0 e.2 a))) ∧ ∀ (s : State) t c a, s.run0 t c e.2 a = s.runCompare t c e.2 a := by
  simp only [List.forall_mem_cons, List.not_mem_nil, false_implies, implies_true, and_true]
  exact ⟨⟨fun _ _ _ _ => rfl, fun _ _ _ _ => rfl⟩, ⟨fun _ _ _ _ => rfl, fun _ _ _ _ => rfl⟩, fun _ _ _ _ => rfl, fun _ _ _ _ => rfl⟩

theorem vectorReduce_results : ∀ e ∈ ([(.vrsum, 0x30, false), (.vrmax, 0x31, true)] : List ((Nat → Nat → VArgs → Instr) × Nat × Bool)),
    ∀ (s : State) (t c : Nat) (a : VArgs), s.Executes t c (.v0 e.2.1 a) →
      let v := (s.tile t).vec
      let r := vReduce v (s.vMode t c) e.2.2 a.rc a.vs1
      ∃ u, exec (e.1 t c a) s = .next u ∧ s.VectorOnly u t c (if v.vl = 0 then 0 else r.2) ∧
        s.LanesBecome u t a.masked a.vd fun _ => BitVec.ofNat 32 r.1 := by
  intro e he s t c a h
  simp only [List.mem_cons, List.not_mem_nil, or_false] at he
  obtain rfl | rfl := he
  · exact reduce_results (mx := false) rfl h
  · exact reduce_results (mx := true) rfl h

theorem vectorBroadcast_results (s : State) (t c : Nat) (a : VArgs) (h : s.Executes t c (.v0 0x38 a)) :
    let f := (s.core t c).getF a.vs1
    let r := vBroadcast (s.vMode t c) a.rc f.toNat
    ∃ u, exec (.vbcast t c a) s = .next u ∧ s.VectorOnly u t c ((s.tile t).vec.orFlags a.masked fun _ => r.2) ∧
      s.LanesBecome u t a.masked a.vd (fun _ => BitVec.ofNat 32 r.1) ∧
      (f.toNat / 2 ^ 32 = 0xFFFFFFFF → (s.numMode t).nebex = false → s.VectorOnly u t c 0 ∧ r.1 = (f.setWidth 32).toNat) ∧
      (f.toNat / 2 ^ 32 ≠ 0xFFFFFFFF → (s.numMode t).nebex = false → (s.numMode t).ftz = false → a.rc ≤ 1 →
        r.1 = (FFmt.f32.round (if a.rc = 0 then .rne else .rtz) (FFmt.f64.decode f.toNat)).bits) := by
  intro f r
  obtain ⟨honly, hlanes⟩ := s.broadcast_results t c a r ((s.tile t).vec.orFlags a.masked fun _ => r.2)
  refine ⟨_, congrArg Host.Outcome.next ((h.run0 []).trans (s.run0_broadcast t c a)), honly, hlanes, fun hbox hnebex => ?_, fun hbox hnebex hftz hrc => ?_⟩
  · have hr : r = (f.toNat % 2 ^ 32, 0) := vBroadcast_boxed hbox hnebex
    have hfl : ((s.tile t).vec.orFlags a.masked fun _ => r.2) = 0 := by
      rw [hr]
      exact Vec.orFlags_zero _ _
    exact ⟨(congrArg (s.VectorOnly _ t c) hfl).mp honly, by rw [hr, BitVec.toNat_setWidth]⟩
  · exact vBroadcast_double hbox hnebex hftz hrc

/-- Settles O18, kind of instruction by kind. -/
theorem vectorReduceAndMask : Obligations.VectorReduceAndMask := by
  refine ⟨fun e he => compare_results (vectorCompare_results e he).1 (vectorCompare_results e he).2, vectorReduce_results, vectorBroadcast_results,
    fun s t c a h => extract_results h, fun s t c a o hc hm h hl => extract_trap hc hm h hl, ?_⟩
  intro e he
  simp only [List.mem_cons, List.not_mem_nil, or_false] at he
  obtain rfl | rfl | rfl := he
  · exact fused_results (fun _ _ _ _ _ => rfl) fun _ _ => rfl
  · exact fused_results (fun _ _ _ _ _ => rfl) fun _ _ => rfl
  · exact fused_results (fun _ _ _ _ _ => rfl) fun _ _ => rfl

end
end

section
/-! PROOFS. Tile control (custom-3, Table 6.11, R190). -/

namespace Sys2Proof.Machine

variable {s : State} {t c : Nat}

/-- A custom-3 instruction carried out where its registers are those of the word at the pc; fields that it does not use may differ. -/
theorem State.ctlInst_of_at {f7 rd rs1 d a b : Nat} {rs2 : Option Nat} (ht : t ≠ 64) (h : s.customAt t c = some (.v3 f7 d a b))
    (hrd : (f7 == 0 || f7 == 3 || f7 == 6) = true → d = rd) (hrs1 : (f7 != 4 && f7 != 6) = true → a = rs1) (hrs2 : rs2 ∈ [none, some b]) :
    s.ctlInst t c f7 rd rs1 rs2 = s.run3 t c f7 rd rs1 b := by
  have hd : (!(f7 == 0 || f7 == 3 || f7 == 6) || d == rd) = true := by
    cases hu : f7 == 0 || f7 == 3 || f7 == 6
    · rfl
    · rw [hrd hu, beq_self_eq_true, Bool.or_true]
  have ha : (!(f7 != 4 && f7 != 6) || a == rs1) = true := by
    cases hu : f7 != 4 && f7 != 6
    · rfl
    · rw [hrs1 hu, beq_self_eq_true, Bool.or_true]
  have hb : rs2.elim true (· == b) = true := by
    simp only [List.mem_cons, List.not_mem_nil, or_false] at hrs2
    obtain rfl | rfl := hrs2
    · rfl
    · exact beq_self_eq_true b
  unfold State.ctlInst
  rw [if_neg ht, h]
  dsimp only
  rw [decide_eq_true rfl, hd, ha, hb]
  exact (if_pos rfl).trans (State.runCustom_of_checks (i := .v3 f7 rd rs1 b) nofun (fun _ => rfl) rfl)

/-- TSIG and TWAIT, of a tile's core and of a service core alike (log 16). -/
theorem State.ctlInst_signal {f7 rd rs1 rs2 d : Nat} (hf : f7 = 2 ∨ f7 = 3) (hrd : f7 = 3 → d = rd)
    (h : t = 64 ∨ s.Executes t c (.v3 f7 d rs1 rs2)) : s.ctlInst t c f7 rd rs1 (some rs2) = s.run3 t c f7 rd rs1 rs2 := by
  by_cases ht : t = 64
  · unfold State.ctlInst
    rw [if_pos ht, if_pos hf]
    rfl
  · refine State.ctlInst_of_at ht (h.resolve_left ht).1 (fun hu => hrd ?_) (fun _ => rfl) (by simp)
    obtain rfl | rfl := hf
    · cases hu
    · rfl

/-! ### A register written -/

theorem State.core_ctlDone (s : State) (t c rd : Nat) (v : W64) : (s.ctlDone t c rd v).core t c = ((s.core t c).setX rd v).advance 4 :=
  s.core_setCore_self t c _

theorem State.ctlDone_eq (s : State) (t c rd : Nat) (v : W64) : s.ctlDone t c rd v = s.setCore t c ((s.ctlDone t c rd v).core t c) := by
  rw [State.core_ctlDone]
  rfl

theorem State.pc_ctlDone (s : State) (t c rd : Nat) (v : W64) : ((s.ctlDone t c rd v).core t c).pc = (s.core t c).pc + 4 := by
  rw [State.core_ctlDone, Core.setX_frame]
  rfl

theorem State.state_ctlDone (s : State) (t c rd : Nat) (v : W64) : ((s.ctlDone t c rd v).core t c).state = (s.core t c).state := by
  rw [State.core_ctlDone, Core.setX_frame]
  rfl

theorem State.getX_ctlDone (s : State) (t c rd r : Nat) (v : W64) :
    ((s.ctlDone t c rd v).core t c).getX r = if r = rd ∧ rd ≠ 0 then v else (s.core t c).getX r := by
  rw [State.core_ctlDone, ← Core.getX_setX]
  rfl

theorem State.getX_ctlDone_self (s : State) (t c : Nat) {rd : Nat} (v : W64) (h : rd ≠ 0) : ((s.ctlDone t c rd v).core t c).getX rd = v := by
  rw [State.getX_ctlDone, if_pos ⟨rfl, h⟩]

theorem State.getX_ctlDone_ne (s : State) (t c : Nat) {rd r : Nat} (v : W64) (h : r ≠ rd) :
    ((s.ctlDone t c rd v).core t c).getX r = (s.core t c).getX r := by
  rw [State.getX_ctlDone, if_neg fun hr => h hr.1]

/-! ### TWAIT -/

theorem State.runTwait_met {rd rs1 rs2 : Nat} (hid : s.idValid ((s.core t c).getX rs1).toNat = true)
    (hoff : s.idOff ((s.core t c).getX rs1).toNat = false) (hpoison : (s.ctr ((s.core t c).getX rs1).toNat).poison = false)
    (hth : ((s.core t c).getX rs2).toNat % 65536 ≤ (s.ctr ((s.core t c).getX rs1).toNat).value) :
    s.runTwait t c rd rs1 rs2 = s.ctlDone t c rd 0 := by
  have hmet : s.wait ((s.core t c).getX rs1).toNat (((s.core t c).getX rs2).toNat % 65536) = .met := by
    unfold State.wait
    rw [hpoison, if_neg Bool.false_ne_true, if_pos hth, ite_self]
  unfold State.runTwait
  dsimp only
  rw [hid, hoff, hmet, Bool.not_true, if_neg Bool.false_ne_true, if_neg Bool.false_ne_true]
  exact ite_self _

theorem State.runTwait_unmet {rd rs1 rs2 : Nat} (hid : s.idValid ((s.core t c).getX rs1).toNat = true)
    (hoff : s.idOff ((s.core t c).getX rs1).toNat = false) (hpoison : (s.ctr ((s.core t c).getX rs1).toNat).poison = false)
    (hth : (s.ctr ((s.core t c).getX rs1).toNat).value < ((s.core t c).getX rs2).toNat % 65536) (hnone : ((s.core t c).getX rs1).toNat ≠ 0xFFFF) :
    s.runTwait t c rd rs1 rs2 =
      s.setCore t c { s.core t c with pc := (s.core t c).pc + 4, state := .waiting ((s.core t c).getX rs1).toNat (((s.core t c).getX rs2).toNat % 65536) rd } := by
  have hpos : ((s.core t c).getX rs2).toNat % 65536 ≠ 0 := by omega
  have hunmet : s.wait ((s.core t c).getX rs1).toNat (((s.core t c).getX rs2).toNat % 65536) = .unmet := by
    unfold State.wait
    rw [if_neg (not_or.2 ⟨hnone, hpos⟩), hpoison, if_neg Bool.false_ne_true, if_neg (not_le.2 hth)]
  unfold State.runTwait
  dsimp only
  rw [hid, hoff, hunmet, if_neg hpos]
  rfl

theorem State.runTwait_given_up {rd rs1 rs2 : Nat} (hid : s.idValid ((s.core t c).getX rs1).toNat = true)
    (hpos : ((s.core t c).getX rs2).toNat % 65536 ≠ 0) (hnone : ((s.core t c).getX rs1).toNat ≠ 0xFFFF)
    (h : s.idOff ((s.core t c).getX rs1).toNat = true ∨ (s.ctr ((s.core t c).getX rs1).toNat).poison = true) :
    s.runTwait t c rd rs1 rs2 =
      s.ctlDone t c rd (BitVec.ofNat 64 (if s.idOff ((s.core t c).getX rs1).toNat then Code.ctlDomainOff else Code.syncPoison)) := by
  unfold State.runTwait
  dsimp only
  rw [hid, if_neg hpos]
  cases hoff : s.idOff ((s.core t c).getX rs1).toNat
  · have hpoisoned : s.wait ((s.core t c).getX rs1).toNat (((s.core t c).getX rs2).toNat % 65536) = .poisoned := by
      unfold State.wait
      rw [if_neg (not_or.2 ⟨hnone, hpos⟩), if_pos (h.resolve_left (by rw [hoff]; exact Bool.false_ne_true))]
    rw [hpoisoned]
    rfl
  · rfl

/-! ### An identifier that no counter has -/

theorem State.runTsig_invalid {rs1 rs2 : Nat} (hid : s.idValid ((s.core t c).getX rs1).toNat = false) :
    s.runTsig t c rs1 rs2 = s.coreEnd t c Code.syncIdRange (((s.core t c).getX rs1).toNat % 65536) :=
  if_pos (by rw [hid]; rfl)

theorem State.runTwait_invalid {rd rs1 rs2 : Nat} (hid : s.idValid ((s.core t c).getX rs1).toNat = false) :
    s.runTwait t c rd rs1 rs2 = s.coreEnd t c Code.syncIdRange (((s.core t c).getX rs1).toNat % 65536) :=
  if_pos (by rw [hid]; rfl)

theorem State.runTsig_valid {rs1 rs2 : Nat} (hid : s.idValid ((s.core t c).getX rs1).toNat = true) :
    let id := ((s.core t c).getX rs1).toNat
    let delta := signed 16 ((s.core t c).getX rs2).toNat
    s.runTsig t c rs1 rs2 = State.setCore { s with transit := s.transit ++
      (if delta = 0 ∨ s.idOff id = true then [] else [{ id := id, delta := delta, source := t }]) } t c
        { s.core t c with pc := (s.core t c).pc + 4 } := by
  intro id delta
  unfold State.runTsig
  dsimp only
  rw [hid]
  by_cases h : delta = 0 ∨ s.idOff id = true
  · have hb : (decide (delta = 0) || s.idOff id) = true := by simpa using h
    rw [if_pos h, if_pos hb, List.append_nil]
    rfl
  · have hb : ¬(decide (delta = 0) || s.idOff id) = true := by simpa using h
    rw [if_neg h, if_neg hb]
    rfl

/-! ### TEXIT (R190) -/

/-- The core's part of the kernel ended, behind its earlier stores. -/
def State.exited (s : State) (t c : Nat) : State :=
  (s.drainAll t c).setCore t c { (s.drainAll t c).core t c with state := .exited, pc := ((s.drainAll t c).core t c).pc + 4 }

theorem State.core_exited (s : State) (t c : Nat) : (s.exited t c).core t c =
    { (s.drainAll t c).core t c with state := .exited, pc := ((s.drainAll t c).core t c).pc + 4 } := State.core_setCore_self _ _ _ _

theorem State.op_drainAll (s : State) (t c x y : Nat) : (s.drainAll t c).op x y = s.op x y :=
  State.op_of_tiles (by rw [(s.drains_drainAll t c).frame]) x y

theorem State.op_exited (s : State) (t c x y : Nat) : (s.exited t c).op x y = s.op x y := (State.op_setCore _ _ _ _ _ _).trans (s.op_drainAll t c x y)

theorem State.slot_drainAll (hfirm : s.Firm t c) : ((s.drainAll t c).core t c).slot = (s.core t c).slot := by rw [State.core_drainAll hfirm]

section
variable {o : Op} (hfirm : s.Firm t c) (ho : s.op t (s.core t c).slot = some o)
include hfirm ho

theorem State.coreExit_zero : s.coreExit t c 0 =
    if ((coresOf (kernelBody o.desc).cores).all fun i => ((s.exited t c).core t i).state == .exited && ((s.exited t c).core t i).slot == (s.core t c).slot) = true then
      ((s.exited t c).stopCores t (some (s.core t c).slot)).modOp t (s.core t c).slot fun o => { o with phase := .done }
    else s.exited t c := by
  have hdesc : (s.drainAll t c).descAt t (s.core t c).slot = o.desc := by
    rw [State.descAt, State.op_drainAll, ho]
    rfl
  rw [← hdesc, ← State.slot_drainAll hfirm]
  rw [State.coreExit]
  exact if_pos rfl

theorem State.coreExit_zero_frame : s.coreExit t c 0 =
    { s.drainAll t c with cores := (s.coreExit t c 0).cores, tiles := (s.coreExit t c 0).tiles } := by
  have hexited : s.exited t c = { s.drainAll t c with cores := (s.exited t c).cores } := rfl
  have hstop := (s.exited t c).stopCores_frame t (s.core t c).slot
  rw [State.coreExit_zero hfirm ho]
  generalize (s.exited t c).stopCores t (some (s.core t c).slot) = w at hstop
  obtain ⟨n, hn⟩ := w.modOp_frame t (s.core t c).slot fun o => { o with phase := .done }
  split
  · rw [hn, hstop, hexited]
  · exact hexited

/-- The kernel's only core. -/
theorem State.coreExit_last (hc : c < 8) (hcores : coresOf (kernelBody o.desc).cores = [c]) :
    ((s.coreExit t c 0).core t c).state = .idle ∧ (s.coreExit t c 0).op t (s.core t c).slot = some { o with phase := .done } := by
  have hslot : ((s.exited t c).core t c).slot = (s.core t c).slot := by
    rw [State.core_exited]
    exact State.slot_drainAll hfirm
  have hstate : ((s.exited t c).core t c).state = .exited := by rw [State.core_exited]
  rw [State.coreExit_zero hfirm ho, hcores, if_pos (by simp [hstate, hslot])]
  have hidle := (s.exited t c).core_stopCores t (s.core t c).slot c
  rw [if_pos ⟨hc, by simp [State.runsSlot, hstate, hslot]⟩] at hidle
  have hop := (s.exited t c).op_stopCores t (s.core t c).slot t (s.core t c).slot
  rw [State.op_exited, ho] at hop
  generalize (s.exited t c).stopCores t (some (s.core t c).slot) = w at hidle hop
  obtain ⟨n, hn⟩ := w.modOp_frame t (s.core t c).slot fun o => { o with phase := .done }
  refine ⟨?_, ?_⟩
  · rw [State.core_of_cores (s := w) (by rw [hn]), hidle]
    rfl
  · rw [State.op_modOp, if_pos ⟨rfl, rfl⟩, hop]
    rfl

/-- Another core of the kernel still runs. -/
theorem State.coreExit_early {i : Nat} (hi : i ∈ coresOf (kernelBody o.desc).cores) (hne : i ≠ c) (hruns : (s.core t i).state = .running) :
    ((s.coreExit t c 0).core t c).state = .exited ∧ (s.coreExit t c 0).op t (s.core t c).slot = some o := by
  have hother : ((s.exited t c).core t i).state = .running := by
    have hcore : (s.exited t c).core t i = (s.drainAll t c).core t i := State.core_setCore_ne (by omega) _
    rw [hcore, (s.drains_drainAll t c).cores t i (by rw [hruns]; exact nofun)]
    exact hruns
  have hnot : ¬((coresOf (kernelBody o.desc).cores).all fun i => ((s.exited t c).core t i).state == .exited && ((s.exited t c).core t i).slot == (s.core t c).slot) = true := by
    rw [List.all_eq_true]
    intro hall
    have h := hall i hi
    rw [hother] at h
    cases h
  rw [State.coreExit_zero hfirm ho, if_neg hnot, State.op_exited, State.core_exited]
  exact ⟨rfl, ho⟩

end

theorem State.Ends.of_drains {u w : State} {code detail : Nat} (hd : s.Drains w) (hrun : (s.core t c).state ≠ .idle) (h : w.Ends u t c code detail) :
    s.Ends u t c code detail := by
  have hslot : (w.core t c).slot = (s.core t c).slot := by rw [hd.cores t c hrun]
  have hframe := h.frame
  have hop := h.op
  rw [hslot, State.op_of_tiles (u := w) (s := s) (by rw [hd.frame])] at hop
  rw [hd.frame] at hframe
  exact ⟨hframe, h.idle, h.stores, hop⟩

/-- TEXIT with an exit code. -/
theorem State.coreExit_fails {v : W64} (hv : v ≠ 0) (hc : c < 8) (hrun : (s.core t c).state ≠ .idle) :
    s.Ends (s.coreExit t c v) t c Code.tileKernelExit 0 ∧ (s.coreExit t c v).get .tileFaultInfoAddress t = v.toNat % 2 ^ 32 := by
  have hd := s.drains_drainAll t c
  have heq : s.coreExit t c v = ((s.drainAll t c).faulted t c Code.tileKernelExit v.toNat 0 0).kernelFail t c Code.tileKernelExit 0 := if_neg hv
  rw [heq]
  generalize s.drainAll t c = d at hd
  refine ⟨.of_drains hd hrun (.faulted hc (by rw [hd.cores t c hrun]; exact hrun)), ?_⟩
  rw [State.get_of_ctl (State.kernelFail_ctl _ _ _ _ _)]
  exact State.get_address_faultInfo _ _ _ _

end Sys2Proof.Machine

section
open Sys2Proof Sys2Proof.Machine

theorem tsetvl_results (s : State) (t c rd rs1 b : Nat) (ht : t ≠ 64) (h : s.Executes t c (.v3 0 rd rs1 b)) :
    let vl := min ((s.core t c).getX rs1).toNat 512
    ∃ u, exec (.tsetvl t c rd rs1) s = .next u ∧ u = { s with tiles := u.tiles, cores := u.cores } ∧
      (u.tile t) = { s.tile t with vec := { (s.tile t).vec with vl := vl } } ∧ (rd ≠ 0 → (u.core t c).getX rd = BitVec.ofNat 64 vl) ∧
      (∀ r, r ≠ rd → (u.core t c).getX r = (s.core t c).getX r) ∧ (u.core t c).pc = (s.core t c).pc + 4 := by
  intro vl
  exact ⟨_, congrArg Host.Outcome.next (State.ctlInst_of_at ht h.1 (fun _ => rfl) (fun _ => rfl) (by simp)), rfl,
    (State.tile_setTile _ _ _ _).trans (if_pos rfl), fun hrd => State.getX_ctlDone_self _ t c _ hrd, fun r hr => State.getX_ctlDone_ne _ t c _ hr,
    State.pc_ctlDone _ t c rd _⟩

theorem tcore_results (s : State) (t c rd a b : Nat) (ht : t ≠ 64) (h : s.Executes t c (.v3 6 rd a b)) :
    ∃ u, exec (.tcore t c rd) s = .next u ∧ u = s.setCore t c (u.core t c) ∧ (rd ≠ 0 → (u.core t c).getX rd = BitVec.ofNat 64 (8 * t + c)) ∧
      (∀ r, r ≠ rd → (u.core t c).getX r = (s.core t c).getX r) ∧ (u.core t c).pc = (s.core t c).pc + 4 :=
  ⟨s.ctlDone t c rd (BitVec.ofNat 64 (8 * t + c)),
    congrArg Host.Outcome.next (State.ctlInst_of_at ht h.1 (fun _ => rfl) (fun hu => nomatch hu) (by simp)), State.ctlDone_eq _ _ _ _ _,
    fun hrd => State.getX_ctlDone_self _ t c _ hrd, fun r hr => State.getX_ctlDone_ne _ t c _ hr, State.pc_ctlDone _ t c rd _⟩

theorem twait_results (s : State) (t c rd rs1 rs2 : Nat) (h : t = 64 ∨ s.Executes t c (.v3 3 rd rs1 rs2)) :
    let id := ((s.core t c).getX rs1).toNat
    let th := ((s.core t c).getX rs2).toNat % 65536
    s.idValid id = true → s.idOff id = false → (s.ctr id).poison = false →
    (th ≤ (s.ctr id).value → ∃ u, exec (.twait t c rd rs1 rs2) s = .next u ∧ u = s.setCore t c (u.core t c) ∧
      (u.core t c).state = (s.core t c).state ∧ (rd ≠ 0 → (u.core t c).getX rd = 0) ∧ (u.core t c).pc = (s.core t c).pc + 4) ∧
    ((s.ctr id).value < th → id ≠ 0xFFFF →
      exec (.twait t c rd rs1 rs2) s = .next (s.setCore t c { s.core t c with pc := (s.core t c).pc + 4, state := .waiting id th rd })) := by
  intro id th hid hoff hpoison
  have hexec : exec (.twait t c rd rs1 rs2) s = .next (s.runTwait t c rd rs1 rs2) :=
    congrArg Host.Outcome.next (State.ctlInst_signal (.inr rfl) (fun _ => rfl) h)
  refine ⟨fun hth => ⟨s.ctlDone t c rd 0, ?_, State.ctlDone_eq _ _ _ _ _, State.state_ctlDone _ _ _ _ _,
    fun hrd => State.getX_ctlDone_self _ t c _ hrd, State.pc_ctlDone _ _ _ _ _⟩, fun hth hnone => ?_⟩
  · rw [hexec, State.runTwait_met hid hoff hpoison hth]
  · rw [hexec, State.runTwait_unmet hid hoff hpoison hth hnone]

theorem twait_given_up_results (s : State) (t c rd rs1 rs2 : Nat) (h : t = 64 ∨ s.Executes t c (.v3 3 rd rs1 rs2)) :
    let id := ((s.core t c).getX rs1).toNat
    s.idValid id = true → ((s.core t c).getX rs2).toNat % 65536 ≠ 0 → id ≠ 0xFFFF → s.idOff id = true ∨ (s.ctr id).poison = true →
    ∃ u, exec (.twait t c rd rs1 rs2) s = .next u ∧ u = s.setCore t c (u.core t c) ∧ (u.core t c).pc = (s.core t c).pc + 4 ∧
      (rd ≠ 0 → (u.core t c).getX rd = BitVec.ofNat 64 (if s.idOff id then Code.ctlDomainOff else Code.syncPoison)) := by
  intro id hid hpos hnone hup
  refine ⟨s.ctlDone t c rd _, ?_, State.ctlDone_eq _ _ _ _ _, State.pc_ctlDone _ _ _ _ _, fun hrd => State.getX_ctlDone_self _ t c _ hrd⟩
  exact congrArg Host.Outcome.next ((State.ctlInst_signal (.inr rfl) (fun _ => rfl) h).trans (State.runTwait_given_up hid hpos hnone hup))

theorem signal_invalid_results (s : State) (t c d rs1 rs2 : Nat) (o : Op) (_ : t ≠ 64) (hc : c < 8)
    (ho : s.op t (s.core t c).slot = some o) (hrun : o.phase = .running) :
    let id := ((s.core t c).getX rs1).toNat
    s.idValid id = false →
    (s.Executes t c (.v3 2 d rs1 rs2) → ∃ u, exec (.tsig t c rs1 rs2) s = .next u ∧ (u.core t c).state = .idle ∧ u.transit = s.transit ∧
      (u.op t (s.core t c).slot).map Op.phase = some (.failed Code.syncIdRange (id % 65536))) ∧
    (s.Executes t c (.v3 3 d rs1 rs2) → ∃ u, exec (.twait t c d rs1 rs2) s = .next u ∧ (u.core t c).state = .idle ∧
      (u.op t (s.core t c).slot).map Op.phase = some (.failed Code.syncIdRange (id % 65536))) := by
  intro id hid
  have hends : ∀ {i}, s.customAt t c = some i → s.Ends (s.coreEnd t c Code.syncIdRange (id % 65536)) t c Code.syncIdRange (id % 65536) :=
    fun hat => State.coreEnd_ends hc (State.not_idle_of_customAt hat) _ _
  generalize hu : s.coreEnd t c Code.syncIdRange (id % 65536) = u at hends
  refine ⟨fun h => ⟨u, ?_, (hends h.1).idle, ?_, (hends h.1).phase ho hrun⟩, fun h => ⟨u, ?_, (hends h.1).idle, (hends h.1).phase ho hrun⟩⟩
  · exact congrArg Host.Outcome.next ((State.ctlInst_signal (.inl rfl) nofun (.inr h)).trans ((State.runTsig_invalid hid).trans hu))
  · rw [(hends h.1).frame]
  · exact congrArg Host.Outcome.next ((State.ctlInst_signal (.inr rfl) (fun _ => rfl) (.inr h)).trans ((State.runTwait_invalid hid).trans hu))

theorem texit_results (s : State) (t c d rs1 b : Nat) (o : Op) (ht : t ≠ 64) (hc : c < 8) (h : s.Executes t c (.v3 5 d rs1 b))
    (ho : s.op t (s.core t c).slot = some o) (hrun : o.phase = .running) :
    ((s.core t c).getX rs1 = 0 → ∃ u, exec (.texit t c rs1) s = .next u ∧ u = { s.drainAll t c with cores := u.cores, tiles := u.tiles } ∧
      (coresOf (kernelBody o.desc).cores = [c] → (u.core t c).state = .idle ∧ u.op t (s.core t c).slot = some { o with phase := .done }) ∧
      ((∃ i ∈ coresOf (kernelBody o.desc).cores, i ≠ c ∧ (s.core t i).state = .running) →
        (u.core t c).state = .exited ∧ u.op t (s.core t c).slot = some o)) ∧
    ((s.core t c).getX rs1 ≠ 0 → ∃ u, exec (.texit t c rs1) s = .next u ∧ (u.core t c).state = .idle ∧
      (u.op t (s.core t c).slot).map Op.phase = some (.failed Code.tileKernelExit 0) ∧
      u.get .tileFaultInfoAddress t = ((s.core t c).getX rs1).toNat % 2 ^ 32) := by
  have hexec : exec (.texit t c rs1) s = .next (s.coreExit t c ((s.core t c).getX rs1)) :=
    congrArg Host.Outcome.next (State.ctlInst_of_at ht h.1 nofun (fun _ => rfl) (by simp))
  have hfirm := State.firm_of_customAt h.1
  refine ⟨fun hv => ?_, fun hv => ?_⟩
  · rw [hv] at hexec
    exact ⟨_, hexec, State.coreExit_zero_frame hfirm ho, State.coreExit_last hfirm ho hc,
      fun ⟨i, hi, hne, hruns⟩ => State.coreExit_early hfirm ho hi hne hruns⟩
  · obtain ⟨hends, haddr⟩ := State.coreExit_fails hv hc (State.not_idle_of_customAt h.1)
    exact ⟨_, hexec, hends.idle, hends.phase ho hrun, haddr⟩

theorem tsig_results (s : State) (t c d rs1 rs2 : Nat) (h : t = 64 ∨ s.Executes t c (.v3 2 d rs1 rs2)) :
    let id := ((s.core t c).getX rs1).toNat
    let delta := signed 16 ((s.core t c).getX rs2).toNat
    s.idValid id = true →
    exec (.tsig t c rs1 rs2) s = .next (State.setCore { s with transit := s.transit ++
        (if delta = 0 ∨ s.idOff id = true then [] else [{ id := id, delta := delta, source := t }]) } t c
      { s.core t c with pc := (s.core t c).pc + 4 }) :=
  fun hid => congrArg Host.Outcome.next ((State.ctlInst_signal (.inl rfl) nofun h).trans (State.runTsig_valid hid))

theorem tsetblk_results (s : State) (t c d rs1 b : Nat) (ht : t ≠ 64) (h : s.Executes t c (.v3 1 d rs1 b)) :
    exec (.tsetblk t c rs1) s = .next ((s.setTile t { s.tile t with vec := { (s.tile t).vec with vblk := ((s.core t c).getX rs1).toNat % 4 } }).setCore t c
      { s.core t c with pc := (s.core t c).pc + 4 }) :=
  congrArg Host.Outcome.next (State.ctlInst_of_at ht h.1 nofun (fun _ => rfl) (by simp))

theorem tvfence_results (s : State) (t c d a b : Nat) (ht : t ≠ 64) (h : s.Executes t c (.v3 4 d a b)) :
    exec (.tvfence t c) s = .next (s.setCore t c { s.core t c with pc := (s.core t c).pc + 4 }) :=
  congrArg Host.Outcome.next (State.ctlInst_of_at ht h.1 nofun nofun (by simp))

/-- Settles O20, instruction by instruction. -/
theorem tileControlInstructions : Obligations.TileControlInstructions :=
  ⟨tsetvl_results, tsetblk_results, tvfence_results, tcore_results, tsig_results, twait_results, twait_given_up_results, signal_invalid_results,
    fun s t c d rs1 b o ht hc h => texit_results s t c d rs1 b o ht hc h⟩

end
end

section
/-! PROOFS. Vector loads and stores (custom-2, Table 6.11). -/

namespace Sys2Proof.Machine

variable {s u w : State} {t c : Nat}

/-! ### Behind the core's earlier stores (log 90) -/

/-- The core that executes a vector load or store, once its buffer has drained. -/
theorem State.running_drainAll {i : Custom} (h : s.customAt t c = some i) : ((s.drainAll t c).core t c).state = .running := by
  rw [State.core_drainAll (State.firm_of_customAt h)]
  exact State.running_of_customAt h

theorem State.not_idle_drainAll {i : Custom} (h : s.customAt t c = some i) : ((s.drainAll t c).core t c).state ≠ .idle := by
  rw [State.running_drainAll h]
  exact nofun

/-- The format of a custom-2 instruction is one that its row of Table 6.11 lists. -/
theorem State.listed_of_customAt {op : Nat} {m : VMem} (h : s.customAt t c = some (.v2 op m)) : v2Listed op m.fmt = true := by
  have hdecode : ∃ w, decodeCustom w = some (.v2 op m) := by
    rw [State.customAt, if_pos (State.coreGoes_of_customAt h)] at h
    split at h
    · exact ⟨_, h⟩
    · cases h
  obtain ⟨w, hw⟩ := hdecode
  unfold decodeCustom at hw
  dsimp only at hw
  split at hw
  · split at hw <;> cases hw
  · split at hw <;> cases hw
  · split at hw
    next hl =>
      cases hw
      exact hl
    · cases hw
  · split at hw <;> cases hw
  · cases hw

/-! ### Loads -/

theorem State.orErr_none {go : State} {e : Option (Nat ⊕ MemErr)} (h : e = none) : s.orErr t c e go = go := by rw [h]; rfl

/-- A load that goes on: the lanes that it works on hold what `f` gives. -/
theorem State.load_results {masked : Bool} {vd : Nat} {f : Nat → Nat × Nat} {e : Option (Nat ⊕ MemErr)} (he : e = none)
    (hu : u = s.orErr t c e (s.vDone t c ((s.tile t).vec.map masked vd f).1 ((s.tile t).vec.map masked vd f).2)) :
    s.VectorOnly u t c ((s.tile t).vec.orFlags masked fun l => (f l).2) ∧ s.LanesBecome u t masked vd fun l => BitVec.ofNat 32 (f l).1 := by
  rw [State.orErr_none he] at hu
  subst hu
  refine ⟨?_, State.lanesBecome_map (s.vec_vDone t c _ _)⟩
  have hdone := s.vectorOnly_vDone t c ((s.tile t).vec.map masked vd f).1
  rw [← Vec.flags_map _ masked vd]
  exact hdone _

/-- What VLD writes into a lane whose element is the pattern `b`. -/
def vldLane (m : VMem) (ftz : Bool) (b : Nat) : Nat × Nat :=
  if m.fmt = 0 then flushWord ftz b
  else
    let x := readOperand m.fmt ftz b
    ((FFmt.f32.round .rne x.1).bits, x.2 ||| flagIf ((fmtOfCode m.fmt).any fun f => f.isSnan b) Flag.nv)

theorem State.runVld_eq (s : State) (t c : Nat) (m : VMem) (ue : List Nat) : s.runVld t c m ue =
    let n := fmtWidth m.fmt / 8
    let w := (s.tile t).vec.map m.masked m.v fun l =>
      vldLane m (s.numMode t).ftz (s.readNat (tileAddr t (strideAddr (s.core t c) m n l)) n)
    s.orErr t c (s.readErr ue t c n (((s.tile t).vec.lanes m.masked).map (strideAddr (s.core t c) m n))) (s.vDone t c w.1 w.2) := rfl

theorem vldLane_word {m : VMem} (hm : m.fmt = 0) (ftz : Bool) (b : Nat) : vldLane m ftz b = flushWord ftz b := if_pos hm

theorem vldLane_converted {m : VMem} {f : FFmt} (hm : m.fmt ≠ 0) (hf : fmtOfCode m.fmt = some f) (b : Nat) :
    (vldLane m false b).1 = (FFmt.f32.round .rne (f.decode b)).bits := by
  have hread : readOperand m.fmt false b = (f.decode b, 0) := by
    unfold readOperand
    rw [hf]
    rfl
  rw [vldLane, if_neg hm, hread]

theorem vld_results (s0 : State) (t c : Nat) (m : VMem) (e : Ecc) (h : (s0.corrected e.ce).Executes t c (.v2 0 m)) :
    let s := (s0.corrected e.ce).drainAll t c
    let n := fmtWidth m.fmt / 8
    let b := fun l => s.readNat (tileAddr t (strideAddr (s.core t c) m n l)) n
    s.readErr e.ue t c n (((s.tile t).vec.lanes m.masked).map (strideAddr (s.core t c) m n)) = none →
    ∃ u fl, exec (.vld t c m e) s0 = .next u ∧ s.VectorOnly u t c fl ∧
      (m.fmt = 0 → s.LanesBecome u t m.masked m.v fun l => BitVec.ofNat 32 (flushWord (s.numMode t).ftz (b l)).1) ∧
      (∀ f, m.fmt ≠ 0 → fmtOfCode m.fmt = some f → (s.numMode t).ftz = false →
        s.LanesBecome u t m.masked m.v fun l => BitVec.ofNat 32 (FFmt.f32.round .rne (f.decode (b l))).bits) := by
  intro s n b hok
  obtain ⟨honly, hlanes⟩ := State.load_results hok (s.runVld_eq t c m e.ue)
  refine ⟨_, _, congrArg Host.Outcome.next (h.run2 e.ue), honly, fun hm => hlanes.congr fun l => ?_, fun f hm hf hftz => hlanes.congr fun l => ?_⟩
  · rw [vldLane_word hm]
  · rw [hftz, vldLane_converted hm hf]

/-- What VLDQ writes into lane `l` whose element byte is `b` and whose scale byte is `sc`. -/
def vldqLane (m : VMem) (l b sc : Nat) : Nat :=
  ((fmtOfCode m.fmt).map fun f => (FFmt.f32.round .rne (scaleElem f sc (if m.fmt = 5 then b / 16 ^ (l % 2) % 16 else b))).bits).getD 0

theorem State.runVldq_eq (s : State) (t c : Nat) (m : VMem) (ue : List Nat) : s.runVldq t c m ue =
    let k := s.core t c
    let n := blockSize (s.tile t).vec.vblk
    let ea := (k.getX m.rs1).toNat
    let sa := (k.getX m.rs2).toNat
    let ls := (s.tile t).vec.lanes m.masked
    let w := (s.tile t).vec.map m.masked m.v fun l =>
      (vldqLane m l (s.readByte (tileAddr t (blockAddr m.fmt ea l))).toNat (s.readByte (tileAddr t (sa + l / n))).toNat, 0)
    s.orErr t c (s.readErr ue t c 1 (ls.map (blockAddr m.fmt ea) ++ ls.map fun l => sa + l / n)) (s.vDone t c w.1 w.2) := rfl

theorem vldqLane_eq {m : VMem} (hm : 3 ≤ m.fmt ∧ m.fmt ≤ 5) (l : Nat) (b : Byte) (sc : Nat) : vldqLane m l b.toNat sc =
    (FFmt.f32.round .rne (scaleElem ((fmtOfCode m.fmt).getD .f4) sc
      (if m.fmt = 5 then (if l % 2 = 0 then b.toNat % 16 else b.toNat / 16) else b.toNat))).bits := by
  have hb := b.isLt
  have hsome : ∃ f, fmtOfCode m.fmt = some f := by
    obtain h | h | h : m.fmt = 3 ∨ m.fmt = 4 ∨ m.fmt = 5 := by omega
    all_goals exact ⟨_, congrArg fmtOfCode h⟩
  have hnibble : b.toNat / 16 ^ (l % 2) % 16 = if l % 2 = 0 then b.toNat % 16 else b.toNat / 16 := by
    obtain h | h : l % 2 = 0 ∨ l % 2 = 1 := by omega
    · rw [h, if_pos rfl, pow_zero, Nat.div_one]
    · rw [h, if_neg (by decide), pow_one]
      omega
  obtain ⟨f, hf⟩ := hsome
  rw [vldqLane, hf, hnibble]
  rfl

theorem vldq_results (s0 : State) (t c : Nat) (m : VMem) (e : Ecc) (h : (s0.corrected e.ce).Executes t c (.v2 2 m)) :
    let s := (s0.corrected e.ce).drainAll t c
    let k := s.core t c
    let ea := (k.getX m.rs1).toNat
    let sa := (k.getX m.rs2).toNat
    let n := blockSize (s.tile t).vec.vblk
    let ls := (s.tile t).vec.lanes m.masked
    s.readErr e.ue t c 1 (ls.map (blockAddr m.fmt ea) ++ ls.map fun l => sa + l / n) = none →
    ∃ u, exec (.vldq t c m e) s0 = .next u ∧ s.VectorOnly u t c 0 ∧ s.LanesBecome u t m.masked m.v fun l =>
      let b := (s.readByte (tileAddr t (blockAddr m.fmt ea l))).toNat
      let x := scaleElem ((fmtOfCode m.fmt).getD .f4) (s.readByte (tileAddr t (sa + l / n))).toNat
        (if m.fmt = 5 then (if l % 2 = 0 then b % 16 else b / 16) else b)
      BitVec.ofNat 32 (FFmt.f32.round .rne x).bits := by
  intro s k ea sa n ls hok
  have hfmt : 3 ≤ m.fmt ∧ m.fmt ≤ 5 := of_decide_eq_true (State.listed_of_customAt h.1)
  obtain ⟨honly, hlanes⟩ := State.load_results hok (s.runVldq_eq t c m e.ue)
  rw [Vec.orFlags_zero] at honly
  refine ⟨_, congrArg Host.Outcome.next (h.run2 e.ue), honly, hlanes.congr fun l => ?_⟩
  rw [vldqLane_eq hfmt]

theorem State.runVgath_eq (s : State) (t c : Nat) (m : VMem) (ue : List Nat) : s.runVgath t c m ue =
    let v := (s.tile t).vec
    let k := s.core t c
    let w := v.map m.masked m.v fun l => flushWord (s.numMode t).ftz (s.readNat (tileAddr t (gatherAddr k v m l)) 4)
    s.orErr t c (s.readErr ue t c 4 ((v.lanes m.masked).map (gatherAddr k v m))) (s.vDone t c w.1 w.2) := rfl

theorem vgath_results (s0 : State) (t c : Nat) (m : VMem) (e : Ecc) (h : (s0.corrected e.ce).Executes t c (.v2 4 m)) :
    let s := (s0.corrected e.ce).drainAll t c
    let k := s.core t c
    let v := (s.tile t).vec
    let r := fun l => flushWord (s.numMode t).ftz (s.readNat (tileAddr t (gatherAddr k v m l)) 4)
    s.readErr e.ue t c 4 ((v.lanes m.masked).map (gatherAddr k v m)) = none →
    ∃ u, exec (.vgath t c m e) s0 = .next u ∧ s.VectorOnly u t c (v.orFlags m.masked fun l => (r l).2) ∧
      s.LanesBecome u t m.masked m.v fun l => BitVec.ofNat 32 (r l).1 := by
  intro s k v r hok
  obtain ⟨honly, hlanes⟩ := State.load_results hok (s.runVgath_eq t c m e.ue)
  exact ⟨_, congrArg Host.Outcome.next (h.run2 e.ue), honly, hlanes⟩

/-! ### Stores -/

/-- `u` is `s` after stores of core `c` of tile `t` to addresses in `P`. -/
structure State.Writes (s u : State) (t c : Nat) (P : Nat → Prop) : Prop where
  stores : s.Stores u t c
  bytes : ∀ x, ¬P x → u.readByte x = s.readByte x

theorem State.Writes.refl (s : State) (t c : Nat) (P : Nat → Prop) : s.Writes s t c P := ⟨.refl s t c, fun _ _ => rfl⟩

theorem State.Writes.trans {P : Nat → Prop} (h : s.Writes u t c P) (k : u.Writes w t c P) : s.Writes w t c P :=
  ⟨h.stores.trans k.stores, fun x hx => (k.bytes x hx).trans (h.bytes x hx)⟩

theorem State.Writes.foldl {α : Type} {P : Nat → Prop} {f : State → α → State} {xs : List α} (hf : ∀ x ∈ xs, ∀ w : State, w.Writes (f w x) t c P)
    (s : State) : s.Writes (xs.foldl f s) t c P := by
  induction xs generalizing s with
  | nil => exact .refl s t c P
  | cons x xs ih => exact (hf x (by simp) s).trans (ih (fun y hy => hf y (by simp [hy])) _)

theorem State.writes_store {P : Nat → Prop} (s : State) (t c a n v : Nat) (h : ∀ x, tileAddr t a ≤ x → x < tileAddr t a + n → P x) :
    s.Writes (s.store t c a n v) t c P :=
  ⟨s.stores_store t c a n v, fun x hx => (s.readByte_store t c a n v x).trans (if_neg fun hr => hx (h x hr.1 hr.2))⟩

theorem State.readBytes_store (s : State) (t c a n v : Nat) : (s.store t c a n v).readBytes (tileAddr t a) n = leBytes n v := by
  have h := s.readBytes_writeBytes (tileAddr t a) (leBytes n v)
  rw [leBytes_length] at h
  exact h

/-- A value as wide as it is stored reads back. -/
theorem State.readNat_store (s : State) (t c a n v : Nat) (hv : v < 256 ^ n) : (s.store t c a n v).readNat (tileAddr t a) n = v := by
  rw [State.readNat, State.readBytes_store, leNat_leBytes, Nat.mod_eq_of_lt hv]

/-- An instruction done on a state that stores have made of `s`. -/
theorem State.Writes.vDone {P : Nat → Prop} (h : s.Writes w t c P) (hfirm : s.Firm t c) (v : Vec) (fl : Nat) :
    s.VectorDone (w.vDone t c v fl) t c fl ∧ ((w.vDone t c v fl).core t c).f = (s.core t c).f ∧ ((w.vDone t c v fl).tile t).vec = v ∧
      ∀ x, ¬P x → (w.vDone t c v fl).readByte x = s.readByte x := by
  obtain ⟨hdone, hmem, hf, -⟩ := w.vectorOnly_vDone t c v fl
  have hcore := (h.stores.own hfirm).2
  refine ⟨hdone.of_frame h.stores.frame (by rw [hcore]), by rw [hf, hcore], w.vec_vDone t c v fl, fun x hx => ?_⟩
  rw [← h.bytes x hx, State.readByte, hmem, State.readByte]

theorem flushWord_lt {ftz : Bool} {b : Nat} (hb : b < 2 ^ 32) : (flushWord ftz b).1 < 2 ^ 32 := by
  unfold flushWord
  split
  · dsimp only
    omega
  · exact hb

/-- Lanes stored one after another. -/
def State.storeLanes (s : State) (t c n : Nat) (addr val : Nat → Nat) (ls : List Nat) : State :=
  ls.foldl (fun s l => s.store t c (addr l) n (val l)) s

section
variable (s : State) (t c n : Nat) (addr val : Nat → Nat) (ls : List Nat)

theorem State.writes_storeLanes : s.Writes (s.storeLanes t c n addr val ls) t c
    fun x => ∃ l ∈ ls, tileAddr t (addr l) ≤ x ∧ x < tileAddr t (addr l) + n :=
  .foldl (fun l hl w => w.writes_store t c (addr l) n (val l) fun _ hx hlt => ⟨l, hl, hx, hlt⟩) s

/-- The last lane is what its address holds. -/
theorem State.readNat_storeLanes {l : Nat} (hl : ls.getLast? = some l) (hv : val l < 256 ^ n) :
    (s.storeLanes t c n addr val ls).readNat (tileAddr t (addr l)) n = val l := by
  obtain ⟨xs, rfl⟩ := List.getLast?_eq_some_iff.1 hl
  rw [State.storeLanes, List.foldl_append]
  exact State.readNat_store _ t c (addr l) n (val l) hv

/-- The stores among stores that also gather flags. -/
theorem State.storeLanes_of_pairs (fl : Nat → Nat) (x : State × Nat) :
    (ls.foldl (fun x l => (x.1.store t c (addr l) n (val l), x.2 ||| fl l)) x).1 = x.1.storeLanes t c n addr val ls := by
  induction ls generalizing x with
  | nil => rfl
  | cons l ls ih => exact ih _

end

/-- Lanes stored, where the bytes of no other address change and the last lane reads back. -/
theorem State.storeLanes_results {n : Nat} {addr val : Nat → Nat} {ls : List Nat} (hfirm : s.Firm t c) (fl : Nat)
    (hw : w = s.storeLanes t c n addr val ls) :
    let u := w.vDone t c (s.tile t).vec fl
    s.VectorDone u t c fl ∧ (u.core t c).f = (s.core t c).f ∧ (u.tile t).vec = (s.tile t).vec ∧
      (∀ x, (∀ l ∈ ls, x < tileAddr t (addr l) ∨ tileAddr t (addr l) + n ≤ x) → u.readByte x = s.readByte x) ∧
      ∀ l, ls.getLast? = some l → val l < 256 ^ n → u.readNat (tileAddr t (addr l)) n = val l := by
  subst hw
  obtain ⟨hdone, hf, hvec, hbytes⟩ := (s.writes_storeLanes t c n addr val ls).vDone hfirm (s.tile t).vec fl
  refine ⟨hdone, hf, hvec, fun x hx => hbytes x fun ⟨l, hl, hle, hlt⟩ => ?_, fun l hl hv => ?_⟩
  · have := hx l hl
    omega
  · rw [← s.readNat_storeLanes t c n addr val ls hl hv, State.readNat, State.readBytes,
      (State.vectorOnly_vDone _ t c (s.tile t).vec fl).2.1]
    rfl

theorem find?_refused {α : Type} {ls : List α} {ok : α → Bool} (h : ∀ l ∈ ls, ok l = true) : ls.find? (fun l => !ok l) = none := by
  rw [List.find?_eq_none]
  intro l hl
  rw [h l hl]
  exact Bool.false_ne_true

/-- What VST writes for lane `l` that holds `b`, to the element at `place` (R68). -/
def vstLane (m : VMem) (md : VMode) (place l b : Nat) : Nat × Nat :=
  if m.fmt = 0 then flushWord md.md.ftz b
  else
    let y := readOperand 0 md.md.ftz b
    let d := if md.md.nebex then draw md.seed md.epoch l 0 else draw md.seed md.epoch place 0
    match fmtOfCode m.fmt with
    | some f =>
      let r := roundFlags f md.md.ftz (rmOfCode (storeRc md.md.nebex m.rc) d) y.1
      (r.1, r.2 ||| y.2 ||| flagIf (FFmt.f32.isSnan b) Flag.nv)
    | none => (0, 0)

/-- The lanes as VST writes them. -/
def State.vstLanes (s : State) (t c : Nat) (m : VMem) (l : Nat) : Nat × Nat :=
  vstLane m (s.vMode t c) (tileAddr t (strideAddr (s.core t c) m (fmtWidth m.fmt / 8) l) * 8 / fmtWidth m.fmt) l ((s.tile t).vec.lane m.v l)

section
variable {m : VMem}

theorem State.runVst_ok (h : ∀ l ∈ (s.tile t).vec.lanes m.masked,
    s.coreOk t c (strideAddr (s.core t c) m (fmtWidth m.fmt / 8) l) (fmtWidth m.fmt / 8) 2 = true) :
    let n := fmtWidth m.fmt / 8
    let r := ((s.tile t).vec.lanes m.masked).foldl (fun (x : State × Nat) l =>
      (x.1.store t c (strideAddr (s.core t c) m n l) n (s.vstLanes t c m l).1, x.2 ||| (s.vstLanes t c m l).2)) (s, 0)
    s.runVst t c m = r.1.vDone t c (s.tile t).vec r.2 := by
  unfold State.runVst
  dsimp only
  rw [find?_refused h]
  rfl

theorem State.runVst_bad {l : Nat} (h : ((s.tile t).vec.lanes m.masked).find? (fun l =>
    !s.coreOk t c (strideAddr (s.core t c) m (fmtWidth m.fmt / 8) l) (fmtWidth m.fmt / 8) 2) = some l) :
    s.runVst t c m = s.coreTrap t c 7 (strideAddr (s.core t c) m (fmtWidth m.fmt / 8) l) := by
  unfold State.runVst
  dsimp only
  rw [h]

theorem State.runVscat_ok (h : ∀ l ∈ (s.tile t).vec.lanes m.masked, s.coreOk t c (gatherAddr (s.core t c) (s.tile t).vec m l) 4 2 = true) :
    let v := (s.tile t).vec
    let val := fun l => flushWord (s.numMode t).ftz (v.lane m.v l)
    s.runVscat t c m = (s.storeLanes t c 4 (gatherAddr (s.core t c) v m) (fun l => (val l).1) (v.lanes m.masked)).vDone t c v
      ((v.lanes m.masked).foldl (fun f l => f ||| (val l).2) 0) := by
  unfold State.runVscat
  dsimp only
  rw [find?_refused h]
  rfl

end

theorem vst_results (s0 : State) (t c : Nat) (m : VMem) (h : s0.Executes t c (.v2 1 m)) :
    let s := s0.drainAll t c
    let k := s.core t c
    let v := (s.tile t).vec
    let n := fmtWidth m.fmt / 8
    (∀ l ∈ v.lanes m.masked, s.coreOk t c (strideAddr k m n l) n 2 = true) →
    ∃ u fl, exec (.vst t c m) s0 = .next u ∧ s.VectorDone u t c fl ∧ (u.core t c).f = k.f ∧ (u.tile t).vec = v ∧
      (∀ x, (∀ l ∈ v.lanes m.masked, x < tileAddr t (strideAddr k m n l) ∨ tileAddr t (strideAddr k m n l) + n ≤ x) → u.readByte x = s.readByte x) ∧
      (m.fmt = 0 → ∀ l, (v.lanes m.masked).getLast? = some l →
        u.readNat (tileAddr t (strideAddr k m n l)) 4 = (flushWord (s.numMode t).ftz (v.word m.v l).toNat).1) := by
  intro s k v n hok
  have hrun := State.runVst_ok hok
  obtain ⟨hdone, hf, hvec, hbytes, hlast⟩ := State.storeLanes_results (State.firm_drainAll (State.firm_of_customAt h.1)) _
    (State.storeLanes_of_pairs t c n (strideAddr k m n) (fun l => (s.vstLanes t c m l).1) (v.lanes m.masked) (fun l => (s.vstLanes t c m l).2) (s, 0))
  refine ⟨_, _, congrArg Host.Outcome.next ((h.run2 []).trans hrun), hdone, hf, hvec, hbytes, fun hm l hl => ?_⟩
  have hlane : s.vstLanes t c m l = flushWord (s.numMode t).ftz (v.word m.v l).toNat := if_pos hm
  have hn : n = 4 := by
    change fmtWidth m.fmt / 8 = 4
    rw [hm]
    rfl
  have hlast := hlast l hl (by rw [hlane, hn]; exact flushWord_lt (v.word m.v l).isLt)
  rw [← hlane]
  exact (congrArg (State.readNat _ _) hn.symm).trans hlast

theorem vscat_results (s0 : State) (t c : Nat) (m : VMem) (h : s0.Executes t c (.v2 5 m)) :
    let s := s0.drainAll t c
    let k := s.core t c
    let v := (s.tile t).vec
    (∀ l ∈ v.lanes m.masked, s.coreOk t c (gatherAddr k v m l) 4 2 = true) →
    ∃ u fl, exec (.vscat t c m) s0 = .next u ∧ s.VectorDone u t c fl ∧ (u.core t c).f = k.f ∧ (u.tile t).vec = v ∧
      (∀ x, (∀ l ∈ v.lanes m.masked, x < tileAddr t (gatherAddr k v m l) ∨ tileAddr t (gatherAddr k v m l) + 4 ≤ x) → u.readByte x = s.readByte x) ∧
      (∀ l, (v.lanes m.masked).getLast? = some l →
        u.readNat (tileAddr t (gatherAddr k v m l)) 4 = (flushWord (s.numMode t).ftz (v.word m.v l).toNat).1) := by
  intro s k v hok
  have hrun := State.runVscat_ok hok
  obtain ⟨hdone, hf, hvec, hbytes, hlast⟩ := State.storeLanes_results (n := 4) (addr := gatherAddr k v m)
    (val := fun l => (flushWord (s.numMode t).ftz (v.lane m.v l)).1) (ls := v.lanes m.masked) (State.firm_drainAll (State.firm_of_customAt h.1))
    ((v.lanes m.masked).foldl (fun f l => f ||| (flushWord (s.numMode t).ftz (v.lane m.v l)).2) 0) rfl
  exact ⟨_, _, congrArg Host.Outcome.next ((h.run2 []).trans hrun), hdone, hf, hvec, hbytes, fun l hl => hlast l hl (flushWord_lt (v.word m.v l).isLt)⟩

/-! ### VSTQ (R60, R72) -/

/-- One element of a block stored: its byte, or its half of one. -/
def State.putElem (s : State) (t c fmt ea l code : Nat) : State :=
  let a := blockAddr fmt ea l
  if fmt = 5 then
    let old := (s.readByte (tileAddr t a)).toNat
    s.store t c a 1 (if l % 2 = 0 then old / 16 * 16 + code % 16 else old % 16 + code % 16 * 16)
  else s.store t c a 1 code

/-- Block `i` of VSTQ: `act` and `e` are the lanes that it works on and their encoding, `n` a block's lanes. -/
def State.putBlock (s : State) (t c fmt ea sa n vl i : Nat) (act : List Nat) (e : Nat × List Nat) : State :=
  let s1 := (act.zip e.2).foldl (fun s p => s.putElem t c fmt ea p.1 p.2) s
  let s2 := (((List.range n).map fun j => n * i + j).filter fun l => decide (vl ≤ l)).foldl (fun s l => s.putElem t c fmt ea l 0) s1
  if act.isEmpty then s2 else s2.store t c (sa + i) 1 e.1

/-- The byte of an element below `top`, or of one of `nb` scales. -/
def vstqByte (t fmt ea sa top nb x : Nat) : Prop := (∃ l < top, x = tileAddr t (blockAddr fmt ea l)) ∨ ∃ i < nb, x = tileAddr t (sa + i)

theorem State.writes_putElem {fmt ea sa l top nb : Nat} (hl : l < top) (s : State) (t c code : Nat) :
    s.Writes (s.putElem t c fmt ea l code) t c (vstqByte t fmt ea sa top nb) := by
  unfold State.putElem
  dsimp only
  split
  · exact s.writes_store t c _ 1 _ fun x hx hlt => .inl ⟨l, hl, by omega⟩
  · exact s.writes_store t c _ 1 _ fun x hx hlt => .inl ⟨l, hl, by omega⟩

theorem State.writes_putBlock {fmt ea sa n vl i nb : Nat} {act : List Nat} (hact : ∀ l ∈ act, ∃ j < n, l = n * i + j) (hi : i < nb)
    (s : State) (t c : Nat) (e : Nat × List Nat) :
    s.Writes (s.putBlock t c fmt ea sa n vl i act e) t c (vstqByte t fmt ea sa (nb * n) nb) := by
  have hbound : ∀ j < n, n * i + j < nb * n := fun j hj => by
    have : n * i + n ≤ nb * n := by
      rw [← Nat.mul_succ, Nat.mul_comm n]
      exact Nat.mul_le_mul_right n hi
    omega
  unfold State.putBlock
  dsimp only
  have helems : s.Writes ((act.zip e.2).foldl (fun s p => s.putElem t c fmt ea p.1 p.2) s) t c (vstqByte t fmt ea sa (nb * n) nb) := by
    refine .foldl (fun p hp w => ?_) s
    obtain ⟨j, hj, hp⟩ := hact p.1 (List.of_mem_zip hp).1
    exact State.writes_putElem (by rw [hp]; exact hbound j hj) w t c p.2
  have hpads := helems.trans (.foldl (f := fun s l => s.putElem t c fmt ea l 0)
    (xs := ((List.range n).map fun j => n * i + j).filter fun l => decide (vl ≤ l)) (fun l hl w => by
      obtain ⟨j, hj, rfl⟩ := List.mem_map.1 (List.mem_of_mem_filter hl)
      exact State.writes_putElem (hbound j (List.mem_range.1 hj)) w t c 0) _)
  split
  · exact hpads
  · exact hpads.trans (State.writes_store _ t c _ 1 _ fun x hx hlt => .inr ⟨i, hi, by omega⟩)

/-- The lanes of block `i` that VSTQ works on. -/
def Vec.blockLanes (v : Vec) (masked : Bool) (n i : Nat) : List Nat := ((List.range n).map fun j => n * i + j).filter fun l => v.active masked l

/-- The operands of a block's lanes, and their encoding (R72). -/
def State.vstqOperands (s : State) (t c : Nat) (m : VMem) (i : Nat) : List (FVal × Nat) :=
  ((s.tile t).vec.blockLanes m.masked (blockSize (s.tile t).vec.vblk) i).map fun l => readOperand 0 (s.vMode t c).md.ftz ((s.tile t).vec.lane m.v l)

def State.vstqCodes (s : State) (t c : Nat) (m : VMem) (i : Nat) : Nat × List Nat × Nat :=
  let md := s.vMode t c
  encodeBlock m.fmt (storeRc md.md.nebex m.rc) (((s.tile t).vec.blockLanes m.masked (blockSize (s.tile t).vec.vblk) i).map fun l =>
    draw md.seed md.epoch (if md.md.nebex then l else tileAddr t (blockAddr m.fmt ((s.core t c).getX m.rs1).toNat 0) * 8 / fmtWidth m.fmt + l) 0)
    ((s.vstqOperands t c m i).map Prod.fst)

theorem State.runVstq_eq (s : State) (t c : Nat) (m : VMem) : s.runVstq t c m =
    let v := (s.tile t).vec
    let n := blockSize v.vblk
    let nb := ceilDiv v.vl n
    let ea := ((s.core t c).getX m.rs1).toNat
    let sa := ((s.core t c).getX m.rs2).toNat
    match ((List.range (nb * n)).map (blockAddr m.fmt ea) ++ (List.range nb).map (sa + ·)).find? fun a => !s.coreOk t c a 1 2 with
    | some a => s.coreTrap t c 7 a
    | none =>
      let r := (List.range nb).foldl (fun (x : State × Nat) i =>
        (x.1.putBlock t c m.fmt ea sa n v.vl i (v.blockLanes m.masked n i) ((s.vstqCodes t c m i).1, (s.vstqCodes t c m i).2.1),
          (s.vstqOperands t c m i).foldl (fun f p => f ||| p.2) (x.2 ||| (s.vstqCodes t c m i).2.2))) (s, 0)
      r.1.vDone t c v r.2 := rfl

/-- The states of a fold that also gathers something else. -/
theorem State.Writes.foldl_fst {α β : Type} {P : Nat → Prop} {f : State × β → α → State × β} {xs : List α}
    (hf : ∀ x ∈ xs, ∀ w : State × β, w.1.Writes (f w x).1 t c P) (w : State × β) : w.1.Writes (xs.foldl f w).1 t c P := by
  induction xs generalizing w with
  | nil => exact .refl w.1 t c P
  | cons x xs ih => exact (hf x (by simp) w).trans (ih (fun y hy => hf y (by simp [hy])) _)

theorem vstq_results (s0 : State) (t c : Nat) (m : VMem) (h : s0.Executes t c (.v2 3 m)) :
    let s := s0.drainAll t c
    let k := s.core t c
    let v := (s.tile t).vec
    let n := blockSize v.vblk
    let nb := ceilDiv v.vl n
    let ea := (k.getX m.rs1).toNat
    let sa := (k.getX m.rs2).toNat
    (∀ l < nb * n, s.coreOk t c (blockAddr m.fmt ea l) 1 2 = true) → (∀ i < nb, s.coreOk t c (sa + i) 1 2 = true) →
    ∃ u fl, exec (.vstq t c m) s0 = .next u ∧ s.VectorDone u t c fl ∧ (u.core t c).f = k.f ∧ (u.tile t).vec = v ∧
      ∀ x, (∀ l < nb * n, x ≠ tileAddr t (blockAddr m.fmt ea l)) → (∀ i < nb, x ≠ tileAddr t (sa + i)) → u.readByte x = s.readByte x := by
  intro s k v n nb ea sa helem hscale
  have hspots : ∀ a ∈ (List.range (nb * n)).map (blockAddr m.fmt ea) ++ (List.range nb).map (sa + ·), s.coreOk t c a 1 2 = true := fun a ha => by
    obtain ha | ha := List.mem_append.1 ha
    · obtain ⟨l, hl, rfl⟩ := List.mem_map.1 ha
      exact helem l (List.mem_range.1 hl)
    · obtain ⟨i, hi, rfl⟩ := List.mem_map.1 ha
      exact hscale i (List.mem_range.1 hi)
  have hrun := s.runVstq_eq t c m
  dsimp only at hrun
  rw [find?_refused hspots] at hrun
  have hwrites := State.Writes.foldl_fst (t := t) (c := c) (P := vstqByte t m.fmt ea sa (nb * n) nb) (xs := List.range nb)
    (f := fun (x : State × Nat) i =>
      (x.1.putBlock t c m.fmt ea sa n v.vl i (v.blockLanes m.masked n i) ((s.vstqCodes t c m i).1, (s.vstqCodes t c m i).2.1),
        (s.vstqOperands t c m i).foldl (fun f p => f ||| p.2) (x.2 ||| (s.vstqCodes t c m i).2.2)))
    (fun i hi w => State.writes_putBlock (fun l hl => by
      obtain ⟨j, hj, rfl⟩ := List.mem_map.1 (List.mem_of_mem_filter hl)
      exact ⟨j, List.mem_range.1 hj, rfl⟩) (List.mem_range.1 hi) w.1 t c _) (s, 0)
  obtain ⟨hdone, hf, hvec, hbytes⟩ := hwrites.vDone (State.firm_drainAll (State.firm_of_customAt h.1)) v _
  refine ⟨_, _, congrArg Host.Outcome.next ((h.run2 []).trans hrun), hdone, hf, hvec, fun x hx hy => hbytes x ?_⟩
  rintro (⟨l, hl, hxl⟩ | ⟨i, hi, hxi⟩)
  · exact hx l hl hxl
  · exact hy i hi hxi

/-! ### Lanes that are not accessible (R163, R186) -/

theorem State.get_address_coreTrap (hm : (s.core t c).machine = false) (cause tval : Nat) :
    (s.coreTrap t c cause tval).get .tileFaultInfoAddress t = tval % 2 ^ 32 := by
  rw [State.coreTrap_user hm, State.get_of_ctl (State.kernelFail_ctl _ _ _ _ _)]
  exact State.get_address_faultInfo _ _ _ _

/-- A user-mode kernel that an address ends. -/
theorem State.trap_results {o : Op} {i : Custom} {cause a : Nat} (hc : c < 8) (h : s.customAt t c = some i)
    (hm : ((s.drainAll t c).core t c).machine = false) (ho : (s.drainAll t c).op t ((s.drainAll t c).core t c).slot = some o)
    (hrun : o.phase = .running) (hu : u = (s.drainAll t c).coreTrap t c cause a) :
    (u.core t c).state = .idle ∧ (u.op t ((s.drainAll t c).core t c).slot).map Op.phase = some (.failed Code.tileScalarFault 0) ∧
      u.get .tileFaultInfoAddress t = a % 2 ^ 32 := by
  subst hu
  have hends := State.coreTrap_ends hc (State.not_idle_drainAll h) hm cause a
  exact ⟨hends.idle, hends.phase ho hrun, State.get_address_coreTrap hm cause a⟩

theorem vld_fault_results (s0 : State) (t c a : Nat) (m : VMem) (e : Ecc) (o : Op) (hc : c < 8) (h : (s0.corrected e.ce).Executes t c (.v2 0 m)) :
    let s := (s0.corrected e.ce).drainAll t c
    let n := fmtWidth m.fmt / 8
    s.readErr e.ue t c n (((s.tile t).vec.lanes m.masked).map (strideAddr (s.core t c) m n)) = some (.inl a) →
    (s.core t c).machine = false → s.op t (s.core t c).slot = some o → o.phase = .running →
    ∃ u, exec (.vld t c m e) s0 = .next u ∧ (u.core t c).state = .idle ∧
      (u.op t (s.core t c).slot).map Op.phase = some (.failed Code.tileScalarFault 0) ∧ u.get .tileFaultInfoAddress t = a % 2 ^ 32 := by
  intro s n hbad hm ho hrun
  have hvld := s.runVld_eq t c m e.ue
  dsimp only at hvld
  rw [hbad] at hvld
  exact ⟨_, congrArg Host.Outcome.next ((h.run2 e.ue).trans hvld), State.trap_results hc h.1 hm ho hrun rfl⟩

theorem vst_fault_results (s0 : State) (t c a : Nat) (m : VMem) (o : Op) (hc : c < 8) (h : s0.Executes t c (.v2 1 m)) :
    let s := s0.drainAll t c
    let n := fmtWidth m.fmt / 8
    (((s.tile t).vec.lanes m.masked).map (strideAddr (s.core t c) m n)).find? (fun x => !s.coreOk t c x n 2) = some a →
    (s.core t c).machine = false → s.op t (s.core t c).slot = some o → o.phase = .running →
    ∃ u, exec (.vst t c m) s0 = .next u ∧ (u.core t c).state = .idle ∧
      (u.op t (s.core t c).slot).map Op.phase = some (.failed Code.tileScalarFault 0) ∧ u.get .tileFaultInfoAddress t = a % 2 ^ 32 := by
  intro s n hbad hm ho hrun
  rw [List.find?_map] at hbad
  obtain ⟨l, hl, rfl⟩ := Option.map_eq_some_iff.1 hbad
  simp only [Function.comp_def] at hl
  have hvst : s.runVst t c m = s.coreTrap t c 7 (strideAddr (s.core t c) m n l) := State.runVst_bad hl
  exact ⟨_, congrArg Host.Outcome.next ((h.run2 []).trans hvst), State.trap_results hc h.1 hm ho hrun rfl⟩

end Sys2Proof.Machine

section
open Sys2Proof Sys2Proof.Machine

/-- Settles O19, instruction by instruction. -/
theorem vectorMemory : Obligations.VectorMemory :=
  ⟨vld_results, vldq_results, vgath_results, vst_results, vscat_results, vstq_results, vld_fault_results, vst_fault_results⟩

end
end

section
/-! PROOFS. The instruction at a core's pc (R185, R186, R189, log 14). -/

namespace Sys2Proof.Machine

variable {s u w : State} {t c : Nat}

/-! ### What drains after an instruction (R185) -/

/-- A drain of a free number of stores: what it touches of the state. -/
theorem State.drainSome_frame (s : State) (t c : Nat) : s.drainSome t c =
    { s with free := (s.drainSome t c).free, cores := (s.drainSome t c).cores, mem := (s.drainSome t c).mem } := by
  unfold State.drainSome
  dsimp only
  split
  · rfl
  · rw [(s.tick.drains_drainStores t c _).frame]
    rfl

theorem State.drainSome_of_empty (h : (s.core t c).stores = []) : s.drainSome t c = s := if_pos (by rw [h]; rfl)

/-- The core keeps everything but its buffer. -/
theorem State.core_drainSome (h : s.Firm t c) : (s.drainSome t c).core t c =
    { s.core t c with stores := ((s.drainSome t c).core t c).stores, loadsWait := ((s.drainSome t c).core t c).loadsWait } := by
  unfold State.drainSome
  dsimp only
  split
  · rfl
  · rw [State.core_drainStores (s := s.tick) h]
    rfl

/-! ### Bytes once a buffer has drained -/

/-- Stores spell the same bytes over states that read alike. -/
theorem State.readByte_storeAll_congr (h : ∀ x, u.readByte x = w.readByte x) (xs : List BufStore) (x : Nat) :
    (u.storeAll t c xs).readByte x = (w.storeAll t c xs).readByte x := by
  induction xs generalizing u w with
  | nil => exact h x
  | cons y xs ih => exact ih fun x => by rw [State.readByte_store, State.readByte_store, h]

theorem State.storeAll_append (s : State) (t c : Nat) (xs ys : List BufStore) :
    s.storeAll t c (xs ++ ys) = (s.storeAll t c xs).storeAll t c ys := List.foldl_append

theorem State.readByte_drainStores (s : State) (t c n x : Nat) :
    (s.drainStores t c n).readByte x = (s.storeAll t c ((s.core t c).stores.take n)).readByte x := by
  rw [State.drainStores_eq]
  exact State.readByte_setCore _ _ _ _ _

theorem State.readByte_drainAll (s : State) (t c x : Nat) :
    (s.drainAll t c).readByte x = (s.storeAll t c (s.core t c).stores).readByte x := by
  unfold State.drainAll
  split
  next h => rw [List.isEmpty_iff.1 h]; rfl
  · rw [State.readByte_drainStores, List.take_length]

/-- Some stores drained before the rest leave the bytes that all of them leave. -/
theorem State.readByte_drainAll_drainStores (h : s.Firm t c) (n x : Nat) :
    ((s.drainStores t c n).drainAll t c).readByte x = (s.storeAll t c (s.core t c).stores).readByte x := by
  rw [State.readByte_drainAll, State.core_drainStores h, State.readByte_storeAll_congr (s.readByte_drainStores t c n),
    ← State.storeAll_append, List.take_append_drop]

theorem State.readByte_drainAll_drainSome (h : s.Firm t c) (x : Nat) :
    ((s.drainSome t c).drainAll t c).readByte x = (s.storeAll t c (s.core t c).stores).readByte x := by
  unfold State.drainSome
  dsimp only
  split
  · exact s.readByte_drainAll t c x
  · rw [State.readByte_drainAll_drainStores (s := s.tick) h]
    exact State.readByte_storeAll_congr (u := s.tick) (w := s) (fun _ => rfl) (s.core t c).stores x

theorem State.readBytes_congr (h : ∀ x, u.readByte x = w.readByte x) (a n : Nat) : u.readBytes a n = w.readBytes a n :=
  List.map_congr_left fun i _ => h (a + i)

/-! ### The instruction that a core goes on with -/

/-- The state that a standard instruction works on: behind the core's stores where it waits for them. -/
def State.settled (s : State) (t c w : Nat) : State := if (s.core t c).waitsForStores w then s.drainAll t c else s

theorem State.drains_settled (s : State) (t c w : Nat) : s.Drains (s.settled t c w) := by
  unfold State.settled
  split
  · exact s.drains_drainAll t c
  · exact .refl s

theorem State.settled_of_empty (h : (s.core t c).stores = []) (w : Nat) : s.settled t c w = s := by
  rw [State.settled, State.drainAll_of_empty h, ite_self]

theorem State.not_idle_of_coreGoes (h : s.coreGoes t c = true) : (s.core t c).state ≠ .idle := by
  rw [State.running_of_coreGoes h]
  exact nofun

section
variable {ue : List Nat} {i len : Nat} (hgo : s.coreGoes t c = true)
include hgo

theorem State.scalarInst_fault (hf : s.fetchInst ue t c = .fault) : s.scalarInst t c ue = s.coreTrap t c 1 (s.core t c).pc.toNat := by
  rw [State.scalarInst, hgo, hf, if_neg (by decide)]

theorem State.scalarInst_illegal {h : Nat} (hf : s.fetchInst ue t c = .illegal h) : s.scalarInst t c ue = s.coreTrap t c 2 h := by
  rw [State.scalarInst, hgo, hf, if_neg (by decide)]

theorem State.scalarInst_ue {e : MemErr} (hf : s.fetchInst ue t c = .ue e) : s.scalarInst t c ue = s.coreUe t c e := by
  rw [State.scalarInst, hgo, hf, if_neg (by decide)]

theorem State.scalarInst_custom (hf : s.fetchInst ue t c = .word i len) (hi : isCustom i = true) :
    s.scalarInst t c ue = if (decodeCustom i).isSome then s else s.coreEnd t c Code.tileVectorIllegal := by
  rw [State.scalarInst, hgo, hf, if_neg (by decide)]
  exact if_pos hi

/-- A standard instruction: its effect carried out, and a free number of stores drained. -/
theorem State.scalarInst_standard (hf : s.fetchInst ue t c = .word i len) (hi : isCustom i = false) :
    s.scalarInst t c ue = ((s.settled t c i).apply t c
      (((s.settled t c i).drainAll t c).effect ue t c ((s.settled t c i).core t c) i len)).drainSome t c := by
  rw [State.scalarInst, hgo, hf, if_neg (by decide)]
  exact if_neg (ne_true_of_eq_false hi)

end

/-! ### ADDI -/

theorem ib_encI {imm rs1 rd : Nat} (himm : imm < 4096) (hrs1 : rs1 < 32) (hrd : rd < 32) :
    let w := encI imm rs1 0 rd 0x13
    ib w 6 0 = 0x13 ∧ ib w 14 12 = 0 ∧ ib w 11 7 = rd ∧ ib w 19 15 = rs1 ∧ ib w 31 20 = imm := by
  simp only [ib, encI]
  omega

theorem ofNat_sx (imm : Nat) : BitVec.ofNat 64 (sx 12 imm) = (BitVec.ofNat 12 imm).signExtend 64 := by
  have htoInt : (BitVec.ofNat 12 imm).toInt = signed 12 imm := by
    rw [BitVec.toInt_eq_toNat_cond, BitVec.toNat_ofNat]
    simp only [signed]
    split <;> split <;> omega
  rw [BitVec.signExtend, htoInt]
  apply BitVec.eq_of_toNat_eq
  rw [BitVec.toNat_ofNat, BitVec.toNat_ofInt, sx, unsigned, Nat.mod_eq_of_lt]
  omega

/-- The result of ADDI on core `k`. -/
def Core.addi (k : Core) (imm rs1 rd len : Nat) : Core :=
  (k.advance len).setX rd (k.getX rs1 + (BitVec.ofNat 12 imm).signExtend 64)

theorem State.effect_opImm {i : Nat} (hop : ib i 6 0 = 0x13) (s : State) (ue : List Nat) (t c : Nat) (k : Core) (len : Nat) :
    s.effect ue t c k i len = ((aluI (ib i 14 12) (sx 12 (ib i 31 20)) (k.getX (ib i 19 15))).map fun v =>
      Effect.done ((k.advance len).setX (ib i 11 7) v)).getD (.trap 2 i) := by
  unfold State.effect
  rw [hop]
  rfl

theorem State.effect_addi {imm rs1 rd : Nat} (himm : imm < 4096) (hrs1 : rs1 < 32) (hrd : rd < 32) (s : State) (ue : List Nat) (t c : Nat) (k : Core)
    (len : Nat) : s.effect ue t c k (encI imm rs1 0 rd 0x13) len = .done (k.addi imm rs1 rd len) := by
  obtain ⟨hop, hf3, hd, hs, hi⟩ := ib_encI himm hrs1 hrd
  have hadd : ∀ j (a : W64), aluI 0 j a = some (a + BitVec.ofNat 64 j) := fun _ _ => rfl
  rw [State.effect_opImm hop, hf3, hd, hs, hi, hadd, ofNat_sx]
  rfl

theorem addi_settled {imm rs1 rd : Nat} (himm : imm < 4096) (hrs1 : rs1 < 32) (hrd : rd < 32) (s : State) (t c : Nat) :
    isCustom (encI imm rs1 0 rd 0x13) = false ∧ s.settled t c (encI imm rs1 0 rd 0x13) = s := by
  obtain ⟨hop, -⟩ := ib_encI himm hrs1 hrd
  refine ⟨by rw [isCustom, hop]; rfl, if_neg ?_⟩
  unfold Core.waitsForStores
  dsimp only
  rw [hop]
  exact Bool.false_ne_true

theorem addi_results (s0 : State) (t c len imm rs1 rd : Nat) (e : Ecc) (himm : imm < 4096) (hrs1 : rs1 < 32) (hrd : rd < 32) :
    let s := s0.corrected e.ce
    s.coreGoes t c = true → s.fetchInst e.ue t c = .word (encI imm rs1 0 rd 0x13) len →
    ∃ u, exec (.scalarInstruction t c e) s0 = .next u ∧ u.ctl = s.ctl ∧ u.tiles = s.tiles ∧
      (u.core t c).pc = (s.core t c).pc + BitVec.ofNat 64 len ∧ (∀ r, r ≠ rd → (u.core t c).getX r = (s.core t c).getX r) ∧
      (rd ≠ 0 → (u.core t c).getX rd = (s.core t c).getX rs1 + (BitVec.ofNat 12 imm).signExtend 64) ∧
      ((s.core t c).stores = [] → u = s.setCore t c { s.core t c with x := (u.core t c).x, pc := (u.core t c).pc }) := by
  intro s hgo hf
  obtain ⟨hcustom, hsettled⟩ := addi_settled himm hrs1 hrd s t c
  have hrun := State.scalarInst_standard hgo hf hcustom
  rw [hsettled, State.effect_addi himm hrs1 hrd] at hrun
  obtain ⟨k, hk⟩ : ∃ k, k = (s.core t c).addi imm rs1 rd len := ⟨_, rfl⟩
  rw [← hk] at hrun
  have hrun : s.scalarInst t c e.ue = (s.setCore t c k).drainSome t c := hrun
  have hframe : k = { s.core t c with x := k.x, pc := (s.core t c).pc + BitVec.ofNat 64 len } := by
    rw [hk, Core.addi, Core.setX_frame]
    rfl
  have hget : ∀ r, k.getX r = if r = rd ∧ rd ≠ 0 then (s.core t c).getX rs1 + (BitVec.ofNat 12 imm).signExtend 64 else (s.core t c).getX r := by
    intro r
    rw [hk, Core.addi, Core.getX_setX]
    rfl
  have hd := (s.setCore t c k).drainSome_frame t c
  have hcore := State.core_drainSome (s.firm_setCore t c k)
  have hempty : k.stores = [] → (s.setCore t c k).drainSome t c = s.setCore t c k := fun h => State.drainSome_of_empty (by rw [State.core_setCore_self, h])
  rw [State.core_setCore_self] at hcore
  refine ⟨(s.setCore t c k).drainSome t c, congrArg Host.Outcome.next hrun, ?_⟩
  generalize (s.setCore t c k).drainSome t c = u at hd hcore hempty
  have hx : ∀ r, (u.core t c).getX r = k.getX r := fun r => by
    rw [hcore]
    rfl
  refine ⟨?_, ?_, ?_, fun r hr => ?_, fun h0 => ?_, fun h => ?_⟩
  · rw [hd]
    rfl
  · rw [hd]
    rfl
  · rw [hcore, hframe]
  · rw [hx, hget, if_neg fun h => hr h.1]
  · rw [hx, hget, if_pos ⟨rfl, h0⟩]
  · have hu := hempty (by rw [hframe]; exact h)
    rw [hu, State.core_setCore_self]
    exact congrArg _ (by rw [hframe])

/-! ### The other effects of a standard instruction -/

section
variable {s0 : State} {e : Ecc} {i len : Nat}

/-- The effect of a standard instruction whose word stands at the pc. -/
def State.effectAt (s : State) (ue : List Nat) (t c i len : Nat) : Effect :=
  ((s.settled t c i).drainAll t c).effect ue t c ((s.settled t c i).core t c) i len

theorem exec_scalarInstruction_standard {eff : Effect} (hgo : (s0.corrected e.ce).coreGoes t c = true)
    (hf : (s0.corrected e.ce).fetchInst e.ue t c = .word i len) (hi : isCustom i = false)
    (heff : (s0.corrected e.ce).effectAt e.ue t c i len = eff) :
    exec (.scalarInstruction t c e) s0 = .next ((((s0.corrected e.ce).settled t c i).apply t c eff).drainSome t c) :=
  heff ▸ congrArg Host.Outcome.next (State.scalarInst_standard hgo hf hi)

/-- A store that enters the core's buffer: the buffer makes room, and its bytes stand once it has drained. -/
theorem State.bufferStore_results {k : Core} (s : State) (t c a n v : Nat) (hu : u = ((s.setCore t c k).bufferStore t c a n v).drainSome t c) :
    u = { s with free := u.free, cores := u.cores, mem := u.mem } ∧ (u.core t c).pc = k.pc ∧ (u.core t c).x = k.x ∧
      (u.drainAll t c).readBytes (tileAddr t a) n = leBytes n v ∧
      (k.stores = [] → ∀ x, x < tileAddr t a ∨ tileAddr t a + n ≤ x → (u.drainAll t c).readByte x = s.readByte x) := by
  subst hu
  let s1 := if 16 ≤ ((s.setCore t c k).core t c).stores.length then (s.setCore t c k).drainStores t c 1 else s.setCore t c k
  let s2 := s1.setCore t c { s1.core t c with stores := (s1.core t c).stores ++ [⟨a, n, v⟩] }
  have heq : (s.setCore t c k).bufferStore t c a n v = s2 := rfl
  have hk : (s.setCore t c k).core t c = k := s.core_setCore_self t c k
  have h1 : (s.setCore t c k).Drains s1 := by
    dsimp only [s1]
    split
    · exact State.drains_drainStores _ t c 1
    · exact .refl _
  have hcore1 : s1.core t c = { k with stores := (s1.core t c).stores, loadsWait := (s1.core t c).loadsWait } := by
    dsimp only [s1]
    split
    · rw [State.core_drainStores (s.firm_setCore t c k), hk]
    · rw [hk]
  have hcore2 : s2.core t c = { s1.core t c with stores := (s1.core t c).stores ++ [⟨a, n, v⟩] } := State.core_setCore_self _ _ _ _
  have hfirm : s2.Firm t c := State.firm_setCore _ _ _ _
  have hcore := State.core_drainSome hfirm
  have hbytes : ∀ x, ((s2.drainSome t c).drainAll t c).readByte x = ((s2.storeAll t c (s1.core t c).stores).store t c a n v).readByte x := fun x => by
    rw [State.readByte_drainAll_drainSome hfirm, hcore2, State.storeAll_append]
    rfl
  rw [heq]
  refine ⟨?_, ?_, ?_, ?_, fun hempty x hx => ?_⟩
  · rw [State.drainSome_frame]
    have hf : s2 = { s with cores := s2.cores, mem := s2.mem } := by
      change s1.setCore t c _ = _
      rw [State.setCore_setCore_eq, h1.frame]
      rfl
    rw [hf]
  · rw [hcore, hcore2, hcore1]
  · rw [hcore, hcore2, hcore1]
  · rw [State.readBytes_congr hbytes, State.readBytes_store]
  · have hs1 : s1 = s.setCore t c k := if_neg (by rw [hk, hempty]; decide)
    have hx' : ¬(tileAddr t a ≤ x ∧ x < tileAddr t a + n) := by omega
    rw [hbytes, State.readByte_store, if_neg hx', hs1, hk, hempty]
    change s1.readByte x = _
    rw [hs1, State.readByte_setCore]

section
variable {k : Core}

theorem State.apply_vblk (hr : s.Drains w) (n : Nat) (k : Core) : let u := (w.apply t c (.vblk n k)).drainSome t c
    u.ctl = s.ctl ∧ u.tile t = { s.tile t with vec := { (s.tile t).vec with vblk := n } } ∧ (u.core t c).pc = k.pc ∧ (u.core t c).x = k.x := by
  intro u
  have htile : w.tile t = s.tile t := by
    rw [hr.frame]
    rfl
  obtain ⟨y, hy⟩ : ∃ y, y = { w.tile t with vec := { (w.tile t).vec with vblk := n } } := ⟨_, rfl⟩
  have hu : u = ((w.setCore t c k).setTile t y).drainSome t c := by rw [hy]; rfl
  have hfirm : ((w.setCore t c k).setTile t y).Firm t c := w.firm_setCore t c k
  have hcore : ((w.setCore t c k).setTile t y).core t c = k := w.core_setCore_self t c k
  have hd := ((w.setCore t c k).setTile t y).drainSome_frame t c
  have hk := State.core_drainSome hfirm
  rw [hcore] at hk
  rw [hu]
  refine ⟨?_, ?_, by rw [hk], by rw [hk]⟩
  · rw [hd, hr.frame]
    rfl
  · rw [hd]
    refine ((w.setCore t c k).tile_setTile t t y).trans ((if_pos rfl).trans ?_)
    rw [hy, htile]

theorem State.apply_store (hr : s.Drains w) (hsame : (s.core t c).stores = [] → w = s) (a n v : Nat) (k : Core) :
    let u := (w.apply t c (.store a n v k)).drainSome t c
    u.ctl = s.ctl ∧ u.tiles = s.tiles ∧ (u.core t c).pc = k.pc ∧ (u.core t c).x = k.x ∧ (u.drainAll t c).readBytes (tileAddr t a) n = leBytes n v ∧
      ((s.core t c).stores = [] → k.stores = [] →
        ∀ x, x < tileAddr t a ∨ tileAddr t a + n ≤ x → (u.drainAll t c).readByte x = s.readByte x) := by
  intro u
  obtain ⟨hframe, hpc, hx, hbytes, hothers⟩ := w.bufferStore_results (u := u) t c a n v rfl
  refine ⟨?_, ?_, hpc, hx, hbytes, fun hempty hk x hx => ?_⟩
  · rw [hframe, hr.frame]
  · rw [hframe, hr.frame]
  · rw [hothers hk x hx, hsame hempty]

theorem State.apply_atomic (hr : s.Drains w) (hk : k.stores = []) (a n v : Nat) :
    let u := (w.apply t c (.atomic a n v k)).drainSome t c
    u.ctl = s.ctl ∧ u.core t c = k ∧ u.readBytes (tileAddr t a) n = leBytes n v ∧
      ∀ x, x < tileAddr t a ∨ tileAddr t a + n ≤ x → u.readByte x = w.readByte x := by
  intro u
  have hcore : ((w.store t c a n v).setCore t c k).core t c = k := State.core_setCore_self _ t c k
  have hu : u = (w.store t c a n v).setCore t c k := State.drainSome_of_empty (by rw [← hk]; exact congrArg Core.stores hcore)
  rw [hu]
  refine ⟨?_, hcore, w.readBytes_store t c a n v, fun x hx => ?_⟩
  · change (w.store t c a n v).ctl = _
    rw [(w.stores_store t c a n v).frame, hr.frame]
  · rw [State.readByte_setCore, State.readByte_store, if_neg (by omega)]

end

theorem standard_results (s0 : State) (t c i len : Nat) (e : Ecc) : let s := s0.corrected e.ce
    s.coreGoes t c = true → s.fetchInst e.ue t c = .word i len → isCustom i = false →
    let r := s.settled t c i
    let eff := s.effectAt e.ue t c i len
    (∀ k, eff = .done k → exec (.scalarInstruction t c e) s0 = .next ((r.setCore t c k).drainSome t c)) ∧
    (∀ k, eff = .counter k → exec (.scalarInstruction t c e) s0 = .next ((r.tick.setCore t c k).drainSome t c)) ∧
    (∀ n k, eff = .vblk n k → ∃ u, exec (.scalarInstruction t c e) s0 = .next u ∧ u.ctl = s.ctl ∧
      u.tile t = { s.tile t with vec := { (s.tile t).vec with vblk := n } } ∧ (u.core t c).pc = k.pc ∧ (u.core t c).x = k.x) ∧
    (∀ a n v k, eff = .store a n v k → ∃ u, exec (.scalarInstruction t c e) s0 = .next u ∧ u.ctl = s.ctl ∧ u.tiles = s.tiles ∧
      (u.core t c).pc = k.pc ∧ (u.core t c).x = k.x ∧ (u.drainAll t c).readBytes (tileAddr t a) n = leBytes n v ∧
      ((s.core t c).stores = [] → k.stores = [] →
        ∀ x, x < tileAddr t a ∨ tileAddr t a + n ≤ x → (u.drainAll t c).readByte x = s.readByte x)) ∧
    (∀ a n v k, eff = .atomic a n v k → k.stores = [] → ∃ u, exec (.scalarInstruction t c e) s0 = .next u ∧ u.ctl = s.ctl ∧ u.core t c = k ∧
      u.readBytes (tileAddr t a) n = leBytes n v ∧
      ∀ x, x < tileAddr t a ∨ tileAddr t a + n ≤ x → u.readByte x = r.readByte x) := by
  intro s hgo hf hi r eff
  have hr := s.drains_settled t c i
  have hexec := fun eff (heff : s.effectAt e.ue t c i len = eff) => exec_scalarInstruction_standard hgo hf hi heff
  exact ⟨fun k hk => hexec _ hk, fun k hk => hexec _ hk, fun n k hk => ⟨_, hexec _ hk, State.apply_vblk hr n k⟩,
    fun a n v k hk => ⟨_, hexec _ hk, State.apply_store hr (State.settled_of_empty · i) a n v k⟩,
    fun a n v k hk hempty => ⟨_, hexec _ hk, State.apply_atomic hr hempty a n v⟩⟩

/-! ### Exceptions (R186) -/

/-- What stands in the tile's fault record after a user-mode exception of core `c`. -/
theorem State.coreTrap_record (hm : (s.core t c).machine = false) (cause tval : Nat) :
    ((s.core t c).slot < 64 → (s.coreTrap t c cause tval).get .tileFaultCode t = Code.tileScalarFault) ∧
      (s.coreTrap t c cause tval).word (Fld.tileFaultPc.addr t 0) = (s.core t c).pc ∧
      (s.coreTrap t c cause tval).get .tileFaultInfoAddress t = tval % 2 ^ 32 ∧
      (s.coreTrap t c cause tval).get .tileFaultInfoCause t = cause % 256 := by
  have hcore : (s.setCore t c ((s.core t c).trapped cause tval)).core t c = (s.core t c).trapped cause tval := s.core_setCore_self t c _
  rw [State.coreTrap_user hm]
  have hctl := ((s.setCore t c ((s.core t c).trapped cause tval)).faulted t c Code.tileScalarFault tval (cause % 256) (s.core t c).pc).kernelFail_ctl
    t c Code.tileScalarFault 0
  refine ⟨fun hslot => ?_, ?_, ?_, ?_⟩
  · rw [State.get_of_ctl hctl]
    refine State.get_code_faulted _ t c tval _ _ (by decide) ?_
    rw [hcore, Core.trapped_frame]
    exact hslot
  · rw [State.word_of_ctl hctl]
    exact State.word_pc_faulted _ t c _ _ _ _
  · rw [State.get_of_ctl hctl]
    exact State.get_address_faultInfo _ _ _ _
  · rw [State.get_of_ctl hctl]
    exact (State.get_cause_faultInfo _ _ _ _).trans (Nat.mod_mod _ _)

/-- A user-mode exception on a state that drains have made of `s`, whatever drains afterwards. -/
theorem State.user_trap_results {cause tval : Nat} {o : Op} (hr : s.Drains w) (hrun : (s.core t c).state ≠ .idle) (hc : c < 8)
    (hm : (s.core t c).machine = false) (ho : s.op t (s.core t c).slot = some o) (hphase : o.phase = .running)
    (hu : u = w.coreTrap t c cause tval ∨ u = (w.coreTrap t c cause tval).drainSome t c) :
    u = { s with ctl := u.ctl, cores := u.cores, tiles := u.tiles, mem := u.mem } ∧
      (u.core t c).state = .idle ∧ (u.op t (s.core t c).slot).map Op.phase = some (.failed Code.tileScalarFault 0) ∧
      ((s.core t c).slot < 64 → u.get .tileFaultCode t = Code.tileScalarFault) ∧ u.word (Fld.tileFaultPc.addr t 0) = (s.core t c).pc ∧
      u.get .tileFaultInfoAddress t = tval % 2 ^ 32 ∧ u.get .tileFaultInfoCause t = cause % 256 := by
  have hcore := hr.cores t c hrun
  have hmachine : (w.core t c).machine = false := by rw [hcore]; exact hm
  have hends := State.coreTrap_ends hc (by rw [hcore]; exact hrun) hmachine cause tval
  have hrecord := State.coreTrap_record hmachine cause tval
  have hu : u = w.coreTrap t c cause tval := by
    rw [State.drainSome_of_empty hends.stores, or_self] at hu
    exact hu
  rw [← hu] at hends hrecord
  have hends := hends.of_drains hr hrun
  rw [hcore] at hrecord
  exact ⟨hends.frame, hends.idle, hends.phase ho hphase, hrecord⟩

theorem trap_results (s0 : State) (t c cause tval : Nat) (e : Ecc) : let s := s0.corrected e.ce
    s.coreGoes t c = true →
    ((s.fetchInst e.ue t c = .fault ∧ cause = 1 ∧ tval = (s.core t c).pc.toNat) ∨ (s.fetchInst e.ue t c = .illegal tval ∧ cause = 2) ∨
      (∃ w len, s.fetchInst e.ue t c = .word w len ∧ isCustom w = false ∧ s.effectAt e.ue t c w len = .trap cause tval)) →
    (∀ o, c < 8 → (s.core t c).machine = false → s.op t (s.core t c).slot = some o → o.phase = .running →
      ∃ u, exec (.scalarInstruction t c e) s0 = .next u ∧ u = { s with ctl := u.ctl, cores := u.cores, tiles := u.tiles, mem := u.mem } ∧
        (u.core t c).state = .idle ∧ (u.op t (s.core t c).slot).map Op.phase = some (.failed Code.tileScalarFault 0) ∧
        ((s.core t c).slot < 64 → u.get .tileFaultCode t = Code.tileScalarFault) ∧ u.word (Fld.tileFaultPc.addr t 0) = (s.core t c).pc ∧
        u.get .tileFaultInfoAddress t = tval % 2 ^ 32 ∧ u.get .tileFaultInfoCause t = cause % 256) ∧
    ((s.core t c).machine = true → (s.core t c).stores = [] →
      exec (.scalarInstruction t c e) s0 = .next (s.setCore t c ((s.core t c).trapped cause tval))) := by
  intro s hgo htrap
  have hexec : ∃ w u, exec (.scalarInstruction t c e) s0 = .next u ∧ s.Drains w ∧ ((s.core t c).stores = [] → w = s) ∧
      (u = w.coreTrap t c cause tval ∨ u = (w.coreTrap t c cause tval).drainSome t c) := by
    obtain ⟨hf, rfl, rfl⟩ | ⟨hf, rfl⟩ | ⟨i, len, hf, hi, heff⟩ := htrap
    · exact ⟨s, _, congrArg Host.Outcome.next (State.scalarInst_fault hgo hf), .refl s, fun _ => rfl, .inl rfl⟩
    · exact ⟨s, _, congrArg Host.Outcome.next (State.scalarInst_illegal hgo hf), .refl s, fun _ => rfl, .inl rfl⟩
    · exact ⟨s.settled t c i, _, exec_scalarInstruction_standard hgo hf hi heff, s.drains_settled t c i, fun h => State.settled_of_empty h i, .inr rfl⟩
  obtain ⟨w, u, hexec, hw, hsame, hu⟩ := hexec
  refine ⟨fun o hc hm ho hphase => ⟨u, hexec, State.user_trap_results hw (State.not_idle_of_coreGoes hgo) hc hm ho hphase hu⟩, fun hm hempty => ?_⟩
  have htrapped : w.coreTrap t c cause tval = s.setCore t c ((s.core t c).trapped cause tval) := by
    rw [hsame hempty, State.coreTrap_machine hm]
  have hstores : ((s.setCore t c ((s.core t c).trapped cause tval)).core t c).stores = [] := by
    rw [State.core_setCore_self, Core.trapped_frame]
    exact hempty
  rw [hexec]
  rw [htrapped, State.drainSome_of_empty hstores, or_self] at hu
  rw [hu]

/-! ### Words that cannot be corrected, and unlisted custom encodings (R164, R189) -/

theorem scalar_ue_results (s0 : State) (t c : Nat) (e : Ecc) (err : MemErr) (o : Op) (hc : c < 8) : let s := s0.corrected e.ce
    s.coreGoes t c = true → s.op t (s.core t c).slot = some o → o.phase = .running →
    (s.fetchInst e.ue t c = .ue err ∨ (∃ w len, s.fetchInst e.ue t c = .word w len ∧ isCustom w = false ∧ s.effectAt e.ue t c w len = .ue err)) →
    ∃ u, exec (.scalarInstruction t c e) s0 = .next u ∧ (u.core t c).state = .idle ∧
      (u.op t (s.core t c).slot).map Op.phase = some (.failed err.code.1 0) := by
  intro s hgo ho hphase hue
  have hrun := State.not_idle_of_coreGoes hgo
  obtain hf | ⟨i, len, hf, hi, heff⟩ := hue
  · have hends := State.coreUe_ends hc hrun err
    exact ⟨_, congrArg Host.Outcome.next (State.scalarInst_ue hgo hf), hends.idle, hends.phase ho hphase⟩
  · have hw := s.drains_settled t c i
    have hends : (s.settled t c i).Ends _ t c err.code.1 0 := State.coreUe_ends hc (by rw [hw.cores t c hrun]; exact hrun) err
    have hexec := exec_scalarInstruction_standard hgo hf hi heff
    rw [show (s.settled t c i).apply t c (.ue err) = (s.settled t c i).coreUe t c err from rfl, State.drainSome_of_empty hends.stores] at hexec
    have hends := hends.of_drains hw hrun
    exact ⟨_, hexec, hends.idle, hends.phase ho hphase⟩

theorem unlisted_custom_results (s0 : State) (t c w len : Nat) (e : Ecc) : let s := s0.corrected e.ce
    s.coreGoes t c = true → s.fetchInst e.ue t c = .word w len → isCustom w = true →
    ((decodeCustom w).isSome = true → exec (.scalarInstruction t c e) s0 = .next s) ∧
    (∀ o, decodeCustom w = none → c < 8 → s.op t (s.core t c).slot = some o → o.phase = .running →
      ∃ u, exec (.scalarInstruction t c e) s0 = .next u ∧ u = { s with ctl := u.ctl, cores := u.cores, tiles := u.tiles, mem := u.mem } ∧
        (u.core t c).state = .idle ∧ (u.op t (s.core t c).slot).map Op.phase = some (.failed Code.tileVectorIllegal 0) ∧
        ((s.core t c).slot < 64 → u.get .tileFaultCode t = Code.tileVectorIllegal)) := by
  intro s hgo hf hi
  have hexec : exec (.scalarInstruction t c e) s0 = .next (s.scalarInst t c e.ue) := rfl
  rw [State.scalarInst_custom hgo hf hi] at hexec
  refine ⟨fun hsome => by rw [hexec, if_pos hsome], fun o hnone hc ho hphase => ?_⟩
  have hends := State.coreEnd_ends hc (State.not_idle_of_coreGoes hgo) Code.tileVectorIllegal 0
  rw [hnone] at hexec
  refine ⟨_, hexec.trans (congrArg _ (if_neg (by decide))), hends.frame, hends.idle, hends.phase ho hphase, fun hslot => ?_⟩
  rw [State.coreEnd_eq, State.get_of_ctl (State.kernelFail_ctl _ _ _ _ _)]
  exact s.get_code_faulted t c 0 0 0 (by decide) hslot

end

end Sys2Proof.Machine

section
open Sys2Proof Sys2Proof.Machine

theorem stopped_core_results (s : State) (t c : Nat) (ue : List Nat) (h : s.coreGoes t c = false) :
    exec (.scalarInstruction t c { ue := ue }) s = .next s := congrArg Host.Outcome.next (if_pos h)

/-- Settles O14: ADDI, the other effects, the exceptions, what ends the kernel, and the core that does not go. -/
theorem scalarInstructionsRun : Obligations.ScalarInstructionsRun :=
  ⟨addi_results, standard_results, trap_results, scalar_ue_results, unlisted_custom_results, stopped_core_results⟩

end
end

section
/-! PROOFS. Kernel launches (R182, R186, R187). -/

namespace Sys2Proof.Machine

variable {s u : State} {t c slot : Nat} {o : Op}

/-! ### A launch leaves its queue -/

theorem State.kernelOp_results {q kind : Nat} (h : s.taking t q .launcher [kind] = some (slot, o)) :
    let u := s.kernelOp t q kind
    ∃ p, u = { s with free := u.free, ctl := u.ctl, ctrs := u.ctrs, tiles := u.tiles } ∧
      u.op t slot = some p ∧ p.desc = o.desc ∧ p.phase = (if (coresOf (kernelBody o.desc).cores).isEmpty then .done else .running) ∧
      u.ctrs = (s.consumeWaits o.desc).ctrs ∧ u.get .opqPosIssued t q = (s.get .opqPosIssued t q + 1) % 2 ^ 32 := by
  have hrun : s.kernelOp t q kind = if (coresOf (kernelBody o.desc).cores).isEmpty then
      (s.leave t q slot o .launcher).1.modOp t slot fun o => { o with phase := .done } else (s.leave t q slot o .launcher).1 := by
    rw [State.kernelOp, h]
  obtain ⟨n, k, m, hframe⟩ := s.leave_frame t q slot o .launcher
  obtain ⟨hop, hphase⟩ := s.leave_op t q slot o .launcher
  obtain ⟨o', ho', hdesc⟩ : ∃ o', o' = (s.leave t q slot o .launcher).2 ∧ o'.desc = o.desc := ⟨_, rfl, rfl⟩
  have hleft := s.leave_hasLeft t q slot o .launcher
  rw [← ho'] at hop hphase
  dsimp only
  rw [hrun]
  generalize (s.leave t q slot o .launcher).1 = w at *
  split
  · obtain ⟨-, hctrs, hissued⟩ := hleft.modOp (f := fun o => { o with phase := .done }) fun _ => ⟨rfl, rfl, rfl⟩
    obtain ⟨j, hmod⟩ := w.modOp_frame t slot fun o => { o with phase := .done }
    refine ⟨{ o' with phase := .done }, ?_, ?_, hdesc, rfl, hctrs, hissued⟩
    · rw [hmod, hframe]
    · rw [State.op_modOp, if_pos ⟨rfl, rfl⟩, hop]
      rfl
  · obtain ⟨-, hctrs, hissued⟩ := hleft
    refine ⟨o', ?_, hop, hdesc, hphase, hctrs, hissued⟩
    rw [hframe]

/-! ### The cores that a launch starts -/

theorem coresOf_lt {m : Nat} (h : c ∈ coresOf m) : c < 8 := List.mem_range.1 (List.mem_of_mem_filter h)

theorem coresOf_nodup (m : Nat) : (coresOf m).Nodup := List.nodup_range.filter _

/-- Cores of a tile that change, one after another, each by itself. -/
def State.setCores (s : State) (t : Nat) (f : Nat → Core → Core) (cs : List Nat) : State := cs.foldl (fun s c => s.setCore t c (f c (s.core t c))) s

theorem State.setCores_frame (s : State) (t : Nat) (f : Nat → Core → Core) (cs : List Nat) :
    s.setCores t f cs = { s with cores := (s.setCores t f cs).cores } := by
  induction cs generalizing s with
  | nil => rfl
  | cons x cs ih => exact ih _

theorem State.core_setCores (s : State) (t : Nat) (f : Nat → Core → Core) {cs : List Nat} (hcs : ∀ c ∈ cs, c < 8) (hnodup : cs.Nodup) {x y : Nat}
    (hy : y < 8) : (s.setCores t f cs).core x y = if x = t ∧ y ∈ cs then f y (s.core t y) else s.core x y := by
  induction cs generalizing s with
  | nil => simp [State.setCores]
  | cons c cs ih =>
    obtain ⟨hc, hnodup⟩ := List.nodup_cons.1 hnodup
    have hc8 := hcs c (by simp)
    have hrest := ih (s.setCore t c (f c (s.core t c))) (fun x hx => hcs x (by simp [hx])) hnodup
    refine hrest.trans ?_
    by_cases hxy : x = t ∧ y = c
    · obtain ⟨rfl, rfl⟩ := hxy
      simp [hc]
    · have hmem : (x = t ∧ y ∈ c :: cs) ↔ x = t ∧ y ∈ cs := by
        rw [List.mem_cons]
        tauto
      simp only [hmem]
      split
      next h =>
        obtain ⟨rfl, hy⟩ := h
        rw [State.core_setCore_ne (by omega)]
      · rw [State.core_setCore_ne (by omega)]

theorem getX_startCore (b : KernelBody) (slot c : Nat) (csr : SMap W64) (r : Nat) : (startCore b slot c csr).getX r =
    if r = 13 then BitVec.ofNat 64 c else if r = 12 then BitVec.ofNat 64 b.arg2 else if r = 11 then BitVec.ofNat 64 b.arg1
    else if r = 10 then BitVec.ofNat 64 b.arg0 else if r = 2 then BitVec.ofNat 64 (b.stackTop - c * b.stackKib * 1024) else 0 := by
  simp only [startCore, Core.getX_setX]
  simp [Core.getX, smGet]

/-- The tile once a launch has its cores: a vector launch has the vector unit. -/
def Tile.launched (x : Tile) (o : Op) : Tile :=
  if dKind o.desc = 2 then { x with vec := { core := (coresOf (kernelBody o.desc).cores).head? } } else x

theorem State.kernelStart_eq (ho : s.op t slot = some o) (hrun : o.phase = .running) (hkind : dKind o.desc = 2 ∨ dKind o.desc = 3)
    (hstart : o.started = false) (hfree : s.coresFree t o.desc = true) :
    let b := kernelBody o.desc
    let s1 := s.setCores t (fun c k => startCore b slot c k.csr) (coresOf b.cores)
    s.kernelStart t slot = (if dKind o.desc = 2 then s1.setTile t ((s1.tile t).launched o) else s1).modOp t slot
      fun o => { o with started := true } := by
  have hguard : (decide (o.phase = .running) && (dKind o.desc == 2 || dKind o.desc == 3) && !o.started && s.coresFree t o.desc) = true := by
    rw [decide_eq_true hrun, hstart, hfree]
    simpa using hkind
  intro b s1
  rw [State.kernelStart, ho]
  dsimp only
  rw [if_pos hguard]
  split
  next h => rw [Tile.launched, if_pos h]; rfl
  · rfl

/-- The state in which a launch has its cores and, if it is a vector launch, the vector unit. -/
theorem State.launched_results {f : Op → Op} (s1 : State) (ho : s.op t slot = some o) (htile : ∀ x, s1.tile x = s.tile x)
    (heq : u = (if dKind o.desc = 2 then s1.setTile t ((s1.tile t).launched o) else s1).modOp t slot f) :
    ∃ s2 : State, u = s2.modOp t slot f ∧ s2 = { s1 with tiles := s2.tiles } ∧
      (∀ x, s2.tile x = if x = t then (s.tile t).launched o else s.tile x) ∧ s2.op t slot = some o := by
  have hop : s1.op t slot = some o := by rw [State.op, htile, ← State.op, ho]
  by_cases hk : dKind o.desc = 2
  · rw [if_pos hk] at heq
    refine ⟨_, heq, rfl, fun x => by rw [State.tile_setTile, htile, htile], ?_⟩
    rw [State.op, State.tile_setTile, if_pos rfl, Tile.launched, if_pos hk]
    exact hop
  · rw [if_neg hk] at heq
    refine ⟨s1, heq, rfl, fun x => ?_, hop⟩
    rw [htile, Tile.launched, if_neg hk]
    split
    next h => rw [h]
    · rfl

end Sys2Proof.Machine

section
open Sys2Proof Sys2Proof.Machine

theorem kernelStart_results (s : State) (t slot : Nat) (o : Op) (ho : s.op t slot = some o) (hrun : o.phase = .running)
    (hkind : dKind o.desc = 2 ∨ dKind o.desc = 3) (hstart : o.started = false) (hfree : s.coresFree t o.desc = true) :
    let b := kernelBody o.desc
    ∃ u, exec (.kernelStart t slot) s = .next u ∧ u = { s with cores := u.cores, tiles := u.tiles } ∧
      u.op t slot = some { o with started := true } ∧
      (∀ c ∈ coresOf b.cores, (u.core t c).state = .running ∧ (u.core t c).slot = slot ∧ (u.core t c).pc = BitVec.ofNat 64 b.entry ∧
        (u.core t c).getX 2 = BitVec.ofNat 64 (b.stackTop - c * b.stackKib * 1024) ∧ (u.core t c).getX 10 = BitVec.ofNat 64 b.arg0 ∧
        (u.core t c).getX 11 = BitVec.ofNat 64 b.arg1 ∧ (u.core t c).getX 12 = BitVec.ofNat 64 b.arg2 ∧
        (u.core t c).getX 13 = BitVec.ofNat 64 c ∧ (∀ r, r ∉ [2, 10, 11, 12, 13] → (u.core t c).getX r = 0) ∧
        (∀ r, (u.core t c).getF r = 0) ∧ (u.core t c).fcsr = 0) ∧
      (∀ c, c < 8 → c ∉ coresOf b.cores → u.core t c = s.core t c) ∧ (∀ x c, x ≠ t → c < 8 → u.core x c = s.core x c) ∧
      (∀ x, x ≠ t → u.tile x = s.tile x) ∧
      (dKind o.desc = 3 → (u.tile t).vec = (s.tile t).vec) ∧
      (dKind o.desc = 2 → (u.tile t).vec.core = (coresOf b.cores).head? ∧ (u.tile t).vec.vl = 512 ∧ (u.tile t).vec.vm = BitVec.allOnes 512 ∧
        ∀ r l, (u.tile t).vec.word r l = 0) := by
  intro b
  have hexec : exec (.kernelStart t slot) s = .next (s.kernelStart t slot) := rfl
  have heq := State.kernelStart_eq ho hrun hkind hstart hfree
  have hcores := fun x y (hy : y < 8) =>
    s.core_setCores t (fun c k => startCore b slot c k.csr) (x := x) (fun _ => coresOf_lt) (coresOf_nodup b.cores) hy
  have hframe := s.setCores_frame t (fun c k => startCore b slot c k.csr) (coresOf b.cores)
  dsimp only at heq
  generalize s.setCores t (fun c k => startCore b slot c k.csr) (coresOf b.cores) = s1 at heq hcores hframe
  have htile1 : ∀ x, s1.tile x = s.tile x := fun x => by
    rw [hframe]
    rfl
  obtain ⟨s2, hs2, hframe2, htile2, hop2⟩ := State.launched_results s1 ho htile1 heq
  obtain ⟨m, hmod⟩ := s2.modOp_frame t slot fun o => { o with started := true }
  have hcore : ∀ x y, y < 8 → (s.kernelStart t slot).core x y =
      if x = t ∧ y ∈ coresOf b.cores then startCore b slot y (s.core t y).csr else s.core x y := fun x y hy => by
    rw [← hcores x y hy, hs2]
    exact State.core_of_cores (by rw [hmod, hframe2]) x y
  have hvec : ((s.kernelStart t slot).tile t).vec = ((s.tile t).launched o).vec := by
    rw [hs2, State.tile_modOp_self, htile2, if_pos rfl]
  refine ⟨_, hexec, ?_, ?_, fun c hc => ?_, fun c hc hnot => ?_, fun x c hx hc => ?_, fun x hx => ?_, fun h3 => ?_, fun h2 => ?_⟩
  · rw [hs2, hmod, hframe2, hframe]
  · rw [hs2, State.op_modOp, if_pos ⟨rfl, rfl⟩, hop2]
    rfl
  · rw [hcore t c (coresOf_lt hc), if_pos ⟨rfl, hc⟩]
    have hx := getX_startCore b slot c (s.core t c).csr
    refine ⟨rfl, rfl, rfl, hx 2, hx 10, hx 11, hx 12, hx 13, fun r hr => ?_, fun r => rfl, rfl⟩
    simp only [List.mem_cons, List.not_mem_nil, or_false, not_or] at hr
    rw [hx, if_neg hr.2.2.2.2, if_neg hr.2.2.2.1, if_neg hr.2.2.1, if_neg hr.2.1, if_neg hr.1]
  · rw [hcore t c hc, if_neg fun h => hnot h.2]
  · rw [hcore x c hc, if_neg fun h => hx h.1]
  · rw [hs2, State.tile_modOp_ne _ _ hx, htile2, if_neg hx]
  · rw [hvec, Tile.launched, if_neg (by rw [h3]; decide)]
  · rw [hvec, Tile.launched, if_pos h2]
    exact ⟨rfl, rfl, rfl, fun _ _ => rfl⟩

/-- Settles O13: the two launches, and the start of their cores. -/
theorem kernelsStart : Obligations.KernelsStart :=
  ⟨fun _ _ _ _ _ h => ⟨_, (State.kernelOp_results h).imp fun _ hp => ⟨rfl, hp⟩⟩,
    fun _ _ _ _ _ h => ⟨_, (State.kernelOp_results h).imp fun _ hp => ⟨rfl, hp⟩⟩,
    fun s t slot o => kernelStart_results s t slot o⟩

end
end

section
/-! PROOFS. Quadrant faults, fences and the scrubber (R164, R174, R175). -/

namespace Sys2Proof.Machine

variable {s u w : State} {t a k : Nat}

/-! ### Bytes written -/

/-- `u` is `s` with bytes at addresses in `P` written. -/
structure State.Fills (s u : State) (P : Nat → Prop) : Prop where
  frame : u = { s with mem := u.mem }
  bytes : ∀ x, ¬P x → u.readByte x = s.readByte x

theorem State.Fills.refl (s : State) (P : Nat → Prop) : s.Fills s P := ⟨rfl, fun _ _ => rfl⟩

theorem State.Fills.trans {P : Nat → Prop} (h : s.Fills u P) (k : u.Fills w P) : s.Fills w P where
  frame := by
    have hk := k.frame
    rw [h.frame] at hk
    exact hk
  bytes x hx := (k.bytes x hx).trans (h.bytes x hx)

theorem State.Fills.foldl {α : Type} {P : Nat → Prop} {f : State → α → State} {xs : List α} (hf : ∀ x ∈ xs, ∀ w : State, w.Fills (f w x) P)
    (s : State) : s.Fills (xs.foldl f s) P := by
  induction xs generalizing s with
  | nil => exact .refl s P
  | cons x xs ih => exact (hf x (by simp) s).trans (ih (fun y hy => hf y (by simp [hy])) _)

theorem State.fills_writeBytes {P : Nat → Prop} (s : State) (a : Nat) (bs : List Byte) (h : ∀ x, a ≤ x → x < a + bs.length → P x) :
    s.Fills (s.writeBytes a bs) P :=
  ⟨rfl, fun x hx => (s.readByte_writeBytes a x bs).trans (if_neg fun hr => hx (h x hr.1 hr.2))⟩

theorem State.fills_poisonElem (s : State) (t : Nat) (b : MatrixBody) (i j : Nat) : s.Fills (s.poisonElem t b i j) fun _ => True := by
  unfold State.poisonElem
  split
  · exact .refl s _
  · dsimp only
    split
    · exact s.fills_writeBytes _ _ fun _ _ _ => trivial
    · exact s.fills_writeBytes _ _ fun _ _ _ => trivial

theorem State.fills_poisonOutputs (s : State) (t : Nat) (b : MatrixBody) (cols : List Nat) : s.Fills (s.poisonOutputs t b cols) fun _ => True := by
  refine .foldl (fun i _ w => .foldl (fun j _ w => ?_) w) s
  have helem : w.Fills (if b.usesC then w.poisonElem t b i j else w) fun _ => True := by
    split
    · exact w.fills_poisonElem t b i j
    · exact .refl w _
  dsimp only
  split
  · exact helem.trans (State.fills_writeBytes _ _ _ fun _ _ _ => trivial)
  · exact helem

/-! ### The operation that a fault meets (R174) -/

theorem State.op_tileFault (s : State) (t code slot : Nat) (d : BitVec 512) (array quads lanes : Nat) (pc : W64) (x y : Nat) :
    (s.tileFault t code slot d array quads lanes pc).op x y = s.op x y := by
  have h := s.tileFault_frame t code slot d array quads lanes pc
  generalize s.tileFault t code slot d array quads lanes pc = u at h ⊢
  exact State.op_of_tiles (by rw [h]) x y

/-- What a fault does to the operation that has the quadrant: registers, the tile's operations and memory. -/
structure State.OutputsFault (s u : State) (t : Nat) : Prop where
  frame : u = { s with ctl := u.ctl, tiles := u.tiles, mem := u.mem }
  others : ∀ x, x ≠ t → u.tile x = s.tile x
  word : ∀ x, x ≠ Fld.tileFaultCode.addr t 0 → x ≠ Fld.tileFaultPc.addr t 0 → u.word x = s.word x

theorem State.faultOutputs_none (h : (s.tile t).coveredBy a k = none) : s.faultOutputs t a k = s := by rw [State.faultOutputs, h]

/-- An operation failed by the fault of its quadrant. -/
def State.failCovered (s : State) (t a k slot : Nat) (o : Op) : State :=
  ((s.poisonOutputs t (matrixBody o.desc) (o.columnsOf a k)).modOp t slot fun o => o.fail Code.tileArrayParity 0).tileFault
    t Code.tileArrayParity slot o.desc a (2 ^ k) (o.lanes a)

theorem State.faultOutputs_some {slot : Nat} {o : Op} (h : (s.tile t).coveredBy a k = some (slot, o)) :
    s.faultOutputs t a k = s.failCovered t a k slot o := by
  rw [State.faultOutputs, h]
  rfl

theorem State.outputsFault_failCovered (s : State) (t a k slot : Nat) (o : Op) : s.OutputsFault (s.failCovered t a k slot o) t := by
  have hfill := (s.fills_poisonOutputs t (matrixBody o.desc) (o.columnsOf a k)).frame
  unfold State.failCovered
  generalize s.poisonOutputs t (matrixBody o.desc) (o.columnsOf a k) = w at hfill
  obtain ⟨n, hmod⟩ := w.modOp_frame t slot fun o => o.fail Code.tileArrayParity 0
  have hothers := fun x => w.tile_modOp_ne (t := t) (x := x) (k := slot) fun o => o.fail Code.tileArrayParity 0
  generalize w.modOp t slot (fun o => o.fail Code.tileArrayParity 0) = v at hmod hothers
  have hfault := v.tileFault_frame t Code.tileArrayParity slot o.desc a (2 ^ k) (o.lanes a) 0
  have hword := fun x => v.word_tileFault_ne t Code.tileArrayParity slot o.desc a (2 ^ k) (o.lanes a) 0 (x := x)
  generalize v.tileFault t Code.tileArrayParity slot o.desc a (2 ^ k) (o.lanes a) 0 = z at hfault hword
  refine ⟨?_, fun x hx => ?_, fun x hc hp => ?_⟩
  · rw [hfault, hmod, hfill]
  · rw [hfault]
    refine (hothers x hx).trans ?_
    rw [hfill]
    rfl
  · rw [hword x hc hp]
    exact State.word_of_ctl (by rw [hmod, hfill]) x

theorem State.outputsFault (s : State) (t a k : Nat) : s.OutputsFault (s.faultOutputs t a k) t := by
  cases h : (s.tile t).coveredBy a k with
  | none =>
    rw [State.faultOutputs_none h]
    exact ⟨rfl, fun _ _ => rfl, fun _ _ _ => rfl⟩
  | some p =>
    rw [State.faultOutputs_some h]
    exact s.outputsFault_failCovered t a k p.1 p.2

/-- The operation has failed, and stands in the fault record. -/
theorem State.failCovered_results {slot : Nat} {o : Op} (ha : a < 8) (hk : k < 4) (hslot : slot < 64) (ho : s.op t slot = some o)
    (hphase : o.phase = .running ∨ o.phase = .done) :
    ((s.failCovered t a k slot o).op t slot).map Op.phase = some (.failed Code.tileArrayParity 0) ∧
      (s.failCovered t a k slot o).get .tileFaultCode t = Code.tileArrayParity := by
  have hquads : 2 ^ k < 16 := Nat.pow_lt_pow_right (a := 2) (by decide) hk
  have hfill := (s.fills_poisonOutputs t (matrixBody o.desc) (o.columnsOf a k)).frame
  unfold State.failCovered
  generalize s.poisonOutputs t (matrixBody o.desc) (o.columnsOf a k) = w at hfill
  refine ⟨?_, State.get_code_tileFault _ _ (by decide) hslot (by omega) hquads (Nat.mod_lt _ (by decide))⟩
  have hop : w.op t slot = some o := by rw [State.op_of_tiles (u := w) (s := s) (by rw [hfill]), ho]
  rw [State.op_tileFault, State.op_modOp, if_pos ⟨rfl, rfl⟩, hop]
  obtain h | h := hphase
  · rw [Option.map_some, Option.map_some, Op.fail_of_running h]
  · unfold Op.fail
    simp [h]

/-! ### The count of an array's faults and its fence (R175) -/

/-- A digit of a count of eight digits, once 1 has been added to it. -/
theorem digit_succ {n : Nat} (ha : a < 8) (h : n / 16 ^ a % 16 < 15) : (n + 16 ^ a) % 2 ^ 32 / 16 ^ a % 16 = n / 16 ^ a % 16 + 1 := by
  obtain ⟨j, hj⟩ : ∃ j, 8 - a = j + 1 := ⟨7 - a, by omega⟩
  have hsplit : 2 ^ 32 = 16 ^ a * 16 ^ (8 - a) := by
    rw [← pow_add, show a + (8 - a) = 8 by omega]
    rfl
  rw [hsplit, Nat.mod_mul_right_div_self, Nat.mod_mod_of_dvd _ (by rw [hj, pow_succ]; exact Dvd.intro_left _ rfl),
    Nat.add_div_right _ (by positivity)]
  omega

/-- The words that the count of an array's faults may change. -/
def faultWords (t x : Nat) : Prop := x = Fld.tileArrayFaultsCount.addr t 0 ∨ x = Fld.tileArrayStatusAutoFenced.addr t 0

/-- The count of an array's fault, before its fence. -/
def State.countFault (s : State) (t a : Nat) : State :=
  if s.get .tileArrayFaultsCount t / 16 ^ a % 16 < 15 then s.set .tileArrayFaultsCount t 0 (s.get .tileArrayFaultsCount t + 16 ^ a) else s

theorem State.countArrayFault_eq (s : State) (t a : Nat) : s.countArrayFault t a =
    if (decide (min (s.get .tileArrayFaultsCount t / 16 ^ a % 16 + 1) 15 ≥ s.get .tileCtlFenceAfter t) &&
      (s.countFault t a).usableArrays t / 2 ^ a % 2 == 1 && (s.countFault t a).usableArrays t != 2 ^ a) = true then
      ((s.countFault t a).set .tileArrayStatusAutoFenced t 0 ((s.countFault t a).get .tileArrayStatusAutoFenced t ||| 2 ^ a)).logCode
        Code.tileArrayFenced (unitTile t) { arg0 := a }
    else s.countFault t a := rfl

theorem State.countFault_frame (s : State) (t a : Nat) : s.countFault t a = { s with ctl := (s.countFault t a).ctl } := by
  unfold State.countFault
  split
  · exact State.set_eq _ _ _ _ _
  · rfl

theorem State.word_countFault_ne (s : State) (t a : Nat) {x : Nat} (h : x ≠ Fld.tileArrayFaultsCount.addr t 0) :
    (s.countFault t a).word x = s.word x := by
  unfold State.countFault
  split
  · rw [State.word_set, if_neg h]
  · rfl

theorem State.get_countFault (ha : a < 8) : (s.countFault t a).get .tileArrayFaultsCount t / 16 ^ a % 16 =
    min (s.get .tileArrayFaultsCount t / 16 ^ a % 16 + 1) 15 := by
  unfold State.countFault
  split
  next h =>
    rw [State.get_set_self _ _ _ _ _ (by decide) (by decide), min_eq_left (by omega)]
    exact digit_succ ha h
  next h =>
    have : s.get .tileArrayFaultsCount t / 16 ^ a % 16 < 16 := Nat.mod_lt _ (by decide)
    omega

/-- Which arrays a tile may use is read from three words. -/
theorem State.usableArrays_of_words (h : ∀ x, x = Fld.capTileArraysMask.addr 0 t ∨ x = Fld.tileArrayFenceMask.addr t 0 ∨
    x = Fld.tileArrayStatusAutoFenced.addr t 0 → u.word x = s.word x) : u.usableArrays t = s.usableArrays t := by
  rw [State.usableArrays, State.get_of_word (h _ (.inl rfl)), State.get_of_word (h _ (.inr (.inl rfl))), State.get_of_word (h _ (.inr (.inr rfl))),
    ← State.usableArrays]

/-- The word of a register of a tile stands apart from those of its other registers and of its capability. -/
theorem faultsCount_apart {x : Nat} (h : x = Fld.capTileArraysMask.addr 0 t ∨ x = Fld.tileArrayFenceMask.addr t 0 ∨
    x = Fld.tileArrayStatusAutoFenced.addr t 0) : x ≠ Fld.tileArrayFaultsCount.addr t 0 ∧ x ≠ Fld.tileParityFaults.addr t 0 ∧
      x ≠ Fld.tileFaultCode.addr t 0 ∧ x ≠ Fld.tileFaultPc.addr t 0 := by
  simp only [Fld.addr, Fld.capTileArraysMask, Fld.tileArrayFenceMask, Fld.tileArrayStatusAutoFenced, Fld.tileArrayFaultsCount,
    Fld.tileParityFaults, Fld.tileFaultCode, Fld.tileFaultPc] at h ⊢
  omega

theorem State.usableArrays_countFault (s : State) (t a : Nat) : (s.countFault t a).usableArrays t = s.usableArrays t :=
  State.usableArrays_of_words fun _ hx => s.word_countFault_ne t a (faultsCount_apart hx).1

/-- The bit of an array among the fenced ones. -/
theorem fenced_bit {n : Nat} (ha : a < 8) : (n ||| 2 ^ a) % 2 ^ 8 / 2 ^ a % 2 = 1 := by
  have h : ((n ||| 2 ^ a) % 2 ^ 8).testBit a = true := by
    rw [Nat.testBit_mod_two_pow, Nat.testBit_or, Nat.testBit_two_pow_self, decide_eq_true ha, Bool.or_true]
    rfl
  rw [Nat.testBit_eq_decide_div_mod_eq] at h
  exact of_decide_eq_true h

theorem State.countArrayFault_results (s : State) (t : Nat) (ha : a < 8) : let u := s.countArrayFault t a
    let c := s.get .tileArrayFaultsCount t / 16 ^ a % 16
    u = { s with free := u.free, ctl := u.ctl, mem := u.mem, rel := u.rel, out := u.out } ∧ (∀ x, ¬faultWords t x → u.word x = s.word x) ∧
      u.get .tileArrayFaultsCount t / 16 ^ a % 16 = min (c + 1) 15 ∧
      (s.get .tileCtlFenceAfter t ≤ min (c + 1) 15 → s.usableArrays t / 2 ^ a % 2 = 1 → s.usableArrays t ≠ 2 ^ a →
        u.get .tileArrayStatusAutoFenced t / 2 ^ a % 2 = 1) := by
  have hw := s.countFault_frame t a
  have hword := fun x => s.word_countFault_ne t a (x := x)
  have hcount := State.get_countFault (s := s) (t := t) ha
  have husable := s.usableArrays_countFault t a
  dsimp only
  rw [State.countArrayFault_eq]
  generalize s.countFault t a = w at hw hword hcount husable
  split
  · have hset := w.set_eq .tileArrayStatusAutoFenced t 0 (w.get .tileArrayStatusAutoFenced t ||| 2 ^ a)
    have hsetWord := w.word_set .tileArrayStatusAutoFenced t 0 (w.get .tileArrayStatusAutoFenced t ||| 2 ^ a)
    have hself := w.get_set_self .tileArrayStatusAutoFenced t 0 (w.get .tileArrayStatusAutoFenced t ||| 2 ^ a) (by decide) (by decide)
    generalize w.set .tileArrayStatusAutoFenced t 0 (w.get .tileArrayStatusAutoFenced t ||| 2 ^ a) = v at hset hsetWord hself
    obtain ⟨m, r, o, hlog⟩ := v.logCode_frame Code.tileArrayFenced (unitTile t) { arg0 := a }
    generalize v.logCode Code.tileArrayFenced (unitTile t) { arg0 := a } = u at hlog
    have hctl : u.ctl = v.ctl := by rw [hlog]
    refine ⟨?_, fun x hx => ?_, ?_, fun _ _ _ => ?_⟩
    · rw [hlog, hset, hw]
    · rw [State.word_of_ctl hctl, hsetWord, if_neg fun h => hx (.inr h), hword x fun h => hx (.inl h)]
    · rw [State.get_of_ctl hctl, ← hcount, State.get_of_word (s := w) ?_]
      rw [hsetWord, if_neg (faultsCount_apart (.inr (.inr rfl))).1.symm]
    · rw [State.get_of_ctl hctl, hself]
      exact fenced_bit ha
  next hguard =>
    refine ⟨?_, fun x hx => hword x fun h => hx (.inl h), hcount, fun hafter hbit hlast => absurd ?_ hguard⟩
    · rw [hw]
    · rw [husable]
      simpa [hbit, hlast] using hafter

/-! ### A quadrant's fault -/

theorem parityFaults_apart (t : Nat) : ¬faultWords t (Fld.tileParityFaults.addr t 0) ∧
    Fld.tileParityFaults.addr t 0 ≠ Fld.tileFaultCode.addr t 0 ∧ Fld.tileParityFaults.addr t 0 ≠ Fld.tileFaultPc.addr t 0 := by
  simp only [faultWords, Fld.addr, Fld.tileArrayStatusAutoFenced, Fld.tileArrayFaultsCount, Fld.tileParityFaults, Fld.tileFaultCode, Fld.tileFaultPc]
  omega

theorem faultCode_apart (t : Nat) : ¬faultWords t (Fld.tileFaultCode.addr t 0) ∧ Fld.tileFaultCode.addr t 0 ≠ Fld.tileParityFaults.addr t 0 := by
  simp only [faultWords, Fld.addr, Fld.tileArrayStatusAutoFenced, Fld.tileArrayFaultsCount, Fld.tileParityFaults, Fld.tileFaultCode]
  omega

theorem faultsCount_word_apart (t : Nat) : Fld.tileArrayFaultsCount.addr t 0 ≠ Fld.tileParityFaults.addr t 0 ∧
    Fld.tileArrayFaultsCount.addr t 0 ≠ Fld.tileFaultCode.addr t 0 ∧ Fld.tileArrayFaultsCount.addr t 0 ≠ Fld.tileFaultPc.addr t 0 := by
  simp only [Fld.addr, Fld.tileArrayFaultsCount, Fld.tileParityFaults, Fld.tileFaultCode, Fld.tileFaultPc]
  omega

theorem fenceAfter_word_apart (t : Nat) : Fld.tileCtlFenceAfter.addr t 0 ≠ Fld.tileParityFaults.addr t 0 ∧
    Fld.tileCtlFenceAfter.addr t 0 ≠ Fld.tileFaultCode.addr t 0 ∧ Fld.tileCtlFenceAfter.addr t 0 ≠ Fld.tileFaultPc.addr t 0 := by
  simp only [Fld.addr, Fld.tileCtlFenceAfter, Fld.tileParityFaults, Fld.tileFaultCode, Fld.tileFaultPc]
  omega

theorem quadrantFault_results (s : State) (t a k : Nat) (ha : a < 8) (hk : k < 4) (hon : s.domainOn (domTile t) = true)
    (hhas : s.get .capTileArraysMask 0 t / 2 ^ a % 2 = 1) :
    let c := s.get .tileArrayFaultsCount t / 16 ^ a % 16
    ∃ u, exec (.quadrantFault t a k) s = .next u ∧ u.word (Fld.tileParityFaults.addr t 0) = bumpWord (s.word (Fld.tileParityFaults.addr t 0)) 1 ∧
      u.get .tileArrayFaultsCount t / 16 ^ a % 16 = min (c + 1) 15 ∧
      (s.get .tileCtlFenceAfter t ≤ min (c + 1) 15 → s.usableArrays t / 2 ^ a % 2 = 1 → s.usableArrays t ≠ 2 ^ a →
        u.get .tileArrayStatusAutoFenced t / 2 ^ a % 2 = 1) ∧
      ((s.tile t).coveredBy a k = none → u.tiles = s.tiles) ∧
      (∀ slot o, slot < 64 → (s.tile t).coveredBy a k = some (slot, o) → s.op t slot = some o → (o.phase = .running ∨ o.phase = .done) →
        (u.op t slot).map Op.phase = some (.failed Code.tileArrayParity 0) ∧ u.get .tileFaultCode t = Code.tileArrayParity) ∧
      (∀ x, x ≠ t → u.tile x = s.tile x) ∧ u.ctrs = s.ctrs ∧ u.cores = s.cores ∧ u.dies = s.dies ∧ u.links = s.links := by
  intro c
  have hexec : exec (.quadrantFault t a k) s = .next (((s.faultOutputs t a k).bump .tileParityFaults t).countArrayFault t a) :=
    congrArg Host.Outcome.next (if_pos (by rw [hon, hhas]; rfl))
  obtain ⟨f, hf⟩ : ∃ f, f = s.faultOutputs t a k := ⟨_, rfl⟩
  obtain ⟨hframe, hothers, hword⟩ := s.outputsFault t a k
  rw [← hf] at hexec hframe hothers hword
  obtain ⟨n, hbump⟩ := f.bump_frame .tileParityFaults t 0 1
  have hbumped := f.word_bump .tileParityFaults t 0 1
  generalize f.bump .tileParityFaults t = b at hbump hexec hbumped
  obtain ⟨hcframe, hcword, hccount, hcfence⟩ := b.countArrayFault_results t ha
  generalize b.countArrayFault t a = u at hexec hcframe hcword hccount hcfence
  have hbword : ∀ x, x ≠ Fld.tileParityFaults.addr t 0 ∧ x ≠ Fld.tileFaultCode.addr t 0 ∧ x ≠ Fld.tileFaultPc.addr t 0 → b.word x = s.word x :=
    fun x hx => by rw [hbumped, if_neg hx.1, hword x hx.2.1 hx.2.2]
  have hcount : b.get .tileArrayFaultsCount t = s.get .tileArrayFaultsCount t := State.get_of_word (hbword _ (faultsCount_word_apart t))
  have hafter : b.get .tileCtlFenceAfter t = s.get .tileCtlFenceAfter t := State.get_of_word (hbword _ (fenceAfter_word_apart t))
  have husable : b.usableArrays t = s.usableArrays t := State.usableArrays_of_words fun x hx => hbword x (faultsCount_apart hx).2
  have htiles : u.tiles = f.tiles := by rw [hcframe, hbump]
  rw [hcount] at hccount hcfence
  rw [hafter, husable] at hcfence
  refine ⟨u, hexec, ?_, hccount, hcfence, fun hnone => ?_, fun slot o hslot hcov ho hphase => ?_, fun x hx => ?_, ?_, ?_, ?_, ?_⟩
  · obtain ⟨hwords, hcode, hpc⟩ := parityFaults_apart t
    rw [hcword _ hwords, hbumped, if_pos rfl, hword _ hcode hpc]
  · rw [htiles, hf, State.faultOutputs_none hnone]
  · obtain ⟨hfailed, hcode⟩ := State.failCovered_results ha hk hslot ho hphase
    rw [← State.faultOutputs_some hcov, ← hf] at hfailed hcode
    obtain ⟨hwords, hparity⟩ := faultCode_apart t
    refine ⟨by rw [State.op_of_tiles htiles, hfailed], hcode ▸ State.get_of_word ?_⟩
    rw [hcword _ hwords, hbumped, if_neg hparity]
  · rw [← hothers x hx, State.tile, htiles, State.tile]
  · rw [hcframe, hbump, hframe]
  · rw [hcframe, hbump, hframe]
  · rw [hcframe, hbump, hframe]
  · rw [hcframe, hbump, hframe]

/-! ### The scrubber -/

theorem exec_scratchScrub (hscrub : s.get .tileCtlScrub t = 1) (hon : s.domainOn (domTile t) = true) (addr : Nat) (o : EccOutcome) :
    exec (.scratchScrub t addr o) s = .next (match o with
      | .clean => s
      | .corrected => s.bump (if accumBase ≤ addr then .tileAccumCe else .tileScratchCe) t
      | .uncorrectable => (s.bump (if accumBase ≤ addr then .tileAccumUe else .tileScratchUe) t).faultInfo t addr 0xFF 0) := by
  refine congrArg Host.Outcome.next ((if_neg (by rw [hscrub, hon]; decide)).trans ?_)
  cases o with
  | clean => rfl
  | corrected => simp only [decide_eq_true_eq]
  | uncorrectable => simp only [decide_eq_true_eq]

theorem ue_word_apart (t : Nat) {f : Fld} (hf : f = .tileAccumUe ∨ f = .tileScratchUe) : f.addr t 0 ≠ Fld.tileFaultInfoAddress.addr t 0 := by
  obtain rfl | rfl := hf
  · simp only [Fld.addr, Fld.tileAccumUe, Fld.tileFaultInfoAddress]
    omega
  · simp only [Fld.addr, Fld.tileScratchUe, Fld.tileFaultInfoAddress]
    omega

theorem scratchScrub_results (s : State) (t addr : Nat) (hscrub : s.get .tileCtlScrub t = 1) (hon : s.domainOn (domTile t) = true) :
    exec (.scratchScrub t addr .clean) s = .next s ∧
    (∃ u, exec (.scratchScrub t addr .corrected) s = .next u ∧ u = { s with ctl := u.ctl } ∧
      let f := if accumBase ≤ addr then Fld.tileAccumCe else Fld.tileScratchCe
      u.word (f.addr t 0) = bumpWord (s.word (f.addr t 0)) 1 ∧ ∀ x, x ≠ f.addr t 0 → u.word x = s.word x) ∧
    (∃ u, exec (.scratchScrub t addr .uncorrectable) s = .next u ∧ u = { s with ctl := u.ctl } ∧
      let f := if accumBase ≤ addr then Fld.tileAccumUe else Fld.tileScratchUe
      u.word (f.addr t 0) = bumpWord (s.word (f.addr t 0)) 1 ∧ u.get .tileFaultInfoAddress t = addr % 2 ^ 32 ∧
      ∀ x, x ≠ f.addr t 0 → x ≠ Fld.tileFaultInfoAddress.addr t 0 → u.word x = s.word x) := by
  have hue : (if accumBase ≤ addr then Fld.tileAccumUe else Fld.tileScratchUe) = .tileAccumUe ∨
      (if accumBase ≤ addr then Fld.tileAccumUe else Fld.tileScratchUe) = .tileScratchUe := by split <;> simp
  refine ⟨exec_scratchScrub hscrub hon addr .clean, ⟨_, exec_scratchScrub hscrub hon addr .corrected, ?_⟩,
    ⟨_, exec_scratchScrub hscrub hon addr .uncorrectable, ?_⟩⟩
  · generalize (if accumBase ≤ addr then Fld.tileAccumCe else Fld.tileScratchCe) = f
    dsimp only
    refine ⟨State.setWord_eq _ _ _, ?_, fun x hx => ?_⟩
    · rw [State.word_bump, if_pos rfl]
    · rw [State.word_bump, if_neg hx]
  · generalize (if accumBase ≤ addr then Fld.tileAccumUe else Fld.tileScratchUe) = f at hue
    dsimp only
    have hinfo := fun x => State.word_faultInfo_ne (s := s.bump f t) t addr 0xFF 0 (x := x)
    refine ⟨State.ctl_only_trans (State.setWord_eq _ _ _) (State.faultInfo_frame _ _ _ _ _), ?_, State.get_address_faultInfo _ _ _ _,
      fun x hx hy => ?_⟩
    · rw [hinfo _ (ue_word_apart t hue), State.word_bump, if_pos rfl]
    · rw [hinfo x hy, State.word_bump, if_neg hx]

end Sys2Proof.Machine

section
open Sys2Proof Sys2Proof.Machine

/-- Settles O12: quadrant faults, and the scrubber with SCRUB and without. -/
theorem tileFaultsRecorded : Obligations.TileFaultsRecorded :=
  ⟨quadrantFault_results, scratchScrub_results, fun _ _ _ _ h => congrArg Host.Outcome.next (if_pos (by rw [h]; rfl))⟩

end
end

section
/-! PROOFS. MATRIX operations (R173, R176, R177, R179). -/

namespace Sys2Proof.Machine

variable {s u w : State} {t q slot : Nat} {o : Op}

/-! ### The descriptor at the fold -/

/-- The operation as the fold takes it. -/
def State.foldOp (s : State) (t q slot : Nat) (o : Op) : Op :=
  { (s.leave t q slot o .fold).2 with
    usable := s.usableArrays t, heldQuads := (s.tile t).heldQuads (foldDepth (matrixBody o.desc).fmtA) }

/-- The state once a MATRIX descriptor has left its queue for the fold. -/
def State.folding (s : State) (t q slot : Nat) (o : Op) : State := (s.leave t q slot o .fold).1.setOp t slot (some (s.foldOp t q slot o))

theorem State.matrixOp_of_taking (h : s.taking t q .fold [0] = some (slot, o)) (ue : List Nat) : s.matrixOp t q ue =
    if (matrixBody o.desc).isNoop then (s.folding t q slot o).modOp t slot fun o => { o with phase := .done }
    else match (s.folding t q slot o).matrixErr t ue (matrixBody o.desc) with
      | some e => (s.folding t q slot o).opErr t slot e
      | none => (s.folding t q slot o).matrixRun t slot (s.foldOp t q slot o) := by
  rw [State.matrixOp, h]
  rfl

theorem State.word_leave (s : State) (t q slot : Nat) (o : Op) (u : OpUnit) {x : Nat} (hpos : x ≠ Fld.opqPosIssued.addr t q)
    (hops : x ≠ Fld.opqIssuedOps.addr t 0) : (s.leave t q slot o u).1.word x = s.word x := by
  obtain ⟨k, hk⟩ := s.tick.consumeWaits_frame o.desc
  have hctl : ∀ v : State, (s.leave t q slot o u).1.ctl = ((v.set .opqPosIssued t q ((v.get .opqPosIssued t q + 1) % 2 ^ 32)).bump .opqIssuedOps t).ctl →
      v.ctl = s.ctl → (s.leave t q slot o u).1.word x = s.word x := fun v hv hs => by
    rw [State.word_of_ctl hv, State.word_bump, if_neg hops, State.word_set, if_neg hpos, State.word_of_ctl hs]
  exact hctl (s.tick.consumeWaits o.desc) rfl (by rw [hk]; rfl)

/-- What stands once a MATRIX descriptor has left its queue. -/
structure State.Folding (s w : State) (t q slot : Nat) (o p : Op) : Prop where
  frame : w = { s with free := w.free, ctl := w.ctl, ctrs := w.ctrs, tiles := w.tiles }
  left : s.HasLeft w t q slot o
  op : w.op t slot = some p
  running : p.phase = .running
  desc : p.desc = o.desc
  word : ∀ x, x ≠ Fld.opqPosIssued.addr t q → x ≠ Fld.opqIssuedOps.addr t 0 → w.word x = s.word x

theorem State.folding_folding (s : State) (t q slot : Nat) (o : Op) : s.Folding (s.folding t q slot o) t q slot o (s.foldOp t q slot o) := by
  obtain ⟨n, k, m, hframe⟩ := s.leave_frame t q slot o .fold
  obtain ⟨hop, hphase⟩ := s.leave_op t q slot o .fold
  have hmod : s.folding t q slot o = (s.leave t q slot o .fold).1.modOp t slot (fun o' => { o' with
      usable := s.usableArrays t, heldQuads := (s.tile t).heldQuads (foldDepth (matrixBody o.desc).fmtA) }) := by
    rw [State.modOp, hop]
    rfl
  refine ⟨?_, ?_, ?_, hphase, rfl, fun x hpos hops => s.word_leave t q slot o .fold hpos hops⟩
  · unfold State.folding
    rw [hframe]
    rfl
  · rw [hmod]
    exact (s.leave_hasLeft t q slot o .fold).modOp fun _ => ⟨rfl, rfl, rfl⟩
  · exact (State.op_setOp _ _ _ _ _ _).trans (if_pos ⟨rfl, rfl⟩)

/-! ### What the operation reads is as it was -/

/-- An access meets the same error where the queues, the counters and registers other than the capabilities have changed. -/
theorem State.accessErr_of_frame (h : u = { s with free := u.free, ctl := u.ctl, ctrs := u.ctrs, tiles := u.tiles })
    (hcap : u.get .capMemoryScratchKib = s.get .capMemoryScratchKib) (ue : List Nat) (a n : Nat) (b : Bool) :
    u.accessErr ue a n b = s.accessErr ue a n b := by
  have hregions : u.regions = s.regions := by
    rw [h]
    rfl
  have hpoisoned : ∀ x, u.isPoisoned x = s.isPoisoned x := fun x => by
    rw [State.isPoisoned, State.isPoisoned, hregions, h]
  have hmapped : ∀ x, u.mapped x = s.mapped x := fun x => by
    have hon : ∀ d, u.domainOn d = s.domainOn d := fun d => by
      rw [h]
      rfl
    simp only [State.mapped, hcap, hregions, hon]
  have hfirst : u.firstUnmapped a n = s.firstUnmapped a n := by simp only [State.firstUnmapped, hmapped]
  simp only [State.accessErr, hfirst, hcap, hpoisoned]

theorem State.op_faultInfo (s : State) (t addr core cause x y : Nat) : (s.faultInfo t addr core cause).op x y = s.op x y := by
  have h := s.faultInfo_frame t addr core cause
  generalize s.faultInfo t addr core cause = u at h ⊢
  exact State.op_of_tiles (by rw [h]) x y

theorem capScratch_apart (t q : Nat) : Fld.capMemoryScratchKib.addr 0 0 ≠ Fld.opqPosIssued.addr t q ∧
    Fld.capMemoryScratchKib.addr 0 0 ≠ Fld.opqIssuedOps.addr t 0 := by
  simp only [Fld.addr, Fld.capMemoryScratchKib, Fld.opqPosIssued, Fld.opqIssuedOps]
  omega

theorem numCtl_apart (t q : Nat) : Fld.tileNumCtlNebex.addr t 0 ≠ Fld.opqPosIssued.addr t q ∧
    Fld.tileNumCtlNebex.addr t 0 ≠ Fld.opqIssuedOps.addr t 0 := by
  simp only [Fld.addr, Fld.tileNumCtlNebex, Fld.opqPosIssued, Fld.opqIssuedOps]
  omega

section
variable {p : Op} (h : s.Folding w t q slot o p)
include h

theorem State.Folding.matrixErr (ue : List Nat) (b : MatrixBody) : w.matrixErr t ue b = s.matrixErr t ue b := by
  have hcap : w.get .capMemoryScratchKib = s.get .capMemoryScratchKib :=
    State.get_of_word (h.word _ (capScratch_apart t q).1 (capScratch_apart t q).2)
  simp only [State.matrixErr, State.accessErr_of_frame h.frame hcap]

theorem State.Folding.numMode : w.numMode t = s.numMode t := by
  have hword := h.word _ (numCtl_apart t q).1 (numCtl_apart t q).2
  rw [State.numMode, State.get_of_word (f := .tileNumCtlNebex) hword, State.get_of_word (f := .tileNumCtlFtz) hword,
    State.get_of_word (f := .tileNumCtlOrdered) hword, ← State.numMode]

/-- The operation failed by an operand that cannot be read. -/
theorem State.Folding.opErr (e : MemErr) : let u := w.opErr t slot e
    ∃ p', u = { s with free := u.free, ctl := u.ctl, ctrs := u.ctrs, tiles := u.tiles } ∧
      u.op t slot = some p' ∧ p'.phase = .failed e.code.1 e.code.2 ∧ u.ctrs = (s.consumeWaits o.desc).ctrs := by
  obtain ⟨n, hnote⟩ := w.noteErr_frame e
  have hop := w.op_noteErr e t slot
  obtain ⟨v, hv, hframe, hvop⟩ : ∃ v : State, w.opErr t slot e = v.modOp t slot (fun o => o.fail e.code.1 e.code.2) ∧
      v = { w with ctl := v.ctl } ∧ v.op t slot = some p := by
    unfold State.opErr
    generalize w.noteErr e = s1 at hnote hop
    rw [h.op] at hop
    cases e.tileAt with
    | none => exact ⟨s1, rfl, by rw [hnote], hop⟩
    | some a =>
      refine ⟨_, rfl, State.ctl_only_trans (t := s1) (by rw [hnote])
        (State.ctl_only_trans (State.faultInfo_frame _ _ _ _ _) (State.tileFault_frame _ _ _ _ _ _ _ _ _)), ?_⟩
      rw [State.op_tileFault, State.op_faultInfo, hop]
  dsimp only
  rw [hv]
  obtain ⟨m, hmod⟩ := v.modOp_frame t slot fun o => o.fail e.code.1 e.code.2
  obtain ⟨-, hctrs, -⟩ := h.left
  refine ⟨p.fail e.code.1 e.code.2, ?_, ?_, ?_, ?_⟩
  · rw [hmod, hframe, h.frame]
  · rw [State.op_modOp, if_pos ⟨rfl, rfl⟩, hvop]
    rfl
  · rw [Op.fail_of_running h.running]
  · rw [← hctrs, hmod, hframe]

end

/-! ### The bytes of an encoded row (R60, R176) -/

theorem le_alignUp (a : Nat) : a ≤ alignUp a 64 := by
  unfold alignUp ceilDiv
  omega

theorem length_cutBlocks {n : Nat} (hn : 0 < n) (fuel : Nat) (xs : List FVal) : (cutBlocks n fuel xs).length ≤ ceilDiv xs.length n := by
  have hmul : (cutBlocks n fuel xs).length * n ≤ xs.length + n - 1 := by
    induction fuel generalizing xs with
    | zero => simp [cutBlocks]
    | succ fuel ih =>
      rw [cutBlocks]
      cases xs with
      | nil => simp
      | cons x xs =>
        have hrest := ih ((x :: xs).drop n)
        simp only [List.isEmpty_cons, Bool.false_eq_true, if_false, List.length_cons, List.length_drop, Nat.succ_mul] at hrest ⊢
        by_cases hlen : n ≤ xs.length + 1
        · omega
        · have hnil : (cutBlocks n fuel ((x :: xs).drop n)).length = 0 := by
            have : (x :: xs).drop n = [] := List.drop_eq_nil_of_le (by simp; omega)
            rw [this]
            cases fuel <;> rfl
          rw [hnil]
          omega
  exact (Nat.le_div_iff_mul_le hn).2 hmul

theorem length_flatMap_leBytes (n : Nat) (cs : List Nat) : (cs.flatMap fun c => leBytes n c).length = cs.length * n := by
  induction cs with
  | nil => simp
  | cons c cs ih => simp [ih, Nat.succ_mul, Nat.add_comm]

section
variable (code blk rc : Nat) (ftz : Bool) (seed : W64) (epoch elem0 : Nat) (xs : List FVal)

theorem length_encodeRow_elems : (encodeRow code blk rc ftz seed epoch elem0 xs).1.length ≤ rowBytes code xs.length := by
  unfold encodeRow
  split
  · exact List.length_take_le _ _
  next hblock =>
    have h5 : code ≠ 5 := fun h => hblock (by rw [h]; rfl)
    simp only [packCodes, if_neg h5, length_flatMap_leBytes, List.length_map, List.length_zipIdx]
    calc xs.length * (fmtWidth code / 8) ≤ xs.length * fmtWidth code / 8 := Nat.mul_div_le_mul_div_assoc _ _ _
      _ ≤ ceilDiv (xs.length * fmtWidth code) 8 := by unfold ceilDiv; omega
      _ ≤ rowBytes code xs.length := le_alignUp _

theorem length_encodeRow_scales : (encodeRow code blk rc ftz seed epoch elem0 xs).2.1.length ≤ scaleRowBytes code blk xs.length := by
  unfold encodeRow scaleRowBytes
  split
  · have hpos : 0 < blockSize blk := by
      unfold blockSize
      positivity
    simp only [List.length_map, List.length_zipIdx]
    exact (length_cutBlocks hpos _ _).trans (le_alignUp _)
  · exact Nat.zero_le _

end

/-! ### The rows of C and the accumulator slots -/

/-- The address of row `i` of C. -/
def MatrixBody.rowAddr (b : MatrixBody) (t i : Nat) : Nat := tileAddr t (b.cOff + i * rowBytes b.out b.n)

/-- The address of the scale bytes of row `i` of C. -/
def MatrixBody.scaleAddr (b : MatrixBody) (t i : Nat) : Nat :=
  tileAddr t (b.cOff + b.m * rowBytes b.out b.n + i * scaleRowBytes b.out b.blkC b.n)

/-- A byte of row `i` of C or of its scale bytes. -/
def MatrixBody.inRow (b : MatrixBody) (t i x : Nat) : Prop :=
  (b.rowAddr t i ≤ x ∧ x < b.rowAddr t i + rowBytes b.out b.n) ∨
    (b.scaleAddr t i ≤ x ∧ x < b.scaleAddr t i + scaleRowBytes b.out b.blkC b.n)

/-- A byte that the operation may write: of C, or of its slots. -/
def MatrixBody.mayWrite (b : MatrixBody) (t x : Nat) : Prop :=
  (b.usesC = true ∧ tileAddr t b.cOff ≤ x ∧ x < tileAddr t b.cOff + tensorBytes b.out b.blkC b.m b.n) ∨
    (b.usesSlots = true ∧ tileAddr t (slotAddr b.slot 0 0) ≤ x ∧ x < tileAddr t (slotAddr (b.slot + b.slots) 0 0))

variable {b : MatrixBody} {i : Nat} {xs : List FVal}

theorem MatrixBody.mayWrite_of_inRow {x : Nat} (hc : b.usesC = true) (hi : i < b.m) (h : b.inRow t i x) : b.mayWrite t x := by
  refine .inl ⟨hc, ?_⟩
  have hrow : i * rowBytes b.out b.n + rowBytes b.out b.n ≤ b.m * rowBytes b.out b.n := by
    rw [← Nat.succ_mul]
    exact Nat.mul_le_mul_right _ hi
  have hscale : i * scaleRowBytes b.out b.blkC b.n + scaleRowBytes b.out b.blkC b.n ≤ b.m * scaleRowBytes b.out b.blkC b.n := by
    rw [← Nat.succ_mul]
    exact Nat.mul_le_mul_right _ hi
  simp only [MatrixBody.inRow, MatrixBody.rowAddr, MatrixBody.scaleAddr, tileAddr, tensorBytes] at h ⊢
  omega

theorem lt_ceilDiv_mul {i m : Nat} (h : i < m) : i / 32 < ceilDiv m 32 := by
  unfold ceilDiv
  omega

/-- The four bytes of the slot element of a result lie in the operation's slots (Table 6.2). -/
theorem MatrixBody.mayWrite_slotElem {j x : Nat} (hs : b.usesSlots = true) (hi : i < b.m) (hj : j < b.n)
    (hx : tileAddr t (b.slotElem i j) ≤ x) (hlt : x < tileAddr t (b.slotElem i j) + 4) : b.mayWrite t x := by
  refine .inr ⟨hs, ?_⟩
  have hslot : i / 32 * ceilDiv b.n 32 + j / 32 + 1 ≤ ceilDiv b.m 32 * ceilDiv b.n 32 := by
    have := Nat.mul_le_mul_right (ceilDiv b.n 32) (Nat.succ_le_of_lt (lt_ceilDiv_mul hi))
    have := lt_ceilDiv_mul hj
    rw [Nat.succ_mul] at *
    omega
  simp only [MatrixBody.slotElem, slotAddr, tileAddr, MatrixBody.slots] at *
  omega

theorem State.fills_storeSlots (hs : b.usesSlots = true) (hi : i < b.m) (hxs : xs.length = b.n) (s : State) :
    s.Fills (s.storeSlots t b i xs) (b.mayWrite t) := by
  refine .foldl (fun p hp w => w.fills_writeBytes _ _ fun x hx hlt => ?_) s
  have hj : p.2 < b.n := by
    have := List.snd_lt_of_mem_zipIdx hp
    omega
  rw [leBytes_length] at hlt
  exact MatrixBody.mayWrite_slotElem hs hi hj hx hlt

theorem State.fills_storeRow (hxs : xs.length = (matrixBody o.desc).n) (s : State) (t i : Nat) (md : NumMode) :
    s.Fills (s.storeRow t o md i xs).1 ((matrixBody o.desc).inRow t i) := by
  unfold State.storeRow
  dsimp only
  generalize (if md.nebex = true then _ else _ : Nat) = elem0
  have helems := length_encodeRow_elems (matrixBody o.desc).out (matrixBody o.desc).blkC (storeRc md.nebex (matrixBody o.desc).rc) md.ftz o.seed
    o.epoch elem0 xs
  have hscales := length_encodeRow_scales (matrixBody o.desc).out (matrixBody o.desc).blkC (storeRc md.nebex (matrixBody o.desc).rc) md.ftz o.seed
    o.epoch elem0 xs
  rw [hxs] at helems hscales
  refine (s.fills_writeBytes _ _ fun x hx hlt => .inl ⟨hx, lt_of_lt_of_le hlt (Nat.add_le_add_left helems _)⟩).trans
    (State.fills_writeBytes _ _ _ fun x hx hlt => .inr ⟨hx, lt_of_lt_of_le hlt (Nat.add_le_add_left hscales _)⟩)

theorem State.fills_deliverRow (hi : i < (matrixBody o.desc).m) (hxs : xs.length = (matrixBody o.desc).n) (s0 : State) (t : Nat) (md : NumMode)
    (acc : State × Nat) : acc.1.Fills (s0.deliverRow t o md acc i xs).1 ((matrixBody o.desc).mayWrite t) := by
  have hslots : ∀ {k}, (matrixBody o.desc).accMode = k → k ≠ 0 → (matrixBody o.desc).usesSlots = true := fun hk hne => by
    rw [MatrixBody.usesSlots, hk]
    exact bne_iff_ne.2 hne
  unfold State.deliverRow
  extract_lets b s1 z ys r
  have h1 : acc.1.Fills s1 (b.mayWrite t) := by
    dsimp only [s1]
    split
    next h => exact State.fills_storeSlots (h.elim (hslots · (by decide)) (hslots · (by decide))) hi hxs _
    · split
      next h => exact State.fills_storeSlots (hslots h (by decide)) hi (by simpa using hxs) _
      · exact .refl _ _
  split
  next hc =>
    have hrow : s1.Fills r.1 (b.inRow t i) := State.fills_storeRow (by simpa [ys] using hxs) s1 t i md
    exact h1.trans ⟨hrow.frame, fun x hx => hrow.bytes x fun h => hx (MatrixBody.mayWrite_of_inRow hc hi h)⟩
  · exact h1

/-! ### The rows of the result -/

theorem State.length_matrixRows (s : State) (t : Nat) (o : Op) : (s.matrixRows t o).1.length = (matrixBody o.desc).m := by
  unfold State.matrixRows
  simp

theorem State.length_row {xs : List FVal} (h : xs ∈ (s.matrixRows t o).1) : xs.length = (matrixBody o.desc).n := by
  unfold State.matrixRows at h
  dsimp only at h
  obtain ⟨r, hr, rfl⟩ := List.mem_map.1 h
  obtain ⟨p, -, rfl⟩ := List.mem_map.1 hr
  split <;> simp

theorem State.matrixRows_folding (s : State) (t q slot : Nat) (o : Op) : (s.folding t q slot o).matrixRows t (s.foldOp t q slot o) =
    (s.leave t q slot o .fold).1.matrixRows t (s.leave t q slot o .fold).2 := by
  unfold State.folding State.foldOp
  generalize (s.leave t q slot o .fold).1 = w
  generalize (s.leave t q slot o .fold).2 = p
  rfl

/-- The rows delivered, one after another. -/
def State.deliverRows (s : State) (t : Nat) (o : Op) : State × Nat :=
  (s.matrixRows t o).1.zipIdx.foldl (fun a p => s.deliverRow t o (s.numMode t) a p.2 p.1) (s, (s.matrixRows t o).2)

/-- A row of the result and its number. -/
theorem State.row_of_mem {p : List FVal × Nat} (h : p ∈ (s.matrixRows t o).1.zipIdx) :
    p.2 < (matrixBody o.desc).m ∧ p.1.length = (matrixBody o.desc).n ∧ p.1 = (s.matrixRows t o).1.getD p.2 [] := by
  obtain ⟨xs, i⟩ := p
  obtain ⟨hi, hxs⟩ := List.mem_zipIdx' h
  refine ⟨s.length_matrixRows t o ▸ hi, State.length_row (List.mem_of_getElem hxs.symm), ?_⟩
  rw [List.getD_eq_getElem _ _ hi, hxs]

theorem State.Fills.foldl_fst {α β : Type} {P : Nat → Prop} {f : State × β → α → State × β} {xs : List α}
    (hf : ∀ x ∈ xs, ∀ w : State × β, w.1.Fills (f w x).1 P) (w : State × β) : w.1.Fills (xs.foldl f w).1 P := by
  induction xs generalizing w with
  | nil => exact .refl w.1 P
  | cons x xs ih => exact (hf x (by simp) w).trans (ih (fun y hy => hf y (by simp [hy])) _)

theorem State.fills_deliverRows (s : State) (t : Nat) (o : Op) : s.Fills (s.deliverRows t o).1 ((matrixBody o.desc).mayWrite t) :=
  State.Fills.foldl_fst (fun p hp w => by
    obtain ⟨hi, hxs, -⟩ := State.row_of_mem hp
    exact State.fills_deliverRow hi hxs s t (s.numMode t) w) (s, (s.matrixRows t o).2)

/-- What one step of a fold sets and no other step changes. -/
theorem foldl_reads {α σ β : Type} {f : σ → α → σ} {get : σ → β} {v : β} {x : α} {xs : List α} (hx : x ∈ xs) (hset : ∀ w, get (f w x) = v)
    (hkeep : ∀ y ∈ xs, y ≠ x → ∀ w, get (f w y) = get w) (w : σ) : get (xs.foldl f w) = v := by
  have hstays : ∀ (ys : List α), (∀ y ∈ ys, y ∈ xs) → ∀ w, get w = v → get (ys.foldl f w) = v := by
    intro ys hys
    induction ys with
    | nil => exact fun w hw => hw
    | cons y ys ih =>
      refine fun w hw => ih (fun z hz => hys z (by simp [hz])) _ ?_
      by_cases hy : y = x
      · rw [hy, hset]
      · rw [hkeep y (hys y (by simp)) hy, hw]
  obtain ⟨l, r, rfl⟩ := List.append_of_mem hx
  rw [List.foldl_append, List.foldl_cons]
  exact hstays r (fun y hy => by simp [hy]) _ (hset _)

/-! ### An element of C in FP32 -/

theorem getD_flatMap_leBytes (cs : List Nat) {n j r : Nat} (hj : j < cs.length) (hr : r < n) :
    (cs.flatMap fun c => leBytes n c).getD (n * j + r) 0 = (leBytes n (cs.getD j 0)).getD r 0 := by
  induction cs generalizing j with
  | nil => cases hj
  | cons c cs ih =>
    rw [List.flatMap_cons]
    cases j with
    | zero => rw [List.getD_append _ _ _ _ (by rw [leBytes_length]; omega), Nat.mul_zero, Nat.zero_add, List.getD_cons_zero]
    | succ j =>
      have hlen : n * (j + 1) + r - n = n * j + r := by rw [Nat.mul_succ]; omega
      rw [List.getD_append_right _ _ _ _ (by rw [leBytes_length, Nat.mul_succ]; omega), leBytes_length, hlen, List.getD_cons_succ]
      exact ih (Nat.lt_of_succ_lt_succ hj)

/-- An element of a row of elements of `n` bytes each reads back. -/
theorem State.readNat_row (s : State) (a : Nat) {cs : List Nat} {n j : Nat} (hj : j < cs.length) (hv : cs.getD j 0 < 256 ^ n) :
    (s.writeBytes a (cs.flatMap fun c => leBytes n c)).readNat (a + n * j) n = cs.getD j 0 := by
  have hroom : n * j + n ≤ cs.length * n := by
    rw [← Nat.mul_succ, Nat.mul_comm]
    exact Nat.mul_le_mul_right n hj
  have hbytes : (s.writeBytes a (cs.flatMap fun c => leBytes n c)).readBytes (a + n * j) n = (leBytes n (cs.getD j 0)).take n := by
    refine State.readBytes_of (by rw [leBytes_length]) fun r hr => ?_
    rw [State.readByte_writeBytes, length_flatMap_leBytes, if_pos (by omega), ← getD_flatMap_leBytes cs hj hr]
    congr 1
    omega
  rw [State.readNat, hbytes, List.take_of_length_le (by rw [leBytes_length]), leNat_leBytes, Nat.mod_eq_of_lt hv]

theorem FFmt.sign_le (f : FFmt) (n : Bool) : f.sign n ≤ 2 ^ (f.width - 1) := by
  cases n
  · exact Nat.zero_le _
  · exact le_rfl

/-- A code is the NaN that a format writes, or a sign and at most an infinity. -/
theorem FFmt.round_bits_le (f : FFmt) (rm : Rm) (x : FVal) : (f.round rm x).bits ≤ max f.nanCode (2 ^ (f.width - 1) + (f.maxCode + 1)) := by
  unfold FFmt.round
  split
  · exact le_max_left _ _
  next n =>
    refine le_max_of_le_right (Nat.add_le_add (f.sign_le n) ?_)
    split <;> omega
  next n _ => exact le_max_of_le_right ((f.sign_le n).trans (Nat.le_add_right _ _))
  next n m e _ =>
    extract_lets top qmin r sh lo rem up mag
    split
    · refine le_max_of_le_right (Nat.add_le_add (f.sign_le n) ?_)
      split <;> omega
    · exact le_max_of_le_right (Nat.add_le_add (f.sign_le n) (by omega))

theorem FFmt.round_f32_lt (rm : Rm) (x : FVal) : (FFmt.f32.round rm x).bits < 2 ^ 32 :=
  lt_of_le_of_lt (FFmt.round_bits_le .f32 rm x) (by decide)

theorem roundFtz_f32_lt (ftz : Bool) (rm : Rm) (x : FVal) : (roundFtz .f32 ftz rm x).1 < 2 ^ 32 := by
  unfold roundFtz
  dsimp only
  split
  · cases x.neg? <;> decide
  · exact FFmt.round_f32_lt rm x

section
variable {b : MatrixBody} {i j : Nat} {xs : List FVal}

/-- The number that the draw of element `j` of row `i` of an FP32 C takes (R68, R85). -/
def MatrixBody.elem (b : MatrixBody) (t : Nat) (nebex : Bool) (i j : Nat) : Nat :=
  (if nebex then i * b.n else tileAddr t (b.cOff + i * rowBytes 0 b.n) * 8 / 32) + j

/-- Element `j` of a row of C in FP32, as it is stored. -/
def Op.rounded (o : Op) (t : Nat) (md : NumMode) (i j : Nat) (x : FVal) : Nat :=
  (roundFtz .f32 md.ftz (rmOfCode (storeRc md.nebex (matrixBody o.desc).rc) (draw o.seed o.epoch ((matrixBody o.desc).elem t md.nebex i j) 0)) x).1

theorem State.storeRow_f32 (hout : (matrixBody o.desc).out = 0) (s : State) (t i : Nat) (md : NumMode) (xs : List FVal) :
    ∃ fl, s.storeRow t o md i xs = ((s.writeBytes ((matrixBody o.desc).rowAddr t i)
      ((xs.zipIdx.map fun p => o.rounded t md i p.2 p.1).flatMap fun c => leBytes 4 c)).writeBytes ((matrixBody o.desc).scaleAddr t i) [], fl) := by
  have hrow : ∀ elem0, (encodeRow 0 (matrixBody o.desc).blkC (storeRc md.nebex (matrixBody o.desc).rc) md.ftz o.seed o.epoch elem0 xs).1 =
      (xs.zipIdx.map fun p => (roundFtz .f32 md.ftz (rmOfCode (storeRc md.nebex (matrixBody o.desc).rc)
        (draw o.seed o.epoch (elem0 + p.2) 0)) p.1).1).flatMap fun c => leBytes 4 c := fun elem0 => by
    unfold encodeRow packCodes
    dsimp only
    rw [if_neg (by decide), if_neg (by decide), List.map_map]
    rfl
  unfold State.storeRow MatrixBody.rowAddr MatrixBody.scaleAddr Op.rounded MatrixBody.elem
  dsimp only
  rw [hout, hrow]
  exact ⟨_, rfl⟩

theorem State.readNat_storeRow (hout : (matrixBody o.desc).out = 0) (s : State) (t i : Nat) (md : NumMode) {xs : List FVal} (hj : j < xs.length) :
    (s.storeRow t o md i xs).1.readNat ((matrixBody o.desc).rowAddr t i + 4 * j) 4 = o.rounded t md i j (xs.getD j .nan) := by
  obtain ⟨fl, hrow⟩ := s.storeRow_f32 hout t i md xs
  have hget : (xs.zipIdx.map fun p => o.rounded t md i p.2 p.1).getD j 0 = o.rounded t md i j (xs.getD j .nan) := by
    rw [List.getD_eq_getElem _ _ (by simpa using hj), List.getD_eq_getElem _ _ hj]
    simp
  have hnone : ∀ (w : State) a x, (w.writeBytes a []).readByte x = w.readByte x := fun w a x =>
    (w.fills_writeBytes (P := fun _ => False) a [] fun y hy hlt => by simp at hlt; omega).bytes x id
  rw [hrow]
  dsimp only
  rw [State.readNat, State.readBytes_congr (hnone _ _), ← State.readNat, State.readNat_row _ _ (by simpa using hj), hget]
  rw [hget]
  exact roundFtz_f32_lt _ _ _

/-- A row of an operation that neither accumulates nor applies a drain function goes to C as it is. -/
theorem State.deliverRow_plain (hacc : (matrixBody o.desc).accMode = 0) (hfn : (matrixBody o.desc).fn = 0) (s0 : State) (t : Nat) (md : NumMode)
    (acc : State × Nat) (i : Nat) (xs : List FVal) : (s0.deliverRow t o md acc i xs).1 = (acc.1.storeRow t o md i xs).1 := by
  have hc : (matrixBody o.desc).usesC = true := by
    rw [MatrixBody.usesC, hacc]
    rfl
  have hsame : ∀ z : List FVal, (xs.zipIdx.map fun p => drainApply (matrixBody o.desc).fn md.ftz p.1 (z.getD p.2 .nan)).map Prod.fst = xs := by
    intro z
    rw [hfn, List.map_map]
    exact List.zipIdx_map_fst 0 xs
  unfold State.deliverRow
  dsimp only
  rw [if_pos hc, hsame, hacc]
  rfl

/-- Elements of an FP32 C stand apart from its other rows. -/
theorem MatrixBody.not_inRow (hout : b.out = 0) {i' k x : Nat} (hne : i' ≠ i) (hj : j < b.n) (hk : k < 4) (hx : x = b.rowAddr t i + 4 * j + k) :
    ¬b.inRow t i' x := by
  have hrow : 4 * b.n ≤ rowBytes 0 b.n := by
    have h : b.n * 32 / 8 ≤ ceilDiv (b.n * 32) 8 := by unfold ceilDiv; omega
    have := h.trans (le_alignUp _)
    change 4 * b.n ≤ alignUp (ceilDiv (b.n * 32) 8) 64
    omega
  have hscale : scaleRowBytes b.out b.blkC b.n = 0 := by rw [hout]; rfl
  have hapart : i' * rowBytes 0 b.n + rowBytes 0 b.n ≤ i * rowBytes 0 b.n ∨ i * rowBytes 0 b.n + rowBytes 0 b.n ≤ i' * rowBytes 0 b.n := by
    rw [← Nat.succ_mul, ← Nat.succ_mul]
    obtain h | h := Nat.lt_or_gt_of_ne hne
    · exact .inl (Nat.mul_le_mul_right _ h)
    · exact .inr (Nat.mul_le_mul_right _ h)
  rw [MatrixBody.inRow, hscale]
  simp only [MatrixBody.rowAddr, tileAddr, hout] at hx ⊢
  omega

/-- Every element of an FP32 C that is neither accumulated nor drained through a function. -/
theorem State.readNat_deliverRows (hacc : (matrixBody o.desc).accMode = 0) (hfn : (matrixBody o.desc).fn = 0) (hout : (matrixBody o.desc).out = 0)
    (s : State) (t : Nat) (hi : i < (matrixBody o.desc).m) (hj : j < (matrixBody o.desc).n) :
    (s.deliverRows t o).1.readNat ((matrixBody o.desc).rowAddr t i + 4 * j) 4 =
      o.rounded t (s.numMode t) i j (((s.matrixRows t o).1.getD i []).getD j .nan) := by
  have hi' : i < (s.matrixRows t o).1.length := by rwa [s.length_matrixRows]
  have hget := List.getD_eq_getElem (s.matrixRows t o).1 [] hi'
  have hmem : ((s.matrixRows t o).1.getD i [], i) ∈ (s.matrixRows t o).1.zipIdx := by
    rw [hget]
    exact List.mk_mem_zipIdx_iff_getElem?.2 (List.getElem?_eq_getElem hi')
  have hlen : ((s.matrixRows t o).1.getD i []).length = (matrixBody o.desc).n := (State.row_of_mem hmem).2.1
  refine foldl_reads (get := fun w : State × Nat => w.1.readNat ((matrixBody o.desc).rowAddr t i + 4 * j) 4) hmem (fun w => ?_) (fun y hy hne w => ?_) _
  · rw [State.deliverRow_plain hacc hfn]
    exact State.readNat_storeRow hout w.1 t i _ (by rwa [hlen])
  · obtain ⟨-, hylen, hyrow⟩ := State.row_of_mem hy
    have hrow : y.2 ≠ i := fun h => hne (Prod.ext (by rw [hyrow, h]) h)
    have hfill := State.fills_storeRow (o := o) hylen w.1 t y.2 (s.numMode t)
    rw [State.deliverRow_plain hacc hfn, State.readNat, State.readNat]
    exact congrArg leNat (List.map_congr_left fun k hk =>
      hfill.bytes _ (MatrixBody.not_inRow hout hrow hj (List.mem_range.1 hk) rfl))

end

/-! ### The operation done -/

theorem State.matrixRun_eq (s : State) (t slot : Nat) (o : Op) : ∃ fl busy, s.matrixRun t slot o =
    (({ (s.deliverRows t o).1 with free := s.free + (matrixBody o.desc).m * (matrixBody o.desc).n }.raiseFlags t fl).bump .tileArrayBusy t 0 busy).modOp
      t slot fun p => { p with phase := .done, flags := p.flags ||| fl, fmt := (matrixBody o.desc).fmtA } := ⟨_, _, rfl⟩

/-- The operation done: its phase, and the bytes that its rows leave. -/
theorem State.Folding.run {p : Op} (h : s.Folding w t q slot o p) : let u := w.matrixRun t slot p
    ∃ p', u = { s with free := u.free, ctl := u.ctl, ctrs := u.ctrs, tiles := u.tiles, mem := u.mem } ∧ u.op t slot = some p' ∧
      p'.phase = .done ∧ p'.fmt = (matrixBody o.desc).fmtA ∧ u.ctrs = (s.consumeWaits o.desc).ctrs ∧
      ∀ x, u.readByte x = (w.deliverRows t p).1.readByte x := by
  obtain ⟨fl, busy, hrun⟩ := w.matrixRun_eq t slot p
  have hfill := (w.fills_deliverRows t p).frame
  obtain ⟨-, hctrs, -⟩ := h.left
  dsimp only
  rw [hrun]
  generalize (w.deliverRows t p).1 = d at hfill
  obtain ⟨v, hv, hvframe⟩ : ∃ v : State, v = ({ d with free := w.free + (matrixBody p.desc).m * (matrixBody p.desc).n }.raiseFlags t fl).bump
      .tileArrayBusy t 0 busy ∧ v = { d with free := v.free, ctl := v.ctl } := ⟨_, rfl, by
    refine (State.ctl_only_trans (State.setWord_eq _ _ _) (State.setWord_eq _ _ _)).trans ?_
    rfl⟩
  rw [← hv]
  have hop : v.op t slot = some p := by rw [State.op_of_tiles (u := v) (s := w) (by rw [hvframe, hfill]), h.op]
  obtain ⟨n, hmod⟩ := v.modOp_frame t slot fun p' => { p' with phase := .done, flags := p'.flags ||| fl, fmt := (matrixBody p.desc).fmtA }
  refine ⟨{ p with phase := .done, flags := p.flags ||| fl, fmt := (matrixBody p.desc).fmtA }, ?_, ?_, rfl, ?_, ?_, fun x => ?_⟩
  · rw [hmod, hvframe, hfill, h.frame]
  · rw [State.op_modOp, if_pos ⟨rfl, rfl⟩, hop]
    rfl
  · rw [h.desc]
  · rw [← hctrs, hmod, hvframe, hfill]
  · rw [State.readByte, hmod, State.readByte]
    exact congrArg (fun m : Memory => m.read x) (show v.mem = d.mem by rw [hvframe])

end Sys2Proof.Machine

section
open Sys2Proof Sys2Proof.Machine

theorem exec_matrixOp {s0 : State} {t q slot : Nat} {o : Op} {e : Ecc} (h : (s0.corrected e.ce).taking t q .fold [0] = some (slot, o)) :
    let w := (s0.corrected e.ce).folding t q slot o
    exec (.matrixOp t q e) s0 = .next (if (matrixBody o.desc).isNoop then w.modOp t slot fun o => { o with phase := .done }
      else match w.matrixErr t e.ue (matrixBody o.desc) with
        | some err => w.opErr t slot err
        | none => w.matrixRun t slot ((s0.corrected e.ce).foldOp t q slot o)) := by
  refine (congrArg Host.Outcome.next (State.matrixOp_of_taking h e.ue)).trans ?_
  rfl

theorem matrixOp_noop_results (s0 : State) (t q slot : Nat) (o : Op) (e : Ecc) : let s := s0.corrected e.ce
    s.taking t q .fold [0] = some (slot, o) → (matrixBody o.desc).isNoop = true →
    ∃ u p, exec (.matrixOp t q e) s0 = .next u ∧ u = { s with free := u.free, ctl := u.ctl, ctrs := u.ctrs, tiles := u.tiles } ∧
      u.op t slot = some p ∧ p.phase = .done ∧ p.desc = o.desc ∧ u.ctrs = (s.consumeWaits o.desc).ctrs ∧
      u.get .opqPosIssued t q = (s.get .opqPosIssued t q + 1) % 2 ^ 32 := by
  intro s htake hnoop
  have hexec := exec_matrixOp htake
  have hw := s.folding_folding t q slot o
  dsimp only at hexec
  rw [if_pos hnoop] at hexec
  generalize (s0.corrected e.ce).folding t q slot o = w at hexec hw
  obtain ⟨n, hmod⟩ := w.modOp_frame t slot fun o => { o with phase := .done }
  obtain ⟨-, hctrs, hissued⟩ := hw.left.modOp (f := fun o => { o with phase := .done }) fun _ => ⟨rfl, rfl, rfl⟩
  refine ⟨_, { s.foldOp t q slot o with phase := .done }, hexec, ?_, ?_, rfl, hw.desc, hctrs, hissued⟩
  · rw [hmod, hw.frame]
  · rw [State.op_modOp, if_pos ⟨rfl, rfl⟩, hw.op]
    rfl

theorem matrixOp_error_results (s0 : State) (t q slot : Nat) (o : Op) (e : Ecc) (err : MemErr) : let s := s0.corrected e.ce
    s.taking t q .fold [0] = some (slot, o) → (matrixBody o.desc).isNoop = false →
    s.matrixErr t e.ue (matrixBody o.desc) = some err →
    ∃ u p, exec (.matrixOp t q e) s0 = .next u ∧ u = { s with free := u.free, ctl := u.ctl, ctrs := u.ctrs, tiles := u.tiles } ∧
      u.op t slot = some p ∧ p.phase = .failed err.code.1 err.code.2 ∧ u.ctrs = (s.consumeWaits o.desc).ctrs := by
  intro s htake hnoop herr
  have hexec := exec_matrixOp htake
  have hw := s.folding_folding t q slot o
  dsimp only at hexec
  rw [hnoop, if_neg Bool.false_ne_true, hw.matrixErr, herr] at hexec
  exact ⟨_, (hw.opErr err).imp fun p hp => ⟨hexec, hp⟩⟩

theorem matrixOp_run_results (s0 : State) (t q slot : Nat) (o : Op) (e : Ecc) : let s := s0.corrected e.ce
    s.taking t q .fold [0] = some (slot, o) →
    let b := matrixBody o.desc
    let l := s.leave t q slot o .fold
    let rows := (l.1.matrixRows t l.2).1
    b.isNoop = false → s.matrixErr t e.ue b = none →
    ∃ u p, exec (.matrixOp t q e) s0 = .next u ∧ u = { s with free := u.free, ctl := u.ctl, ctrs := u.ctrs, tiles := u.tiles, mem := u.mem } ∧
      u.op t slot = some p ∧ p.phase = .done ∧ p.fmt = b.fmtA ∧ u.ctrs = (s.consumeWaits o.desc).ctrs ∧
      (b.accMode = 0 → b.out = 0 → b.fn = 0 → ∀ i < b.m, ∀ j < b.n,
        u.readNat (tileAddr t (b.cOff + i * rowBytes 0 b.n + 4 * j)) 4 =
          (roundFtz .f32 (s.numMode t).ftz (rmOfCode (storeRc (s.numMode t).nebex b.rc)
            (draw l.2.seed l.2.epoch ((if (s.numMode t).nebex then i * b.n else tileAddr t (b.cOff + i * rowBytes 0 b.n) * 8 / 32) + j) 0))
            ((rows.getD i []).getD j .nan)).1) ∧
      ∀ a, (b.usesC = true → a < tileAddr t b.cOff ∨ tileAddr t b.cOff + tensorBytes b.out b.blkC b.m b.n ≤ a) →
        (b.usesSlots = true → a < tileAddr t (slotAddr b.slot 0 0) ∨ tileAddr t (slotAddr (b.slot + b.slots) 0 0) ≤ a) →
        u.readByte a = s.readByte a := by
  intro s htake b l rows hnoop herr
  have hexec := exec_matrixOp htake
  have hw := s.folding_folding t q slot o
  dsimp only at hexec
  rw [hnoop, if_neg Bool.false_ne_true, hw.matrixErr, herr] at hexec
  obtain ⟨p, hframe, hop, hphase, hfmt, hctrs, hbytes⟩ := hw.run
  refine ⟨_, p, hexec, hframe, hop, hphase, hfmt, hctrs, fun hacc hout hfn i hi j hj => ?_, fun a hc hs => ?_⟩
  · have hread := State.readNat_deliverRows (o := s.foldOp t q slot o) hacc hfn hout (s.folding t q slot o) t hi hj
    rw [State.matrixRows_folding, hw.numMode] at hread
    have haddr : b.rowAddr t i + 4 * j = tileAddr t (b.cOff + i * rowBytes 0 b.n + 4 * j) := by
      rw [MatrixBody.rowAddr, hout, tileAddr, tileAddr]
      omega
    rw [State.readNat, State.readBytes_congr hbytes, ← State.readNat, ← haddr]
    exact hread
  · have hfill := (s.folding t q slot o).fills_deliverRows t (s.foldOp t q slot o)
    rw [hbytes, hfill.bytes a ?_, State.readByte, hw.frame, State.readByte]
    rintro (⟨huse, hle, hlt⟩ | ⟨huse, hle, hlt⟩)
    · have := hc huse
      change tileAddr t b.cOff ≤ a at hle
      change a < tileAddr t b.cOff + tensorBytes b.out b.blkC b.m b.n at hlt
      omega
    · have := hs huse
      change tileAddr t (slotAddr b.slot 0 0) ≤ a at hle
      change a < tileAddr t (slotAddr (b.slot + b.slots) 0 0) at hlt
      omega

/-- Settles O11: the empty shape, the operand that cannot be read, and the product. -/
theorem matrixOpRuns : Obligations.MatrixOpRuns := ⟨matrixOp_noop_results, matrixOp_error_results, matrixOp_run_results⟩

end
end

section
/-!
PROOFS. What the step driver's services change (R349 to R357): a served command, the loader, pauses, plans, configurations and what waits
for a boundary. One lemma for each operation, for O47 and O48.
-/

namespace Sys2Proof.Machine

variable {s u : State} {n q op : Nat}

/-! ### A command that is served -/

theorem State.word_accept_ne {x : Nat} (h : x ≠ Fld.sesCommands.addr 0 0) : (s.accept n).word x = s.word x :=
  (State.word_bump _ _ _ _ _ _).trans (if_neg h)

theorem State.get_accept_ne {f : Fld} {i j : Nat} (h : f.addr i j ≠ Fld.sesCommands.addr 0 0) : (s.accept n).get f i j = s.get f i j :=
  State.get_of_word (State.word_accept_ne h)

theorem State.command_of_serves (h : s.Serves n op) (c : Instr) (f : State → State) : s.command c n q op f = f (s.accept n) := by
  obtain ⟨hlive, hopened, hbusy, hserved⟩ := h
  have haccept : (s.accept n).notServed op ≠ true := by
    rw [show (s.accept n).notServed op = s.notServed op from rfl, hserved]
    decide
  have hserve : s.serve n q op f = f (s.accept n) :=
    (if_neg (by rw [hlive]; decide)).trans ((if_neg (by rw [hopened]; decide)).trans (if_neg haccept))
  exact (if_pos (by rw [hbusy]; rfl)).trans hserve

/-- The session that sent a command hears the answer, whatever the command did to other fields than the sessions. -/
theorem State.reply_of_serves (h : s.Serves n op) (hu : u.sessions = (s.accept n).sessions) (code : Nat) (body : List Byte) :
    u.reply n q op code body = { u with out := u.out ++ [.reply n op q code body] } := by
  refine if_pos ?_
  have hsession : u.session n = { s.session n with probes := 0 } := by
    rw [State.session, hu]
    exact smGet_smPut_self _ _ _ _
  rw [hsession]
  exact h.1

@[simp] theorem State.svc_reply (s : State) (n q op code : Nat) (body : List Byte) : (s.reply n q op code body).svc = s.svc := by
  unfold State.reply
  split <;> rfl

theorem State.next_of_reply {r : Host.Outcome State Fault Refusal} {w : State} {code : Nat} {body : List Byte} (h : s.Serves n op)
    (hr : r = .next (w.reply n q op code body)) (hw : w = u) (hu : u.sessions = (s.accept n).sessions) :
    r = .next { u with out := u.out ++ [.reply n op q code body] } := by
  rw [hr, hw, State.reply_of_serves h hu]

/-! ### Accesses in states that agree on the map -/

theorem State.mapped_congr (hcap : u.get .capMemoryScratchKib = s.get .capMemoryScratchKib) (hblend : u.blend = s.blend) (hpower : u.power = s.power)
    (x : Nat) : u.mapped x = s.mapped x := by
  simp only [State.mapped, hcap, State.regions, hblend, State.domainOn, hpower]

theorem State.firstUnmapped_congr (hcap : u.get .capMemoryScratchKib = s.get .capMemoryScratchKib) (hblend : u.blend = s.blend)
    (hpower : u.power = s.power) (a k : Nat) : u.firstUnmapped a k = s.firstUnmapped a k := by
  simp only [State.firstUnmapped, State.mapped_congr hcap hblend hpower]

theorem State.accessErr_congr (hcap : u.get .capMemoryScratchKib = s.get .capMemoryScratchKib) (hblend : u.blend = s.blend)
    (hpower : u.power = s.power) (hmem : u.mem = s.mem) (ue : List Nat) (a k : Nat) (w : Bool) : u.accessErr ue a k w = s.accessErr ue a k w := by
  have hpoisoned : u.isPoisoned = s.isPoisoned := funext fun b => by simp only [State.isPoisoned, State.regions, hblend, hmem]
  rw [State.accessErr, State.firstUnmapped_congr hcap hblend hpower, hcap, hpoisoned]
  rfl

theorem State.accessErr_accept (ue : List Nat) (a k : Nat) (w : Bool) : (s.accept n).accessErr ue a k w = s.accessErr ue a k w :=
  State.accessErr_congr (State.get_accept_ne (by decide)) rfl rfl rfl ue a k w

/-! ### What a fold reaches -/

/-- What the turn of `x` brings about and no other turn undoes holds at the end of the fold, if `I` does all along. -/
theorem foldl_reaches {α : Type} {I P : State → Prop} {f : State → α → State} {xs : List α} {x : α} (hx : x ∈ xs) (hs : I s)
    (keeps : ∀ u, ∀ y ∈ xs, I u → I (f u y)) (reach : ∀ u, I u → P (f u x)) (stays : ∀ u, ∀ y ∈ xs, P u → P (f u y)) : P (xs.foldl f s) := by
  induction xs generalizing s with
  | nil => exact absurd hx List.not_mem_nil
  | cons y ys ih =>
    have later : ∀ u, P u → P (ys.foldl f u) := fun u hu =>
      List.foldlRecOn (motive := P) ys f hu fun u hu y hy => stays u y (List.mem_cons_of_mem _ hy) hu
    rcases List.mem_cons.1 hx with rfl | hx
    · exact later _ (reach s hs)
    · exact ih hx (keeps s y List.mem_cons_self hs) (fun u z hz => keeps u z (List.mem_cons_of_mem _ hz))
        fun u z hz => stays u z (List.mem_cons_of_mem _ hz)

/-! ### The loader (R352) -/

/-- The loader changes the queue pairs, its own two lists and what goes to the port. -/
def State.Fetches (s u : State) : Prop :=
  ∃ x i k o, u = { s with qps := x, svc := { s.svc with inputs := i, asked := k }, out := s.out ++ o }

theorem State.askInput_fetches (h : s.Fetches u) (i : Nat) : s.Fetches (u.askInput i) := by
  obtain ⟨y, k, p, hp⟩ : ∃ y k p, u.askInput i = { u with qps := y, svc := { u.svc with asked := k }, out := u.out ++ [p] } := ⟨_, _, _, rfl⟩
  obtain ⟨x, is, ks, o, rfl⟩ := h
  exact ⟨y, is, k, o ++ [p], by rw [hp, ← List.append_assoc]⟩

theorem State.loaderFetch_fetches (s : State) : s.Fetches s.loaderFetch := by
  unfold State.loaderFetch
  dsimp only
  split
  · exact ⟨_, _, _, [], by rw [List.append_nil]⟩
  · exact List.foldlRecOn _ _ ⟨_, _, _, [], by rw [List.append_nil]⟩ fun u hu i _ => State.askInput_fetches hu i

theorem State.loaderOn_of_config (h : s.svc.config = none) : s.loaderOn = false := by
  rw [State.loaderOn, h]
  rfl

theorem State.loaderFetch_of_config (h : s.svc.config = none) : s.loaderFetch = s := by
  rw [State.loaderFetch, State.loaderOn_of_config h]
  rfl

theorem State.loaderFetch_of_state (h : s.svc.state ≠ 1) : s.loaderFetch = s :=
  if_pos (by simp [h])

theorem State.loaderFetch_of_plan (h : s.svc.plan = none) : s.loaderFetch = s :=
  if_pos (by simp [h])

/-! ### Pauses, plans, configurations -/

/-- The services once the step driver has paused or stopped. -/
def Svc.paused (v : Svc) (st reason : Nat) : Svc :=
  { v with state := st, reason := reason, pauseWanted := false, stopWanted := false, stall := false, lapse := false }

theorem State.pauseWith_frame (s : State) (st reason : Nat) : ∃ o, s.pauseWith st reason = { s with svc := s.svc.paused st reason, out := s.out ++ o } := by
  unfold State.pauseWith
  dsimp only
  split
  · exact ⟨[], by rw [List.append_nil]; rfl⟩
  · exact ⟨_, rfl⟩

/-- The services once a plan is in force, before the driver leaves NONE or STOPPED. -/
def Svc.planned (v : Svc) (p : Plan) : Svc :=
  { v with plan := some p, waiting := none, step := p.num 32 8, lossScale := p.num 12 1, cleanSteps := 0,
           inStep := false, fReleased := 0, bReleased := 0, work := [], counts := [], met := [], saves := [] }

/-- The services before the loader looks at a plan that takes effect. -/
def Svc.taken (v : Svc) (p : Plan) : Svc := if v.state = 0 ∨ v.state = 4 then (v.planned p).paused 3 0 else v.planned p

theorem State.takePlan_eq (s : State) (p : Plan) : ∃ o, s.takePlan p = State.loaderFetch { s with svc := s.svc.taken p, out := s.out ++ o } := by
  unfold State.takePlan Svc.taken
  dsimp only
  by_cases h : s.svc.state = 0 ∨ s.svc.state = 4
  · obtain ⟨o, ho⟩ := State.pauseWith_frame { s with svc := s.svc.planned p } 3 0
    refine ⟨o, congrArg State.loaderFetch ?_⟩
    rw [if_pos h, if_pos h]
    exact ho
  · refine ⟨[], congrArg State.loaderFetch ?_⟩
    rw [if_neg h, if_neg h, List.append_nil]
    rfl

/-- The services, their loader's lists apart, once a configuration record is in force. -/
def Svc.configured (v : Svc) (b : List Byte) : Svc :=
  { v with config := some b, newConfig := none, leaseRunning := cfgNum b 42 2 != 0 }

theorem State.takeConfig_frame (s : State) (b : List Byte) : ∃ x i k o,
    s.takeConfig b = { s with qps := x, svc := { s.svc.configured b with inputs := i, asked := k }, out := s.out ++ o } ∧
      (s.svc.state ≠ 1 ∨ s.svc.plan = none → o = []) := by
  have hstale : ∃ x, s.staleReads = { s with qps := x, svc := { s.svc with inputs := [], asked := [] } } := by
    unfold State.staleReads
    dsimp only
    split <;> exact ⟨_, rfl⟩
  obtain ⟨x, hx⟩ := hstale
  have htake : s.takeConfig b = State.loaderFetch { s with qps := x, svc := { s.svc.configured b with inputs := [], asked := [] } } := by
    unfold State.takeConfig
    rw [hx]
    rfl
  by_cases hidle : s.svc.state ≠ 1 ∨ s.svc.plan = none
  · refine ⟨x, [], [], [], ?_, fun _ => rfl⟩
    rw [htake, List.append_nil]
    exact hidle.elim (fun h => State.loaderFetch_of_state h) fun h => State.loaderFetch_of_plan h
  · obtain ⟨y, i, k, o, h⟩ := State.loaderFetch_fetches { s with qps := x, svc := { s.svc.configured b with inputs := [], asked := [] } }
    exact ⟨y, i, k, o, htake.trans h, fun h => absurd h hidle⟩

theorem State.takeWaiting_of_none (hn : s.svc.newConfig = none) (hw : s.svc.waiting = none) : s.takeWaiting = s := by
  simp only [State.takeWaiting, hn, hw, Option.elim_none]

/-- The services once STOP has taken effect. -/
def Svc.stopped (v : Svc) : Svc := { v with plan := none, inStep := false, work := [], counts := [], met := [], saves := [] }.paused 4 0

theorem State.stopNow_frame (s : State) : ∃ o, s.stopNow = { s with svc := s.svc.stopped, out := s.out ++ o } :=
  State.pauseWith_frame { s with svc := _ } 4 0

theorem State.svc_takePlan_of_stopped (h : s.svc.state = 4) (p : Plan) : (s.takePlan p).svc = (s.svc.planned p).paused 3 0 := by
  obtain ⟨o, ho⟩ := s.takePlan_eq p
  have htaken : s.svc.taken p = (s.svc.planned p).paused 3 0 := if_pos (.inr h)
  rw [ho, htaken, State.loaderFetch_of_state (by decide : (3 : Nat) ≠ 1)]

/-- The plan that waited for STOP takes effect, and the driver holds paused. -/
theorem State.stopNow_takeWaiting {p : Plan} (hw : s.svc.waiting = some p) :
    s.stopNow.takeWaiting.svc.plan = some p ∧ s.stopNow.takeWaiting.svc.waiting = none ∧ s.stopNow.takeWaiting.svc.state = 3 := by
  obtain ⟨o, ho⟩ := s.stopNow_frame
  have hwaits : s.stopNow.svc.waiting = some p ∧ s.stopNow.svc.state = 4 := by
    rw [ho]
    exact ⟨hw, rfl⟩
  have hconfig : (s.stopNow.svc.newConfig.elim s.stopNow s.stopNow.takeConfig).svc.waiting = some p ∧
      (s.stopNow.svc.newConfig.elim s.stopNow s.stopNow.takeConfig).svc.state = 4 := by
    cases s.stopNow.svc.newConfig with
    | none => exact hwaits
    | some b =>
      obtain ⟨x, i, k, o', h', _⟩ := s.stopNow.takeConfig_frame b
      rw [Option.elim_some, h']
      exact hwaits
  unfold State.takeWaiting
  dsimp only
  rw [hconfig.1, Option.elim_some, State.svc_takePlan_of_stopped hconfig.2]
  exact ⟨rfl, rfl, rfl⟩

end Sys2Proof.Machine
end

section
/-! PROOFS. O47: PLAN_LOAD, STEP_CTL, STEP_STATUS, LEASE and SVC_CONFIG (R193, R194, R349, R351, R352, R355, R357). -/

namespace Sys2Proof.Machine

variable {s : State} {n q : Nat}

/-! ### PLAN_LOAD -/

/-- The bytes of the plan at an address: its header alone where LAYERS is out of range. -/
def State.planLen (s : State) (addr : Nat) : Nat := if 65535 < s.readNat addr 4 then 64 else 64 + 32 * s.readNat addr 4

/-- Why the plan at an address cannot be read: its header first, then the whole. -/
def State.planErr (s : State) (addr : Nat) : Option MemErr :=
  (s.accessErr [] addr 64 false).orElse fun _ => s.accessErr [] addr (s.planLen addr) false

/-- The plan that PLAN_LOAD names. -/
def State.planAt (s : State) (addr report depth : Nat) (g : Graph) : Plan :=
  { bytes := s.readBytes addr (s.planLen addr), addr := addr, report := report, depth := depth, graph := g }

/-- What a plan that cannot be read does, and the code that it is answered with. -/
def State.planFault (s : State) (e : MemErr) : State × Nat :=
  match e with
  | .unmapped _ => (s, Code.xferUnmapped)
  | e => (s.noteErr e, Code.memUe)

theorem State.planRead_eq (s : State) (a k : Nat) : s.planRead a k = (s.accessErr [] a k false).elim (s, 0) s.planFault := by
  unfold State.planRead
  cases s.accessErr [] a k false with
  | none => rfl
  | some e => cases e <;> rfl

theorem State.planFault_code (s : State) (e : MemErr) : (s.planFault e).2 ≠ 0 := by
  cases e <;> simp [State.planFault, Code.xferUnmapped, Code.memUe]

theorem State.planLoad_of_err {addr : Nat} {e : MemErr} (h : s.planErr addr = some e) (report depth : Nat) (g : Graph) :
    s.planLoad n q addr report depth g = (s.planFault e).1.reply n q 0x0020 (s.planFault e).2 [] := by
  unfold State.planLoad
  dsimp only
  rw [State.planRead_eq, State.planRead_eq]
  cases hhead : s.accessErr [] addr 64 false with
  | some e' =>
    obtain rfl : e' = e := by simpa [State.planErr, hhead] using h
    exact if_pos (s.planFault_code e')
  | none =>
    have hall : s.accessErr [] addr (s.planLen addr) false = some e := by simpa [State.planErr, hhead] using h
    refine (if_neg (not_not.2 rfl)).trans ?_
    rw [← State.planLen, hall]
    exact if_pos (s.planFault_code e)

theorem State.planLoad_of_read {addr : Nat} (h : s.planErr addr = none) (report depth : Nat) (g : Graph) :
    s.planLoad n q addr report depth g = (if s.planCode (s.planAt addr report depth g) = 0 then s.acceptPlan (s.planAt addr report depth g) else s).reply
      n q 0x0020 (s.planCode (s.planAt addr report depth g)) [] := by
  have hhead : s.accessErr [] addr 64 false = none := by
    cases hc : s.accessErr [] addr 64 false with
    | none => rfl
    | some e => simp [State.planErr, hc] at h
  have hall : s.accessErr [] addr (s.planLen addr) false = none := by simpa [State.planErr, hhead] using h
  unfold State.planLoad
  dsimp only
  rw [State.planRead_eq, State.planRead_eq, ← State.planLen, hhead, hall]
  exact (if_neg (not_not.2 rfl)).trans (if_neg (not_not.2 rfl))

theorem State.seedTiles_frame (s : State) (p : Plan) : ∃ c : SMap W64, s.seedTiles p = { s with ctl := c } := by
  refine List.foldlRecOn (motive := fun u => ∃ c : SMap W64, u = { s with ctl := c }) _ _ ⟨s.ctl, rfl⟩ fun u hu t _ => ?_
  obtain ⟨c, rfl⟩ := hu
  exact ⟨_, rfl⟩

/-- SEED stands in every tile that is on. -/
theorem State.word_seedTiles {t : Nat} (ht : t < s.get .capComputeTiles) (hon : s.domainOn (domTile t) = true) (p : Plan) :
    (s.seedTiles p).word (Fld.tileNumSeed.addr t 0) = BitVec.ofNat 64 (p.num 24 8) := by
  refine foldl_reaches (I := fun _ => True) (P := fun u => u.word (Fld.tileNumSeed.addr t 0) = BitVec.ofNat 64 (p.num 24 8))
    (List.mem_filter.2 ⟨List.mem_range.2 ht, hon⟩) trivial (fun _ _ _ _ => trivial) (fun u _ => ?_) fun u y _ hu => ?_
  · exact (State.word_setWord _ _ _ _).trans (if_pos rfl)
  · rw [State.word_setWord]
    split
    · rfl
    · exact hu

/-- A plan accepted between steps: what the services hold, and what else has changed. -/
theorem State.acceptPlan_between (s : State) (p : Plan) (h : s.svc.inStep = false) : ∃ x i k o,
    s.acceptPlan p = { s.seedTiles p with qps := x, svc := { s.svc.taken p with inputs := i, asked := k }, out := s.out ++ o } ∧
      (s.svc.config = none → x = s.qps) := by
  obtain ⟨c, hc⟩ := s.seedTiles_frame p
  have hstep : ¬ (s.seedTiles p).svc.inStep = true := by
    rw [hc]
    exact Bool.eq_false_iff.1 h
  obtain ⟨o, ho⟩ := (s.seedTiles p).takePlan_eq p
  have haccept : s.acceptPlan p = State.loaderFetch { s.seedTiles p with svc := s.svc.taken p, out := s.out ++ o } := by
    refine (if_neg hstep).trans (ho.trans ?_)
    rw [hc]
  obtain ⟨x, i, k, o', hfetch⟩ := State.loaderFetch_fetches { s.seedTiles p with svc := s.svc.taken p, out := s.out ++ o }
  by_cases hconfig : s.svc.config = none
  · refine ⟨s.qps, (s.svc.taken p).inputs, (s.svc.taken p).asked, o, ?_, fun _ => rfl⟩
    have htaken : (s.svc.taken p).config = none := by
      unfold Svc.taken
      split <;> exact hconfig
    rw [haccept, State.loaderFetch_of_config htaken, hc]
  · refine ⟨x, i, k, o ++ o', ?_, fun h => absurd h hconfig⟩
    rw [haccept, hfetch, List.append_assoc]

/-- Why the command count does not change whether a plan can be read. -/
theorem State.planErr_accept (s : State) (n addr : Nat) : (s.accept n).planErr addr = s.planErr addr := by
  rw [State.planErr, State.accessErr_accept, State.accessErr_accept]
  rfl

theorem exec_planLoad_of_err {addr : Nat} {e : MemErr} (hs : s.Serves n 0x0020) (he : s.planErr addr = some e) (report depth : Nat) (g : Graph) :
    exec (.planLoad n q addr report depth g) s =
      .next (((s.accept n).planFault e).1.reply n q 0x0020 ((s.accept n).planFault e).2 []) :=
  congrArg Host.Outcome.next
    ((State.command_of_serves hs _ _).trans (State.planLoad_of_err ((s.planErr_accept n addr).trans he) report depth g))

section
variable {addr : Nat} (hs : s.Serves n 0x0020) (hread : s.planErr addr = none) (report depth : Nat) (g : Graph)
include hs hread

theorem exec_planLoad_of_read : exec (.planLoad n q addr report depth g) s = .next
    ((if (s.accept n).planCode (s.planAt addr report depth g) = 0 then (s.accept n).acceptPlan (s.planAt addr report depth g) else s.accept n).reply
      n q 0x0020 ((s.accept n).planCode (s.planAt addr report depth g)) []) :=
  congrArg Host.Outcome.next
    ((State.command_of_serves hs _ _).trans (State.planLoad_of_read ((s.planErr_accept n addr).trans hread) report depth g))

theorem planLoad_refused_results (hcode : (s.accept n).planCode (s.planAt addr report depth g) ≠ 0) :
    exec (.planLoad n q addr report depth g) s = .next { s.accept n with
      out := s.out ++ [.reply n 0x0020 q ((s.accept n).planCode (s.planAt addr report depth g)) []] } :=
  State.next_of_reply hs (exec_planLoad_of_read hs hread report depth g) (if_neg hcode) rfl

/-- The answer to a plan that checks. -/
theorem exec_planLoad_of_code (hcode : (s.accept n).planCode (s.planAt addr report depth g) = 0) :
    exec (.planLoad n q addr report depth g) s = .next (((s.accept n).acceptPlan (s.planAt addr report depth g)).reply n q 0x0020 0 []) := by
  rw [exec_planLoad_of_read hs hread, if_pos hcode, hcode]

end

/-- The services, as a plan that takes effect finds them. -/
theorem Svc.taken_fields (v : Svc) (p : Plan) : (v.taken p).plan = some p ∧ (v.taken p).waiting = none ∧ (v.taken p).step = p.num 32 8 ∧
    (v.taken p).lossScale = p.num 12 1 ∧ (v.taken p).cleanSteps = 0 ∧ (v.taken p).fReleased = 0 ∧ (v.taken p).bReleased = 0 ∧
    (v.taken p).work = [] ∧ (v.taken p).saves = [] ∧ (v.taken p).state = (if v.state = 0 ∨ v.state = 4 then 3 else v.state) := by
  unfold Svc.taken
  split <;> exact ⟨rfl, rfl, rfl, rfl, rfl, rfl, rfl, rfl, rfl, rfl⟩

theorem planLoad_accepted_results {p : Plan} {r : Host.Outcome State Fault Refusal} (hs : s.Serves n 0x0020)
    (hexec : r = .next (((s.accept n).acceptPlan p).reply n q 0x0020 0 [])) : ∃ u, r = .next u ∧
      (∀ t, t < 64 → t < s.get .capComputeTiles → s.domainOn (domTile t) = true → u.word (Fld.tileNumSeed.addr t 0) = BitVec.ofNat 64 (p.num 24 8)) ∧
      (s.svc.inStep = true → u = { s.accept n with ctl := u.ctl, svc := { s.svc with waiting := some p }, out := s.out ++ [.reply n 0x0020 q 0 []] }) ∧
      (s.svc.inStep = false → u.svc.plan = some p ∧ u.svc.waiting = none ∧ u.svc.step = p.num 32 8 ∧ u.svc.lossScale = p.num 12 1 ∧ u.svc.cleanSteps = 0 ∧
        u.svc.fReleased = 0 ∧ u.svc.bReleased = 0 ∧ u.svc.work = [] ∧ u.svc.saves = [] ∧
        u.svc.state = (if s.svc.state = 0 ∨ s.svc.state = 4 then 3 else s.svc.state) ∧
        (s.svc.config = none → ∃ ev, u = { s.accept n with ctl := u.ctl, svc := u.svc, out := s.out ++ ev ++ [.reply n 0x0020 q 0 []] })) := by
  have hseed : ∀ t, t < 64 → t < s.get .capComputeTiles → s.domainOn (domTile t) = true →
      ((s.accept n).seedTiles p).word (Fld.tileNumSeed.addr t 0) = BitVec.ofNat 64 (p.num 24 8) := fun t _ ht hon => by
    have hcap : (s.accept n).get .capComputeTiles = s.get .capComputeTiles := State.get_accept_ne (by decide)
    exact State.word_seedTiles (s := s.accept n) (hcap ▸ ht) hon p
  obtain ⟨c, hc⟩ := (s.accept n).seedTiles_frame p
  by_cases hstep : s.svc.inStep = true
  · have haccept : (s.accept n).acceptPlan p = { (s.accept n).seedTiles p with svc := { s.svc with waiting := some p } } := by
      unfold State.acceptPlan
      rw [hc]
      exact if_pos hstep
    have hu := State.next_of_reply hs hexec haccept (by rw [hc])
    refine ⟨_, hu, hseed, fun _ => ?_, fun h => absurd hstep (Bool.eq_false_iff.1 h)⟩
    rw [hc]
    rfl
  · obtain ⟨x, i, k, o, haccept, hqps⟩ := (s.accept n).acceptPlan_between p (Bool.eq_false_iff.2 hstep)
    have hu := State.next_of_reply hs hexec haccept (by rw [hc])
    obtain ⟨h1, h2, h3, h4, h5, h6, h7, h8, h9, hstate⟩ := s.svc.taken_fields p
    refine ⟨_, hu, hseed, fun h => absurd h hstep, fun _ => ⟨h1, h2, h3, h4, h5, h6, h7, h8, h9, hstate, fun hconfig => ⟨o, ?_⟩⟩⟩
    rw [hqps hconfig, hc]
    rfl

theorem planLoad_results (s : State) (n q addr report depth : Nat) (g : Graph) (hs : s.Serves n 0x0020) :
    let a := s.accept n
    let c := Instr.planLoad n q addr report depth g
    let layers := s.readNat addr 4
    let len := if 65535 < layers then 64 else 64 + 32 * layers
    let p : Plan := { bytes := s.readBytes addr len, addr := addr, report := report, depth := depth, graph := g }
    let err := (s.accessErr [] addr 64 false).orElse fun _ => s.accessErr [] addr len false
    (∀ y, err = some (.unmapped y) → exec c s = .next { a with out := s.out ++ [.reply n 0x0020 q Code.xferUnmapped []] }) ∧
    (∀ e, err = some e → (∀ y, e ≠ .unmapped y) → ∃ u, exec c s = .next u ∧ u = { a with ctl := u.ctl, out := s.out ++ [.reply n 0x0020 q Code.memUe []] }) ∧
    (err = none → a.planCode p ≠ 0 → exec c s = .next { a with out := s.out ++ [.reply n 0x0020 q (a.planCode p) []] }) ∧
    (err = none → a.planCode p = 0 → ∃ u, exec c s = .next u ∧
      (∀ t, t < 64 → t < s.get .capComputeTiles → s.domainOn (domTile t) = true → u.word (Fld.tileNumSeed.addr t 0) = BitVec.ofNat 64 (p.num 24 8)) ∧
      (s.svc.inStep = true → u = { a with ctl := u.ctl, svc := { s.svc with waiting := some p }, out := s.out ++ [.reply n 0x0020 q 0 []] }) ∧
      (s.svc.inStep = false → u.svc.plan = some p ∧ u.svc.waiting = none ∧ u.svc.step = p.num 32 8 ∧ u.svc.lossScale = p.num 12 1 ∧ u.svc.cleanSteps = 0 ∧
        u.svc.fReleased = 0 ∧ u.svc.bReleased = 0 ∧ u.svc.work = [] ∧ u.svc.saves = [] ∧
        u.svc.state = (if s.svc.state = 0 ∨ s.svc.state = 4 then 3 else s.svc.state) ∧
        (s.svc.config = none → ∃ ev, u = { a with ctl := u.ctl, svc := u.svc, out := s.out ++ ev ++ [.reply n 0x0020 q 0 []] }))) := by
  refine ⟨fun y he => ?_, fun e he hother => ?_, fun hread hcode => planLoad_refused_results hs hread report depth g hcode,
    fun hread hcode => planLoad_accepted_results hs (exec_planLoad_of_code hs hread report depth g hcode)⟩
  · exact State.next_of_reply hs (exec_planLoad_of_err hs he report depth g) rfl rfl
  · have hfault : (s.accept n).planFault e = ((s.accept n).noteErr e, Code.memUe) := by
      cases e with
      | unmapped y => exact absurd rfl (hother y)
      | _ => rfl
    obtain ⟨k, hk⟩ := (s.accept n).noteErr_frame e
    have hexec := exec_planLoad_of_err (q := q) hs he report depth g
    rw [hfault] at hexec
    exact ⟨_, State.next_of_reply hs hexec hk rfl, rfl⟩

/-! ### STEP_CTL -/

/-- The services once RUN has been asked for `k` steps. -/
def Svc.running (v : Svc) (k : Nat) : Svc :=
  { v with state := if v.lapse then 2 else 1, stepsLeft := if k = 0 then none else some k, pauseWanted := false, stopWanted := false, stall := false }

theorem State.run_of_plan (h : s.svc.plan ≠ none) (k : Nat) : s.run k = State.loaderFetch { s with svc := s.svc.running k } :=
  if_neg fun hn => h (Option.isNone_iff_eq_none.1 hn)

/-- STOP between steps takes effect at once. -/
theorem State.stop_of_idle (h : s.svc.inStep = false ∨ (s.svc.state ≠ 1 ∧ s.svc.state ≠ 2)) (hplan : s.svc.plan ≠ none) :
    s.stop = s.stopNow.takeWaiting := by
  refine (if_neg fun hn => hplan (Option.isNone_iff_eq_none.1 hn)).trans (if_neg ?_)
  rw [Bool.and_eq_true, Bool.or_eq_true, beq_iff_eq, beq_iff_eq]
  rintro ⟨hin, hstate⟩
  exact h.elim (fun hout => absurd hin (Bool.eq_false_iff.1 hout)) fun hidle => hstate.elim hidle.1 hidle.2

theorem stepCtl_results (s : State) (n q : Nat) (hs : s.Serves n 0x0021) :
    let a := s.accept n
    let done := fun (c : Instr) (v : Svc) => ∃ u ev, exec c s = .next u ∧ u = { a with svc := v, out := s.out ++ ev ++ [.reply n 0x0021 q 0 []] }
    (s.svc.plan = none → (∀ k, done (.stepRun n q k) s.svc) ∧ done (.stepStop n q) s.svc) ∧
    (s.svc.plan ≠ none → s.svc.config = none →
      ∀ k, done (.stepRun n q k) { s.svc with state := if s.svc.lapse then 2 else 1, stepsLeft := if k = 0 then none else some k, pauseWanted := false,
                                              stopWanted := false, stall := false }) ∧
    (s.svc.plan ≠ none → ∀ k, ∃ u, exec (.stepRun n q k) s = .next u ∧ u.svc.state = (if s.svc.lapse then 2 else 1) ∧
      u.svc.stepsLeft = (if k = 0 then none else some k) ∧ u.svc.stall = false ∧ u.svc.plan = s.svc.plan ∧ u.svc.step = s.svc.step ∧ u.mem = s.mem) ∧
    (s.svc.state = 1 ∨ s.svc.state = 2 →
      (s.svc.inStep = true ∨ s.svc.lapse = true → done (.stepPause n q) { s.svc with state := 2, pauseWanted := true }) ∧
      (s.svc.inStep = false → s.svc.lapse = false →
        done (.stepPause n q) { s.svc with state := 3, reason := 0, pauseWanted := false, stopWanted := false, stall := false, lapse := false }) ∧
      (s.svc.inStep = true → s.svc.plan ≠ none → done (.stepStop n q) { s.svc with state := 2, stopWanted := true })) ∧
    (s.svc.state ≠ 1 → s.svc.state ≠ 2 → done (.stepPause n q) s.svc) ∧
    (s.svc.inStep = false ∨ (s.svc.state ≠ 1 ∧ s.svc.state ≠ 2) → s.svc.plan ≠ none →
      (s.svc.waiting = none → s.svc.newConfig = none →
        done (.stepStop n q) { s.svc with plan := none, inStep := false, work := [], counts := [], met := [], saves := [], state := 4, reason := 0,
                                          pauseWanted := false, stopWanted := false, stall := false, lapse := false }) ∧
      (∀ p, s.svc.waiting = some p → ∃ u, exec (.stepStop n q) s = .next u ∧ u.svc.plan = some p ∧ u.svc.waiting = none ∧ u.svc.state = 3)) := by
  intro a done
  have hrun : ∀ k, exec (.stepRun n q k) s = .next ((a.run k).reply n q 0x0021 0 []) := fun k =>
    congrArg Host.Outcome.next (State.command_of_serves hs _ _)
  have hpause : exec (.stepPause n q) s = .next (a.pause.reply n q 0x0021 0 []) := congrArg Host.Outcome.next (State.command_of_serves hs _ _)
  have hstop : exec (.stepStop n q) s = .next (a.stop.reply n q 0x0021 0 []) := congrArg Host.Outcome.next (State.command_of_serves hs _ _)
  have answers : ∀ {c : Instr} {w : State} {v : Svc} {o : List Output}, exec c s = .next (w.reply n q 0x0021 0 []) →
      w = { a with svc := v, out := s.out ++ o } → done c v := fun {c w v o} hc hw => ⟨_, o, State.next_of_reply hs hc hw rfl, rfl⟩
  have keeps : ∀ {w : State}, w = a → w = { a with svc := s.svc, out := s.out ++ [] } := fun {w} h => by
    rw [List.append_nil]
    exact h
  refine ⟨fun hplan => ⟨fun k => ?_, ?_⟩, fun hplan hconfig k => ?_, fun hplan k => ?_, fun hstate => ⟨fun hin => ?_, fun hin hlapse => ?_, fun hin hplan => ?_⟩,
    fun h1 h2 => ?_, fun hidle hplan => ⟨fun hw hc => ?_, fun p hw => ?_⟩⟩
  · exact answers (hrun k) (keeps (if_pos (Option.isNone_iff_eq_none.2 hplan)))
  · exact answers hstop (keeps (if_pos (Option.isNone_iff_eq_none.2 hplan)))
  · refine answers (o := []) (hrun k) ?_
    rw [State.run_of_plan (s := a) hplan, List.append_nil]
    exact State.loaderFetch_of_config (s := { a with svc := s.svc.running k }) hconfig
  · obtain ⟨x, i, w, o, hfetch⟩ := State.loaderFetch_fetches { a with svc := s.svc.running k }
    exact ⟨_, State.next_of_reply hs (hrun k) ((State.run_of_plan (s := a) hplan k).trans hfetch) rfl, rfl, rfl, rfl, rfl, rfl, rfl⟩
  · refine answers (o := []) hpause ((if_neg fun h => ?_).trans ((if_pos ?_).trans ?_))
    · exact hstate.elim h.1 h.2
    · rw [Bool.or_eq_true]
      exact hin
    · rw [List.append_nil]
      rfl
  · obtain ⟨o, ho⟩ := a.pauseWith_frame 3 0
    refine answers (o := o) hpause ((if_neg fun h => ?_).trans ((if_neg ?_).trans ho))
    · exact hstate.elim h.1 h.2
    · rw [show a.svc = s.svc from rfl, hin, hlapse]
      decide
  · refine answers (o := []) hstop ((if_neg ?_).trans ((if_pos ?_).trans ?_))
    · exact fun h => hplan (Option.isNone_iff_eq_none.1 h)
    · rw [show a.svc = s.svc from rfl, hin, Bool.true_and, Bool.or_eq_true, beq_iff_eq, beq_iff_eq]
      exact hstate
    · rw [List.append_nil]
      rfl
  · exact answers hpause (keeps (if_pos ⟨h1, h2⟩))
  · obtain ⟨o, ho⟩ := a.stopNow_frame
    refine answers (o := o) hstop ((State.stop_of_idle (s := a) hidle hplan).trans ?_)
    rw [State.takeWaiting_of_none (by rw [ho]; exact hc) (by rw [ho]; exact hw), ho]
    rfl
  · refine ⟨_, hstop, ?_⟩
    rw [State.svc_reply, State.stop_of_idle (s := a) hidle hplan]
    exact State.stopNow_takeWaiting hw

/-! ### STEP_STATUS, LEASE, SVC_CONFIG -/

/-- The caps that STEP_STATUS gives are read from registers that the count of the command does not touch. -/
theorem State.memberCap_accept (s : State) (n : Nat) : (s.accept n).memberCap = s.memberCap := by
  have hprofile : (s.accept n).get .pwrCtlProfile = s.get .pwrCtlProfile := State.get_accept_ne (by decide)
  have hcap : (s.accept n).capInForce = s.capInForce := by
    have hw : (s.accept n).get .pwrCapCapW = s.get .pwrCapCapW := State.get_accept_ne (by decide)
    have hsrc : (s.accept n).get .pwrCtlEnvSrc = s.get .pwrCtlEnvSrc := State.get_accept_ne (by decide)
    have henv : (s.accept n).get .pwrEnvelopeW = s.get .pwrEnvelopeW := State.get_accept_ne (by decide)
    rw [State.capInForce, State.envelope, hprofile, hw, hsrc, henv]
    rfl
  have hflags : (s.accept n).capFlags = s.capFlags := by
    rw [State.capFlags, State.index, State.pointOf, State.dutyOf, hprofile]
    rfl
  funext dev
  rw [State.memberCap, hcap, hflags]
  rfl

theorem services_results (s : State) (n q : Nat) :
    let a := s.accept n
    (s.Serves n 0x0022 →
      let devs := s.svc.plan.elim [] fun p => s.ringOf p.group
      exec (.stepStatus n q) s = .next { a with free := s.free + 1, out := s.out ++ [.reply n 0x0022 q 0 (leBytes 1 s.svc.state ++ leBytes 1 0 ++ leBytes 2 s.svc.reason ++
        leBytes 4 s.svc.skipped ++ leBytes 8 s.svc.shown ++ leBytes 4 s.leaseLeft ++ leBytes 4 devs.length ++ devs.flatMap s.memberCap)] }) ∧
    (s.Serves n 0x0023 → exec (.lease n q) s = .next { a with svc := { s.svc with leaseRunning := s.cfg 42 2 != 0 }, out := s.out ++ [.reply n 0x0023 q 0 (leBytes 4 (s.cfg 42 2))] }) ∧
    (s.Serves n 0x0024 → ∀ b : List Byte,
      (b.length ≠ 96 → exec (.svcConfig n q b) s = .next { a with out := s.out ++ [.reply n 0x0024 q Code.sesLength []] }) ∧
      (b.length = 96 → configOk b = false → exec (.svcConfig n q b) s = .next { a with out := s.out ++ [.reply n 0x0024 q Code.svcConfigRange []] }) ∧
      (b.length = 96 → configOk b = true → s.svc.inStep = true → ∃ u, exec (.svcConfig n q b) s = .next u ∧
        u = { a with svc := u.svc, out := s.out ++ [.reply n 0x0024 q 0 []] } ∧ u.svc.newConfig = some b ∧ u.svc.config = s.svc.config) ∧
      (b.length = 96 → configOk b = true → s.svc.inStep = false → ∃ u sent, exec (.svcConfig n q b) s = .next u ∧
        u = { a with svc := u.svc, qps := u.qps, out := s.out ++ sent ++ [.reply n 0x0024 q 0 []] } ∧ u.svc.newConfig = none ∧ u.svc.config = some b ∧
        u.svc.leaseRunning = (cfgNum b 42 2 != 0) ∧ (s.svc.state ≠ 1 → sent = []))) := by
  intro a
  refine ⟨fun hs => ?_, fun hs => ?_, fun hs b => ?_⟩
  · have hexec : exec (.stepStatus n q) s = .next (a.stepStatus n q) := congrArg Host.Outcome.next (State.command_of_serves hs _ _)
    unfold State.stepStatus at hexec
    rw [State.memberCap_accept] at hexec
    exact State.next_of_reply hs hexec rfl rfl
  · have hexec : exec (.lease n q) s = .next (a.leaseRestart.reply n q 0x0023 0 (leBytes 4 (a.cfg 42 2))) :=
      congrArg Host.Outcome.next (State.command_of_serves hs _ _)
    exact State.next_of_reply hs hexec rfl rfl
  · have hexec : exec (.svcConfig n q b) s = .next (a.svcConfig n q b) := congrArg Host.Outcome.next (State.command_of_serves hs _ _)
    refine ⟨fun h => ?_, fun h hok => ?_, fun h hok hin => ?_, fun h hok hin => ?_⟩
    · exact State.next_of_reply hs (hexec.trans (congrArg Host.Outcome.next (if_pos h))) rfl rfl
    · have hbad : a.svcConfig n q b = a.reply n q 0x0024 Code.svcConfigRange [] := (if_neg (not_not.2 h)).trans (if_pos (by rw [hok]; rfl))
      exact State.next_of_reply hs (hexec.trans (congrArg Host.Outcome.next hbad)) rfl rfl
    · have hwait : a.svcConfig n q b = (State.leaseRestart { a with svc := { s.svc with newConfig := some b } }).reply n q 0x0024 0 [] :=
        (if_neg (not_not.2 h)).trans ((if_neg (by rw [hok]; decide)).trans (if_pos hin))
      exact ⟨_, State.next_of_reply hs (hexec.trans (congrArg Host.Outcome.next hwait)) rfl rfl, rfl, rfl, rfl⟩
    · have hnow : a.svcConfig n q b = (a.takeConfig b).reply n q 0x0024 0 [] :=
        (if_neg (not_not.2 h)).trans ((if_neg (by rw [hok]; decide)).trans (if_neg (Bool.eq_false_iff.1 hin)))
      obtain ⟨x, i, k, o, htake, hidle⟩ := a.takeConfig_frame b
      exact ⟨_, o, State.next_of_reply hs (hexec.trans (congrArg Host.Outcome.next hnow)) htake rfl, rfl, rfl, rfl, rfl, fun h1 => hidle (.inl h1)⟩

end Sys2Proof.Machine

section
open Sys2Proof Sys2Proof.Machine

/-- Settles O47: PLAN_LOAD, STEP_CTL and the three commands that answer with what is in force. -/
theorem stepDriverCommands : Obligations.StepDriverCommands := ⟨planLoad_results, stepCtl_results, services_results⟩

end
end

section
/-!
PROOFS. O48: what the step driver leaves alone as it goes on and as a step ends: the sessions, what went to the port, and the services but
for the released work, the counts and saves, the flushes and the reports. A lemma `Drives.f` for each operation `f` of which `drive` and
`stepWork` are made.
-/

namespace Sys2Proof.Machine

/-- The services without what the driver changes as it goes on. -/
def Svc.steady (v : Svc) : Svc := { v with work := [], counts := [], saves := [], folds := [], holds := [], reports := [] }

/-- A report but for its counts. -/
def StepReport.head (r : StepReport) : Plan × Nat × Bool := (r.plan, r.step, r.skip)

/-- What `t` has of `s` once the driver has gone on. With `c` no report is written, and flushes that begin are those of the present step. -/
structure Drives (c : Bool) (s t : State) : Prop where
  sessions : t.sessions = s.sessions
  out : s.out <+: t.out
  steady : t.svc.steady = s.svc.steady
  reports : c = true → t.svc.reports.map StepReport.head = s.svc.reports.map StepReport.head
  folds : c = true → ∀ f ∈ t.svc.folds, f.step = s.svc.step ∨ ∃ g ∈ s.svc.folds, g.step = f.step

/-- The fields of the state that `Drives` speaks of. -/
def State.driven (s : State) : SMap Session × List Output × Svc × List StepReport × List Fold :=
  (s.sessions, s.out, s.svc.steady, s.svc.reports, s.svc.folds)

section
variable {c : Bool} {s₀ s t : State}

theorem Drives.refl (s : State) : Drives c s s := ⟨rfl, List.prefix_rfl, rfl, fun _ => rfl, fun _ f hf => .inr ⟨f, hf, rfl⟩⟩

theorem Drives.step (hs : Drives c s t) : t.svc.step = s.svc.step := by
  have h := congrArg Svc.step hs.steady
  exact h

theorem Drives.trans (hs : Drives c s₀ s) (ht : Drives c s t) : Drives c s₀ t where
  sessions := ht.sessions.trans hs.sessions
  out := hs.out.trans ht.out
  steady := ht.steady.trans hs.steady
  reports hc := (ht.reports hc).trans (hs.reports hc)
  folds hc f hf := by
    rcases ht.folds hc f hf with h | ⟨g, hg, h⟩
    · exact .inl (h.trans hs.step)
    · exact (hs.folds hc g hg).imp h.symm.trans fun ⟨g', hg', h'⟩ => ⟨g', hg', h'.trans h⟩

theorem Drives.ite {a b : State} {p : Prop} [Decidable p] (ha : Drives c s₀ a) (hb : Drives c s₀ b) : Drives c s₀ (if p then a else b) := by
  split <;> assumption

theorem Drives.foldl {α : Type} {f : State → α → State} {xs : List α} (hs : Drives c s₀ s) (k : ∀ u x, Drives c s₀ u → Drives c s₀ (f u x)) :
    Drives c s₀ (xs.foldl f s) :=
  List.foldlRecOn (motive := Drives c s₀) xs f hs fun u hu x _ => k u x hu

theorem Drives.ite_fst {β : Type} {a b : State × β} {p : Prop} [Decidable p] (ha : Drives c s₀ a.1) (hb : Drives c s₀ b.1) :
    Drives c s₀ (if p then a else b).1 := by
  split <;> assumption

theorem Drives.pair {β : Type} {b : β} (hs : Drives c s₀ s) : Drives c s₀ (s, b).1 := hs

theorem Drives.foldl_fst {α β : Type} {f : State × β → α → State × β} {xs : List α} {a : State × β} (hs : Drives c s₀ a.1)
    (k : ∀ u x, Drives c s₀ u.1 → Drives c s₀ (f u x).1) : Drives c s₀ (xs.foldl f a).1 :=
  List.foldlRecOn (motive := fun u => Drives c s₀ u.1) xs f hs fun u hu x _ => k u x hu

/-- An update of none of the fields that `Drives` speaks of. -/
theorem Drives.upd (hs : Drives c s₀ s) (h : t.driven = s.driven) : Drives c s₀ t := by
  simp only [State.driven, Prod.mk.injEq] at h
  obtain ⟨hsessions, hout, hsteady, hreports, hfolds⟩ := h
  refine hs.trans ⟨hsessions, hout ▸ List.prefix_rfl, hsteady, fun _ => by rw [hreports], fun _ f hf => .inr ⟨f, hfolds ▸ hf, rfl⟩⟩

/-- The flushes under way changed: each goes on, or is one of the present step. -/
theorem Drives.setFolds {fs : List Fold} {hold} (hs : Drives c s₀ s)
    (h : ∀ f ∈ fs, f.step = s.svc.step ∨ ∃ g ∈ s.svc.folds, g.step = f.step) :
    Drives c s₀ { s with svc := { s.svc with folds := fs, holds := hold } } :=
  hs.trans ⟨rfl, List.prefix_rfl, rfl, fun _ => rfl, fun _ => h⟩

/-! ### Registers, memory, the log -/

theorem Drives.setWord {a v} (hs : Drives c s₀ s) : Drives c s₀ (s.setWord a v) := hs.upd rfl
theorem Drives.set {f i j v} (hs : Drives c s₀ s) : Drives c s₀ (s.set f i j v) := .setWord hs
theorem Drives.bump {f i j k} (hs : Drives c s₀ s) : Drives c s₀ (s.bump f i j k) := .setWord hs
theorem Drives.tick (hs : Drives c s₀ s) : Drives c s₀ s.tick := hs.upd rfl
theorem Drives.setFree {k} (hs : Drives c s₀ s) : Drives c s₀ { s with free := k } := hs.upd rfl
theorem Drives.setRel {r} (hs : Drives c s₀ s) : Drives c s₀ { s with rel := r } := hs.upd rfl
theorem Drives.setPower {w} (hs : Drives c s₀ s) : Drives c s₀ { s with power := w } := hs.upd rfl
theorem Drives.setDie {d x} (hs : Drives c s₀ s) : Drives c s₀ (s.setDie d x) := hs.upd rfl
theorem Drives.setLayer {k x} (hs : Drives c s₀ s) : Drives c s₀ (s.setLayer k x) := hs.upd rfl
theorem Drives.writeBytes {a bs} (hs : Drives c s₀ s) : Drives c s₀ (s.writeBytes a bs) := hs.upd rfl
theorem Drives.writeF32s {a xs} (hs : Drives c s₀ s) : Drives c s₀ (s.writeF32s a xs) := .writeBytes hs
theorem Drives.raiseFlags {t fl} (hs : Drives c s₀ s) : Drives c s₀ (s.raiseFlags t fl) := .setWord hs

theorem Drives.event {kind code a b} (hs : Drives c s₀ s) : Drives c s₀ (s.event kind code a b) :=
  hs.trans ⟨rfl, List.prefix_append _ _, rfl, fun _ => rfl, fun _ f hf => .inr ⟨f, hf, rfl⟩⟩

theorem Drives.logCode {code unit a} (hs : Drives c s₀ s) : Drives c s₀ (s.logCode code unit a) := by
  unfold State.logCode
  extract_lets seq s1 tk r2 s2 r3 s3
  have hs1 : Drives c s₀ s1 := .writeBytes hs
  clear_value s1
  have hs2 : Drives c s₀ s2 := .setRel (s := s1.tick) (.tick hs1)
  clear_value s2
  have hs3 : Drives c s₀ s3 := .setRel (s := s2) hs2
  clear_value s3
  exact .ite (.event hs3) hs2

theorem Drives.sendSignals {d} (hs : Drives c s₀ s) : Drives c s₀ (s.sendSignals d).1 := by
  obtain ⟨_, _, h⟩ := s.sendSignals_frame d
  rw [h]
  exact hs.upd rfl

/-! ### Work released, issued and over -/

theorem Drives.setWork {w} (hs : Drives c s₀ s) : Drives c s₀ { s with svc := { s.svc with work := w } } := hs.upd rfl
theorem Drives.setSaves {v} (hs : Drives c s₀ s) : Drives c s₀ { s with svc := { s.svc with saves := v } } := hs.upd rfl
theorem Drives.count {entry field k} (hs : Drives c s₀ s) : Drives c s₀ (s.count entry field k) := hs.upd rfl

theorem Drives.vecWork {p x w} (hs : Drives c s₀ s) : Drives c s₀ (s.vecWork p x w) := by
  unfold State.vecWork
  extract_lets
  split
  · exact .raiseFlags (.writeBytes hs)
  · exact .raiseFlags (.writeBytes hs)
  · exact .raiseFlags (.writeBytes hs)
  · extract_lets _ _ s1
    have hs1 : Drives c s₀ s1 := .writeBytes hs
    exact .setSaves hs1

theorem Drives.dropItem {id} (hs : Drives c s₀ s) : Drives c s₀ (s.dropItem id) := .setWork hs

theorem Drives.issue {p x} (hs : Drives c s₀ s) : Drives c s₀ (s.issue p x) := by
  unfold State.issue
  extract_lets _ _ _ _ _ s1
  have hs1 : Drives c s₀ s1 := .set (.writeBytes hs)
  split
  · exact .dropItem hs
  · split
    · exact .dropItem (.sendSignals (.vecWork hs))
    · exact .ite hs (.setWork hs1)

theorem Drives.issueAll {p} (hs : Drives c s₀ s) : Drives c s₀ (s.issueAll p) := .foldl hs fun _ _ h => .ite (.issue h) h

theorem Drives.countRecord {x bs} (hs : Drives c s₀ s) : Drives c s₀ (s.countRecord x bs) := by
  unfold State.countRecord
  extract_lets _ _ _ s1 _ s2
  have hs1 : Drives c s₀ s1 := .ite (.count hs) hs
  have hs2 : Drives c s₀ s2 := .ite (.count hs1) hs1
  exact .ite hs1 (.ite (.count hs2) hs2)

theorem Drives.collectRing {p t q} (hs : Drives c s₀ s) : Drives c s₀ (s.collectRing p t q) := by
  unfold State.collectRing
  extract_lets _ _ _ s1
  have hs1 : Drives c s₀ s1 := by
    dsimp only [s1]
    refine .foldl hs fun u x h => ?_
    extract_lets
    split
    · exact .countRecord h
    · exact h
  exact .ite hs1 (.set hs1)

theorem Drives.collect {p} (hs : Drives c s₀ s) : Drives c s₀ (s.collect p) := by
  unfold State.collect
  extract_lets rings s1 ended v s2
  have hs1 : Drives c s₀ s1 := .foldl hs fun _ _ h => .collectRing h
  have hs2 : Drives c s₀ s2 := .setWork hs1
  exact .setSaves hs2

theorem Drives.addWork {p f} (hs : Drives c s₀ s) : Drives c s₀ (s.addWork p f) := .setWork hs

/-! ### Flushes and folds -/

theorem Drives.pushStatus {d r code} (hs : Drives c s₀ s) : Drives c s₀ (s.pushStatus d r code) := .set (.set hs)

theorem Drives.cwrPush {d} (hs : Drives c s₀ s) : Drives c s₀ (s.cwrPush d) := by
  unfold State.cwrPush
  extract_lets _ _ _ s1
  have hs1 : Drives c s₀ s1 := .ite (.setLayer hs) hs
  split
  · exact .set (.set hs)
  · split
    · exact .pushStatus (.ite (.bump hs) hs)
    · exact .pushStatus (.setDie hs1)

theorem Drives.shareErrs {p t done} (hs : Drives c s₀ s) : Drives c s₀ (s.shareErrs p t done) := by
  unfold State.shareErrs
  extract_lets _ _ s1
  have hs1 : Drives c s₀ s1 := .writeF32s hs
  clear_value s1
  exact .addWork hs1

/-- A flush that begins is one of the present step. -/
theorem Drives.startFold {f : Fold} {hold} (hs : Drives c s₀ s) (h : f.step = s.svc.step) :
    Drives c s₀ { s with svc := { s.svc with folds := s.svc.folds ++ [f], holds := hold } } := by
  refine hs.setFolds fun g hg => ?_
  rcases List.mem_append.1 hg with hg | hg
  · exact .inr ⟨g, hg, rfl⟩
  · exact .inl (List.mem_singleton.1 hg ▸ h)

theorem State.writeF32s_svc (s : State) (a : Nat) (xs : List FVal) : (s.writeF32s a xs).svc = s.svc := rfl

theorem State.addWork_folds (s : State) (p : Plan) (f : GraphNode → Bool) : (s.addWork p f).svc.folds = s.svc.folds := rfl

theorem State.shareErrs_folds {p t done} : (s.shareErrs p t done).svc.folds = s.svc.folds := by
  unfold State.shareErrs
  extract_lets _ _ s1
  have h1 : s1.svc = s.svc := s.writeF32s_svc _ _
  clear_value s1
  rw [State.addWork_folds, h1]

theorem Drives.pushFlush {p t} (hs : Drives c s₀ s) : Drives c s₀ (s.pushFlush p t) := by
  unfold State.pushFlush
  extract_lets d s1 s2 s3 s4 fold s5 v5 s6 s7 v7
  have hs1 : Drives c s s1 := .set (.set (.set (.refl s)))
  clear_value s1
  have hs2 : Drives c s s2 := .set (.set (.set hs1))
  clear_value s2
  have hs3 : Drives c s s3 := .set (.set (.set hs2))
  clear_value s3
  have hs4 : Drives c s s4 := .cwrPush hs3
  clear_value s4
  have hs5 : Drives c s s5 := .count hs4
  have hs6 : Drives c s s6 := .count hs4
  have hs7 : Drives c s s7 := .shareErrs hs6
  have hfolds : s7.svc.folds = s6.svc.folds := State.shareErrs_folds
  refine hs.trans (.ite (hs5.startFold hs5.step.symm) (.ite hs6 ?_))
  rw [← hfolds]
  exact hs7.startFold hs7.step.symm

theorem Drives.memberFlush {p t} (hs : Drives c s₀ s) : Drives c s₀ (s.memberFlush p t) := .pushFlush (.writeBytes hs)

theorem Drives.memberFlushes {p} (hs : Drives c s₀ s) : Drives c s₀ (s.memberFlushes p) := by
  refine .foldl hs fun u f h => .ite h (.memberFlush ?_)
  obtain ⟨_, hk⟩ := u.consume_frame f.gate 1 true
  rw [hk]
  exact h.upd rfl

theorem Drives.ownFlush {p t} (hs : Drives c s₀ s) : Drives c s₀ (s.ownFlush p t) := by
  unfold State.ownFlush
  extract_lets _ _ s1
  have hs1 : Drives c s₀ s1 := .writeBytes hs
  exact .ite hs (.pushFlush (.ite (.addWork hs1) hs1))

theorem Drives.flushOne {p t} (hs : Drives c s₀ s) : Drives c s₀ (s.flushOne p t) := .ite hs (.ownFlush hs)
theorem Drives.foldWeight {t e o} (hs : Drives c s₀ s) : Drives c s₀ (State.foldWeight t e s o) := .ite hs (.writeBytes (.tick hs))

theorem Drives.foldWeights {t e} {xs : List Nat} (hs : Drives c s₀ s) : Drives c s₀ (xs.foldl (State.foldWeight t e) s) :=
  .foldl hs fun _ _ h => .foldWeight h

/-- A count that goes to a report leaves its plan, its step and its outcome. -/
theorem Drives.countAt {step entry field k} (hs : Drives c s₀ s) : Drives c s₀ (s.countAt step entry field k) := by
  unfold State.countAt
  refine .ite (hs.trans ⟨rfl, List.prefix_rfl, rfl, fun _ => ?_, fun _ f hf => .inr ⟨f, hf, rfl⟩⟩) (.count hs)
  rw [List.map_map]
  refine List.map_congr_left fun r _ => ?_
  simp only [Function.comp_apply]
  split <;> rfl

theorem Drives.endFold {t} (hs : Drives c s₀ s) : Drives c s₀ (s.endFold t) :=
  hs.setFolds fun f hf => .inr ⟨f, List.mem_of_mem_filter hf, rfl⟩

theorem Drives.foldOne {p f} (hs : Drives c s₀ s) : Drives c s₀ (s.foldOne p f) := by
  unfold State.foldOne
  extract_lets t code done s1 s2
  have hs1 : Drives c s₀ s1 := .ite (.countAt (.countAt hs)) (.countAt hs)
  have hs2 : Drives c s₀ s2 := .shareErrs hs1
  refine .ite (.ite hs (.endFold (.ite (.foldWeights hs) hs))) (.ite hs (.ite (.endFold (.ite (.foldWeights hs1) hs1)) ?_))
  refine hs2.setFolds fun g hg => ?_
  obtain ⟨x, hx, rfl⟩ := List.mem_map.1 hg
  refine .inr ⟨x, hx, ?_⟩
  split <;> rfl

theorem Drives.foldAll {p} (hs : Drives c s₀ s) : Drives c s₀ (s.foldAll p) := .foldl hs fun _ _ h => .foldOne h

/-! ### Reports -/

theorem Drives.publish {r} (hs : Drives false s₀ s) : Drives false s₀ (s.publish r) := by
  unfold State.publish
  split
  · exact hs
  · extract_lets s1 _ s2
    have hs1 : Drives false s₀ s1 := .foldl hs fun _ _ h => .ite (.writeBytes h) h
    have hs2 : Drives false s₀ s2 := hs1.trans ⟨rfl, List.prefix_rfl, rfl, nofun, nofun⟩
    exact .event hs2

theorem Drives.publishAll (hs : Drives false s₀ s) : Drives false s₀ s.publishAll := .foldl hs fun _ _ h => .publish h

/-- The driver going on, but for its reports. -/
theorem Drives.beforeReports {p} (hs : Drives c s₀ s) : Drives c s₀ ((((s.collect p).foldAll p).memberFlushes p).issueAll p) :=
  .issueAll (.memberFlushes (.foldAll (.collect hs)))

theorem Drives.drive (hs : Drives false s₀ s) : Drives false s₀ s.drive := by
  unfold State.drive
  split
  · exact hs
  · exact .publishAll (.beforeReports hs)

/-! ### The end of a step -/

theorem Drives.putMoments {p a n o draws xs} (hs : Drives c s₀ s) : Drives c s₀ (s.putMoments p a n o draws xs).1 := by
  unfold State.putMoments
  split
  · exact .writeBytes (.writeBytes hs)
  · exact .writeBytes hs

theorem Drives.optBlock {p t place o} (hs : Drives c s₀ s) : Drives c s₀ (s.optBlock p t place o) := by
  unfold State.optBlock
  extract_lets _ _ _ m v _ w
  have hv : Drives c s₀ v.1 := .putMoments (.putMoments hs)
  exact .setFree (.writeBytes hv)

theorem Drives.optimise {p t place on} (hs : Drives c s₀ s) : Drives c s₀ (s.optimise p t place on) := .foldl hs fun _ _ h => .optBlock h

theorem Drives.optimiser {p} (hs : Drives c s₀ s) : Drives c s₀ (s.optimiser p) :=
  .foldl (.foldl hs fun _ _ h => .optimise h) fun _ _ h => .optimise h

theorem Drives.alarm {code unit a} (hs : Drives c s₀ s) : Drives c s₀ (s.alarm code unit a) := .logCode hs
theorem Drives.pwrErr {code loc} (hs : Drives c s₀ s) : Drives c s₀ (s.pwrErr code loc) := .set (.set hs)
theorem Drives.pwrEvent {code loc unit al a} (hs : Drives c s₀ s) : Drives c s₀ (s.pwrEvent code loc unit al a) :=
  .ite (.alarm (.pwrErr hs)) (.logCode (.pwrErr hs))

theorem Drives.attrPut {bs} (hs : Drives c s₀ s) : Drives c s₀ (s.attrPut bs).1 := .ite_fst hs (.set (.writeBytes hs))

theorem Drives.signalService {z} (hs : Drives c s₀ s) : Drives c s₀ (s.signalService z) := by
  obtain ⟨_, _, h⟩ := s.signalService_frame z
  rw [h]
  exact hs.upd rfl

theorem Drives.attrClose {xs k mark} (hs : Drives c s₀ s) : Drives c s₀ (s.attrClose xs k mark) := by
  unfold State.attrClose
  split
  · exact hs
  · extract_lets _ _ n a s1 w s2 recs x s3
    have hs1 : Drives c s₀ s1 := .setWord hs
    have hs2 : Drives c s₀ s2 := .setPower (s := s1) hs1
    have hx : Drives c s₀ x.1 := .foldl_fst hs2 fun _ _ h => .pair (.attrPut h)
    split
    · exact hs2
    · exact .signalService (.ite hx (.pwrEvent hx))

theorem Drives.attrMark (hs : Drives c s₀ s) : Drives c s₀ s.attrMark := .attrClose (.tick hs)

end

end Sys2Proof.Machine
end

section
/-! PROOFS. O48: the releases of micro-batches, the start of a step and the stall (R197, R199, R210, R218, R353). -/

namespace Sys2Proof.Machine

variable {s d t : State} {p : Plan} {k : Nat}

/-! ### Operations that join the work -/

/-- The operations of micro-batch `k`, forward or backward, have joined the work that `d` has. -/
def State.Joined (d : State) (p : Plan) (k : Nat) (t : State) (backward : Bool) : Prop :=
  (∀ n ∈ p.graph.nodes, n.backward = backward → n.batch = k → isShard n.role = false → ∃ x ∈ t.svc.work, x.node.id = n.id) ∧
  ∀ x ∈ t.svc.work, x ∈ d.svc.work ∨ (x.node ∈ p.graph.nodes ∧ x.node.backward = backward ∧ x.node.batch = k ∧ x.seq = none)

theorem State.exists_mem_addWork {f : GraphNode → Bool} {n : GraphNode} (hn : n ∈ p.graph.nodes) (hf : f n = true) :
    ∃ x ∈ (s.addWork p f).svc.work, x.node.id = n.id := by
  by_cases hold : ∃ y ∈ s.svc.work, y.node.id = n.id
  · obtain ⟨y, hy, hid⟩ := hold
    exact ⟨y, List.mem_append_left _ hy, hid⟩
  · refine ⟨{ node := n }, List.mem_append_right _ (List.mem_map.2 ⟨n, List.mem_filter.2 ⟨hn, ?_⟩, rfl⟩), rfl⟩
    simpa [hf] using hold

theorem State.mem_addWork {f : GraphNode → Bool} {x : WorkItem} (hx : x ∈ (s.addWork p f).svc.work) :
    x ∈ s.svc.work ∨ (x.node ∈ p.graph.nodes ∧ f x.node = true ∧ x.seq = none) := by
  rcases List.mem_append.1 hx with hx | hx
  · exact .inl hx
  · obtain ⟨n, hn, rfl⟩ := List.mem_map.1 hx
    obtain ⟨hn, hf⟩ := List.mem_filter.1 hn
    exact .inr ⟨hn, (Bool.and_eq_true_iff.1 hf).1, rfl⟩

theorem State.addWork_joined {f : GraphNode → Bool} {backward : Bool} (hwork : s.svc.work = d.svc.work)
    (hf : ∀ n, f n = true ↔ n.backward = backward ∧ n.batch = k ∧ isShard n.role = false) : d.Joined p k (s.addWork p f) backward := by
  refine ⟨fun n hn hb hk hr => State.exists_mem_addWork hn ((hf n).2 ⟨hb, hk, hr⟩), fun x hx => ?_⟩
  refine (State.mem_addWork hx).imp (fun h => hwork ▸ h) fun ⟨hn, hx, hseq⟩ => ?_
  obtain ⟨hb, hk, -⟩ := (hf _).1 hx
  exact ⟨hn, hb, hk, hseq⟩

/-! ### A step starts (R199, R210, R218) -/

/-- The step's number in the EPOCH of every tile that is on. -/
def State.withEpochs (s : State) : State :=
  ((List.range (s.get .capComputeTiles)).filter fun t => s.domainOn (domTile t)).foldl
    (fun s t => s.set .tileNumEpochEpoch t 0 (s.svc.step % 2 ^ 32)) s

theorem Fld.tileNumEpochEpoch_addr (t : Nat) : Fld.tileNumEpochEpoch.addr t 0 = 0x100810 + 0x1000 * t := by
  simp only [Fld.addr, Fld.tileNumEpochEpoch]
  omega

theorem State.withEpochs_frame (s : State) : ∃ c : SMap W64, s.withEpochs = { s with ctl := c } ∧ ∀ x < 0x100000, s.withEpochs.word x = s.word x := by
  refine List.foldlRecOn (motive := fun u => ∃ c : SMap W64, u = { s with ctl := c } ∧ ∀ x < 0x100000, u.word x = s.word x) _ _
    ⟨s.ctl, rfl, fun _ _ => rfl⟩ fun u hu t _ => ?_
  obtain ⟨c, rfl, hword⟩ := hu
  refine ⟨_, rfl, fun x hx => ?_⟩
  rw [State.word_set, if_neg (by rw [Fld.tileNumEpochEpoch_addr]; omega), hword x hx]

theorem State.get_withEpochs {t : Nat} (ht : t < s.get .capComputeTiles) (hon : s.domainOn (domTile t) = true) :
    s.withEpochs.get .tileNumEpochEpoch t = s.svc.step % 2 ^ 32 := by
  have hwritten : ∀ u : State, (u.set .tileNumEpochEpoch t 0 (s.svc.step % 2 ^ 32)).get .tileNumEpochEpoch t = s.svc.step % 2 ^ 32 := fun u =>
    (u.get_set_self .tileNumEpochEpoch t 0 _ (by decide) (by decide)).trans (Nat.mod_mod _ _)
  refine (foldl_reaches (f := fun u t => u.set .tileNumEpochEpoch t 0 (u.svc.step % 2 ^ 32)) (I := fun u => u.svc.step = s.svc.step)
    (P := fun u => u.svc.step = s.svc.step ∧ u.get .tileNumEpochEpoch t = s.svc.step % 2 ^ 32)
    (List.mem_filter.2 ⟨List.mem_range.2 ht, hon⟩) rfl (fun u y _ hu => hu) (fun u hu => ⟨hu, ?_⟩) fun u y _ hu => ⟨hu.1, ?_⟩).2
  · rw [hu]
    exact hwritten u
  · obtain ⟨hstep, hget⟩ := hu
    rw [hstep]
    by_cases hy : y = t
    · rw [hy]
      exact hwritten u
    · rw [State.get_set_ne, hget]
      rw [Fld.tileNumEpochEpoch_addr, Fld.tileNumEpochEpoch_addr]
      omega

theorem State.clearOrders_frame (s : State) (p : Plan) : ∃ m : SMap Ctr, s.clearOrders p = { s with ctrs := m } := by
  refine List.foldlRecOn (motive := fun u => ∃ m : SMap Ctr, u = { s with ctrs := m }) _ _ ⟨s.ctrs, rfl⟩ fun u hu c _ => ?_
  obtain ⟨m, rfl⟩ := hu
  exact ⟨_, rfl⟩

/-- A counter that orders the graph stands at 0. -/
theorem State.ctr_clearOrders {n : GraphNode} {c : Nat} (hn : n ∈ p.graph.nodes) (hc : n.order = some c) (hvalid : s.idValid c = true)
    (hoff : s.idOff c = false) : ((s.clearOrders p).ctr c).value = 0 := by
  have hmem : c ∈ (p.graph.nodes.filterMap GraphNode.order).eraseDups.filter fun c => s.idValid c && !s.idOff c := by
    refine List.mem_filter.2 ⟨List.mem_eraseDups.2 (List.mem_filterMap.2 ⟨n, hn, hc⟩), ?_⟩
    rw [hvalid, hoff]
    rfl
  refine foldl_reaches (I := fun _ => True) (P := fun u => (u.ctr c).value = 0) hmem trivial (fun _ _ _ _ => trivial) (fun u _ => ?_) fun u y _ hu => ?_
  · rw [State.ctr, State.setCtr, smGet_smPut_self]
  · rw [State.ctr, State.setCtr, smGet_smPut]
    split
    · rfl
    · exact hu

/-- The block masks in force, and the step's counts at 0. -/
def State.stepBegun (s : State) (w : List (List Nat)) : State := { s with svc := { s.svc with masks := w, counts := [], met := [] } }

theorem State.stepStarts_eq (s : State) (p : Plan) :
    s.stepStarts p = (s.withEpochs.clearOrders p).stepBegun (p.recs.map fun r => if recFlag r 3 then s.maskWords r else []) := by
  unfold State.stepStarts
  extract_lets _ s1 s2 v
  have h : s2 = s.withEpochs.clearOrders p := rfl
  rw [State.stepBegun, ← h]

/-- What changes before the block masks are read: EPOCH and the counters that order the graph, and no word below the tiles'. -/
theorem State.clearOrders_withEpochs_frame (s : State) (p : Plan) : ∃ (c : SMap W64) (m : SMap Ctr),
    s.withEpochs.clearOrders p = { s with ctl := c, ctrs := m } ∧ ∀ x < 0x100000, (s.withEpochs.clearOrders p).word x = s.word x := by
  obtain ⟨c, hc, hword⟩ := s.withEpochs_frame
  obtain ⟨m, hm⟩ := s.withEpochs.clearOrders_frame p
  have hctl : (s.withEpochs.clearOrders p).ctl = s.withEpochs.ctl := by rw [hm]
  refine ⟨c, m, by rw [hm, hc], fun x hx => ?_⟩
  rw [State.word_of_ctl hctl, hword x hx]

/-- What a step that starts changes: EPOCH, the counters that order the graph, and the masks and counts of the services. -/
theorem State.stepStarts_frame (s : State) (p : Plan) : ∃ (c : SMap W64) (m : SMap Ctr) (w : List (List Nat)),
    s.stepStarts p = { s with ctl := c, ctrs := m, svc := { s.svc with masks := w, counts := [], met := [] } } := by
  obtain ⟨c, m, h, -⟩ := s.clearOrders_withEpochs_frame p
  exact ⟨c, m, p.recs.map fun r => if recFlag r 3 then s.maskWords r else [], by rw [State.stepStarts_eq, State.stepBegun, h]⟩

theorem State.get_stepStarts {t : Nat} (ht : t < s.get .capComputeTiles) (hon : s.domainOn (domTile t) = true) :
    (s.stepStarts p).get .tileNumEpochEpoch t = s.svc.step % 2 ^ 32 := by
  obtain ⟨m, hm⟩ := s.withEpochs.clearOrders_frame p
  have hctl : (s.stepStarts p).ctl = s.withEpochs.ctl := by
    rw [State.stepStarts_eq, hm]
    rfl
  rw [State.get_of_ctl hctl, State.get_withEpochs ht hon]

theorem State.ctr_stepStarts {n : GraphNode} {c : Nat} (hn : n ∈ p.graph.nodes) (hc : n.order = some c) (hvalid : s.idValid c = true)
    (hoff : s.idOff c = false) : ((s.stepStarts p).ctr c).value = 0 := by
  obtain ⟨w, hw, hword⟩ := s.withEpochs_frame
  have hlimit : s.withEpochs.get .capQueuesServiceSync = s.get .capQueuesServiceSync := State.get_of_word (hword _ (by decide))
  have hvalid' : s.withEpochs.idValid c = true := by
    rw [← hvalid, State.idValid, State.idValid, hlimit, hw]
    rfl
  have hoff' : s.withEpochs.idOff c = false := by
    rw [← hoff, hw]
    rfl
  exact State.ctr_clearOrders hn hc hvalid' hoff'

/-- The block masks as the memory holds them (R210). -/
theorem State.masks_stepStarts {i j : Nat} {l : List Byte} (hl : p.recs[i]? = some l) (hmasked : recFlag l 3 = true) (hj : j < recNum l 24 4)
    (hread : (s.accessErr [] (recNum l 16 8 + 8 * j) 8 false).isNone = true) :
    ((s.stepStarts p).svc.masks.getD i []).getD j 0 = s.readNat (recNum l 16 8 + 8 * j) 8 := by
  have hwords : (s.maskWords l).getD j 0 = s.readNat (recNum l 16 8 + 8 * j) 8 := by
    rw [State.maskWords, List.getD_eq_getElem?_getD, List.getElem?_map, List.getElem?_range hj, Option.map_some, Option.getD_some]
    exact if_pos hread
  have hmasks : (s.stepStarts p).svc.masks.getD i [] = s.maskWords l := by
    rw [State.stepStarts_eq, State.stepBegun, List.getD_eq_getElem?_getD, List.getElem?_map, hl, Option.map_some, Option.getD_some, if_pos hmasked]
  rw [hmasks, hwords]

/-! ### A forward release (R197, R199, R218) -/

/-- The step in progress, or one that starts. -/
def State.stepBegins (s : State) (p : Plan) : State := if s.svc.inStep then s else s.stepStarts p

/-- The forward micro-batch `k` counted. -/
def State.forward (s : State) (k : Nat) : State := { s with svc := { s.svc with inStep := true, fReleased := k + 1 } }

/-- The operations of the forward micro-batch `k`. -/
def forwardNodes (k : Nat) (n : GraphNode) : Bool := !n.backward && n.batch == k && !isShard n.role

theorem forwardNodes_iff (n : GraphNode) : forwardNodes k n = true ↔ n.backward = false ∧ n.batch = k ∧ isShard n.role = false := by
  simp [forwardNodes, and_assoc]

/-- Once its work has joined, a forward micro-batch leaves the rest to the loader. -/
theorem State.release_forward (hplan : d.svc.plan = some p) (hdue : d.forwardDue p = true) (hhere : d.inputHere p = true) (hk : k = d.svc.fReleased) :
    d.release false k = (((d.stepBegins p).forward k).addWork p (forwardNodes k)).loaderFetch := by
  have hall : (d.forwardDue p && d.inputHere p && k == d.svc.fReleased) = true := by simp [hdue, hhere, hk]
  unfold State.release
  dsimp only
  rw [hplan]
  exact (if_neg Bool.false_ne_true).trans (if_pos hall)

theorem State.release_forward_idle (h : d.forwardDue p = false ∨ d.inputHere p = false ∨ k ≠ d.svc.fReleased) (hplan : d.svc.plan = some p) :
    d.release false k = d := by
  have hnot : ¬ (d.forwardDue p && d.inputHere p && k == d.svc.fReleased) = true := by
    rcases h with h | h | h <;> simp [h]
  unfold State.release
  dsimp only
  rw [hplan]
  exact (if_neg Bool.false_ne_true).trans (if_neg hnot)

theorem State.stepBegins_frame (s : State) (p : Plan) : ∃ (c : SMap W64) (m : SMap Ctr) (w : List (List Nat)) (x : SMap Nat) (y : SMap (Option (Nat × Bool))),
    s.stepBegins p = { s with ctl := c, ctrs := m, svc := { s.svc with masks := w, counts := x, met := y } } := by
  unfold State.stepBegins
  split
  · exact ⟨_, _, _, _, _, rfl⟩
  · obtain ⟨c, m, w, h⟩ := s.stepStarts_frame p
    exact ⟨c, m, w, _, _, h⟩

theorem State.Fetches.fields (h : s.Fetches t) : t.ctl = s.ctl ∧ t.ctrs = s.ctrs ∧ t.mem = s.mem ∧ t.svc.plan = s.svc.plan ∧
    t.svc.inStep = s.svc.inStep ∧ t.svc.fReleased = s.svc.fReleased ∧ t.svc.bReleased = s.svc.bReleased ∧ t.svc.masks = s.svc.masks ∧
    t.svc.work = s.svc.work := by
  obtain ⟨x, i, k, o, rfl⟩ := h
  exact ⟨rfl, rfl, rfl, rfl, rfl, rfl, rfl, rfl, rfl⟩

theorem microBatchRelease_forward_results (hplan : s.drive.svc.plan = some p) (hdue : s.drive.forwardDue p = true) (hhere : s.drive.inputHere p = true)
    (hk : k = s.drive.svc.fReleased) : ∃ r, exec (.microBatchRelease false k) s = .next r.drive ∧ r.svc.plan = some p ∧ r.svc.inStep = true ∧
      r.svc.fReleased = k + 1 ∧ r.svc.bReleased = s.drive.svc.bReleased ∧ r.mem = s.drive.mem ∧ s.drive.Joined p k r false ∧
      (s.drive.svc.inStep = true → r.ctl = s.drive.ctl ∧ r.svc.masks = s.drive.svc.masks) ∧
      (s.drive.svc.inStep = false →
        (∀ t, t < 64 → t < s.drive.get .capComputeTiles → s.drive.domainOn (domTile t) = true →
          r.get .tileNumEpochEpoch t = s.drive.svc.step % 2 ^ 32) ∧
        (∀ n ∈ p.graph.nodes, ∀ c, n.order = some c → s.drive.idValid c = true → s.drive.idOff c = false → (r.ctr c).value = 0) ∧
        ∀ (i j : Nat) (l : List Byte), p.recs[i]? = some l → recFlag l 3 = true → j < recNum l 24 4 →
          (s.drive.accessErr [] (recNum l 16 8 + 8 * j) 8 false).isNone = true →
          (r.svc.masks.getD i []).getD j 0 = s.drive.readNat (recNum l 16 8 + 8 * j) 8) := by
  have hexec : exec (.microBatchRelease false k) s = .next (s.drive.release false k).drive := rfl
  generalize s.drive = d at *
  refine ⟨_, hexec, ?_⟩
  rw [State.release_forward hplan hdue hhere hk]
  obtain ⟨c, m, w, x, y, hbegins⟩ := d.stepBegins_frame p
  have hjoined : d.Joined p k (((d.stepBegins p).forward k).addWork p (forwardNodes k)) false :=
    State.addWork_joined (by rw [hbegins]; rfl) fun n => forwardNodes_iff n
  have hbegun : (d.stepBegins p).svc.plan = some p ∧ (d.stepBegins p).svc.bReleased = d.svc.bReleased ∧ (d.stepBegins p).mem = d.mem := by
    rw [hbegins]
    exact ⟨hplan, rfl, rfl⟩
  obtain ⟨hplan', hreleased, hmem⟩ := hbegun
  obtain ⟨hrctl, hrctrs, hrmem, hrplan, hrstep, hrforward, hrback, hrmasks, hrwork⟩ :=
    (((d.stepBegins p).forward k).addWork p (forwardNodes k)).loaderFetch_fetches.fields
  generalize (((d.stepBegins p).forward k).addWork p (forwardNodes k)).loaderFetch = r at *
  have hctl : r.ctl = (d.stepBegins p).ctl := hrctl
  have hctrs : r.ctrs = (d.stepBegins p).ctrs := hrctrs
  have hmasks : r.svc.masks = (d.stepBegins p).svc.masks := hrmasks
  refine ⟨hrplan.trans hplan', hrstep, hrforward, hrback.trans hreleased, hrmem.trans hmem, ?_, fun hstep => ?_, fun hstep => ?_⟩
  · rw [State.Joined, hrwork]
    exact hjoined
  · have hd : d.stepBegins p = d := if_pos hstep
    rw [hctl, hmasks, hd]
    exact ⟨rfl, rfl⟩
  · have hd : d.stepBegins p = d.stepStarts p := if_neg (by rw [hstep]; decide)
    rw [hd] at hctl hctrs hmasks
    refine ⟨fun t _ ht hon => ?_, fun n hn c hc hvalid hoff => ?_, fun i j l hl hmasked hj hread => ?_⟩
    · rw [State.get_of_ctl hctl, State.get_stepStarts ht hon]
    · rw [State.ctr, hctrs]
      exact State.ctr_stepStarts hn hc hvalid hoff
    · rw [hmasks, State.masks_stepStarts hl hmasked hj hread]

theorem microBatchRelease_forward_idle (hplan : s.drive.svc.plan = some p)
    (h : s.drive.forwardDue p = false ∨ s.drive.inputHere p = false ∨ k ≠ s.drive.svc.fReleased) :
    exec (.microBatchRelease false k) s = .next s.drive.drive :=
  congrArg (fun u : State => Host.Outcome.next u.drive) (State.release_forward_idle h hplan)

/-! ### The stall (R353) -/

/-- The driver pauses, and alert-out is asserted with the code of the pause. -/
def State.pausedBy (s : State) (code : Nat) : State := (s.pauseWith 3 code).alarm code unitModule

theorem State.pausedBy_frame (s : State) (code : Nat) : ∃ m r o,
    s.pausedBy code = { s with free := s.free + 1, mem := m, rel := r, svc := s.svc.paused 3 code, out := o } ∧ r.alert = true := by
  have halert : (s.pausedBy code).rel.alert = true := State.alarm_alert _ _ _ _
  obtain ⟨m, r, o, h⟩ := (s.pauseWith 3 code).logCode_frame code unitModule { flags := 1 }
  obtain ⟨o', h'⟩ := s.pauseWith_frame 3 code
  have hall : s.pausedBy code = { s with free := s.free + 1, mem := m, rel := r, svc := s.svc.paused 3 code, out := o } := by
    refine Eq.trans h ?_
    rw [h']
  rw [hall] at halert
  exact ⟨m, r, o, hall, halert⟩

theorem State.pausedBy_logged (s : State) {code : Nat} (hc : code < 65536) : s.Logged (s.pausedBy code) code unitModule := by
  have h : (s.pauseWith 3 code).Logged (s.pausedBy code) code unitModule := State.logCode_logged _ _ _ _ hc (by decide)
  generalize s.pausedBy code = u at h ⊢
  obtain ⟨o, ho⟩ := s.pauseWith_frame 3 code
  rw [ho] at h
  exact h

theorem State.stallPause_of_not (h : s.svc.stall = false ∨ s.svc.bReleased ≠ s.svc.fReleased) : s.stallPause = s := by
  refine if_neg ?_
  rcases h with h | h <;> simp [h]

/-- The pause of a stall: the state, the reason and the alert, and the code logged where no lapse logs its own after it. -/
theorem State.stallPause_results (hstall : s.svc.stall = true) (hsame : s.svc.bReleased = s.svc.fReleased) :
    ∃ u, s.stallPause = u ∧ u = { s with free := u.free, mem := u.mem, rel := u.rel, svc := s.svc.paused 3 Code.svcInputStall, out := u.out } ∧
      u.rel.alert = true ∧ (s.svc.lapse = false → s.Logged u Code.svcInputStall unitModule) := by
  have hdue : (s.svc.stall && s.svc.bReleased == s.svc.fReleased) = true := by simp [hstall, hsame]
  obtain ⟨m, r, o, hpaused, halert⟩ := s.pausedBy_frame Code.svcInputStall
  cases hlapse : s.svc.lapse with
  | false =>
    have h : s.stallPause = s.pausedBy Code.svcInputStall := (if_pos hdue).trans (if_neg (by rw [hlapse]; decide))
    have hlogged := s.pausedBy_logged (code := Code.svcInputStall) (by decide)
    generalize s.pausedBy Code.svcInputStall = u at *
    subst hpaused
    exact ⟨_, h, rfl, halert, fun _ => hlogged⟩
  | true =>
    have h : s.stallPause = (s.pausedBy Code.svcInputStall).alarm Code.svcLeaseLapsed unitModule := (if_pos hdue).trans (if_pos hlapse)
    have halert' : s.stallPause.rel.alert = true := h ▸ State.alarm_alert _ _ _ _
    obtain ⟨m', r', o', h'⟩ := (s.pausedBy Code.svcInputStall).logCode_frame Code.svcLeaseLapsed unitModule { flags := 1 }
    have hframe : s.stallPause = { s with free := s.free + 1 + 1, mem := m', rel := r', svc := s.svc.paused 3 Code.svcInputStall, out := o' } := by
      refine h.trans (Eq.trans h' ?_)
      rw [hpaused]
    rw [hframe] at halert'
    exact ⟨_, hframe, rfl, halert', nofun⟩

theorem svcInputStall_results (hplan : s.svc.plan = some p) :
    (s.forwardDue p = true → s.inputHere p = false →
      (s.svc.bReleased ≠ s.svc.fReleased → exec .svcInputStall s = .next { s with svc := { s.svc with stall := true, state := 2 } }) ∧
      (s.svc.bReleased = s.svc.fReleased → ∃ u, exec .svcInputStall s = .next u ∧
        u = { s with free := u.free, mem := u.mem, rel := u.rel, svc := u.svc, out := u.out } ∧ u.svc.state = 3 ∧ u.svc.reason = Code.svcInputStall ∧
        u.rel.alert = true ∧ (s.svc.lapse = false → s.Logged u Code.svcInputStall unitModule))) ∧
    (s.inputHere p = true ∨ s.forwardDue p = false → exec .svcInputStall s = .next s) := by
  have hexec : exec .svcInputStall s = .next s.inputStall := rfl
  have hstalls : s.inputStall =
      if s.forwardDue p && !s.inputHere p then State.stallPause { s with svc := { s.svc with stall := true, state := 2 } } else s := by
    unfold State.inputStall
    dsimp only
    rw [hplan]
  refine ⟨fun hdue hhere => ?_, fun h => ?_⟩
  · have h : s.inputStall = State.stallPause { s with svc := { s.svc with stall := true, state := 2 } } :=
      hstalls.trans (if_pos (by rw [hdue, hhere]; rfl))
    refine ⟨fun hne => ?_, fun heq => ⟨_, hexec, ?_⟩⟩
    · rw [hexec, h]
      exact congrArg _ (State.stallPause_of_not (.inr hne))
    · obtain ⟨u, hu, hframe, halert, hlogged⟩ :=
        State.stallPause_results (s := { s with svc := { s.svc with stall := true, state := 2 } }) rfl heq
      rw [h.trans hu]
      have hsvc : u.svc = Svc.paused { s.svc with stall := true, state := 2 } 3 Code.svcInputStall := by rw [hframe]
      refine ⟨?_, by rw [hsvc]; rfl, by rw [hsvc]; rfl, halert, hlogged⟩
      rw [hsvc]
      exact hframe
  · rw [hexec, hstalls, if_neg]
    rcases h with h | h <;> simp [h]

/-! ### A backward release (R197, R353) -/

/-- The backward micro-batch `k` counted. -/
def State.backward (s : State) (k : Nat) : State := { s with svc := { s.svc with bReleased := k + 1 } }

/-- The operations of the backward micro-batch `k`. -/
def backwardNodes (k : Nat) (n : GraphNode) : Bool := n.backward && n.batch == k && !isShard n.role

theorem backwardNodes_iff (n : GraphNode) : backwardNodes k n = true ↔ n.backward = true ∧ n.batch = k ∧ isShard n.role = false := by
  simp [backwardNodes, and_assoc]

theorem State.release_backward (hplan : d.svc.plan = some p) : d.release true k =
    if d.svc.inStep && decide (d.svc.bReleased < d.svc.fReleased) && k == d.svc.bReleased && d.partOver false k && (d.svc.state == 1 || d.svc.state == 2)
    then ((d.backward k).addWork p (backwardNodes k)).stallPause else d := by
  unfold State.release
  extract_lets v
  have hv : v.plan = some p := hplan
  rw [hv]
  exact (if_pos rfl).trans rfl

theorem microBatchRelease_backward_results (hplan : s.drive.svc.plan = some p) (hstep : s.drive.svc.inStep = true)
    (hstate : s.drive.svc.state = 1 ∨ s.drive.svc.state = 2) (hbehind : s.drive.svc.bReleased < s.drive.svc.fReleased) (hk : k = s.drive.svc.bReleased)
    (hover : s.drive.partOver false k = true) : ∃ r, exec (.microBatchRelease true k) s = .next r.drive ∧ r.svc.bReleased = k + 1 ∧
      r.svc.fReleased = s.drive.svc.fReleased ∧ s.drive.Joined p k r true ∧
      (s.drive.svc.stall = false ∨ k + 1 ≠ s.drive.svc.fReleased → r = { s.drive with svc := { s.drive.svc with bReleased := k + 1, work := r.svc.work } }) ∧
      (s.drive.svc.stall = true → k + 1 = s.drive.svc.fReleased → r.svc.state = 3 ∧ r.svc.reason = Code.svcInputStall ∧ r.svc.stall = false ∧
        r.rel.alert = true) := by
  have hexec : exec (.microBatchRelease true k) s = .next (s.drive.release true k).drive := rfl
  generalize s.drive = d at *
  refine ⟨_, hexec, ?_⟩
  have hall : (d.svc.inStep && decide (d.svc.bReleased < d.svc.fReleased) && k == d.svc.bReleased && d.partOver false k &&
      (d.svc.state == 1 || d.svc.state == 2)) = true := by
    rcases hstate with h | h <;> simp [hstep, hk ▸ hbehind, ← hk, hover, h]
  rw [State.release_backward hplan, if_pos hall]
  have hjoined : d.Joined p k ((d.backward k).addWork p (backwardNodes k)) true := State.addWork_joined rfl fun n => backwardNodes_iff n
  obtain ⟨w, hw⟩ : ∃ w, (d.backward k).addWork p (backwardNodes k) = { d with svc := { d.svc with bReleased := k + 1, work := w } } := ⟨_, rfl⟩
  rw [hw] at hjoined ⊢
  by_cases hpause : d.svc.stall = true ∧ k + 1 = d.svc.fReleased
  · obtain ⟨hstall, hlast⟩ := hpause
    obtain ⟨r, hr, hframe, halert, -⟩ := State.stallPause_results (s := { d with svc := { d.svc with bReleased := k + 1, work := w } }) hstall hlast
    rw [hr]
    have hsvc : r.svc = Svc.paused { d.svc with bReleased := k + 1, work := w } 3 Code.svcInputStall := by rw [hframe]
    rw [State.Joined, hsvc]
    refine ⟨rfl, rfl, hjoined, fun h => ?_, fun _ _ => ⟨rfl, rfl, rfl, halert⟩⟩
    exact absurd h (by simp [hstall, hlast])
  · have hnot : d.svc.stall = false ∨ k + 1 ≠ d.svc.fReleased := by
      rw [← Bool.not_eq_true]
      exact not_and_or.1 hpause
    rw [State.stallPause_of_not hnot]
    exact ⟨rfl, rfl, hjoined, fun _ => rfl, fun hs hl => absurd ⟨hs, hl⟩ hpause⟩

theorem microBatchRelease_backward_idle (hplan : s.drive.svc.plan = some p) (h : s.drive.svc.inStep = false ∨
      (s.drive.svc.state ≠ 1 ∧ s.drive.svc.state ≠ 2) ∨ s.drive.svc.fReleased ≤ s.drive.svc.bReleased ∨ k ≠ s.drive.svc.bReleased ∨
      s.drive.partOver false k = false) : exec (.microBatchRelease true k) s = .next s.drive.drive := by
  refine congrArg (fun u : State => Host.Outcome.next u.drive) ((State.release_backward hplan).trans (if_neg ?_))
  rcases h with h | ⟨h, h'⟩ | h | h | h
  · simp [h]
  · simp [h, h']
  · simp [Nat.not_lt.2 h]
  · simp [h]
  · simp [h]

end Sys2Proof.Machine
end

section
/-! PROOFS. O48: the end of a step, its loss scale, its event and the boundary after it (R204, R217, R219, R350, R357). -/

namespace Sys2Proof.Machine

variable {s d t : State} {p : Plan}

/-! ### The services once a step has ended -/

/-- The services after step `n`, but for its loss scale, for the work that it leaves behind and for its report. -/
def Svc.closed (v : Svc) (n : Nat) (skip : Bool) : Svc :=
  { v with last := n, step := (n + 1) % 2 ^ 64, inStep := false, fReleased := 0, bReleased := 0, nonfinite := [], met := [],
           skipped := if skip then v.skipped + 1 else v.skipped, stepsLeft := v.stepsLeft.map fun k => k - 1 }

/-- The services after a step, but for the work that it leaves behind and its report. -/
def Svc.stepEnded (v : Svc) (p : Plan) (skip : Bool) : Svc := (v.scaleAfter p skip).closed v.step skip

theorem Svc.steady_closed (v : Svc) (n : Nat) (skip : Bool) : (v.closed n skip).steady = (v.steady.closed n skip).steady := rfl

theorem Svc.steady_scaleAfter (v : Svc) (p : Plan) (skip : Bool) : (v.scaleAfter p skip).steady = v.steady.scaleAfter p skip := by
  unfold Svc.scaleAfter
  split
  · rfl
  split
  · rfl
  split <;> rename_i h
  · exact (if_pos h).symm
  · exact (if_neg h).symm

/-- What the end of a step writes of the step itself, and the boundary leaves. -/
def Svc.ledger (v : Svc) : Nat × Nat × Bool × Nat × Nat × List (Nat × Nat) × Nat × Nat × Nat :=
  (v.last, v.step, v.inStep, v.fReleased, v.bReleased, v.nonfinite, v.skipped, v.lossScale, v.cleanSteps)

theorem Svc.scaleAfter_frame (v : Svc) (p : Plan) (skip : Bool) : ∃ l c, v.scaleAfter p skip = { v with lossScale := l, cleanSteps := c } := by
  unfold Svc.scaleAfter
  split
  · exact ⟨_, _, rfl⟩
  split
  · exact ⟨_, _, rfl⟩
  split
  · exact ⟨_, _, rfl⟩
  · exact ⟨_, _, rfl⟩

theorem Svc.stepEnded_ledger (v : Svc) (p : Plan) (skip : Bool) : (v.stepEnded p skip).ledger =
    (v.step, (v.step + 1) % 2 ^ 64, false, 0, 0, [], v.skipped + (if skip then 1 else 0), (v.scaleAfter p skip).lossScale, (v.scaleAfter p skip).cleanSteps) := by
  obtain ⟨l, c, h⟩ := v.scaleAfter_frame p skip
  rw [Svc.stepEnded, h]
  cases skip <;> rfl

/-- What the end of a step leaves for the boundary (R350). -/
theorem Svc.stepEnded_keeps (v : Svc) (p : Plan) (skip : Bool) : (v.stepEnded p skip).plan = v.plan ∧ (v.stepEnded p skip).config = v.config ∧
    (v.stepEnded p skip).newConfig = v.newConfig ∧ (v.stepEnded p skip).waiting = v.waiting ∧ (v.stepEnded p skip).lapse = v.lapse ∧
    (v.stepEnded p skip).stopWanted = v.stopWanted ∧ (v.stepEnded p skip).pauseWanted = v.pauseWanted ∧ (v.stepEnded p skip).state = v.state ∧
    (v.stepEnded p skip).stepsLeft = v.stepsLeft.map fun k => k - 1 := by
  obtain ⟨l, c, h⟩ := v.scaleAfter_frame p skip
  rw [Svc.stepEnded, h]
  exact ⟨rfl, rfl, rfl, rfl, rfl, rfl, rfl, rfl, rfl⟩

/-- What services that agree but for the driver's work have in common. -/
theorem Svc.of_steady {v w : Svc} (h : v.steady = w.steady) : v.ledger = w.ledger ∧ v.plan = w.plan ∧ v.config = w.config ∧ v.newConfig = w.newConfig ∧
    v.waiting = w.waiting ∧ v.lapse = w.lapse ∧ v.stopWanted = w.stopWanted ∧ v.pauseWanted = w.pauseWanted ∧ v.state = w.state ∧
    v.stepsLeft = w.stepsLeft := by
  have hf : ∀ {β : Type} (f : Svc → β), f v.steady = f w.steady := fun f => congrArg f h
  exact ⟨hf Svc.ledger, hf Svc.plan, hf Svc.config, hf Svc.newConfig, hf Svc.waiting, hf Svc.lapse, hf Svc.stopWanted, hf Svc.pauseWanted,
    hf Svc.state, hf Svc.stepsLeft⟩

/-! ### The work of the end of a step (R204, R211, R217) -/

/-- The counts of the step, its updates and its flushes. -/
def State.endWork (s : State) (p : Plan) : State :=
  let s1 := (List.range p.layers).foldl (fun s e => s.count e Cnt.blocks (s.blocksOf p e)) s
  if s.skips p then (s1.nonfiniteLayers p).foldl (fun s e => s.count e Cnt.nonfinite 1) s1
  else p.ownTargets.foldl (fun s t => s.flushOne p t) (s1.optimiser p)

/-- The report put in line, and the step closed. -/
def State.stepClosed (s : State) (p : Plan) (n : Nat) (skip : Bool) : State :=
  { s with svc := { (s.svc.scaleAfter p skip).closed n skip with
                      counts := [], saves := [],
                      reports := (s.svc.scaleAfter p skip).reports ++ [{ plan := p, step := n, skip := skip, counts := (s.svc.scaleAfter p skip).counts }] } }

theorem State.stepWork_eq (s : State) (p : Plan) : s.stepWork p = (s.endWork p).stepClosed p s.svc.step (s.skips p) := by
  unfold State.stepWork
  extract_lets n skip s1 s2 v report
  have h : s2 = s.endWork p := rfl
  rw [State.stepClosed, ← h]
  rfl

theorem Drives.endWork {c : Bool} : Drives c s (s.endWork p) := by
  unfold State.endWork
  extract_lets s1
  have hs1 : Drives c s s1 := .foldl (.refl s) fun _ _ h => .count h
  clear_value s1
  exact .ite (.foldl hs1 fun _ _ h => .count h) (.foldl (.optimiser hs1) fun _ _ h => .flushOne h)

/-- A skipped step begins no flush (R217). -/
theorem State.folds_endWork (hskip : s.skips p = true) : (s.endWork p).svc.folds = s.svc.folds := by
  have hcounts : ∀ (f : State → Nat → State) (xs : List Nat) (u : State), (∀ u e, ∃ a b k, f u e = u.count a b k) →
      (xs.foldl f u).svc.folds = u.svc.folds := fun f xs u hf =>
    List.foldlRecOn (motive := fun w => w.svc.folds = u.svc.folds) xs f rfl fun w hw e _ => by
      obtain ⟨a, b, k, h⟩ := hf w e
      rw [h, State.count, hw]
  unfold State.endWork
  extract_lets s1
  rw [if_pos hskip, hcounts _ _ _ fun u e => ⟨_, _, _, rfl⟩]
  exact hcounts _ _ _ fun u e => ⟨_, _, _, rfl⟩

theorem State.steady_stepWork (s : State) (p : Plan) : (s.stepWork p).svc.steady = (s.svc.stepEnded p (s.skips p)).steady := by
  have hscale : ((s.endWork p).svc.scaleAfter p (s.skips p)).steady = (s.svc.scaleAfter p (s.skips p)).steady := by
    rw [Svc.steady_scaleAfter, Svc.steady_scaleAfter, (Drives.endWork (c := true)).steady]
  have hclosed : ((s.endWork p).stepClosed p s.svc.step (s.skips p)).svc.steady =
      (((s.endWork p).svc.scaleAfter p (s.skips p)).closed s.svc.step (s.skips p)).steady := rfl
  rw [State.stepWork_eq, hclosed, Svc.steady_closed, hscale, Svc.stepEnded, Svc.steady_closed (s.svc.scaleAfter p (s.skips p))]

theorem State.sessions_stepWork (s : State) (p : Plan) : (s.stepWork p).sessions = s.sessions := by
  rw [State.stepWork_eq]
  exact (Drives.endWork (c := true)).sessions

/-! ### The boundary without a configuration (R351, R357) -/

/-- The pause or the stop that is due at a boundary. -/
def State.boundaryPause (s : State) : State :=
  if s.svc.lapse then s.pausedBy Code.svcLeaseLapsed
  else if s.svc.stopWanted then s.stopNow
  else if (s.svc.pauseWanted || s.svc.stepsLeft == some 0) && s.svc.state != 3 then s.pauseWith 3 0 else s

/-- The services after the pause or the stop that is due at a boundary. -/
def Svc.boundaryPause (v : Svc) : Svc :=
  if v.lapse then v.paused 3 Code.svcLeaseLapsed
  else if v.stopWanted then v.stopped
  else if (v.pauseWanted || v.stepsLeft == some 0) && v.state != 3 then v.paused 3 0 else v

theorem State.pausedBy_out (s : State) (code : Nat) : s.out <+: (s.pausedBy code).out := by
  obtain ⟨o, ho⟩ := s.pauseWith_frame 3 code
  have hpause : s.out <+: (s.pauseWith 3 code).out := by
    rw [ho]
    exact List.prefix_append _ _
  exact hpause.trans (Drives.alarm (c := false) (.refl (s.pauseWith 3 code))).out

theorem State.boundaryPause_frame (s : State) : s.boundaryPause.svc = s.svc.boundaryPause ∧ s.out <+: s.boundaryPause.out := by
  unfold State.boundaryPause Svc.boundaryPause
  split
  · obtain ⟨m, r, o, h, -⟩ := s.pausedBy_frame Code.svcLeaseLapsed
    refine ⟨by rw [h], s.pausedBy_out _⟩
  split
  · obtain ⟨o, h⟩ := s.stopNow_frame
    rw [h]
    exact ⟨rfl, List.prefix_append _ _⟩
  split
  · obtain ⟨o, h⟩ := s.pauseWith_frame 3 0
    rw [h]
    exact ⟨rfl, List.prefix_append _ _⟩
  · exact ⟨rfl, List.prefix_rfl⟩

theorem Svc.boundaryPause_keeps (v : Svc) (hstep : v.inStep = false) : v.boundaryPause.config = v.config ∧ v.boundaryPause.newConfig = v.newConfig ∧
    v.boundaryPause.waiting = v.waiting ∧ v.boundaryPause.ledger = v.ledger := by
  unfold Svc.boundaryPause
  split
  · exact ⟨rfl, rfl, rfl, rfl⟩
  split
  · refine ⟨rfl, rfl, rfl, ?_⟩
    unfold Svc.ledger
    rw [hstep]
    rfl
  split
  · exact ⟨rfl, rfl, rfl, rfl⟩
  · exact ⟨rfl, rfl, rfl, rfl⟩

theorem State.cfg_of_config (h : s.svc.config = none) (off n : Nat) : s.cfg off n = 0 := by
  rw [State.cfg, h]
  rfl

/-- Without a configuration no checkpoint is due, nothing waits for the boundary, and the loader asks for nothing. -/
theorem State.boundary_of_config (hconfig : s.svc.config = none) (hnew : s.svc.newConfig = none) (hwait : s.svc.waiting = none)
    (hstep : s.svc.inStep = false) (n : Nat) : s.boundary n = s.boundaryPause := by
  have hckpt : ¬ (s.ckptDue n && !s.svc.lapse && !s.svc.checkpoint) = true := by simp [State.ckptDue, State.cfg_of_config hconfig]
  have hlapse : s.lapseNow = s.pausedBy Code.svcLeaseLapsed := if_pos (by rw [State.cfg_of_config hconfig]; decide)
  have hpauses : s.boundary n = s.boundaryPause.takeWaiting.loaderFetch := by
    unfold State.boundary State.boundaryPause
    dsimp only
    rw [if_neg hckpt, hlapse]
  obtain ⟨hsvc, -⟩ := s.boundaryPause_frame
  obtain ⟨hconfig', hnew', hwait', -⟩ := s.svc.boundaryPause_keeps hstep
  rw [← hsvc] at hconfig' hnew' hwait'
  rw [hpauses, State.takeWaiting_of_none (hnew'.trans hnew) (hwait'.trans hwait), State.loaderFetch_of_config (hconfig'.trans hconfig)]

/-! ### The event of a skipped step (R217, R350) -/

theorem State.mem_event {e : Nat × Session} {kind code a b : Nat} (he : e ∈ s.sessions) (hopened : e.2.opened = true) (hmask : e.2.mask.testBit kind = true) :
    Output.event e.1 kind code a b ∈ (s.event kind code a b).out := by
  have hbit : e.2.mask / 2 ^ kind % 2 = 1 := by
    rw [Nat.testBit_eq_decide_div_mod_eq] at hmask
    exact of_decide_eq_true hmask
  refine List.mem_append_right _ (List.mem_map.2 ⟨e, List.mem_filter.2 ⟨he, ?_⟩, rfl⟩)
  simp [hopened, hbit]

/-- A skipped step's report, where no flush of its step is under way, tells the sessions. -/
theorem State.mem_publish {r : StepReport} {e : Nat × Session} (hfolds : ∀ f ∈ s.svc.folds, f.step ≠ r.step) (hskip : r.skip = true)
    (he : e ∈ s.sessions) (hopened : e.2.opened = true) (hmask : e.2.mask.testBit 1 = true) :
    Output.event e.1 1 Code.rdcNonfinite r.step (r.plan.entryAddr r.step) ∈ (s.publish r).out := by
  have hnone : ¬ (s.svc.folds.any fun f => f.step == r.step && !f.reducing) = true := by
    simp only [List.any_eq_true, Bool.and_eq_true, beq_iff_eq, not_exists, not_and]
    exact fun f hf h => absurd h (hfolds f hf)
  unfold State.publish
  rw [if_neg hnone]
  extract_lets s1 v s2
  have hs1 : Drives false s s1 := .foldl (.refl s) fun _ _ h => .ite (.writeBytes h) h
  rw [hskip]
  exact State.mem_event (s := s2) (hs1.sessions.symm ▸ he) hopened hmask

/-- A step's number is not the next one's. -/
theorem succ_mod_ne (n : Nat) : (n + 1) % 2 ^ 64 ≠ n := by omega

theorem State.mem_drive_of_skip {n : Nat} {e : Nat × Session} (hplan : s.svc.plan = some p) (hstep : s.svc.step ≠ n)
    (hreports : s.svc.reports.map StepReport.head = [(p, n, true)]) (hfolds : ∀ f ∈ s.svc.folds, f.step = s.svc.step)
    (he : e ∈ s.sessions) (hopened : e.2.opened = true) (hmask : e.2.mask.testBit 1 = true) :
    Output.event e.1 1 Code.rdcNonfinite n (p.entryAddr n) ∈ s.drive.out := by
  have hdrive : s.drive = State.publishAll ((((s.collect p).foldAll p).memberFlushes p).issueAll p) := by
    unfold State.drive
    rw [hplan]
  have hbefore : Drives true s ((((s.collect p).foldAll p).memberFlushes p).issueAll p) := .beforeReports (.refl s)
  rw [hdrive]
  generalize (((s.collect p).foldAll p).memberFlushes p).issueAll p = t at hbefore ⊢
  obtain ⟨r, hr, hhead⟩ : ∃ r, t.svc.reports = [r] ∧ r.head = (p, n, true) := by
    have h := (hbefore.reports rfl).trans hreports
    obtain ⟨r, hr, hhead⟩ := List.map_eq_singleton_iff.1 h
    exact ⟨r, hr, hhead⟩
  simp only [StepReport.head, Prod.mk.injEq] at hhead
  obtain ⟨rfl, rfl, hskip⟩ := hhead
  have hpublish : t.publishAll = t.publish r := by
    unfold State.publishAll
    rw [hr]
    rfl
  rw [hpublish]
  refine State.mem_publish (fun f hf => ?_) hskip (hbefore.sessions.symm ▸ he) hopened hmask
  rcases hbefore.folds rfl f hf with h | ⟨g, hg, h⟩
  · exact h ▸ hstep
  · rw [← h, hfolds g hg]
    exact hstep

/-! ### A step ends -/

/-- The module once a step's work is done, the attribution marked and the driver gone on; the boundary follows. -/
def State.stepDone (s : State) (p : Plan) : State := (s.stepWork p).attrMark.drive

theorem State.stepDone_drives (s : State) (p : Plan) : Drives false (s.stepWork p) (s.stepDone p) := .drive (.attrMark (.refl _))

theorem State.steady_stepDone (s : State) (p : Plan) : (s.stepDone p).svc.steady = (s.svc.stepEnded p (s.skips p)).steady :=
  (s.stepDone_drives p).steady.trans (s.steady_stepWork p)

/-- The end of a skipped step tells the sessions (R217). -/
theorem State.mem_stepDone_of_skip {e : Nat × Session} (hplan : s.svc.plan = some p) (hskip : s.skips p = true) (hfolds : s.svc.folds = [])
    (hreports : s.svc.reports = []) (he : e ∈ s.sessions) (hopened : e.2.opened = true) (hmask : e.2.mask.testBit 1 = true) :
    Output.event e.1 1 Code.rdcNonfinite s.svc.step (p.entryAddr s.svc.step) ∈ (s.stepDone p).out := by
  have hmark : Drives true (s.stepWork p) (s.stepWork p).attrMark := .attrMark (.refl _)
  have hended : (s.stepWork p).svc.plan = some p ∧ (s.stepWork p).svc.step = (s.svc.step + 1) % 2 ^ 64 := by
    have h := s.steady_stepWork p
    obtain ⟨hp, -⟩ := s.svc.stepEnded_keeps p (s.skips p)
    exact ⟨(congrArg Svc.plan h).trans (hp.trans hplan), congrArg Svc.step h⟩
  obtain ⟨hplan', hstep'⟩ := hended
  have hline : (s.stepWork p).svc.reports.map StepReport.head = [(p, s.svc.step, true)] := by
    have hnone : (s.endWork p).svc.reports = [] := by
      have h := (Drives.endWork (c := true) (s := s) (p := p)).reports rfl
      rw [hreports] at h
      exact List.map_eq_nil_iff.1 h
    obtain ⟨l, c, hscale⟩ := (s.endWork p).svc.scaleAfter_frame p (s.skips p)
    rw [State.stepWork_eq, State.stepClosed, hscale, hskip]
    dsimp only
    rw [hnone]
    rfl
  have hnofolds : (s.stepWork p).svc.folds = [] := by
    have h := State.folds_endWork hskip
    obtain ⟨l, c, hscale⟩ := (s.endWork p).svc.scaleAfter_frame p (s.skips p)
    rw [State.stepWork_eq, State.stepClosed, hscale]
    exact h.trans hfolds
  refine State.mem_drive_of_skip ((congrArg Svc.plan hmark.steady).trans hplan') ?_ ((hmark.reports rfl).trans hline) (fun f hf => ?_)
    (hmark.sessions.symm ▸ s.sessions_stepWork p ▸ he) hopened hmask
  · rw [hmark.step, hstep']
    exact succ_mod_ne _
  · rcases hmark.folds rfl f hf with h | ⟨g, hg, -⟩
    · rw [h, hmark.step]
    · rw [hnofolds] at hg
      exact absurd hg List.not_mem_nil

theorem exec_stepEnd (hplan : s.drive.svc.plan = some p) : exec .stepEnd s = .next
    (if s.drive.svc.inStep && s.drive.stepOver p && (s.drive.svc.state == 1 || s.drive.svc.state == 2)
     then (s.drive.stepDone p).boundary s.drive.svc.step else s.drive) := by
  refine congrArg Host.Outcome.next ?_
  unfold State.stepEnds
  extract_lets d v
  have hv : v.plan = some p := hplan
  rw [hv]
  rfl

theorem stepEnd_idle (h : s.drive.svc.plan = none ∨ s.drive.svc.inStep = false ∨ (∃ p, s.drive.svc.plan = some p ∧ s.drive.stepOver p = false) ∨
    (s.drive.svc.state ≠ 1 ∧ s.drive.svc.state ≠ 2)) : exec .stepEnd s = .next s.drive := by
  cases hplan : s.drive.svc.plan with
  | none =>
    refine congrArg Host.Outcome.next ?_
    unfold State.stepEnds
    extract_lets d v
    have hv : v.plan = none := hplan
    rw [hv]
  | some p =>
    rw [exec_stepEnd hplan, if_neg]
    rcases h with h | h | ⟨q, hq, h⟩ | ⟨h, h'⟩
    · exact absurd (hplan.symm.trans h) (Option.some_ne_none p)
    · simp [h]
    · obtain rfl : p = q := Option.some_inj.1 (hplan.symm.trans hq)
      simp [h]
    · simp [h, h']

/-- The loss scale after a step (R204, R217). -/
theorem Svc.scaleAfter_results (v : Svc) (p : Plan) (skip : Bool) :
    (p.fp16 = false → (v.scaleAfter p skip).lossScale = 0) ∧
    (p.fp16 = true → skip = true → (v.scaleAfter p skip).lossScale = v.lossScale - 1 ∧ (v.scaleAfter p skip).cleanSteps = 0) ∧
    (p.fp16 = true → skip = false → v.cleanSteps + 1 = p.num 14 2 →
      (v.scaleAfter p skip).lossScale = min (v.lossScale + 1) 24 ∧ (v.scaleAfter p skip).cleanSteps = 0) ∧
    (p.fp16 = true → skip = false → v.cleanSteps + 1 ≠ p.num 14 2 →
      (v.scaleAfter p skip).lossScale = v.lossScale ∧ (v.scaleAfter p skip).cleanSteps = v.cleanSteps + 1) := by
  unfold Svc.scaleAfter
  refine ⟨fun hf => ?_, fun hf hs => ?_, fun hf hs hc => ?_, fun hf hs hc => ?_⟩
  · simp [hf]
  · simp [hf, hs]
  · simp [hf, hs, hc]
  · simp [hf, hs, hc]

/-- What is due at a boundary, for a step driver that runs or will pause. -/
theorem Svc.boundaryPause_results (v : Svc) :
    (v.lapse = true → v.boundaryPause.state = 3 ∧ v.boundaryPause.reason = Code.svcLeaseLapsed) ∧
    (v.lapse = false → v.stopWanted = true → v.boundaryPause.state = 4 ∧ v.boundaryPause.plan = none) ∧
    (v.lapse = false → v.stopWanted = false → v.pauseWanted = true ∨ v.stepsLeft = some 0 → v.boundaryPause.state = 3 ∧ v.boundaryPause.plan = v.plan) ∧
    (v.lapse = false → v.stopWanted = false → v.pauseWanted = false → v.stepsLeft = none → v.boundaryPause = v) := by
  unfold Svc.boundaryPause
  refine ⟨fun hl => ?_, fun hl hs => ?_, fun hl hs hp => ?_, fun hl hs hp hn => ?_⟩
  · rw [if_pos hl]
    exact ⟨rfl, rfl⟩
  · rw [if_neg (by rw [hl]; decide), if_pos hs]
    exact ⟨rfl, rfl⟩
  · have hdue : (v.pauseWanted || v.stepsLeft == some 0) = true := by
      rcases hp with h | h <;> simp [h]
    rw [if_neg (by rw [hl]; decide), if_neg (by rw [hs]; decide), hdue]
    by_cases hstate : v.state = 3
    · simp [hstate]
    · rw [if_pos (by simp [hstate])]
      exact ⟨rfl, rfl⟩
  · simp [hl, hs, hp, hn]

theorem stepEnd_results (hplan : s.drive.svc.plan = some p) (hstep : s.drive.svc.inStep = true) (hover : s.drive.stepOver p = true)
    (hstate : s.drive.svc.state = 1 ∨ s.drive.svc.state = 2) (hconfig : s.drive.svc.config = none) (hwait : s.drive.svc.waiting = none)
    (hnew : s.drive.svc.newConfig = none) :
    let d := s.drive
    let n := d.svc.step
    let skip := d.skips p
    ∃ u, exec .stepEnd s = .next u ∧ u.svc.last = n ∧ u.svc.step = (n + 1) % 2 ^ 64 ∧ u.svc.inStep = false ∧ u.svc.fReleased = 0 ∧ u.svc.bReleased = 0 ∧
      u.svc.nonfinite = [] ∧ u.svc.skipped = d.svc.skipped + (if skip then 1 else 0) ∧
      (p.fp16 = false → u.svc.lossScale = 0) ∧ (p.fp16 = true → skip = true → u.svc.lossScale = d.svc.lossScale - 1 ∧ u.svc.cleanSteps = 0) ∧
      (p.fp16 = true → skip = false → d.svc.cleanSteps + 1 = p.num 14 2 → u.svc.lossScale = min (d.svc.lossScale + 1) 24 ∧ u.svc.cleanSteps = 0) ∧
      (p.fp16 = true → skip = false → d.svc.cleanSteps + 1 ≠ p.num 14 2 → u.svc.lossScale = d.svc.lossScale ∧ u.svc.cleanSteps = d.svc.cleanSteps + 1) ∧
      (skip = true → d.svc.folds = [] → d.svc.reports = [] → ∀ e ∈ s.sessions, e.2.opened = true → e.2.mask.testBit 1 = true →
        Output.event e.1 1 Code.rdcNonfinite n (p.entryAddr n) ∈ u.out) ∧
      (d.svc.lapse = true → u.svc.state = 3 ∧ u.svc.reason = Code.svcLeaseLapsed ∧ u.rel.alert = true) ∧
      (d.svc.lapse = false → d.svc.stopWanted = true → u.svc.state = 4 ∧ u.svc.plan = none) ∧
      (d.svc.lapse = false → d.svc.stopWanted = false → (d.svc.pauseWanted = true ∨ d.svc.stepsLeft = some 1 ∨ d.svc.stepsLeft = some 0) →
        u.svc.state = 3 ∧ u.svc.plan = some p) ∧
      (d.svc.lapse = false → d.svc.stopWanted = false → d.svc.pauseWanted = false → d.svc.stepsLeft = none →
        u.svc.state = d.svc.state ∧ u.svc.plan = some p) := by
  have hexec : exec .stepEnd s = .next ((s.drive.stepDone p).boundary s.drive.svc.step) := by
    rw [exec_stepEnd hplan, if_pos]
    rcases hstate with h | h <;> simp [hstep, hover, h]
  have hsessions : s.drive.sessions = s.sessions := (Drives.drive (.refl s)).sessions
  generalize s.drive = d at *
  extract_lets _ n skip
  have hended : (d.stepDone p).svc.steady = (d.svc.stepEnded p skip).steady := d.steady_stepDone p
  have hevent : skip = true → d.svc.folds = [] → d.svc.reports = [] → ∀ e ∈ s.sessions, e.2.opened = true → e.2.mask.testBit 1 = true →
      Output.event e.1 1 Code.rdcNonfinite n (p.entryAddr n) ∈ (d.stepDone p).out := fun hskip hfolds hreports e he ho hm =>
    State.mem_stepDone_of_skip hplan hskip hfolds hreports (hsessions.symm ▸ he) ho hm
  generalize d.stepDone p = w at hexec hended hevent
  clear_value skip
  obtain ⟨hbegins, hbplan, hbconfig, hbnew, hbwait, hblapse, hbstop, hbpause, hbstate, hbleft⟩ := Svc.of_steady hended
  obtain ⟨heplan, heconfig, henew, hewait, helapse, hestop, hepause, hestate, heleft⟩ := d.svc.stepEnded_keeps p skip
  obtain ⟨hscale0, hscale1, hscale2, hscale3⟩ := d.svc.scaleAfter_results p skip
  have hbstep : w.svc.inStep = false := congrArg (fun x => x.2.2.1) (hbegins.trans (Svc.stepEnded_ledger _ _ _))
  have hboundary : w.boundary n = w.boundaryPause := State.boundary_of_config (hbconfig.trans (heconfig.trans hconfig))
    (hbnew.trans (henew.trans hnew)) (hbwait.trans (hewait.trans hwait)) hbstep n
  obtain ⟨hsvc, hout⟩ := w.boundaryPause_frame
  obtain ⟨hlapses, hstops, hpauses, hruns⟩ := w.svc.boundaryPause_results
  obtain ⟨-, -, -, hledger⟩ := w.svc.boundaryPause_keeps hbstep
  have halert : w.svc.lapse = true → w.boundaryPause.rel.alert = true := fun h => by
    rw [State.boundaryPause, if_pos h]
    exact State.alarm_alert _ _ _ _
  rw [hboundary] at hexec
  refine ⟨_, hexec, ?_⟩
  rw [hblapse, helapse] at hlapses hstops hpauses hruns halert
  rw [hbstop, hestop] at hstops hpauses hruns
  rw [hbpause, hepause, hbleft, heleft, hbplan, heplan, hplan] at hpauses
  rw [hbpause, hepause, hbleft, heleft] at hruns
  rw [← hsvc] at hlapses hstops hpauses hruns hledger
  generalize w.boundaryPause = u at *
  replace hledger : u.svc.ledger = _ := hledger.trans (hbegins.trans (Svc.stepEnded_ledger _ _ _))
  simp only [Svc.ledger, Prod.mk.injEq] at hledger
  obtain ⟨hlast, hstepn, hin, hf, hb, hnon, hskipped, hloss, hclean⟩ := hledger
  rw [hloss, hclean]
  refine ⟨hlast, hstepn, hin, hf, hb, hnon, hskipped, hscale0, hscale1, hscale2, hscale3, fun hskip hfolds hreports e he ho hm => ?_, fun hl => ?_, hstops,
    fun hl hs hp => hpauses hl hs (hp.imp_right ?_), fun hl hs hp hn => ?_⟩
  · exact hout.subset (hevent hskip hfolds hreports e he ho hm)
  · obtain ⟨h3, hreason⟩ := hlapses hl
    exact ⟨h3, hreason, halert hl⟩
  · rintro (h | h) <;> rw [h] <;> rfl
  · rw [hruns hl hs hp (by rw [hn]; rfl), hbstate, hestate, hbplan, heplan]
    exact ⟨rfl, hplan⟩

end Sys2Proof.Machine
end

section
/-! PROOFS. O48: a report's entries (R219, R350), the delta of a block that the mask turns off (R210), the lease, the checkpoint and the
health datagram (R354, R356, R357). -/

namespace Sys2Proof.Machine

variable {s u : State} {p : Plan}

/-! ### A write that is clean stays clean -/

theorem Memory.poisoned_writeList (m : Memory) (a : Nat) (bs : List Byte) : (m.writeList a bs).poisoned = m.poisoned := by
  induction bs generalizing m a with
  | nil => rfl
  | cons b bs ih => rw [Memory.writeList, ih, Memory.write_poisoned]

theorem State.isPoisoned_of_writeBytes {a : Nat} {bs : List Byte} {b : Nat} (h : (s.writeBytes a bs).isPoisoned b = true) : s.isPoisoned b = true := by
  unfold State.isPoisoned at h ⊢
  rw [show (s.writeBytes a bs).regions = s.regions from rfl] at h
  cases hstack : mapStack s.regions b with
  | none =>
    rw [hstack] at h
    exact h
  | some x =>
    rw [hstack] at h
    have hx : x ∈ (s.writeBytes a bs).mem.poisoned := List.contains_iff_mem.1 h
    refine List.contains_iff_mem.2 ?_
    rw [← s.mem.poisoned_writeList a bs]
    exact List.mem_of_mem_filter hx

/-- An access without error stays so after a write: writing only clears poison. -/
theorem State.accessErr_writeBytes {ue : List Nat} {a n x : Nat} {w : Bool} {bs : List Byte} (h : s.accessErr ue a n w = none) :
    (s.writeBytes x bs).accessErr ue a n w = none := by
  have hmap : (s.writeBytes x bs).firstUnmapped a n = s.firstUnmapped a n := State.firstUnmapped_congr rfl rfl rfl a n
  have hcap : (s.writeBytes x bs).get .capMemoryScratchKib = s.get .capMemoryScratchKib := rfl
  have hpoison : ∀ b, (s.writeBytes x bs).isPoisoned b = true → s.isPoisoned b = true := fun b => State.isPoisoned_of_writeBytes
  unfold State.accessErr at h ⊢
  rw [hmap, hcap]
  generalize s.writeBytes x bs = v at hpoison
  cases hm : s.firstUnmapped a n with
  | some y => simp [hm] at h
  | none =>
    rw [hm] at h
    dsimp only at h ⊢
    rw [List.findSome?_eq_none_iff] at h ⊢
    intro b hb
    have hclean := h b hb
    split at hclean
    · simp at hclean
    · next hpoisoned =>
      rw [if_neg fun hv => hpoisoned ?_]
      · exact hclean
      · obtain ⟨hb', hwhole⟩ := (Bool.and_eq_true _ _).mp hv
        exact (Bool.and_eq_true _ _).mpr ⟨hpoison b hb', hwhole⟩

/-! ### A report's entries (R219, R350) -/

/-- Where a report holds the entry of a layer. -/
def StepReport.entryAt (r : StepReport) (e : Nat) : Nat := r.plan.entryAddr r.step + 64 * recNum (r.plan.layer e) 28 4

/-- The entry of a layer: its identifier, the step and its counts. -/
def StepReport.entryBytes (r : StepReport) (e : Nat) : List Byte :=
  leBytes 4 (recNum (r.plan.layer e) 0 4) ++ leBytes 4 (r.step % 2 ^ 32) ++ countBytes r.counts (recFlag (r.plan.layer e) 1) e ++ leBytes 12 0

theorem length_countBytes (m : SMap Nat) (mixes : Bool) (e : Nat) : (countBytes m mixes e).length = 44 := by
  simp [countBytes, List.zipIdx, List.flatMap_cons]

theorem StepReport.length_entryBytes (r : StepReport) (e : Nat) : (r.entryBytes e).length = 64 := by
  simp [StepReport.entryBytes, length_countBytes]

theorem reportLayer_eq (r : StepReport) (s : State) (e : Nat) :
    reportLayer r s e = if (s.accessErr [] (r.entryAt e) 64 true).isNone then s.writeBytes (r.entryAt e) (r.entryBytes e) else s := rfl

theorem accessErr_reportLayer {r : StepReport} {a e : Nat} (h : s.accessErr [] a 64 true = none) : (reportLayer r s e).accessErr [] a 64 true = none := by
  rw [reportLayer_eq]
  split
  · exact State.accessErr_writeBytes h
  · exact h

theorem readBytes_reportLayer {r : StepReport} {e : Nat} (h : s.accessErr [] (r.entryAt e) 64 true = none) :
    (reportLayer r s e).readBytes (r.entryAt e) 64 = r.entryBytes e := by
  rw [reportLayer_eq, if_pos (by rw [h]; rfl)]
  have hread := s.readBytes_writeBytes (r.entryAt e) (r.entryBytes e)
  rwa [StepReport.length_entryBytes] at hread

/-- The entry of another layer stays. -/
theorem readBytes_reportLayer_ne {r : StepReport} {e y : Nat} (h : recNum (r.plan.layer y) 28 4 ≠ recNum (r.plan.layer e) 28 4) :
    (reportLayer r s y).readBytes (r.entryAt e) 64 = s.readBytes (r.entryAt e) 64 := by
  rw [reportLayer_eq]
  split
  · refine State.readBytes_apart _ _ _ _ _ ?_
    rw [StepReport.length_entryBytes, StepReport.entryAt, StepReport.entryAt]
    omega
  · rfl

theorem readBytes_publish {r : StepReport} {e : Nat} (hfolds : ∀ f ∈ s.svc.folds, f.step = r.step → f.reducing = true) (he : e < r.plan.layers)
    (hplaces : ∀ x y, x < r.plan.layers → y < r.plan.layers → recNum (r.plan.layer x) 28 4 = recNum (r.plan.layer y) 28 4 → x = y)
    (h : s.accessErr [] (r.entryAt e) 64 true = none) : (s.publish r).readBytes (r.entryAt e) 64 = r.entryBytes e := by
  have hnone : ¬ (s.svc.folds.any fun f => f.step == r.step && !f.reducing) = true := by
    simp only [List.any_eq_true, Bool.and_eq_true, beq_iff_eq, Bool.not_eq_true', not_exists, not_and]
    intro f hf hstep
    simp [hfolds f hf hstep]
  have hwritten : (((List.range r.plan.layers).foldl (reportLayer r) s).readBytes (r.entryAt e) 64) = r.entryBytes e := by
    refine foldl_reaches (f := reportLayer r) (I := fun u => u.accessErr [] (r.entryAt e) 64 true = none)
      (P := fun u => u.accessErr [] (r.entryAt e) 64 true = none ∧ u.readBytes (r.entryAt e) 64 = r.entryBytes e)
      (List.mem_range.2 he) h (fun u y _ hu => accessErr_reportLayer hu) (fun u hu => ⟨accessErr_reportLayer hu, readBytes_reportLayer hu⟩)
      (fun u y hy hu => ⟨accessErr_reportLayer hu.1, ?_⟩) |>.2
    obtain ⟨hclean, hread⟩ := hu
    by_cases hye : y = e
    · rw [hye]
      exact readBytes_reportLayer hclean
    · rw [readBytes_reportLayer_ne fun hp => hye (hplaces y e (List.mem_range.1 hy) he hp), hread]
  unfold State.publish
  rw [if_neg hnone]
  exact hwritten

/-! ### The delta of a block that the mask turns off (R210) -/

theorem maskBit_eq {i j : Nat} (hj : j < 1024) : maskBit (1024 * i + j) = 8 * (i / 128) + j / 128 := by
  rw [maskBit]
  omega

theorem State.deltaOf_of_masked {t : FlushTarget} {i j : Nat} (hj : j < 1024) (hmask : s.svc.masks.getD t.entry [] ≠ [])
    (hoff : ((s.svc.masks.getD t.entry []).getD t.word 0).testBit (8 * (i / 128) + j / 128) = false) : s.deltaOf t (1024 * i + j) = 0 := by
  have hblock : s.blockOn t.entry (t.word, maskBit (1024 * i + j)) = false := by
    rw [maskBit_eq hj, State.blockOn]
    dsimp only
    rw [hoff, Bool.or_false]
    exact List.isEmpty_eq_false_iff.2 hmask
  unfold State.deltaOf
  exact if_pos (by rw [hblock, Bool.not_false, Bool.or_true])

/-! ### The lease (R357) -/

/-- What a lapsed lease leaves to do once its timer is off. -/
theorem State.leaseLapsed_eq (s : State) (hrun : s.svc.leaseRunning = true) (hplan : s.svc.plan ≠ none) : s.leaseLapsed =
    if s.svc.inStep && (s.svc.state == 1 || s.svc.state == 2)
    then { s with svc := { s.svc with leaseRunning := false, lapse := true, state := 2 } }
    else State.lapseNow { s with svc := { s.svc with leaseRunning := false } } := by
  have hon : ¬ (!s.svc.leaseRunning) = true := by simp [hrun]
  have hsome : ¬ s.svc.plan.isNone = true := by simpa using hplan
  exact (if_neg hon).trans ((if_neg hsome).trans rfl)

theorem State.pausedBy_results (s : State) {code : Nat} (hc : code < 65536) : ∃ u, s.pausedBy code = u ∧
    u = { s with free := u.free, mem := u.mem, rel := u.rel, svc := u.svc, out := u.out } ∧ u.svc.state = 3 ∧ u.svc.reason = code ∧
    u.rel.alert = true ∧ s.Logged u code unitModule := by
  have hlogged := s.pausedBy_logged hc
  obtain ⟨m, r, o, h, halert⟩ := s.pausedBy_frame code
  refine ⟨_, rfl, ?_⟩
  generalize s.pausedBy code = u at *
  subst h
  exact ⟨rfl, rfl, rfl, halert, hlogged⟩

/-- A request originated is the last that its queue pair waits for, and goes to the port. -/
theorem State.originate_results (s : State) (n : Nat) (r₀ : RoceReq) : ∃ r : RoceReq, ((s.originate n r₀).qp n).out = (s.qp n).out ++ [r] ∧
    r.read = r₀.read ∧ r.len = r₀.len ∧ (s.originate n r₀).out = s.out ++ [r.packet n (s.qp n)] ∧ (s.originate n r₀).svc = s.svc ∧
    (s.originate n r₀).mem = s.mem := by
  refine ⟨{ r₀ with psn := (s.qp n).sendPsn, sync := Config.roceCounter n }, ?_, rfl, rfl, rfl, rfl, rfl⟩
  unfold State.originate
  exact congrArg Qp.out ((State.qp_setQp _ _ _ _).trans (if_pos rfl))

/-- The services while a checkpoint is sent. -/
def Svc.checkpointing (v : Svc) (lapsed : Bool) : Svc :=
  { v with checkpoint := true, pausing := if lapsed then some Code.svcLeaseLapsed else none }

/-- The checkpoint begins, where a queue pair serves it and it fits (R354). -/
theorem State.startCheckpoint_of_served (s : State) (lapsed : Bool) (hqp : s.cfg 40 2 ≠ 0xFFFF) (hopened : (s.qp (s.cfg 40 2)).opened = true)
    (herror : (s.qp (s.cfg 40 2)).error = false) (hfits : Config.freeNat s.free ≤ s.cfg 80 8) : s.startCheckpoint lapsed =
    State.originate { s.tick with svc := s.svc.checkpointing lapsed } (s.cfg 40 2)
      { read := false, place := 0, len := Config.freeNat s.free, rkey := s.cfg 68 4, va := s.cfg 72 8 } := by
  have hserved : ¬ (decide (s.cfg 40 2 = 0xFFFF) || !(s.qp (s.cfg 40 2)).opened || (s.qp (s.cfg 40 2)).error ||
      decide (s.cfg 80 8 < Config.freeNat s.free)) = true := by
    simp [hqp, hopened, herror, hfits]
  exact (if_neg hserved).trans rfl

theorem svcLeaseLapsed_results (s : State) :
    (s.svc.leaseRunning = false → exec .svcLeaseLapsed s = .next s) ∧
    (s.svc.leaseRunning = true → s.svc.plan = none → exec .svcLeaseLapsed s = .next { s with svc := { s.svc with leaseRunning := false } }) ∧
    (s.svc.leaseRunning = true → s.svc.plan ≠ none → s.svc.inStep = true → s.svc.state = 1 ∨ s.svc.state = 2 →
      exec .svcLeaseLapsed s = .next { s with svc := { s.svc with leaseRunning := false, lapse := true, state := 2 } }) ∧
    (s.svc.leaseRunning = true → s.svc.plan ≠ none → s.svc.inStep = false ∨ (s.svc.state ≠ 1 ∧ s.svc.state ≠ 2) →
      (s.cfg 3 1 ≠ 1 → ∃ u, exec .svcLeaseLapsed s = .next u ∧
        u = { s with free := u.free, mem := u.mem, rel := u.rel, svc := u.svc, out := u.out } ∧ u.svc.state = 3 ∧ u.svc.reason = Code.svcLeaseLapsed ∧
        u.rel.alert = true ∧ s.Logged u Code.svcLeaseLapsed unitModule) ∧
      (s.cfg 3 1 = 1 → s.svc.checkpoint = true → exec .svcLeaseLapsed s = .next { s with
        svc := { s.svc with leaseRunning := false, state := if s.svc.state = 1 then 2 else s.svc.state, pausing := some Code.svcLeaseLapsed } }) ∧
      (s.cfg 3 1 = 1 → s.svc.checkpoint = false →
        let m := s.cfg 40 2
        m ≠ 0xFFFF → (s.qp m).opened = true → (s.qp m).error = false → Config.freeNat s.free ≤ s.cfg 80 8 → ∃ u r, exec .svcLeaseLapsed s = .next u ∧
          u.svc.checkpoint = true ∧ u.svc.pausing = some Code.svcLeaseLapsed ∧ u.svc.state = (if s.svc.state = 1 then 2 else s.svc.state) ∧
          (u.qp m).out = (s.qp m).out ++ [r] ∧ r.read = false ∧ r.len = Config.freeNat s.free ∧ u.out = s.out ++ [r.packet m (s.qp m)] ∧ u.mem = s.mem)) := by
  have hexec : exec .svcLeaseLapsed s = .next s.leaseLapsed := rfl
  refine ⟨fun hoff => ?_, fun hrun hplan => ?_, fun hrun hplan hstep hstate => ?_, fun hrun hplan hidle => ?_⟩
  · exact congrArg Host.Outcome.next (if_pos (by rw [hoff]; rfl))
  · exact congrArg Host.Outcome.next ((if_neg (by rw [hrun]; decide)).trans (if_pos (by rw [hplan]; rfl)))
  · rw [hexec, s.leaseLapsed_eq hrun hplan, if_pos]
    rcases hstate with h | h <;> simp [hstep, h]
  · have hnow : s.leaseLapsed = State.lapseNow { s with svc := { s.svc with leaseRunning := false } } := by
      rw [s.leaseLapsed_eq hrun hplan, if_neg]
      rcases hidle with h | ⟨h, h'⟩
      · simp [h]
      · simp [h, h']
    rw [hexec, hnow]
    refine ⟨fun haction => ?_, fun haction hckpt => ?_, fun haction hckpt => ?_⟩
    · obtain ⟨u, hu, hframe, hstate, hreason, halert, hlogged⟩ :=
        State.pausedBy_results { s with svc := { s.svc with leaseRunning := false } } (code := Code.svcLeaseLapsed) (by decide)
      exact ⟨u, congrArg Host.Outcome.next ((if_pos haction).trans hu), hframe, hstate, hreason, halert, hlogged⟩
    · exact congrArg Host.Outcome.next ((if_neg (not_not.2 haction)).trans ((if_pos hckpt).trans rfl))
    · intro m hqp hopened herror hfits
      have hnone : ¬ s.svc.checkpoint = true := by rw [hckpt]; decide
      have hstart := State.startCheckpoint_of_served
        { s with svc := { s.svc with leaseRunning := false, state := if s.svc.state = 1 then 2 else s.svc.state } } true hqp hopened herror hfits
      obtain ⟨r, hout, hread, hlen, hport, hsvc, hmem⟩ := State.originate_results
        { s with free := s.free + 1, svc := Svc.checkpointing { s.svc with leaseRunning := false, state := if s.svc.state = 1 then 2 else s.svc.state } true }
        m { read := false, place := 0, len := Config.freeNat s.free, rkey := s.cfg 68 4, va := s.cfg 72 8 }
      refine ⟨_, r, congrArg Host.Outcome.next ((if_neg (not_not.2 haction)).trans ((if_neg hnone).trans hstart)), ?_, ?_, ?_, hout, hread, hlen, hport, hmem⟩
      · exact congrArg Svc.checkpoint hsvc
      · exact congrArg Svc.pausing hsvc
      · exact congrArg Svc.state hsvc

/-! ### The checkpoint (R354) -/

/-- The checkpoint is over: its WRITEs leave their queue pair. -/
def State.ckptEnded (s : State) : State :=
  { s.setQp (s.cfg 40 2) { s.qp (s.cfg 40 2) with out := (s.qp (s.cfg 40 2)).out.filter RoceReq.read } with
    svc := { s.svc with checkpoint := false, pausing := none } }

/-- The pause after a checkpoint that failed, or that a lapsed lease asked for. -/
def State.ckptPause (s : State) (ok : Bool) : State :=
  if s.svc.plan.isNone then s.ckptEnded
  else if !ok then s.ckptEnded.pauseWith 3 Code.svcCkptFail
  else if s.svc.pausing.isSome then s.ckptEnded.pauseWith 3 Code.svcLeaseLapsed else s.ckptEnded

/-- The services after that pause. -/
def Svc.ckptPause (v : Svc) (ok : Bool) : Svc :=
  let w : Svc := { v with checkpoint := false, pausing := none }
  if v.plan.isNone then w else if !ok then w.paused 3 Code.svcCkptFail else if v.pausing.isSome then w.paused 3 Code.svcLeaseLapsed else w

theorem State.checkpointDone_eq (h : s.svc.checkpoint = true) (ok : Bool) :
    s.checkpointDone ok = if s.svc.pausing.isSome then (s.ckptPause ok).alarm Code.svcLeaseLapsed unitModule else s.ckptPause ok :=
  (if_neg (by rw [h]; decide)).trans rfl

theorem State.ckptPause_frame (s : State) (ok : Bool) : ∃ o, s.ckptPause ok = { s.ckptEnded with svc := s.svc.ckptPause ok, out := o } := by
  unfold State.ckptPause Svc.ckptPause
  dsimp only
  split
  · exact ⟨_, rfl⟩
  split
  · obtain ⟨o, h⟩ := s.ckptEnded.pauseWith_frame 3 Code.svcCkptFail
    exact ⟨_, h⟩
  split
  · obtain ⟨o, h⟩ := s.ckptEnded.pauseWith_frame 3 Code.svcLeaseLapsed
    exact ⟨_, h⟩
  · exact ⟨_, rfl⟩

theorem Svc.ckptPause_results (v : Svc) (ok : Bool) : (v.ckptPause ok).checkpoint = false ∧ (v.ckptPause ok).pausing = none ∧
    (ok = true → v.pausing = none → v.ckptPause ok = { v with checkpoint := false, pausing := none }) ∧
    (ok = true → v.pausing ≠ none → v.plan ≠ none → (v.ckptPause ok).state = 3 ∧ (v.ckptPause ok).reason = Code.svcLeaseLapsed) ∧
    (ok = false → v.plan ≠ none → (v.ckptPause ok).state = 3 ∧ (v.ckptPause ok).reason = Code.svcCkptFail) := by
  unfold Svc.ckptPause
  dsimp only
  cases hplan : v.plan with
  | none => simp
  | some p =>
    cases ok with
    | false => simp [Svc.paused]
    | true =>
      cases hpausing : v.pausing with
      | none => simp
      | some c => simp [Svc.paused]

theorem checkpointDone_results (s : State) (ok : Bool) : (s.svc.checkpoint = false → exec (.checkpointDone ok) s = .next s) ∧
    (s.svc.checkpoint = true → ∃ u, exec (.checkpointDone ok) s = .next u ∧ u.svc.checkpoint = false ∧ u.svc.pausing = none ∧
      (u.qp (s.cfg 40 2)).out = (s.qp (s.cfg 40 2)).out.filter RoceReq.read ∧
      (s.svc.pausing = none → u = { s with qps := u.qps, svc := u.svc, out := u.out }) ∧
      (s.svc.pausing ≠ none → u.rel.alert = true) ∧
      (ok = true → s.svc.pausing = none → u.svc = { s.svc with checkpoint := false, pausing := none }) ∧
      (ok = true → s.svc.pausing ≠ none → s.svc.plan ≠ none → u.svc.state = 3 ∧ u.svc.reason = Code.svcLeaseLapsed) ∧
      (ok = false → s.svc.plan ≠ none → u.svc.state = 3 ∧ u.svc.reason = Code.svcCkptFail)) := by
  refine ⟨fun hoff => congrArg Host.Outcome.next (if_pos (by rw [hoff]; rfl)), fun hon => ?_⟩
  have hexec : exec (.checkpointDone ok) s = .next (s.checkpointDone ok) := rfl
  refine ⟨_, hexec, ?_⟩
  obtain ⟨o, hpause⟩ := s.ckptPause_frame ok
  have hqp : (s.ckptEnded.qp (s.cfg 40 2)).out = (s.qp (s.cfg 40 2)).out.filter RoceReq.read :=
    congrArg Qp.out ((State.qp_setQp _ _ _ _).trans (if_pos rfl))
  obtain ⟨hckpt, hnone, hdone, hlapsed, hfailed⟩ := s.svc.ckptPause_results ok
  rw [State.checkpointDone_eq hon]
  cases hpausing : s.svc.pausing with
  | none =>
    rw [Option.isSome_none, if_neg Bool.false_ne_true, hpause]
    exact ⟨hckpt, hnone, hqp, fun _ => rfl, fun h => absurd rfl h, fun hok _ => hdone hok hpausing, fun _ h => absurd rfl h, hfailed⟩
  | some c =>
    have hc : s.svc.pausing ≠ none := by rw [hpausing]; exact Option.some_ne_none c
    rw [Option.isSome_some, if_pos rfl]
    have halert : ((s.ckptPause ok).alarm Code.svcLeaseLapsed unitModule).rel.alert = true := State.alarm_alert _ _ _ _
    obtain ⟨m, r, o', hlog⟩ := (s.ckptPause ok).logCode_frame Code.svcLeaseLapsed unitModule { flags := 1 }
    have hframe : (s.ckptPause ok).alarm Code.svcLeaseLapsed unitModule =
        { s.ckptEnded with free := (s.ckptPause ok).free + 1, mem := m, rel := r, svc := s.svc.ckptPause ok, out := o' } := by
      refine Eq.trans hlog ?_
      rw [hpause]
    generalize (s.ckptPause ok).alarm Code.svcLeaseLapsed unitModule = u at *
    subst hframe
    exact ⟨hckpt, hnone, hqp, nofun, fun _ => halert, nofun, fun hok _ hplan => hlapsed hok hc hplan, hfailed⟩

/-! ### The health datagram (R356) -/

theorem healthDatagram_results (s : State) :
    (s.svc.config ≠ none → s.cfg 64 2 ≠ 0 → s.portOn = true →
      exec .healthDatagram s = .next { s with svc := { s.svc with healthSeq := (s.svc.healthSeq + 1) % 2 ^ 32 }, out := s.out ++ [.datagram s.healthBytes] } ∧
      s.healthBytes.take 4 = [0x48, 0x4C] ++ leBytes 1 s.rel.mode.num ++ leBytes 1 s.svc.state) ∧
    (s.svc.config = none ∨ s.cfg 64 2 = 0 ∨ s.portOn = false → exec .healthDatagram s = .next s) := by
  refine ⟨fun hconfig hms hport => ⟨congrArg Host.Outcome.next ((if_neg ?_).trans rfl), rfl⟩, fun h => congrArg Host.Outcome.next (if_pos ?_)⟩
  · simp [hconfig, hms, hport]
  · rcases h with h | h | h <;> simp [h]

end Sys2Proof.Machine
end

section
open Sys2Proof Sys2Proof.Machine

/-- Settles O48, part by part: what the driver leaves alone as it goes on (`Drives`) carries the end of a step over to the boundary. -/
theorem stepDriverEvents : Obligations.StepDriverEvents :=
  ⟨fun _ _ _ => fun hplan => ⟨fun hdue hhere hk => microBatchRelease_forward_results hplan hdue hhere hk,
      fun h => microBatchRelease_forward_idle hplan h,
      fun hstep hstate hbehind hk hover => microBatchRelease_backward_results hplan hstep hstate hbehind hk hover,
      fun h => microBatchRelease_backward_idle hplan h⟩,
    fun _ _ hplan => svcInputStall_results hplan,
    fun _ _ => fun hplan hstep hover hstate hconfig hwait hnew => stepEnd_results hplan hstep hover hstate hconfig hwait hnew,
    fun _ => fun h => stepEnd_idle h,
    fun _ _ _ hfolds he hplaces => fun h => readBytes_publish hfolds he hplaces h,
    fun _ _ _ _ _ hj hmask hoff => State.deltaOf_of_masked hj hmask hoff,
    svcLeaseLapsed_results, checkpointDone_results, healthDatagram_results⟩

end
